-- ==== Sys2Proof/Word.lean ====
section
/-! DEFINITION. The word types of the machine and the plainest arithmetic on them (R6, R8). -/

namespace Sys2Proof

/-- One byte of memory (R6). -/
abbrev Byte := BitVec 8

/-- A 32-bit register word (R5). -/
abbrev Word := BitVec 32

/-- A 64-bit value: a register pair, an address, a control register (R196). -/
abbrev DWord := BitVec 64

/-- A 96-bit instruction (R170). -/
abbrev IWord := BitVec 96

/-- A 64-byte fetch line, byte 0 in bits [7:0] (R170). -/
abbrev Line := BitVec 512

/-- `truncN(x)` of R8: x modulo 2^N, read as unsigned. -/
def truncN (n : Nat) (x : Int) : Nat := (x % (2 ^ n : Nat)).toNat

/-- `sextN(x)` of R8: the N-bit field x read as two's complement. -/
def sextN (n : Nat) (x : Nat) : Int :=
  let y := x % 2 ^ n
  if 2 * y < 2 ^ n then (y : Int) else (y : Int) - (2 ^ n : Nat)

/-- `satsN(x)` of R8: x clamped to the signed N-bit range. -/
def satsN (n : Nat) (x : Int) : Int :=
  let h : Int := (2 ^ (n - 1) : Nat)
  if x < -h then -h else if h - 1 < x then h - 1 else x

/-- `satuN(x)` of R8: x clamped to the unsigned N-bit range. -/
def satuN (n : Nat) (x : Int) : Int :=
  let m : Int := (2 ^ n : Nat) - 1
  if x < 0 then 0 else if m < x then m else x

/-- `floor(a / 2^k)` and its remainder taken as a bit field: bits [lo+len-1:lo] of a. -/
def bitsOf (a lo len : Nat) : Nat := a / 2 ^ lo % 2 ^ len

end Sys2Proof
end

