-- ==== Sys2Proof/Config.lean ====
section
/-! DEFINITION. What the manual fixes for every part, and the free values: what it leaves open.
Each opaque constant below has no value inside Lean, so no proof can rest on one. -/

namespace Sys2Proof.Config

/-- Free value (log 2): the bits that the manual does not fix, one fresh draw per use number. Used where an engine and a
thread race for a word (R66, R72), for the link word of a block that `balloc` hands out (R257), and for a latch of an
instruction that has no destination register (R50). -/
opaque freeBits : Nat → BitVec 64

/-- Free value (log 2): how many nanoseconds of `%time` (R178) pass in the step of the given number. -/
opaque stepTime : Nat → Nat

/-- Free value (log 9): what performance counter `k` of a core reads at a given use (R178 leaves the events open). -/
opaque pmcValue : Nat → Nat → Nat → BitVec 32

/-- Free value (log 9): which performance counters the control-core firmware has selected an event for when it is loaded in
the step of the given number (R178). -/
opaque pmcSelect : Nat → BitVec 8

/-- Free value (log 13): what an 8-bit immediate stands for at an operand of type lw64, which R179 does not say. -/
opaque lwImm : BitVec 8 → BitVec 64

/-- Free value (log 10): the ECDSA P-256 signature (r then s, 64 bytes) that the security processor makes over a SHA-256
digest at its given use (R344, R368): the manual gives neither the key nor the nonce. -/
opaque sign : Nat → BitVec 256 → BitVec 512

/-- Implementation constant (log 10): SHA-256 of the application-die firmware as measured at boot (R344). -/
opaque appFirmwareHash : BitVec 256

/-- Implementation constant (log 10): SHA-256 of the control-core firmware (R344). -/
opaque ctlFirmwareHash : BitVec 256

/-- Free value (log 11): the bytes of a CONT region (R324, R325), which have no meaning outside the package. -/
opaque contByte : Nat → Nat → BitVec 8

/-- Free value (log 66): the physical frame of a granule of a member's landing, result or flag area, as the members exchanged it when
the launch was validated (R164): launch, package, granule. -/
opaque landFrame : Nat → Nat → Nat → BitVec 23

/-- Free value (log 66): the binding that a member package holds in its record of the same launch differs from this package's, as the
members find when they exchange them in the step of the given number (R164, R310): step, package. -/
opaque bindingDiffers : Nat → Nat → Bool

/-- Free value (log 8): the flits that wait in the output queue of a port when a router chooses (R112): use, port. -/
opaque queueFlits : Nat → Nat → Nat

/-- Free value (log 8): the link from a relay to a destination is down when the source chooses, which the source cannot see (R112):
use, relay, destination. -/
opaque farDown : Nat → Nat → Nat → Bool

/-- Free value (log 34): how the board joins this package to others when its fabric is trained in the step of the given number (R104): its
index, the span size, and the package that each port from 0 on reaches; none where the board is wired as it was. -/
opaque board : Nat → Option (Nat × Nat × List Nat)

/-- Active cores of a package (R3). -/
def cores : Nat := 368
/-- Active and spare application cores (R2). -/
def appCores : Nat := 16
def appSpares : Nat := 2
/-- Active level-2 slices of a package (R3). -/
def slices : Nat := 320
/-- Warp slots of a core (R44). -/
def warpSlots : Nat := 48
/-- Launch queues of a package (R142). -/
def queues : Nat := 64
/-- Local HBM4E below the error-log region (R27). -/
def memTop : Nat := 0x5FF0000000
/-- First physical address that is no local memory (R27). -/
def memEnd : Nat := 0x6000000000
/-- Bytes of a core store (R41). -/
def storeBytes : Nat := 0xC0000
/-- Records of the fault queue (R29). -/
def faultSlots : Nat := 4096
/-- Records of an ownership table (R67). -/
def ownRecords : Nat := 256

end Sys2Proof.Config
end

