-- ==== Sys2Proof/Syntax.lean ====
section
/-! DEFINITION. The syntax of the machine's steps: operands, the six formats (R181 to R186), what a hardware step carries, and
`Instr`, one constructor per row of spec/opcode_table.json. -/

namespace Sys2Proof

/-- The type field TY (R188). -/
inductive Ty where
  | b8 | b16 | b32 | b64 | i8 | i16 | i32 | i64 | n8 | n16 | n32 | n64 | f16 | bf16 | f32 | f64 | e4m3 | e5m2 | lw64
  deriving DecidableEq, Repr

/-- The rounding field RM (R181). -/
inductive Rnd where
  | rne | rtz | rdn | rup | sr
  deriving DecidableEq, Repr

/-- A retention hint (R57). -/
inductive Hint where
  | stream | dflt | sticky | bypass
  deriving DecidableEq, Repr

/-- A scope (R83). -/
inductive Scope where
  | wp | wg | pkg | span
  deriving DecidableEq, Repr

/-- The order an access carries (R83, R183). -/
inductive Order where
  | plain | acq | rel | ar
  deriving DecidableEq, Repr

/-- The flag select FS (R183). -/
inductive FlagSel where
  | none | a | b
  deriving DecidableEq, Repr

/-- A 12-bit operand field (R177). In an access line `main k` is access register ak. -/
inductive Operand where
  | main (k : BitVec 10)
  | opf (k : BitVec 4)
  | latch (k : BitVec 3)
  | queue (k : BitVec 6) (nb : Bool)
  | special (c : BitVec 8)
  | imm (x : BitVec 8)
  | wreg (k : BitVec 6)
  deriving DecidableEq, Repr

/-- The unused operand field 0x000 (R177). -/
abbrev Operand.unused : Operand := .main 0

/-- The guard GRD (R176). It is latched beside the instruction: `Clause.guard`. -/
structure Guard where
  neg : Bool
  pred : BitVec 3
  deriving DecidableEq, Repr

/-- Format A, arithmetic (R181). -/
structure FmtA where
  d : Operand
  a : Operand
  b : Operand
  c : Operand
  rm : Rnd
  ty : Ty
  opm : BitVec 8
  pw : BitVec 3
  deriving DecidableEq, Repr

/-- Format I, immediate (R182). -/
structure FmtI where
  d : Operand
  a : Operand
  rm : Rnd
  ty : Ty
  opm : BitVec 8
  pw : BitVec 3
  imm : BitVec 32
  deriving DecidableEq, Repr

/-- Format M, memory (R183). -/
structure FmtM where
  data : Operand
  addr : Operand
  index : Operand
  off : BitVec 24
  hint : Hint
  scope : Scope
  order : Order
  ty : Ty
  fs : FlagSel
  mmod : BitVec 9
  deriving DecidableEq, Repr

/-- Format B, branch (R184). -/
structure FmtB where
  off : BitVec 24
  slot : BitVec 3
  bar : BitVec 4
  a : Operand
  d : Operand
  deriving DecidableEq, Repr

/-- Format X, matrix and engine (R185). -/
structure FmtX where
  tile : BitVec 3
  swa : BitVec 8
  swb : BitVec 8
  swc : BitVec 8
  ca : Operand
  cb : Operand
  cc : Operand
  xmod : BitVec 16
  fs : FlagSel
  deriving DecidableEq, Repr

/-- Format S, system (R186). -/
structure FmtS where
  pw : BitVec 3
  s7 : BitVec 7
  a : Operand
  b : Operand
  c : Operand
  fs : FlagSel
  imm : BitVec 32
  deriving DecidableEq, Repr

/-- What issues clauses on a core: an issue partition, the access stream whose warp 0 holds a slot, or the control core. -/
inductive Picker where
  | part (p : Nat)
  | stream (slot : Nat)
  | control
  deriving DecidableEq, Repr

/-- A fabric packet (R106): the 32-byte header, byte 0 in bits [7:0], and the payload bytes. -/
structure Packet where
  hdr : BitVec 256
  payload : List Byte
  deriving DecidableEq, Repr

/-- A packet with the port it comes in by (R113, R114). -/
structure Arrival where
  port : Nat
  packet : Packet
  deriving DecidableEq, Repr

/-- The units that count corrected errors (R363), with their index. -/
inductive ErrUnit where
  | core (i : Nat)
  | slice (i : Nat)
  | channel (i : Nat)
  | port (i : Nat)
  | appCore (i : Nat)
  deriving DecidableEq, Repr

/-- What a reset is (R368, R371, R372): every package of the span is reset with this one; the host or the management interface asks for
it, so that a checkpoint precedes it; and step 1 of the bring-up finds the firmware's signature good. -/
structure ResetKind where
  all : Bool
  asked : Bool
  verified : Bool
  deriving DecidableEq, Repr

/-- What an error-detection unit found (R361, R362). -/
inductive ErrKind where
  /-- A single-bit error, or a multi-bit error with a clean copy below it, in an array. -/
  | corrected
  | refetched
  /-- A failing HBM4E row, replaced by a spare row. -/
  | row
  /-- An application core that failed its boot self-test. -/
  | appCore
  /-- Data with no clean copy that cannot be corrected (R362). -/
  | lost
  deriving DecidableEq, Repr

/-- A memory access of an application core or of the PCIe endpoint at a physical address (R83). -/
inductive AppAccess where
  | load (addr : DWord) (n : Nat)
  | store (addr : DWord) (data : List Byte)
  deriving DecidableEq, Repr

/-- Every row of the table of operations and events: the instructions of the opcode map (R189) and the
hardware steps, which have no encoding and reach the machine through the agenda. The guard of an instruction (R176) is held by the clause that issues it. -/
inductive Instr where
  /-- BRA (R207, opcode 0x001). Each issuing lane with a true guard transfers to a label, after the target check; the spin detector watches backward branches. -/
  | bra (f : FmtB)
  /-- BRT (R207, opcode 0x002). Branches to a table entry chosen by an index, or falls through when the index is not below the count. -/
  | brt (f : FmtB)
  /-- BRX (R207, opcode 0x003). Transfers to the target held in a register pair. -/
  | brx (f : FmtB)
  /-- CALL (R207, opcode 0x004). Checks the target, pushes the return address at %sp and transfers; helper lanes use the hidden return stack. -/
  | call (f : FmtB)
  /-- CALLX (R207, opcode 0x005). Indirect call through a register pair. -/
  | callx (f : FmtB)
  /-- ENROL (R135, opcode 0x007). ORs the executing lanes into the mask of divergence barrier bN. -/
  | enrol (f : FmtB)
  /-- REJOIN (R136, opcode 0x008). A lane in bN's mask waits at the barrier; a lane outside the mask passes. -/
  | rejoin (f : FmtB)
  /-- BCLR (R211, opcode 0x009). Removes the executing lanes from bN's mask, then applies the release test. -/
  | bclr (f : FmtB)
  /-- BREAD (R211, opcode 0x00A). Writes bN's mask to a register. -/
  | bread (f : FmtB)
  /-- ADD (R198, opcode 0x040). Integer add, wrapping or saturating. -/
  | add (f : FmtA)
  /-- SUB (R198, opcode 0x041). Integer subtract. -/
  | sub (f : FmtA)
  /-- MUL (R198, opcode 0x042). Integer multiply, low part. -/
  | mul (f : FmtA)
  /-- MULHI (R198, opcode 0x043). High part of an integer product. -/
  | mulhi (f : FmtA)
  /-- MAD (R198, opcode 0x044). Integer multiply-add. -/
  | mad (f : FmtA)
  /-- DIV (R199, opcode 0x045). Integer division truncating toward zero, with a defined result for division by zero. -/
  | div (f : FmtA)
  /-- REM (R199, opcode 0x046). Integer remainder with the sign of the dividend. -/
  | rem (f : FmtA)
  /-- MIN (R198, opcode 0x047). Integer minimum. -/
  | min (f : FmtA)
  /-- MAX (R198, opcode 0x048). Integer maximum. -/
  | max (f : FmtA)
  /-- ABS (R198, opcode 0x049). Integer absolute value. -/
  | abs (f : FmtA)
  /-- NEG (R198, opcode 0x04A). Integer negation. -/
  | neg (f : FmtA)
  /-- AND (R198, opcode 0x04B). Bitwise and. -/
  | and (f : FmtA)
  /-- OR (R198, opcode 0x04C). Bitwise or. -/
  | or (f : FmtA)
  /-- XOR (R198, opcode 0x04D). Bitwise exclusive or. -/
  | xor (f : FmtA)
  /-- NOT (R198, opcode 0x04E). Bitwise not. -/
  | not (f : FmtA)
  /-- SHL (R200, opcode 0x04F). Shift left. -/
  | shl (f : FmtA)
  /-- SHR (R200, opcode 0x050). Shift right, arithmetic for i types and logical otherwise. -/
  | shr (f : FmtA)
  /-- ROT (R200, opcode 0x051). Rotate left. -/
  | rot (f : FmtA)
  /-- POPC (R198, opcode 0x052). Counts the one bits. -/
  | popc (f : FmtA)
  /-- CLZ (R198, opcode 0x053). Counts the leading zero bits. -/
  | clz (f : FmtA)
  /-- CTZ (R198, opcode 0x054). Counts the trailing zero bits. -/
  | ctz (f : FmtA)
  /-- BREV (R198, opcode 0x055). Reverses the bits. -/
  | brev (f : FmtA)
  /-- BFX (R200, opcode 0x056). Extracts a bit field. -/
  | bfx (f : FmtA)
  /-- BFI (R200, opcode 0x057). Inserts a bit field. -/
  | bfi (f : FmtA)
  /-- CMP (R201, opcode 0x058). Compares two integers and writes the outcome to a predicate. -/
  | cmp (f : FmtA)
  /-- SEL (R201, opcode 0x059). Selects one of two sources by a predicate. -/
  | sel (f : FmtA)
  /-- MOV (R198, opcode 0x05A). Moves a value. -/
  | mov (f : FmtA)
  /-- MOVI (R202, opcode 0x05B). Moves a 32-bit immediate, extended as the type requires. -/
  | movi (f : FmtI)
  /-- LUT3 (R201, opcode 0x05C). Three-input bitwise lookup table. -/
  | lut3 (f : FmtA)
  /-- PLUT3 (R201, opcode 0x05D). Three-input predicate lookup table. -/
  | plut3 (f : FmtA)
  /-- PPACK (R201, opcode 0x05E). Packs p0..p7 into a register. -/
  | ppack (f : FmtA)
  /-- PUNPACK (R201, opcode 0x05F). Sets the predicates selected by a mask from bits of a register. -/
  | punpack (f : FmtA)
  /-- LEA (R204, opcode 0x080). Forms a 64-bit address from a base, a scaled index and an offset. -/
  | lea (f : FmtA)
  /-- ADDC (R204, opcode 0x081). Add with carry-in and carry-out predicates. -/
  | addc (f : FmtA)
  /-- SUBC (R204, opcode 0x082). Subtract with borrow-in and borrow-out predicates. -/
  | subc (f : FmtA)
  /-- MULW (R204, opcode 0x083). Exact 64-bit product of two 32-bit values. -/
  | mulw (f : FmtA)
  /-- MADW (R204, opcode 0x084). Widening multiply-add to 64 bits. -/
  | madw (f : FmtA)
  /-- PACK (R204, opcode 0x085). Packs two 32-bit words into a 64-bit pair. -/
  | pack (f : FmtA)
  /-- REGADDR (R204, opcode 0x086). Self-window address of a register of the lane. -/
  | regaddr (f : FmtA)
  /-- PEERADDR (R205, opcode 0x087). Forms a peer-window address, or a non-canonical value when the operand is out of range. -/
  | peeraddr (f : FmtA)
  /-- SPADDR (R205, opcode 0x088). Forms a cluster-scratchpad-window address. -/
  | spaddr (f : FmtA)
  /-- ALIGNUP (R205, opcode 0x089). Rounds an address up to a power of two. -/
  | alignup (f : FmtA)
  /-- INRANGE (R204, opcode 0x08A). Tests whether an address lies in a range. -/
  | inrange (f : FmtA)
  /-- LPC (R205, opcode 0x08B). Writes the program counter of a label. -/
  | lpc (f : FmtB)
  /-- FADD (R218, opcode 0x0C0). Floating add in f32, or packed f16 or bf16. -/
  | fadd (f : FmtA)
  /-- FSUB (R218, opcode 0x0C1). Floating subtract. -/
  | fsub (f : FmtA)
  /-- FMUL (R218, opcode 0x0C2). Floating multiply. -/
  | fmul (f : FmtA)
  /-- FMA (R218, opcode 0x0C3). Fused multiply-add, optionally with the addend negated. -/
  | fma (f : FmtA)
  /-- FADD2 (R220, opcode 0x0C4). Rounded f32 sum together with its exact error. -/
  | fadd2 (f : FmtA)
  /-- FDOT2 (R220, opcode 0x0C5). Two-term packed dot product plus an addend, rounded once. -/
  | fdot2 (f : FmtA)
  /-- FMIN (R219, opcode 0x0C6). Floating minimum that returns the other operand when one is a NaN. -/
  | fmin (f : FmtA)
  /-- FMAX (R219, opcode 0x0C7). Floating maximum that returns the other operand when one is a NaN. -/
  | fmax (f : FmtA)
  /-- FMINP (R219, opcode 0x0C8). Floating minimum that propagates a NaN. -/
  | fminp (f : FmtA)
  /-- FMAXP (R219, opcode 0x0C9). Floating maximum that propagates a NaN. -/
  | fmaxp (f : FmtA)
  /-- FCLAMP (R218, opcode 0x0CA). Clamps a value between two bounds. -/
  | fclamp (f : FmtA)
  /-- FABS (R218, opcode 0x0CB). Clears the sign bit. -/
  | fabs (f : FmtA)
  /-- FNEG (R218, opcode 0x0CC). Inverts the sign bit. -/
  | fneg (f : FmtA)
  /-- FCOPYSIGN (R218, opcode 0x0CD). Copies the sign bit of the second operand. -/
  | fcopysign (f : FmtA)
  /-- FSIGN (R218, opcode 0x0CE). Sign function. -/
  | fsign (f : FmtA)
  /-- FABSDIFF (R218, opcode 0x0CF). Absolute difference. -/
  | fabsdiff (f : FmtA)
  /-- FCMP (R219, opcode 0x0D0). Compares two f32 values and writes the outcome to a predicate. -/
  | fcmp (f : FmtA)
  /-- FCLASS (R219, opcode 0x0D1). Classifies an f32 value. -/
  | fclass (f : FmtA)
  /-- FRND (R218, opcode 0x0D2). Rounds to an integral value. -/
  | frnd (f : FmtA)
  /-- FFRACT (R218, opcode 0x0D3). Fractional part. -/
  | ffract (f : FmtA)
  /-- FSCALE (R218, opcode 0x0D4). Multiplies by a power of two. -/
  | fscale (f : FmtA)
  /-- FGETEXP (R219, opcode 0x0D5). Unbiased exponent. -/
  | fgetexp (f : FmtA)
  /-- FGETMAN (R219, opcode 0x0D6). Mantissa scaled into [1, 2). -/
  | fgetman (f : FmtA)
  /-- FHSEL (R218, opcode 0x0D7). Selects halves of packed operands. -/
  | fhsel (f : FmtA)
  /-- FADD_F64 (R221, opcode 0x100). FP64 add. -/
  | faddF64 (f : FmtA)
  /-- FSUB_F64 (R221, opcode 0x101). FP64 subtract. -/
  | fsubF64 (f : FmtA)
  /-- FMUL_F64 (R221, opcode 0x102). FP64 multiply. -/
  | fmulF64 (f : FmtA)
  /-- FMA_F64 (R221, opcode 0x103). FP64 fused multiply-add. -/
  | fmaF64 (f : FmtA)
  /-- FADD2_F64 (R221, opcode 0x104). FP64 rounded sum together with its error. -/
  | fadd2F64 (f : FmtA)
  /-- FMIN_F64 (R221, opcode 0x105). FP64 minimum. -/
  | fminF64 (f : FmtA)
  /-- FMAX_F64 (R221, opcode 0x106). FP64 maximum. -/
  | fmaxF64 (f : FmtA)
  /-- FCMP_F64 (R221, opcode 0x107). FP64 compare. -/
  | fcmpF64 (f : FmtA)
  /-- FRND_F64 (R221, opcode 0x108). FP64 round to an integral value. -/
  | frndF64 (f : FmtA)
  /-- FDIV_F64 (R221, opcode 0x109). FP64 correctly rounded division. -/
  | fdivF64 (f : FmtA)
  /-- FSQRT_F64 (R221, opcode 0x10A). FP64 correctly rounded square root. -/
  | fsqrtF64 (f : FmtA)
  /-- FCLASS_F64 (R221, opcode 0x10B). FP64 classification. -/
  | fclassF64 (f : FmtA)
  /-- CVT (R223, opcode 0x140). Converts between floating types, optionally with stochastic rounding or satfinite. -/
  | cvt (f : FmtA)
  /-- CVT_F2I (R224, opcode 0x141). Converts a float to a saturated integer. -/
  | cvtF2i (f : FmtA)
  /-- CVT_I2F (R224, opcode 0x142). Converts an integer to a float. -/
  | cvtI2f (f : FmtA)
  /-- CVT_I2I (R224, opcode 0x143). Converts between integer types. -/
  | cvtI2i (f : FmtA)
  /-- CVT_PK2 (R226, opcode 0x144). Converts two f32 values into a packed pair of 16-bit values. -/
  | cvtPk2 (f : FmtA)
  /-- CVT_PK4 (R226, opcode 0x145). Converts four f32 values into packed 8-bit values. -/
  | cvtPk4 (f : FmtA)
  /-- CVT_UNPK2 (R226, opcode 0x146). Unpacks two 16-bit values to f32, exactly. -/
  | cvtUnpk2 (f : FmtA)
  /-- CVT_UNPK4 (R226, opcode 0x147). Unpacks four 8-bit values to f32, exactly. -/
  | cvtUnpk4 (f : FmtA)
  /-- CVTSC (R223, opcode 0x148). Scales by a power of two and converts, with one rounding. -/
  | cvtsc (f : FmtA)
  /-- CVTSC_PK4 (R223, opcode 0x149). Scaled conversion of four values into packed 8-bit values. -/
  | cvtscPk4 (f : FmtA)
  /-- CVT_Q4 (R308, opcode 0x14A). Quantises an f32 to a 4-bit code under a scale byte. -/
  | cvtQ4 (f : FmtA)
  /-- CVT_F32_Q4 (R308, opcode 0x14B). Decodes a 4-bit code to f32, exactly. -/
  | cvtF32Q4 (f : FmtA)
  /-- RCP (R231, opcode 0x180). Reciprocal, correctly rounded or approximate. -/
  | rcp (f : FmtA)
  /-- SQRT (R232, opcode 0x181). Square root. -/
  | sqrt (f : FmtA)
  /-- RSQRT (R232, opcode 0x182). Reciprocal square root. -/
  | rsqrt (f : FmtA)
  /-- FDIV_F32 (R231, opcode 0x183). FP32 division, correctly rounded or approximate. -/
  | fdivF32 (f : FmtA)
  /-- EXP2 (R233, opcode 0x184). Power of two. -/
  | exp2 (f : FmtA)
  /-- LOG2 (R234, opcode 0x185). Base-2 logarithm. -/
  | log2 (f : FmtA)
  /-- EXP (R233, opcode 0x186). Natural exponential. -/
  | exp (f : FmtA)
  /-- LOG (R234, opcode 0x187). Natural logarithm. -/
  | log (f : FmtA)
  /-- SINPI (R235, opcode 0x188). sin(πa). -/
  | sinpi (f : FmtA)
  /-- COSPI (R235, opcode 0x189). cos(πa). -/
  | cospi (f : FmtA)
  /-- TANH (R235, opcode 0x18A). Hyperbolic tangent. -/
  | tanh (f : FmtA)
  /-- LOGISTIC (R235, opcode 0x18B). Logistic function. -/
  | logistic (f : FmtA)
  /-- LD (R239, opcode 0x1C0). Issues a per-lane load, plain or acquiring, with a retention hint; translation, alignment and watchpoint checks come first. -/
  | ld (f : FmtM)
  /-- ST (R239, opcode 0x1C1). Issues a per-lane store, plain or releasing. -/
  | st (f : FmtM)
  /-- LD4 (R239, opcode 0x1C2). Loads 16 bytes into a quadruple. -/
  | ld4 (f : FmtM)
  /-- ST4 (R239, opcode 0x1C3). Stores 16 bytes from a quadruple. -/
  | st4 (f : FmtM)
  /-- LDS (R241, opcode 0x1C4). Loads from the core's scratchpad partition. -/
  | lds (f : FmtM)
  /-- STS (R241, opcode 0x1C5). Stores to the core's scratchpad partition. -/
  | sts (f : FmtM)
  /-- LDS4 (R241, opcode 0x1C6). Loads 16 bytes from scratchpad. -/
  | lds4 (f : FmtM)
  /-- STS4 (R241, opcode 0x1C7). Stores 16 bytes to scratchpad. -/
  | sts4 (f : FmtM)
  /-- STMC (R242, opcode 0x1C8). Sends a multicast store to a group. -/
  | stmc (f : FmtM)
  /-- PF (R243, opcode 0x1C9). Prefetches a line into level 1 or level 2 and never faults. -/
  | pf (f : FmtM)
  /-- LDU (R240, opcode 0x1CA). Loads one value, for the lowest arrived member, into a warp-uniform register. -/
  | ldu (f : FmtM)
  /-- LDL (R241, opcode 0x1CB). Loads from the lane's stack area, relative to %sp. -/
  | ldl (f : FmtM)
  /-- STL (R241, opcode 0x1CC). Stores to the lane's stack area, relative to %sp. -/
  | stl (f : FmtM)
  /-- ZLINE (R239, opcode 0x1CD). Writes zeros to a 128-byte line. -/
  | zline (f : FmtM)
  /-- CWB (R243, opcode 0x1CE). Writes back a line's written bytes from level 1. -/
  | cwb (f : FmtM)
  /-- CINV (R243, opcode 0x1CF). Writes back a line from level 1 and invalidates it. -/
  | cinv (f : FmtM)
  /-- ATOM (R245, opcode 0x200). Integer atomic that returns the old value. -/
  | atom (f : FmtM)
  /-- CAS (R245, opcode 0x201). Compare-and-swap. -/
  | cas (f : FmtM)
  /-- RED (R245, opcode 0x202). Integer atomic reduction that returns nothing. -/
  | red (f : FmtM)
  /-- FATOM (R245, opcode 0x203). Float atomic that returns the old value. -/
  | fatom (f : FmtM)
  /-- FRED (R245, opcode 0x204). Float atomic reduction. -/
  | fred (f : FmtM)
  /-- ATOMINC (R245, opcode 0x205). Bounded atomic increment with a success predicate. -/
  | atominc (f : FmtM)
  /-- ATOMDEC (R245, opcode 0x206). Atomic decrement that stops at zero, with a success predicate. -/
  | atomdec (f : FmtM)
  /-- ATOMS (R244, opcode 0x207). Scratchpad integer atomic. -/
  | atoms (f : FmtM)
  /-- CASS (R244, opcode 0x208). Scratchpad compare-and-swap. -/
  | cass (f : FmtM)
  /-- REDS (R244, opcode 0x209). Scratchpad integer reduction. -/
  | reds (f : FmtM)
  /-- FATOMS (R244, opcode 0x20A). Scratchpad float atomic. -/
  | fatoms (f : FmtM)
  /-- FREDS (R244, opcode 0x20B). Scratchpad float reduction. -/
  | freds (f : FmtM)
  /-- FENCE (R249, opcode 0x240). Acquire, release or two-way fence at a scope. -/
  | fence (f : FmtS)
  /-- WAITA (R250, opcode 0x241). Each lane loads at the point of coherence until a condition holds, parking between tries. -/
  | waita (f : FmtM)
  /-- BAR (R251, opcode 0x242). Arrives at a workgroup barrier and waits; warp 0's first arrival at barrier 0 starts the access stream. -/
  | bar (f : FmtS)
  /-- BAR_ARRIVE (R251, opcode 0x243). Arrives at a workgroup barrier and goes on. -/
  | barArrive (f : FmtS)
  /-- BAR_WAIT (R251, opcode 0x244). Waits until the phase of the lane's last arrival completes. -/
  | barWait (f : FmtS)
  /-- CWAIT (R253, opcode 0x246). Waits until the committed course reaches A, then acquires at span scope. -/
  | cwait (f : FmtS)
  /-- ROWHOLD (R253, opcode 0x249). Writes whether the warp holds the token. -/
  | rowhold (f : FmtS)
  /-- RSEC_BEGIN (R98, opcode 0x24B). Raises the read-section depth; on leaving depth 0 it registers with the tracker and acquires. -/
  | rsecBegin (f : FmtS)
  /-- RSDEPTH (R254, opcode 0x24D). Reads the read-section depth. -/
  | rsdepth (f : FmtA)
  /-- GRACE (R98, opcode 0x24E). Releases at its scope, then the tracker snapshots every warp in a read section. -/
  | grace (f : FmtS)
  /-- DFREE (R255, opcode 0x24F). Pushes one deferred-free entry per lane, waiting while the queue is full. -/
  | dfree (f : FmtS)
  /-- BALLOC (R257, opcode 0x250). Takes a block from a pool's free list at the memory-side unit. -/
  | balloc (f : FmtA)
  /-- BFREE (R257, opcode 0x251). Returns blocks to a pool at once. -/
  | bfree (f : FmtS)
  /-- BPSTAT (R257, opcode 0x252). Reads a pool's free count. -/
  | bpstat (f : FmtA)
  /-- PAUSE (R259, opcode 0x253). Makes the lane ineligible for a number of cycles. -/
  | pause (f : FmtS)
  /-- PUSH (R262, opcode 0x280). Pushes a 32-word entry into a queue; it blocks, or fails when non-blocking, without allowance. -/
  | push (f : FmtA)
  /-- POP (R262, opcode 0x281). Pops an entry from a queue; it blocks, or fails when non-blocking, on an empty queue. -/
  | pop (f : FmtA)
  /-- QPEEK (R262, opcode 0x282). Reads the head entry without removing it. -/
  | qpeek (f : FmtA)
  /-- QCFG (R261, opcode 0x283). Configures a workgroup queue in scratchpad. -/
  | qcfg (f : FmtS)
  /-- QSTAT (R262, opcode 0x284). Reads a queue's entry count and allowance. -/
  | qstat (f : FmtA)
  /-- CPY (R263, opcode 0x285). Issues a one-dimensional copy-channel command. -/
  | cpy (f : FmtS)
  /-- CPY2D (R263, opcode 0x286). Issues a two-dimensional copy-channel command. -/
  | cpy2d (f : FmtS)
  /-- CPYMC (R263, opcode 0x287). Issues a multicast copy-channel command. -/
  | cpymc (f : FmtS)
  /-- CPFILL (R263, opcode 0x288). Issues a copy-channel fill with a pattern. -/
  | cpfill (f : FmtS)
  /-- LDWP (R264, opcode 0x289). Reads a channel's write pointer; the first read of a command drops stale level-1 lines. -/
  | ldwp (f : FmtA)
  /-- WAITWP (R264, opcode 0x28A). Parks lanes until the write pointer reaches a value or SEQ changes. -/
  | waitwp (f : FmtA)
  /-- CPKILL (R264, opcode 0x28B). Kills the channel's current command. -/
  | cpkill (f : FmtS)
  /-- XL_AT (R271, opcode 0x2C0). Shuffle from an indexed lane. -/
  | xlAt (f : FmtA)
  /-- XL_BELOW (R271, opcode 0x2C1). Shuffle from a lower lane. -/
  | xlBelow (f : FmtA)
  /-- XL_ABOVE (R271, opcode 0x2C2). Shuffle from a higher lane. -/
  | xlAbove (f : FmtA)
  /-- XL_XOR (R271, opcode 0x2C3). Butterfly shuffle. -/
  | xlXor (f : FmtA)
  /-- QUADX (R271, opcode 0x2C4). Exchange within a quad. -/
  | quadx (f : FmtA)
  /-- QUADB (R271, opcode 0x2C5). Broadcast within a quad. -/
  | quadb (f : FmtA)
  /-- VOTE (R272, opcode 0x2C6). All, any or agree vote. -/
  | vote (f : FmtA)
  /-- BALLOT (R272, opcode 0x2C7). Mask of the contributors whose predicate is true. -/
  | ballot (f : FmtA)
  /-- LRED (R273, opcode 0x2C8). Integer reduction across lanes. -/
  | lred (f : FmtA)
  /-- FLRED (R274, opcode 0x2C9). Float tree reduction across lanes. -/
  | flred (f : FmtA)
  /-- SCAN (R273, opcode 0x2CA). Integer scan across lanes. -/
  | scan (f : FmtA)
  /-- FSCAN (R274, opcode 0x2CB). Float chain scan across lanes. -/
  | fscan (f : FmtA)
  /-- PEERS (R275, opcode 0x2CC). Mask of the lanes holding an equal value. -/
  | peers (f : FmtA)
  /-- SAME (R275, opcode 0x2CD). Tests whether all contributors agree. -/
  | same (f : FmtA)
  /-- PRESENT (R272, opcode 0x2CE). Mask of the executing lanes. -/
  | present (f : FmtA)
  /-- FIRST (R272, opcode 0x2CF). True in the lowest executing lane. -/
  | first (f : FmtA)
  /-- RND_CG10 (R281, opcode 0x300). Draws CG10 under the launch key with counter (A, B, C, 0). -/
  | rndCg10 (f : FmtA)
  /-- RND4_CG10 (R281, opcode 0x301). Draws CG10 with a 128-bit counter. -/
  | rnd4Cg10 (f : FmtA)
  /-- RNDK_CG10 (R281, opcode 0x302). Draws CG10 with a key from a register pair. -/
  | rndkCg10 (f : FmtA)
  /-- UNIF (R282, opcode 0x303). Turns a random word into a uniform f32. -/
  | unif (f : FmtA)
  /-- RKEY (R281, opcode 0x304). Reads the launch key. -/
  | rkey (f : FmtA)
  /-- ADDLW (R309, opcode 0x305). Adds LW64 values. -/
  | addlw (f : FmtA)
  /-- LWCVT (R309, opcode 0x306). Converts a natural-log score to LW64. -/
  | lwcvt (f : FmtA)
  /-- PWADD (R312, opcode 0x307). Adds to the particle's weight accumulator. -/
  | pwadd (f : FmtA)
  /-- RSB (R313, opcode 0x308). Commits the particle's weight and waits at the resample barrier; a straggler's late rsb is discarded and completes at once. -/
  | rsb (f : FmtA)
  /-- PSETROOT (R318, opcode 0x309). Releases at span scope, sets the particle's root and releases the old root. -/
  | psetroot (f : FmtA)
  /-- LWF (R309, opcode 0x30A). Converts LW64 to f32. -/
  | lwf (f : FmtA)
  /-- LWE (R309, opcode 0x30B). Normalised weight of an LW64 value. -/
  | lwe (f : FmtA)
  /-- MMA (R302, opcode 0x340). Dense tile multiply-accumulate with an exact sum and one rounding. -/
  | mma (f : FmtX)
  /-- MMAS (R303, opcode 0x341). Tile multiply-accumulate with a generated sparse pattern. -/
  | mmas (f : FmtX)
  /-- TZERO (R305, opcode 0x342). Zeros a tile. -/
  | tzero (f : FmtX)
  /-- TLD (R305, opcode 0x343). Loads a tile from memory. -/
  | tld (f : FmtX)
  /-- TST (R305, opcode 0x344). Writes a tile back to memory. -/
  | tst (f : FmtX)
  /-- TRD (R305, opcode 0x345). Reads a tile row into registers. -/
  | trd (f : FmtX)
  /-- TWR (R305, opcode 0x346). Writes a tile row from registers. -/
  | twr (f : FmtX)
  /-- TSCL (R305, opcode 0x347). Scales tile rows. -/
  | tscl (f : FmtX)
  /-- TREL (R305, opcode 0x348). Unbinds a tile. -/
  | trel (f : FmtX)
  /-- QSM (R307, opcode 0x349). Quantises a 32-value block into 4-bit codes and a scale byte. -/
  | qsm (f : FmtX)
  /-- SWINV (R297, opcode 0x34A). Drops a cached swatch entry. -/
  | swinv (f : FmtX)
  /-- SPGEN (R304, opcode 0x34B). Writes the sparse-pattern mask indices. -/
  | spgen (f : FmtX)
  /-- TRAP (R327, opcode 0x380). Software trap with a 32-bit immediate. -/
  | trap (f : FmtS)
  /-- RDARCH (R327, opcode 0x382). Reads the edition, 3. -/
  | rdarch (f : FmtA)
  /-- TNEXT (R327, opcode 0x383). Waits for a trap record and returns its index. -/
  | tnext (f : FmtA)
  /-- TRES (R328, opcode 0x384). Resumes a stopped warp or stream, re-executing the lanes not done. -/
  | tres (f : FmtS)
  /-- TSKIP (R328, opcode 0x385). Resumes past the stopped instruction. -/
  | tskip (f : FmtS)
  /-- TSTEP (R328, opcode 0x386). Resumes for one instruction, then stops with single-step. -/
  | tstep (f : FmtS)
  /-- TKILL (R327, opcode 0x387). Kills the slot's launch and logs a kind-17 entry. -/
  | tkill (f : FmtS)
  /-- TSTOP (R327, opcode 0x388). Stops a warp at its next instruction boundary. -/
  | tstop (f : FmtS)
  /-- CSAVE (R331, opcode 0x389). Saves a stopped warp to a save record. -/
  | csave (f : FmtS)
  /-- CLOAD (R332, opcode 0x38A). Restores a save record into an empty slot, stopped. -/
  | cload (f : FmtS)
  /-- CRD (R329, opcode 0x38B). Reads a control register. -/
  | crd (f : FmtA)
  /-- CWR (R329, opcode 0x38C). Writes a control register, such as a watchpoint. -/
  | cwr (f : FmtS)
  /-- HNOTIFY (R327, opcode 0x393). Interrupts the application cores with a code. -/
  | hnotify (f : FmtS)
  /-- REGROW (R139, opcode 0x390). Asks for a larger register allocation, entering the allocation wait if it does not fit. -/
  | regrow (f : FmtS)
  /-- REGSHRINK (R139, opcode 0x391). Shrinks the register allocation. -/
  | regshrink (f : FmtS)
  /-- LAUNCH (R154, opcode 0x392). Submits a launch record to a DEV queue from a running program. -/
  | launch (f : FmtS)
  /-- ALOOP (R187, opcode 0x3C0). Opens an access-stream loop. -/
  | aloop (f : FmtB)
  /-- AADD (R266, opcode 0x3C2). Access-stream add. -/
  | aadd (f : FmtA)
  /-- ASUB (R266, opcode 0x3C3). Access-stream subtract. -/
  | asub (f : FmtA)
  /-- AMAD (R266, opcode 0x3C4). Access-stream multiply-add. -/
  | amad (f : FmtA)
  /-- AMOVI (R266, opcode 0x3C5). Access-stream immediate move. -/
  | amovi (f : FmtI)
  /-- AMIN (R266, opcode 0x3C6). Access-stream unsigned minimum. -/
  | amin (f : FmtA)
  /-- AAND (R266, opcode 0x3C7). Access-stream bitwise and. -/
  | aand (f : FmtA)
  /-- ASHR (R266, opcode 0x3C8). Access-stream logical shift right. -/
  | ashr (f : FmtA)
  /-- ALD (R266, opcode 0x3C9). Access-stream load into an a register. -/
  | ald (f : FmtM)
  /-- APUSH (R266, opcode 0x3CA). Pushes a 128-byte row as one queue entry. -/
  | apush (f : FmtM)
  /-- AGATH (R268, opcode 0x3CB). Pops an index entry and pushes n gathered rows. -/
  | agath (f : FmtM)
  /-- AST (R266, opcode 0x3CC). Pops an entry and stores its 128 bytes. -/
  | ast (f : FmtM)
  /-- APF (R266, opcode 0x3CD). Prefetches a row to level 2. -/
  | apf (f : FmtM)
  /-- AFENCE (R266, opcode 0x3CF). Fence for the stream's accesses. -/
  | afence (f : FmtS)
  /-- MEMORY_ACCESS_DONE (R236, hardware step). A lane's load returns or its store or atomic is performed at its scope; the instruction's flag falls once every lane is done. -/
  | memoryAccessDone (op : Nat) (mask : BitVec 32)
  /-- CLAUSE_START (R129, hardware step). A picker chooses a candidate by the issue order, checks the line word and parity and forms a bundle of eligible lanes. -/
  | clauseStart (core : Nat) (picker : Picker)
  /-- LAUNCH_REGISTER (R143, hardware step). An LQTAIL write submits the records up to the new tail. -/
  | launchRegister (q : Nat) (v : DWord)
  /-- LQCFG_WRITE (R145, hardware step). Sets or clears enable, or reconfigures the queue, resetting head and tail when E or the context changes. -/
  | lqcfgWrite (q : Nat) (v : DWord)
  /-- LQBASE_WRITE (R145, hardware step). Sets the ring base and resets head and tail of a stopped queue. -/
  | lqbaseWrite (q : Nat) (v : DWord)
  /-- REGISTER_WRITE (R373, hardware step). A write to a register with no behaviour of its own stores its value. -/
  | registerWrite (addr : DWord) (v : DWord)
  /-- APPLICATION_CORE_MEMORY_ACCESS (R83, hardware step). An application core, or the PCIe endpoint, loads or stores local memory, such as page-table entries, launch records or ring consumption, within package scope. -/
  | applicationCoreMemoryAccess (acc : AppAccess)
  /-- WAITA_RECHECK (R250, hardware step). A parked waita lane wakes, when its line is written or 4096 cycles pass, and loads again. -/
  | waitaRecheck (core slot lane : Nat)
  /-- BARRIER_PHASE_COMPLETE (R251, hardware step). Once every counted lane has arrived, the phase completes and the waiting lanes are released. -/
  | barrierPhaseComplete (wg bar : Nat)
  /-- BARRIER_DEADLOCK (R251, hardware step). After 4096 cycles in which every counted lane waits and none can be released, every warp of the workgroup takes the illegal-convergence trap. -/
  | barrierDeadlock (wg : Nat)
  /-- GRIDBAR_COMPLETE (R252, hardware step). Once every launched, non-exited lane of the launch on the package has arrived, the grid barrier releases. -/
  | gridbarComplete (launch : Nat)
  /-- TOKEN_ARRIVES (R341, hardware step). The right-of-way token reaches the next non-exited warp in logical order, possibly over the fabric, and a waiting rowait completes. -/
  | tokenArrives (launch : Nat)
  /-- GRACE_COMPLETE (R98, hardware step). Once every warp of the snapshot has passed a milestone, the grace completes and deferred-free entries with older stamps return to their pools. -/
  | graceComplete (snap : Nat)
  /-- INTERNAL_GRACE (R169, hardware step). When the oldest deferred-free entry has waited 100 µs, or the queue is more than half full, the tracker starts a grace of its own. -/
  | internalGrace (span : Bool)
  /-- PAUSE_EXPIRY (R259, hardware step). The pause count runs out and the lane becomes eligible again. -/
  | pauseExpiry (core slot lane : Nat)
  /-- QUEUE_PUSH_UNBLOCK (R17, hardware step). Allowance returns to a blocked push, which then places its entry. -/
  | queuePushUnblock (wg q : Nat)
  /-- QUEUE_POP_UNBLOCK (R17, hardware step). An entry arrives for a blocked pop or peek, which then reads it. -/
  | queuePopUnblock (wg q : Nat)
  /-- COPY_ACCEPT (R263, hardware step). A waiting copy command is accepted once its channel is free and its ownership records are held; SEQ advances and DONE becomes 0. -/
  | copyAccept (core ch : Nat)
  /-- COPY_DONE (R65, hardware step). DONE reaches the command's length after the signature is published; the flag falls and the ownership records are freed. -/
  | copyDone (core ch : Nat)
  /-- WAITWP_WAKE (R264, hardware step). The write pointer meets the awaited value and the parked lanes complete as ldwp does. -/
  | waitwpWake (core slot lane : Nat)
  /-- COLLECTIVE_ISSUE (R133, hardware step). Once every member has arrived, a waiting warp-collective issues once as one bundle. -/
  | collectiveIssue (core slot : Nat)
  /-- REJOIN_RELEASE (R136, hardware step). Once every lane of the mask waits at a rejoin or has exited, all of them are released and the mask is cleared. -/
  | rejoinRelease (core slot bar : Nat)
  /-- CONVERGENCE_TIMEOUT (R134, hardware step). A warp stuck for 4096 cycles takes the illegal-convergence trap. -/
  | convergenceTimeout (core slot : Nat)
  /-- POP_BARRIER_CLOSE (R315, hardware step). With every particle arrived, the controllers resample and apply the decision, and the barrier completes with its status. -/
  | popBarrierClose (pop : Nat)
  /-- STRAGGLER_DEADLINE (R314, hardware step). The deadline passes and the barrier closes, with the particles not yet arrived retired as stragglers. -/
  | stragglerDeadline (pop : Nat)
  /-- ARRIVAL_REPORT (R314, hardware step). A particle's arrival report reaches the coordinator; the first of the step starts the deadline. -/
  | arrivalReport (pop particle : Nat) (weight : Option Int) (root : DWord)
  /-- MATRIX_OP_COMPLETE (R301, hardware step). A matrix operation finishes writing the accumulator or the memory rows; its pins are released and its flag falls. -/
  | matrixOpComplete (core : Nat)
  /-- LEASE_HANDOFF (R162, hardware step). The arbiter moves the matrix engine to the oldest request when the lease ends, or an owner of exclusive ownership is granted. -/
  | leaseHandoff (core : Nat)
  /-- TILE_BIND_GRANT (R299, hardware step). A free accumulator granule binds to a waiting tile. -/
  | tileBindGrant (core : Nat)
  /-- TILE_BIND_TIMEOUT (R299, hardware step). After 2048 cycles of every warp waiting, the youngest tile waiter takes the launch-contract trap. -/
  | tileBindTimeout (core : Nat)
  /-- REGROW_GRANT (R140, hardware step). Freed space lets a blocked regrow fit; the registers are moved and ok is written. -/
  | regrowGrant (core : Nat)
  /-- REGROW_FAIL_TIMEOUT (R141, hardware step). After 2048 cycles of every warp blocked, the youngest blocked regrow fails. -/
  | regrowFailTimeout (core : Nat)
  /-- TRANSLATION_WALK_DONE (R33, hardware step). A page walk finishes; the TLBs are filled, or a fault is raised and its record written. -/
  | translationWalkDone (core ctx : Nat) (va : DWord)
  /-- XLINV_GRANULE (R30, hardware step). Invalidation of one context's entries covering a 64 KiB granule. -/
  | xlinvGranule (cmd : DWord)
  /-- XLINV_CONTEXT (R30, hardware step). Invalidation of every entry of one context. -/
  | xlinvContext (cmd : DWord)
  /-- XLINV_ALL (R30, hardware step). Invalidation of every entry of every context. -/
  | xlinvAll (cmd : DWord)
  /-- FQRESUME_RESUME (R38, hardware step). Every waiter on the record replays from its point. -/
  | fqresumeResume (idx : BitVec 12)
  /-- FQRESUME_KILL (R38, hardware step). Every waiter on the record takes the fatal translation trap. -/
  | fqresumeKill (idx : BitVec 12)
  /-- FQTAIL_WRITE (R38, hardware step). Software advances the fault-queue tail, subject to its limits. -/
  | fqtailWrite (v : DWord)
  /-- FQBASE_WRITE (R40, hardware step). Changes the fault-queue base and clears head and tail, or is refused while records remain. -/
  | fqbaseWrite (v : DWord)
  /-- DONE_WORD_WRITE (R149, hardware step). Once every workgroup and stream has ended and every reduce block has written its flags, level 1 is written back and the done word is released. -/
  | doneWordWrite (launch : Nat)
  /-- SWAP_OUT (R161, hardware step). A swap interval passes with no issue; the longest-idle workgroup is saved and a waiting one is placed. -/
  | swapOut (launch : Nat)
  /-- REDUCE_BLOCK_DISPATCH (R166, hardware step). With the counter at 0, a reduce block is dispatched ahead of all other work. -/
  | reduceBlockDispatch (launch : Nat)
  /-- COLLECTIVE_TIMEOUT (R166, hardware step). The time-out expires, or a member is lost, and the reduce block runs over the chunks that have arrived, with status 3. -/
  | collectiveTimeout (launch : Nat)
  /-- REDUCE_BLOCK_DONE (R166, hardware step). The reduce block writes its result, publishes and writes the flags. -/
  | reduceBlockDone (launch : Nat)
  /-- LOAD_REQUEST (R107, hardware step). A remote load request arrives and is performed at its owner. -/
  | loadRequest (p : Packet)
  /-- STORE (R106, hardware step). A remote store packet arrives, is performed by byte mask, and is acknowledged once its signature is published. -/
  | store (p : Packet)
  /-- ATOMIC (R107, hardware step). A remote atomic packet arrives and is performed at its owner. -/
  | atomic (p : Packet)
  /-- COMBINED_ATOMIC (R111, hardware step). A lane-combined atomic is performed as one atomic in tree order. -/
  | combinedAtomic (p : Packet)
  /-- LOAD_REPLY (R108, hardware step). A load reply writes the destination registers, or the save record. -/
  | loadReply (p : Packet)
  /-- ACKNOWLEDGEMENT (R94, hardware step). An acknowledgement completes a peer store or atomic at its source. -/
  | acknowledgement (p : Packet)
  /-- MULTICAST_STORE (R119, hardware step). A router latches the group entry, delivers locally and forwards the copies. -/
  | multicastStore (p : Packet)
  /-- COPY_WRITE (R119, hardware step). A copy-write packet is delivered and forwarded like a multicast. -/
  | copyWrite (p : Packet)
  /-- RECOVERY_TOKEN (R115, hardware step). A router captures the token, drains suspect inputs into the breakdown lane if it is suspect, and passes the token on. -/
  | recoveryToken (p : Packet)
  /-- LOSS_NOTICE (R121, hardware step). A loss notice clears the lost package's live bit and completes the accesses owed by it. -/
  | lossNotice (p : Packet)
  /-- INVALID_PACKET (R106, hardware step). A packet with an unassigned kind or a reserved field arrives and is discarded and logged. -/
  | invalidPacket (p : Packet)
  /-- FATAL_ERROR_REPORT (R121, hardware step). A package reports a fatal error over the fabric and is declared lost. -/
  | fatalErrorReport (pkg : Nat)
  /-- ROUTER_HOLD_TIMEOUT (R114, hardware step). A head flit is held beyond FXTIMEOUT and its input becomes suspect. -/
  | routerHoldTimeout (input : Nat)
  /-- LOSS_TIMEOUT (R121, hardware step). No flit from a package for FXLOSS; it is declared lost and loss notices are sent. -/
  | lossTimeout (pkg : Nat)
  /-- FLIT_CRC_FAIL (R105, hardware step). A flit fails its CRC and is replayed from the retry buffer. -/
  | flitCrcFail (port : Nat)
  /-- LANE_FAILURE (R105, hardware step). A failing lane is replaced by the spare lane, and the retrain is logged. -/
  | laneFailure (port : Nat)
  /-- LINK_DOWN (R105, hardware step). A link is declared down. -/
  | linkDown (port : Nat)
  /-- LINK_UP (R112, hardware step). A link comes up again and packets waiting for a route proceed. -/
  | linkUp (port : Nat)
  /-- FXMCDATA_WRITE (R120, hardware step). Starts a group-table update on both link dies. -/
  | fxmcdataWrite (v : DWord)
  /-- PREEMPT (R330, hardware step). Stops dispatch from the masked queues and halts their warps within 20 µs. -/
  | preempt (v : DWord)
  /-- RESUME (R330, hardware step). Restores the saved contexts and resumes dispatch. -/
  | resume (v : DWord)
  /-- CONTEXT_RESTORE (R332, hardware step). A core accepts a saved workgroup, which is restored and acquires at package scope. -/
  | contextRestore (wg : Nat)
  /-- RPRUN (R338, hardware step). Opens a reproducible run: hashes the regions and records the log head. -/
  | rprun (v : DWord)
  /-- RPCLOSE (R337, hardware step). Closes the next course. -/
  | rpclose (v : DWord)
  /-- RPEND (R344, hardware step). Writes and signs the manifest and ends the run. -/
  | rpend (v : DWord)
  /-- GET_MEASUREMENTS (R346, hardware step). An SPDM GET_MEASUREMENTS request over MCTP is answered with signed measurement blocks. -/
  | getMeasurements (block : BitVec 8) (signed : Bool)
  /-- ELREAD_WRITE (R367, hardware step). Advances the log read mark; space freed lets an overflow entry be appended. -/
  | elreadWrite (v : DWord)
  /-- ELCKPT (R368, hardware step). Writes a signed log checkpoint and stores the head in flash. -/
  | elckpt (v : DWord)
  /-- SUBCMD_CORE (R365, hardware step). Maps a logical core onto a spare once it holds no context. -/
  | subcmdCore (v : DWord)
  /-- SUBCMD_SLICE (R365, hardware step). Writes back a level-2 slice and maps it onto a spare. -/
  | subcmdSlice (v : DWord)
  /-- SUBCMD_CHANNEL (R365, hardware step). Copies an HBM4E channel onto the spare channel and remaps it. -/
  | subcmdChannel (v : DWord)
  /-- PWCLK_WRITE (R369, hardware step). Selects a clock point, which takes effect within 10 µs unless tripped. -/
  | pwclkWrite (v : DWord)
  /-- PWGATE_WRITE (R369, hardware step). Gates or ungates compute dies. -/
  | pwgateWrite (v : DWord)
  /-- PWREF_WRITE (R369, hardware step). Selects the HBM4E refresh rate. -/
  | pwrefWrite (v : DWord)
  /-- PWTRIPCLR (R370, hardware step). Leaves the trip state when every die is below 95 °C. -/
  | pwtripclr (v : DWord)
  /-- THERMAL_TRIP (R370, hardware step). A die reaches 105 °C: the clock is forced low, refresh doubled, trip set and the event logged. -/
  | thermalTrip (die temp : Nat)
  /-- CORRECTED_ERROR (R361, hardware step). An absorbable fault is corrected, logged and counted, with a recommendation logged when a threshold is crossed. -/
  | correctedError (unit : ErrUnit) (kind : ErrKind) (addr : DWord)
  /-- COPY_LINE_DELIVERED (R65, hardware step). A copy channel finishes writing destination lines at their home slice, which releases their ownership bits and raises DONE before the command's end. -/
  | copyLineDelivered (core ch : Nat)
  /-- RELAYED_PACKET (R113, hardware step). A packet on a detour arrives at its relay, which forwards it on a direct link to its destination, or holds it while no direct link is up. -/
  | relayedPacket (p : Arrival)
  /-- CONTROL_CORE_FIRMWARE_RELOAD (R326, hardware step). The application cores reload a halted control core's firmware, which lets the warps of that core, stopped until then, be handled again. -/
  | controlCoreFirmwareReload (core ctx : Nat) (pc : DWord)
  /-- NOP (R189, opcode 0x000). Does nothing; skelas fills unused slots of a line with it. -/
  | nop
  /-- RET (R207, opcode 0x006). Pops the return address, checks every popped target of the issue together and transfers. -/
  | ret
  /-- EXIT (R210, opcode 0x00B). Ends the lane and discards its pending loads; its stores and engine commands still complete. -/
  | exit
  /-- GRIDBAR (R252, opcode 0x245). Arrives at the launch-wide barrier at package scope. -/
  | gridbar
  /-- ROWAIT (R253, opcode 0x247). Waits until the warp holds the right-of-way token; taking it is an acquire at span scope. -/
  | rowait
  /-- ROPASS (R253, opcode 0x248). The holder releases at span scope and passes the token on. -/
  | ropass
  /-- MILE (R254, opcode 0x24A). Passes a milestone, splitting any open read section. -/
  | mile
  /-- RSEC_END (R98, opcode 0x24C). Lowers the depth; reaching 0 is registered once every load of the warp has returned. -/
  | rsecEnd
  /-- MACQ (R163, opcode 0x37E). Joins the queue for exclusive ownership of the matrix engine. -/
  | macq
  /-- MREL (R163, opcode 0x37F). Ends exclusive ownership of the matrix engine. -/
  | mrel
  /-- BRK (R327, opcode 0x381). Breakpoint trap. -/
  | brk
  /-- TDONE (R327, opcode 0x38D). Consumes a trap-queue record. -/
  | tdone
  /-- IFLUSH (R327, opcode 0x38E). Drops the core's instruction cache. -/
  | iflush
  /-- DWSYNC (R327, opcode 0x38F). Waits until the control core's debug-window stores are in place. -/
  | dwsync
  /-- AEND (R187, opcode 0x3C1). Closes or repeats an access-stream loop. -/
  | aend
  /-- ASTOP (R266, opcode 0x3CE). Ends the stream once its operations complete. -/
  | astop
  /-- XLINV_COMPLETE (R31, hardware step). Every named entry is gone and the walks and accesses concerned have finished; busy clears. -/
  | xlinvComplete
  /-- DEPENDENCE_POLL (R151, hardware step). Every 1 µs, or after a done word or collective flag is written, the dispatcher re-reads the unsatisfied wait words. -/
  | dependencePoll
  /-- DISPATCH_WORKGROUP (R146, hardware step). The dispatcher validates a ready head record and places one workgroup of the highest placeable level, or rejects the record. -/
  | dispatchWorkgroup
  /-- TOKEN_REISSUE (R115, hardware step). No token is seen for 4 × FXTIMEOUT × n, and the lowest live package issues a new epoch. -/
  | tokenReissue
  /-- MC_UPDATE_DONE (R120, hardware step). Every packet that latched the old entry has sent its copies; FXMCST busy clears. -/
  | mcUpdateDone
  /-- PREEMPT_SAVE_COMPLETE (R331, hardware step). Every halted context has been saved or discarded; busy clears. -/
  | preemptSaveComplete
  /-- COURSE_COMMIT (R340, hardware step). A closed course whose launches are all done commits on every member, releasing its deferred frees and waking cwait. -/
  | courseCommit
  /-- SUBSTITUTION_DONE (R365, hardware step). The substitution is logged and busy clears. -/
  | substitutionDone
  /-- ERROR_COUNT_HOUR (R363, hardware step). A whole hour of %time ends and the per-unit corrected-error counts restart. -/
  | errorCountHour
  /-- RESET (R371, hardware step). Reset brings the package up step by step and sets every register to its default. -/
  | reset
  /-- CLOCK_CHANGE_EFFECTIVE (R369, hardware step). A requested clock point takes effect, within 10 µs, at instruction boundaries, and PWSTAT busy clears. -/
  | clockChangeEffective
  /-- HOST_COMMANDED_POWER_DOWN (R368, hardware step). The host commands a power-down, and the device first writes a signed log checkpoint and stores the head hash in flash. -/
  | hostCommandedPowerDown
  deriving DecidableEq, Repr

end Sys2Proof
end

