-- ==== Sys2Proof/WellFormed.lean ====
section
/-! DEFINITION. Which instructions the decoder accepts: the field rules of R177 to R188 and of every instruction chapter. A
term that fails here is an encoding that raises the illegal-encoding trap (R190). -/

namespace Sys2Proof

/-- The width a position calls for (R179). -/
inductive Pos where
  | w32 | w64 | w128
  deriving DecidableEq, Repr

/-- Width in bits of a value of the type (R195, R213, R309). -/
def Ty.bits : Ty → Nat
  | .b8 | .i8 | .n8 | .e4m3 | .e5m2 => 8
  | .b16 | .i16 | .n16 | .f16 | .bf16 => 16
  | .b32 | .i32 | .n32 | .f32 => 32
  | .b64 | .i64 | .n64 | .f64 | .lw64 => 64

/-- The register position a value of the type takes (R196, R217). -/
def Ty.pos (t : Ty) : Pos := if t.bits = 64 then .w64 else .w32

/-- The signed integer types. -/
def Ty.isI : Ty → Bool
  | .i8 | .i16 | .i32 | .i64 => true
  | _ => false

/-- The unsigned integer types. -/
def Ty.isN : Ty → Bool
  | .n8 | .n16 | .n32 | .n64 => true
  | _ => false

/-- The bit types. -/
def Ty.isB : Ty → Bool
  | .b8 | .b16 | .b32 | .b64 => true
  | _ => false

/-- The floating types of R222. -/
def Ty.isF : Ty → Bool
  | .f64 | .f32 | .f16 | .bf16 | .e4m3 | .e5m2 => true
  | _ => false

/-- The floating types that convert with integers (R222). -/
def Ty.isF4 : Ty → Bool
  | .f64 | .f32 | .f16 | .bf16 => true
  | _ => false

/-- The types of group 0x3 (R218). -/
def Ty.isP : Ty → Bool
  | .f32 | .f16 | .bf16 => true
  | _ => false

/-- The code of a type (R188). -/
def Ty.code : Ty → BitVec 5
  | .b8 => 0 | .b16 => 1 | .b32 => 2 | .b64 => 3 | .i8 => 4 | .i16 => 5 | .i32 => 6 | .i64 => 7 | .n8 => 8 | .n16 => 9
  | .n32 => 10 | .n64 => 11 | .f16 => 12 | .bf16 => 13 | .f32 => 14 | .f64 => 15 | .e4m3 => 16 | .e5m2 => 17 | .lw64 => 18

/-- The type of a code, none for the reserved codes (R188). -/
def Ty.ofCode (c : BitVec 5) : Option Ty :=
  match c.toNat with
  | 0 => some .b8 | 1 => some .b16 | 2 => some .b32 | 3 => some .b64 | 4 => some .i8 | 5 => some .i16 | 6 => some .i32
  | 7 => some .i64 | 8 => some .n8 | 9 => some .n16 | 10 => some .n32 | 11 => some .n64 | 12 => some .f16 | 13 => some .bf16
  | 14 => some .f32 | 15 => some .f64 | 16 => some .e4m3 | 17 => some .e5m2 | 18 => some .lw64 | _ => none

/-- The assigned special registers (R178). -/
def specialOk (c : BitVec 8) : Bool :=
  let n := c.toNat
  n ≤ 0x0E || (0x10 ≤ n && n ≤ 0x16) || n = 0x18 || n = 0x19 || n = 0x20 || n = 0x21 || (0x28 ≤ n && n ≤ 0x2F)

/-- The even codes of the 64-bit special registers (R178, R179). -/
def specialPair (c : BitVec 8) : Bool := c = 0x12 || c = 0x14 || c = 0x18 || c = 0x20

/-- The special registers an access line may read (R178). -/
def specialAccess (c : BitVec 8) : Bool :=
  let n := c.toNat
  (0x02 ≤ n && n ≤ 0x08) || n = 0x0A || n = 0x0B || n = 0x0C || n = 0x20 || n = 0x21

namespace Operand

/-- A field that R177 assigns in a compute line. -/
def assigned : Operand → Bool
  | .latch k => k.toNat < 5
  | .special c => specialOk c
  | _ => true

/-- A field that R177 and R178 allow in an access line. -/
def accessOk : Operand → Bool
  | .main k => k.toNat < 32
  | .special c => specialAccess c
  | .queue _ _ => true
  | .imm _ => true
  | _ => false

/-- A source at a position of the given width (R179). -/
def src (p : Pos) : Operand → Bool
  | .main k => match p with | .w32 => true | .w64 => k.toNat % 2 = 0 | .w128 => k.toNat % 4 = 0
  | .opf k => match p with | .w32 => true | .w64 => k.toNat % 2 = 0 | .w128 => k.toNat % 4 = 0
  | .latch _ => p != .w128
  | .queue _ _ => p = .w32
  | .special c => match p with | .w32 => true | .w64 => specialPair c | .w128 => false
  | .imm _ => p != .w128
  | .wreg k => match p with | .w32 => true | .w64 => k.toNat % 2 = 0 | .w128 => false

/-- A destination of a result of the given width (R177, R179, R180, R196). -/
def dst (p : Pos) : Operand → Bool
  | .main k => match p with | .w32 => true | .w64 => k.toNat % 2 = 0 | .w128 => k.toNat % 4 = 0
  | .opf k => match p with | .w32 => true | .w64 => k.toNat % 2 = 0 | .w128 => k.toNat % 4 = 0
  | .latch _ => false
  | .queue _ _ => p = .w32
  | .special c => p = .w64 && c = 0x18
  | .imm _ => false
  | .wreg k => match p with | .w32 => true | .w64 => k.toNat % 2 = 0 | .w128 => false

/-- A predicate named in an operand field (R201). -/
def predField : Operand → Bool
  | .main k => k.toNat < 8
  | _ => false

/-- An immediate code below the bound. -/
def immBelow (n : Nat) : Operand → Bool
  | .imm x => x.toNat < n
  | _ => false

def isQueue : Operand → Bool
  | .queue _ _ => true
  | _ => false

def isNb : Operand → Bool
  | .queue _ nb => nb
  | _ => false

def isWreg : Operand → Bool
  | .wreg _ => true
  | _ => false

def isImm : Operand → Bool
  | .imm _ => true
  | _ => false

def isMain : Operand → Bool
  | .main _ => true
  | _ => false

/-- An address pair of format M or `launch`: main file or warp-uniform, even (R183, R153). -/
def addrPair : Operand → Bool
  | .main k => k.toNat % 2 = 0
  | .wreg k => k.toNat % 2 = 0
  | _ => false

/-- The unused field 0x000 (R177). -/
def zero (o : Operand) : Bool := o = .unused

/-- An address pair, or the third source of `madw`: a pair source that is no immediate (R179, R204). That R179 counts the A pair of `lea`,
`peeraddr`, `brx` and `callx` and the B pair of `csave` and `cload` among the address-pair positions is the model's reading (DEDUCED, log
109). -/
def pairNoImm (o : Operand) : Bool := o.src .w64 && !o.isImm

end Operand

/-- The guard that skelas writes for none, 0b0111 (R176). -/
def Guard.always (g : Guard) : Bool := !g.neg && g.pred = 7

/-- The predicates a stream has: p7 alone (log 12). -/
def Guard.streamOk (g : Guard) : Bool := g.pred = 7

namespace FmtA

def ops (f : FmtA) : List Operand := [f.d, f.a, f.b, f.c]

/-- At most one queue field, and `.nb` only where the predicate is free to receive its success (R180); PW is 111 where
nothing writes it (R181, R197). -/
def queuePw (f : FmtA) (ownPred : Bool) : Bool :=
  let nb := f.ops.any Operand.isNb
  decide ((f.ops.filter Operand.isQueue).length ≤ 1) && (if ownPred then !nb else nb || f.pw = 7)

/-- The checks common to format A forms of a compute line; `d a b c` are the field checks, `opm` the modifier check, `modes`
whether RM may hold rne, rtz, rdn or rup, and `ownPred` whether PW is a result (R181, R197, R218). -/
def chk (f : FmtA) (tys : Bool) (d a b c opm : Bool) (modes := false) (ownPred := false) : Bool :=
  f.ops.all Operand.assigned && tys && d && a && b && c && opm && (f.rm = .rne || (modes && f.rm != .sr)) &&
    f.queuePw ownPred

/-- As `chk`, with no queue operand (R269, R280). -/
def chkNoQ (f : FmtA) (tys : Bool) (d a b c opm : Bool) (ownPred := false) : Bool :=
  f.chk tys d a b c opm false ownPred && f.ops.all (fun o => !o.isQueue)

/-- The second type suffix of format A (R181). -/
def ty2 (f : FmtA) : Option Ty := Ty.ofCode (f.opm.extractLsb' 3 5)

def sat (f : FmtA) : Bool := f.opm.getLsbD 0

/-- Integer form with sources of T's width (R198). -/
def int2 (f : FmtA) (tys satTys : Bool) (b := true) (c := false) : Bool :=
  let p := f.ty.pos
  f.chk tys (f.d.dst p) (f.a.src p) (if b then f.b.src p else f.b.zero) (if c then f.c.src p else f.c.zero)
    (f.opm = 0 || (satTys && f.opm = 1))

/-- A group 0x3 or 0x4 form of one to three sources (R218, R221). -/
def flt (f : FmtA) (tys : Bool) (n : Nat) (modes : Bool) (opm := 0#8) : Bool :=
  let p := f.ty.pos
  f.chk tys (f.d.dst p) (f.a.src p) (if 2 ≤ n then f.b.src p else f.b.zero) (if 3 ≤ n then f.c.src p else f.c.zero)
    (f.opm = 0 || f.opm = opm) modes

/-- The draw operand of a conversion: a quadruple under sr, unused otherwise (R222, R225). -/
def draw (f : FmtA) (o : Operand) : Bool := if f.rm = .sr then o.src .w128 else o.zero

end FmtA

/-- T has every value of G (R223). -/
def exactCvt (t g : Ty) : Bool :=
  match g, t with
  | .f32, .f64 => true
  | .f16, .f32 | .f16, .f64 => true
  | .bf16, .f32 | .bf16, .f64 => true
  | .e4m3, .f16 | .e4m3, .bf16 | .e4m3, .f32 | .e4m3, .f64 => true
  | .e5m2, .f16 | .e5m2, .bf16 | .e5m2, .f32 | .e5m2, .f64 => true
  | _, _ => false

namespace FmtA

/-- A conversion with the second type G and free rounding (R222). -/
def cvt (f : FmtA) (ok : Ty → Bool) (d a b c : Bool) (opmLow : Bool) (modes : Bool) : Bool :=
  match f.ty2 with
  | none => false
  | some g =>
    f.ops.all Operand.assigned && ok g && d && a && b && c && opmLow && (f.rm = .rne || modes) && f.queuePw false

def opmLow (f : FmtA) : Nat := f.opm.toNat % 8

/-- Group 0xB: no queue, width bits, no rounding (R269). -/
def xl (f : FmtA) (tys : Bool) (d a b c : Bool) (width : Bool) (ownPred := false) : Bool :=
  f.chkNoQ tys d a b c (width || f.opm.toNat % 4 = 3) ownPred

/-- The stream arithmetic forms (R266): n32, or n64 on pairs, in an access line. -/
def stream (f : FmtA) (n : Nat) : Bool :=
  let p := f.ty.pos
  f.ops.all Operand.accessOk && f.ops.all (fun o => !o.isQueue) && (f.ty = .n32 || f.ty = .n64) &&
    f.d.isMain && f.d.dst p && f.a.src p && f.b.src p && (if 3 ≤ n then f.c.src p else f.c.zero) && f.opm = 0 && f.rm = .rne
    && f.pw = 7

end FmtA

namespace FmtM

def ops (f : FmtM) : List Operand := [f.data, f.addr, f.index]

/-- A plain access names scope 00 (R183). -/
def plainScope (f : FmtM) : Bool := f.order != .plain || f.scope = .wp

/-- The checks common to format M forms of a compute line. -/
def chk (f : FmtM) (tys data addr index ord mmod : Bool) : Bool :=
  f.ops.all Operand.assigned && f.ops.all (fun o => !o.isQueue) && tys && data && addr && index && ord && mmod

def loadOrd (f : FmtM) : Bool := (f.order = .plain || f.order = .acq) && f.plainScope
def storeOrd (f : FmtM) : Bool := (f.order = .plain || f.order = .rel) && f.plainScope
def plainOrd (f : FmtM) : Bool := f.order = .plain && f.scope = .wp

/-- The operation code of an atomic (R244). -/
def aop (f : FmtM) : Nat := f.mmod.toNat % 16

/-- The operation suits the type (R244). -/
def aopOk (f : FmtM) (top : Nat) : Bool :=
  f.aop ≤ top && (if f.aop ≤ 2 then f.ty.isI || f.ty.isN else if f.aop ≤ 5 then f.ty.isB else true)

def atomTy (t : Ty) : Bool := t = .i32 || t = .n32 || t = .b32 || t = .i64 || t = .n64 || t = .b64

/-- A float operation suits the type: f64 for add only (R244). -/
def fopOk (f : FmtM) : Bool := f.ty.isP && f.aop ≤ 2 || f.ty = .f64 && f.aop = 0

/-- Group 0x8 (R244): the hint is default, bits [5:4] of MMOD are zero, and [8:6] too unless a predicate is listed. -/
def atom (f : FmtM) (tys data index op pred scratch : Bool) : Bool :=
  f.chk tys data (if scratch then f.addr.zero else f.addr.addrPair) index (if scratch then f.plainOrd else true)
    (op && f.mmod.toNat / 16 % 4 = 0 && (pred || f.mmod.toNat / 64 = 0)) && f.hint = .dflt

/-- An access-stream memory form (R266): the index scale is MMOD[3:0], S from 1 to 32 768 (R192). -/
def stream (f : FmtM) (tys data index ord high fs : Bool) : Bool :=
  f.ops.all Operand.accessOk && tys && data && f.addr.isMain && f.addr.addrPair && index && ord && high && fs

end FmtM

namespace FmtB

/-- Group 0x0 and `lpc`: fields a form does not use are zero (R206). -/
def chk (f : FmtB) (target bar a d : Bool) : Bool :=
  f.a.assigned && f.d.assigned && f.slot.toNat < 5 && (target || (f.off = 0 && f.slot = 0)) && (bar || f.bar = 0) &&
    (a && !f.a.isQueue) && (d && !f.d.isQueue)

end FmtB

namespace FmtS

def ops (f : FmtS) : List Operand := [f.a, f.b, f.c]

/-- Format S: unlisted fields are zero and an unlisted PW is 0b111 (R186). -/
def chk (f : FmtS) (pw s7 a b c : Bool) (fs := false) (imm := false) : Bool :=
  f.ops.all Operand.assigned && f.ops.all (fun o => !o.isQueue) && (pw || f.pw = 7) && s7 && a && b && c &&
    (fs || f.fs = .none) && (imm || f.imm = 0)

/-- A value of a copy command: warp-uniform register or immediate (R263). -/
def uval (p : Pos) (o : Operand) : Bool := (o.isWreg || o.isImm) && o.src p

/-- A copy command's common checks (R260, R263). -/
def copy (f : FmtS) (b c imm : Bool) : Bool :=
  f.chk false (f.s7.toNat < 16) (f.a.isWreg && f.a.src .w64) b c true imm

end FmtS

namespace FmtX

def coord (o : Operand) : Bool := (o.isWreg || o.isImm) && o.assigned

/-- Format X: fields and values a form does not list are zero (R300). -/
def chk (f : FmtX) (tile swa swb swc ca cb cc xmod fs : Bool) : Bool :=
  (tile || f.tile = 0) && (swa || f.swa = 0) && (swb || f.swb = 0) && (swc || f.swc = 0) &&
    (if ca then coord f.ca else f.ca.zero) && (if cb then coord f.cb else f.cb.zero) && cc && xmod && (fs || f.fs = .none)

def mainPair (o : Operand) : Bool := o.isMain && o.src .w64

end FmtX

/-- The checks of a register-number argument of a hardware step. -/
def coreOk (c : Nat) : Bool := c < Config.cores

/-- The decoder accepts the instruction, or the hardware step names things the package has. `punpack`, whose predicates are named by its
mask and not by PW, may name a `.nb` queue: PW takes the success before the mask's predicates are written (DESIGN CHOICE, log 122: R180
bars a form whose own result is a predicate). Of the population forms `rsb`, a collective, may name no queue, and the lane-wise `lwcvt` and
`lwf` may (DESIGN CHOICE, log 136). -/
def Instr.wf : Instr → Bool
  -- group 0x0 (R206)
  | .nop => true
  | .bra f => f.chk true false f.a.zero f.d.zero
  | .brt f => f.chk true false (f.a.src .w32) (f.d.src .w32)
  | .brx f => f.chk false false f.a.pairNoImm f.d.zero
  | .call f => f.chk true false f.a.zero f.d.zero
  | .callx f => f.chk false false f.a.pairNoImm f.d.zero
  | .ret => true
  | .enrol f => f.chk false true f.a.zero f.d.zero
  | .rejoin f => f.chk false true f.a.zero f.d.zero
  | .bclr f => f.chk false true f.a.zero f.d.zero
  | .bread f => f.chk false true f.a.zero (match f.d with | .main _ => true | .opf _ => true | _ => false)
  | .exit => true
  -- group 0x1 (R198)
  | .add f => f.int2 (f.ty.isI || f.ty.isN) true
  | .sub f => f.int2 (f.ty.isI || f.ty.isN) true
  | .mul f => f.int2 (f.ty.isI || f.ty.isN) true
  | .mulhi f => f.int2 (f.ty.isI || f.ty.isN) false
  | .mad f => f.int2 (f.ty.isI || f.ty.isN) true true true
  | .div f => f.int2 (f.ty.isI || f.ty.isN) f.ty.isI
  | .rem f => f.int2 (f.ty.isI || f.ty.isN) false
  | .min f => f.int2 (f.ty.isI || f.ty.isN) false
  | .max f => f.int2 (f.ty.isI || f.ty.isN) false
  | .abs f => f.int2 f.ty.isI true false
  | .neg f => f.int2 f.ty.isI true false
  | .and f => f.int2 f.ty.isB false
  | .or f => f.int2 f.ty.isB false
  | .xor f => f.int2 f.ty.isB false
  | .not f => f.int2 f.ty.isB false false
  | .shl f => f.chk (f.ty.isI || f.ty.isN || f.ty.isB) (f.d.dst f.ty.pos) (f.a.src f.ty.pos) (f.b.src .w32) f.c.zero (f.opm = 0)
  | .shr f => f.chk (f.ty.isI || f.ty.isN || f.ty.isB) (f.d.dst f.ty.pos) (f.a.src f.ty.pos) (f.b.src .w32) f.c.zero (f.opm = 0)
  | .rot f => f.chk f.ty.isB (f.d.dst f.ty.pos) (f.a.src f.ty.pos) (f.b.src .w32) f.c.zero (f.opm = 0)
  | .popc f => f.chk f.ty.isB (f.d.dst .w32) (f.a.src f.ty.pos) f.b.zero f.c.zero (f.opm = 0)
  | .clz f => f.chk f.ty.isB (f.d.dst .w32) (f.a.src f.ty.pos) f.b.zero f.c.zero (f.opm = 0)
  | .ctz f => f.chk f.ty.isB (f.d.dst .w32) (f.a.src f.ty.pos) f.b.zero f.c.zero (f.opm = 0)
  | .brev f => f.int2 f.ty.isB false false
  | .bfx f => f.chk (f.ty = .i32 || f.ty = .n32 || f.ty = .i64 || f.ty = .n64) (f.d.dst f.ty.pos) (f.a.src f.ty.pos)
      (f.b.src .w32) (f.c.src .w32) (f.opm = 0)
  | .bfi f => f.chk (f.ty = .b32 || f.ty = .b64) (f.d.dst f.ty.pos) (f.a.src f.ty.pos) (f.b.src f.ty.pos) (f.c.src .w32)
      (f.opm = 0)
  | .cmp f => f.chk (f.ty.isI || f.ty.isN || f.ty.isB) f.d.zero (f.a.src f.ty.pos) (f.b.src f.ty.pos) f.c.zero
      (f.opm.toNat < 6 && (!f.ty.isB || f.opm.toNat < 2)) false true
  | .sel f => f.chk (f.ty = .b32 || f.ty = .b64) (f.d.dst f.ty.pos) (f.a.src f.ty.pos) (f.b.src f.ty.pos) f.c.predField
      (f.opm = 0)
  | .mov f => f.chk (f.ty = .b32 || f.ty = .b64) (f.d.dst f.ty.pos) (f.a.src f.ty.pos) f.b.zero f.c.zero (f.opm = 0)
  | .movi f => f.d.assigned && f.d.dst f.ty.pos && f.a.zero && f.rm = .rne && f.opm = 0 && (f.pw = 7 || f.d.isNb) &&
      (f.ty = .b32 || f.ty = .i32 || f.ty = .n32 || f.ty = .f32 || f.ty = .b64 || f.ty = .i64 || f.ty = .n64)
  | .lut3 f => f.chk f.ty.isB (f.d.dst f.ty.pos) (f.a.src f.ty.pos) (f.b.src f.ty.pos) (f.c.src f.ty.pos) true
  | .plut3 f => f.chk (f.ty = .b32) f.d.zero f.a.predField f.b.predField f.c.predField true false true
  | .ppack f => f.chk (f.ty = .b32) (f.d.dst .w32) f.a.zero f.b.zero f.c.zero (f.opm = 0)
  | .punpack f => f.chk (f.ty = .b32) f.d.zero (f.a.src .w32) f.b.zero f.c.zero (f.opm.toNat < 128)
  -- group 0x2 (R204)
  | .lea f => f.chk (f.ty = .i32 || f.ty = .n32) (f.d.dst .w64) f.a.pairNoImm (f.b.src .w32) (f.c.src .w32) (f.opm.toNat < 8)
  | .addc f => f.chk (f.ty = .n32) (f.d.dst .w32) (f.a.src .w32) (f.b.src .w32) f.c.predField (f.opm = 0) false true
  | .subc f => f.chk (f.ty = .n32) (f.d.dst .w32) (f.a.src .w32) (f.b.src .w32) f.c.predField (f.opm = 0) false true
  | .mulw f => f.chk (f.ty = .i32 || f.ty = .n32) (f.d.dst .w64) (f.a.src .w32) (f.b.src .w32) f.c.zero (f.opm = 0)
  | .madw f => f.chk (f.ty = .i32 || f.ty = .n32) (f.d.dst .w64) (f.a.src .w32) (f.b.src .w32) f.c.pairNoImm (f.opm.toNat < 2)
  | .pack f => f.chk (f.ty = .b64) (f.d.dst .w64) (f.a.src .w32) (f.b.src .w32) f.c.zero (f.opm = 0)
  | .regaddr f => f.chk (f.ty = .b64) (f.d.dst .w64) f.a.isMain f.b.zero f.c.zero (f.opm = 0)
  | .peeraddr f => f.chk (f.ty = .b64) (f.d.dst .w64) f.a.pairNoImm (f.b.src .w32) f.c.zero (f.opm = 0)
  | .spaddr f => f.chk (f.ty = .b64) (f.d.dst .w64) (f.a.src .w32) (f.b.src .w32) f.c.zero (f.opm = 0)
  | .alignup f => f.chk (f.ty = .n64) (f.d.dst .w64) (f.a.src .w64) (f.b.src .w32) f.c.zero (f.opm = 0)
  | .inrange f => f.chk (f.ty = .n64) f.d.zero (f.a.src .w64) (f.b.src .w64) (f.c.src .w64) (f.opm = 0) false true
  | .lpc f => f.chk true false f.a.zero (f.d.dst .w64)
  -- group 0x3 (R218)
  | .fadd f => f.flt f.ty.isP 2 true
  | .fsub f => f.flt f.ty.isP 2 true
  | .fmul f => f.flt f.ty.isP 2 true
  | .fma f => f.flt f.ty.isP 3 true 1
  | .fadd2 f => f.chk (f.ty = .f32) (f.d.dst .w64) (f.a.src .w32) (f.b.src .w32) f.c.zero (f.opm = 0)
  | .fdot2 f => f.chk (f.ty = .f32) (f.d.dst .w32) (f.a.src .w32) (f.b.src .w32) (f.c.src .w32)
      (f.opmLow = 0 && (f.ty2 = some .f16 || f.ty2 = some .bf16)) true
  | .fmin f => f.flt f.ty.isP 2 false
  | .fmax f => f.flt f.ty.isP 2 false
  | .fminp f => f.flt f.ty.isP 2 false
  | .fmaxp f => f.flt f.ty.isP 2 false
  | .fclamp f => f.flt f.ty.isP 3 false
  | .fabs f => f.flt f.ty.isP 1 false
  | .fneg f => f.flt f.ty.isP 1 false
  | .fcopysign f => f.flt f.ty.isP 2 false
  | .fsign f => f.flt f.ty.isP 1 false
  | .fabsdiff f => f.flt f.ty.isP 2 true
  | .fcmp f => f.chk (f.ty = .f32) f.d.zero (f.a.src .w32) (f.b.src .w32) f.c.zero (f.opm.toNat < 8) false true
  | .fclass f => f.flt (f.ty = .f32) 1 false
  | .frnd f => f.flt f.ty.isP 1 true
  | .ffract f => f.flt f.ty.isP 1 false
  | .fscale f => f.flt f.ty.isP 2 true
  | .fgetexp f => f.flt (f.ty = .f32) 1 false
  | .fgetman f => f.flt (f.ty = .f32) 1 false
  | .fhsel f => f.chk (f.ty = .f16 || f.ty = .bf16) (f.d.dst .w32) (f.a.src .w32) (f.b.src .w32) f.c.zero (f.opm.toNat < 4)
  -- group 0x4 (R221)
  | .faddF64 f => f.flt (f.ty = .f64) 2 true
  | .fsubF64 f => f.flt (f.ty = .f64) 2 true
  | .fmulF64 f => f.flt (f.ty = .f64) 2 true
  | .fmaF64 f => f.flt (f.ty = .f64) 3 true 1
  | .fadd2F64 f => f.chk (f.ty = .f64) (f.d.dst .w128) (f.a.src .w64) (f.b.src .w64) f.c.zero (f.opm = 0)
  | .fminF64 f => f.flt (f.ty = .f64) 2 false
  | .fmaxF64 f => f.flt (f.ty = .f64) 2 false
  | .fcmpF64 f => f.chk (f.ty = .f64) f.d.zero (f.a.src .w64) (f.b.src .w64) f.c.zero (f.opm.toNat < 8) false true
  | .frndF64 f => f.flt (f.ty = .f64) 1 true
  | .fdivF64 f => f.flt (f.ty = .f64) 2 true
  | .fsqrtF64 f => f.flt (f.ty = .f64) 1 true
  | .fclassF64 f => f.chk (f.ty = .f64) (f.d.dst .w32) (f.a.src .w64) f.b.zero f.c.zero (f.opm = 0)
  -- group 0x5 (R222, R308)
  | .cvt f => f.cvt (fun g => f.ty.isF && g.isF && f.ty != g && f.a.src g.pos && (!exactCvt f.ty g || f.rm = .rne) &&
      !(f.opmLow = 4 && g = .e4m3)) (f.d.dst f.ty.pos) true (f.draw f.b) (if f.rm = .sr then f.c.src .w32 else f.c.zero)
      (f.opmLow = 0 || f.opmLow = 4) true
  | .cvtF2i f => f.cvt (fun g => (f.ty.isI || f.ty.isN) && g.isF4 && f.a.src g.pos) (f.d.dst f.ty.pos) true f.b.zero f.c.zero
      (f.opmLow = 0) (f.rm != .sr)
  | .cvtI2f f => f.cvt (fun g => (g.isI || g.isN) && f.ty.isF4 && f.a.src g.pos) (f.d.dst f.ty.pos) true f.b.zero f.c.zero
      (f.opmLow = 0) (f.rm != .sr)
  | .cvtI2i f => f.cvt (fun g => (g.isI || g.isN) && (f.ty.isI || f.ty.isN) && f.a.src g.pos) (f.d.dst f.ty.pos) true f.b.zero
      f.c.zero (f.opmLow < 2) false
  | .cvtPk2 f => f.cvt (fun g => (f.ty = .f16 || f.ty = .bf16) && g = .f32) (f.d.dst .w32) (f.a.src .w32) (f.b.src .w32)
      (f.draw f.c) true true
  | .cvtPk4 f => f.cvt (fun g => (f.ty = .e4m3 || f.ty = .e5m2 || f.ty = .i8 || f.ty = .n8) && g = .f32) (f.d.dst .w32)
      (f.a.src .w128) (f.draw f.b) f.c.zero (f.opmLow / 2 % 2 = 0) true
  | .cvtUnpk2 f => f.cvt (fun g => f.ty = .f32 && (g = .f16 || g = .bf16)) (f.d.dst .w64) (f.a.src .w32) f.b.zero f.c.zero
      (f.opmLow = 0) false
  | .cvtUnpk4 f => f.cvt (fun g => f.ty = .f32 && (g = .e4m3 || g = .e5m2 || g = .i8 || g = .n8)) (f.d.dst .w128)
      (f.a.src .w32) f.b.zero f.c.zero (f.opmLow = 0) false
  | .cvtsc f => f.cvt (fun g => f.ty.isF && g.isF4 && f.a.src g.pos) (f.d.dst f.ty.pos) true (f.b.src .w32) (f.draw f.c) true
      true
  | .cvtscPk4 f => f.cvt (fun g => (f.ty = .e4m3 || f.ty = .e5m2 || f.ty = .i8 || f.ty = .n8) && g = .f32) (f.d.dst .w32)
      (f.a.src .w128) (f.b.src .w32) (f.draw f.c) (f.opmLow / 2 % 2 = 0) true
  | .cvtQ4 f => f.chk (f.ty = .f32) (f.d.dst .w32) (f.a.src .w32) (f.b.src .w32) f.c.zero (f.opm = 0)
  | .cvtF32Q4 f => f.chk (f.ty = .f32) (f.d.dst .w32) (f.a.src .w32) (f.b.src .w32) (f.c.src .w32) (f.opm = 0)
  -- group 0x6 (R227)
  | .rcp f => f.flt (f.ty = .f32) 1 false 1
  | .sqrt f => f.flt (f.ty = .f32) 1 false 1
  | .rsqrt f => f.flt (f.ty = .f32) 1 false 1
  | .fdivF32 f => f.flt (f.ty = .f32) 2 false 1
  | .exp2 f => f.flt (f.ty = .f32) 1 false 1
  | .log2 f => f.flt (f.ty = .f32) 1 false 1
  | .exp f => f.flt (f.ty = .f32) 1 false 1
  | .log f => f.flt (f.ty = .f32) 1 false 1
  | .sinpi f => f.flt (f.ty = .f32) 1 false 1
  | .cospi f => f.flt (f.ty = .f32) 1 false 1
  | .tanh f => f.flt (f.ty = .f32) 1 false 1
  | .logistic f => f.flt (f.ty = .f32) 1 false 1
  -- group 0x7 (R239)
  | .ld f => f.chk true (f.data.dst f.ty.pos) f.addr.addrPair (f.index.src .w32) f.loadOrd (f.mmod.toNat < 2)
  | .st f => f.chk true (f.data.src f.ty.pos) f.addr.addrPair (f.index.src .w32) f.storeOrd (f.mmod = 0)
  | .ld4 f => f.chk (f.ty = .b32) (f.data.dst .w128) f.addr.addrPair (f.index.src .w32) f.loadOrd (f.mmod.toNat < 2)
  | .st4 f => f.chk (f.ty = .b32) (f.data.src .w128) f.addr.addrPair (f.index.src .w32) f.storeOrd (f.mmod = 0)
  | .lds f => f.chk true (f.data.dst f.ty.pos) f.addr.zero (f.index.src .w32) f.plainOrd (f.mmod = 0)
  | .sts f => f.chk true (f.data.src f.ty.pos) f.addr.zero (f.index.src .w32) f.plainOrd (f.mmod = 0)
  | .lds4 f => f.chk (f.ty = .b32) (f.data.dst .w128) f.addr.zero (f.index.src .w32) f.plainOrd (f.mmod = 0)
  | .sts4 f => f.chk (f.ty = .b32) (f.data.src .w128) f.addr.zero (f.index.src .w32) f.plainOrd (f.mmod = 0)
  | .stmc f => f.chk true (f.data.src f.ty.pos) f.addr.addrPair (f.index.src .w32)
      (f.plainOrd || (f.order = .rel && f.scope = .span)) (f.mmod = 0)
  | .pf f => f.chk (f.ty = .b8) f.data.zero f.addr.addrPair (f.index.src .w32) f.plainOrd (f.mmod.toNat < 2) && f.fs = .none
  | .ldu f => f.chk true (f.data.isWreg && f.data.dst f.ty.pos) f.addr.addrPair (f.index.src .w32) f.loadOrd (f.mmod.toNat < 2)
  | .ldl f => f.chk true (f.data.dst f.ty.pos) f.addr.zero (f.index.src .w32) f.plainOrd (f.mmod = 0)
  | .stl f => f.chk true (f.data.src f.ty.pos) f.addr.zero (f.index.src .w32) f.plainOrd (f.mmod = 0)
  | .zline f => f.chk (f.ty = .b8) f.data.zero f.addr.addrPair (f.index.src .w32) f.plainOrd (f.mmod = 0)
  | .cwb f => f.chk (f.ty = .b8) f.data.zero f.addr.addrPair (f.index.src .w32) f.plainOrd (f.mmod = 0)
  | .cinv f => f.chk (f.ty = .b8) f.data.zero f.addr.addrPair (f.index.src .w32) f.plainOrd (f.mmod = 0)
  -- group 0x8 (R244)
  | .atom f => f.atom (FmtM.atomTy f.ty) (f.data.dst f.ty.pos) (f.index.src f.ty.pos) (f.aopOk 6) false false
  | .cas f => f.atom (f.ty = .b32 || f.ty = .b64) (f.data.dst f.ty.pos) (f.index.src (if f.ty = .b64 then .w128 else .w64))
      (f.aop = 0) false false
  | .red f => f.atom (FmtM.atomTy f.ty) (f.data.src f.ty.pos) f.index.zero (f.aopOk 5) false false
  | .fatom f => f.atom true (f.data.dst f.ty.pos) (f.index.src f.ty.pos) f.fopOk false false
  | .fred f => f.atom true (f.data.src f.ty.pos) f.index.zero f.fopOk false false
  | .atominc f => f.atom (f.ty = .n32) (f.data.dst .w32) (f.index.src .w32) (f.aop = 0) true false
  | .atomdec f => f.atom (f.ty = .n32) (f.data.dst .w32) f.index.zero (f.aop = 0) true false
  | .atoms f => f.atom (FmtM.atomTy f.ty) (f.data.dst f.ty.pos) (f.index.src f.ty.pos) (f.aopOk 6) false true
  | .cass f => f.atom (f.ty = .b32 || f.ty = .b64) (f.data.dst f.ty.pos) (f.index.src (if f.ty = .b64 then .w128 else .w64))
      (f.aop = 0) false true
  | .reds f => f.atom (FmtM.atomTy f.ty) (f.data.src f.ty.pos) f.index.zero (f.aopOk 5) false true
  | .fatoms f => f.atom true (f.data.dst f.ty.pos) (f.index.src f.ty.pos) f.fopOk false true
  | .freds f => f.atom true (f.data.src f.ty.pos) f.index.zero f.fopOk false true
  -- group 0x9 (R248)
  | .fence f => f.chk false (f.s7.toNat % 4 ≠ 0 && f.s7.toNat < 16) f.a.zero f.b.zero f.c.zero
  | .waita f => f.chk (FmtM.atomTy f.ty) (f.data.dst f.ty.pos) f.addr.addrPair (f.index.src f.ty.pos) f.loadOrd
      (f.mmod.toNat < 6 && (!f.ty.isB || f.mmod.toNat < 2))
  | .bar f => f.chk false (f.s7.toNat < 4) f.a.zero f.b.zero f.c.zero
  | .barArrive f => f.chk false (f.s7.toNat < 4) f.a.zero f.b.zero f.c.zero
  | .barWait f => f.chk false (f.s7.toNat < 4) f.a.zero f.b.zero f.c.zero
  | .gridbar => true
  | .cwait f => f.chk false (f.s7 = 0) (f.a.src .w32) f.b.zero f.c.zero
  | .rowait => true
  | .ropass => true
  | .rowhold f => f.chk true (f.s7 = 0) f.a.zero f.b.zero f.c.zero
  | .mile => true
  | .rsecBegin f => f.chk false (f.s7 = 8 || f.s7 = 12) f.a.zero f.b.zero f.c.zero
  | .rsecEnd => true
  | .rsdepth f => f.chk (f.ty = .n32) (f.d.dst .w32) f.a.zero f.b.zero f.c.zero (f.opm = 0)
  | .grace f => f.chk false (f.s7 = 8 || f.s7 = 12) f.a.zero f.b.zero f.c.zero
  | .dfree f => f.chk false (f.s7 = 8 || f.s7 = 12) f.a.pairNoImm (f.b.src .w32) (f.c.src .w32)
  | .balloc f => f.chk (f.ty = .b64) (f.d.dst .w64) f.a.zero f.b.zero (f.c.src .w32) (f.opm = 0) false true
  | .bfree f => f.chk false (f.s7 = 0) f.a.pairNoImm (f.b.src .w32) (f.c.src .w32)
  | .bpstat f => f.chk (f.ty = .n32) (f.d.dst .w32) f.a.zero f.b.zero (f.c.src .w32) (f.opm = 0)
  | .pause f => f.chk false (f.s7 = 0) (f.a.src .w32) f.b.zero f.c.zero
  -- group 0xA (R260)
  | .push f => f.chk (f.ty = .n32 || f.ty = .i32 || f.ty = .b32 || f.ty = .f32) f.d.isQueue (f.a.src .w32) f.b.zero f.c.zero
      (f.opm = 0)
  | .pop f => f.chk (f.ty = .n32 || f.ty = .i32 || f.ty = .b32 || f.ty = .f32) (f.d.dst .w32) f.a.isQueue f.b.zero f.c.zero
      (f.opm = 0)
  | .qpeek f => f.chk (f.ty = .n32 || f.ty = .i32 || f.ty = .b32 || f.ty = .f32) (f.d.dst .w32) f.a.isQueue f.b.zero f.c.zero
      (f.opm = 0)
  | .qcfg f => f.chk false (f.s7.toNat < 64) f.a.isWreg (f.b.src .w32) f.c.zero
  | .qstat f => f.chk (f.ty = .n32) (f.d.dst .w32) (f.a.immBelow 64) f.b.zero f.c.zero (f.opm = 0)
  | .cpy f => f.copy (f.b.isWreg && f.b.src .w64) (FmtS.uval .w32 f.c) false
  | .cpy2d f => f.copy (f.b.isWreg && f.b.src .w64) (FmtS.uval .w64 f.c) true
  | .cpymc f => f.copy (f.b.isWreg && f.b.src .w64) (FmtS.uval .w32 f.c) (f.imm.toNat < 65536)
  | .cpfill f => f.copy (FmtS.uval .w32 f.b) (FmtS.uval .w32 f.c) false
  | .ldwp f => f.chk (f.ty = .b64) (f.d.dst .w64) (f.a.immBelow 4) f.b.zero f.c.zero (f.opm = 0)
  | .waitwp f => f.chk (f.ty = .b64) (f.d.dst .w64) (f.a.immBelow 4) (f.b.src .w64) f.c.zero (f.opm = 0)
  | .cpkill f => f.chk false (f.s7.toNat < 4) f.a.zero f.b.zero f.c.zero
  -- group 0xB (R269, R270)
  | .xlAt f => f.xl (f.ty = .b32 || f.ty = .b64) (f.d.dst f.ty.pos) (f.a.src f.ty.pos) (f.b.src .w32) (f.c.src f.ty.pos) true
  | .xlBelow f => f.xl (f.ty = .b32 || f.ty = .b64) (f.d.dst f.ty.pos) (f.a.src f.ty.pos) (f.b.src .w32) (f.c.src f.ty.pos) true
  | .xlAbove f => f.xl (f.ty = .b32 || f.ty = .b64) (f.d.dst f.ty.pos) (f.a.src f.ty.pos) (f.b.src .w32) (f.c.src f.ty.pos) true
  | .xlXor f => f.xl (f.ty = .b32 || f.ty = .b64) (f.d.dst f.ty.pos) (f.a.src f.ty.pos) (f.b.src .w32) (f.c.src f.ty.pos) true
  | .quadx f => f.xl (f.ty = .b32 || f.ty = .b64) (f.d.dst f.ty.pos) (f.a.src f.ty.pos)
      (f.b = .imm 1 || f.b = .imm 2 || f.b = .imm 3) (f.c.src f.ty.pos) false
  | .quadb f => f.xl (f.ty = .b32 || f.ty = .b64) (f.d.dst f.ty.pos) (f.a.src f.ty.pos) (f.b.src .w32) (f.c.src f.ty.pos) false
  | .vote f => f.xl (f.ty = .b32) f.d.zero f.a.predField (f.b.immBelow 3) f.c.zero true true
  | .ballot f => f.xl (f.ty = .b32) (f.d.dst .w32) f.a.predField f.b.zero f.c.zero true
  | .lred f => f.xl (FmtM.atomTy f.ty) (f.d.dst f.ty.pos) (f.a.src f.ty.pos)
      (match f.b with | .imm x => if f.ty.isB then 3 ≤ x.toNat && x.toNat ≤ 5 else x.toNat ≤ 2 | _ => false) f.c.zero true
  | .flred f => f.xl (f.ty = .f32) (f.d.dst .w32) (f.a.src .w32) (f.b.immBelow 3) f.c.zero true
  | .scan f => f.xl (FmtM.atomTy f.ty) (f.d.dst f.ty.pos) (f.a.src f.ty.pos)
      (match f.b with
        | .imm x => x.toNat < 16 && (if f.ty.isB then 3 ≤ x.toNat % 8 && x.toNat % 8 ≤ 5 else x.toNat % 8 ≤ 2)
        | _ => false) f.c.zero true
  | .fscan f => f.xl (f.ty = .f32) (f.d.dst .w32) (f.a.src .w32)
      (match f.b with | .imm x => x.toNat < 16 && x.toNat % 8 ≤ 2 | _ => false) f.c.zero true
  | .peers f => f.xl (f.ty = .b32 || f.ty = .b64) (f.d.dst .w32) (f.a.src f.ty.pos) f.b.zero f.c.zero true
  | .same f => f.xl (f.ty = .b32 || f.ty = .b64) (f.d.dst .w32) (f.a.src f.ty.pos) f.b.zero f.c.zero true true
  | .present f => f.xl (f.ty = .b32) (f.d.dst .w32) f.a.zero f.b.zero f.c.zero false
  | .first f => f.xl (f.ty = .b32) f.d.zero f.a.zero f.b.zero f.c.zero true true
  -- group 0xC (R280, R309)
  | .rndCg10 f => f.chkNoQ (f.ty = .b32) (f.d.dst .w128) (f.a.src .w32) (f.b.src .w32) (f.c.src .w32) (f.opm.toNat % 4 = 0)
  | .rnd4Cg10 f => f.chkNoQ (f.ty = .b32) (f.d.dst .w128) (f.a.src .w128) f.b.zero f.c.zero (f.opm.toNat % 4 = 0)
  | .rndkCg10 f => f.chkNoQ (f.ty = .b32) (f.d.dst .w128) (f.a.src .w128) (f.b.src .w64) f.c.zero (f.opm = 0)
  | .unif f => f.chkNoQ (f.ty = .f32) (f.d.dst .w32) (f.a.src .w32) f.b.zero f.c.zero (f.opm.toNat < 2)
  | .rkey f => f.chkNoQ (f.ty = .b64)
      (match f.d with | .main _ | .opf _ | .wreg _ => f.d.dst .w64 | _ => false) f.a.zero f.b.zero f.c.zero (f.opm.toNat % 4 = 0)
  | .addlw f => f.chkNoQ (f.ty = .lw64) (f.d.dst .w64) (f.a.src .w64) (f.b.src .w64) f.c.zero (f.opm = 0)
  | .lwcvt f => f.chk (f.ty = .lw64) (f.d.dst .w64) (f.a.src .w32) f.b.zero f.c.zero (f.opm = 0)
  | .pwadd f => f.chkNoQ (f.ty = .lw64) f.d.zero (f.a.src .w64) f.b.zero f.c.zero (f.opm = 0)
  | .rsb f => f.chkNoQ (f.ty = .n32) (f.d.dst .w32) f.a.zero f.b.zero f.c.zero (f.opm = 0) true
  | .psetroot f => f.chkNoQ (f.ty = .b64) f.d.zero (f.a.src .w64) f.b.zero f.c.zero (f.opm = 0)
  | .lwf f => f.chk (f.ty = .f32) (f.d.dst .w32) (f.a.src .w64) f.b.zero f.c.zero (f.opm = 0)
  | .lwe f => f.chkNoQ (f.ty = .n64) (f.d.dst .w64) (f.a.src .w64) f.b.zero f.c.zero (f.opm = 0)
  -- group 0xD (R300, R163)
  | .mma f => f.chk true true true false true true (FmtX.coord f.cc) (f.xmod.toNat < 8) true
  | .mmas f => f.chk true true true false true true (FmtX.coord f.cc) (f.xmod.toNat < 8) true
  | .tzero f => f.chk true false false false false false f.cc.zero (f.xmod = 0) false
  | .tld f => f.chk true false false true true true f.cc.zero (f.xmod = 0) true
  | .tst f => f.chk true false false true true true f.cc.zero (f.xmod = 0) true
  | .trd f => f.chk true false false false true false (FmtX.mainPair f.cc) (f.xmod = 0) false
  | .twr f => f.chk true false false false true false (FmtX.mainPair f.cc) (f.xmod = 0) false
  | .tscl f => f.chk true false false false false false (FmtX.mainPair f.cc) (f.xmod = 0) false
  | .trel f => f.chk true false false false false false f.cc.zero (f.xmod = 0) false
  | .qsm f => f.chk false true false false false true f.cc.isMain (f.xmod.toNat < 8192) false
  | .swinv f => f.chk false true false false false false f.cc.zero (f.xmod.toNat < 2) false
  | .spgen f => f.chk false false true false true true f.cc.isMain (f.xmod.toNat < 32) false
  | .macq => true
  | .mrel => true
  -- group 0xE (R138, R153, R327)
  | .trap f => f.chk false (f.s7 = 0) f.a.zero f.b.zero f.c.zero false true
  | .brk => true
  | .rdarch f => f.chk (f.ty = .n32) (f.d.dst .w32) f.a.zero f.b.zero f.c.zero (f.opm = 0)
  | .tnext f => f.chkNoQ (f.ty = .n32) (f.d.dst .w32) f.a.zero f.b.zero f.c.zero (f.opm = 0)
  | .tres f => f.chk true (f.s7 = 0) (f.a.src .w32) f.b.zero f.c.zero
  | .tskip f => f.chk true (f.s7 = 0) (f.a.src .w32) f.b.zero f.c.zero
  | .tstep f => f.chk true (f.s7 = 0) (f.a.src .w32) f.b.zero f.c.zero
  | .tkill f => f.chk true (f.s7 = 0) (f.a.src .w32) f.b.zero f.c.zero
  | .tstop f => f.chk false (f.s7 = 0) (f.a.src .w32) f.b.zero f.c.zero
  | .csave f => f.chk true (f.s7 = 0) (f.a.src .w32) f.b.pairNoImm f.c.zero
  | .cload f => f.chk true (f.s7 = 0) (f.a.src .w32) f.b.pairNoImm f.c.zero
  | .crd f => f.chkNoQ (f.ty = .n32) (f.d.dst .w32) f.a.zero f.b.isImm f.c.zero (f.opm = 0)
  | .cwr f => f.chk false true (f.a.src .w32) f.b.zero f.c.zero
  | .tdone => true
  | .iflush => true
  | .dwsync => true
  | .regrow f => f.chk true true f.a.zero f.b.zero f.c.zero
  | .regshrink f => f.chk false true f.a.zero f.b.zero f.c.zero
  | .launch f => f.chk true (f.s7.toNat < 64) f.a.addrPair f.b.zero f.c.zero
  | .hnotify f => f.chk false (f.s7 = 0) (f.a.src .w32) f.b.zero f.c.zero
  -- group 0xF (R187, R266)
  | .aloop f => f.chk true false (f.a.accessOk && (f.a.isMain || f.a.isImm)) (f.d.accessOk && f.d.isMain)
  | .aend => true
  | .aadd f => f.stream 2
  | .asub f => f.stream 2
  | .amad f => f.stream 3
  | .amovi f => f.d.accessOk && f.d.isMain && f.d.dst f.ty.pos && f.a.zero && f.rm = .rne && f.opm = 0 &&
      f.pw = 7 && (f.ty = .n32 || f.ty = .n64)
  | .amin f => f.stream 2
  | .aand f => f.stream 2
  | .ashr f => f.stream 2
  | .ald f => f.stream (f.ty = .n32 || f.ty = .n64) (f.data.isMain && f.data.dst f.ty.pos)
      (f.index.src .w32 && !f.index.isQueue) f.loadOrd (f.mmod.toNat < 16) true
  | .apush f => f.stream (f.ty = .n32 || f.ty = .i32 || f.ty = .b32 || f.ty = .f32)
      (f.data.isQueue && !f.data.isNb) (f.index.src .w32 && !f.index.isQueue) f.plainOrd (f.mmod.toNat < 16) true
  | .agath f => f.stream (f.ty = .n32 || f.ty = .i32 || f.ty = .b32 || f.ty = .f32)
      (f.data.isQueue && !f.data.isNb) (f.index.isQueue && !f.index.isNb) f.plainOrd true true
  | .ast f => f.stream (f.ty = .n32 || f.ty = .i32 || f.ty = .b32 || f.ty = .f32)
      (f.data.isQueue && !f.data.isNb) (f.index.src .w32 && !f.index.isQueue) f.plainOrd (f.mmod.toNat < 16) true
  | .apf f => f.stream (f.ty = .b8) f.data.zero (f.index.src .w32 && !f.index.isQueue) f.plainOrd
      (f.mmod.toNat < 16) (f.fs = .none)
  | .astop => true
  | .afence f => f.chk false (f.s7.toNat % 4 ≠ 0 && f.s7.toNat < 16) f.a.zero f.b.zero f.c.zero
  -- hardware steps: what they name exists in a package (R3, R44, R64, R135, R142)
  | .memoryAccessDone _ _ => true
  | .waitaRecheck c s l => coreOk c && s < Config.warpSlots && l < 32
  | .barrierPhaseComplete _ n => n < 4
  | .barrierDeadlock _ => true
  | .gridbarComplete _ => true
  | .tokenArrives _ => true
  | .graceComplete _ => true
  | .internalGrace _ => true
  | .pauseExpiry c s l => coreOk c && s < Config.warpSlots && l < 32
  | .queuePushUnblock _ q => q < 64
  | .queuePopUnblock _ q => q < 64
  | .copyAccept c ch => coreOk c && ch < 4
  | .copyDone c ch => coreOk c && ch < 4
  | .waitwpWake c s l => coreOk c && s < Config.warpSlots && l < 32
  | .collectiveIssue c s => coreOk c && s < Config.warpSlots
  | .rejoinRelease c s b => coreOk c && s < Config.warpSlots && b < 16
  | .convergenceTimeout c s => coreOk c && s < Config.warpSlots
  | .popBarrierClose p => p < 64
  | .stragglerDeadline p => p < 64
  | .arrivalReport p _ _ _ => p < 64
  | .matrixOpComplete c => coreOk c
  | .leaseHandoff c => coreOk c
  | .tileBindGrant c => coreOk c
  | .tileBindTimeout c => coreOk c
  | .regrowGrant c => coreOk c
  | .regrowFailTimeout c => coreOk c
  | .clauseStart c p => coreOk c && (match p with | .part n => n < 4 | .stream n => n < Config.warpSlots | .control => true)
  | .translationWalkDone c x _ => coreOk c && x < 256
  | .xlinvGranule _ => true
  | .xlinvContext _ => true
  | .xlinvAll _ => true
  | .xlinvComplete => true
  | .fqresumeResume _ => true
  | .fqresumeKill _ => true
  | .fqtailWrite _ => true
  | .fqbaseWrite _ => true
  | .launchRegister q _ => q < Config.queues
  | .lqcfgWrite q _ => q < Config.queues
  | .lqbaseWrite q _ => q < Config.queues
  | .dependencePoll => true
  | .dispatchWorkgroup => true
  | .doneWordWrite _ => true
  | .swapOut _ => true
  | .reduceBlockDispatch _ => true
  | .collectiveTimeout _ => true
  | .reduceBlockDone _ => true
  | .loadRequest _ => true
  | .store _ => true
  | .atomic _ => true
  | .combinedAtomic _ => true
  | .loadReply _ => true
  | .acknowledgement _ => true
  | .multicastStore _ => true
  | .copyWrite _ => true
  | .recoveryToken _ => true
  | .lossNotice _ => true
  | .invalidPacket _ => true
  | .fatalErrorReport p => p < 16
  | .routerHoldTimeout p => p < 19
  | .tokenReissue => true
  | .lossTimeout p => p < 16
  | .flitCrcFail p => p < 18
  | .laneFailure p => p < 18
  | .linkDown p => p < 18
  | .linkUp p => p < 18
  | .fxmcdataWrite _ => true
  | .mcUpdateDone => true
  | .preempt _ => true
  | .resume _ => true
  | .preemptSaveComplete => true
  | .contextRestore _ => true
  | .rprun _ => true
  | .rpclose _ => true
  | .rpend _ => true
  | .courseCommit => true
  | .getMeasurements _ _ => true
  | .elreadWrite _ => true
  | .elckpt _ => true
  | .subcmdCore _ => true
  | .subcmdSlice _ => true
  | .subcmdChannel _ => true
  | .substitutionDone => true
  | .pwclkWrite _ => true
  | .pwgateWrite _ => true
  | .pwrefWrite _ => true
  | .pwtripclr _ => true
  | .thermalTrip d _ => d < 4
  | .correctedError _ _ _ => true
  | .errorCountHour => true
  | .reset => true
  | .registerWrite _ _ => true
  | .copyLineDelivered c ch => coreOk c && ch < 4
  | .relayedPacket a => a.port < 18
  | .controlCoreFirmwareReload c x _ => coreOk c && x < 256
  | .applicationCoreMemoryAccess _ => true
  | .clockChangeEffective => true
  | .hostCommandedPowerDown => true

/-- The guard a form allows: 0b0111 alone in `regrow`, `regshrink`, `macq`, `mrel` and `aend` (R138, R163, R187), p7 alone in a
stream form (log 12), any in the others (R176). -/
def Instr.guardOk (g : Guard) : Instr → Bool
  | .regrow _ | .regshrink _ | .macq | .mrel | .aend => g.always
  | .aloop _ | .aadd _ | .asub _ | .amad _ | .amovi _ | .amin _ | .aand _ | .ashr _ | .ald _ | .apush _ | .agath _ | .ast _
  | .apf _ | .astop | .afence _ => g.streamOk
  | _ => true

end Sys2Proof
end

