-- ==== Sys2Proof/Decode.lean ====
section
/-! DEFINITION. The decoder (R170 to R190), total on any 96 bits, and after it the encoder, both written from the field tables of
chapter 10 and the opcode tables of the instruction chapters. -/

namespace Sys2Proof

/-- Why the decoder refuses a slot, in the order of R190. -/
inductive DecodeError where
  /-- The illegal-opcode trap (R189). -/
  | illegalOpcode
  /-- The illegal-encoding trap (R177 to R188 and the instruction chapters). -/
  | illegalEncoding
  deriving DecidableEq, Repr

/-! ## Fields -/

/-- Bits [lo+n-1:lo] of an instruction. -/
def fld (w : IWord) (lo n : Nat) : BitVec n := w.extractLsb' lo n

/-- The operand of a 12-bit field (R177, R178); none where the field value is unassigned. -/
def decodeOperand (x : BitVec 12) : Option Operand :=
  let k : BitVec 10 := x.extractLsb' 0 10
  match (x.extractLsb' 10 2 : BitVec 2).toNat with
  | 0 => some (.main k)
  | 1 => if k.toNat < 16 then some (.opf (k.extractLsb' 0 4)) else none
  | 2 => if k.toNat < 5 then some (.latch (k.extractLsb' 0 3)) else none
  | _ =>
    match (k.extractLsb' 8 2 : BitVec 2).toNat with
    | 0 => if k.toNat < 128 then some (.queue (k.extractLsb' 0 6) (k.getLsbD 6)) else none
    | 1 => if specialOk (k.extractLsb' 0 8) then some (.special (k.extractLsb' 0 8)) else none
    | 2 => some (.imm (k.extractLsb' 0 8))
    | _ => if k.toNat < 832 then some (.wreg (k.extractLsb' 0 6)) else none

/-- The 12-bit field of an operand (R177). -/
def encodeOperand : Operand → BitVec 12
  | .main k => 0#2 ++ k
  | .opf k => 1#2 ++ (0#6 ++ k)
  | .latch k => 2#2 ++ (0#7 ++ k)
  | .queue k nb => 3#2 ++ (0#3 ++ (BitVec.ofBool nb ++ k))
  | .special c => 3#2 ++ (1#2 ++ c)
  | .imm x => 3#2 ++ (2#2 ++ x)
  | .wreg k => 3#2 ++ (3#2 ++ (0#2 ++ k))

/-- RM (R181). -/
def decodeRnd (x : BitVec 3) : Option Rnd :=
  match x.toNat with
  | 0 => some .rne | 1 => some .rtz | 2 => some .rdn | 3 => some .rup | 4 => some .sr | _ => none

def encodeRnd : Rnd → BitVec 3
  | .rne => 0 | .rtz => 1 | .rdn => 2 | .rup => 3 | .sr => 4

/-- HINT (R57). -/
def decodeHint (x : BitVec 2) : Hint :=
  match x.toNat with
  | 0 => .stream | 1 => .dflt | 2 => .sticky | _ => .bypass

def encodeHint : Hint → BitVec 2
  | .stream => 0 | .dflt => 1 | .sticky => 2 | .bypass => 3

/-- SCOPE (R183). -/
def decodeScope (x : BitVec 2) : Scope :=
  match x.toNat with
  | 0 => .wp | 1 => .wg | 2 => .pkg | _ => .span

def encodeScope : Scope → BitVec 2
  | .wp => 0 | .wg => 1 | .pkg => 2 | .span => 3

/-- ORDER (R183). -/
def decodeOrder (x : BitVec 2) : Order :=
  match x.toNat with
  | 0 => .plain | 1 => .acq | 2 => .rel | _ => .ar

def encodeOrder : Order → BitVec 2
  | .plain => 0 | .acq => 1 | .rel => 2 | .ar => 3

/-- FS (R183); 11 is illegal. -/
def decodeFs (x : BitVec 2) : Option FlagSel :=
  match x.toNat with
  | 0 => some .none | 1 => some .a | 2 => some .b | _ => none

def encodeFs : FlagSel → BitVec 2
  | .none => 0 | .a => 1 | .b => 2

/-- GRD (R176). -/
def decodeGuard (x : BitVec 4) : Guard := { neg := x.getLsbD 3, pred := x.extractLsb' 0 3 }

def encodeGuard (g : Guard) : BitVec 4 := BitVec.ofBool g.neg ++ g.pred

def guardOf (w : IWord) : Guard := decodeGuard (fld w 82 4)

/-! ## The six formats; a reserved field that is not zero refuses the word -/

def parseA (w : IWord) : Option FmtA := do
  let d ← decodeOperand (fld w 70 12)
  let a ← decodeOperand (fld w 58 12)
  let b ← decodeOperand (fld w 46 12)
  let c ← decodeOperand (fld w 34 12)
  let rm ← decodeRnd (fld w 31 3)
  let ty ← Ty.ofCode (fld w 26 5)
  if fld w 0 15 = 0 then
    some { d := d, a := a, b := b, c := c, rm := rm, ty := ty, opm := fld w 18 8, pw := fld w 15 3 }
  else none

def parseI (w : IWord) : Option FmtI := do
  let d ← decodeOperand (fld w 70 12)
  let a ← decodeOperand (fld w 58 12)
  let rm ← decodeRnd (fld w 55 3)
  let ty ← Ty.ofCode (fld w 50 5)
  if fld w 32 7 = 0 then
    some { d := d, a := a, rm := rm, ty := ty, opm := fld w 42 8, pw := fld w 39 3, imm := fld w 0 32 }
  else none

def parseM (w : IWord) : Option FmtM := do
  let data ← decodeOperand (fld w 70 12)
  let addr ← decodeOperand (fld w 58 12)
  let index ← decodeOperand (fld w 46 12)
  let ty ← Ty.ofCode (fld w 11 5)
  let fs ← decodeFs (fld w 9 2)
  some { data := data, addr := addr, index := index, off := fld w 22 24, hint := decodeHint (fld w 20 2),
         scope := decodeScope (fld w 18 2), order := decodeOrder (fld w 16 2), ty := ty, fs := fs, mmod := fld w 0 9 }

def parseB (w : IWord) : Option FmtB := do
  let a ← decodeOperand (fld w 39 12)
  let d ← decodeOperand (fld w 27 12)
  if fld w 0 27 = 0 then
    some { off := fld w 58 24, slot := fld w 55 3, bar := fld w 51 4, a := a, d := d }
  else none

def parseX (w : IWord) : Option FmtX := do
  let ca ← decodeOperand (fld w 43 12)
  let cb ← decodeOperand (fld w 31 12)
  let cc ← decodeOperand (fld w 19 12)
  let fs ← decodeFs (fld w 1 2)
  if fld w 0 1 = 0 then
    some { tile := fld w 79 3, swa := fld w 71 8, swb := fld w 63 8, swc := fld w 55 8, ca := ca, cb := cb,
           cc := cc, xmod := fld w 3 16, fs := fs }
  else none

def parseS (w : IWord) : Option FmtS := do
  let a ← decodeOperand (fld w 60 12)
  let b ← decodeOperand (fld w 48 12)
  let c ← decodeOperand (fld w 36 12)
  let fs ← decodeFs (fld w 34 2)
  if fld w 32 2 = 0 then
    some { pw := fld w 79 3, s7 := fld w 72 7, a := a, b := b, c := c, fs := fs, imm := fld w 0 32 }
  else none

/-- `nop` ignores GRD; its bits [81:0] are zero (R189). -/
def bareNop (i : Instr) (w : IWord) : Option Instr := if fld w 0 82 = 0 then some i else none

/-- A format B form that uses no field: all of them are zero (R206). -/
def bareB (i : Instr) (w : IWord) : Option Instr := if fld w 0 82 = 0 then some i else none

/-- A format S form that lists no field: PW is 0b111 and the rest zero (R186). -/
def bareS (i : Instr) (w : IWord) : Option Instr := if fld w 0 82 = 7#3 ++ 0#79 then some i else none

/-! ## The opcode map: outer none is an unassigned index, inner none a field that no form allows -/

def decodeControl (w : IWord) : Nat → Option (Option Instr)
  | 0x00 => some (bareNop .nop w)
  | 0x01 => some ((parseB w).map .bra)
  | 0x02 => some ((parseB w).map .brt)
  | 0x03 => some ((parseB w).map .brx)
  | 0x04 => some ((parseB w).map .call)
  | 0x05 => some ((parseB w).map .callx)
  | 0x06 => some (bareB .ret w)
  | 0x07 => some ((parseB w).map .enrol)
  | 0x08 => some ((parseB w).map .rejoin)
  | 0x09 => some ((parseB w).map .bclr)
  | 0x0A => some ((parseB w).map .bread)
  | 0x0B => some (bareB .exit w)
  | _ => none

def decodeInteger (w : IWord) : Nat → Option (Option Instr)
  | 0x00 => some ((parseA w).map .add)
  | 0x01 => some ((parseA w).map .sub)
  | 0x02 => some ((parseA w).map .mul)
  | 0x03 => some ((parseA w).map .mulhi)
  | 0x04 => some ((parseA w).map .mad)
  | 0x05 => some ((parseA w).map .div)
  | 0x06 => some ((parseA w).map .rem)
  | 0x07 => some ((parseA w).map .min)
  | 0x08 => some ((parseA w).map .max)
  | 0x09 => some ((parseA w).map .abs)
  | 0x0A => some ((parseA w).map .neg)
  | 0x0B => some ((parseA w).map .and)
  | 0x0C => some ((parseA w).map .or)
  | 0x0D => some ((parseA w).map .xor)
  | 0x0E => some ((parseA w).map .not)
  | 0x0F => some ((parseA w).map .shl)
  | 0x10 => some ((parseA w).map .shr)
  | 0x11 => some ((parseA w).map .rot)
  | 0x12 => some ((parseA w).map .popc)
  | 0x13 => some ((parseA w).map .clz)
  | 0x14 => some ((parseA w).map .ctz)
  | 0x15 => some ((parseA w).map .brev)
  | 0x16 => some ((parseA w).map .bfx)
  | 0x17 => some ((parseA w).map .bfi)
  | 0x18 => some ((parseA w).map .cmp)
  | 0x19 => some ((parseA w).map .sel)
  | 0x1A => some ((parseA w).map .mov)
  | 0x1B => some ((parseI w).map .movi)
  | 0x1C => some ((parseA w).map .lut3)
  | 0x1D => some ((parseA w).map .plut3)
  | 0x1E => some ((parseA w).map .ppack)
  | 0x1F => some ((parseA w).map .punpack)
  | _ => none

def decodeAddress (w : IWord) : Nat → Option (Option Instr)
  | 0x00 => some ((parseA w).map .lea)
  | 0x01 => some ((parseA w).map .addc)
  | 0x02 => some ((parseA w).map .subc)
  | 0x03 => some ((parseA w).map .mulw)
  | 0x04 => some ((parseA w).map .madw)
  | 0x05 => some ((parseA w).map .pack)
  | 0x06 => some ((parseA w).map .regaddr)
  | 0x07 => some ((parseA w).map .peeraddr)
  | 0x08 => some ((parseA w).map .spaddr)
  | 0x09 => some ((parseA w).map .alignup)
  | 0x0A => some ((parseA w).map .inrange)
  | 0x0B => some ((parseB w).map .lpc)
  | _ => none

def decodeFp32 (w : IWord) : Nat → Option (Option Instr)
  | 0x00 => some ((parseA w).map .fadd)
  | 0x01 => some ((parseA w).map .fsub)
  | 0x02 => some ((parseA w).map .fmul)
  | 0x03 => some ((parseA w).map .fma)
  | 0x04 => some ((parseA w).map .fadd2)
  | 0x05 => some ((parseA w).map .fdot2)
  | 0x06 => some ((parseA w).map .fmin)
  | 0x07 => some ((parseA w).map .fmax)
  | 0x08 => some ((parseA w).map .fminp)
  | 0x09 => some ((parseA w).map .fmaxp)
  | 0x0A => some ((parseA w).map .fclamp)
  | 0x0B => some ((parseA w).map .fabs)
  | 0x0C => some ((parseA w).map .fneg)
  | 0x0D => some ((parseA w).map .fcopysign)
  | 0x0E => some ((parseA w).map .fsign)
  | 0x0F => some ((parseA w).map .fabsdiff)
  | 0x10 => some ((parseA w).map .fcmp)
  | 0x11 => some ((parseA w).map .fclass)
  | 0x12 => some ((parseA w).map .frnd)
  | 0x13 => some ((parseA w).map .ffract)
  | 0x14 => some ((parseA w).map .fscale)
  | 0x15 => some ((parseA w).map .fgetexp)
  | 0x16 => some ((parseA w).map .fgetman)
  | 0x17 => some ((parseA w).map .fhsel)
  | _ => none

def decodeFp64 (w : IWord) : Nat → Option (Option Instr)
  | 0x00 => some ((parseA w).map .faddF64)
  | 0x01 => some ((parseA w).map .fsubF64)
  | 0x02 => some ((parseA w).map .fmulF64)
  | 0x03 => some ((parseA w).map .fmaF64)
  | 0x04 => some ((parseA w).map .fadd2F64)
  | 0x05 => some ((parseA w).map .fminF64)
  | 0x06 => some ((parseA w).map .fmaxF64)
  | 0x07 => some ((parseA w).map .fcmpF64)
  | 0x08 => some ((parseA w).map .frndF64)
  | 0x09 => some ((parseA w).map .fdivF64)
  | 0x0A => some ((parseA w).map .fsqrtF64)
  | 0x0B => some ((parseA w).map .fclassF64)
  | _ => none

def decodeConvert (w : IWord) : Nat → Option (Option Instr)
  | 0x00 => some ((parseA w).map .cvt)
  | 0x01 => some ((parseA w).map .cvtF2i)
  | 0x02 => some ((parseA w).map .cvtI2f)
  | 0x03 => some ((parseA w).map .cvtI2i)
  | 0x04 => some ((parseA w).map .cvtPk2)
  | 0x05 => some ((parseA w).map .cvtPk4)
  | 0x06 => some ((parseA w).map .cvtUnpk2)
  | 0x07 => some ((parseA w).map .cvtUnpk4)
  | 0x08 => some ((parseA w).map .cvtsc)
  | 0x09 => some ((parseA w).map .cvtscPk4)
  | 0x0A => some ((parseA w).map .cvtQ4)
  | 0x0B => some ((parseA w).map .cvtF32Q4)
  | _ => none

def decodeSpecial (w : IWord) : Nat → Option (Option Instr)
  | 0x00 => some ((parseA w).map .rcp)
  | 0x01 => some ((parseA w).map .sqrt)
  | 0x02 => some ((parseA w).map .rsqrt)
  | 0x03 => some ((parseA w).map .fdivF32)
  | 0x04 => some ((parseA w).map .exp2)
  | 0x05 => some ((parseA w).map .log2)
  | 0x06 => some ((parseA w).map .exp)
  | 0x07 => some ((parseA w).map .log)
  | 0x08 => some ((parseA w).map .sinpi)
  | 0x09 => some ((parseA w).map .cospi)
  | 0x0A => some ((parseA w).map .tanh)
  | 0x0B => some ((parseA w).map .logistic)
  | _ => none

def decodeLoadStore (w : IWord) : Nat → Option (Option Instr)
  | 0x00 => some ((parseM w).map .ld)
  | 0x01 => some ((parseM w).map .st)
  | 0x02 => some ((parseM w).map .ld4)
  | 0x03 => some ((parseM w).map .st4)
  | 0x04 => some ((parseM w).map .lds)
  | 0x05 => some ((parseM w).map .sts)
  | 0x06 => some ((parseM w).map .lds4)
  | 0x07 => some ((parseM w).map .sts4)
  | 0x08 => some ((parseM w).map .stmc)
  | 0x09 => some ((parseM w).map .pf)
  | 0x0A => some ((parseM w).map .ldu)
  | 0x0B => some ((parseM w).map .ldl)
  | 0x0C => some ((parseM w).map .stl)
  | 0x0D => some ((parseM w).map .zline)
  | 0x0E => some ((parseM w).map .cwb)
  | 0x0F => some ((parseM w).map .cinv)
  | _ => none

def decodeAtomics (w : IWord) : Nat → Option (Option Instr)
  | 0x00 => some ((parseM w).map .atom)
  | 0x01 => some ((parseM w).map .cas)
  | 0x02 => some ((parseM w).map .red)
  | 0x03 => some ((parseM w).map .fatom)
  | 0x04 => some ((parseM w).map .fred)
  | 0x05 => some ((parseM w).map .atominc)
  | 0x06 => some ((parseM w).map .atomdec)
  | 0x07 => some ((parseM w).map .atoms)
  | 0x08 => some ((parseM w).map .cass)
  | 0x09 => some ((parseM w).map .reds)
  | 0x0A => some ((parseM w).map .fatoms)
  | 0x0B => some ((parseM w).map .freds)
  | _ => none

def decodeSync (w : IWord) : Nat → Option (Option Instr)
  | 0x00 => some ((parseS w).map .fence)
  | 0x01 => some ((parseM w).map .waita)
  | 0x02 => some ((parseS w).map .bar)
  | 0x03 => some ((parseS w).map .barArrive)
  | 0x04 => some ((parseS w).map .barWait)
  | 0x05 => some (bareS .gridbar w)
  | 0x06 => some ((parseS w).map .cwait)
  | 0x07 => some (bareS .rowait w)
  | 0x08 => some (bareS .ropass w)
  | 0x09 => some ((parseS w).map .rowhold)
  | 0x0A => some (bareS .mile w)
  | 0x0B => some ((parseS w).map .rsecBegin)
  | 0x0C => some (bareS .rsecEnd w)
  | 0x0D => some ((parseA w).map .rsdepth)
  | 0x0E => some ((parseS w).map .grace)
  | 0x0F => some ((parseS w).map .dfree)
  | 0x10 => some ((parseA w).map .balloc)
  | 0x11 => some ((parseS w).map .bfree)
  | 0x12 => some ((parseA w).map .bpstat)
  | 0x13 => some ((parseS w).map .pause)
  | _ => none

def decodeQueues (w : IWord) : Nat → Option (Option Instr)
  | 0x00 => some ((parseA w).map .push)
  | 0x01 => some ((parseA w).map .pop)
  | 0x02 => some ((parseA w).map .qpeek)
  | 0x03 => some ((parseS w).map .qcfg)
  | 0x04 => some ((parseA w).map .qstat)
  | 0x05 => some ((parseS w).map .cpy)
  | 0x06 => some ((parseS w).map .cpy2d)
  | 0x07 => some ((parseS w).map .cpymc)
  | 0x08 => some ((parseS w).map .cpfill)
  | 0x09 => some ((parseA w).map .ldwp)
  | 0x0A => some ((parseA w).map .waitwp)
  | 0x0B => some ((parseS w).map .cpkill)
  | _ => none

def decodeCrossLane (w : IWord) : Nat → Option (Option Instr)
  | 0x00 => some ((parseA w).map .xlAt)
  | 0x01 => some ((parseA w).map .xlBelow)
  | 0x02 => some ((parseA w).map .xlAbove)
  | 0x03 => some ((parseA w).map .xlXor)
  | 0x04 => some ((parseA w).map .quadx)
  | 0x05 => some ((parseA w).map .quadb)
  | 0x06 => some ((parseA w).map .vote)
  | 0x07 => some ((parseA w).map .ballot)
  | 0x08 => some ((parseA w).map .lred)
  | 0x09 => some ((parseA w).map .flred)
  | 0x0A => some ((parseA w).map .scan)
  | 0x0B => some ((parseA w).map .fscan)
  | 0x0C => some ((parseA w).map .peers)
  | 0x0D => some ((parseA w).map .same)
  | 0x0E => some ((parseA w).map .present)
  | 0x0F => some ((parseA w).map .first)
  | _ => none

def decodeRandom (w : IWord) : Nat → Option (Option Instr)
  | 0x00 => some ((parseA w).map .rndCg10)
  | 0x01 => some ((parseA w).map .rnd4Cg10)
  | 0x02 => some ((parseA w).map .rndkCg10)
  | 0x03 => some ((parseA w).map .unif)
  | 0x04 => some ((parseA w).map .rkey)
  | 0x05 => some ((parseA w).map .addlw)
  | 0x06 => some ((parseA w).map .lwcvt)
  | 0x07 => some ((parseA w).map .pwadd)
  | 0x08 => some ((parseA w).map .rsb)
  | 0x09 => some ((parseA w).map .psetroot)
  | 0x0A => some ((parseA w).map .lwf)
  | 0x0B => some ((parseA w).map .lwe)
  | _ => none

def decodeMatrix (w : IWord) : Nat → Option (Option Instr)
  | 0x00 => some ((parseX w).map .mma)
  | 0x01 => some ((parseX w).map .mmas)
  | 0x02 => some ((parseX w).map .tzero)
  | 0x03 => some ((parseX w).map .tld)
  | 0x04 => some ((parseX w).map .tst)
  | 0x05 => some ((parseX w).map .trd)
  | 0x06 => some ((parseX w).map .twr)
  | 0x07 => some ((parseX w).map .tscl)
  | 0x08 => some ((parseX w).map .trel)
  | 0x09 => some ((parseX w).map .qsm)
  | 0x0A => some ((parseX w).map .swinv)
  | 0x0B => some ((parseX w).map .spgen)
  | 0x3E => some (bareS .macq w)
  | 0x3F => some (bareS .mrel w)
  | _ => none

def decodeSystem (w : IWord) : Nat → Option (Option Instr)
  | 0x00 => some ((parseS w).map .trap)
  | 0x01 => some (bareS .brk w)
  | 0x02 => some ((parseA w).map .rdarch)
  | 0x03 => some ((parseA w).map .tnext)
  | 0x04 => some ((parseS w).map .tres)
  | 0x05 => some ((parseS w).map .tskip)
  | 0x06 => some ((parseS w).map .tstep)
  | 0x07 => some ((parseS w).map .tkill)
  | 0x08 => some ((parseS w).map .tstop)
  | 0x09 => some ((parseS w).map .csave)
  | 0x0A => some ((parseS w).map .cload)
  | 0x0B => some ((parseA w).map .crd)
  | 0x0C => some ((parseS w).map .cwr)
  | 0x0D => some (bareS .tdone w)
  | 0x0E => some (bareS .iflush w)
  | 0x0F => some (bareS .dwsync w)
  | 0x10 => some ((parseS w).map .regrow)
  | 0x11 => some ((parseS w).map .regshrink)
  | 0x12 => some ((parseS w).map .launch)
  | 0x13 => some ((parseS w).map .hnotify)
  | _ => none

def decodeStream (w : IWord) : Nat → Option (Option Instr)
  | 0x00 => some ((parseB w).map .aloop)
  | 0x01 => some (bareS .aend w)
  | 0x02 => some ((parseA w).map .aadd)
  | 0x03 => some ((parseA w).map .asub)
  | 0x04 => some ((parseA w).map .amad)
  | 0x05 => some ((parseI w).map .amovi)
  | 0x06 => some ((parseA w).map .amin)
  | 0x07 => some ((parseA w).map .aand)
  | 0x08 => some ((parseA w).map .ashr)
  | 0x09 => some ((parseM w).map .ald)
  | 0x0A => some ((parseM w).map .apush)
  | 0x0B => some ((parseM w).map .agath)
  | 0x0C => some ((parseM w).map .ast)
  | 0x0D => some ((parseM w).map .apf)
  | 0x0E => some (bareS .astop w)
  | 0x0F => some ((parseS w).map .afence)
  | _ => none

/-- The instruction a 96-bit word names, before the field rules of its form are checked (R189). -/
def decodeRaw (w : IWord) : Option (Option Instr) :=
  let i := (fld w 86 6).toNat
  match (fld w 92 4).toNat with
  | 0x0 => decodeControl w i
  | 0x1 => decodeInteger w i
  | 0x2 => decodeAddress w i
  | 0x3 => decodeFp32 w i
  | 0x4 => decodeFp64 w i
  | 0x5 => decodeConvert w i
  | 0x6 => decodeSpecial w i
  | 0x7 => decodeLoadStore w i
  | 0x8 => decodeAtomics w i
  | 0x9 => decodeSync w i
  | 0xA => decodeQueues w i
  | 0xB => decodeCrossLane w i
  | 0xC => decodeRandom w i
  | 0xD => decodeMatrix w i
  | 0xE => decodeSystem w i
  | _ => decodeStream w i

/-- Group 0xF stands only in access lines, the other groups, `nop` apart, only in compute lines (R189). -/
def groupAllowed (access : Bool) (w : IWord) : Bool :=
  let stream : Bool := (fld w 92 4).toNat = 15
  if fld w 86 10 = 0 then true else stream = access

/-- The decoder of one slot word (R190): the illegal-opcode check, then the illegal-encoding checks of the form. -/
def decode (access : Bool) (w : IWord) : Except DecodeError Instr :=
  match decodeRaw w with
  | none => .error .illegalOpcode
  | some r =>
    if groupAllowed access w then
      match r with
      | none => .error .illegalEncoding
      | some i => if i.wf && i.guardOk (guardOf w) then .ok i else .error .illegalEncoding
    else .error .illegalOpcode

/-! ## The fetch line (R170, R171) -/

/-- Slot s of a line. -/
def slotWord (l : Line) (s : Nat) : IWord := l.extractLsb' (96 * s) 96

/-- The line word, bytes 60 to 63. -/
def lineWord (l : Line) : Word := l.extractLsb' 480 32

def lineKind (l : Line) : Nat := (l.extractLsb' 510 2).toNat
def lineSetB (l : Line) : Nat := (l.extractLsb' 506 4).toNat
def lineSetA (l : Line) : Nat := (l.extractLsb' 502 4).toNat
def lineWait (l : Line) : BitVec 12 := l.extractLsb' 490 12
def lineTgt (l : Line) (s : Nat) : Bool := s < 5 && l.getLsbD (485 + s)

/-- The exclusive or of bits [lo+n-1:lo] of a line. -/
def xorBits (l : Line) (lo : Nat) : Nat → Bool
  | 0 => false
  | n + 1 => Bool.xor (l.getLsbD (lo + n)) (xorBits l lo n)

/-- The parity check of R172: each half with its own bit holds an even number of ones. -/
def parityOk (l : Line) : Bool :=
  xorBits l 0 256 = l.getLsbD 480 && Bool.xor (xorBits l 256 224) (xorBits l 482 30) = l.getLsbD 481

/-- The results that R15 covers, those of every form of format A among them (R181), with `bread`, which moves a mask to
the main file, and `trd` (R356): what a latch may name (R51). -/
def Instr.latchable : Instr → Bool
  | .bra _ => false
  | .brt _ => false
  | .brx _ => false
  | .call _ => false
  | .callx _ => false
  | .enrol _ => false
  | .rejoin _ => false
  | .bclr _ => false
  | .bread _ => true
  | .add _ => true
  | .sub _ => true
  | .mul _ => true
  | .mulhi _ => true
  | .mad _ => true
  | .div _ => true
  | .rem _ => true
  | .min _ => true
  | .max _ => true
  | .abs _ => true
  | .neg _ => true
  | .and _ => true
  | .or _ => true
  | .xor _ => true
  | .not _ => true
  | .shl _ => true
  | .shr _ => true
  | .rot _ => true
  | .popc _ => true
  | .clz _ => true
  | .ctz _ => true
  | .brev _ => true
  | .bfx _ => true
  | .bfi _ => true
  | .cmp _ => true
  | .sel _ => true
  | .mov _ => true
  | .movi _ => true
  | .lut3 _ => true
  | .plut3 _ => true
  | .ppack _ => true
  | .punpack _ => true
  | .lea _ => true
  | .addc _ => true
  | .subc _ => true
  | .mulw _ => true
  | .madw _ => true
  | .pack _ => true
  | .regaddr _ => true
  | .peeraddr _ => true
  | .spaddr _ => true
  | .alignup _ => true
  | .inrange _ => true
  | .lpc _ => true
  | .fadd _ => true
  | .fsub _ => true
  | .fmul _ => true
  | .fma _ => true
  | .fadd2 _ => true
  | .fdot2 _ => true
  | .fmin _ => true
  | .fmax _ => true
  | .fminp _ => true
  | .fmaxp _ => true
  | .fclamp _ => true
  | .fabs _ => true
  | .fneg _ => true
  | .fcopysign _ => true
  | .fsign _ => true
  | .fabsdiff _ => true
  | .fcmp _ => true
  | .fclass _ => true
  | .frnd _ => true
  | .ffract _ => true
  | .fscale _ => true
  | .fgetexp _ => true
  | .fgetman _ => true
  | .fhsel _ => true
  | .faddF64 _ => true
  | .fsubF64 _ => true
  | .fmulF64 _ => true
  | .fmaF64 _ => true
  | .fadd2F64 _ => true
  | .fminF64 _ => true
  | .fmaxF64 _ => true
  | .fcmpF64 _ => true
  | .frndF64 _ => true
  | .fdivF64 _ => true
  | .fsqrtF64 _ => true
  | .fclassF64 _ => true
  | .cvt _ => true
  | .cvtF2i _ => true
  | .cvtI2f _ => true
  | .cvtI2i _ => true
  | .cvtPk2 _ => true
  | .cvtPk4 _ => true
  | .cvtUnpk2 _ => true
  | .cvtUnpk4 _ => true
  | .cvtsc _ => true
  | .cvtscPk4 _ => true
  | .cvtQ4 _ => true
  | .cvtF32Q4 _ => true
  | .rcp _ => true
  | .sqrt _ => true
  | .rsqrt _ => true
  | .fdivF32 _ => true
  | .exp2 _ => true
  | .log2 _ => true
  | .exp _ => true
  | .log _ => true
  | .sinpi _ => true
  | .cospi _ => true
  | .tanh _ => true
  | .logistic _ => true
  | .ld _ => false
  | .st _ => false
  | .ld4 _ => false
  | .st4 _ => false
  | .lds _ => false
  | .sts _ => false
  | .lds4 _ => false
  | .sts4 _ => false
  | .stmc _ => false
  | .pf _ => false
  | .ldu _ => false
  | .ldl _ => false
  | .stl _ => false
  | .zline _ => false
  | .cwb _ => false
  | .cinv _ => false
  | .atom _ => false
  | .cas _ => false
  | .red _ => false
  | .fatom _ => false
  | .fred _ => false
  | .atominc _ => false
  | .atomdec _ => false
  | .atoms _ => false
  | .cass _ => false
  | .reds _ => false
  | .fatoms _ => false
  | .freds _ => false
  | .fence _ => false
  | .waita _ => false
  | .bar _ => false
  | .barArrive _ => false
  | .barWait _ => false
  | .cwait _ => false
  | .rowhold _ => false
  | .rsecBegin _ => false
  | .rsdepth _ => true
  | .grace _ => false
  | .dfree _ => false
  | .balloc _ => true
  | .bfree _ => false
  | .bpstat _ => true
  | .pause _ => false
  | .push _ => false
  | .pop _ => true
  | .qpeek _ => true
  | .qcfg _ => false
  | .qstat _ => true
  | .cpy _ => false
  | .cpy2d _ => false
  | .cpymc _ => false
  | .cpfill _ => false
  | .ldwp _ => true
  | .waitwp _ => true
  | .cpkill _ => false
  | .xlAt _ => true
  | .xlBelow _ => true
  | .xlAbove _ => true
  | .xlXor _ => true
  | .quadx _ => true
  | .quadb _ => true
  | .vote _ => true
  | .ballot _ => true
  | .lred _ => true
  | .flred _ => true
  | .scan _ => true
  | .fscan _ => true
  | .peers _ => true
  | .same _ => true
  | .present _ => true
  | .first _ => true
  | .rndCg10 _ => true
  | .rnd4Cg10 _ => true
  | .rndkCg10 _ => true
  | .unif _ => true
  | .rkey _ => true
  | .addlw _ => true
  | .lwcvt _ => true
  | .pwadd _ => false
  | .rsb _ => true
  | .psetroot _ => false
  | .lwf _ => true
  | .lwe _ => true
  | .mma _ => false
  | .mmas _ => false
  | .tzero _ => false
  | .tld _ => false
  | .tst _ => false
  | .trd _ => true
  | .twr _ => false
  | .tscl _ => false
  | .trel _ => false
  | .qsm _ => false
  | .swinv _ => false
  | .spgen _ => false
  | .trap _ => false
  | .rdarch _ => true
  | .tnext _ => false
  | .tres _ => false
  | .tskip _ => false
  | .tstep _ => false
  | .tkill _ => false
  | .tstop _ => false
  | .csave _ => false
  | .cload _ => false
  | .crd _ => false
  | .cwr _ => false
  | .hnotify _ => false
  | .regrow _ => false
  | .regshrink _ => false
  | .launch _ => false
  | .aloop _ => false
  | .aadd _ => false
  | .asub _ => false
  | .amad _ => false
  | .amovi _ => false
  | .amin _ => false
  | .aand _ => false
  | .ashr _ => false
  | .ald _ => false
  | .apush _ => false
  | .agath _ => false
  | .ast _ => false
  | .apf _ => false
  | .afence _ => false
  | .memoryAccessDone _ _ => false
  | .clauseStart _ _ => false
  | .launchRegister _ _ => false
  | .lqcfgWrite _ _ => false
  | .lqbaseWrite _ _ => false
  | .registerWrite _ _ => false
  | .applicationCoreMemoryAccess _ => false
  | .waitaRecheck _ _ _ => false
  | .barrierPhaseComplete _ _ => false
  | .barrierDeadlock _ => false
  | .gridbarComplete _ => false
  | .tokenArrives _ => false
  | .graceComplete _ => false
  | .internalGrace _ => false
  | .pauseExpiry _ _ _ => false
  | .queuePushUnblock _ _ => false
  | .queuePopUnblock _ _ => false
  | .copyAccept _ _ => false
  | .copyDone _ _ => false
  | .waitwpWake _ _ _ => false
  | .collectiveIssue _ _ => false
  | .rejoinRelease _ _ _ => false
  | .convergenceTimeout _ _ => false
  | .popBarrierClose _ => false
  | .stragglerDeadline _ => false
  | .arrivalReport _ _ _ _ => false
  | .matrixOpComplete _ => false
  | .leaseHandoff _ => false
  | .tileBindGrant _ => false
  | .tileBindTimeout _ => false
  | .regrowGrant _ => false
  | .regrowFailTimeout _ => false
  | .translationWalkDone _ _ _ => false
  | .xlinvGranule _ => false
  | .xlinvContext _ => false
  | .xlinvAll _ => false
  | .fqresumeResume _ => false
  | .fqresumeKill _ => false
  | .fqtailWrite _ => false
  | .fqbaseWrite _ => false
  | .doneWordWrite _ => false
  | .swapOut _ => false
  | .reduceBlockDispatch _ => false
  | .collectiveTimeout _ => false
  | .reduceBlockDone _ => false
  | .loadRequest _ => false
  | .store _ => false
  | .atomic _ => false
  | .combinedAtomic _ => false
  | .loadReply _ => false
  | .acknowledgement _ => false
  | .multicastStore _ => false
  | .copyWrite _ => false
  | .recoveryToken _ => false
  | .lossNotice _ => false
  | .invalidPacket _ => false
  | .fatalErrorReport _ => false
  | .routerHoldTimeout _ => false
  | .lossTimeout _ => false
  | .flitCrcFail _ => false
  | .laneFailure _ => false
  | .linkDown _ => false
  | .linkUp _ => false
  | .fxmcdataWrite _ => false
  | .preempt _ => false
  | .resume _ => false
  | .contextRestore _ => false
  | .rprun _ => false
  | .rpclose _ => false
  | .rpend _ => false
  | .getMeasurements _ _ => false
  | .elreadWrite _ => false
  | .elckpt _ => false
  | .subcmdCore _ => false
  | .subcmdSlice _ => false
  | .subcmdChannel _ => false
  | .pwclkWrite _ => false
  | .pwgateWrite _ => false
  | .pwrefWrite _ => false
  | .pwtripclr _ => false
  | .thermalTrip _ _ => false
  | .correctedError _ _ _ => false
  | .copyLineDelivered _ _ => false
  | .relayedPacket _ => false
  | .controlCoreFirmwareReload _ _ _ => false
  | .nop => false
  | .ret => false
  | .exit => false
  | .gridbar => false
  | .rowait => false
  | .ropass => false
  | .mile => false
  | .rsecEnd => false
  | .macq => false
  | .mrel => false
  | .brk => false
  | .tdone => false
  | .iflush => false
  | .dwsync => false
  | .aend => false
  | .astop => false
  | .xlinvComplete => false
  | .dependencePoll => false
  | .dispatchWorkgroup => false
  | .tokenReissue => false
  | .mcUpdateDone => false
  | .preemptSaveComplete => false
  | .courseCommit => false
  | .substitutionDone => false
  | .errorCountHour => false
  | .reset => false
  | .clockChangeEffective => false
  | .hostCommandedPowerDown => false

/-- The operands an instruction names. -/
def Instr.operands : Instr → List Operand
  | .bra f => [f.d, f.a]
  | .brt f => [f.d, f.a]
  | .brx f => [f.d, f.a]
  | .call f => [f.d, f.a]
  | .callx f => [f.d, f.a]
  | .enrol f => [f.d, f.a]
  | .rejoin f => [f.d, f.a]
  | .bclr f => [f.d, f.a]
  | .bread f => [f.d, f.a]
  | .add f => [f.d, f.a, f.b, f.c]
  | .sub f => [f.d, f.a, f.b, f.c]
  | .mul f => [f.d, f.a, f.b, f.c]
  | .mulhi f => [f.d, f.a, f.b, f.c]
  | .mad f => [f.d, f.a, f.b, f.c]
  | .div f => [f.d, f.a, f.b, f.c]
  | .rem f => [f.d, f.a, f.b, f.c]
  | .min f => [f.d, f.a, f.b, f.c]
  | .max f => [f.d, f.a, f.b, f.c]
  | .abs f => [f.d, f.a, f.b, f.c]
  | .neg f => [f.d, f.a, f.b, f.c]
  | .and f => [f.d, f.a, f.b, f.c]
  | .or f => [f.d, f.a, f.b, f.c]
  | .xor f => [f.d, f.a, f.b, f.c]
  | .not f => [f.d, f.a, f.b, f.c]
  | .shl f => [f.d, f.a, f.b, f.c]
  | .shr f => [f.d, f.a, f.b, f.c]
  | .rot f => [f.d, f.a, f.b, f.c]
  | .popc f => [f.d, f.a, f.b, f.c]
  | .clz f => [f.d, f.a, f.b, f.c]
  | .ctz f => [f.d, f.a, f.b, f.c]
  | .brev f => [f.d, f.a, f.b, f.c]
  | .bfx f => [f.d, f.a, f.b, f.c]
  | .bfi f => [f.d, f.a, f.b, f.c]
  | .cmp f => [f.d, f.a, f.b, f.c]
  | .sel f => [f.d, f.a, f.b, f.c]
  | .mov f => [f.d, f.a, f.b, f.c]
  | .movi f => [f.d, f.a]
  | .lut3 f => [f.d, f.a, f.b, f.c]
  | .plut3 f => [f.d, f.a, f.b, f.c]
  | .ppack f => [f.d, f.a, f.b, f.c]
  | .punpack f => [f.d, f.a, f.b, f.c]
  | .lea f => [f.d, f.a, f.b, f.c]
  | .addc f => [f.d, f.a, f.b, f.c]
  | .subc f => [f.d, f.a, f.b, f.c]
  | .mulw f => [f.d, f.a, f.b, f.c]
  | .madw f => [f.d, f.a, f.b, f.c]
  | .pack f => [f.d, f.a, f.b, f.c]
  | .regaddr f => [f.d, f.a, f.b, f.c]
  | .peeraddr f => [f.d, f.a, f.b, f.c]
  | .spaddr f => [f.d, f.a, f.b, f.c]
  | .alignup f => [f.d, f.a, f.b, f.c]
  | .inrange f => [f.d, f.a, f.b, f.c]
  | .lpc f => [f.d, f.a]
  | .fadd f => [f.d, f.a, f.b, f.c]
  | .fsub f => [f.d, f.a, f.b, f.c]
  | .fmul f => [f.d, f.a, f.b, f.c]
  | .fma f => [f.d, f.a, f.b, f.c]
  | .fadd2 f => [f.d, f.a, f.b, f.c]
  | .fdot2 f => [f.d, f.a, f.b, f.c]
  | .fmin f => [f.d, f.a, f.b, f.c]
  | .fmax f => [f.d, f.a, f.b, f.c]
  | .fminp f => [f.d, f.a, f.b, f.c]
  | .fmaxp f => [f.d, f.a, f.b, f.c]
  | .fclamp f => [f.d, f.a, f.b, f.c]
  | .fabs f => [f.d, f.a, f.b, f.c]
  | .fneg f => [f.d, f.a, f.b, f.c]
  | .fcopysign f => [f.d, f.a, f.b, f.c]
  | .fsign f => [f.d, f.a, f.b, f.c]
  | .fabsdiff f => [f.d, f.a, f.b, f.c]
  | .fcmp f => [f.d, f.a, f.b, f.c]
  | .fclass f => [f.d, f.a, f.b, f.c]
  | .frnd f => [f.d, f.a, f.b, f.c]
  | .ffract f => [f.d, f.a, f.b, f.c]
  | .fscale f => [f.d, f.a, f.b, f.c]
  | .fgetexp f => [f.d, f.a, f.b, f.c]
  | .fgetman f => [f.d, f.a, f.b, f.c]
  | .fhsel f => [f.d, f.a, f.b, f.c]
  | .faddF64 f => [f.d, f.a, f.b, f.c]
  | .fsubF64 f => [f.d, f.a, f.b, f.c]
  | .fmulF64 f => [f.d, f.a, f.b, f.c]
  | .fmaF64 f => [f.d, f.a, f.b, f.c]
  | .fadd2F64 f => [f.d, f.a, f.b, f.c]
  | .fminF64 f => [f.d, f.a, f.b, f.c]
  | .fmaxF64 f => [f.d, f.a, f.b, f.c]
  | .fcmpF64 f => [f.d, f.a, f.b, f.c]
  | .frndF64 f => [f.d, f.a, f.b, f.c]
  | .fdivF64 f => [f.d, f.a, f.b, f.c]
  | .fsqrtF64 f => [f.d, f.a, f.b, f.c]
  | .fclassF64 f => [f.d, f.a, f.b, f.c]
  | .cvt f => [f.d, f.a, f.b, f.c]
  | .cvtF2i f => [f.d, f.a, f.b, f.c]
  | .cvtI2f f => [f.d, f.a, f.b, f.c]
  | .cvtI2i f => [f.d, f.a, f.b, f.c]
  | .cvtPk2 f => [f.d, f.a, f.b, f.c]
  | .cvtPk4 f => [f.d, f.a, f.b, f.c]
  | .cvtUnpk2 f => [f.d, f.a, f.b, f.c]
  | .cvtUnpk4 f => [f.d, f.a, f.b, f.c]
  | .cvtsc f => [f.d, f.a, f.b, f.c]
  | .cvtscPk4 f => [f.d, f.a, f.b, f.c]
  | .cvtQ4 f => [f.d, f.a, f.b, f.c]
  | .cvtF32Q4 f => [f.d, f.a, f.b, f.c]
  | .rcp f => [f.d, f.a, f.b, f.c]
  | .sqrt f => [f.d, f.a, f.b, f.c]
  | .rsqrt f => [f.d, f.a, f.b, f.c]
  | .fdivF32 f => [f.d, f.a, f.b, f.c]
  | .exp2 f => [f.d, f.a, f.b, f.c]
  | .log2 f => [f.d, f.a, f.b, f.c]
  | .exp f => [f.d, f.a, f.b, f.c]
  | .log f => [f.d, f.a, f.b, f.c]
  | .sinpi f => [f.d, f.a, f.b, f.c]
  | .cospi f => [f.d, f.a, f.b, f.c]
  | .tanh f => [f.d, f.a, f.b, f.c]
  | .logistic f => [f.d, f.a, f.b, f.c]
  | .ld f => [f.data, f.addr, f.index]
  | .st f => [f.data, f.addr, f.index]
  | .ld4 f => [f.data, f.addr, f.index]
  | .st4 f => [f.data, f.addr, f.index]
  | .lds f => [f.data, f.addr, f.index]
  | .sts f => [f.data, f.addr, f.index]
  | .lds4 f => [f.data, f.addr, f.index]
  | .sts4 f => [f.data, f.addr, f.index]
  | .stmc f => [f.data, f.addr, f.index]
  | .pf f => [f.data, f.addr, f.index]
  | .ldu f => [f.data, f.addr, f.index]
  | .ldl f => [f.data, f.addr, f.index]
  | .stl f => [f.data, f.addr, f.index]
  | .zline f => [f.data, f.addr, f.index]
  | .cwb f => [f.data, f.addr, f.index]
  | .cinv f => [f.data, f.addr, f.index]
  | .atom f => [f.data, f.addr, f.index]
  | .cas f => [f.data, f.addr, f.index]
  | .red f => [f.data, f.addr, f.index]
  | .fatom f => [f.data, f.addr, f.index]
  | .fred f => [f.data, f.addr, f.index]
  | .atominc f => [f.data, f.addr, f.index]
  | .atomdec f => [f.data, f.addr, f.index]
  | .atoms f => [f.data, f.addr, f.index]
  | .cass f => [f.data, f.addr, f.index]
  | .reds f => [f.data, f.addr, f.index]
  | .fatoms f => [f.data, f.addr, f.index]
  | .freds f => [f.data, f.addr, f.index]
  | .fence f => [f.a, f.b, f.c]
  | .waita f => [f.data, f.addr, f.index]
  | .bar f => [f.a, f.b, f.c]
  | .barArrive f => [f.a, f.b, f.c]
  | .barWait f => [f.a, f.b, f.c]
  | .cwait f => [f.a, f.b, f.c]
  | .rowhold f => [f.a, f.b, f.c]
  | .rsecBegin f => [f.a, f.b, f.c]
  | .rsdepth f => [f.d, f.a, f.b, f.c]
  | .grace f => [f.a, f.b, f.c]
  | .dfree f => [f.a, f.b, f.c]
  | .balloc f => [f.d, f.a, f.b, f.c]
  | .bfree f => [f.a, f.b, f.c]
  | .bpstat f => [f.d, f.a, f.b, f.c]
  | .pause f => [f.a, f.b, f.c]
  | .push f => [f.d, f.a, f.b, f.c]
  | .pop f => [f.d, f.a, f.b, f.c]
  | .qpeek f => [f.d, f.a, f.b, f.c]
  | .qcfg f => [f.a, f.b, f.c]
  | .qstat f => [f.d, f.a, f.b, f.c]
  | .cpy f => [f.a, f.b, f.c]
  | .cpy2d f => [f.a, f.b, f.c]
  | .cpymc f => [f.a, f.b, f.c]
  | .cpfill f => [f.a, f.b, f.c]
  | .ldwp f => [f.d, f.a, f.b, f.c]
  | .waitwp f => [f.d, f.a, f.b, f.c]
  | .cpkill f => [f.a, f.b, f.c]
  | .xlAt f => [f.d, f.a, f.b, f.c]
  | .xlBelow f => [f.d, f.a, f.b, f.c]
  | .xlAbove f => [f.d, f.a, f.b, f.c]
  | .xlXor f => [f.d, f.a, f.b, f.c]
  | .quadx f => [f.d, f.a, f.b, f.c]
  | .quadb f => [f.d, f.a, f.b, f.c]
  | .vote f => [f.d, f.a, f.b, f.c]
  | .ballot f => [f.d, f.a, f.b, f.c]
  | .lred f => [f.d, f.a, f.b, f.c]
  | .flred f => [f.d, f.a, f.b, f.c]
  | .scan f => [f.d, f.a, f.b, f.c]
  | .fscan f => [f.d, f.a, f.b, f.c]
  | .peers f => [f.d, f.a, f.b, f.c]
  | .same f => [f.d, f.a, f.b, f.c]
  | .present f => [f.d, f.a, f.b, f.c]
  | .first f => [f.d, f.a, f.b, f.c]
  | .rndCg10 f => [f.d, f.a, f.b, f.c]
  | .rnd4Cg10 f => [f.d, f.a, f.b, f.c]
  | .rndkCg10 f => [f.d, f.a, f.b, f.c]
  | .unif f => [f.d, f.a, f.b, f.c]
  | .rkey f => [f.d, f.a, f.b, f.c]
  | .addlw f => [f.d, f.a, f.b, f.c]
  | .lwcvt f => [f.d, f.a, f.b, f.c]
  | .pwadd f => [f.d, f.a, f.b, f.c]
  | .rsb f => [f.d, f.a, f.b, f.c]
  | .psetroot f => [f.d, f.a, f.b, f.c]
  | .lwf f => [f.d, f.a, f.b, f.c]
  | .lwe f => [f.d, f.a, f.b, f.c]
  | .mma f => [f.ca, f.cb, f.cc]
  | .mmas f => [f.ca, f.cb, f.cc]
  | .tzero f => [f.ca, f.cb, f.cc]
  | .tld f => [f.ca, f.cb, f.cc]
  | .tst f => [f.ca, f.cb, f.cc]
  | .trd f => [f.ca, f.cb, f.cc]
  | .twr f => [f.ca, f.cb, f.cc]
  | .tscl f => [f.ca, f.cb, f.cc]
  | .trel f => [f.ca, f.cb, f.cc]
  | .qsm f => [f.ca, f.cb, f.cc]
  | .swinv f => [f.ca, f.cb, f.cc]
  | .spgen f => [f.ca, f.cb, f.cc]
  | .trap f => [f.a, f.b, f.c]
  | .rdarch f => [f.d, f.a, f.b, f.c]
  | .tnext f => [f.d, f.a, f.b, f.c]
  | .tres f => [f.a, f.b, f.c]
  | .tskip f => [f.a, f.b, f.c]
  | .tstep f => [f.a, f.b, f.c]
  | .tkill f => [f.a, f.b, f.c]
  | .tstop f => [f.a, f.b, f.c]
  | .csave f => [f.a, f.b, f.c]
  | .cload f => [f.a, f.b, f.c]
  | .crd f => [f.d, f.a, f.b, f.c]
  | .cwr f => [f.a, f.b, f.c]
  | .hnotify f => [f.a, f.b, f.c]
  | .regrow f => [f.a, f.b, f.c]
  | .regshrink f => [f.a, f.b, f.c]
  | .launch f => [f.a, f.b, f.c]
  | .aloop f => [f.d, f.a]
  | .aadd f => [f.d, f.a, f.b, f.c]
  | .asub f => [f.d, f.a, f.b, f.c]
  | .amad f => [f.d, f.a, f.b, f.c]
  | .amovi f => [f.d, f.a]
  | .amin f => [f.d, f.a, f.b, f.c]
  | .aand f => [f.d, f.a, f.b, f.c]
  | .ashr f => [f.d, f.a, f.b, f.c]
  | .ald f => [f.data, f.addr, f.index]
  | .apush f => [f.data, f.addr, f.index]
  | .agath f => [f.data, f.addr, f.index]
  | .ast f => [f.data, f.addr, f.index]
  | .apf f => [f.data, f.addr, f.index]
  | .afence f => [f.a, f.b, f.c]
  | .memoryAccessDone _ _ => []
  | .clauseStart _ _ => []
  | .launchRegister _ _ => []
  | .lqcfgWrite _ _ => []
  | .lqbaseWrite _ _ => []
  | .registerWrite _ _ => []
  | .applicationCoreMemoryAccess _ => []
  | .waitaRecheck _ _ _ => []
  | .barrierPhaseComplete _ _ => []
  | .barrierDeadlock _ => []
  | .gridbarComplete _ => []
  | .tokenArrives _ => []
  | .graceComplete _ => []
  | .internalGrace _ => []
  | .pauseExpiry _ _ _ => []
  | .queuePushUnblock _ _ => []
  | .queuePopUnblock _ _ => []
  | .copyAccept _ _ => []
  | .copyDone _ _ => []
  | .waitwpWake _ _ _ => []
  | .collectiveIssue _ _ => []
  | .rejoinRelease _ _ _ => []
  | .convergenceTimeout _ _ => []
  | .popBarrierClose _ => []
  | .stragglerDeadline _ => []
  | .arrivalReport _ _ _ _ => []
  | .matrixOpComplete _ => []
  | .leaseHandoff _ => []
  | .tileBindGrant _ => []
  | .tileBindTimeout _ => []
  | .regrowGrant _ => []
  | .regrowFailTimeout _ => []
  | .translationWalkDone _ _ _ => []
  | .xlinvGranule _ => []
  | .xlinvContext _ => []
  | .xlinvAll _ => []
  | .fqresumeResume _ => []
  | .fqresumeKill _ => []
  | .fqtailWrite _ => []
  | .fqbaseWrite _ => []
  | .doneWordWrite _ => []
  | .swapOut _ => []
  | .reduceBlockDispatch _ => []
  | .collectiveTimeout _ => []
  | .reduceBlockDone _ => []
  | .loadRequest _ => []
  | .store _ => []
  | .atomic _ => []
  | .combinedAtomic _ => []
  | .loadReply _ => []
  | .acknowledgement _ => []
  | .multicastStore _ => []
  | .copyWrite _ => []
  | .recoveryToken _ => []
  | .lossNotice _ => []
  | .invalidPacket _ => []
  | .fatalErrorReport _ => []
  | .routerHoldTimeout _ => []
  | .lossTimeout _ => []
  | .flitCrcFail _ => []
  | .laneFailure _ => []
  | .linkDown _ => []
  | .linkUp _ => []
  | .fxmcdataWrite _ => []
  | .preempt _ => []
  | .resume _ => []
  | .contextRestore _ => []
  | .rprun _ => []
  | .rpclose _ => []
  | .rpend _ => []
  | .getMeasurements _ _ => []
  | .elreadWrite _ => []
  | .elckpt _ => []
  | .subcmdCore _ => []
  | .subcmdSlice _ => []
  | .subcmdChannel _ => []
  | .pwclkWrite _ => []
  | .pwgateWrite _ => []
  | .pwrefWrite _ => []
  | .pwtripclr _ => []
  | .thermalTrip _ _ => []
  | .correctedError _ _ _ => []
  | .copyLineDelivered _ _ => []
  | .relayedPacket _ => []
  | .controlCoreFirmwareReload _ _ _ => []
  | .nop => []
  | .ret => []
  | .exit => []
  | .gridbar => []
  | .rowait => []
  | .ropass => []
  | .mile => []
  | .rsecEnd => []
  | .macq => []
  | .mrel => []
  | .brk => []
  | .tdone => []
  | .iflush => []
  | .dwsync => []
  | .aend => []
  | .astop => []
  | .xlinvComplete => []
  | .dependencePoll => []
  | .dispatchWorkgroup => []
  | .tokenReissue => []
  | .mcUpdateDone => []
  | .preemptSaveComplete => []
  | .courseCommit => []
  | .substitutionDone => []
  | .errorCountHour => []
  | .reset => []
  | .clockChangeEffective => []
  | .hostCommandedPowerDown => []

/-- Where a latchable instruction puts its result, and its width (R50). -/
def Instr.dest : Instr → Option (Operand × Pos)
  | .bread f => some (f.d, .w32)
  | .add f => some (f.d, f.ty.pos)
  | .sub f => some (f.d, f.ty.pos)
  | .mul f => some (f.d, f.ty.pos)
  | .mulhi f => some (f.d, f.ty.pos)
  | .mad f => some (f.d, f.ty.pos)
  | .div f => some (f.d, f.ty.pos)
  | .rem f => some (f.d, f.ty.pos)
  | .min f => some (f.d, f.ty.pos)
  | .max f => some (f.d, f.ty.pos)
  | .abs f => some (f.d, f.ty.pos)
  | .neg f => some (f.d, f.ty.pos)
  | .and f => some (f.d, f.ty.pos)
  | .or f => some (f.d, f.ty.pos)
  | .xor f => some (f.d, f.ty.pos)
  | .not f => some (f.d, f.ty.pos)
  | .shl f => some (f.d, f.ty.pos)
  | .shr f => some (f.d, f.ty.pos)
  | .rot f => some (f.d, f.ty.pos)
  | .popc f => some (f.d, .w32)
  | .clz f => some (f.d, .w32)
  | .ctz f => some (f.d, .w32)
  | .brev f => some (f.d, f.ty.pos)
  | .bfx f => some (f.d, f.ty.pos)
  | .bfi f => some (f.d, f.ty.pos)
  | .sel f => some (f.d, f.ty.pos)
  | .mov f => some (f.d, f.ty.pos)
  | .movi f => some (f.d, f.ty.pos)
  | .lut3 f => some (f.d, f.ty.pos)
  | .ppack f => some (f.d, .w32)
  | .lea f => some (f.d, .w64)
  | .addc f => some (f.d, .w32)
  | .subc f => some (f.d, .w32)
  | .mulw f => some (f.d, .w64)
  | .madw f => some (f.d, .w64)
  | .pack f => some (f.d, .w64)
  | .regaddr f => some (f.d, .w64)
  | .peeraddr f => some (f.d, .w64)
  | .spaddr f => some (f.d, .w64)
  | .alignup f => some (f.d, .w64)
  | .lpc f => some (f.d, .w64)
  | .fadd f => some (f.d, f.ty.pos)
  | .fsub f => some (f.d, f.ty.pos)
  | .fmul f => some (f.d, f.ty.pos)
  | .fma f => some (f.d, f.ty.pos)
  | .fadd2 f => some (f.d, .w64)
  | .fdot2 f => some (f.d, .w32)
  | .fmin f => some (f.d, f.ty.pos)
  | .fmax f => some (f.d, f.ty.pos)
  | .fminp f => some (f.d, f.ty.pos)
  | .fmaxp f => some (f.d, f.ty.pos)
  | .fclamp f => some (f.d, f.ty.pos)
  | .fabs f => some (f.d, f.ty.pos)
  | .fneg f => some (f.d, f.ty.pos)
  | .fcopysign f => some (f.d, f.ty.pos)
  | .fsign f => some (f.d, f.ty.pos)
  | .fabsdiff f => some (f.d, f.ty.pos)
  | .fclass f => some (f.d, f.ty.pos)
  | .frnd f => some (f.d, f.ty.pos)
  | .ffract f => some (f.d, f.ty.pos)
  | .fscale f => some (f.d, f.ty.pos)
  | .fgetexp f => some (f.d, f.ty.pos)
  | .fgetman f => some (f.d, f.ty.pos)
  | .fhsel f => some (f.d, .w32)
  | .faddF64 f => some (f.d, f.ty.pos)
  | .fsubF64 f => some (f.d, f.ty.pos)
  | .fmulF64 f => some (f.d, f.ty.pos)
  | .fmaF64 f => some (f.d, f.ty.pos)
  | .fadd2F64 f => some (f.d, .w128)
  | .fminF64 f => some (f.d, f.ty.pos)
  | .fmaxF64 f => some (f.d, f.ty.pos)
  | .frndF64 f => some (f.d, f.ty.pos)
  | .fdivF64 f => some (f.d, f.ty.pos)
  | .fsqrtF64 f => some (f.d, f.ty.pos)
  | .fclassF64 f => some (f.d, .w32)
  | .cvt f => some (f.d, f.ty.pos)
  | .cvtF2i f => some (f.d, f.ty.pos)
  | .cvtI2f f => some (f.d, f.ty.pos)
  | .cvtI2i f => some (f.d, f.ty.pos)
  | .cvtPk2 f => some (f.d, .w32)
  | .cvtPk4 f => some (f.d, .w32)
  | .cvtUnpk2 f => some (f.d, .w64)
  | .cvtUnpk4 f => some (f.d, .w128)
  | .cvtsc f => some (f.d, f.ty.pos)
  | .cvtscPk4 f => some (f.d, .w32)
  | .cvtQ4 f => some (f.d, .w32)
  | .cvtF32Q4 f => some (f.d, .w32)
  | .rcp f => some (f.d, f.ty.pos)
  | .sqrt f => some (f.d, f.ty.pos)
  | .rsqrt f => some (f.d, f.ty.pos)
  | .fdivF32 f => some (f.d, f.ty.pos)
  | .exp2 f => some (f.d, f.ty.pos)
  | .log2 f => some (f.d, f.ty.pos)
  | .exp f => some (f.d, f.ty.pos)
  | .log f => some (f.d, f.ty.pos)
  | .sinpi f => some (f.d, f.ty.pos)
  | .cospi f => some (f.d, f.ty.pos)
  | .tanh f => some (f.d, f.ty.pos)
  | .logistic f => some (f.d, f.ty.pos)
  | .balloc f => some (f.d, .w64)
  | .bpstat f => some (f.d, .w32)
  | .pop f => some (f.d, .w32)
  | .qpeek f => some (f.d, .w32)
  | .xlAt f => some (f.d, f.ty.pos)
  | .xlBelow f => some (f.d, f.ty.pos)
  | .xlAbove f => some (f.d, f.ty.pos)
  | .xlXor f => some (f.d, f.ty.pos)
  | .quadx f => some (f.d, f.ty.pos)
  | .quadb f => some (f.d, f.ty.pos)
  | .ballot f => some (f.d, .w32)
  | .lred f => some (f.d, f.ty.pos)
  | .flred f => some (f.d, .w32)
  | .scan f => some (f.d, f.ty.pos)
  | .fscan f => some (f.d, .w32)
  | .peers f => some (f.d, .w32)
  | .same f => some (f.d, .w32)
  | .present f => some (f.d, .w32)
  | .rndCg10 f => some (f.d, .w128)
  | .rnd4Cg10 f => some (f.d, .w128)
  | .rndkCg10 f => some (f.d, .w128)
  | .unif f => some (f.d, .w32)
  | .rkey f => some (f.d, .w64)
  | .addlw f => some (f.d, .w64)
  | .lwcvt f => some (f.d, .w64)
  | .lwf f => some (f.d, .w32)
  | .lwe f => some (f.d, .w64)
  | .rsdepth f => some (f.d, .w32)
  | .qstat f => some (f.d, .w32)
  | .ldwp f => some (f.d, .w64)
  | .waitwp f => some (f.d, .w64)
  | .rsb f => some (f.d, .w32)
  | .rdarch f => some (f.d, .w32)
  | .trd f => some (f.cc, .w64)
  | _ => none

/-- Every latch operand names an earlier slot of the line whose result R15 covers (R51). -/
def latchesOk (l : Line) (slot : Nat) (i : Instr) : Bool :=
  i.operands.all fun o =>
    match o with
    | .latch k =>
      decide (k.toNat < slot) &&
        (match decode false (slotWord l k.toNat) with
          | .ok j => j.latchable
          | .error _ => false)
    | _ => true

/-- The instruction marked to raise a flag while the line names none for it (R175). -/
def flagOk (l : Line) : FlagSel → Bool
  | .none => true
  | .a => lineSetA l < 12
  | .b => lineSetB l < 12

def Instr.flagSel : Instr → FlagSel
  | .bra _ => .none
  | .brt _ => .none
  | .brx _ => .none
  | .call _ => .none
  | .callx _ => .none
  | .enrol _ => .none
  | .rejoin _ => .none
  | .bclr _ => .none
  | .bread _ => .none
  | .add _ => .none
  | .sub _ => .none
  | .mul _ => .none
  | .mulhi _ => .none
  | .mad _ => .none
  | .div _ => .none
  | .rem _ => .none
  | .min _ => .none
  | .max _ => .none
  | .abs _ => .none
  | .neg _ => .none
  | .and _ => .none
  | .or _ => .none
  | .xor _ => .none
  | .not _ => .none
  | .shl _ => .none
  | .shr _ => .none
  | .rot _ => .none
  | .popc _ => .none
  | .clz _ => .none
  | .ctz _ => .none
  | .brev _ => .none
  | .bfx _ => .none
  | .bfi _ => .none
  | .cmp _ => .none
  | .sel _ => .none
  | .mov _ => .none
  | .movi _ => .none
  | .lut3 _ => .none
  | .plut3 _ => .none
  | .ppack _ => .none
  | .punpack _ => .none
  | .lea _ => .none
  | .addc _ => .none
  | .subc _ => .none
  | .mulw _ => .none
  | .madw _ => .none
  | .pack _ => .none
  | .regaddr _ => .none
  | .peeraddr _ => .none
  | .spaddr _ => .none
  | .alignup _ => .none
  | .inrange _ => .none
  | .lpc _ => .none
  | .fadd _ => .none
  | .fsub _ => .none
  | .fmul _ => .none
  | .fma _ => .none
  | .fadd2 _ => .none
  | .fdot2 _ => .none
  | .fmin _ => .none
  | .fmax _ => .none
  | .fminp _ => .none
  | .fmaxp _ => .none
  | .fclamp _ => .none
  | .fabs _ => .none
  | .fneg _ => .none
  | .fcopysign _ => .none
  | .fsign _ => .none
  | .fabsdiff _ => .none
  | .fcmp _ => .none
  | .fclass _ => .none
  | .frnd _ => .none
  | .ffract _ => .none
  | .fscale _ => .none
  | .fgetexp _ => .none
  | .fgetman _ => .none
  | .fhsel _ => .none
  | .faddF64 _ => .none
  | .fsubF64 _ => .none
  | .fmulF64 _ => .none
  | .fmaF64 _ => .none
  | .fadd2F64 _ => .none
  | .fminF64 _ => .none
  | .fmaxF64 _ => .none
  | .fcmpF64 _ => .none
  | .frndF64 _ => .none
  | .fdivF64 _ => .none
  | .fsqrtF64 _ => .none
  | .fclassF64 _ => .none
  | .cvt _ => .none
  | .cvtF2i _ => .none
  | .cvtI2f _ => .none
  | .cvtI2i _ => .none
  | .cvtPk2 _ => .none
  | .cvtPk4 _ => .none
  | .cvtUnpk2 _ => .none
  | .cvtUnpk4 _ => .none
  | .cvtsc _ => .none
  | .cvtscPk4 _ => .none
  | .cvtQ4 _ => .none
  | .cvtF32Q4 _ => .none
  | .rcp _ => .none
  | .sqrt _ => .none
  | .rsqrt _ => .none
  | .fdivF32 _ => .none
  | .exp2 _ => .none
  | .log2 _ => .none
  | .exp _ => .none
  | .log _ => .none
  | .sinpi _ => .none
  | .cospi _ => .none
  | .tanh _ => .none
  | .logistic _ => .none
  | .ld f => f.fs
  | .st f => f.fs
  | .ld4 f => f.fs
  | .st4 f => f.fs
  | .lds f => f.fs
  | .sts f => f.fs
  | .lds4 f => f.fs
  | .sts4 f => f.fs
  | .stmc f => f.fs
  | .pf f => f.fs
  | .ldu f => f.fs
  | .ldl f => f.fs
  | .stl f => f.fs
  | .zline f => f.fs
  | .cwb f => f.fs
  | .cinv f => f.fs
  | .atom f => f.fs
  | .cas f => f.fs
  | .red f => f.fs
  | .fatom f => f.fs
  | .fred f => f.fs
  | .atominc f => f.fs
  | .atomdec f => f.fs
  | .atoms f => f.fs
  | .cass f => f.fs
  | .reds f => f.fs
  | .fatoms f => f.fs
  | .freds f => f.fs
  | .fence f => f.fs
  | .waita f => f.fs
  | .bar f => f.fs
  | .barArrive f => f.fs
  | .barWait f => f.fs
  | .cwait f => f.fs
  | .rowhold f => f.fs
  | .rsecBegin f => f.fs
  | .rsdepth _ => .none
  | .grace f => f.fs
  | .dfree f => f.fs
  | .balloc _ => .none
  | .bfree f => f.fs
  | .bpstat _ => .none
  | .pause f => f.fs
  | .push _ => .none
  | .pop _ => .none
  | .qpeek _ => .none
  | .qcfg f => f.fs
  | .qstat _ => .none
  | .cpy f => f.fs
  | .cpy2d f => f.fs
  | .cpymc f => f.fs
  | .cpfill f => f.fs
  | .ldwp _ => .none
  | .waitwp _ => .none
  | .cpkill f => f.fs
  | .xlAt _ => .none
  | .xlBelow _ => .none
  | .xlAbove _ => .none
  | .xlXor _ => .none
  | .quadx _ => .none
  | .quadb _ => .none
  | .vote _ => .none
  | .ballot _ => .none
  | .lred _ => .none
  | .flred _ => .none
  | .scan _ => .none
  | .fscan _ => .none
  | .peers _ => .none
  | .same _ => .none
  | .present _ => .none
  | .first _ => .none
  | .rndCg10 _ => .none
  | .rnd4Cg10 _ => .none
  | .rndkCg10 _ => .none
  | .unif _ => .none
  | .rkey _ => .none
  | .addlw _ => .none
  | .lwcvt _ => .none
  | .pwadd _ => .none
  | .rsb _ => .none
  | .psetroot _ => .none
  | .lwf _ => .none
  | .lwe _ => .none
  | .mma f => f.fs
  | .mmas f => f.fs
  | .tzero f => f.fs
  | .tld f => f.fs
  | .tst f => f.fs
  | .trd f => f.fs
  | .twr f => f.fs
  | .tscl f => f.fs
  | .trel f => f.fs
  | .qsm f => f.fs
  | .swinv f => f.fs
  | .spgen f => f.fs
  | .trap f => f.fs
  | .rdarch _ => .none
  | .tnext _ => .none
  | .tres f => f.fs
  | .tskip f => f.fs
  | .tstep f => f.fs
  | .tkill f => f.fs
  | .tstop f => f.fs
  | .csave f => f.fs
  | .cload f => f.fs
  | .crd _ => .none
  | .cwr f => f.fs
  | .hnotify f => f.fs
  | .regrow f => f.fs
  | .regshrink f => f.fs
  | .launch f => f.fs
  | .aloop _ => .none
  | .aadd _ => .none
  | .asub _ => .none
  | .amad _ => .none
  | .amovi _ => .none
  | .amin _ => .none
  | .aand _ => .none
  | .ashr _ => .none
  | .ald f => f.fs
  | .apush f => f.fs
  | .agath f => f.fs
  | .ast f => f.fs
  | .apf f => f.fs
  | .afence f => f.fs
  | .memoryAccessDone _ _ => .none
  | .clauseStart _ _ => .none
  | .launchRegister _ _ => .none
  | .lqcfgWrite _ _ => .none
  | .lqbaseWrite _ _ => .none
  | .registerWrite _ _ => .none
  | .applicationCoreMemoryAccess _ => .none
  | .waitaRecheck _ _ _ => .none
  | .barrierPhaseComplete _ _ => .none
  | .barrierDeadlock _ => .none
  | .gridbarComplete _ => .none
  | .tokenArrives _ => .none
  | .graceComplete _ => .none
  | .internalGrace _ => .none
  | .pauseExpiry _ _ _ => .none
  | .queuePushUnblock _ _ => .none
  | .queuePopUnblock _ _ => .none
  | .copyAccept _ _ => .none
  | .copyDone _ _ => .none
  | .waitwpWake _ _ _ => .none
  | .collectiveIssue _ _ => .none
  | .rejoinRelease _ _ _ => .none
  | .convergenceTimeout _ _ => .none
  | .popBarrierClose _ => .none
  | .stragglerDeadline _ => .none
  | .arrivalReport _ _ _ _ => .none
  | .matrixOpComplete _ => .none
  | .leaseHandoff _ => .none
  | .tileBindGrant _ => .none
  | .tileBindTimeout _ => .none
  | .regrowGrant _ => .none
  | .regrowFailTimeout _ => .none
  | .translationWalkDone _ _ _ => .none
  | .xlinvGranule _ => .none
  | .xlinvContext _ => .none
  | .xlinvAll _ => .none
  | .fqresumeResume _ => .none
  | .fqresumeKill _ => .none
  | .fqtailWrite _ => .none
  | .fqbaseWrite _ => .none
  | .doneWordWrite _ => .none
  | .swapOut _ => .none
  | .reduceBlockDispatch _ => .none
  | .collectiveTimeout _ => .none
  | .reduceBlockDone _ => .none
  | .loadRequest _ => .none
  | .store _ => .none
  | .atomic _ => .none
  | .combinedAtomic _ => .none
  | .loadReply _ => .none
  | .acknowledgement _ => .none
  | .multicastStore _ => .none
  | .copyWrite _ => .none
  | .recoveryToken _ => .none
  | .lossNotice _ => .none
  | .invalidPacket _ => .none
  | .fatalErrorReport _ => .none
  | .routerHoldTimeout _ => .none
  | .lossTimeout _ => .none
  | .flitCrcFail _ => .none
  | .laneFailure _ => .none
  | .linkDown _ => .none
  | .linkUp _ => .none
  | .fxmcdataWrite _ => .none
  | .preempt _ => .none
  | .resume _ => .none
  | .contextRestore _ => .none
  | .rprun _ => .none
  | .rpclose _ => .none
  | .rpend _ => .none
  | .getMeasurements _ _ => .none
  | .elreadWrite _ => .none
  | .elckpt _ => .none
  | .subcmdCore _ => .none
  | .subcmdSlice _ => .none
  | .subcmdChannel _ => .none
  | .pwclkWrite _ => .none
  | .pwgateWrite _ => .none
  | .pwrefWrite _ => .none
  | .pwtripclr _ => .none
  | .thermalTrip _ _ => .none
  | .correctedError _ _ _ => .none
  | .copyLineDelivered _ _ => .none
  | .relayedPacket _ => .none
  | .controlCoreFirmwareReload _ _ _ => .none
  | .nop => .none
  | .ret => .none
  | .exit => .none
  | .gridbar => .none
  | .rowait => .none
  | .ropass => .none
  | .mile => .none
  | .rsecEnd => .none
  | .macq => .none
  | .mrel => .none
  | .brk => .none
  | .tdone => .none
  | .iflush => .none
  | .dwsync => .none
  | .aend => .none
  | .astop => .none
  | .xlinvComplete => .none
  | .dependencePoll => .none
  | .dispatchWorkgroup => .none
  | .tokenReissue => .none
  | .mcUpdateDone => .none
  | .preemptSaveComplete => .none
  | .courseCommit => .none
  | .substitutionDone => .none
  | .errorCountHour => .none
  | .reset => .none
  | .clockChangeEffective => .none
  | .hostCommandedPowerDown => .none

/-- The decoder of slot `slot` of a fetch line, with the checks that need the line (R51, R171, R175, R190). -/
def decodeSlot (l : Line) (slot : Nat) : Except DecodeError Instr :=
  if 2 ≤ lineKind l then .error .illegalEncoding
  else
    match decode (lineKind l = 1) (slotWord l slot) with
    | .error e => .error e
    | .ok i => if latchesOk l slot i && flagOk l i.flagSel then .ok i else .error .illegalEncoding

/-! ## The encoder -/

def encA (opc : BitVec 10) (g : Guard) (f : FmtA) : IWord :=
  opc ++ (encodeGuard g ++ (encodeOperand f.d ++ (encodeOperand f.a ++ (encodeOperand f.b ++ (encodeOperand f.c ++
    (encodeRnd f.rm ++ (f.ty.code ++ (f.opm ++ (f.pw ++ 0#15)))))))))

def encI (opc : BitVec 10) (g : Guard) (f : FmtI) : IWord :=
  opc ++ (encodeGuard g ++ (encodeOperand f.d ++ (encodeOperand f.a ++ (encodeRnd f.rm ++ (f.ty.code ++ (f.opm ++ (f.pw ++
    (0#7 ++ f.imm))))))))

def encM (opc : BitVec 10) (g : Guard) (f : FmtM) : IWord :=
  opc ++ (encodeGuard g ++ (encodeOperand f.data ++ (encodeOperand f.addr ++ (encodeOperand f.index ++ (f.off ++
    (encodeHint f.hint ++ (encodeScope f.scope ++ (encodeOrder f.order ++ (f.ty.code ++ (encodeFs f.fs ++ f.mmod))))))))))

def encB (opc : BitVec 10) (g : Guard) (f : FmtB) : IWord :=
  opc ++ (encodeGuard g ++ (f.off ++ (f.slot ++ (f.bar ++ (encodeOperand f.a ++ (encodeOperand f.d ++ 0#27))))))

def encX (opc : BitVec 10) (g : Guard) (f : FmtX) : IWord :=
  opc ++ (encodeGuard g ++ (f.tile ++ (f.swa ++ (f.swb ++ (f.swc ++ (encodeOperand f.ca ++ (encodeOperand f.cb ++
    (encodeOperand f.cc ++ (f.xmod ++ (encodeFs f.fs ++ 0#1))))))))))

def encS (opc : BitVec 10) (g : Guard) (f : FmtS) : IWord :=
  opc ++ (encodeGuard g ++ (f.pw ++ (f.s7 ++ (encodeOperand f.a ++ (encodeOperand f.b ++ (encodeOperand f.c ++ (encodeFs f.fs
    ++ (0#2 ++ f.imm))))))))

/-- A form without fields: `body` is bits [81:0]. -/
def encBare (opc : BitVec 10) (g : Guard) (body : BitVec 82) : IWord := opc ++ (encodeGuard g ++ body)

/-- The word of an instruction under a guard; a hardware step has none (chapter 95). -/
def encode (g : Guard) : Instr → Option IWord
  | .bra f => some (encB 0x001#10 g f)
  | .brt f => some (encB 0x002#10 g f)
  | .brx f => some (encB 0x003#10 g f)
  | .call f => some (encB 0x004#10 g f)
  | .callx f => some (encB 0x005#10 g f)
  | .enrol f => some (encB 0x007#10 g f)
  | .rejoin f => some (encB 0x008#10 g f)
  | .bclr f => some (encB 0x009#10 g f)
  | .bread f => some (encB 0x00A#10 g f)
  | .add f => some (encA 0x040#10 g f)
  | .sub f => some (encA 0x041#10 g f)
  | .mul f => some (encA 0x042#10 g f)
  | .mulhi f => some (encA 0x043#10 g f)
  | .mad f => some (encA 0x044#10 g f)
  | .div f => some (encA 0x045#10 g f)
  | .rem f => some (encA 0x046#10 g f)
  | .min f => some (encA 0x047#10 g f)
  | .max f => some (encA 0x048#10 g f)
  | .abs f => some (encA 0x049#10 g f)
  | .neg f => some (encA 0x04A#10 g f)
  | .and f => some (encA 0x04B#10 g f)
  | .or f => some (encA 0x04C#10 g f)
  | .xor f => some (encA 0x04D#10 g f)
  | .not f => some (encA 0x04E#10 g f)
  | .shl f => some (encA 0x04F#10 g f)
  | .shr f => some (encA 0x050#10 g f)
  | .rot f => some (encA 0x051#10 g f)
  | .popc f => some (encA 0x052#10 g f)
  | .clz f => some (encA 0x053#10 g f)
  | .ctz f => some (encA 0x054#10 g f)
  | .brev f => some (encA 0x055#10 g f)
  | .bfx f => some (encA 0x056#10 g f)
  | .bfi f => some (encA 0x057#10 g f)
  | .cmp f => some (encA 0x058#10 g f)
  | .sel f => some (encA 0x059#10 g f)
  | .mov f => some (encA 0x05A#10 g f)
  | .movi f => some (encI 0x05B#10 g f)
  | .lut3 f => some (encA 0x05C#10 g f)
  | .plut3 f => some (encA 0x05D#10 g f)
  | .ppack f => some (encA 0x05E#10 g f)
  | .punpack f => some (encA 0x05F#10 g f)
  | .lea f => some (encA 0x080#10 g f)
  | .addc f => some (encA 0x081#10 g f)
  | .subc f => some (encA 0x082#10 g f)
  | .mulw f => some (encA 0x083#10 g f)
  | .madw f => some (encA 0x084#10 g f)
  | .pack f => some (encA 0x085#10 g f)
  | .regaddr f => some (encA 0x086#10 g f)
  | .peeraddr f => some (encA 0x087#10 g f)
  | .spaddr f => some (encA 0x088#10 g f)
  | .alignup f => some (encA 0x089#10 g f)
  | .inrange f => some (encA 0x08A#10 g f)
  | .lpc f => some (encB 0x08B#10 g f)
  | .fadd f => some (encA 0x0C0#10 g f)
  | .fsub f => some (encA 0x0C1#10 g f)
  | .fmul f => some (encA 0x0C2#10 g f)
  | .fma f => some (encA 0x0C3#10 g f)
  | .fadd2 f => some (encA 0x0C4#10 g f)
  | .fdot2 f => some (encA 0x0C5#10 g f)
  | .fmin f => some (encA 0x0C6#10 g f)
  | .fmax f => some (encA 0x0C7#10 g f)
  | .fminp f => some (encA 0x0C8#10 g f)
  | .fmaxp f => some (encA 0x0C9#10 g f)
  | .fclamp f => some (encA 0x0CA#10 g f)
  | .fabs f => some (encA 0x0CB#10 g f)
  | .fneg f => some (encA 0x0CC#10 g f)
  | .fcopysign f => some (encA 0x0CD#10 g f)
  | .fsign f => some (encA 0x0CE#10 g f)
  | .fabsdiff f => some (encA 0x0CF#10 g f)
  | .fcmp f => some (encA 0x0D0#10 g f)
  | .fclass f => some (encA 0x0D1#10 g f)
  | .frnd f => some (encA 0x0D2#10 g f)
  | .ffract f => some (encA 0x0D3#10 g f)
  | .fscale f => some (encA 0x0D4#10 g f)
  | .fgetexp f => some (encA 0x0D5#10 g f)
  | .fgetman f => some (encA 0x0D6#10 g f)
  | .fhsel f => some (encA 0x0D7#10 g f)
  | .faddF64 f => some (encA 0x100#10 g f)
  | .fsubF64 f => some (encA 0x101#10 g f)
  | .fmulF64 f => some (encA 0x102#10 g f)
  | .fmaF64 f => some (encA 0x103#10 g f)
  | .fadd2F64 f => some (encA 0x104#10 g f)
  | .fminF64 f => some (encA 0x105#10 g f)
  | .fmaxF64 f => some (encA 0x106#10 g f)
  | .fcmpF64 f => some (encA 0x107#10 g f)
  | .frndF64 f => some (encA 0x108#10 g f)
  | .fdivF64 f => some (encA 0x109#10 g f)
  | .fsqrtF64 f => some (encA 0x10A#10 g f)
  | .fclassF64 f => some (encA 0x10B#10 g f)
  | .cvt f => some (encA 0x140#10 g f)
  | .cvtF2i f => some (encA 0x141#10 g f)
  | .cvtI2f f => some (encA 0x142#10 g f)
  | .cvtI2i f => some (encA 0x143#10 g f)
  | .cvtPk2 f => some (encA 0x144#10 g f)
  | .cvtPk4 f => some (encA 0x145#10 g f)
  | .cvtUnpk2 f => some (encA 0x146#10 g f)
  | .cvtUnpk4 f => some (encA 0x147#10 g f)
  | .cvtsc f => some (encA 0x148#10 g f)
  | .cvtscPk4 f => some (encA 0x149#10 g f)
  | .cvtQ4 f => some (encA 0x14A#10 g f)
  | .cvtF32Q4 f => some (encA 0x14B#10 g f)
  | .rcp f => some (encA 0x180#10 g f)
  | .sqrt f => some (encA 0x181#10 g f)
  | .rsqrt f => some (encA 0x182#10 g f)
  | .fdivF32 f => some (encA 0x183#10 g f)
  | .exp2 f => some (encA 0x184#10 g f)
  | .log2 f => some (encA 0x185#10 g f)
  | .exp f => some (encA 0x186#10 g f)
  | .log f => some (encA 0x187#10 g f)
  | .sinpi f => some (encA 0x188#10 g f)
  | .cospi f => some (encA 0x189#10 g f)
  | .tanh f => some (encA 0x18A#10 g f)
  | .logistic f => some (encA 0x18B#10 g f)
  | .ld f => some (encM 0x1C0#10 g f)
  | .st f => some (encM 0x1C1#10 g f)
  | .ld4 f => some (encM 0x1C2#10 g f)
  | .st4 f => some (encM 0x1C3#10 g f)
  | .lds f => some (encM 0x1C4#10 g f)
  | .sts f => some (encM 0x1C5#10 g f)
  | .lds4 f => some (encM 0x1C6#10 g f)
  | .sts4 f => some (encM 0x1C7#10 g f)
  | .stmc f => some (encM 0x1C8#10 g f)
  | .pf f => some (encM 0x1C9#10 g f)
  | .ldu f => some (encM 0x1CA#10 g f)
  | .ldl f => some (encM 0x1CB#10 g f)
  | .stl f => some (encM 0x1CC#10 g f)
  | .zline f => some (encM 0x1CD#10 g f)
  | .cwb f => some (encM 0x1CE#10 g f)
  | .cinv f => some (encM 0x1CF#10 g f)
  | .atom f => some (encM 0x200#10 g f)
  | .cas f => some (encM 0x201#10 g f)
  | .red f => some (encM 0x202#10 g f)
  | .fatom f => some (encM 0x203#10 g f)
  | .fred f => some (encM 0x204#10 g f)
  | .atominc f => some (encM 0x205#10 g f)
  | .atomdec f => some (encM 0x206#10 g f)
  | .atoms f => some (encM 0x207#10 g f)
  | .cass f => some (encM 0x208#10 g f)
  | .reds f => some (encM 0x209#10 g f)
  | .fatoms f => some (encM 0x20A#10 g f)
  | .freds f => some (encM 0x20B#10 g f)
  | .fence f => some (encS 0x240#10 g f)
  | .waita f => some (encM 0x241#10 g f)
  | .bar f => some (encS 0x242#10 g f)
  | .barArrive f => some (encS 0x243#10 g f)
  | .barWait f => some (encS 0x244#10 g f)
  | .cwait f => some (encS 0x246#10 g f)
  | .rowhold f => some (encS 0x249#10 g f)
  | .rsecBegin f => some (encS 0x24B#10 g f)
  | .rsdepth f => some (encA 0x24D#10 g f)
  | .grace f => some (encS 0x24E#10 g f)
  | .dfree f => some (encS 0x24F#10 g f)
  | .balloc f => some (encA 0x250#10 g f)
  | .bfree f => some (encS 0x251#10 g f)
  | .bpstat f => some (encA 0x252#10 g f)
  | .pause f => some (encS 0x253#10 g f)
  | .push f => some (encA 0x280#10 g f)
  | .pop f => some (encA 0x281#10 g f)
  | .qpeek f => some (encA 0x282#10 g f)
  | .qcfg f => some (encS 0x283#10 g f)
  | .qstat f => some (encA 0x284#10 g f)
  | .cpy f => some (encS 0x285#10 g f)
  | .cpy2d f => some (encS 0x286#10 g f)
  | .cpymc f => some (encS 0x287#10 g f)
  | .cpfill f => some (encS 0x288#10 g f)
  | .ldwp f => some (encA 0x289#10 g f)
  | .waitwp f => some (encA 0x28A#10 g f)
  | .cpkill f => some (encS 0x28B#10 g f)
  | .xlAt f => some (encA 0x2C0#10 g f)
  | .xlBelow f => some (encA 0x2C1#10 g f)
  | .xlAbove f => some (encA 0x2C2#10 g f)
  | .xlXor f => some (encA 0x2C3#10 g f)
  | .quadx f => some (encA 0x2C4#10 g f)
  | .quadb f => some (encA 0x2C5#10 g f)
  | .vote f => some (encA 0x2C6#10 g f)
  | .ballot f => some (encA 0x2C7#10 g f)
  | .lred f => some (encA 0x2C8#10 g f)
  | .flred f => some (encA 0x2C9#10 g f)
  | .scan f => some (encA 0x2CA#10 g f)
  | .fscan f => some (encA 0x2CB#10 g f)
  | .peers f => some (encA 0x2CC#10 g f)
  | .same f => some (encA 0x2CD#10 g f)
  | .present f => some (encA 0x2CE#10 g f)
  | .first f => some (encA 0x2CF#10 g f)
  | .rndCg10 f => some (encA 0x300#10 g f)
  | .rnd4Cg10 f => some (encA 0x301#10 g f)
  | .rndkCg10 f => some (encA 0x302#10 g f)
  | .unif f => some (encA 0x303#10 g f)
  | .rkey f => some (encA 0x304#10 g f)
  | .addlw f => some (encA 0x305#10 g f)
  | .lwcvt f => some (encA 0x306#10 g f)
  | .pwadd f => some (encA 0x307#10 g f)
  | .rsb f => some (encA 0x308#10 g f)
  | .psetroot f => some (encA 0x309#10 g f)
  | .lwf f => some (encA 0x30A#10 g f)
  | .lwe f => some (encA 0x30B#10 g f)
  | .mma f => some (encX 0x340#10 g f)
  | .mmas f => some (encX 0x341#10 g f)
  | .tzero f => some (encX 0x342#10 g f)
  | .tld f => some (encX 0x343#10 g f)
  | .tst f => some (encX 0x344#10 g f)
  | .trd f => some (encX 0x345#10 g f)
  | .twr f => some (encX 0x346#10 g f)
  | .tscl f => some (encX 0x347#10 g f)
  | .trel f => some (encX 0x348#10 g f)
  | .qsm f => some (encX 0x349#10 g f)
  | .swinv f => some (encX 0x34A#10 g f)
  | .spgen f => some (encX 0x34B#10 g f)
  | .trap f => some (encS 0x380#10 g f)
  | .rdarch f => some (encA 0x382#10 g f)
  | .tnext f => some (encA 0x383#10 g f)
  | .tres f => some (encS 0x384#10 g f)
  | .tskip f => some (encS 0x385#10 g f)
  | .tstep f => some (encS 0x386#10 g f)
  | .tkill f => some (encS 0x387#10 g f)
  | .tstop f => some (encS 0x388#10 g f)
  | .csave f => some (encS 0x389#10 g f)
  | .cload f => some (encS 0x38A#10 g f)
  | .crd f => some (encA 0x38B#10 g f)
  | .cwr f => some (encS 0x38C#10 g f)
  | .hnotify f => some (encS 0x393#10 g f)
  | .regrow f => some (encS 0x390#10 g f)
  | .regshrink f => some (encS 0x391#10 g f)
  | .launch f => some (encS 0x392#10 g f)
  | .aloop f => some (encB 0x3C0#10 g f)
  | .aadd f => some (encA 0x3C2#10 g f)
  | .asub f => some (encA 0x3C3#10 g f)
  | .amad f => some (encA 0x3C4#10 g f)
  | .amovi f => some (encI 0x3C5#10 g f)
  | .amin f => some (encA 0x3C6#10 g f)
  | .aand f => some (encA 0x3C7#10 g f)
  | .ashr f => some (encA 0x3C8#10 g f)
  | .ald f => some (encM 0x3C9#10 g f)
  | .apush f => some (encM 0x3CA#10 g f)
  | .agath f => some (encM 0x3CB#10 g f)
  | .ast f => some (encM 0x3CC#10 g f)
  | .apf f => some (encM 0x3CD#10 g f)
  | .afence f => some (encS 0x3CF#10 g f)
  | .memoryAccessDone _ _ => none
  | .clauseStart _ _ => none
  | .launchRegister _ _ => none
  | .lqcfgWrite _ _ => none
  | .lqbaseWrite _ _ => none
  | .registerWrite _ _ => none
  | .applicationCoreMemoryAccess _ => none
  | .waitaRecheck _ _ _ => none
  | .barrierPhaseComplete _ _ => none
  | .barrierDeadlock _ => none
  | .gridbarComplete _ => none
  | .tokenArrives _ => none
  | .graceComplete _ => none
  | .internalGrace _ => none
  | .pauseExpiry _ _ _ => none
  | .queuePushUnblock _ _ => none
  | .queuePopUnblock _ _ => none
  | .copyAccept _ _ => none
  | .copyDone _ _ => none
  | .waitwpWake _ _ _ => none
  | .collectiveIssue _ _ => none
  | .rejoinRelease _ _ _ => none
  | .convergenceTimeout _ _ => none
  | .popBarrierClose _ => none
  | .stragglerDeadline _ => none
  | .arrivalReport _ _ _ _ => none
  | .matrixOpComplete _ => none
  | .leaseHandoff _ => none
  | .tileBindGrant _ => none
  | .tileBindTimeout _ => none
  | .regrowGrant _ => none
  | .regrowFailTimeout _ => none
  | .translationWalkDone _ _ _ => none
  | .xlinvGranule _ => none
  | .xlinvContext _ => none
  | .xlinvAll _ => none
  | .fqresumeResume _ => none
  | .fqresumeKill _ => none
  | .fqtailWrite _ => none
  | .fqbaseWrite _ => none
  | .doneWordWrite _ => none
  | .swapOut _ => none
  | .reduceBlockDispatch _ => none
  | .collectiveTimeout _ => none
  | .reduceBlockDone _ => none
  | .loadRequest _ => none
  | .store _ => none
  | .atomic _ => none
  | .combinedAtomic _ => none
  | .loadReply _ => none
  | .acknowledgement _ => none
  | .multicastStore _ => none
  | .copyWrite _ => none
  | .recoveryToken _ => none
  | .lossNotice _ => none
  | .invalidPacket _ => none
  | .fatalErrorReport _ => none
  | .routerHoldTimeout _ => none
  | .lossTimeout _ => none
  | .flitCrcFail _ => none
  | .laneFailure _ => none
  | .linkDown _ => none
  | .linkUp _ => none
  | .fxmcdataWrite _ => none
  | .preempt _ => none
  | .resume _ => none
  | .contextRestore _ => none
  | .rprun _ => none
  | .rpclose _ => none
  | .rpend _ => none
  | .getMeasurements _ _ => none
  | .elreadWrite _ => none
  | .elckpt _ => none
  | .subcmdCore _ => none
  | .subcmdSlice _ => none
  | .subcmdChannel _ => none
  | .pwclkWrite _ => none
  | .pwgateWrite _ => none
  | .pwrefWrite _ => none
  | .pwtripclr _ => none
  | .thermalTrip _ _ => none
  | .correctedError _ _ _ => none
  | .copyLineDelivered _ _ => none
  | .relayedPacket _ => none
  | .controlCoreFirmwareReload _ _ _ => none
  | .nop => some (encBare 0x000#10 g 0#82)
  | .ret => some (encBare 0x006#10 g 0#82)
  | .exit => some (encBare 0x00B#10 g 0#82)
  | .gridbar => some (encBare 0x245#10 g (7#3 ++ 0#79))
  | .rowait => some (encBare 0x247#10 g (7#3 ++ 0#79))
  | .ropass => some (encBare 0x248#10 g (7#3 ++ 0#79))
  | .mile => some (encBare 0x24A#10 g (7#3 ++ 0#79))
  | .rsecEnd => some (encBare 0x24C#10 g (7#3 ++ 0#79))
  | .macq => some (encBare 0x37E#10 g (7#3 ++ 0#79))
  | .mrel => some (encBare 0x37F#10 g (7#3 ++ 0#79))
  | .brk => some (encBare 0x381#10 g (7#3 ++ 0#79))
  | .tdone => some (encBare 0x38D#10 g (7#3 ++ 0#79))
  | .iflush => some (encBare 0x38E#10 g (7#3 ++ 0#79))
  | .dwsync => some (encBare 0x38F#10 g (7#3 ++ 0#79))
  | .aend => some (encBare 0x3C1#10 g (7#3 ++ 0#79))
  | .astop => some (encBare 0x3CE#10 g (7#3 ++ 0#79))
  | .xlinvComplete => none
  | .dependencePoll => none
  | .dispatchWorkgroup => none
  | .tokenReissue => none
  | .mcUpdateDone => none
  | .preemptSaveComplete => none
  | .courseCommit => none
  | .substitutionDone => none
  | .errorCountHour => none
  | .reset => none
  | .clockChangeEffective => none
  | .hostCommandedPowerDown => none

/-- A group 0xF instruction, which stands in access lines (R189). -/
def isStreamWord (w : IWord) : Bool := (fld w 92 4).toNat = 15

/-- A line of the kind that the word's group calls for, with the word in slot 0, `nop` in the others, TGT bit 0 set, every
flag field naming none, and its parity bits (R170 to R172). -/
def lineOfWord (w : IWord) : Line :=
  let kind : BitVec 2 := if isStreamWord w then 1 else 0
  let body : Line := 0#32 ++ (0#384 ++ w)
  let lw : BitVec 30 := kind ++ (15#4 ++ (15#4 ++ (0#12 ++ (1#5 ++ 0#3))))
  let l : Line := body ||| ((0#0 ++ lw ++ 0#482) : Line)
  let p0 := BitVec.ofBool (xorBits l 0 256)
  let p1 := BitVec.ofBool (Bool.xor (xorBits l 256 224) (xorBits l 482 30))
  l ||| ((0#30 ++ (p1 ++ (p0 ++ 0#480))) : Line)

/-- What the decoder reads from a 12-byte instruction whose bits are w, bit 0 the least significant bit of byte 0 (R170). The
bits above nbits are zero. -/
def decodeTableWord (nbits w : Nat) : Option Instr :=
  match decodeSlot (lineOfWord (BitVec.ofNat 96 (w % 2 ^ nbits))) 0 with
  | .ok i => some i
  | .error _ => none

end Sys2Proof
end

