-- ==== Sys2Proof/Machine/State.lean ====
section
/-! DEFINITION. Everything the manual gives the package, as plain data (R2, R5 and the chapter of each part), the reasons a
step can stop, and the state after reset (R373). -/

namespace Sys2Proof.Machine

/-- A finite map from numbers, as pairs with rising keys. -/
abbrev NMap (α : Type) := List (Nat × α)

/-- Bytes by address: rising addresses, no entry equal to 0, which an unlisted address reads as (log 1). -/
abbrev Mem := List Host.Cell

/-- Why the machine stops. -/
inductive Fault where
  /-- Raised by APPLICATION_CORE_MEMORY_ACCESS at a physical address that is no local memory (R27). Safe: the manual gives the
  access no effect, and the model stops. -/
  | noSuchMemory (addr : Nat)
  deriving DecidableEq, Repr

/-- Why a step has no meaning. -/
inductive Refusal where
  /-- An instruction that the model gives no meaning yet. Safe: the machine stops. -/
  | notModelled (mnemonic : String)
  /-- Raised by REGISTER_WRITE at an address that no register table of the manual lists. Safe: the machine stops. -/
  | noSuchRegister (addr : Nat)
  deriving DecidableEq, Repr

/-- The kinds of a lane (R126). -/
inductive LaneKind where
  | launched | helper | never | exited
  deriving DecidableEq, Repr

/-- The access kinds of R35, in its row order (R37). -/
inductive AccKind where
  | load | store | atomic | prefetch | ifetch | copy | affine | tileFetch | writeBack | reduce | population
  deriving DecidableEq, Repr

/-- What a lane, or a stream, waits for; a waiting lane is not eligible (R129). -/
inductive Wait where
  | run
  /-- Arrived at a warp-collective instruction of the line held here (R133). -/
  | collective (line : Line)
  | rejoin (b : Nat)
  | bar (n : Nat)
  /-- At `bar.wait`, where the right-of-way token does not pass on (R251, R342). -/
  | barWait (n : Nat)
  | gridbar
  /-- Parked in `waita` on the line of this physical place (R250). -/
  | waita (line : Nat)
  /-- A page walk for the address (R33), as the access kind given. -/
  | walk (va : DWord) (kind : AccKind) (write : Bool)
  /-- Parked on the replayable fault with this number, to replay as the access kind given (R36). -/
  | fault (id : Nat) (kind : AccKind)
  /-- Its record has been answered with kill while its warp stood stopped: the lane takes the translation trap, with this DETAIL and
  address, when the warp is resumed (R38). -/
  | killed (detail : Nat) (va : DWord)
  /-- Its part of the stopped instruction is done (R237). -/
  | held
  /-- The stack access of its call or return is in flight (R207). -/
  | transfer
  | pause (left : Nat)
  | push (q : Nat)
  | pop (q : Nat)
  | cwait (course : Nat)
  | rowait
  | grace (snap : Nat)
  /-- A seventeenth snapshot of one scope (R168). -/
  | graceSlot
  | dfree
  | regrow (n : Nat)
  | tile
  | engine
  /-- A matrix form waits for records of home slices, for pins of level 2, or for its core's held write-backs (R61, R69, R71). -/
  | record
  | macq
  | copy (ch : Nat)
  | waitwp (ch : Nat) (b : DWord) (dst : Operand)
  /-- A population barrier, with the destination and predicate that receive its status (R313). -/
  | rsb (dst : Operand) (pw : BitVec 3)
  /-- Earlier accesses of the warp must be performed first (R84, R98, R139). -/
  | drain
  /-- The control core at `tnext` (R327). -/
  | trapQueue
  deriving DecidableEq, Repr

/-- One lane of a warp (R5, R126, R174, R176, R208). -/
structure Lane where
  kind : LaneKind
  pc : DWord
  preds : BitVec 8
  sp : DWord
  wait : Wait
  deriving DecidableEq, Repr

/-- The stopped memory instruction of a warp (R237): its program counter, its issuing set, the lanes done, and the operation
in flight that the done lanes belong to. -/
structure Stopped where
  pc : DWord
  set : BitVec 32
  done : BitVec 32
  op : Nat
  /-- Lanes of a `ret` whose pop has faulted, or whose target has (R207, R208). -/
  faulted : BitVec 32
  deriving DecidableEq, Repr

/-- The spin detector's entry (R159): the branch watched, the hash of the values written between its last two takes and whether there
is one, matching takes in a row, values written since. -/
structure Spin where
  pc : DWord
  hash : Word
  seen : Bool
  takes : Nat
  acc : Word
  deriving DecidableEq, Repr

/-- A resident warp (R125 to R141, R150). Maps keyed `32 * k + lane` hold one word per lane. -/
structure Warp where
  launch : Nat
  wg : Nat
  warpid : Nat
  part : Nat
  age : Nat
  regs : Nat
  base : Nat
  lanes : NMap Lane
  flags : NMap Nat
  bars : NMap Word
  wreg : NMap Word
  opf : NMap Word
  lat : NMap DWord
  hrs : NMap (List DWord)
  depth : Nat
  stamp : Nat
  secSpan : Bool
  lostmask : BitVec 16
  dmask : Word
  stopped : Option Stopped
  /-- Stopped by a trap, `tstop` or a halt (R131, R330). -/
  trapped : Bool
  /-- The cause, the program counter of the trap, to resume (R328). -/
  cause : Nat
  trapPc : DWord
  /-- Lanes still to run one instruction under `tstep` (R328). -/
  stepping : Option Word
  tiles : NMap Nat
  spin : Spin
  demoted : Bool
  /-- The step in which the warp last issued (R161). -/
  lastIssue : Nat
  /-- Traps of its engine commands that the warp is still to take: cause, DETAIL and address (R39, R362). -/
  owed : List (Nat × Nat × DWord)
  /-- The warp owned the matrix engine when it was saved (R163). -/
  owns : Bool
  /-- The next row of its `tst` that waits on a fault, and the ownership that a matrix instruction keeps over such a wait (R35, R73). -/
  row : Nat
  keeps : Option Nat
  /-- The warp has entered its first line (R174). -/
  entered : Bool
  /-- Words written to its block that take effect at its next resumption, by offset / 4 (R324). -/
  patch : NMap Word
  deriving DecidableEq, Repr

/-- An open loop of an access stream (R187). -/
structure LoopEntry where
  start : DWord
  fin : DWord
  var : Nat
  count : Word
  deriving DecidableEq, Repr

/-- An access stream (R265, R325). -/
structure Stream where
  launch : Nat
  wg : Nat
  pc : DWord
  started : Bool
  stopped : Bool
  ended : Bool
  wait : Wait
  flags : NMap Nat
  loops : List LoopEntry
  regs : NMap Word
  gath : Option (List Word)
  /-- Words written to AGATH while no entry is held (R325). -/
  agath : NMap Word
  row : Nat
  cause : Nat
  stepping : Bool
  entered : Bool
  /-- Traps that its records, answered with kill while it stood stopped, leave it to take: DETAIL and address (R38, R39). -/
  owed : List (Nat × DWord)
  /-- Words of the row being read that peer packages have sent (R267). -/
  buf : NMap Word
  /-- Words written to its block that take effect at its resumption, by offset / 4 (R325). -/
  patch : NMap Word
  deriving DecidableEq, Repr

/-- The control core (R326). -/
structure Control where
  loaded : Bool
  halted : Bool
  ctx : Nat
  pc : DWord
  sp : DWord
  preds : BitVec 8
  regs : NMap Word
  wait : Wait
  deriving DecidableEq, Repr

/-- A trap record (R321) before its CORE and SEQ fields are written. -/
structure TrapRec where
  pc : DWord
  cause : Nat
  slot : Nat
  done : Word
  lanes : Word
  wg : Nat
  warp : Nat
  queue : Nat
  detail : Nat
  imm : Word
  addr : DWord
  seq : Nat
  deriving DecidableEq, Repr

/-- Which lanes an issuing clause holds: pairs of warp slot and lane number (R129). -/
structure LaneRef where
  slot : Nat
  lane : Nat
  deriving DecidableEq, Repr

/-- A clause in flight: its picker, line and lanes, the slot to issue next and the guard of the slot being issued. -/
structure Clause where
  core : Nat
  picker : Picker
  addr : DWord
  line : Line
  entry : Nat
  slot : Nat
  guard : Guard
  lanes : List LaneRef
  deriving DecidableEq, Repr

/-- A line of a level-1 cache (R52): its number PA / 128, class, bytes and per-byte masks. The list order is recency. -/
structure CacheLine where
  line : Nat
  cls : Hint
  data : BitVec 1024
  valid : BitVec 128
  written : BitVec 128
  deriving DecidableEq, Repr

/-- A level-2 line: class, pins and the per-byte valid and written masks (R54, R57 to R61). Its bytes are those of memory (log 4). The
list order is recency. -/
structure L2Line where
  line : Nat
  cls : Hint
  pins : Nat
  valid : BitVec 128
  written : BitVec 128
  deriving DecidableEq, Repr

/-- A cached translation (R33): the leaf covering virtual page `va / 2^bits` of the context. -/
structure TlbEntry where
  ctx : Nat
  page : Nat
  bits : Nat
  leaf : DWord
  deriving DecidableEq, Repr

/-- A cached table pointer of levels 0 to 2, or a context entry's root, which covers every address (R29, R33): it covers virtual page
`va / 2^bits` of the context. -/
structure WalkEntry where
  ctx : Nat
  page : Nat
  bits : Nat
  entry : DWord
  deriving DecidableEq, Repr

/-- The shape of a copy command (R260). -/
inductive CopyForm where
  | linear
  /-- Row bytes, rows, source stride and destination stride in bytes. -/
  | rows (bytes rows ss ds : Nat)
  | multicast (group : BitVec 16)
  | fill (pattern : Word)
  deriving DecidableEq, Repr

/-- A copy command (R260, R263). -/
structure CopyCmd where
  dst : DWord
  src : DWord
  len : Nat
  form : CopyForm
  hint : Hint
  slot : Nat
  launch : Nat
  wg : Nat
  ctx : Nat
  flag : Option Nat
  parked : Option Nat
  seen : Bool
  warpid : Nat
  killed : Bool
  /-- Bytes delivered, in destination order. -/
  prog : Nat
  /-- Sectors that the command has written in local memory (R77). -/
  wrote : List Nat
  /-- What the chunk in flight still awaits from peer packages: 0 for the reply to a read, else acknowledgements, as counts of 16 bits
  per package. -/
  flight : Option Nat
  deriving DecidableEq, Repr

/-- A copy channel (R64): SEQ, DONE, the running command and those waiting for acceptance. -/
structure Chan where
  seq : BitVec 16
  done : Nat
  cmd : Option CopyCmd
  queue : List CopyCmd
  deriving DecidableEq, Repr

/-- An engine that owns lines (R67). -/
inductive EngineRef where
  | copy (core ch : Nat)
  | stream (core slot : Nat)
  /-- A matrix operation, by its number. -/
  | tile (op : Nat)
  | reduce (launch : Nat)
  deriving DecidableEq, Repr

/-- An ownership record of a home slice (R67): granule number, line mask, kind, owner. -/
structure OwnRec where
  granule : Nat
  mask : BitVec 512
  write : Bool
  engine : EngineRef
  deriving DecidableEq, Repr

/-- Written bytes on their way home that an engine's ownership holds at the home slice (R71). -/
structure HeldBytes where
  core : Nat
  line : Nat
  mask : BitVec 128
  data : BitVec 1024
  cls : Hint
  deriving DecidableEq, Repr

/-- A prefetch that an engine's ownership holds at the home slice (R71, R243): the core, the physical address, the hint in force, and
whether it fills level 1 too. -/
structure HeldFill where
  core : Nat
  pa : Nat
  hint : Hint
  level1 : Bool
  deriving DecidableEq, Repr

/-- A matrix operation whose completion is owed (R301): its number, the warp that issued it, its flag, the sectors it wrote, the
level-2 lines it pins and the acknowledgements that peer packages owe it, as counts of 16 bits per package. -/
structure MatOp where
  id : Nat
  /-- Rows of its write-back are still to be written. -/
  more : Bool
  slot : Nat
  wg : Nat
  warpid : Nat
  flag : Option Nat
  wrote : List Nat
  pins : List Nat
  acks : Nat
  deriving DecidableEq, Repr

/-- The matrix engine's arbiter (R162, R163), its operations, and the peer lines it has asked for and has been sent. -/
structure Engine where
  holder : Option Nat
  used : Nat
  leaseQ : List Nat
  owner : Option Nat
  ownerQ : List Nat
  pending : List MatOp
  asked : NMap Nat
  lines : NMap (BitVec 1024)
  deriving DecidableEq, Repr

/-- What a core keeps for the board of a workgroup of which it holds warps (R75, R76): its stamp, the sectors sent home since it last
published there, and signatures acquired at the package board and still to be published there (R85, log 18). -/
structure Side where
  stamp : Word
  dirty : List Nat
  carry : BitVec 1024
  deriving DecidableEq, Repr

/-- A candidate of a partition's picker: its workgroup and program counter, and the step since which it has been eligible (R158). -/
structure CandAge where
  part : Nat
  wg : Nat
  pc : DWord
  since : Nat
  deriving DecidableEq, Repr

/-- One core (R3, R41 to R53). -/
structure Core where
  part : Word
  launch : Option Nat
  store : Mem
  warps : NMap Warp
  ages : Nat
  cands : List CandAge
  l1 : List CacheLine
  tlb : List TlbEntry
  icache : NMap Line
  /-- The keys of instruction lines asked of peer packages (R107). -/
  fetches : List Nat
  chans : NMap Chan
  swatch : NMap (BitVec 512)
  engine : Engine
  granules : NMap (Nat × Nat)
  pkgStamp : Word
  /-- Sectors sent home since the core last published to the package board (R76). -/
  dirtyPkg : List Nat
  /-- Signatures acquired at workgroup boards and still to be published at the package board, for the cumulativity of R85 (log 18). -/
  carryPkg : BitVec 1024
  /-- The boards of the workgroups over several cores, by workgroup. -/
  sides : NMap Side
  streams : NMap Stream
  ctrl : Control
  trapq : NMap TrapRec
  tqHead : Nat
  tqTail : Nat
  tqHeld : List TrapRec
  tseq : Nat
  watch : NMap Word
  pmcOn : BitVec 8
  deriving DecidableEq, Repr

/-- A queue of a workgroup (R17, R261): its ring of 128-byte entries in scratchpad. -/
structure Queue where
  off : Nat
  cap : Nat
  head : Nat
  count : Nat
  deriving DecidableEq, Repr

/-- A signature board (R75): the stamp of the newest signature and the ring, newest first. -/
structure Board where
  stamp : Word
  ring : List (Word × BitVec 1024)
  deriving DecidableEq, Repr

/-- Where a warp was saved: the place of its core in its workgroup, the address of the record, which for warp 0 holds the stream's block
too, and the offsets in it that CONT gives of its registers and of each of its tiles (R331). -/
structure SavedPlace where
  wcore : Nat
  addr : DWord
  regs : Nat
  tiles : List Nat
  deriving DecidableEq, Repr

/-- A saved workgroup (R331): each saved warp as its block and CONT hold it, with its place, its stream, and the withdrawn trap records by `%warpid`; registers, tiles and scratchpad lie in the record's memory. -/
structure SavedWg where
  warps : List Warp
  /-- Where each of these warps was saved. -/
  places : List SavedPlace
  /-- The record that holds the scratchpad image of each core, by the core's place in the workgroup. -/
  scratch : NMap DWord
  stream : Option Stream
  traps : List (Nat × TrapRec)
  /-- The step of its save, for the order of swaps (R161). -/
  tick : Nat
  deriving DecidableEq, Repr

/-- A workgroup that has been placed and has not ended. -/
structure Wg where
  launch : Nat
  g : Nat
  x : Nat
  y : Nat
  z : Nat
  cores : List Nat
  live : Nat
  bars : NMap (List Nat)
  queues : NMap Queue
  board : Board
  saved : Option SavedWg
  deriving DecidableEq, Repr

/-- A launch taken from its queue, or its head record under check (R147 to R157). -/
structure Launch where
  queue : Nat
  slotAddr : DWord
  record : BitVec 2048
  ctx : Nat
  donePa : Nat
  checked : Bool
  waits : BitVec 4
  /-- Wait words asked of peer packages that have not answered (R31, R151). -/
  polls : List Nat
  next : Nat
  /-- Workgroups discarded by a pre-emption, to be dispatched again (R155). -/
  redo : List Nat
  ended : Nat
  killed : Bool
  lost : Bool
  /-- The place of the right-of-way token in the logical order of the package's warps, and whether its warp holds it (R341). -/
  token : Option Nat
  held : Bool
  gridArr : List Nat
  /-- Cores that have held its warps (R149). -/
  ran : List Nat
  /-- The collective (R165, R166): contributions still to arrive, workgroups that have ended and whose chunk has not been sent,
  the bytes arrived of chunk c from package p under `16 * c + p`, and the reduce block: 0 not started, 1 done, n + 2 on core n. -/
  counter : Nat
  due : List Nat
  landed : NMap Nat
  /-- Parts of the chunk being sent that lie in peer packages: places asked for, and lengths and bytes that have come back. -/
  asked : List Nat
  got : NMap (Nat × Nat)
  reduce : Nat
  reduceLost : Bool
  /-- Parts of the results that the reduce block has written, and their sectors (R67, R77, log 115). -/
  pass : Nat
  wrote : List Nat
  population : Option Nat
  deriving DecidableEq, Repr

/-- A chunk of a launch that has ended which had not arrived whole (R166, log 114): its package, its number, the physical parts of its
landing slot, and its bytes still to come. -/
structure LateChunk where
  src : Nat
  chunk : Nat
  parts : List (Nat × Nat)
  left : Nat
  deriving DecidableEq, Repr

/-- A launch queue (R142). -/
structure LQueue where
  base : DWord
  ctx : Nat
  level : Nat
  size : Nat
  enable : Bool
  dev : Bool
  tail : Nat
  head : Nat
  err : Bool
  status : BitVec 8
  finished : Word
  /-- The head record's launch, while it is under check or being placed. -/
  current : Option Nat
  deriving DecidableEq, Repr

/-- An outstanding fault record (R36, R37): what it says and its ring slot once written. -/
structure FaultRec where
  id : Nat
  va : DWord
  cause : Nat
  kind : AccKind
  write : Bool
  ctx : Nat
  core : Nat
  mask : Word
  count : Nat
  slot : Option Nat
  deriving DecidableEq, Repr

/-- The translation registers and caches (R29 to R40). -/
structure Xlate where
  ctxBase : DWord
  invBusy : Bool
  invErr : Bool
  invCmd : Option DWord
  fqBase : DWord
  fqHead : Nat
  fqTail : Nat
  fseq : Nat
  faults : List FaultRec
  dieTlb : NMap (List TlbEntry)
  /-- The walk cache of each compute die (R33). -/
  walks : NMap (List WalkEntry)
  deriving DecidableEq, Repr

/-- Who owns a memory operation in flight. -/
inductive Owner where
  | warp (core slot : Nat)
  | stream (core slot : Nat)
  | control (core : Nat)
  /-- The saved warp of a workgroup, and the slot kept occupied for the reply (R333). -/
  | saved (wg warpid core slot : Nat)
  /-- The saved stream of a workgroup, likewise. -/
  | savedStream (wg core slot : Nat)
  deriving DecidableEq, Repr

/-- The read-modify-write of an atomic (R245). -/
inductive AtomOp where
  | add | min | max | and | or | xor | exch | cas | inc | dec | fadd | fmin | fmax
  deriving DecidableEq, Repr

/-- What an operation in flight does when it is performed (R236). -/
inductive OpBody where
  | load (dst : Operand) (ty : Ty) (ro : Bool)
  | store
  | atomic (op : AtomOp) (ty : Ty) (dst : Option Operand) (pw : BitVec 3)
  | zline
  | cwb
  | cinv
  /-- A store to a multicast group, which a lane holds in data bits [79:64] (R242). -/
  | multicast
  /-- The push of a call, whose target a lane holds in data bits [127:64], and the pop of a return (R207). -/
  | push
  | pop
  deriving DecidableEq, Repr

/-- Where an access is performed (R79): memory, a memory-side unit, a core store, a peer package, or for the control core the
debug window (R323). -/
inductive Place where
  | mem (pa : Nat)
  | side (pa : Nat)
  | store (core off : Nat)
  | peer (pkg pa : Nat)
  | debug (core off : Nat)
  deriving DecidableEq, Repr

/-- One lane's access of an operation in flight: its place, its data operands, the hint in force, whether its page is
shared-write, whether it is a memory-side page of a peer package, and whether its peer request has been sent or its pop has returned. -/
structure LaneAcc where
  lane : Nat
  place : Place
  data : BitVec 256
  hint : Hint
  sw : Bool
  ms : Bool
  sent : Bool
  deriving DecidableEq, Repr

/-- A memory operation in flight (R14, R236). `more` holds while lanes of the stopped instruction are still to be sent. -/
structure MemOp where
  owner : Owner
  body : OpBody
  ty : Ty
  width : Nat
  hint : Hint
  scope : Scope
  order : Order
  lanes : List LaneAcc
  more : Bool
  flag : Option Nat
  deriving DecidableEq, Repr

/-- A snapshot of the milestone tracker (R98, R168): what waits for it, scope, number, and the warps still to pass, by workgroup and
`%warpid`. -/
structure Snapshot where
  id : Nat
  span : Bool
  number : Nat
  warps : List (Nat × Nat)
  deriving DecidableEq, Repr

/-- The milestone tracker (R167, R168). -/
structure Tracker where
  snaps : List Snapshot
  takenPkg : Nat
  takenSpan : Nat
  deriving DecidableEq, Repr

/-- An entry of the deferred-free queue (R169). -/
structure DfEntry where
  addr : DWord
  size : Nat
  pool : Nat
  span : Bool
  stamp : Nat
  queue : Nat
  course : Word
  launch : Nat
  repro : Bool
  deriving DecidableEq, Repr

/-- The population registers that a grain reads (R311). -/
structure PopView where
  root : DWord
  parent : Nat
  pw : Option Int
  step : Nat
  deriving DecidableEq, Repr

/-- A particle slot (R311, R312): none is −∞ in weights. `old` holds what a straggling grain still reads, until its late `rsb`
(R314). -/
structure Particle where
  root : DWord
  parent : Nat
  acc : Option Int
  pw : Option Int
  step : Nat
  arrived : Bool
  updates : Nat
  old : Option PopView
  deriving DecidableEq, Repr

/-- A population in use (R310 to R319). `parts` holds the package's slots; `reports` the committed weights, with the particles'
roots, that have reached the coordinator. -/
structure Population where
  launch : Nat
  grain : Nat
  members : BitVec 16
  n : Nat
  pool : Nat
  deadline : DWord
  first : Nat
  count : Nat
  step : Nat
  opened : Bool
  parts : NMap Particle
  reports : NMap (Option Int × DWord)
  /-- Warps of a grain that have executed `rsb` in this step, as (workgroup, `%warpid`). -/
  rsbWarps : List (Nat × Nat)
  /-- The slots that a decision lets go on once its counts have been updated (R316). -/
  closing : Option (List Nat)
  deriving DecidableEq, Repr

/-- What the population controller has still to do with a table or block at a virtual address (R316, R317). -/
inductive RootTask where
  /-- Raise the count of a root table. -/
  | up (va : Nat)
  /-- Wait until another member has raised the count of a root table here for a clone of its own. -/
  | raised (pkg va : Nat)
  /-- Lower the count of a root table. -/
  | table (va : Nat)
  /-- Read the block count of a table whose count has reached 0. -/
  | size (va : Nat)
  /-- Read a block address of a table. -/
  | entry (va : Nat)
  /-- Lower the count of a block. -/
  | block (va : Nat)
  /-- Push a table or block by `dfree`. -/
  | free (va : Nat)
  deriving DecidableEq, Repr

/-- Work of the population controller on counts (R316, R317): its context, the entry by which it pushes, the population and the slot
that it serves, what is left, in order, and the peer package whose answer the first of it awaits. -/
structure RootJob where
  ctx : Nat
  entry : DfEntry
  pop : Nat
  slot : Option Nat
  tasks : List RootTask
  asked : Option Nat
  deriving DecidableEq, Repr

/-- An acknowledgement that a router owes upstream (R119): the package and tag to answer, whether the packet came in the breakdown lane
(R116), and the copies still awaited, as counts of 16 bits per package. -/
structure OwedAck where
  up : Nat
  tag : Nat
  drained : Bool
  awaits : Nat
  deriving DecidableEq, Repr

/-- The fabric as this package sees it (R104 to R124). -/
structure Fabric where
  timeout : Nat
  loss : Nat
  index : Nat
  size : Nat
  live : BitVec 16
  reach : NMap Nat
  linked : BitVec 18
  up : BitVec 18
  spare : BitVec 18
  groups : NMap Word
  mcIdx : BitVec 16
  mcBusy : Bool
  mcErr : Bool
  drained : Nat
  epoch : Word
  /-- Router inputs whose head has been held too long (R114): the ports, and 18 for what waits at the source. -/
  suspect : BitVec 19
  /-- Packets held at a router input, oldest first, and those in the breakdown lane by the input whose reserved buffer holds them; 19
  stands for the buffers of tokens and notices. -/
  inputs : NMap (List Packet)
  breakdown : List (Nat × Packet)
  /-- The step in which each input's head came to its place (R114, R115). -/
  since : NMap Nat
  /-- Packets waiting for a route, at the source or as a relay (R112, R113). -/
  stalled : List Packet
  /-- Packets sent on a port, newest first. -/
  sent : List (Nat × Packet)
  /-- Thread accesses of peers that an engine's ownership holds at the home slice, oldest first (R71). -/
  heldHere : List Packet
  /-- Counts of root tables here that other members have raised for their clones and that no decision has taken account of yet, each with
  the member and its address (R316). -/
  raised : List (Nat × Nat)
  /-- Acknowledgements this router owes upstream for multicast packets it forwarded (R119). -/
  owedAcks : NMap OwedAck
  /-- Copies still unsent of packets that latched a group's entry before its last update (R120). -/
  mcOld : List Packet
  /-- Entries that the population controller has pushed to the deferred-free queues of other packages (R317). -/
  freed : List (Nat × DfEntry)
  deriving DecidableEq, Repr

/-- One launch recorded in a run (R344). -/
structure RunLaunch where
  course : Word
  queue : Nat
  key : DWord
  hash : BitVec 256
  deriving DecidableEq, Repr

/-- A run being opened (R338): its descriptor, the digests so far, the bytes gathered of the present region, and the peer package and bytes
of the read under way. -/
structure RunOpen where
  desc : List Byte
  hashes : List (BitVec 256)
  bytes : List Byte
  asked : Option (Nat × Nat)
  deriving DecidableEq, Repr

/-- The course registers and the open run (R337 to R346). -/
structure Repro where
  isOpen : Bool
  busy : Bool
  err : Bool
  patched : Bool
  memberLost : Bool
  first : Word
  committed : Word
  closed : Word
  members : BitVec 16
  desc : List Byte
  hashes : List (BitVec 256)
  launches : List RunLaunch
  runs : Nat
  cfgHash : BitVec 256
  logOpen : BitVec 256
  subst : Bool
  manifest : BitVec 256
  /-- Shared-write lines written in the current course, each with the warps (workgroup, `%warpid`) that wrote it (R100). -/
  writers : List (Nat × Nat × Nat)
  /-- The snapshot that the commit of the next course waits for (R340). -/
  snap : Option Nat
  opening : Option RunOpen
  deriving DecidableEq, Repr

/-- The pre-emption registers (R330); `order` lists the workgroups saved, in order. -/
structure Preempt where
  mask : DWord
  /-- The queues that the last pre-empt stopped. -/
  active : DWord
  busy : Bool
  err : Bool
  halted : Bool
  micros : Word
  order : List Nat
  deriving DecidableEq, Repr

/-- A substitution in progress (R365). -/
structure Subst where
  kind : Nat
  die : Nat
  unit : Nat
  deriving DecidableEq, Repr

/-- The reliability registers and the log (R361 to R368); entries lie in memory at 0x5F_F000_0000. -/
structure Reliability where
  head : Nat
  read : Nat
  lost : Nat
  hash : BitVec 256
  ckpts : Nat
  flashSeq : Nat
  flashHash : BitVec 256
  orderly : Bool
  subBusy : Bool
  subErr : Bool
  /-- Units that have been recommended for substitution and not acted on, by the keys of `counts`. -/
  recs : List Nat
  sub : Option Subst
  /-- Spares used, by kind and die or stack. -/
  spares : NMap Nat
  /-- Corrected errors by unit in a whole hour of `%time`, and the number of that hour (R363). -/
  counts : NMap Nat
  hour : Nat
  /-- Retired frames, as granules of 64 KiB (R362). -/
  badLines : List Nat
  deriving DecidableEq, Repr

/-- The power registers (R369, R370). -/
structure Power where
  clk : Nat
  gate : BitVec 4
  ref : Bool
  eff : Nat
  effRef : Bool
  trip : Bool
  busy : Bool
  err : Bool
  temps : NMap Nat
  /-- Nothing but a reset acts: the host has commanded a power-down (R368), or step 1 of the bring-up has failed (R371). -/
  off : Bool
  deriving DecidableEq, Repr

/-- What has reached the world outside: `hnotify` codes with their core, and SPDM answers. -/
structure HostSide where
  notes : List (Nat × Word)
  spdm : List (List Byte)
  reads : List (List Byte)
  /-- The model's own: what the RESET steps to come are, in order; the outside's choice, as the agenda is (log 88). -/
  resets : List ResetKind
  deriving DecidableEq, Repr

/-- The package. -/
structure State where
  /-- The model's own: steps taken, the argument of the free values (log 2). -/
  tick : Nat
  /-- `%time` in nanoseconds (R178). -/
  now : Nat
  /-- The model's own: the hardware steps still to come, in order; which happens when is the environment's choice (log 3). -/
  agenda : List Instr
  clauses : List Clause
  mem : Mem
  xl : Xlate
  lqs : NMap LQueue
  dispLast : NMap Nat
  launches : NMap Launch
  late : List LateChunk
  wgs : NMap Wg
  cores : NMap Core
  ops : NMap MemOp
  /-- The model's own: the next number for an operation, launch, workgroup, fault or snapshot. -/
  fresh : Nat
  own : List OwnRec
  /-- Write-backs that wait for an engine, oldest first (R71). -/
  heldWb : List HeldBytes
  /-- Prefetches that wait for an engine, oldest first (R71). -/
  heldPf : List HeldFill
  l2 : List L2Line
  board : Board
  track : Tracker
  dfq : List DfEntry
  dfqBase : DWord
  bpBase : DWord
  popBase : DWord
  popSize : Word
  pops : NMap Population
  jobs : NMap RootJob
  fab : Fabric
  rep : Repro
  pre : Preempt
  rel : Reliability
  pow : Power
  host : HostSide
  /-- Dispatch is enabled: every core's control-core firmware has been loaded since the reset (R371 steps 5 and 7). -/
  ready : Bool
  deriving DecidableEq, Repr

/-- A lane that was never launched (R125). -/
def Lane.never : Lane := { kind := .never, pc := 0, preds := 0x80, sp := 0, wait := .run }

/-- A control core before its firmware is loaded (R371 step 5). -/
def Control.reset : Control :=
  { loaded := false, halted := false, ctx := 0, pc := 0, sp := 0, preds := 0x80, regs := [], wait := .run }

def Engine.reset : Engine :=
  { holder := none, used := 0, leaseQ := [], owner := none, ownerQ := [], pending := [], asked := [], lines := [] }

def Chan.reset : Chan := { seq := 0, done := 0, cmd := none, queue := [] }

/-- A core after reset: no launch, an empty store and empty caches (R43, R75, R373). -/
def Core.reset : Core :=
  { part := 0, launch := none, store := [], warps := [], ages := 0, cands := [], l1 := [], tlb := [], icache := [], fetches := [], chans := [],
    swatch := [], engine := Engine.reset, granules := [], pkgStamp := 0, dirtyPkg := [], carryPkg := 0, sides := [], streams := [],
    ctrl := Control.reset, trapq := [], tqHead := 0, tqTail := 0, tqHeld := [], tseq := 0, watch := [], pmcOn := 0 }

/-- A launch queue after reset (R142, R373). -/
def LQueue.reset : LQueue :=
  { base := 0, ctx := 0, level := 0, size := 0, enable := false, dev := false, tail := 0, head := 0, err := false,
    status := 0, finished := 0, current := none }

/-- A spin detector that watches nothing (R159): no instruction has this program counter. -/
def Spin.reset : Spin := { pc := 63, hash := 0, seen := false, takes := 0, acc := 0 }

def Board.reset : Board := { stamp := 0, ring := [] }

/-- The fabric after reset: FXTIMEOUT 16 000, FXLOSS 1000, a span of one (R104, R373, log 34). -/
def Fabric.reset : Fabric :=
  { timeout := 16000, loss := 1000, index := 0, size := 1, live := 1, reach := [], linked := 0, up := 0, spare := 0,
    groups := [], mcIdx := 0, mcBusy := false, mcErr := false, drained := 0, epoch := 0, suspect := 0,
    inputs := [], breakdown := [], since := [], stalled := [], sent := [], heldHere := [], raised := [], owedAcks := [], mcOld := [], freed := [] }

def Repro.reset : Repro :=
  { isOpen := false, busy := false, err := false, patched := false, memberLost := false, first := 0, committed := 0,
    closed := 0, members := 0, desc := [], hashes := [], launches := [], runs := 0, cfgHash := 0, logOpen := 0,
    subst := false, manifest := 0, writers := [], snap := none, opening := none }

def Reliability.reset : Reliability :=
  { head := 0, read := 0, lost := 0, hash := 0, ckpts := 0, flashSeq := 0, flashHash := 0, orderly := true,
    subBusy := false, subErr := false, recs := [], sub := none, spares := [], counts := [], hour := 0, badLines := [] }

def Power.reset : Power :=
  { clk := 0, gate := 0, ref := false, eff := 0, effRef := false, trip := false, busy := false, err := false, temps := [],
    off := false }

/-- The package right after reset (R40, R371, R373): every register reads zero but for the defaults of the tables, no queue is
enabled, no run is open, no area is configured, and memory lists nothing. -/
def State.reset : State :=
  { tick := 0, now := 0, agenda := [], clauses := [], mem := [],
    xl := { ctxBase := 0, invBusy := false, invErr := false, invCmd := none, fqBase := 0, fqHead := 0, fqTail := 0,
            fseq := 0, faults := [], dieTlb := [], walks := [] },
    lqs := [], dispLast := [], launches := [], late := [], wgs := [], cores := [], ops := [], fresh := 0, own := [], heldWb := [], heldPf := [], l2 := [],
    board := Board.reset, track := { snaps := [], takenPkg := 0, takenSpan := 0 }, dfq := [], dfqBase := 0, bpBase := 0,
    popBase := 0, popSize := 0, pops := [], jobs := [], fab := Fabric.reset, rep := Repro.reset,
    pre := { mask := 0, active := 0, busy := false, err := false, halted := false, micros := 0, order := [] },
    rel := Reliability.reset, pow := Power.reset, host := { notes := [], spdm := [], reads := [], resets := [] }, ready := false }

end Sys2Proof.Machine
end

