-- ==== Sys2Proof/Machine/Map.lean ====
section
/-! DEFINITION. Finite maps and byte memory: the one place where the order of bytes (R6) and the canonical form of memory
(log 1) are decided. -/

namespace Sys2Proof.Machine

namespace NMap

/-- The entry at a key. -/
def at? {α : Type} (m : NMap α) (k : Nat) : Option α :=
  match m with
  | [] => none
  | (j, v) :: t => if j = k then some v else NMap.at? t k

/-- The entry at a key, or a default. -/
def atD {α : Type} (m : NMap α) (k : Nat) (d : α) : α := (NMap.at? m k).getD d

/-- Sets the entry at a key. -/
def put {α : Type} (m : NMap α) (k : Nat) (v : α) : NMap α :=
  match m with
  | [] => [(k, v)]
  | (j, w) :: t => if j = k then (k, v) :: t else if k < j then (k, v) :: (j, w) :: t else (j, w) :: NMap.put t k v

/-- Removes the entry at a key. -/
def del {α : Type} (m : NMap α) (k : Nat) : NMap α := m.filter (fun e => e.1 != k)

/-- Changes the entry at a key, if there is one. -/
def upd {α : Type} (m : NMap α) (k : Nat) (f : α → α) : NMap α := m.map (fun e => if e.1 = k then (e.1, f e.2) else e)

/-- Changes every entry. -/
def mapV {α β : Type} (m : NMap α) (f : Nat → α → β) : NMap β := m.map (fun e => (e.1, f e.1 e.2))

/-- The entries that satisfy a test. -/
def filterV {α : Type} (m : NMap α) (f : Nat → α → Bool) : NMap α := m.filter (fun e => f e.1 e.2)

/-- Some entry satisfies a test. -/
def anyV {α : Type} (m : NMap α) (f : Nat → α → Bool) : Bool := m.any (fun e => f e.1 e.2)

/-- Sets an entry, or removes it where the value is the default. -/
def putD {α : Type} [DecidableEq α] (m : NMap α) (k : Nat) (v d : α) : NMap α :=
  if v = d then NMap.del m k else NMap.put m k v

end NMap

namespace Mem

/-- The canonical form (log 1): rising addresses, no zero byte listed. -/
def wf : Mem → Bool
  | [] => true
  | [(_, v)] => v != 0
  | (a, v) :: (b, w) :: t => v != 0 && decide (a < b) && Mem.wf ((b, w) :: t)

/-- The byte at an address; an unlisted one reads 0 (log 1). -/
def byte (m : Mem) (a : Nat) : Byte :=
  match m with
  | [] => 0
  | (b, v) :: t => if b = a then v else Mem.byte t a

/-- Lists a byte in its place. -/
def insert (m : Mem) (a : Nat) (v : Byte) : Mem :=
  match m with
  | [] => [(a, v)]
  | (b, w) :: t => if a < b then (a, v) :: (b, w) :: t else if a = b then (a, v) :: t else (b, w) :: Mem.insert t a v

/-- Writes a byte; a zero is not listed. -/
def setByte (m : Mem) (a : Nat) (v : Byte) : Mem := if v = 0 then m.filter (fun c => c.1 != a) else Mem.insert m a v

/-- The little-endian number in the n bytes from an address (R6). -/
def rd (m : Mem) (a : Nat) : Nat → Nat
  | 0 => 0
  | n + 1 => (Mem.byte m a).toNat + 256 * Mem.rd m (a + 1) n

/-- Writes a number to n bytes, little-endian (R6). -/
def wr (m : Mem) (a : Nat) : Nat → Nat → Mem
  | 0, _ => m
  | n + 1, v => Mem.wr (Mem.setByte m a (BitVec.ofNat 8 v)) (a + 1) n (v / 256)

/-- The n bytes from an address. -/
def bytes (m : Mem) (a : Nat) : Nat → List Byte
  | 0 => []
  | n + 1 => Mem.byte m a :: Mem.bytes m (a + 1) n

/-- Writes a list of bytes. -/
def wrBytes (m : Mem) (a : Nat) : List Byte → Mem
  | [] => m
  | v :: t => Mem.wrBytes (Mem.setByte m a v) (a + 1) t

/-- Zeroes the n bytes from an address. -/
def clear (m : Mem) (a n : Nat) : Mem := m.filter (fun c => c.1 < a || a + n ≤ c.1)

/-- The listed cells of consecutive bytes. -/
def cells (a : Nat) : List Byte → Mem
  | [] => []
  | v :: t => if v = 0 then Mem.cells (a + 1) t else (a, v) :: Mem.cells (a + 1) t

/-- Writes a long list of bytes at once. -/
def splice (m : Mem) (a : Nat) (bs : List Byte) : Mem :=
  m.filter (fun c => c.1 < a) ++ Mem.cells a bs ++ m.filter (fun c => a + bs.length ≤ c.1)

end Mem

/-- The little-endian number of a byte list (R6). -/
def leNat : List Byte → Nat
  | [] => 0
  | b :: t => b.toNat + 256 * leNat t

/-- The n little-endian bytes of a number (R6). -/
def leBytes : Nat → Nat → List Byte
  | 0, _ => []
  | n + 1, v => BitVec.ofNat 8 v :: leBytes n (v / 256)

/-- Bit i of a 32-bit mask. -/
def maskHas (m : Word) (i : Nat) : Bool := m.getLsbD i

/-- The mask of a list of lane numbers. -/
def maskOf (ls : List Nat) : Word := ls.foldl (fun m l => m ||| (1#32 <<< l)) 0

/-- The lane numbers 0 to 31. -/
def lanes32 : List Nat := List.range 32

/-- The lanes named by a mask, ascending. -/
def maskLanes (m : Word) : List Nat := lanes32.filter (maskHas m)

/-- Ceiling of a quotient. -/
def ceilDiv (a b : Nat) : Nat := (a + b - 1) / b

/-- Repeats a change for each element of a list, in order. -/
def forEach {α σ : Type} (l : List α) (s : σ) (f : σ → α → σ) : σ := l.foldl f s

end Sys2Proof.Machine
end

