-- ==== Sys2Proof/Machine/Crypto.lean ====
section
/-! DEFINITION. SHA-256, which the error log, the manifest and SPDM use (R4, R338, R344, R366). The manual names the function
and does not print it: FIPS 180-4 (PRESUMED, log 10). -/

namespace Sys2Proof.Machine

/-- The primes below 312 in rising order, which are the first 64: no prime up to 17 divides one but itself. -/
def shaPrimes : List Nat :=
  (List.range 312).filter (fun n => decide (1 < n) && [2, 3, 5, 7, 11, 13, 17].all (fun d => n % d != 0 || n == d))

/-- The largest r whose k-th power is at most n, found bit by bit below the given bit. -/
def rootBelow (k n : Nat) : Nat → Nat → Nat
  | 0, r => r
  | b + 1, r => rootBelow k n b (if (r + 2 ^ b) ^ k ≤ n then r + 2 ^ b else r)

/-- The first 32 bits of the fractional part of the k-th root of p. -/
def rootFraction (k p : Nat) : Word := BitVec.ofNat 32 (rootBelow k (p * 2 ^ (32 * k)) 40 0)

/-- The round constants of SHA-256: the cube roots of the first 64 primes. -/
def shaK : List Word := shaPrimes.map (rootFraction 3)

/-- The chaining value of SHA-256, as eight words. -/
structure ShaState where
  a : Word
  b : Word
  c : Word
  d : Word
  e : Word
  f : Word
  g : Word
  h : Word
  deriving DecidableEq, Repr

/-- The first chaining value: the square roots of the first eight primes. -/
def shaInit : ShaState :=
  let r (p : Nat) := rootFraction 2 p
  { a := r 2, b := r 3, c := r 5, d := r 7, e := r 11, f := r 13, g := r 17, h := r 19 }

/-- One round. -/
def shaRound (x : ShaState) (k w : Word) : ShaState :=
  let s1 := x.e.rotateRight 6 ^^^ x.e.rotateRight 11 ^^^ x.e.rotateRight 25
  let ch := (x.e &&& x.f) ^^^ (~~~x.e &&& x.g)
  let t1 := x.h + s1 + ch + k + w
  let s0 := x.a.rotateRight 2 ^^^ x.a.rotateRight 13 ^^^ x.a.rotateRight 22
  let mj := (x.a &&& x.b) ^^^ (x.a &&& x.c) ^^^ (x.b &&& x.c)
  { a := t1 + (s0 + mj), b := x.a, c := x.b, d := x.c, e := x.d + t1, f := x.e, g := x.f, h := x.g }

/-- The rounds of one block; `ws` is the message schedule's window of 16 words, oldest first. -/
def shaRounds (ks : List Word) (ws : List Word) (x : ShaState) : ShaState :=
  match ks with
  | [] => x
  | k :: t =>
    let w0 := ws.getD 0 0
    let w1 := ws.getD 1 0
    let w14 := ws.getD 14 0
    let g0 := w1.rotateRight 7 ^^^ w1.rotateRight 18 ^^^ (w1 >>> 3)
    let g1 := w14.rotateRight 17 ^^^ w14.rotateRight 19 ^^^ (w14 >>> 10)
    shaRounds t (ws.drop 1 ++ [w0 + g0 + ws.getD 9 0 + g1]) (shaRound x k w0)

/-- Groups bytes into big-endian words. -/
def shaWords : List Byte → List Word
  | a :: b :: c :: d :: t => (a ++ b ++ c ++ d) :: shaWords t
  | _ => []

/-- The blocks of the padded message, in order. -/
def shaBlocks : Nat → List Word → ShaState → ShaState
  | 0, _, x => x
  | n + 1, ws, x =>
    let y := shaRounds shaK (ws.take 16) x
    shaBlocks n (ws.drop 16)
      { a := x.a + y.a, b := x.b + y.b, c := x.c + y.c, d := x.d + y.d, e := x.e + y.e, f := x.f + y.f, g := x.g + y.g,
        h := x.h + y.h }

/-- The SHA-256 digest of a byte string; byte 0 of the digest in bits [7:0]. -/
def sha256 (m : List Byte) : BitVec 256 :=
  let z := (119 - m.length % 64) % 64
  let p := m ++ [0x80#8] ++ List.replicate z 0#8 ++ (leBytes 8 (8 * m.length)).reverse
  let x := shaBlocks (p.length / 64) (shaWords p) shaInit
  let w := x.a ++ x.b ++ x.c ++ x.d ++ x.e ++ x.f ++ x.g ++ x.h
  BitVec.ofNat 256 (leNat (leBytes 32 w.toNat).reverse)

end Sys2Proof.Machine
end

