-- ==== Sys2Proof/Machine/WarpBlock.lean ====
section
/-! DEFINITION. The warp-state and stream-state blocks (R324, R325): their words, and the control core's writes to them, which take
effect at the resumption of what they belong to. -/

namespace Sys2Proof.Machine

/-- The done mask of the stopped instruction (R237): of a memory instruction in progress, else what the trap left (R321, R324). -/
def Warp.doneMask (w : Warp) : Word := match w.stopped with | some y => y.done | none => w.dmask

/-- The warp as its block shows it: lanes whose accesses are in flight are not done yet (R237, R324, R333). -/
def shown (s : State) (w : Warp) : Warp :=
  match w.stopped with
  | some y => match s.ops.at? y.op with
    | some o => { w with stopped := some { y with done := y.done &&& ~~~(maskOf (o.lanes.map LaneAcc.lane)) } }
    | none => w
  | none => w

/-- The warp with its last milestone stamp: at depth 0 every instruction boundary is a milestone, so that the stamp is the present one (R167,
log 60). -/
def stamped (s : State) (w : Warp) : Warp := if w.depth = 0 then { w with stamp := s.track.takenPkg % 2 ^ 32 } else w

/-- Word i of a list of bytes as four of them. -/
def setByteN (old i v : Nat) : Nat := old - bitsOf old (8 * i) 8 * 2 ^ (8 * i) + v * 2 ^ (8 * i)

/-- Low or high word of a 64-bit value. -/
def half (x i : Nat) : Nat := bitsOf x (32 * i) 32
def setHalf (x i v : Nat) : Nat := if i = 0 then x / 2 ^ 32 * 2 ^ 32 + v else x % 2 ^ 32 + v * 2 ^ 32

def kindBits : LaneKind → Nat
  | .launched => 0 | .helper => 1 | .never => 2 | .exited => 3
def kindOf (n : Nat) : LaneKind :=
  match n with | 0 => .launched | 1 => .helper | 2 => .never | _ => .exited

/-- Helper lanes of a warp, ascending: the owners of the hidden return stacks (R209). -/
def helperLanes (w : Warp) : List Nat := lanes32.filter (fun l => (w.lanes.atD l Lane.never).kind == .helper)

/-- The word that a warp's state gives its block (R324). -/
def warpField (w : Warp) (seed off : Nat) : Nat :=
  let lane (l : Nat) := w.lanes.atD l Lane.never
  if off < 0x100 then half (lane (off / 8)).pc.toNat (off / 4 % 2)
  else if off < 0x180 then
    let x := lane ((off - 0x100) / 4)
    (x.preds ||| 0x80).toNat + 256 * kindBits x.kind + (if x.wait == .run then 0 else 1024)
  else if off < 0x18C then
    let b := off - 0x180
    w.flags.atD b 0 + 256 * w.flags.atD (b + 1) 0 + 65536 * w.flags.atD (b + 2) 0 + 16777216 * w.flags.atD (b + 3) 0
  else if off < 0x190 then 0
  else if off < 0x1D0 then (w.bars.atD ((off - 0x190) / 4) 0).toNat
  else if off = 0x1D0 then w.doneMask.toNat
  else if off = 0x1D4 then w.depth
  else if off = 0x1D8 then w.stamp
  else if off = 0x1DC then w.regs
  else if off = 0x1E0 then w.base
  else if off < 0x200 then 0
  else if off < 0x300 then (w.wreg.atD ((off - 0x200) / 4) 0).toNat
  else if off < 0x400 then 0
  else if off < 0x500 then half (lane ((off - 0x400) / 8)).sp.toNat (off / 4 % 2)
  else if off < 0xA00 then
    let b := off - 0x500
    half (w.lat.atD (32 * (b / 256) + b % 256 / 8) 0).toNat (off / 4 % 2)
  else if off < 0x1200 then (w.opf.atD ((off - 0xA00) / 4) 0).toNat
  else if off < 0x1600 then
    let b := off - 0x1200
    match (helperLanes w)[b / 256]? with
    | none => 0
    | some l =>
      let st := w.hrs.atD l []
      let o := b % 256
      if o = 0 then l
      else if o = 4 then st.length
      else if o < 136 then half ((st.reverse.getD ((o - 8) / 8) 0).toNat) (o / 4 % 2)
      else 0
  else leNat ((List.range 4).map (fun i => Config.contByte seed (off + i)))

/-- The 32-bit word at a word-aligned offset of a warp-state block, a write that has not taken effect included (R324). -/
def warpWord (w : Warp) (seed off : Nat) : Nat :=
  match w.patch.at? (off / 4) with | some v => v.toNat | none => warpField w seed off

/-- Gives a warp's state the value of a word of its block (R324). A lane whose waiting bit is cleared waits no more and runs its instruction
again, and one whose bit is set without a wait of its own has none to take up (log 106). -/
def warpPut (w : Warp) (off v : Nat) : Warp :=
  let modL (l : Nat) (f : Lane → Lane) : Warp := { w with lanes := w.lanes.put l (f (w.lanes.atD l Lane.never)) }
  if off < 0x100 then modL (off / 8) (fun x => { x with pc := BitVec.ofNat 64 (setHalf x.pc.toNat (off / 4 % 2) v) })
  else if off < 0x180 then
    modL ((off - 0x100) / 4) (fun x => { x with
      preds := BitVec.ofNat 8 v ||| 0x80, kind := kindOf (bitsOf v 8 2), wait := if v.testBit 10 then x.wait else .run })
  else if off < 0x18C then
    { w with flags := (List.range 4).foldl (fun m i => m.putD (off - 0x180 + i) (bitsOf v (8 * i) 8) 0) w.flags }
  else if off < 0x190 then w
  else if off < 0x1D0 then { w with bars := w.bars.putD ((off - 0x190) / 4) (BitVec.ofNat 32 v) 0 }
  else if off = 0x1D0 then
    { w with dmask := BitVec.ofNat 32 v, stopped := w.stopped.map (fun y => { y with done := BitVec.ofNat 32 v }) }
  else if off = 0x1D4 then { w with depth := v }
  else if off = 0x1D8 then { w with stamp := v }
  else if off < 0x200 then w
  else if off < 0x300 then { w with wreg := w.wreg.putD ((off - 0x200) / 4) (BitVec.ofNat 32 v) 0 }
  else if off < 0x400 then w
  else if off < 0x500 then
    modL ((off - 0x400) / 8) (fun x => { x with sp := BitVec.ofNat 64 (setHalf x.sp.toNat (off / 4 % 2) v) })
  else if off < 0xA00 then
    let b := off - 0x500
    let key := 32 * (b / 256) + b % 256 / 8
    { w with lat := w.lat.put key (BitVec.ofNat 64 (setHalf (w.lat.atD key 0).toNat (off / 4 % 2) v)) }
  else if off < 0x1200 then { w with opf := w.opf.putD ((off - 0xA00) / 4) (BitVec.ofNat 32 v) 0 }
  else w

/-- The hidden return stacks that a warp's block shows: each by the lane that its lane word names, to its depth (R209, R324). A stack that
neither a helper lane owns nor a write has named is none. -/
def blockStacks (w : Warp) : NMap (List DWord) :=
  (List.range 4).foldl (fun (m : NMap (List DWord)) i =>
    let b := 0x1200 + 256 * i
    if i < (helperLanes w).length || (w.patch.at? (b / 4)).isSome then
      let st := (List.range (Nat.min 16 (warpWord w 0 (b + 4)))).map (fun j =>
        BitVec.ofNat 64 (warpWord w 0 (b + 8 + 8 * j) + 2 ^ 32 * warpWord w 0 (b + 12 + 8 * j)))
      m.put (warpWord w 0 b % 32) st.reverse
    else m) []

/-- A field of a warp-state block that a write can change; ALLOC, BASE, CONT and the zero fields keep their contents (R324). -/
def warpWritable (off : Nat) : Bool :=
  off < 0x18C || (0x190 ≤ off && off < 0x1DC) || (0x200 ≤ off && off < 0x300) || (0x400 ≤ off && off < 0x1200) ||
    (0x1200 ≤ off && off < 0x1600 && off % 256 < 136)

/-- The writes to a warp's block take effect (R324). -/
def Warp.applyPatch (w : Warp) : Warp :=
  let w1 := w.patch.foldl (fun u (e : Nat × Word) => warpPut u (4 * e.1) e.2.toNat) { w with patch := [] }
  if w.patch.anyV (fun i _ => decide (0x1200 / 4 ≤ i)) then { w1 with hrs := (blockStacks w).filter (fun e => e.2 != []) } else w1

/-- Writes a word of a stopped warp's block as it is shown: it takes effect at the warp's next resumption. FLG and DMASK, which the hardware
goes on changing meanwhile (R130, R333) and which act only then, are written in place; an access in flight is not sent again (R237,
R324). -/
def putShown (s : State) (w : Warp) (off v : Nat) : Warp :=
  if !warpWritable off then w
  else if off / 4 = 0x1D0 / 4 || (0x180 ≤ off && off < 0x18C) then
    let w1 := warpPut w off v
    match w.stopped, (shown s w).stopped, w1.stopped with
    | some y, some z, some u => { w1 with stopped := some { u with done := u.done ||| (y.done &&& ~~~z.done) } }
    | _, _, _ => w1
  else
    let x : Nat := if 0x100 ≤ off && off < 0x180 then v % 2 ^ 11 / 256 * 256 + (v % 256 ||| 0x80) else v
    { w with patch := w.patch.put (off / 4) (BitVec.ofNat 32 x) }

/-- The word that a stream's state gives its block (R325). -/
def streamField (x : Stream) (seed off : Nat) : Nat :=
  if off < 8 then half x.pc.toNat (off / 4)
  else if off = 8 then
    (if x.stopped then 1 else 0) + (if x.started then 2 else 0) + (if x.ended then 4 else 0) +
      (match x.wait with | .fault _ _ => 8 | _ => 0)
  else if off < 0x18 then
    let b := off - 0xC
    x.flags.atD b 0 + 256 * x.flags.atD (b + 1) 0 + 65536 * x.flags.atD (b + 2) 0 + 16777216 * x.flags.atD (b + 3) 0
  else if off < 0x20 then 0
  else if off = 0x20 then x.loops.length
  else if off = 0x24 then 0
  else if off < 0x88 then
    let b := off - 0x28
    match x.loops.reverse[b / 24]? with
    | none => 0
    | some e =>
      match b % 24 with
      | 0 => half e.start.toNat 0
      | 4 => half e.start.toNat 1
      | 8 => half e.fin.toNat 0
      | 12 => half e.fin.toNat 1
      | 16 => e.var
      | _ => e.count.toNat
  else if off < 0x100 then 0
  else if off < 0x180 then (x.regs.atD ((off - 0x100) / 4) 0).toNat
  else if off < 0x200 then 
    let i := (off - 0x180) / 4
    (match x.gath with | some ws => ws.getD i 0 | none => x.agath.atD i 0).toNat
  else if off = 0x200 then x.row + (if x.gath.isSome then 32 else 0)
  else if off < 0x800 then 0
  else leNat ((List.range 4).map (fun i => Config.contByte seed (off + i)))

/-- The 32-bit word at a word-aligned offset of a stream-state block, a write that has not taken effect included (R325). -/
def streamWord (x : Stream) (seed off : Nat) : Nat :=
  match x.patch.at? (off / 4) with | some v => v.toNat | none => streamField x seed off

/-- The loop stack that a stream's block shows, to its depth, innermost first (R187, R325). -/
def blockLoops (x : Stream) : List LoopEntry :=
  let word (off : Nat) : Nat := streamWord x 0 off
  let entry (i : Nat) : LoopEntry :=
    let b := 0x28 + 24 * i
    { start := BitVec.ofNat 64 (word b + 2 ^ 32 * word (b + 4)), fin := BitVec.ofNat 64 (word (b + 8) + 2 ^ 32 * word (b + 12))
      var := word (b + 16) % 32, count := BitVec.ofNat 32 (word (b + 20)) }
  ((List.range (Nat.min 4 (word 0x20))).map entry).reverse

/-- Gives a stream's state the value of a word of its block (R325). -/
def streamPut (x : Stream) (off v : Nat) : Stream :=
  if off < 8 then { x with pc := BitVec.ofNat 64 (setHalf x.pc.toNat (off / 4) v) }
  else if off < 0xC then x
  else if off < 0x18 then
    { x with flags := (List.range 4).foldl (fun m i => m.putD (off - 0xC + i) (bitsOf v (8 * i) 8) 0) x.flags }
  else if off < 0x100 then x
  else if off < 0x180 then { x with regs := x.regs.putD ((off - 0x100) / 4) (BitVec.ofNat 32 v) 0 }
  else if off < 0x200 then
    let i := (off - 0x180) / 4
    match x.gath with
    | some ws => { x with gath := some (ws.set i (BitVec.ofNat 32 v)) }
    | none => { x with agath := x.agath.putD i (BitVec.ofNat 32 v) 0 }
  else if off = 0x200 then
    { x with
      row := v % 32
      gath := if v.testBit 5 then some (x.gath.getD ((List.range 32).map (fun i => x.agath.atD i 0))) else none }
  else x

/-- A field of a stream-state block that a write can change; STATE, CONT and the zero fields keep their contents (R325). -/
def streamWritable (off : Nat) : Bool :=
  off < 8 || (0xC ≤ off && off < 0x18) || (0x20 ≤ off && off < 0x24) || (0x28 ≤ off && off < 0x88) || (0x100 ≤ off && off < 0x204)

/-- The writes to a stream's block take effect (R325). -/
def Stream.applyPatch (x : Stream) : Stream :=
  let x1 := x.patch.foldl (fun u (e : Nat × Word) => streamPut u (4 * e.1) e.2.toNat) { x with patch := [] }
  if x.patch.anyV (fun i _ => decide (0x20 / 4 ≤ i) && decide (i < 0x88 / 4)) then { x1 with loops := blockLoops x } else x1

/-- Writes a word of a stopped stream's block: it takes effect at the stream's resumption; FLG, which the hardware goes on changing
meanwhile (R130), is written in place (R325). -/
def putStream (x : Stream) (off v : Nat) : Stream :=
  if !streamWritable off then x
  else if 0xC ≤ off && off < 0x18 then streamPut x off v
  else { x with patch := x.patch.put (off / 4) (BitVec.ofNat 32 (if off / 4 = 0x200 / 4 then v % 64 else v)) }

end Sys2Proof.Machine
end

