-- ==== Sys2Proof/Machine/Ops.lean ====
section
/-! DEFINITION. Named operations on the state: access to its parts, the error log (R366), taking a trap (R320 to R322) and the
resumption that returns from one (R328), milestones (R167), the right-of-way token (R341, R342), and the end of a lane, a
warp, a workgroup and a launch (R127, R210). -/

namespace Sys2Proof.Machine

/-- What a step answers. -/
abbrev Result := Host.Outcome State Fault Refusal

/-- The pseudo slot under which the control core's one lane is reached (R326). -/
def ctrlSlot : Nat := 48

/-! ## Parts of the state -/

namespace Launch

/-- The n bytes at an offset of the launch record (R147). -/
def fld (x : Launch) (off n : Nat) : Nat := bitsOf x.record.toNat (8 * off) (8 * n)
/-- A bit of the record's flags (R147). -/
def flag (x : Launch) (i : Nat) : Bool := (x.fld 0x28 4).testBit i
def swappable (x : Launch) : Bool := x.flag 1
def repro (x : Launch) : Bool := x.flag 3
def threads (x : Launch) : Nat := x.fld 0x20 2
def regs (x : Launch) : Nat := x.fld 0x22 2
def part (x : Launch) : Word := BitVec.ofNat 32 (x.fld 0x24 4)
def course (x : Launch) : Nat := x.fld 0x34 4
def gridX (x : Launch) : Nat := x.fld 0x18 4
def gridY (x : Launch) : Nat := x.fld 0x1C 2
def gridZ (x : Launch) : Nat := x.fld 0x1E 2
/-- Workgroups of the grid (R147). -/
def total (x : Launch) : Nat := x.gridX * x.gridY * x.gridZ
/-- Warps of a workgroup (R125). -/
def warps (x : Launch) : Nat := ceilDiv x.threads 32
def saveArea (x : Launch) : Nat := x.fld 0x50 8
/-- The lease in operations (R147). -/
def lease (x : Launch) : Nat := if x.fld 0x2C 2 = 0 then 64 else x.fld 0x2C 2

end Launch

/-- The four fields of a partition word (R42). -/
def regG (w : Word) : Nat := bitsOf w.toNat 0 6
def spG (w : Word) : Nat := bitsOf w.toNat 6 6
def accG (w : Word) : Nat := bitsOf w.toNat 12 6
def l1G (w : Word) : Nat := bitsOf w.toNat 18 6
/-- First byte of the scratchpad partition (R43). -/
def spBase (w : Word) : Nat := regG w * 0x4000
def spSize (w : Word) : Nat := spG w * 0x4000
/-- First byte of the accumulator partition (R43). -/
def accBase (w : Word) : Nat := (regG w + spG w) * 0x4000

/-- The one lane of a control core (R326). -/
def Control.lane (x : Control) : Lane := { kind := .launched, pc := x.pc, preds := x.preds, sp := x.sp, wait := x.wait }

namespace State

def core (s : State) (c : Nat) : Core := s.cores.atD c Core.reset
def setCore (s : State) (c : Nat) (x : Core) : State := { s with cores := s.cores.put c x }
def modCore (s : State) (c : Nat) (f : Core → Core) : State := s.setCore c (f (s.core c))
def warp? (s : State) (c k : Nat) : Option Warp := (s.core c).warps.at? k
def modWarp (s : State) (c k : Nat) (f : Warp → Warp) : State :=
  s.modCore c (fun x => { x with warps := x.warps.upd k f })
def modStream (s : State) (c k : Nat) (f : Stream → Stream) : State :=
  s.modCore c (fun x => { x with streams := x.streams.upd k f })
def modCtrl (s : State) (c : Nat) (f : Control → Control) : State := s.modCore c (fun x => { x with ctrl := f x.ctrl })
def modLaunch (s : State) (id : Nat) (f : Launch → Launch) : State := { s with launches := s.launches.upd id f }
def modWg (s : State) (id : Nat) (f : Wg → Wg) : State := { s with wgs := s.wgs.upd id f }
def modOp (s : State) (id : Nat) (f : MemOp → MemOp) : State := { s with ops := s.ops.upd id f }

/-- A lane: of a warp, or the control core's (R326). -/
def lane (s : State) (c k l : Nat) : Lane :=
  if k = ctrlSlot then (s.core c).ctrl.lane
  else match s.warp? c k with
    | some w => w.lanes.atD l Lane.never
    | none => Lane.never

def modLane (s : State) (c k l : Nat) (f : Lane → Lane) : State :=
  if k = ctrlSlot then
    s.modCtrl c (fun x => { x with pc := (f x.lane).pc, preds := (f x.lane).preds, sp := (f x.lane).sp, wait := (f x.lane).wait })
  else s.modWarp c k (fun w => { w with lanes := w.lanes.upd l f })

/-- The launch of a warp or stream, if it still runs. -/
def launchOf (s : State) (c k : Nat) : Option Launch :=
  match s.warp? c k with
  | some w => s.launches.at? w.launch
  | none => none

/-- Registers per thread in force (R45, R326). -/
def alloc (s : State) (c k : Nat) : Nat :=
  if k = ctrlSlot then 256 else match s.warp? c k with | some w => w.regs | none => 0

/-- The warp runs in a reproducible launch (R334). -/
def repro (s : State) (c k : Nat) : Bool := match s.launchOf c k with | some x => x.repro | none => false

/-- The address space an agent uses: its launch's, or the firmware's (R326). -/
def ctxOf (s : State) (c k : Nat) : Nat :=
  if k = ctrlSlot then (s.core c).ctrl.ctx else match s.launchOf c k with | some x => x.ctx | none => 0

/-- Core-store offset of register r of lane l of a warp (R45). -/
def regOff (w : Warp) (r l : Nat) : Nat := w.base + (r * 32 + l) * 4

/-- Reads a main-file register. -/
def rdReg (s : State) (c k l r : Nat) : Word :=
  if k = ctrlSlot then (s.core c).ctrl.regs.atD r 0
  else match s.warp? c k with
    | some w => BitVec.ofNat 32 (Mem.rd (s.core c).store (regOff w r l) 4)
    | none => 0

/-- Writes bytes of a core store. -/
def wrStore (s : State) (c a n v : Nat) : State := s.modCore c (fun x => { x with store := Mem.wr x.store a n v })

/-- Writes bytes of physical memory. -/
def wrMem (s : State) (a n v : Nat) : State := { s with mem := Mem.wr s.mem a n v }

/-- Writes a main-file register. -/
def wrReg (s : State) (c k l r : Nat) (v : Word) : State :=
  if k = ctrlSlot then s.modCtrl c (fun x => { x with regs := x.regs.putD r v 0 })
  else match s.warp? c k with
    | some w => s.wrStore c (regOff w r l) 4 v.toNat
    | none => s

/-- Reads n bytes of a table or ring whose base a register names. The error-log region, which only the application cores read, and
addresses without memory read as 0 there (R27, R366, log 130). -/
def rdDev (s : State) (a n : Nat) : Nat := if a + n ≤ Config.memTop then Mem.rd s.mem a n else 0

/-- Writes bytes of such a table or ring; nothing but the log hardware writes the error-log region (R366). -/
def wrDev (s : State) (a : Nat) (bs : List Byte) : State :=
  if a + bs.length ≤ Config.memTop then { s with mem := Mem.wrBytes s.mem a bs } else s

/-- Removes lanes of a warp from the clauses in flight (R131). -/
def dropWarp (s : State) (c k : Nat) : State :=
  { s with clauses := s.clauses.map (fun x =>
      if x.core = c then { x with lanes := x.lanes.filter (fun r => r.slot != k) } else x) }

/-- A lane leaves the clause that issues (R129). -/
def leave (s : State) (k l : Nat) : State :=
  match s.clauses with
  | [] => s
  | x :: t => { s with clauses := { x with lanes := x.lanes.filter (fun r => !(r.slot = k && r.lane = l)) } :: t }

/-- Changes the saved form of a warp of a workgroup (R333). -/
def modSaved (s : State) (g warpid : Nat) (f : Warp → Warp) : State :=
  s.modWg g (fun x => match x.saved with
    | some v => { x with saved := some { v with warps := v.warps.map (fun (w : Warp) => if w.warpid = warpid then f w else w) } }
    | none => x)

/-- Changes the saved form of a workgroup's stream (R325, R333). -/
def modSavedStream (s : State) (g : Nat) (f : Stream → Stream) : State :=
  s.modWg g (fun x => match x.saved with
    | some v => { x with saved := some { v with stream := v.stream.map f } }
    | none => x)

/-- A fresh number of the model's own. -/
def bump (s : State) : State := { s with fresh := s.fresh + 1 }

end State

namespace Warp

/-- Lanes of the warp that are launched or helper and have not exited (R126). -/
def present (w : Warp) : List Nat :=
  lanes32.filter (fun l => let x := (w.lanes.atD l Lane.never).kind; x == .launched || x == .helper)

/-- Launched lanes that have not exited. -/
def launchedLanes (w : Warp) : List Nat := lanes32.filter (fun l => (w.lanes.atD l Lane.never).kind == .launched)

/-- A warp-uniform register (R177). -/
def w32 (w : Warp) (k : Nat) : Word := w.wreg.atD k 0
/-- A pair of warp-uniform registers. -/
def w64 (w : Warp) (k : Nat) : Nat := (w.w32 k).toNat + 2 ^ 32 * (w.w32 (k + 1)).toNat

end Warp

/-- Compute die of a core (R3). -/
def dieOf (c : Nat) : Nat := c / 92

/-- Linear index and coordinates live in the workgroup (R147). -/
def State.wgOf (s : State) (c k : Nat) : Option Wg :=
  match s.warp? c k with
  | some w => s.wgs.at? w.wg
  | none => none

/-! ## The error log (R366, R367, R368) -/

/-- First byte and entries of the log's ring (R366). -/
def logBase : Nat := 0x5FF0000000
def logSlots : Nat := 3932160
def ckptBase : Nat := 0x5FFF000000

/-- Writes a checkpoint and the head to flash (R368). -/
def checkpoint (s : State) : State :=
  let seq := s.rel.head - 1
  let body := leBytes 8 seq ++ leBytes 32 s.rel.hash.toNat ++ List.replicate 24 0#8
  let sig := Config.sign s.tick (sha256 body)
  { s with
    mem := Mem.wrBytes s.mem (ckptBase + 128 * (s.rel.ckpts % 131072)) (body ++ leBytes 64 sig.toNat)
    rel := { s.rel with ckpts := s.rel.ckpts + 1, flashSeq := seq, flashHash := s.rel.hash, orderly := true } }

/-- Appends an entry; `detail` is bytes 20 to 31 as a number. A full ring counts the event instead (R367). -/
def logEvent (s : State) (kind source detail : Nat) : State :=
  if logSlots ≤ s.rel.head - s.rel.read then { s with rel := { s.rel with lost := s.rel.lost + 1 } }
  else
    let e := leBytes 8 s.rel.head ++ leBytes 8 s.now ++ leBytes 2 kind ++ leBytes 2 source ++ leBytes 12 detail ++
      leBytes 32 s.rel.hash.toNat
    let s1 := { s with
      mem := Mem.wrBytes s.mem (logBase + 64 * (s.rel.head % logSlots)) e
      rel := { s.rel with head := s.rel.head + 1, hash := sha256 e, orderly := false } }
    if (s.rel.head + 1) % 65536 = 0 then checkpoint s1 else s1

/-! ## Traps (R320 to R322) -/

/-- The causes of R320. -/
def Cause.illegalOpcode : Nat := 0x01
def Cause.illegalEncoding : Nat := 0x02
def Cause.controlTransfer : Nat := 0x03
def Cause.fetchError : Nat := 0x04
def Cause.registerRange : Nat := 0x05
def Cause.misaligned : Nat := 0x06
def Cause.translation : Nat := 0x07
def Cause.convergence : Nat := 0x08
def Cause.contract : Nat := 0x09
def Cause.rightOfWay : Nat := 0x0A
def Cause.engine : Nat := 0x0B
def Cause.dataLoss : Nat := 0x0C
def Cause.software : Nat := 0x0D
def Cause.breakpoint : Nat := 0x0E
def Cause.singleStep : Nat := 0x0F
def Cause.debugStop : Nat := 0x10
def Cause.nondet : Nat := 0x11

/-- The bytes of a trap record (R321). -/
def TrapRec.bytes (core : Nat) (r : TrapRec) : List Byte :=
  leBytes 8 r.pc.toNat ++ leBytes 1 r.cause ++ leBytes 1 r.slot ++ leBytes 2 core ++ leBytes 4 r.done.toNat ++
    leBytes 4 r.lanes.toNat ++ leBytes 4 r.wg ++ leBytes 2 r.warp ++ leBytes 1 r.queue ++ leBytes 1 r.detail ++
    leBytes 4 r.imm.toNat ++ leBytes 8 r.addr.toNat ++ leBytes 8 r.seq ++ List.replicate 16 0#8

/-- Moves held-back records into the free slots of a trap queue of 64, in the order the traps were raised; `n` bounds the moves (R322). -/
def Core.enterTraps : Nat → Core → Core
  | 0, x => x
  | n + 1, x =>
    match x.tqHeld with
    | [] => x
    | r :: t =>
      if x.tqHead - x.tqTail < 64 then
        enterTraps n { x with
          trapq := x.trapq.put (x.tqHead % 64) { r with seq := x.tseq }, tqHead := x.tqHead + 1, tseq := x.tseq + 1, tqHeld := t }
      else x

/-- Moves held-back records into freed slots (R322). -/
def drainTraps (s : State) (c : Nat) : State := s.modCore c (fun x => x.enterTraps x.tqHeld.length)

/-- Enters a record in the core's trap queue behind those held back, or holds it back while 64 are unconsumed (R322); a control core
that waits for one goes on (R327). -/
def pushTrap (s : State) (c : Nat) (r : TrapRec) : State :=
  s.modCore c (fun x =>
    let x1 := if x.ctrl.wait == .trapQueue then { x with ctrl := { x.ctrl with wait := .run } } else x
    { x1 with tqHeld := x.tqHeld ++ [r] }.enterTraps (x.tqHeld.length + 1))

/-- What a trap says beyond its cause (R321). -/
structure TrapInfo where
  lanes : Word := 0
  done : Word := 0
  detail : Nat := 0
  imm : Word := 0
  addr : DWord := 0

/-- Halts the control core, with the event logged (R326, R366 kind 13). -/
def haltControl (s : State) (c : Nat) : State :=
  logEvent ((s.dropWarp c ctrlSlot).modCtrl c (fun x => { x with halted := true })) 13 (dieOf c) c

/-- TAKES A TRAP in a warp: its lanes stop, the record goes to the core's trap queue, and the control core takes over
(R131, R320, R321, R322); the record names the done lanes of an instruction that stood stopped (R237). A warp that has trapped raises no
second trap. The control core itself has no trap: it halts (R326). -/
def raiseTrap (s : State) (c k cause : Nat) (pc : DWord) (i : TrapInfo) : State :=
  if k = ctrlSlot then haltControl s c
  else match s.warp? c k with
    | none => s
    | some w =>
      if w.trapped then s
      else
        let g := match s.wgs.at? w.wg with | some x => x.g | none => 0
        let q := match s.launches.at? w.launch with | some x => x.queue | none => 0
        let done := match w.stopped with | some y => i.done ||| y.done | none => i.done
        let s1 := (s.dropWarp c k).modWarp c k (fun w =>
          { w with trapped := true, cause := cause, trapPc := pc, dmask := done, stepping := none })
        pushTrap s1 c { pc := pc, cause := cause, slot := k, done := done, lanes := i.lanes, wg := g, warp := w.warpid,
                        queue := q, detail := i.detail, imm := i.imm, addr := i.addr, seq := 0 }

/-- TAKES A TRAP in an access stream, which stops like a warp of one lane (R325). -/
def raiseStreamTrap (s : State) (c k cause : Nat) (pc : DWord) (i : TrapInfo) : State :=
  match (s.core c).streams.at? k with
  | none => s
  | some x =>
    if x.stopped then s
    else
      let g := match s.wgs.at? x.wg with | some y => y.g | none => 0
      let q := match s.launches.at? x.launch with | some y => y.queue | none => 0
      let s2 := s.modStream c k (fun x => { x with stopped := true, cause := cause, stepping := false })
      pushTrap s2 c { pc := pc, cause := cause, slot := 48 + k, done := 0, lanes := if i.lanes = 0 then 0 else 1, wg := g,
                      warp := 0xFFFF, queue := q, detail := i.detail, imm := i.imm, addr := i.addr, seq := 0 }

/-- A kill has answered the record on which a stream is parked: it takes the fatal translation trap, or owes it while it stands stopped
(R38, R39, R325). -/
def killStream (s : State) (c k detail : Nat) (addr : DWord) : State :=
  match (s.core c).streams.at? k with
  | none => s
  | some x =>
    let s1 := s.modStream c k (fun x => { x with wait := .run })
    if x.stopped then s1.modStream c k (fun x => { x with owed := x.owed ++ [(detail, addr)] })
    else raiseStreamTrap s1 c k Cause.translation x.pc { lanes := 1, detail := detail, addr := addr }

/-- A stream takes the next trap that it owes (R39). -/
def deliverStream (s : State) (c k : Nat) : State :=
  match (s.core c).streams.at? k with
  | none => s
  | some x =>
    match x.owed with
    | [] => s
    | (detail, addr) :: t =>
      if x.stopped then s
      else raiseStreamTrap (s.modStream c k (fun x => { x with owed := t })) c k Cause.translation x.pc
        { lanes := 1, detail := detail, addr := addr }

/-- A warp takes the next trap that an engine command of it left owing, where its lowest lane stands, once no memory instruction of it
stands stopped: it lies at an instruction boundary (R39). -/
def deliverOwed (s : State) (c k : Nat) : State :=
  match s.warp? c k with
  | none => s
  | some w =>
    match w.owed, w.present with
    | (cause, detail, addr) :: t, l :: _ =>
      if w.trapped || w.stopped.isSome then s
      else raiseTrap (s.modWarp c k (fun w => { w with owed := t })) c k cause (w.lanes.atD l Lane.never).pc
        { detail := detail, addr := addr }
    | _, _ => s

/-- A lane whose record was answered with kill (R38): what its trap is to say. -/
def Wait.killedBy : Wait → Option (Nat × DWord)
  | .killed d a => some (d, a)
  | _ => none

/-- A running warp takes the translation trap for the lanes that a kill has answered, those at the program counter of the lowest of them
first; the others take theirs when the warp is resumed (R38, R131). -/
def deliverKilled (s : State) (c k : Nat) : State :=
  match s.warp? c k with
  | none => s
  | some w =>
    let of (l : Nat) : Option (Nat × DWord) := (w.lanes.atD l Lane.never).wait.killedBy
    match w.present.find? (fun l => (of l).isSome) with
    | none => s
    | some l =>
      if w.trapped then s
      else
        let pc := (w.lanes.atD l Lane.never).pc
        let hit := w.present.filter (fun m => of m == of l && (w.lanes.atD m Lane.never).pc = pc)
        let s1 := s.modWarp c k (fun w => { w with
          lanes := hit.foldl (fun ls m => ls.upd m (fun x => { x with wait := .run })) w.lanes })
        match of l with
        | some (d, a) => raiseTrap s1 c k Cause.translation pc { lanes := maskOf hit, detail := d, addr := a }
        | none => s

/-! ## Completion of operations (R130) -/

/-- Lowers a completion flag of the warp (R130). -/
def lowerFlag (s : State) (c k : Nat) (f : Option Nat) : State :=
  match f with
  | some n => s.modWarp c k (fun w => { w with flags := w.flags.putD n (w.flags.atD n 0 - 1) 0 })
  | none => s

/-- Removes operations with nothing left to do, lowering their flags (R130). -/
def sweepOps (s : State) : State :=
  let dead := s.ops.filterV (fun _ o => o.lanes.isEmpty && !o.more)
  dead.foldl (fun s (e : Nat × MemOp) =>
    let s1 := match e.2.owner with
      | .warp c k => lowerFlag s c k e.2.flag
      | .stream c k => match e.2.flag with
        | some n => s.modStream c k (fun x => { x with flags := x.flags.putD n (x.flags.atD n 0 - 1) 0 })
        | none => s
      | .control _ => s
      | .saved g p _ _ => match e.2.flag with
        | some n => s.modSaved g p (fun w => { w with flags := w.flags.putD n (w.flags.atD n 0 - 1) 0 })
        | none => s
      | .savedStream g _ _ => match e.2.flag with
        | some n => s.modSavedStream g (fun x => { x with flags := x.flags.putD n (x.flags.atD n 0 - 1) 0 })
        | none => s
    { s1 with ops := s1.ops.del e.1 }) s

/-! ## Engine ownership (R73) -/

/-- Frees every record of a command (R73). -/
def freeOwnership (s : State) (e : EngineRef) : State := { s with own := s.own.filter (fun r => !(r.engine == e)) }

/-- A matrix command is killed: its records are free, and rows still to be written never are (R39, R73). -/
def killMat (s : State) (n : Nat) : State :=
  { freeOwnership s (.tile n) with cores := s.cores.mapV (fun _ y => { y with engine := { y.engine with
      pending := y.engine.pending.map (fun m => if m.id = n then { m with more := false } else m) } }) }

/-- The matrix command whose replay a warp awaits is killed: its records are free, and its rows are forgotten (R39, R73). -/
def freeKept (s : State) (c k : Nat) : State :=
  match s.warp? c k with
  | some w =>
    let s1 := match w.keeps with | some n => killMat s n | none => s
    s1.modWarp c k (fun w => { w with keeps := none, row := 0 })
  | none => s

/-! ## What holds a warp back (R36, R330) -/

/-- The wait parks the warp on a replayable fault (R36). -/
def Wait.parksWarp : Wait → Bool
  | .fault _ _ => true
  | _ => false

/-- Warps and streams of the launch may not issue: it is halted (R330). -/
def haltedLaunch (s : State) (id : Nat) : Bool :=
  s.pre.halted && (match s.launches.at? id with | some x => s.pre.active.getLsbD x.queue | none => false)

/-! ## Resumption (R328) -/

/-- The program counter is one that R174 can name: slot at most 4 and bits [5:3] zero. -/
def pcOk (pc : DWord) : Bool := (pc.extractLsb' 0 3).toNat < 5 && pc.extractLsb' 3 3 == 0

/-- The program counter of the following slot, or of slot 0 of the following line (R207). -/
def nextPc (pc : DWord) : DWord := if pc.extractLsb' 0 3 = 4 then pc + 60 else pc + 1

/-- How a stopped warp goes on (R328). -/
inductive ResumeKind where
  | res | skip | step
  deriving DecidableEq, Repr

/-- The place of a lane of a `waita` that has no load in flight (R250): it overlaps nothing. -/
def waitPlace : Place := .debug 0 0xFFFFFFFE

/-- A lane of a `waita`: its data carry the mark. -/
def isWaitAcc (a : LaneAcc) : Bool := a.data.getLsbD 255

/-- Lanes of a warp are no longer in a `waita`: its operation lets them go. -/
def dropWaits (s : State) (c k : Nat) (ls : List Nat) : State :=
  sweepOps { s with ops := s.ops.mapV (fun _ o =>
    if o.owner == .warp c k then { o with lanes := o.lanes.filter (fun a => !(isWaitAcc a && ls.contains a.lane)) } else o) }

/-- The stopped instruction that a resumption leaves: of the lanes it was issued for, those that the control core has moved away take no
part in it any more (R324, R328). -/
def Warp.stillStopped (w : Warp) (m : ResumeKind) : Option Stopped :=
  match w.stopped with
  | some y =>
    let there := maskOf ((maskLanes y.set).filter (fun l => maskHas y.done l || (w.lanes.atD l Lane.never).pc = y.pc))
    if m == .skip || y.set &&& there &&& ~~~y.done = 0 then none else some { y with set := y.set &&& there }
  | none => none

/-- RETURNS FROM A TRAP: resumes a stopped warp, whose block's writes take effect (R324, R328). Lanes whose done bit is set, and under
`skip` every lane at the stopped instruction, advance past it; the others run it again, reading their operands afresh (R237). A lane
parked on a replayable fault stays parked until its record is answered (R36). -/
def resumeWarp (s0 : State) (c k : Nat) (m : ResumeKind) : State :=
  let s := s0.modWarp c k Warp.applyPatch
  match s.warp? c k with
  | none => s
  | some w =>
    match w.present.find? (fun l => !pcOk (w.lanes.atD l Lane.never).pc) with
    | some l =>
      raiseTrap (s.modWarp c k (fun w => { w with trapped := false })) c k Cause.controlTransfer
        (w.lanes.atD l Lane.never).pc { lanes := maskOf [l] }
    | none =>
      let at_ := match w.stopped with | some y => y.pc | none => w.trapPc
      let go (l : Nat) (x : Lane) : Lane :=
        if x.pc = at_ && x.wait != .transfer && (maskHas w.doneMask l || m == .skip) then { x with pc := nextPc x.pc, wait := .run }
        else match x.wait with
          | .held => { x with wait := .run }
          | .walk _ _ _ => { x with wait := .run }
          | _ => x
      let rest := w.stillStopped m
      let s1 := s.modWarp c k (fun w =>
        { w with
          trapped := false, dmask := 0, stopped := rest
          lanes := w.present.foldl (fun ls l => ls.put l (go l (ls.atD l Lane.never))) w.lanes
          stepping := if m == .step then some (maskOf w.present) else none })
      let moved (l : Nat) : Bool := (w.lanes.atD l Lane.never).pc != (s0.lane c k l).pc
      let past := w.present.filter (fun l => ((w.lanes.atD l Lane.never).pc = at_ && m == .skip) || moved l)
      let s2 := dropWaits (if m == .skip then freeKept s1 c k else s1) c k past
      deliverKilled (deliverOwed (match w.stopped, rest with
        | some y, none => sweepOps (s2.modOp y.op (fun o => { o with more := false }))
        | _, _ => s2) c k) c k

/-- RETURNS FROM A TRAP in an access stream (R325, R328). Under `skip` the instruction has no effect: its wait ends, and no entry of an
`agath` is held for it. -/
def resumeStream (s0 : State) (c k : Nat) (m : ResumeKind) : State :=
  let s := s0.modStream c k Stream.applyPatch
  match (s.core c).streams.at? k with
  | none => s
  | some x =>
    if !pcOk x.pc then
      raiseStreamTrap (s.modStream c k (fun x => { x with stopped := false })) c k Cause.controlTransfer x.pc { lanes := 1 }
    else
      deliverStream (s.modStream c k (fun x =>
        { x with
          stopped := false
          wait := if m == .skip then .run else match x.wait with | .walk _ _ _ => .run | w => w
          gath := if m == .skip then none else x.gath
          row := if m == .skip then 0 else x.row
          pc := if m == .skip then nextPc x.pc else x.pc
          stepping := m == .step })) c k

/-! ## Milestones (R167, R168) -/

/-- A warp passes a milestone: every snapshot that holds it lets it go. -/
def passMilestone (s : State) (wg warpid : Nat) : State :=
  { s with track := { s.track with
      snaps := s.track.snaps.map (fun x => { x with warps := x.warps.filter (fun p => p != (wg, warpid)) }) } }

/-- The warp is parked in `waita`, or was when it was saved (R168). -/
def Warp.inWaita (w : Warp) : Bool := w.lanes.anyV (fun _ l => match l.wait with | .waita _ => true | _ => false)

/-- Warps with read-section depth above zero, resident or saved, but for those that were saved while parked in `waita`, which hold up no
snapshot (R98 step 3, R168). -/
def sectionWarps (s : State) : List (Nat × Nat) :=
  List.flatMap (fun (e : Nat × Core) =>
      (e.2.warps.filterV (fun _ w => w.depth != 0)).map (fun (w : Nat × Warp) => (w.2.wg, w.2.warpid))) s.cores ++
    List.flatMap (fun (e : Nat × Wg) => match e.2.saved with
      | some v => (v.warps.filter (fun w => w.depth != 0 && !w.inWaita)).map (fun w => (e.1, w.warpid))
      | none => []) s.wgs

/-- Takes a snapshot at a scope (R98 step 3); its number is one above those taken before (R169). -/
def takeSnapshot (s : State) (span : Bool) : State :=
  let n := if span then s.track.takenSpan + 1 else s.track.takenPkg + 1
  { s with
    fresh := s.fresh + 1
    track := { snaps := s.track.snaps ++ [{ id := s.fresh, span := span, number := n, warps := sectionWarps s }]
               takenPkg := if span then s.track.takenPkg else n
               takenSpan := if span then n else s.track.takenSpan } }

/-! ## The right-of-way token (R341, R342) -/

/-- Resident places of a workgroup's warps: core, slot and warp. -/
def wgWarps (s : State) (wg : Nat) : List (Nat × Nat × Warp) :=
  List.flatMap (fun (e : Nat × Core) =>
    (e.2.warps.filterV (fun _ w => w.wg = wg)).map (fun (w : Nat × Warp) => (e.1, w.1, w.2))) s.cores

/-- Positions, g × W + `%warpid`, of the launch's warps on this package that have not exited (R341). The warps of the
workgroups still to be placed are represented by the first of them. -/
def livePositions (s : State) (id : Nat) (x : Launch) : List Nat :=
  let placed := s.wgs.flatMap (fun (e : Nat × Wg) =>
    if e.2.launch = id then
      let saved := match e.2.saved with | some v => v.warps.map Warp.warpid | none => []
      ((wgWarps s e.1).filter (fun w => w.2.2.present != [])).map (fun w => e.2.g * x.warps + w.2.2.warpid) ++
        saved.map (fun w => e.2.g * x.warps + w)
    else [])
  if x.next < x.total && !x.killed then placed ++ [x.next * x.warps] else placed

def minOf : List Nat → Option Nat
  | [] => none
  | a :: t => match minOf t with | none => some a | some b => some (if a ≤ b then a else b)

/-- The position after p in logical order, and whether the order wrapped (R341). -/
def nextPosition (ps : List Nat) (p : Nat) : Option (Nat × Bool) :=
  match minOf (ps.filter (fun q => p < q)) with
  | some q => some (q, false)
  | none => (minOf ps).map (fun q => (q, true))

/-- A warp is parked where the token passes it by (R342). -/
def Warp.passedBy (w : Warp) : Bool :=
  w.lanes.anyV (fun _ l => match l.wait with
    | .bar _ | .gridbar | .rsb _ _ | .cwait _ => true
    | _ => false)

/-- The warp at a position, resident or saved, is parked where the token passes it by (R342). -/
def parkedAt (s : State) (id : Nat) (x : Launch) (p : Nat) : Bool :=
  s.cores.anyV (fun _ y => y.warps.anyV (fun _ w => w.launch = id && w.warpid = p % x.warps &&
    (match s.wgs.at? w.wg with | some g => decide (g.g = p / x.warps) | none => false) && w.passedBy)) ||
    s.wgs.anyV (fun _ g => g.launch = id && g.g = p / x.warps && (match g.saved with
      | some v => v.warps.any (fun w => w.warpid = p % x.warps && w.passedBy)
      | none => false))

/-- The launch runs on several packages, over which its token travels (R341). -/
def severalMembers (s : State) : Bool := decide (1 < (maskLanes (s.rep.members.setWidth 32)).length)

/-- The place to which the token goes from place p of a package's order; `n` bounds the warps that it passes by. Where every warp is parked
it rests at the first of the order, as it does whichever of them arrived last (R342, log 113). None where it leaves the package or ceases
(R341). -/
def tokenTarget (s : State) (id : Nat) (x : Launch) (stay : Nat → Bool) : Nat → Nat → Option Nat
  | 0, _ => if severalMembers s then none else minOf (livePositions s id x)
  | n + 1, p =>
    match nextPosition (livePositions s id x) p with
    | none => none
    | some (q, wrapped) =>
      if wrapped && severalMembers s then none else if stay q then some q else tokenTarget s id x stay n q

/-- The token passes on from the warp at which it stands; `parks` says that this warp is itself parked where the token passes it by
(R342). -/
def passToken (s : State) (id : Nat) (parks : Bool) : State :=
  match s.launches.at? id with
  | some x => match x.token with
    | some p =>
      let stay (q : Nat) : Bool := !parkedAt s id x q && !(parks && q = p)
      s.modLaunch id (fun y => { y with token := tokenTarget s id x stay (livePositions s id x).length p, held := false })
    | none => s
  | none => s

/-- The token of its launch stands at this warp. -/
def tokenAt (s : State) (w : Warp) : Bool :=
  match s.launches.at? w.launch, s.wgs.at? w.wg with
  | some x, some g => x.token == some (g.g * x.warps + w.warpid)
  | _, _ => false

/-- The warp holds the token of its launch (R342). -/
def holdsToken (s : State) (w : Warp) : Bool :=
  tokenAt s w && (match s.launches.at? w.launch with | some x => x.held | none => false)

/-- A warp passes the token by executing a barrier or `cwait` while the token stands at it (R342); `parks` says that it waits there. -/
def tokenAtBarrier (s : State) (c k : Nat) (parks : Bool) : State :=
  match s.warp? c k with
  | some w => if tokenAt s w then passToken s w.launch parks else s
  | none => s

/-! ## The end of lanes, warps, workgroups and launches (R127, R210) -/

/-- Loads of a lane that have not written yet are discarded when it exits (R210). -/
def discardLoads (s : State) (c k l : Nat) : State :=
  { s with ops := s.ops.mapV (fun _ o =>
      match o.owner, o.body with
      | .warp c2 k2, .load _ _ _ =>
        if c2 = c && k2 = k then { o with lanes := o.lanes.filter (fun a => a.lane != l) } else o
      | _, _ => o) }

/-- The operation belongs to the warp slot (R210, R333). -/
def MemOp.ofSlot (o : MemOp) (c k : Nat) : Bool :=
  match o.owner with
  | .warp c2 k2 => c2 = c && k2 = k
  | .saved _ _ c2 k2 => c2 = c && k2 = k
  | .savedStream _ c2 k2 => c2 = c && k2 = k
  | _ => false

/-- A reply is still owed to the operation: a pop that has come back waits for nothing but the check of its target, and a `waita` only where
its load is in flight (R207, R250, R333). -/
def MemOp.owes (o : MemOp) : Bool :=
  o.lanes.any (fun a => match o.body with | .pop => !a.data.getLsbD 200 | _ => !(a.place == waitPlace))

/-- A stream is parked on a replayable fault (R358). -/
def Stream.parked (t : Stream) : Bool := match t.wait with | .fault _ _ => true | _ => false

/-- The workgroup has ended: its stream ends, but for a parked one, which waits for its record's answer; its collective chunk
becomes due, and its launch counts it, unless it is to be dispatched again (R127, R155, R165, R265, R358). -/
def endWg (s : State) (wg : Nat) : State :=
  match s.wgs.at? wg with
  | none => s
  | some x =>
    let s1 := { s with
      cores := s.cores.mapV (fun _ x => { x with
        streams := x.streams.filterV (fun _ t => t.wg != wg || t.parked), sides := x.sides.del wg })
      ops := s.ops.filterV (fun _ o => match o.owner with
        | .stream c k => match (s.core c).streams.at? k with | some t => t.wg != wg | none => false
        | .savedStream g _ _ => g != wg
        | _ => true)
      clauses := s.clauses.filter (fun y => match y.picker with
        | .stream k => match (s.core y.core).streams.at? k with | some t => t.wg != wg | none => true
        | _ => true)
      wgs := s.wgs.del wg }
    s1.modLaunch x.launch (fun y =>
      if y.redo.contains x.g then y
      else { y with ended := y.ended + 1, due := if y.flag 5 then y.due ++ [x.g] else y.due })

/-- A core whose last warp has left keeps no launch (R43, R155). -/
def freeCore (s : State) (c : Nat) : State :=
  s.modCore c (fun x => if x.warps.isEmpty && x.streams.isEmpty then { x with launch := none } else x)

/-- The command has ended or been killed, so that the channel is free (R72). -/
def Chan.free (y : Chan) : Bool := match y.cmd with | some x => x.killed || x.len ≤ y.done | none => true

/-- Once no lane remains and every operation owed to the warp has completed, the warp counts as exited: its allocation is freed and it
passes a milestone (R127, R167, R210). -/
def settleWarp (s : State) (c k : Nat) : State :=
  match s.warp? c k with
  | none => s
  | some w =>
    if w.present != [] || s.ops.anyV (fun _ o => o.owner == .warp c k && o.owes) ||
        s.cores.anyV (fun _ y => y.engine.pending.any (fun m => m.wg = w.wg && m.warpid = w.warpid && (m.flag.isSome || m.acks != 0 || m.more))) ||
        s.cores.anyV (fun _ y => y.chans.anyV (fun _ z => match z.cmd with
          | some x => !z.free && (x.flag.isSome || x.flight.any (fun n => n != 0)) && x.wg = w.wg && x.warpid = w.warpid
          | none => false)) then s
    else
      let s1 := (passMilestone s w.wg w.warpid).modCore c (fun x => { x with
        warps := x.warps.del k
        granules := x.granules.filterV (fun _ e => e.1 != k)
        engine := { x.engine with
          holder := if x.engine.holder = some k then none else x.engine.holder
          leaseQ := x.engine.leaseQ.filter (· != k) } })
      let s2 := s1.modWg w.wg (fun x => { x with live := x.live - 1 })
      let s3 := match s2.wgs.at? w.wg with
        | some x => if x.live = 0 then endWg s2 w.wg else s2
        | none => s2
      freeCore s3 c

/-- The warp has no lane left: matrix ownership and token pass on (R163, R210, R342). Its depth counts until it counts as exited. -/
def warpEmpty (s : State) (c k : Nat) : State :=
  match s.warp? c k with
  | none => s
  | some w =>
    let at_ := tokenAt s w
    let s1 := (match w.stopped with
      | some y => sweepOps (s.modOp y.op (fun o => { o with more := false }))
      | none => s).modWarp c k (fun w => { w with stopped := none })
    let s2 := s1.modCore c (fun x => { x with engine := { x.engine with
      owner := if x.engine.owner = some k then none else x.engine.owner
      ownerQ := x.engine.ownerQ.filter (· != k) } })
    settleWarp (if at_ then passToken s2 w.launch false else s2) c k

/-- Lanes of a warp exit (R210); the helper lanes follow the last launched lane (R127). -/
def exitLanes (s : State) (c k : Nat) (ls : List Nat) : State :=
  let s1 := ls.foldl (fun s l =>
    discardLoads ((s.modLane c k l (fun x => { x with kind := .exited, wait := .run })).leave k l) c k l) s
  match s1.warp? c k with
  | none => s1
  | some w =>
    let rest := if w.launchedLanes = [] then w.present else []
    let s2 := rest.foldl (fun s l => (s.modLane c k l (fun x => { x with kind := .exited, wait := .run })).leave k l) s1
    let s3 := sweepOps s2
    match s3.warp? c k with
    | some w2 => if w2.present = [] then warpEmpty s3 c k else s3
    | none => s3

/-- A warp that is to end no longer stands stopped: the lanes of its stopped instruction that were still to be sent never are
(R149, R155, R237), and a matrix command that was to replay is killed (R73). -/
def dropStopped (s : State) (c k : Nat) : State :=
  match s.warp? c k with
  | none => s
  | some w =>
    let s1 := freeKept ((s.dropWarp c k).modWarp c k (fun w => { w with trapped := false, stopped := none })) c k
    match w.stopped with
    | some y => sweepOps (s1.modOp y.op (fun o => { o with more := false }))
    | none => s1

/-- Ends every warp, stream and saved context of a launch, which writes its done word with status 0x03 (R149). -/
def killLaunch (s : State) (id : Nat) : State :=
  let s0 := s.modLaunch id (fun x =>
    { x with killed := true, ended := x.ended + (x.total - x.next) + x.redo.length, next := x.total, redo := [] })
  let ws := List.flatMap (fun (e : Nat × Core) =>
    (e.2.warps.filterV (fun _ w => w.launch = id)).map (fun (w : Nat × Warp) => (e.1, w.1))) s0.cores
  let s1 := ws.foldl (fun s p =>
    let s2 := dropStopped s p.1 p.2
    match s2.warp? p.1 p.2 with
    | some w => exitLanes s2 p.1 p.2 w.present
    | none => s2) s0
  let saved := s1.wgs.filterV (fun _ g => g.launch = id && g.saved.isSome)
  let kept := saved.flatMap (fun (e : Nat × Wg) => match e.2.saved with | some v => v.warps.filterMap Warp.keeps | none => [])
  saved.foldl (fun s (e : Nat × Wg) => endWg s e.1) (kept.foldl killMat s1)

/-- A fatal fault of an engine command reaches its issuer: a resident warp takes the trap, a saved one keeps it for its restore,
and where no warp is left the launch is killed and the fault logged (R39, R362). -/
def engineTrap (s : State) (core launch wg warpid cause detail : Nat) (addr : DWord) : State :=
  match (wgWarps s wg).find? (fun e => e.2.2.warpid = warpid && e.2.2.present != []) with
  | some (c, k, _) => deliverOwed (s.modWarp c k (fun w => { w with owed := w.owed ++ [(cause, detail, addr)] })) c k
  | none =>
    let saved := match s.wgs.at? wg with
      | some x => (match x.saved with | some v => v.warps.any (fun w => w.warpid = warpid) | none => false)
      | none => false
    if saved then s.modSaved wg warpid (fun w => { w with owed := w.owed ++ [(cause, detail, addr)] })
    else
      let q := match s.launches.at? launch with | some y => y.queue | none => 0
      killLaunch (logEvent s 16 (dieOf core) (addr.toNat + 2 ^ 64 * (detail % 16 + 2 ^ 8 * (detail / 16) + 2 ^ 16 * q))) launch

end Sys2Proof.Machine
end

