-- ==== Sys2Proof/Machine/Flags.lean ====
section
/-! DEFINITION. Predicates and guards (R176), the conditions that instructions compute into predicates (R201, R250), and
completion flags (R14, R130, R175). -/

namespace Sys2Proof.Machine

/-- A predicate of a lane; p7 is always true (R5). -/
def Lane.pred (x : Lane) (p : Nat) : Bool := p = 7 || x.preds.getLsbD p

/-- Sets predicate p of a byte of predicates; a write to p7 is discarded (R181). -/
def setBit8 (m : BitVec 8) (p : Nat) (v : Bool) : BitVec 8 :=
  if p = 7 then m ||| 0x80 else if v then m ||| (1#8 <<< p) else m &&& ~~~(1#8 <<< p)

def Lane.setPred (x : Lane) (p : Nat) (v : Bool) : Lane := { x with preds := setBit8 x.preds p v }

/-- A lane executes when the named predicate, XORed with the negate bit, is true (R176). -/
def Lane.guard (x : Lane) (g : Guard) : Bool := Bool.xor (x.pred g.pred.toNat) g.neg

/-- The value of a bit pattern as a value of an integer or bit type (R195). -/
def intVal (t : Ty) (x : Nat) : Int := if t.isI then sextN t.bits x else (x % 2 ^ t.bits : Nat)

/-- `cmp`: the CC codes of R201. -/
def cmpCC (cc : Nat) (a b : Int) : Bool :=
  match cc with
  | 0 => a == b
  | 1 => a != b
  | 2 => decide (a < b)
  | 3 => decide (a ≤ b)
  | 4 => decide (b < a)
  | _ => decide (b ≤ a)

/-- `waita`: the CC codes of R248. -/
def waitCC (cc : Nat) (a b : Int) : Bool :=
  match cc with
  | 0 => a == b
  | 1 => a != b
  | 2 => decide (b ≤ a)
  | 3 => decide (a < b)
  | 4 => decide (b < a)
  | _ => decide (a ≤ b)

/-- The completion flag that a flag select names in a line (R175). -/
def flagOf (l : Line) : FlagSel → Option Nat
  | .none => none
  | .a => some (lineSetA l)
  | .b => some (lineSetB l)

/-- Raises a completion flag of a warp by one (R130). -/
def raiseFlag (s : State) (c k : Nat) (f : Option Nat) : State :=
  match f with
  | some n => s.modWarp c k (fun w => { w with flags := w.flags.put n (w.flags.atD n 0 + 1) })
  | none => s

/-- Raises a flag of an access stream (R175). -/
def raiseStreamFlag (s : State) (c k : Nat) (f : Option Nat) : State :=
  match f with
  | some n => s.modStream c k (fun x => { x with flags := x.flags.put n (x.flags.atD n 0 + 1) })
  | none => s

/-- Every flag in the wait mask is zero (R129, R175). -/
def flagsClear (fl : NMap Nat) (wait : BitVec 12) : Bool :=
  (List.range 12).all (fun f => !wait.getLsbD f || fl.atD f 0 = 0)

/-- The instructions of a line that may raise the flag leave it at most 63 (R130). -/
def flagsFit (fl : NMap Nat) (l : Line) : Bool :=
  let marks (f : FlagSel) := ((List.range 5).filter (fun k =>
    match decodeSlot l k with | .ok i => i.flagSel == f | .error _ => false)).length
  let na := marks .a
  let nb := marks .b
  let fits (f n : Nat) := n = 0 || 12 ≤ f || fl.atD f 0 + n ≤ 63
  if lineSetA l = lineSetB l then fits (lineSetA l) (na + nb) else fits (lineSetA l) na && fits (lineSetB l) nb

end Sys2Proof.Machine
end

