-- ==== Sys2Proof/Machine/Operands.lean ====
section
/-! DEFINITION. Operand fields: special registers (R178), immediates (R179), reading and writing every level (R177, R179,
R180, R196), latches (R50) and the register-range check (R46). -/

namespace Sys2Proof.Machine

/-! ## Population registers (R311) -/

/-- The linear number of a lane's grain on this package (R310): thread, warp or workgroup in linear order. -/
def grainIndex (x : Launch) (g warpid l grain : Nat) : Nat :=
  match grain with
  | 0 => g * x.threads + warpid * 32 + l
  | 1 => g * x.warps + warpid
  | _ => g

/-- The population of a warp's launch and the slot that a lane runs, none for a helper lane under lane grain (R311). -/
def particleOf (s : State) (c k l : Nat) : Option (Nat × Nat) :=
  match s.warp? c k with
  | none => none
  | some w =>
    match s.launches.at? w.launch, s.wgs.at? w.wg with
    | some x, some g =>
      match x.population with
      | none => none
      | some p =>
        match s.pops.at? p with
        | none => none
        | some q =>
          if q.grain = 0 && (w.lanes.atD l Lane.never).kind == .helper then none
          else some (p, q.first + grainIndex x g.g w.warpid l q.grain)
    | _, _ => none

def State.particle (s : State) (p slot : Nat) : Option Particle :=
  match s.pops.at? p with | some q => q.parts.at? slot | none => none

/-- What a grain reads of its slot (R311, R314). -/
def Particle.view (x : Particle) : PopView := x.old.getD { root := x.root, parent := x.parent, pw := x.pw, step := x.step }

/-- A log-weight clamped to the finite codes, none being −∞ (R309, R311). -/
def lwCode (w : Option Int) : Nat :=
  match w with
  | none => 0x8000000000000000
  | some v =>
    let lo : Int := -0x7FFFFFFFFFFFFFFF
    let hi : Int := 0x7FFFFFFFFFFFFFFF
    truncN 64 (if v < lo then lo else if hi < v then hi else v)

/-- The value of a code, none for −∞ (R309). -/
def lwVal (x : Nat) : Option Int := if x = 0x8000000000000000 then none else some (sextN 64 x)

/-! ## Special registers (R178) -/

/-- The whole value of a special register as a lane reads it; the 64-bit ones at their even code. -/
def specialFull (s : State) (c k l : Nat) (code : Nat) : Nat :=
  let w := s.warp? c k
  let g := s.wgOf c k
  let x := s.launchOf c k
  let part : Option PopView := match particleOf s c k l with
    | some (p, i) => (s.particle p i).map Particle.view
    | none => none
  match code with
  | 0x00 => l
  | 0x01 => match w with | some w => w.warpid | none => 0
  | 0x02 => match g with | some g => g.x | none => 0
  | 0x03 => match g with | some g => g.y | none => 0
  | 0x04 => match g with | some g => g.z | none => 0
  | 0x05 => match x with | some x => x.gridX | none => 0
  | 0x06 => match x with | some x => x.gridY | none => 0
  | 0x07 => match x with | some x => x.gridZ | none => 0
  | 0x08 => match x with | some x => x.threads | none => 0
  | 0x09 => if (s.lane c k l).kind == .helper then 1 else 0
  | 0x0A => c % 4
  | 0x0B => s.fab.index
  | 0x0C => match x with | some x => x.course | none => 0
  | 0x0D => match w with | some w => w.lostmask.toNat | none => 0
  | 0x0E => match w with | some w => w.base | none => 0
  | 0x10 => match particleOf s c k l with | some (_, i) => i | none => 0
  | 0x11 => match part with | some y => y.parent | none => 0
  | 0x12 => match part with | some y => y.root.toNat | none => 0
  | 0x14 => match part with | some y => lwCode y.pw | none => 0
  | 0x16 => match part with | some y => y.step | none => 0
  | 0x18 => (s.lane c k l).sp.toNat
  | 0x20 => s.now % 2 ^ 64
  | n =>
    if 0x28 ≤ n && n ≤ 0x2F && (s.core c).pmcOn.getLsbD (n - 0x28) then (Config.pmcValue s.tick c (n - 0x28)).toNat else 0

/-- A special register at a 32-bit position: the high word at the odd code of a 64-bit one (R179). -/
def special32 (s : State) (c k l : Nat) (code : BitVec 8) : Nat :=
  if specialPair code then specialFull s c k l code.toNat % 2 ^ 32
  else if specialPair (code - 1) then specialFull s c k l (code.toNat - 1) / 2 ^ 32
  else specialFull s c k l code.toNat % 2 ^ 32

/-- `%time` or a performance counter (R336). -/
def isTiming (o : Operand) : Bool :=
  match o with
  | .special c => c = 0x20 || c = 0x21 || (0x28 ≤ c.toNat && c.toNat ≤ 0x2F)
  | _ => false

/-! ## Immediates (R179) -/

/-- Position of the highest one bit; 0 for 0. -/
def topBit : Nat → Nat → Nat
  | 0, _ => 0
  | n + 1, x => if x.testBit (n + 1) then n + 1 else topBit n x

/-- An integer of at most 8 bits in a binary format with the given exponent and fraction widths, exactly (R179). -/
def smallFloat (eb mb : Nat) (v : Int) : Nat :=
  if v = 0 then 0
  else
    let m := v.natAbs
    let e := topBit 8 m
    let body := (2 ^ (eb - 1) - 1 + e) * 2 ^ mb + (m * 2 ^ mb / 2 ^ e - 2 ^ mb)
    if v < 0 then body + 2 ^ (eb + mb) else body

/-- The value of an 8-bit immediate at an operand of a type and position. -/
def immVal (t : Ty) (p : Pos) (x : BitVec 8) : Nat :=
  let n := if p = .w64 then 64 else 32
  match t with
  | .i8 | .i16 | .i32 | .i64 => truncN n (sextN 8 x.toNat)
  | .f64 => smallFloat 11 52 (sextN 8 x.toNat)
  | .f32 => smallFloat 8 23 (sextN 8 x.toNat)
  | .f16 => smallFloat 5 10 (sextN 8 x.toNat)
  | .bf16 => smallFloat 8 7 (sextN 8 x.toNat)
  | .lw64 => (Config.lwImm x).toNat
  | _ => x.toNat

/-! ## Reading -/

/-- What the issuing instruction sees: its core and warp slot, its line, and the words of the popped entry. -/
structure Env where
  core : Nat
  slot : Nat
  line : Line
  pop : List Word

/-- The bits of a register position, from the words it covers. -/
def words (p : Pos) (f : Nat → Word) : Nat :=
  match p with
  | .w32 => (f 0).toNat
  | .w64 => (f 0).toNat + 2 ^ 32 * (f 1).toNat
  | .w128 => (f 0).toNat + 2 ^ 32 * (f 1).toNat + 2 ^ 64 * (f 2).toNat + 2 ^ 96 * (f 3).toNat

/-- A warp-uniform register word of the slot's warp. -/
def State.wreg (s : State) (c k r : Nat) : Word := match s.warp? c k with | some w => w.w32 r | none => 0

/-- An operand-file word (R49). -/
def State.opfWord (s : State) (c k l r : Nat) : Word :=
  match s.warp? c k with | some w => w.opf.atD (32 * r + l) 0 | none => 0

/-- Reads a register-like operand, as a source or as the present value of a destination. -/
def readPlace (s : State) (c k l : Nat) (p : Pos) (o : Operand) : Nat :=
  match o with
  | .main r => words p (fun i => s.rdReg c k l (r.toNat + i))
  | .opf r => words p (fun i => s.opfWord c k l (r.toNat + i))
  | .wreg r => words p (fun i => s.wreg c k (r.toNat + i))
  | .special code => if p = .w64 then specialFull s c k l code.toNat else special32 s c k l code
  | _ => 0

/-- The latch of a slot: the value kept, or for a lane that entered later the present value of that slot's destination
(R50, R129). A slot without a destination register, or a push in a lane that did not execute it, leaves its latch unspecified (a free
value, log 2); in a reproducible launch it depends on nothing but the line, the slot and the lane (R334). -/
def latchVal (s : State) (e : Env) (l k : Nat) : Nat :=
  let kept := match s.warp? e.core e.slot with | some w => w.lat.at? (32 * k + l) | none => none
  let free : DWord := Config.freeBits (if s.repro e.core e.slot then 1024 * e.line.toNat + 32 * k + l else s.tick * 64 + l)
  match kept with
  | some v => v.toNat
  | none =>
    match decode false (slotWord e.line k) with
    | .ok i => match i.dest with
      | some (.queue _ _, _) => free.toNat % 2 ^ 32
      | some (o, p) => readPlace s e.core e.slot l p o % 2 ^ 64
      | none => free.toNat
    | .error _ => 0

/-- Reads a source operand of a lane at a position, with the type that extends an immediate (R179). -/
def readOp (s : State) (e : Env) (l : Nat) (t : Ty) (p : Pos) (o : Operand) : Nat :=
  match o with
  | .latch k => if p = .w32 then latchVal s e l k.toNat % 2 ^ 32 else latchVal s e l k.toNat
  | .queue _ _ => (e.pop.getD l 0).toNat
  | .imm x => immVal t p x
  | o => readPlace s e.core e.slot l p o

/-! ## Writing -/

/-- Writes a result to a main-file, operand-file or `%sp` destination of a lane (R180, R196). Queue and warp-uniform
destinations are written once for the warp, by the issue. -/
def writeDst (s : State) (c k l : Nat) (p : Pos) (o : Operand) (v : Nat) : State :=
  let n := match p with | .w32 => 1 | .w64 => 2 | .w128 => 4
  let w (i : Nat) : Word := BitVec.ofNat 32 (v / 2 ^ (32 * i))
  match o with
  | .main r => (List.range n).foldl (fun s i => s.wrReg c k l (r.toNat + i) (w i)) s
  | .opf r => (List.range n).foldl (fun s i =>
      s.modWarp c k (fun x => { x with opf := x.opf.putD (32 * (r.toNat + i) + l) (w i) 0 })) s
  | .special _ => s.modLane c k l (fun x => { x with sp := BitVec.ofNat 64 v })
  | _ => s

/-- Writes a warp-uniform register or pair (R203). -/
def writeWreg (s : State) (c k : Nat) (p : Pos) (r : Nat) (v : Nat) : State :=
  s.modWarp c k (fun x =>
    let w1 := x.wreg.putD r (BitVec.ofNat 32 v) 0
    { x with wreg := if p = .w64 then w1.putD (r + 1) (BitVec.ofNat 32 (v / 2 ^ 32)) 0 else w1 })

/-- Registers that a position covers. -/
def posSpan : Pos → Nat
  | .w32 => 1 | .w64 => 2 | .w128 => 4

/-- Every main-file field lies below the allocation (R46). -/
def rangeOk (n : Nat) (ops : List (Operand × Pos)) : Bool :=
  ops.all (fun e => match e.1 with | .main r => decide (r.toNat + posSpan e.2 ≤ n) | _ => true)

end Sys2Proof.Machine
end

