-- ==== Sys2Proof/Machine/Translate.lean ====
section
/-! DEFINITION. Addresses: the windows (R20 to R24), the table walk (R25 to R29), attributes (R21, R28), the translation caches
(R33), and the fault queue (R34 to R38). -/

namespace Sys2Proof.Machine

/-- The regions of the virtual address space (R19, R20). -/
inductive Region where
  | nonCanonical
  | general
  | peer (p : Nat)
  | self (x : Nat)
  | scratch (c y : Nat)
  | debug (x : Nat)
  | reserved
  deriving DecidableEq, Repr

def regionOf (va : Nat) : Region :=
  if 2 ^ 52 ≤ va then .nonCanonical
  else if va < 0xE000000000000 then .general
  else if va < 0xF000000000000 then .peer (bitsOf va 44 4)
  else
    let x := va - 0xF000000000000
    if x < 0xC0000 then .self x
    else if 0x1000000 ≤ x && x < 0x1400000 then .scratch (bitsOf x 20 2) (x % 2 ^ 20)
    else if 0x10000000 ≤ x && x < 0x11000000 then .debug (x - 0x10000000)
    else .reserved

/-- The cause codes of R34. -/
def XCause.notPresent : Nat := 0
def XCause.protection : Nat := 1
def XCause.format : Nat := 2
def XCause.attribute : Nat := 3
def XCause.window : Nat := 4
def XCause.nonCanonical : Nat := 5

/-! ## The walk (R25, R26, R27, R29) -/

/-- What a walk answers: the leaf with the number of offset bits of its page, or a cause. -/
inductive Walk where
  | leaf (e bits : Nat)
  | fault (cause : Nat)
  deriving DecidableEq, Repr

/-- Lowest indexed bit and index width of a level (R25). -/
def levelBits (lv : Nat) : Nat × Nat :=
  match lv with
  | 0 => (39, 13)
  | 1 => (30, 9)
  | 2 => (21, 9)
  | _ => (16, 5)

/-- Fields of a page-table entry (R26). -/
def pteValid (e : Nat) : Bool := e.testBit 0
def pteLeaf (e : Nat) : Bool := e.testBit 1
def pteRO (e : Nat) : Bool := e.testBit 2
def pteMS (e : Nat) : Bool := e.testBit 3
def pteSW (e : Nat) : Bool := e.testBit 4
def ptePE (e : Nat) : Bool := e.testBit 5
def pteRH (e : Nat) : Nat := bitsOf e 6 2
def pteAddr (e : Nat) : Nat := bitsOf e 8 44 * 256
def ptePkg (e : Nat) : Nat := bitsOf e 52 4
def pteX (e : Nat) : Bool := e.testBit 56

/-- A usable context-table entry (R29). -/
def ctxEntryOk (w0 w1 : Nat) : Bool :=
  w0.testBit 0 && bitsOf w0 1 15 = 0 && bitsOf w0 52 12 = 0 && w1 = 0 && bitsOf w0 16 36 * 65536 + 65536 ≤ Config.memTop

/-- The offset bits that a context entry's root covers: the whole address space (R25). -/
def rootBits : Nat := 52

/-- The table entry at an address, which covers `2^bits` bytes about `va`, as a walker reads it: from the walk cache of its compute die, or
from memory. An agent that is on no compute die reads memory (R29, R33). -/
def walkRead (s : State) (die : Option Nat) (ctx va bits addr : Nat) : Nat :=
  match die with
  | none => Mem.rd s.mem addr 8
  | some d => match (s.xl.walks.atD d []).find? (fun e => e.ctx = ctx && e.bits = bits && e.page = va / 2 ^ bits) with
    | some e => e.entry.toNat
    | none => Mem.rd s.mem addr 8

/-- One level of the walk and those below it. -/
def walkLevel (s : State) (die : Option Nat) (ctx va : Nat) : Nat → Nat → Nat → Walk
  | 0, _, _ => .fault XCause.format
  | n + 1, lv, tab =>
    let b := levelBits lv
    let ea := tab + 8 * bitsOf va b.1 b.2
    if Config.memTop < ea + 8 then .fault XCause.format
    else
      let e := walkRead s die ctx va b.1 ea
      if !pteValid e then .fault XCause.notPresent
      else if bitsOf e 57 7 != 0 then .fault XCause.format
      else if pteLeaf e then
        if lv = 0 || pteAddr e % 2 ^ b.1 != 0 || Config.memTop < pteAddr e + 2 ^ b.1 || (!ptePE e && ptePkg e != 0) then
          .fault XCause.format
        else .leaf e b.1
      else
        let size := if lv = 0 || lv = 1 then 4096 else 256
        if lv = 3 || bitsOf e 52 5 != 0 || bitsOf e 2 6 != 0 || pteAddr e % size != 0 || Config.memTop < pteAddr e + size then
          .fault XCause.format
        else walkLevel s die ctx va n (lv + 1) (pteAddr e)

/-- The walk of an address in a context (R25, R29), by a walker of a compute die or, with none, by an agent elsewhere. -/
def walkBy (s : State) (die : Option Nat) (ctx va : Nat) : Walk :=
  let ea := s.xl.ctxBase.toNat + 16 * ctx
  if s.xl.ctxBase = 0 || Config.memTop < ea + 16 then .fault XCause.format
  else
    let w0 := walkRead s die ctx va rootBits ea
    if ctxEntryOk w0 (Mem.rd s.mem (ea + 8) 8) then walkLevel s die ctx va 4 0 (bitsOf w0 16 36 * 65536)
    else .fault XCause.format

/-- The walk of the dispatcher, the reduce path and the controllers, which read the tables in memory (log 103). -/
def walk (s : State) (ctx va : Nat) : Walk := walkBy s none ctx va

/-- The pointers of levels 0 to 2 that a walk met, for the walk cache of its die. -/
def walkPath (s : State) (die : Option Nat) (ctx va : Nat) : Nat → Nat → Nat → List WalkEntry
  | 0, _, _ => []
  | n + 1, lv, tab =>
    let b := levelBits lv
    let e := walkRead s die ctx va b.1 (tab + 8 * bitsOf va b.1 b.2)
    if pteLeaf e then []
    else { ctx := ctx, page := va / 2 ^ b.1, bits := b.1, entry := BitVec.ofNat 64 e } :: walkPath s die ctx va n (lv + 1) (pteAddr e)

/-- The cached leaf of an address in a list of translations (R33). -/
def tlbFind (t : List TlbEntry) (ctx va : Nat) : Option TlbEntry :=
  t.find? (fun e => e.ctx = ctx && e.page = va / 2 ^ e.bits)

/-- A list of translations without those of one page, which a newer leaf replaces. -/
def tlbWithout (t : List TlbEntry) (e : TlbEntry) : List TlbEntry :=
  t.filter (fun x => !(x.ctx = e.ctx && x.page = e.page && x.bits = e.bits))

/-- Adds a translation to a level-1 TLB of 256 entries, fully associative; the entry filled earliest goes beyond them (R33, log 14). -/
def tlbAdd (t : List TlbEntry) (e : TlbEntry) : List TlbEntry := (e :: tlbWithout t e).take 256

/-- Adds a translation to a die TLB of 4096 sets of 8 ways; a full set drops the entry filled earliest (R33; the set of a page is log
104). -/
def dieTlbAdd (t : List TlbEntry) (e : TlbEntry) : List TlbEntry :=
  let rest := tlbWithout t e
  let kept := (rest.filter (fun x => x.page % 4096 = e.page % 4096)).take 7
  e :: rest.filter (fun x => x.page % 4096 != e.page % 4096 || kept.contains x)

/-- Adds pointers to the walk cache of a die, which holds 512 entries of levels 0 to 2 beside the context entries (R29, R33). -/
def walksAdd (t news : List WalkEntry) : List WalkEntry :=
  let all := news.filter (fun x => !t.any (fun y => y.ctx = x.ctx && y.page = x.page && y.bits = x.bits)) ++ t
  (all.filter (fun e => e.bits != rootBits)).take 512 ++ all.filter (fun e => e.bits = rootBits)

/-- Fills the caches of a core and its die with a leaf that a walk found (R33). -/
def fillTlb (s : State) (c ctx va e bits : Nat) : State :=
  let d := dieOf c
  let t : TlbEntry := { ctx := ctx, page := va / 2 ^ bits, bits := bits, leaf := BitVec.ofNat 64 e }
  let w0 := walkRead s (some d) ctx va rootBits (s.xl.ctxBase.toNat + 16 * ctx)
  let path := { ctx := ctx, page := va / 2 ^ rootBits, bits := rootBits, entry := BitVec.ofNat 64 w0 } ::
    walkPath s (some d) ctx va 3 0 (bitsOf w0 16 36 * 65536)
  let s1 := { s with xl := { s.xl with
    dieTlb := s.xl.dieTlb.put d (dieTlbAdd (s.xl.dieTlb.atD d []) t)
    walks := s.xl.walks.put d (walksAdd (s.xl.walks.atD d []) path) } }
  s1.modCore c (fun x => { x with tlb := tlbAdd x.tlb t })

/-- The leaf that a core's TLB, or its die's, holds for an address, if it grants the access: one that does not is walked anew, since a
mapping that permits more than before needs no invalidation (R32, R33). -/
def cachedLeaf (t : List TlbEntry) (ctx va : Nat) (grants : Nat → Bool) : Option TlbEntry :=
  (tlbFind t ctx va).filter (fun e => grants e.leaf.toNat)

/-- Translates at once: level-1 TLB, die TLB, walk (R33). -/
def translateNow (s : State) (c ctx va : Nat) (grants : Nat → Bool) : State × Walk :=
  match cachedLeaf (s.core c).tlb ctx va grants with
  | some e => (s, .leaf e.leaf.toNat e.bits)
  | none =>
    match cachedLeaf (s.xl.dieTlb.atD (dieOf c) []) ctx va grants with
    | some e => (s.modCore c (fun x => { x with tlb := tlbAdd x.tlb e }), .leaf e.leaf.toNat e.bits)
    | none =>
      match walkBy s (some (dieOf c)) ctx va with
      | .leaf e bits => (fillTlb s c ctx va e bits, .leaf e bits)
      | .fault f => (s, .fault f)

/-! ## Attributes and places (R21, R28, R79) -/

/-- The package was a member of the span when it was last trained (R21, R104). -/
def spanMember (s : State) (p : Nat) : Bool := p = s.fab.index || s.fab.reach.any (fun e => e.2 = p)

/-- The fault a leaf raises for an access, if any: R21 first, then R28 (the order is log 15). -/
def leafFault (s : State) (va e : Nat) (write exec : Bool) : Option Nat :=
  let attr := match regionOf va with
    | .peer p => if p = s.fab.index then ptePE e else !(ptePE e && ptePkg e = p) || !spanMember s p
    | _ => ptePE e
  if attr then some XCause.attribute
  else if (write && pteRO e) || (exec && !pteX e) then some XCause.protection
  else none

/-- Physical address of a virtual one under a leaf. -/
def leafPa (va e bits : Nat) : Nat := pteAddr e + va % 2 ^ bits

/-- Where an access under a leaf is performed (R28, R79). -/
def leafPlace (va e bits : Nat) : Place :=
  let pa := leafPa va e bits
  if ptePE e then .peer (ptePkg e) pa else if pteMS e then .side pa else .mem pa

/-- What an agent is to the address decoder. -/
structure Who where
  core : Nat
  ctx : Nat
  /-- The workgroup whose scratchpad it may reach (R23). -/
  wg : Option Nat
  /-- The register allocation the self window shows it: base and bytes (R22). -/
  regs : Option (Nat × Nat)
  /-- The control core, which alone reaches the debug window (R24). -/
  dbg : Bool

/-- A warp slot, or the control core, as the address decoder sees it. -/
def whoOf (s : State) (c k : Nat) : Who :=
  if k = ctrlSlot then { core := c, ctx := (s.core c).ctrl.ctx, wg := none, regs := none, dbg := true }
  else
    { core := c, ctx := s.ctxOf c k, wg := (s.warp? c k).map Warp.wg,
      regs := (s.warp? c k).map (fun w => (w.base, 128 * w.regs)), dbg := false }

/-- What an access needs of the decoder: its kind, whether it may write, whether it is an atomic or another form that the self
window refuses, and its width. -/
structure Access where
  kind : AccKind
  write : Bool
  odd : Bool
  width : Nat

/-- What an address resolves to. -/
inductive Res where
  | ok (p : Place) (leaf : Nat)
  | miss
  | fault (cause : Nat)
  deriving DecidableEq, Repr

/-- The assigned offsets of the debug window (R323). -/
def debugOk (x : Nat) : Bool :=
  decide (x < 0xC0000) || (decide (0x100000 ≤ x) && decide (x < 0x160000)) || (decide (0x160000 ≤ x) && decide (x < 0x190000)) ||
    (decide (0x200000 ≤ x) && decide (x < 0x201000)) || (decide (0x201000 ≤ x) && decide (x < 0x201010))

/-- The windows; none for a translated address (R20 to R24). -/
def windowRes (s : State) (w : Who) (a : Access) (va : Nat) : Option Res :=
  match regionOf va with
  | .general => none
  | .peer _ => none
  | .nonCanonical => some (.fault XCause.nonCanonical)
  | .reserved => some (.fault XCause.window)
  | .debug x =>
    some (if w.dbg && debugOk x && (a.kind == .load || a.kind == .store) && !a.odd then .ok (.debug w.core x) 0 else .fault XCause.window)
  | .self x =>
    some (match w.regs with
      | some (b, n) =>
        if (a.kind == .load || a.kind == .store) && !a.odd && a.width ≤ 8 && b ≤ x && x + a.width ≤ b + n then
          .ok (.store w.core x) 0
        else .fault XCause.window
      | none => .fault XCause.window)
  | .scratch q y =>
    let t := w.core / 4 * 4 + q
    let kindOk := match a.kind with | .load | .store | .atomic | .copy | .affine => true | _ => false
    let mine := match w.wg with
      | some g => match s.wgs.at? g with | some x => x.cores.contains t | none => false
      | none => false
    some (if kindOk && mine && y + a.width ≤ spSize (s.core t).part then .ok (.store t (spBase (s.core t).part + y)) 0
          else .fault XCause.window)

/-- Resolves an address against the core's TLB. A leaf there that does not grant the access is walked anew: the access takes the fault that
the tables give it, or waits for the walk that brings the wider mapping (R32). -/
def resolve (s : State) (w : Who) (a : Access) (va : Nat) : Res :=
  match windowRes s w a va with
  | some r => r
  | none =>
    let f (e : Nat) : Option Nat := leafFault s va e a.write (a.kind == .ifetch)
    match tlbFind (s.core w.core).tlb w.ctx va with
    | none => .miss
    | some e =>
      if (f e.leaf.toNat).isNone then .ok (leafPlace va e.leaf.toNat e.bits) e.leaf.toNat
      else match walkBy s (some (dieOf w.core)) w.ctx va with
        | .fault g => .fault g
        | .leaf e _ => match f e with
          | some g => .fault g
          | none => .miss

/-- Resolves an address, walking if need be. -/
def resolveNow (s : State) (w : Who) (a : Access) (va : Nat) : State × Res :=
  match windowRes s w a va with
  | some r => (s, r)
  | none =>
    match translateNow s w.core w.ctx va (fun e => (leafFault s va e a.write (a.kind == .ifetch)).isNone) with
    | (s1, .fault f) => (s1, .fault f)
    | (s1, .leaf e bits) =>
      match leafFault s va e a.write (a.kind == .ifetch) with
      | some f => (s1, .fault f)
      | none => (s1, .ok (leafPlace va e bits) e)

/-! ## The fault queue (R36, R37, R38) -/

/-- The number of an access kind in the row order of R35 (R37). -/
def kindCode : AccKind → Nat
  | .load => 0 | .store => 1 | .atomic => 2 | .prefetch => 3 | .ifetch => 4 | .copy => 5 | .affine => 6 | .tileFetch => 7
  | .writeBack => 8 | .reduce => 9 | .population => 10

/-- The bytes of a fault record (R37). -/
def faultBytes (r : FaultRec) (seq : Nat) : List Byte :=
  leBytes 8 r.va.toNat ++ leBytes 2 (r.cause + 16 * kindCode r.kind + (if r.write then 256 else 0)) ++ leBytes 1 r.ctx ++
    leBytes 1 0 ++ leBytes 2 r.core ++ leBytes 2 (if 0xFFFF < r.count then 0xFFFF else r.count) ++ leBytes 4 r.mask.toNat ++
    leBytes 4 0 ++ leBytes 8 seq

/-- Records the ring holds (R38). -/
def ringCount (x : Xlate) : Nat := (x.fqHead + 8192 - x.fqTail) % 8192

/-- The device may write a record now (R36, R38). -/
def canWrite (x : Xlate) : Bool :=
  decide (ringCount x < 4096) && decide ((x.faults.filter (fun r => r.slot.isSome)).length < 4096) &&
    !x.faults.any (fun r => r.slot = some (x.fqHead % 4096))

/-- Writes one waiting fault to the queue; a written record's bytes keep its waiter count (R36). The first record written carries
sequence number 0 (DESIGN CHOICE, log 105: R37 does not say where the count starts). -/
def writeFault (s : State) : State :=
  match s.xl.faults.find? (fun r => r.slot.isNone) with
  | none => s
  | some r =>
    if canWrite s.xl then
      let k := s.xl.fqHead % 4096
      let s1 := s.wrDev (s.xl.fqBase.toNat + 32 * k) (faultBytes r s.xl.fseq)
      { s1 with
        xl := { s.xl with
          fqHead := (s.xl.fqHead + 1) % 8192, fseq := s.xl.fseq + 1
          faults := s.xl.faults.map (fun x => if x.id = r.id then { x with slot := some k } else x) } }
    else s

/-- Writes the faults that wait in their die, while slots are free (R36). -/
def writeFaults (s : State) : Nat → State
  | 0 => s
  | n + 1 => writeFaults (writeFault s) n

/-- Joins a replayable fault to the outstanding record of its granule and context, or starts one (R36). Answers the number its
waiters hold. -/
def joinFault (s : State) (va : DWord) (ctx core cause : Nat) (kind : AccKind) (write : Bool) (mask : Word) : State × Nat :=
  match s.xl.faults.find? (fun r => r.ctx = ctx && r.va.toNat / 65536 = va.toNat / 65536) with
  | some r =>
    let n := if 0xFFFF ≤ r.count then 0xFFFF else r.count + 1
    let s1 := { s with xl := { s.xl with
      faults := s.xl.faults.map (fun x => if x.id = r.id then { x with count := n } else x) } }
    (match r.slot with
      | some k => s1.wrDev (s.xl.fqBase.toNat + 32 * k + 14) (leBytes 2 n)
      | none => s1, r.id)
  | none =>
    let r : FaultRec := { id := s.fresh, va := va, cause := cause, kind := kind, write := write, ctx := ctx, core := core,
                          mask := mask, count := 1, slot := none }
    (writeFault { s with fresh := s.fresh + 1, xl := { s.xl with faults := s.xl.faults ++ [r] } }, r.id)

/-- A fault of this kind and cause is replayed rather than fatal (R35, R40). -/
def replayable (s : State) (kind : AccKind) (cause : Nat) : Bool :=
  cause = XCause.notPresent && s.xl.fqBase != 0 &&
    (match kind with | .reduce | .population | .prefetch => false | _ => true)

/-- The agent code of DETAIL [6:4] (R321). -/
def agentCode : AccKind → Nat
  | .copy => 1 | .affine => 2 | .tileFetch => 3 | .writeBack => 4 | _ => 0

end Sys2Proof.Machine
end

