-- ==== Sys2Proof/Machine/Cache.lean ====
section
/-! DEFINITION. Level 1 and level 2 (R52 to R61), dirty-sector signatures and boards (R74, R75), what a release and an acquire
do (R76), and ownership records (R67 to R73). -/

namespace Sys2Proof.Machine

/-! ## Level 1 (R52, R53, R57 to R60) -/

/-- Sets of a core's level 1; 0 when it has none (R52, R53). -/
def l1Sets (x : Core) : Nat := l1G x.part * 16

/-- The key of a line: PA / 128, with the owning package above for a line held for `.ro` peer loads (R53, R109). -/
def localKey (pa : Nat) : Nat := pa / 128
def peerKey (pkg pa : Nat) : Nat := 2 ^ 45 * (pkg + 1) + pa / 128
def isPeerKey (k : Nat) : Bool := decide (2 ^ 45 ≤ k)

/-- The hint in force: the one named, or the leaf's for `default`; none applies on a memory-side page, whose lines no level holds (R28,
R57). -/
def effHint (h : Hint) (leaf : Nat) : Hint :=
  if pteMS leaf then .bypass else if h == .dflt then decodeHint (BitVec.ofNat 2 (pteRH leaf)) else h

/-- Bytes lo to lo + n − 1 of a line. -/
def byteMask (lo n : Nat) : BitVec 128 := BitVec.ofNat 128 ((2 ^ n - 1) * 2 ^ lo)

/-- The bytes of a line, from those named in the mask of one value and the others of another. -/
def mergeLine (m : BitVec 128) (new old : BitVec 1024) : BitVec 1024 :=
  (List.range 128).foldl (fun (d : BitVec 1024) i =>
    if m.getLsbD i then (d &&& ~~~(0xFF#1024 <<< (8 * i))) ||| (new &&& (0xFF#1024 <<< (8 * i))) else d) old

def memLine (s : State) (k : Nat) : BitVec 1024 := BitVec.ofNat 1024 (Mem.rd s.mem (128 * k) 128)

/-- Writes the bytes named by a mask to memory. -/
def writeMasked (s : State) (base : Nat) (m : BitVec 128) (d : BitVec 1024) : State :=
  (List.range 128).foldl (fun (s : State) i =>
    if m.getLsbD i then { s with mem := Mem.setByte s.mem (base + i) (d.extractLsb' (8 * i) 8) } else s) s

/-- Sectors PA / 32 that a line's byte mask touches (R74). -/
def maskSectors (k : Nat) (m : BitVec 128) : List Nat :=
  ((List.range 4).filter (fun i => m.extractLsb' (32 * i) 32 != 0)).map (fun i => 4 * k + i)

/-- Adds the sectors not listed yet. -/
def addSectors (l new : List Nat) : List Nat := new.foldl (fun l x => if l.contains x then l else x :: l) l

/-- Remembers sectors that a core has sent home, until its next publication at each board (R76). -/
def markDirty (s : State) (c : Nat) (sec : List Nat) : State :=
  s.modCore c (fun x => { x with
    dirtyPkg := addSectors x.dirtyPkg sec, sides := x.sides.mapV (fun _ y => { y with dirty := addSectors y.dirty sec }) })

/-- The home slice of a local physical address (R55). -/
def homeSlice (pa : Nat) : Nat :=
  let g := bitsOf pa 16 23
  (g ^^^ (g / 2 ^ 7) ^^^ (g / 2 ^ 14)) % 65536 * 320 / 65536

/-- A thread access to the line is held by an engine's ownership (R71). -/
def lineHeld (s : State) (pa : Nat) (write : Bool) : Bool :=
  s.own.any (fun r => r.granule = pa / 65536 && r.mask.getLsbD (pa / 128 % 512) && (write || r.write))

/-! ## Level 2 (R54, R57 to R61) -/

/-- The other lines of a line's set in its home slice (R54). -/
def l2Set (s : State) (k : Nat) : List L2Line :=
  s.l2.filter (fun y => y.line % 768 = k % 768 && homeSlice (128 * y.line) = homeSlice (128 * k) && y.line != k)

/-- The victim of a full set of level 2: the least recently used stream line, else default, else sticky, of those not pinned (R58). -/
def l2Victim (set : List L2Line) : Option L2Line :=
  let last (h : Hint) := (set.filter (fun l => l.cls == h && l.pins = 0)).getLast?
  match last .stream with
  | some l => some l
  | none => match last .dflt with
    | some l => some l
    | none => last .sticky

/-- An access at a line's home slice (R57 to R60): the line takes the class of the hint, at most 12 of the 16 ways of a set are sticky, and
a full set gives up its victim. `valid` and `written` are the bytes that it brings. A bypass fills nothing and leaves class and age. At most
8 ways of a set are pinned (R61), so that a set always has a victim. -/
def l2Access (s : State) (k : Nat) (h : Hint) (valid written : BitVec 128) : State :=
  let set := l2Set s k
  let old := s.l2.find? (fun y => y.line = k)
  if h == .bypass then
    { s with l2 := s.l2.map (fun y => if y.line = k then { y with valid := y.valid ||| valid, written := y.written ||| written } else y) }
  else
    let cls := if h == .sticky && 12 ≤ (set.filter (fun y => y.cls == .sticky)).length then Hint.dflt else h
    let line : L2Line := match old with
      | some y => { y with cls := cls, valid := y.valid ||| valid, written := y.written ||| written }
      | none => { line := k, cls := cls, pins := 0, valid := valid, written := written }
    let out := if old.isNone && 16 ≤ set.length then (l2Victim set).map L2Line.line else none
    let rest := s.l2.filter (fun y => y.line != k && some y.line != out)
    { s with l2 := if cls == .stream then rest ++ [line] else line :: rest }

/-- A line is read at its home slice, or filled from there. -/
def l2Touch (s : State) (pa : Nat) (h : Hint) : State := l2Access s (pa / 128) h (BitVec.allOnes 128) 0

/-- Bytes are written at the home slice of their line. -/
def l2Write (s : State) (pa n : Nat) (h : Hint) : State := l2Access s (pa / 128) h (byteMask (pa % 128) n) (byteMask (pa % 128) n)

/-! ## Write-back (R52, R71) -/

/-- Written bytes arrive at the home slice, where an engine's ownership of the line holds them until it ends (R52, R71). They record the
class that their line has in level 1 (DESIGN CHOICE, log 126). -/
def sendHome (s : State) (c k : Nat) (mask : BitVec 128) (data : BitVec 1024) (cls : Hint) : State :=
  if lineHeld s (128 * k) true then { s with heldWb := s.heldWb ++ [{ core := c, line := k, mask := mask, data := data, cls := cls }] }
  else markDirty (l2Access (writeMasked s (128 * k) mask data) k cls mask mask) c (maskSectors k mask)

/-- Sends a line's written bytes home (R52). -/
def writeBack (s : State) (c : Nat) (l : CacheLine) : State :=
  if l.written = 0 then s else sendHome s c l.line l.written l.data l.cls

/-- Written bytes of a core cannot go home now, or wait there already: an engine's ownership holds their lines (R71). -/
def wbHeld (s : State) (c : Nat) : Bool :=
  s.heldWb.any (fun h => h.core = c) || (s.core c).l1.any (fun l => l.written != 0 && lineHeld s (128 * l.line) true)

/-- Write-backs that no ownership holds any longer are performed over the engine's bytes, oldest first (R71). -/
def serveWb (s : State) : State :=
  let go := s.heldWb.filter (fun h => !lineHeld s (128 * h.line) true)
  go.foldl (fun s h => sendHome s h.core h.line h.mask h.data h.cls)
    { s with heldWb := s.heldWb.filter (fun h => lineHeld s (128 * h.line) true) }

/-- Writes back every written byte of a core's level 1; the lines stay, clean (R70, R76). -/
def writeBackAll (s : State) (c : Nat) : State :=
  ((s.core c).l1.foldl (fun s l => writeBack s c l) s).modCore c (fun x =>
    { x with l1 := x.l1.map (fun l => { l with written := 0 }) })

/-- Drops the lines a test names, writing their written bytes back first (R76). -/
def dropLines (s : State) (c : Nat) (p : CacheLine → Bool) : State :=
  (((s.core c).l1.filter p).foldl (fun s l => writeBack s c l) s).modCore c (fun x => { x with l1 := x.l1.filter (fun l => !p l) })

/-- An eviction at a moment of the hardware's choosing: the line that a free value names leaves level 1, its written bytes first
sent home, with no signature published (R52, R76; log 17). -/
def evictOne (s : State) (c : Nat) : State :=
  match (s.core c).l1[(Config.freeBits s.tick).toNat % (s.core c).l1.length]? with
  | some v => dropLines s c (fun y => y.line = v.line)
  | none => s

/-- The victim of a full set: the least recently used stream line, else default, else sticky (R58). -/
def victim (set : List CacheLine) : Option CacheLine :=
  let last (h : Hint) := (set.filter (fun l => l.cls == h)).getLast?
  match last .stream with
  | some l => some l
  | none => match last .dflt with
    | some l => some l
    | none => last .sticky

/-- The physical line of a key, whose set it chooses whichever package it lies in (R52). -/
def keyLine (k : Nat) : Nat := k % 2 ^ 45

/-- Puts a line in level 1 with the class of the hint, evicting if its set is full (R57, R58, R59). A line hit with the hint stream becomes
the least recently used one, as a line filled with it is (DESIGN CHOICE, log 108: R57 gives its class on a hit and not its age). -/
def l1Put (s : State) (c : Nat) (l : CacheLine) (h : Hint) : State :=
  let x := s.core c
  let n := l1Sets x
  let set := x.l1.filter (fun y => keyLine y.line % n = keyLine l.line % n && y.line != l.line)
  let cls := if h == .sticky && 6 ≤ (set.filter (fun y => y.cls == .sticky)).length then Hint.dflt else h
  let s1 := if 8 ≤ set.length then
      match victim set with
      | some v => dropLines s c (fun y => y.line = v.line)
      | none => s
    else s
  s1.modCore c (fun x =>
    let rest := x.l1.filter (fun y => y.line != l.line)
    let l2 := { l with cls := cls }
    { x with l1 := if cls == .stream then rest ++ [l2] else l2 :: rest })

def l1Find (s : State) (c k : Nat) : Option CacheLine := (s.core c).l1.find? (fun l => l.line = k)

/-- Fills a line of level 1 from the bytes below it, keeping the bytes written in it (R57). Its clean bytes are taken anew with the rest, so
that the line never holds parts of two stores where one came whole (R80). A bypass fills no line, and leaves class and age of one that is
held (R57). -/
def l1Fill (s : State) (c k : Nat) (below : BitVec 1024) (h : Hint) : State :=
  match l1Find s c k with
  | some l =>
    let l2 : CacheLine := { l with data := mergeLine l.written l.data below, valid := BitVec.allOnes 128 }
    if h == .bypass then s.modCore c (fun x => { x with l1 := x.l1.map (fun y => if y.line = k then l2 else y) }) else l1Put s c l2 h
  | none =>
    if h == .bypass then s
    else l1Put s c { line := k, cls := h, data := below, valid := BitVec.allOnes 128, written := 0 } h

/-- Bytes lo to lo + n − 1 of a line as a number. -/
def lineNat (d : BitVec 1024) (lo n : Nat) : Nat := bitsOf d.toNat (8 * lo) (8 * n)

/-- A plain load of a general local page: served by the first level that holds the line (R57, R60, R79). -/
def loadLocal (s : State) (c pa n : Nat) (h : Hint) : State × Nat :=
  let k := localKey pa
  let lo := pa % 128
  if l1Sets (s.core c) = 0 then (l2Touch s pa h, Mem.rd s.mem pa n)
  else
    match l1Find s c k with
    | some l =>
      if l.valid &&& byteMask lo n = byteMask lo n then
        (if h == .bypass then s else l1Put s c l h, lineNat l.data lo n)
      else
        let d := mergeLine l.written l.data (memLine s k)
        (if h == .bypass then s else l1Fill (l2Touch s pa h) c k (memLine s k) h, lineNat d lo n)
    | none => (l1Fill (l2Touch s pa h) c k (memLine s k) h, Mem.rd s.mem pa n)

/-- Writes back the written bytes of one line (R79, R88, R243). -/
def writeBackLine (s : State) (c k : Nat) : State :=
  match l1Find s c k with
  | some l => (writeBack s c l).modCore c (fun x =>
      { x with l1 := x.l1.map (fun y => if y.line = k then { y with written := 0 } else y) })
  | none => s

/-- A load performed at the home slice (R79): its core's own written bytes go home first, and its level-1 copy gives way, so that no later
load of the core returns an older value (R81). It may then fill level 1. -/
def loadHome (s : State) (c pa n : Nat) (h : Hint) : State × Nat :=
  let s1 := l2Touch (dropLines s c (fun l => l.line = localKey pa)) pa h
  let v := Mem.rd s1.mem pa n
  if l1Sets (s1.core c) = 0 then (s1, v) else (l1Fill s1 c (localKey pa) (memLine s1 (localKey pa)) h, v)

/-- Updates the bytes of a level-1 copy, if the line is held. -/
def l1Update (s : State) (c k lo n v : Nat) (written : Bool) : State :=
  s.modCore c (fun x => { x with l1 := x.l1.map (fun l =>
    if l.line = k then
      { l with
        data := mergeLine (byteMask lo n) (BitVec.ofNat 1024 (v % 2 ^ (8 * n) * 2 ^ (8 * lo))) l.data
        valid := l.valid ||| byteMask lo n
        written := if written then l.written ||| byteMask lo n else l.written &&& ~~~(byteMask lo n) }
    else l) })

/-- A store performed at the home slice; a level-1 copy of the issuing core is updated after it (R60, R79). -/
def storeHome (s : State) (c pa n v : Nat) (h : Hint) : State :=
  l1Update (markDirty (l2Write (s.wrMem pa n v) pa n h) c [pa / 32, (pa + n - 1) / 32]) c (localKey pa) (pa % 128) n v false

/-- A plain store of a general local page (R52, R60, R79). -/
def storeLocal (s : State) (c pa n v : Nat) (h : Hint) : State :=
  let k := localKey pa
  if l1Sets (s.core c) = 0 || h == .bypass then storeHome s c pa n v h
  else
    let s1 := match l1Find s c k with
      | some l => l1Put s c l h
      | none => l1Put s c { line := k, cls := h, data := 0, valid := 0, written := 0 } h
    l1Update s1 c k (pa % 128) n v true

/-- Written bytes of the core's own wait to go home to the line (R71), so that what reads or writes there comes after them (R81). -/
def ownHeld (s : State) (c pa : Nat) : Bool := s.heldWb.any (fun h => h.core = c && h.line = pa / 128)

/-- A prefetch fills level 2, and level 1 where it is to, or is held at the home slice (R71, R243). -/
def fillFor (s : State) (f : HeldFill) : State :=
  if lineHeld s f.pa false || ownHeld s f.core f.pa then { s with heldPf := s.heldPf ++ [f] }
  else
    let s1 := l2Touch s f.pa f.hint
    if f.level1 && l1Sets (s1.core f.core) != 0 then l1Fill s1 f.core (localKey f.pa) (memLine s1 (localKey f.pa)) f.hint else s1

/-- What an engine's ownership held at home slices and holds no longer is performed: write-backs over the engine's bytes, then prefetches,
oldest first (R71). -/
def serveHome (s : State) : State :=
  let s1 := serveWb s
  s1.heldPf.foldl fillFor { s1 with heldPf := [] }

/-! ## Signatures and boards (R74, R75) -/

def h1 (a : Nat) : Nat := (a ^^^ (a / 2 ^ 10) ^^^ (a / 2 ^ 20) ^^^ (a / 2 ^ 30)) % 1024
def h2 (a : Nat) : Nat := ((a % 2 ^ 32 * 0x9E3779B1 % 2 ^ 32 / 2 ^ 22) ^^^ (a / 2 ^ 32)) % 1024

/-- The signature of a set of sectors; all-ones above 256 (R74). -/
def signature (sec : List Nat) : BitVec 1024 :=
  if 256 < sec.length then BitVec.allOnes 1024
  else sec.foldl (fun (m : BitVec 1024) a => m ||| (1#1024 <<< h1 a) ||| (1#1024 <<< h2 a)) 0

def sigMatch (m : BitVec 1024) (a : Nat) : Bool := m.getLsbD (h1 a) && m.getLsbD (h2 a)

/-- A publication: a stamp above all earlier ones, and the oldest signature of a full ring is lost (R75). -/
def Board.publish (b : Board) (slots : Nat) (m : BitVec 1024) : Board :=
  { stamp := b.stamp + 1, ring := ((b.stamp + 1, m) :: b.ring).take slots }

/-- Publications since a stamp. Stamps have 32 bits, and as many publications between two acquires of a core are not told apart from none
(R75). -/
def Board.newer (b : Board) (stamp : Word) : Nat := (b.stamp - stamp).toNat

/-- The OR of the signatures newer than a stamp; all-ones when the ring has lost some (R76). -/
def Board.since (b : Board) (stamp : Word) (slots : Nat) : BitVec 1024 :=
  if slots < b.newer stamp then BitVec.allOnes 1024
  else (b.ring.take (b.newer stamp)).foldl (fun (m : BitVec 1024) e => m ||| e.2) 0

def publishPkg (s : State) (m : BitVec 1024) : State := { s with board := s.board.publish 64 m }
def publishWg (s : State) (wg : Nat) (m : BitVec 1024) : State :=
  s.modWg wg (fun x => { x with board := x.board.publish 16 m })

/-- The workgroup of a slot when it is held by several cores, and so has a board (R75). -/
def boardWg (s : State) (wg : Option Nat) : Option Nat :=
  match wg with
  | some g => match s.wgs.at? g with
    | some x => if 1 < x.cores.length then some g else none
    | none => none
  | none => none

/-- A core publishes to the package board what it has sent home since it last did (R76). -/
def publishCore (s : State) (c : Nat) : State :=
  (publishPkg s (signature (s.core c).dirtyPkg ||| (s.core c).carryPkg)).modCore c (fun x => { x with dirtyPkg := [], carryPkg := 0 })

/-- What a core keeps for the board of a workgroup. -/
def Core.side (x : Core) (g : Nat) : Side := x.sides.atD g { stamp := 0, dirty := [], carry := 0 }

/-- The same to a workgroup's board. -/
def publishCoreWg (s : State) (c g : Nat) : State :=
  let y := (s.core c).side g
  (publishWg s g (signature y.dirty ||| y.carry)).modCore c (fun x => { x with sides := x.sides.put g { y with dirty := [], carry := 0 } })

/-- A release at a scope (R76): the write-back and the publications. The wait for peer acknowledgements that span scope adds
is the caller's (`peerOwed`). -/
def release (s : State) (c : Nat) (wg : Option Nat) (sc : Scope) : State :=
  let b := boardWg s wg
  match sc with
  | .wp => s
  | .wg => match b with
    | some g => publishCoreWg (writeBackAll s c) c g
    | none => s
  | _ =>
    let s2 := publishCore (writeBackAll s c) c
    match b with
    | some g => publishCoreWg s2 c g
    | none => s2

/-- An acquire at a scope (R76): the lines that the newer signatures match are dropped, and at span scope every peer line. What
one board told is carried to the other by the core's next release there, of whichever workgroup it is (R85, log 18). -/
def acquire (s : State) (c : Nat) (wg : Option Nat) (sc : Scope) : State :=
  let x := s.core c
  let b := boardWg s wg
  let wgSig := match b with
    | some g => match s.wgs.at? g with | some y => y.board.since (x.side g).stamp 16 | none => 0
    | none => 0
  let pkgSig : BitVec 1024 := match sc with
    | .wp => 0
    | .wg => 0
    | _ => s.board.since x.pkgStamp 64
  let sig : BitVec 1024 := if sc == .wp then 0 else pkgSig ||| wgSig
  let hit (l : CacheLine) : Bool :=
    if isPeerKey l.line then sc == .span else (List.range 4).any (fun i => sigMatch sig (4 * l.line + i))
  let s1 := dropLines s c hit
  let read (y : Core) : Core := match b with
    | some g => match s.wgs.at? g with
      | some z => { y with sides := y.sides.put g { y.side g with stamp := z.board.stamp } }
      | none => y
    | none => y
  match sc with
  | .wp => s
  | .wg => s1.modCore c (fun y => { read y with carryPkg := y.carryPkg ||| wgSig })
  | _ => s1.modCore c (fun y => { read y with
      pkgStamp := s.board.stamp, carryPkg := y.carryPkg ||| wgSig
      sides := (read y).sides.mapV (fun _ z => { z with carry := z.carry ||| pkgSig }) })

/-- A workgroup over several cores comes to a core, or back to it: the signatures of the package's board that not all of its cores have
acquired go with this core's next release at the workgroup's board (R85, log 18). -/
def openSides (s : State) (g : Nat) : State :=
  match boardWg s (some g), s.wgs.at? g with
  | some _, some x =>
    let m := x.cores.foldl (fun (m : BitVec 1024) c => m ||| s.board.since (s.core c).pkgStamp 64) 0
    x.cores.foldl (fun s c => s.modCore c (fun y => { y with
      sides := y.sides.put g { y.side g with carry := (y.side g).carry ||| m } })) s
  | _, _ => s

/-- The core awaits an answer or acknowledgement from a peer package for a store or atomic (R76, R94). -/
def peerOwed (s : State) (c : Nat) : Bool :=
  s.ops.anyV (fun _ o =>
    (match o.owner with
      | .warp d _ => d = c | .saved _ _ d _ => d = c | .control d => d = c | .stream d _ => d = c | .savedStream _ d _ => d = c) &&
    (match o.body with | .load _ _ _ => false | .pop => false | _ => true) &&
    o.lanes.any (fun a => match a.place with | .peer _ _ => true | _ => match o.body with | .multicast => true | _ => false))

end Sys2Proof.Machine

namespace Sys2Proof

/-- An order acquires; an order releases (R84). -/
def Order.acquires : Order → Bool
  | .acq | .ar => true
  | _ => false
def Order.releases : Order → Bool
  | .rel | .ar => true
  | _ => false

end Sys2Proof

namespace Sys2Proof.Machine

/-! ## Home slices and ownership (R55, R67 to R73) -/

/-- The channel of a physical address (R62). -/
def channelOf (pa : Nat) : Nat :=
  (bitsOf pa 8 8 ^^^ bitsOf pa 16 8 ^^^ bitsOf pa 24 8 ^^^ bitsOf pa 32 7) % 256

/-- Lines PA / 128 of n bytes. -/
def linesOf (pa n : Nat) : List Nat :=
  if n = 0 then [] else (List.range ((pa + n - 1) / 128 - pa / 128 + 1)).map (fun i => pa / 128 + i)

/-- Sets the records of a command for its lines, one per granule (R67). -/
def takeOwnership (s : State) (e : EngineRef) (write : Bool) (lines : List Nat) : State :=
  { s with own := lines.foldl (fun own l =>
      if own.any (fun r => r.granule = l / 512 && r.write = write && r.engine == e) then
        own.map (fun r => if r.granule = l / 512 && r.write = write && r.engine == e then
          { r with mask := r.mask ||| (1#512 <<< (l % 512)) } else r)
      else own ++ [{ granule := l / 512, mask := 1#512 <<< (l % 512), write := write, engine := e }]) s.own }

/-- Releases lines of a command; an empty record is freed (R67). -/
def dropOwnership (s : State) (e : EngineRef) (lines : List Nat) : State :=
  { s with own := (s.own.map (fun r =>
      if r.engine == e then
        { r with mask := lines.foldl (fun (m : BitVec 512) l => if r.granule = l / 512 then m &&& ~~~(1#512 <<< (l % 512)) else m) r.mask }
      else r)).filter (fun r => r.mask != 0) }

/-- Free records suffice at every home slice for the granules a command needs (R67, R69). -/
def recordsFree (s : State) (granules : List Nat) : Bool :=
  granules.all (fun g =>
    let h := homeSlice (g * 65536)
    decide ((s.own.filter (fun r => homeSlice (r.granule * 65536) = h)).length +
      (granules.filter (fun g2 => homeSlice (g2 * 65536) = h)).length ≤ Config.ownRecords))

/-- Distinct granules of a list of lines. -/
def granulesOf (lines : List Nat) : List Nat :=
  lines.foldl (fun l x => if l.contains (x / 512) then l else l ++ [x / 512]) []

/-- Steps 1 to 3 of R70 for a command of a core that writes the given lines. -/
def engineStart (s : State) (c : Nat) (e : EngineRef) (write : Bool) (lines : List Nat) : State :=
  let gs := granulesOf lines
  let s1 := writeBackAll s c
  let s2 := if write then dropLines s1 c (fun l => !isPeerKey l.line && gs.contains (l.line / 512)) else s1
  takeOwnership s2 e write lines

/-- Publishes an engine's sectors to the package board and its workgroup's (R77). -/
def enginePublish (s : State) (wg : Option Nat) (sec : List Nat) : State :=
  let m := signature sec
  let s1 := publishPkg s m
  match boardWg s1 wg with
  | some g => publishWg s1 g m
  | none => s1

/-- Sectors of n bytes. -/
def sectorsOf (pa n : Nat) : List Nat :=
  if n = 0 then [] else (List.range ((pa + n - 1) / 32 - pa / 32 + 1)).map (fun i => pa / 32 + i)

end Sys2Proof.Machine
end

