-- ==== Sys2Proof/Machine/Issue.lean ====
section
/-! DEFINITION. How a clause issues an instruction: the lanes of each warp in the bundle (R129), the checks before it (R46, R133,
R203, R326, R336), the queue operands (R17, R180), reading before writing, latches (R50), and what follows an instruction
boundary (R207, R328). -/

namespace Sys2Proof.Machine

/-! ## The bundle -/

/-- Lanes of a warp slot in a clause, ascending. -/
def Clause.lanesOf (x : Clause) (k : Nat) : List Nat := lanes32.filter (fun l => x.lanes.any (fun r => r.slot = k && r.lane = l))

/-- Warp slots in a clause, ascending; the control core's pseudo slot last. -/
def Clause.slots (x : Clause) : List Nat := (List.range 49).filter (fun k => x.lanes.any (fun r => r.slot = k))

/-- The program counter of the slot being issued (R174). -/
def Clause.pc (x : Clause) : DWord := x.addr + BitVec.ofNat 64 x.slot

def Clause.env (x : Clause) (k : Nat) : Env := { core := x.core, slot := k, line := x.line, pop := [] }

/-- The long waits, which end a demotion (R159) and count toward no bound (R158). The wait for record space of R69 is none of them (DESIGN
CHOICE, log 135). -/
def Wait.long : Wait → Bool
  | .bar _ | .barWait _ | .gridbar | .waita _ | .push _ | .pop _ | .cwait _ | .rowait | .grace _ | .graceSlot | .dfree | .regrow _ | .tile | .rsb _ _
  | .waitwp _ _ _ | .copy _ | .pause _ | .fault _ _ => true
  | _ => false

/-- A lane waits and leaves the bundle (R129); a long wait ends its warp's demotion (R159). -/
def park (s : State) (c k l : Nat) (w : Wait) : State :=
  let s1 := (s.modLane c k l (fun y => { y with wait := w })).leave k l
  if w.long then s1.modWarp c k (fun y => { y with demoted := false, spin := Spin.reset }) else s1

/-- Several lanes wait. -/
def parkAll (s : State) (c k : Nat) (ls : List Nat) (w : Wait) : State := ls.foldl (fun s l => park s c k l w) s

/-- Lanes whose guard is true (R176). -/
def guardLanes (s : State) (x : Clause) (k : Nat) (ls : List Nat) : List Nat :=
  ls.filter (fun l => (s.lane x.core k l).guard x.guard)

/-- Launched lanes among those given (R126). -/
def launchedOf (s : State) (c k : Nat) (ls : List Nat) : List Nat := ls.filter (fun l => (s.lane c k l).kind == .launched)

/-- A lane transfers: it leaves the clause, and its latches no longer belong to the line it enters (R129, R212). -/
def jump (s : State) (c k l : Nat) (pc : DWord) : State :=
  ((s.modLane c k l (fun y => { y with pc := pc, wait := .run })).leave k l).modWarp c k (fun w =>
    { w with lat := w.lat.filterV (fun i _ => i % 32 != l) })

/-- Lanes that waited at an instruction go on behind it (R129). -/
def passOn (s : State) (c k : Nat) (ls : List Nat) : State :=
  ls.foldl (fun s l => s.modLane c k l (fun y => { y with pc := nextPc y.pc, wait := .run })) s

/-- Lanes that waited reissue their instruction. -/
def wakeAll (s : State) (c k : Nat) (ls : List Nat) : State :=
  ls.foldl (fun s l => s.modLane c k l (fun y => { y with wait := .run })) s

/-- Lanes of a warp in a wait that a test names. -/
def waiting (s : State) (c k : Nat) (p : Wait → Bool) : List Nat :=
  match s.warp? c k with
  | some w => w.present.filter (fun l => p (w.lanes.atD l Lane.never).wait)
  | none => []

/-! ## Warp-collective instructions (R132, R133) -/

end Sys2Proof.Machine

namespace Sys2Proof

/-- The forms that are warp-collective by themselves (R132). -/
def Instr.alwaysCollective : Instr → Bool
  | .ldu _ | .rowait | .ropass | .rowhold _ | .mile | .rsecBegin _ | .rsecEnd | .rsdepth _ | .grace _ | .qcfg _ | .cpy _
  | .cpy2d _ | .cpymc _ | .cpfill _ | .cpkill _ | .xlAt _ | .xlBelow _ | .xlAbove _ | .xlXor _ | .quadx _ | .quadb _ | .vote _
  | .ballot _ | .lred _ | .flred _ | .scan _ | .fscan _ | .peers _ | .same _ | .present _ | .first _ | .rndCg10 _
  | .rnd4Cg10 _ | .rkey _ | .rsb _ | .mma _ | .mmas _ | .tzero _ | .tld _ | .tst _ | .trd _ | .twr _ | .tscl _ | .trel _
  | .qsm _ | .swinv _ | .spgen _ | .macq | .mrel | .regrow _ | .regshrink _ => true
  | _ => false

/-- The membership select MS of a group 0xB form, or of a draw: the mask register, if one is named (R133, R269, R280). -/
def Instr.maskReg : Instr → Option Nat
  | .xlAt f | .xlBelow f | .xlAbove f | .xlXor f | .quadx f | .quadb f | .vote f | .ballot f | .lred f | .flred f | .scan f
  | .fscan f | .peers f | .same f | .present f | .first f | .rndCg10 f | .rnd4Cg10 f | .rkey f =>
    if f.opm.toNat / 4 = 0 then none else some (f.opm.toNat / 4 - 1)
  | _ => none

end Sys2Proof

namespace Sys2Proof.Machine

/-- Grain of the population of a warp's launch (R310). -/
def grainOf (s : State) (c k : Nat) : Option Nat :=
  match s.launchOf c k with
  | some x => match x.population with
    | some p => match s.pops.at? p with | some q => some q.grain | none => none
    | none => none
  | none => none

/-- The instruction issues only in a bundle of its own warp: by its form, by a warp-uniform operand, or for `psetroot` by the
grain of the launch (R132, R203, R318); `waita` never (R250, log 76). -/
def collectiveIn (s : State) (c k : Nat) (i : Instr) : Bool :=
  match i with
  | .waita _ => false
  | .psetroot f => f.a.isWreg || (match grainOf s c k with | some g => g != 0 | none => false)
  | i => i.alwaysCollective || i.operands.any Operand.isWreg

/-- The lanes that wait where an instruction is to be issued anew: of a warp-collective one all that arrived, so that they arrive
together again (R133); of any other those that execute it. -/
def retrying (i : Instr) (s : State) (c k : Nat) (ls ex : List Nat) : List Nat := if collectiveIn s c k i then ls else ex

/-- Members that must have arrived: those of the mask or of the default membership that have not exited (R133). -/
def membersOf (w : Warp) (i : Instr) : List Nat :=
  match i.maskReg with
  | some r => (maskLanes (w.w32 r)).filter (fun l => (w.lanes.atD l Lane.never).kind != .exited)
  | none => w.present

/-- The tile forms need all 32 lanes (R133, R301). -/
def Instr.needsAll32 : Instr → Bool
  | .mma _ | .mmas _ | .tzero _ | .tld _ | .tst _ | .trd _ | .twr _ | .tscl _ | .trel _ => true
  | _ => false

/-! ## Checks before issue -/

/-- The groups the control core executes (R326, R327). -/
def ctrlAllowed (i : Instr) : Bool :=
  match i with
  | .rdarch _ | .tnext _ | .tres _ | .tskip _ | .tstep _ | .tkill _ | .tstop _ | .csave _ | .cload _ | .crd _ | .cwr _ | .tdone
  | .iflush | .dwsync | .hnotify _ | .fence _ => true
  | i =>
    match encode { neg := false, pred := 7 } i with
    | some w => (fld w 92 4).toNat < 3 || (fld w 92 4).toNat = 7
    | none => false

/-- Operand levels the control core has (R326). -/
def ctrlOperand (o : Operand) : Bool :=
  match o with
  | .opf _ | .latch _ | .wreg _ | .queue _ _ => false
  | _ => true

/-- The forms that only the control core executes (R327). -/
def ctrlOnly : Instr → Bool
  | .tnext _ | .tres _ | .tskip _ | .tstep _ | .tkill _ | .tstop _ | .csave _ | .cload _ | .crd _ | .cwr _ | .tdone | .iflush
  | .dwsync | .hnotify _ => true
  | _ => false

/-- The lanes replay a stopped instruction, whose members have all arrived before (R237). -/
def replaying (s : State) (c k : Nat) (pc : DWord) : Bool :=
  match s.warp? c k with
  | some w => match w.stopped with | some y => y.pc = pc | none => false
  | none => false

/-- What one warp of the bundle does. -/
abbrev WarpStep := Clause → State → Nat → List Nat → State

/-- Issues an instruction for one warp of the bundle after the checks that every form has: the control core's forms (R326,
R327), the register range (R46), timing-dependent sources (R336) and the arrival of every member (R133). `ops` lists the
main-file fields with the widths they are read or written at. A tile form is held against the 32 lanes at every arrival and at its
issue, so that a lane that exits in between is met there (DESIGN CHOICE, log 110: R133 times the trap at the first arrival). -/
def issueWarp (i : Instr) (ops : List (Operand × Pos)) (f : WarpStep) (x : Clause) (s : State) (k : Nat) : State :=
  let c := x.core
  let ls := x.lanesOf k
  if k = ctrlSlot then
    if ctrlAllowed i && i.operands.all ctrlOperand && rangeOk 256 ops then f x s k ls else haltControl s c
  else if ctrlOnly i then raiseTrap s c k Cause.illegalOpcode x.pc { lanes := maskOf ls }
  else if !rangeOk (s.alloc c k) ops then raiseTrap s c k Cause.registerRange x.pc { lanes := maskOf ls }
  else if s.repro c k && i.operands.any isTiming && guardLanes s x k ls != [] then
    raiseTrap s c k Cause.nondet x.pc { lanes := maskOf (guardLanes s x k ls) }
  else if collectiveIn s c k i && !replaying s c k x.pc then
    match s.warp? c k with
    | none => s
    | some w =>
      let mem := membersOf w i
      let mine := ls.filter (fun l => mem.contains l)
      if Instr.needsAll32 i && w.present.length != 32 then
        raiseTrap s c k Cause.convergence x.pc { lanes := maskOf mine }
      else if mem.all (fun l => ls.contains l) then f x s k mine
      else parkAll s c k mine (.collective x.line)
  else f x s k ls

/-- Lanes of a warp under `tstep` have completed an instruction: the warp traps once every lane has (R328). -/
def stepDone (s : State) (c k : Nat) (gone : List Nat) : State :=
  match s.warp? c k with
  | none => s
  | some w =>
    match w.stepping with
    | none => s
    | some m =>
      let left := (maskLanes m).filter (fun l => w.present.contains l && !gone.contains l)
      let s1 := s.modWarp c k (fun w => { w with stepping := some (maskOf left) })
      match left, w.present with
      | [], l :: _ => raiseTrap s1 c k Cause.singleStep (w.lanes.atD l Lane.never).pc { lanes := maskOf w.present }
      | _, _ => s1

/-- Lanes under `tstep` whose instruction has waited complete it in a step in which they do not issue (R328). -/
def stepSettle (old new : State) : State :=
  new.cores.foldl (fun (s : State) (e : Nat × Core) => e.2.warps.foldl (fun (s : State) (w : Nat × Warp) =>
    match old.warp? e.1 w.1 with
    | none => s
    | some v =>
      if v.stepping.isNone || w.2.stepping.isNone then s
      else
        let gone := w.2.present.filter (fun l =>
          let a := v.lanes.atD l Lane.never
          let b := w.2.lanes.atD l Lane.never
          a.pc != b.pc || (a.wait == .transfer && b.wait == .run))
        if gone = [] && v.present = w.2.present then s else stepDone s e.1 w.1 gone) s) new

/-- Lanes of the bundle that have completed their instruction under `tstep` leave it: their program counter has moved on, or their
branch to itself waits for nothing (R328). -/
def stepStops (x : Clause) (s : State) (k : Nat) : State :=
  match s.warp? x.core k with
  | none => s
  | some w =>
    match w.stepping with
    | none => s
    | some m =>
      let gone := (x.lanesOf k).filter (fun l =>
        let y := w.lanes.atD l Lane.never
        maskHas m l && (y.pc != x.pc || y.wait == .run))
      stepDone (gone.foldl (fun s l => s.leave k l) s) x.core k gone

/-- The instruction boundary: lanes still in the bundle move to the next slot, and a clause that is empty or has issued slot 4
ends (R170, R207). -/
def endIssue (x : Clause) (s : State) : State :=
  match s.clauses with
  | [] => s
  | y :: _ =>
    let s1 := y.lanes.foldl (fun s r => s.modLane y.core r.slot r.lane (fun z => { z with pc := nextPc x.pc })) s
    let s2 := x.slots.foldl (fun s k => stepStops x s k) s1
    let s3 := x.slots.foldl (fun s k => s.modWarp x.core k (fun w => { w with lastIssue := s.tick })) s2
    match s3.clauses with
    | [] => s3
    | z :: t =>
      if z.slot = 4 || z.lanes = [] then { s3 with clauses := t } else { s3 with clauses := { z with slot := z.slot + 1 } :: t }

/-- The stream's instruction boundary: it goes to the next slot, or leaves its clause behind slot 4; under `tstep` it stops (R170, R325,
R328). -/
def streamNext (x : Clause) (s : State) (k : Nat) : State :=
  match s.clauses with
  | [] => s
  | z :: t =>
    let s1 := (s.modStream x.core k (fun y => { y with pc := nextPc x.pc })).modStream x.core k (fun y => { y with buf := [] })
    match (s1.core x.core).streams.at? k with
    | none => { s1 with clauses := t }
    | some y =>
      if y.stepping then raiseStreamTrap { s1 with clauses := t } x.core k Cause.singleStep (nextPc x.pc) { lanes := 1 }
      else if z.slot = 4 then { s1 with clauses := t }
      else { s1 with clauses := { z with slot := z.slot + 1 } :: t }

/-- Issues an instruction for the clause at the head: each warp of the bundle in turn, in ascending slot order (R131, R322).
Without a clause in flight no lane issues, and nothing happens. A stream passes a form that does nothing to it. -/
def issue (i : Instr) (ops : List (Operand × Pos)) (f : WarpStep) (s : State) : State :=
  match s.clauses with
  | [] => s
  | x :: _ => match x.picker with
    | .stream k => streamNext x s k
    | _ => endIssue x (x.slots.foldl (fun s k => issueWarp i ops f x s k) s)

/-! ## Queues (R17, R180, R261, R262) -/

/-- First byte of an entry of a queue in the core store of the workgroup's first core (R261). -/
def queueSlot (s : State) (g : Wg) (q : Queue) (n : Nat) : Nat × Nat :=
  let c := g.cores.headD 0
  (c, spBase (s.core c).part + q.off + 128 * ((q.head + n) % q.cap))

/-- What a queue operation finds. -/
inductive QueueState where
  | unconfigured
  | blocked
  | ready (ws : List Word)
  deriving DecidableEq, Repr

/-- The head entry of a queue of a workgroup. -/
def queueHead (s : State) (wg q : Nat) : QueueState :=
  match s.wgs.at? wg with
  | none => .unconfigured
  | some g =>
    match g.queues.at? q with
    | none => .unconfigured
    | some x =>
      if x.count = 0 then .blocked
      else
        let a := queueSlot s g x 0
        .ready (lanes32.map (fun j => BitVec.ofNat 32 (Mem.rd (s.core a.1).store (a.2 + 4 * j) 4)))

/-- Room for one more entry: the send allowance (R17, R261). -/
def queueRoom (s : State) (wg q : Nat) : QueueState :=
  match s.wgs.at? wg with
  | none => .unconfigured
  | some g =>
    match g.queues.at? q with
    | none => .unconfigured
    | some x => if x.count < x.cap then .ready [] else .blocked

/-- Removes the head entry. -/
def queueDrop (s : State) (wg q : Nat) : State :=
  s.modWg wg (fun g => { g with queues := g.queues.upd q (fun x => { x with head := (x.head + 1) % x.cap, count := x.count - 1 }) })

/-- Adds an entry. -/
def queueAdd (s : State) (wg q : Nat) (ws : List Word) : State :=
  match s.wgs.at? wg with
  | none => s
  | some g =>
    match g.queues.at? q with
    | none => s
    | some x =>
      let a := queueSlot s g x x.count
      let s1 := lanes32.foldl (fun s j => s.wrStore a.1 (a.2 + 4 * j) 4 (ws.getD j 0).toNat) s
      s1.modWg wg (fun g => { g with queues := g.queues.upd q (fun x => { x with count := x.count + 1 }) })

/-- Workgroup of a warp slot. -/
def wgIdOf (s : State) (c k : Nat) : Option Nat := (s.warp? c k).map Warp.wg

/-! ## Earlier accesses (R76, R84) -/

/-- An operation has an unfinished access of one of the lanes. -/
def opHas (o : MemOp) (ls : List Nat) : Bool := o.lanes.any (fun a => ls.contains a.lane)

/-- Accesses of the lanes of a warp slot that satisfy a test are still in flight. -/
def inFlight (s : State) (c k : Nat) (ls : List Nat) (p : MemOp → Bool) : Bool :=
  s.ops.anyV (fun _ o =>
    (match o.owner with | .warp c2 k2 => c2 = c && k2 = k | .control c2 => c2 = c && k = ctrlSlot | _ => false) &&
      opHas o ls && p o)

/-- A release at the scope writes level 1 back (R76). -/
def writesBack (s : State) (c k : Nat) (scope : Scope) : Bool :=
  match scope with
  | .wp => false
  | .wg => (boardWg s (wgIdOf s c k)).isSome
  | _ => true

/-- A lane's next access must wait: an acquire of it is in flight, or it is a release with earlier accesses in flight, at span
scope of the whole core's peer stores and atomics too, or with written bytes that an engine's ownership keeps from going home (R71, R76,
R84). -/
def mustDrain (s : State) (c k : Nat) (ls : List Nat) (order : Order) (scope : Scope) : Bool :=
  inFlight s c k ls (fun o => o.order.acquires) ||
    (order.releases && (inFlight s c k ls (fun _ => true) || (scope == .span && peerOwed s c) || (writesBack s c k scope && wbHeld s c)))

/-! ## Arithmetic in the sense of R15 -/

/-- What an arithmetic form does in a lane: its sources with the widths and types they are read at, its destination, the
predicate it writes, and its result from the lane's predicates and source values. -/
structure Arith where
  srcs : List (Operand × Pos × Ty)
  dst : Option (Operand × Pos)
  pw : Option (BitVec 3)
  f : BitVec 8 → List Nat → Nat × Bool
  /-- Predicates that take the bits of the first source (`punpack`). -/
  pm : BitVec 8 := 0

/-- A form with no predicate mask. -/
def Arith.of (srcs : List (Operand × Pos × Ty)) (dst : Option (Operand × Pos)) (pw : Option (BitVec 3))
    (f : BitVec 8 → List Nat → Nat × Bool) : Arith := { srcs := srcs, dst := dst, pw := pw, f := f }

def Arith.ops (a : Arith) : List (Operand × Pos) :=
  a.srcs.map (fun e => (e.1, e.2.1)) ++ (match a.dst with | some d => [d] | none => [])

/-- Predicates of a lane with p7 true. -/
def Lane.preds8 (x : Lane) : BitVec 8 := x.preds ||| 0x80

/-- The queue that is a source, or the one that is the destination (R180). -/
def Arith.popQ (a : Arith) : Option (Nat × Bool) :=
  a.srcs.findSome? (fun e => match e.1 with | .queue q nb => some (q.toNat, nb) | _ => none)
def Arith.pushQ (a : Arith) : Option (Nat × Bool) :=
  match a.dst with | some (.queue q nb, _) => some (q.toNat, nb) | _ => none

/-- Results of the executing lanes, all sources read first (R15, R269). -/
def Arith.results (a : Arith) (s : State) (e : Env) (ls : List Nat) : List (Nat × Nat × Bool) :=
  ls.map (fun l =>
    let r := a.f (s.lane e.core e.slot l).preds8 (a.srcs.map (fun q => readOp s e l q.2.2 q.2.1 q.1))
    (l, r.1, r.2))

/-- A mix of a written value into the spin detector's hash (R159; which hash is log 16). -/
def spinMix (h : Word) (v : Nat) : Word := (h ^^^ BitVec.ofNat 32 (v ^^^ (v / 2 ^ 32))) * 0x01000193

/-- Notes the values that a warp's lanes wrote (R159). -/
def noteWrites (s : State) (c k : Nat) (vs : List Nat) : State :=
  s.modWarp c k (fun w => { w with spin := { w.spin with acc := vs.foldl spinMix w.spin.acc } })

/-- The values among results that the detector sees: those of the main file and of the operand file, and predicates (R159). -/
def spinValues (dst : Option (Operand × Pos)) (pred : Bool) (rs : List (Nat × Nat × Bool)) : List Nat :=
  (match dst with
    | some (.main _, _) | some (.opf _, _) => rs.map (fun r => r.2.1)
    | _ => []) ++ (if pred then rs.map (fun r => r.2.2.toNat) else [])

/-- The destination of a lane among those that execute together: a warp-uniform register is the lowest one's (R180). An immediate takes
nothing. -/
def laneDest (d : Operand) (ex : List Nat) (l : Nat) : Operand :=
  match d with
  | .wreg r => if ex.head? = some l then .wreg r else .imm 0
  | d => d

/-- Sets latch `slot` of every lane in the bundle to what its destination now holds (R50). A push sets the latches of the lanes that execute
it to their results (`Arith.apply`, R15). -/
def setLatches (s : State) (c k slot : Nat) (ls : List Nat) (dst : Option (Operand × Pos)) : State :=
  if k = ctrlSlot then s
  else
    match dst with
    | some (.queue _ _, _) => s
    | some (o, p) =>
      let vs := ls.map (fun l => (l, readPlace s c k l p o))
      s.modWarp c k (fun w =>
        { w with lat := vs.foldl (fun m e => m.put (32 * slot + e.1) (BitVec.ofNat 64 e.2)) w.lat })
    | none => s.modWarp c k (fun w => { w with lat := ls.foldl (fun m l => m.del (32 * slot + l)) w.lat })

/-- Writes results to the destination: per lane, once for the warp in a warp-uniform register, or as one queue entry in which
helper lanes contribute zero (R17, R126, R180, R203). -/
def writeResults (s : State) (c k : Nat) (dst : Option (Operand × Pos)) (rs : List (Nat × Nat)) : State :=
  match dst with
  | none => s
  | some (.wreg r, p) => match rs.head? with
    | some e => writeWreg s c k p r.toNat e.2
    | none => s
  | some (.queue q _, _) => match wgIdOf s c k, rs with
    | some g, _ :: _ => queueAdd s g q.toNat (lanes32.map (fun j =>
        match rs.find? (fun e => e.1 = j) with
        | some e => if (s.lane c k j).kind == .launched then BitVec.ofNat 32 e.2 else 0
        | none => 0))
    | _, _ => s
  | some (o, p) => rs.foldl (fun s e => writeDst s c k e.1 p o e.2) s

/-- Writes a predicate in each lane (R181). -/
def writePreds (s : State) (c k : Nat) (pw : Option (BitVec 3)) (rs : List (Nat × Bool)) : State :=
  match pw with
  | none => s
  | some p => rs.foldl (fun s e => s.modLane c k e.1 (fun y => y.setPred p.toNat e.2)) s

/-- Writes results, or predicates, that the spin detector sees (R159). -/
def putResults (s : State) (c k : Nat) (dst : Option (Operand × Pos)) (rs : List (Nat × Nat)) : State :=
  noteWrites (writeResults s c k dst rs) c k (spinValues dst false (rs.map (fun r => (r.1, r.2, false))))
def putPreds (s : State) (c k : Nat) (pw : Option (BitVec 3)) (rs : List (Nat × Bool)) : State :=
  noteWrites (writePreds s c k pw rs) c k (if pw.isSome then rs.map (fun r => r.2.toNat) else [])

/-- The effect in the executing lanes of one warp, with the words of a popped entry. -/
def Arith.apply (a : Arith) (x : Clause) (s : State) (k : Nat) (ex : List Nat) (pop : List Word) (pw : Option (BitVec 3))
    (nb : Option (BitVec 3)) : State :=
  let rs := a.results s { x.env k with pop := pop } ex
  let s0 := writeResults s x.core k a.dst (rs.map (fun r => (r.1, r.2.1)))
  let s1 := if a.pushQ.isNone then s0 else
    s0.modWarp x.core k (fun w => { w with lat := rs.foldl (fun m r => m.put (32 * x.slot + r.1) (BitVec.ofNat 64 r.2.1)) w.lat })
  let s2 := writePreds s1 x.core k pw (rs.map (fun r => (r.1, r.2.2)))
  let s3 := writePreds s2 x.core k nb (ex.map (fun l => (l, true)))
  let s4 := if a.pm = 0 then s3 else
    let v1 := ex.map (fun l => (l, match a.srcs with
      | q :: _ => readOp s { x.env k with pop := pop } l q.2.2 q.2.1 q.1
      | [] => 0))
    v1.foldl (fun s e => s.modLane x.core k e.1 (fun y =>
      (List.range 7).foldl (fun y p => if a.pm.getLsbD p then y.setPred p (e.2.testBit p) else y) y)) s3
  let bits := if a.pm = 0 then [] else ex.map (fun l => match a.srcs with
    | q :: _ => readOp s { x.env k with pop := pop } l q.2.2 q.2.1 q.1 &&& a.pm.toNat
    | [] => 0)
  noteWrites s4 x.core k (spinValues a.dst pw.isSome rs ++ bits ++ (if nb.isSome then ex.map (fun _ => 1) else []))

/-- The queue operands of a form in one warp of the bundle (R17, R180, R262): what a source queue holds is popped, and room in a
destination queue is found, before the form runs. `pre` gives the state of a trap that the operands raise, before any effect;
`run` is the effect, with the popped words and the predicate that receives success; `fin` ends the issue for the lanes that go
on. A push that must wait for earlier accesses of its lanes waits whole (log 125). -/
def queueWarp (i : Instr) (pop push : Option (Nat × Bool)) (nbPw : BitVec 3) (ex : List Nat) (pre : State → List Word → Option State)
    (run : State → List Word → Option (BitVec 3) → State) (fin : State → List Nat → State) : WarpStep := fun x s k ls =>
  let c := x.core
  let again := retrying i s c k ls ex
  let rest := ls.filter (fun l => !again.contains l)
  let go (s s1 : State) (ws : List Word) (nb : Bool) : State :=
    match pre s ws with
    | some t => t
    | none => fin (run s1 ws (if nb then some nbPw else none)) ls
  match pop, push with
  | none, none => go s s [] false
  | some (q, nb), _ =>
    if ex = [] then fin s ls
    else match wgIdOf s c k with
      | none => s
      | some g => match queueHead s g q with
        | .unconfigured => raiseTrap s c k Cause.contract x.pc { lanes := maskOf ex }
        | .blocked =>
          if nb then fin (putPreds s c k (some nbPw) (ex.map (fun l => (l, false)))) ls
          else fin (parkAll s c k again (.pop q)) rest
        | .ready ws => go s (acquire (queueDrop s g q) c (some g) .wg) ws nb
  | none, some (q, nb) =>
    if ex = [] then fin s ls
    else match wgIdOf s c k with
      | none => s
      | some g => match queueRoom s g q with
        | .unconfigured => raiseTrap s c k Cause.contract x.pc { lanes := maskOf ex }
        | .blocked =>
          if nb then fin (putPreds s c k (some nbPw) (ex.map (fun l => (l, false)))) ls
          else fin (parkAll s c k again (.push q)) rest
        | .ready _ =>
          if mustDrain s c k ex .rel .wg then parkAll s c k ls .drain else go s (release s c (some g) .wg) [] nb

/-- An arithmetic form in one warp of the bundle: queue operands, results, latches (R15, R17, R50, R180). -/
def Arith.warp (a : Arith) (i : Instr) (nbPw : BitVec 3) : WarpStep := fun x s k ls =>
  let ex := guardLanes s x k ls
  queueWarp i a.popQ a.pushQ nbPw ex (fun _ _ => none) (fun s ws nb => a.apply x s k ex ws a.pw nb)
    (fun s ls => setLatches s x.core k x.slot ls a.dst) x s k ls

/-- Issues an arithmetic form. -/
def arith (i : Instr) (a : Arith) (nbPw : BitVec 3) (s : State) : State := issue i a.ops (a.warp i nbPw) s

end Sys2Proof.Machine
end

