-- ==== Sys2Proof/Machine/Integer.lean ====
section
/-! DEFINITION. Group 0x1: integer arithmetic and bit operations (R195 to R203). -/

namespace Sys2Proof.Machine

/-- Extends an N-bit result to its register position (R196). -/
def extT (t : Ty) (v : Nat) : Nat :=
  if t.isI then truncN (if t.bits = 64 then 64 else 32) (sextN t.bits v) else v % 2 ^ t.bits

/-- `write_T` of R197: saturated or wrapped, then extended. -/
def writeT (t : Ty) (sat : Bool) (x : Int) : Nat :=
  extT t (if sat then truncN t.bits (if t.isI then satsN t.bits x else satuN t.bits x) else truncN t.bits x)

/-- The two or three sources of a form at the width of its type. -/
def src1 (f : FmtA) : List (Operand × Pos × Ty) := [(f.a, f.ty.pos, f.ty)]
def src2 (f : FmtA) : List (Operand × Pos × Ty) := [(f.a, f.ty.pos, f.ty), (f.b, f.ty.pos, f.ty)]
def src3 (f : FmtA) : List (Operand × Pos × Ty) := [(f.a, f.ty.pos, f.ty), (f.b, f.ty.pos, f.ty), (f.c, f.ty.pos, f.ty)]

/-- A form whose exact integer result goes through `write_T` (R197, R198). -/
def Arith.int (f : FmtA) (srcs : List (Operand × Pos × Ty)) (sat : Bool) (g : List Int → Int) : Arith :=
  { srcs := srcs, dst := some (f.d, f.ty.pos), pw := none,
    f := fun _ v => (writeT f.ty sat (g (v.map (intVal f.ty))), false) }

/-- A form on bit patterns of T's width, whose result is extended (R196). -/
def Arith.bitwise (f : FmtA) (srcs : List (Operand × Pos × Ty)) (g : List Nat → Nat) : Arith :=
  { srcs := srcs, dst := some (f.d, f.ty.pos), pw := none,
    f := fun _ v => (extT f.ty (g v % 2 ^ f.ty.bits), false) }

/-- The n-th source value. -/
def nth {α : Type} [Inhabited α] (v : List α) (n : Nat) : α := v.getD n default

/-- The quotient and remainder of R199. -/
def divT (t : Ty) (a b : Int) : Int := if b = 0 then (if t.isI then -1 else (2 ^ t.bits : Nat) - 1) else a.tdiv b
def remT (a b : Int) : Int := if b = 0 then a else a - a.tdiv b * b

/-- `shl`, `shr` and `rot` of R200; a is T's bit pattern and s the amount. -/
def shlT (n a s : Nat) : Nat := if s < n then a * 2 ^ s % 2 ^ n else 0
def shrT (t : Ty) (a s : Nat) : Nat :=
  let v := intVal t a
  if s < t.bits then truncN t.bits (v / (2 ^ s : Nat)) else if v < 0 then 2 ^ t.bits - 1 else 0
def rotT (n a s : Nat) : Nat :=
  let x := a % 2 ^ n
  let r := s % n
  x * 2 ^ r % 2 ^ n ||| x / 2 ^ (n - r)

/-- `bfx` of R200. -/
def bfxT (t : Ty) (a pos len : Nat) : Nat :=
  if len = 0 then 0
  else
    let v := intVal t a / (2 ^ pos : Nat)
    let x := truncN len v
    if t.isI then truncN t.bits (sextN len x) else x % 2 ^ t.bits

/-- `bfi` of R200: the field of a replaces bits pos to pos + len − 1 of b. -/
def bfiT (n a b pos len : Nat) : Nat :=
  let m := (2 ^ len - 1) * 2 ^ pos % 2 ^ n
  b % 2 ^ n - ((b % 2 ^ n) &&& m) + ((a * 2 ^ pos) &&& m)

/-- Counts the one bits below bit n. -/
def popCount : Nat → Nat → Nat
  | 0, _ => 0
  | n + 1, x => x % 2 + popCount n (x / 2)

/-- Leading zeros of an n-bit value. -/
def clzN : Nat → Nat → Nat
  | 0, _ => 0
  | n + 1, x => if x.testBit n then 0 else 1 + clzN n x

/-- Trailing zeros of an n-bit value. -/
def ctzN : Nat → Nat → Nat
  | 0, _ => 0
  | n + 1, x => if x % 2 = 1 then 0 else 1 + ctzN n (x / 2)

/-- Bit i of the result is bit n − 1 − i of x. -/
def brevN : Nat → Nat → Nat
  | 0, _ => 0
  | n + 1, x => x % 2 * 2 ^ n + brevN n (x / 2)

/-- Bit i of the result is bit a_i + 2 b_i + 4 c_i of the table (R201). -/
def lut3N (tbl : Nat) : Nat → Nat → Nat → Nat → Nat
  | 0, _, _, _ => 0
  | n + 1, a, b, c =>
    tbl / 2 ^ (a % 2 + 2 * (b % 2) + 4 * (c % 2)) % 2 + 2 * lut3N tbl n (a / 2) (b / 2) (c / 2)

/-- The predicate that an operand field names (R201). -/
def predIx (o : Operand) : Nat := match o with | .main k => k.toNat % 8 | _ => 0

/-- `add` (R198): a + b. -/
def execAdd (f : FmtA) (s : State) : Result :=
  .next (arith (.add f) (.int f (src2 f) f.sat fun v => nth v 0 + nth v 1) f.pw s)

/-- `sub` (R198): a − b. -/
def execSub (f : FmtA) (s : State) : Result :=
  .next (arith (.sub f) (.int f (src2 f) f.sat fun v => nth v 0 - nth v 1) f.pw s)

/-- `mul` (R198): a × b, low part. -/
def execMul (f : FmtA) (s : State) : Result :=
  .next (arith (.mul f) (.int f (src2 f) f.sat fun v => nth v 0 * nth v 1) f.pw s)

/-- `mulhi` (R198): floor(a × b / 2^N). -/
def execMulhi (f : FmtA) (s : State) : Result :=
  .next (arith (.mulhi f) (.int f (src2 f) false fun v => nth v 0 * nth v 1 / (2 ^ f.ty.bits : Nat)) f.pw s)

/-- `mad` (R198): a × b + c. -/
def execMad (f : FmtA) (s : State) : Result :=
  .next (arith (.mad f) (.int f (src3 f) f.sat fun v => nth v 0 * nth v 1 + nth v 2) f.pw s)

/-- `div` (R199). -/
def execDiv (f : FmtA) (s : State) : Result :=
  .next (arith (.div f) (.int f (src2 f) f.sat fun v => divT f.ty (nth v 0) (nth v 1)) f.pw s)

/-- `rem` (R199). -/
def execRem (f : FmtA) (s : State) : Result :=
  .next (arith (.rem f) (.int f (src2 f) false fun v => remT (nth v 0) (nth v 1)) f.pw s)

/-- `min` (R198): the lesser of a and b. -/
def execMin (f : FmtA) (s : State) : Result :=
  .next (arith (.min f) (.int f (src2 f) false fun v => if nth v 0 ≤ nth v 1 then nth v 0 else nth v 1) f.pw s)

/-- `max` (R198): the greater of a and b. -/
def execMax (f : FmtA) (s : State) : Result :=
  .next (arith (.max f) (.int f (src2 f) false fun v => if nth v 0 ≤ nth v 1 then nth v 1 else nth v 0) f.pw s)

/-- `abs` (R198): |a|. -/
def execAbs (f : FmtA) (s : State) : Result :=
  .next (arith (.abs f) (.int f (src1 f) f.sat fun v => (nth v 0).natAbs) f.pw s)

/-- `neg` (R198): −a. -/
def execNeg (f : FmtA) (s : State) : Result :=
  .next (arith (.neg f) (.int f (src1 f) f.sat fun v => -(nth v 0)) f.pw s)

/-- `and` (R198): a AND b. -/
def execAnd (f : FmtA) (s : State) : Result :=
  .next (arith (.and f) (.bitwise f (src2 f) fun v => nth v 0 &&& nth v 1) f.pw s)

/-- `or` (R198): a OR b. -/
def execOr (f : FmtA) (s : State) : Result :=
  .next (arith (.or f) (.bitwise f (src2 f) fun v => nth v 0 ||| nth v 1) f.pw s)

/-- `xor` (R198): a ⊕ b. -/
def execXor (f : FmtA) (s : State) : Result :=
  .next (arith (.xor f) (.bitwise f (src2 f) fun v => nth v 0 ^^^ nth v 1) f.pw s)

/-- `not` (R198): NOT a. -/
def execNot (f : FmtA) (s : State) : Result :=
  .next (arith (.not f) (.bitwise f (src1 f) fun v => 2 ^ f.ty.bits - 1 - nth v 0 % 2 ^ f.ty.bits) f.pw s)

/-- `shl` (R200). -/
def execShl (f : FmtA) (s : State) : Result :=
  .next (arith (.shl f) (.bitwise f [(f.a, f.ty.pos, f.ty), (f.b, .w32, .n32)] fun v => shlT f.ty.bits (nth v 0) (nth v 1)) f.pw s)

/-- `shr` (R200). -/
def execShr (f : FmtA) (s : State) : Result :=
  .next (arith (.shr f) (.bitwise f [(f.a, f.ty.pos, f.ty), (f.b, .w32, .n32)] fun v => shrT f.ty (nth v 0) (nth v 1)) f.pw s)

/-- `rot` (R200). -/
def execRot (f : FmtA) (s : State) : Result :=
  .next (arith (.rot f) (.bitwise f [(f.a, f.ty.pos, f.ty), (f.b, .w32, .n32)] fun v => rotT f.ty.bits (nth v 0) (nth v 1)) f.pw s)

/-- `popc` (R198): number of one bits, as n32. -/
def execPopc (f : FmtA) (s : State) : Result :=
  .next (arith (.popc f) 
    (Arith.of (src1 f) (some (f.d, .w32)) none fun _ v => (popCount f.ty.bits (nth v 0), false)) f.pw s)

/-- `clz` (R198): leading zero bits, as n32. -/
def execClz (f : FmtA) (s : State) : Result :=
  .next (arith (.clz f) 
    (Arith.of (src1 f) (some (f.d, .w32)) none fun _ v => (clzN f.ty.bits (nth v 0), false)) f.pw s)

/-- `ctz` (R198): trailing zero bits, as n32. -/
def execCtz (f : FmtA) (s : State) : Result :=
  .next (arith (.ctz f) 
    (Arith.of (src1 f) (some (f.d, .w32)) none fun _ v => (ctzN f.ty.bits (nth v 0), false)) f.pw s)

/-- `brev` (R198): the bits reversed. -/
def execBrev (f : FmtA) (s : State) : Result :=
  .next (arith (.brev f) (.bitwise f (src1 f) fun v => brevN f.ty.bits (nth v 0)) f.pw s)

/-- `bfx` (R200). -/
def execBfx (f : FmtA) (s : State) : Result :=
  .next (arith (.bfx f) 
    (.bitwise f [(f.a, f.ty.pos, f.ty), (f.b, .w32, .n32), (f.c, .w32, .n32)] fun v =>
      bfxT f.ty (nth v 0) (nth v 1 % 256) (nth v 2 % 256)) f.pw s)

/-- `bfi` (R200). -/
def execBfi (f : FmtA) (s : State) : Result :=
  .next (arith (.bfi f) 
    (.bitwise f [(f.a, f.ty.pos, f.ty), (f.b, f.ty.pos, f.ty), (f.c, .w32, .n32)] fun v =>
      bfiT f.ty.bits (nth v 0) (nth v 1) (nth v 2 % 256) (nth v 2 / 256 % 256)) f.pw s)

/-- `cmp` (R201): the outcome goes to the predicate in PW. -/
def execCmp (f : FmtA) (s : State) : Result :=
  .next (arith (.cmp f) 
    (Arith.of (src2 f) none (some f.pw) fun _ v =>
      (0, cmpCC f.opm.toNat (intVal f.ty (nth v 0)) (intVal f.ty (nth v 1)))) f.pw s)

/-- `sel` (R201): a where the predicate is true, b elsewhere. -/
def execSel (f : FmtA) (s : State) : Result :=
  .next (arith (.sel f) 
    (Arith.of (src2 f) (some (f.d, f.ty.pos)) none fun p v => (if p.getLsbD (predIx f.c) then nth v 0 else nth v 1, false)) f.pw s)

/-- `mov` (R198): a. -/
def execMov (f : FmtA) (s : State) : Result :=
  .next (arith (.mov f) (.bitwise f (src1 f) fun v => nth v 0) f.pw s)

/-- `movi` (R202): IMM, extended as the type requires. -/
def execMovi (f : FmtI) (s : State) : Result :=
  .next (arith (.movi f) 
    (Arith.of [] (some (f.d, f.ty.pos)) none fun _ _ =>
      (if f.ty == .i64 then truncN 64 (sextN 32 f.imm.toNat) else f.imm.toNat, false)) f.pw s)

/-- `lut3` (R201). -/
def execLut3 (f : FmtA) (s : State) : Result :=
  .next (arith (.lut3 f) (.bitwise f (src3 f) fun v => lut3N f.opm.toNat f.ty.bits (nth v 0) (nth v 1) (nth v 2)) f.pw s)

/-- `plut3` (R201): one bit from three predicates, written through PW. -/
def execPlut3 (f : FmtA) (s : State) : Result :=
  .next (arith (.plut3 f) 
    (Arith.of [] none (some f.pw) fun p _ =>
      (0, f.opm.getLsbD ((p.getLsbD (predIx f.a)).toNat + 2 * (p.getLsbD (predIx f.b)).toNat + 4 * (p.getLsbD (predIx f.c)).toNat))) f.pw s)

/-- `ppack` (R201): p0 to p7 in bits [7:0]. -/
def execPpack (f : FmtA) (s : State) : Result :=
  .next (arith (.ppack f) (Arith.of [] (some (f.d, .w32)) none fun p _ => (p.toNat, false)) f.pw s)

/-- `punpack` (R201): p_k becomes bit k of a for each k of the mask; p7 is never written. -/
def execPunpack (f : FmtA) (s : State) : Result :=
  .next (arith (.punpack f) 
    { srcs := [(f.a, .w32, .b32)], dst := none, pw := none, f := fun _ v => (nth v 0, false), pm := f.opm } f.pw s)

end Sys2Proof.Machine
end

