-- ==== Sys2Proof/Machine/Address.lean ====
section
/-! DEFINITION. Group 0x2: address arithmetic and 64-bit pairs (R204, R205). -/

namespace Sys2Proof.Machine

/-- The value that R205 writes where an operand is out of range: bit 52 set. -/
def badAddr : Nat := 0x10000000000000

/-- `lea` (R204): A + B × S + sext32(C). -/
def execLea (f : FmtA) (s : State) : Result :=
  .next (arith (.lea f)
    { srcs := [(f.a, .w64, .b64), (f.b, .w32, f.ty), (f.c, .w32, .i32)], dst := some (f.d, .w64), pw := none,
      f := fun _ v => (truncN 64 (Int.ofNat (nth v 0) + intVal f.ty (nth v 1) * (2 ^ f.opm.toNat : Nat) + sextN 32 (nth v 2)), false) }
    f.pw s)

/-- `addc` (R204): the carry comes in through C and goes out through PW. -/
def execAddc (f : FmtA) (s : State) : Result :=
  .next (arith (.addc f)
    { srcs := [(f.a, .w32, .n32), (f.b, .w32, .n32)], dst := some (f.d, .w32), pw := some f.pw,
      f := fun p v =>
        let x := nth v 0 + nth v 1 + (p.getLsbD (predIx f.c)).toNat
        (x % 2 ^ 32, decide (2 ^ 32 ≤ x)) }
    f.pw s)

/-- `subc` (R204): the borrow comes in through C and goes out through PW. -/
def execSubc (f : FmtA) (s : State) : Result :=
  .next (arith (.subc f)
    { srcs := [(f.a, .w32, .n32), (f.b, .w32, .n32)], dst := some (f.d, .w32), pw := some f.pw,
      f := fun p v =>
        let x : Int := Int.ofNat (nth v 0) - Int.ofNat (nth v 1) - (p.getLsbD (predIx f.c)).toNat
        (truncN 32 x, decide (x < 0)) }
    f.pw s)

/-- `mulw` (R204): the exact 64-bit product. -/
def execMulw (f : FmtA) (s : State) : Result :=
  .next (arith (.mulw f)
    { srcs := [(f.a, .w32, f.ty), (f.b, .w32, f.ty)], dst := some (f.d, .w64), pw := none,
      f := fun _ v => (truncN 64 (intVal f.ty (nth v 0) * intVal f.ty (nth v 1)), false) }
    f.pw s)

/-- `madw` (R204): a × b + c, with c and the result of 64 bits. -/
def execMadw (f : FmtA) (s : State) : Result :=
  let t : Ty := if f.ty.isI then .i64 else .n64
  .next (arith (.madw f)
    { srcs := [(f.a, .w32, f.ty), (f.b, .w32, f.ty), (f.c, .w64, t)], dst := some (f.d, .w64), pw := none,
      f := fun _ v => (writeT t f.sat (intVal f.ty (nth v 0) * intVal f.ty (nth v 1) + intVal t (nth v 2)), false) }
    f.pw s)

/-- `pack` (R204): A below B. -/
def execPack (f : FmtA) (s : State) : Result :=
  .next (arith (.pack f)
    { srcs := [(f.a, .w32, .b32), (f.b, .w32, .b32)], dst := some (f.d, .w64), pw := none,
      f := fun _ v => (nth v 0 + 2 ^ 32 * nth v 1, false) }
    f.pw s)

/-- `regaddr` (R204): the self-window address of register K of the lane. -/
def execRegaddr (f : FmtA) (s : State) : Result :=
  let r := match f.a with | .main r => r.toNat | _ => 0
  .next (arith (.regaddr f)
    { srcs := [(.special 0x0E, .w32, .n32), (.special 0x00, .w32, .n32), (f.a, .w32, .n32)], dst := some (f.d, .w64),
      pw := none, f := fun _ v => (0xF000000000000 + nth v 0 + (r * 32 + nth v 1) * 4, false) }
    f.pw s)

/-- `peeraddr` (R205). -/
def execPeeraddr (f : FmtA) (s : State) : Result :=
  .next (arith (.peeraddr f)
    { srcs := [(f.a, .w64, .b64), (f.b, .w32, .n32)], dst := some (f.d, .w64), pw := none,
      f := fun _ v =>
        (if 16 ≤ nth v 1 then badAddr else 0xE000000000000 + nth v 1 * 2 ^ 44 + nth v 0 % 2 ^ 44, false) }
    f.pw s)

/-- `spaddr` (R205). -/
def execSpaddr (f : FmtA) (s : State) : Result :=
  .next (arith (.spaddr f)
    { srcs := [(f.a, .w32, .n32), (f.b, .w32, .n32)], dst := some (f.d, .w64), pw := none,
      f := fun _ v =>
        (if 4 ≤ nth v 1 || 2 ^ 20 ≤ nth v 0 then badAddr else 0xF000001000000 + nth v 1 * 2 ^ 20 + nth v 0, false) }
    f.pw s)

/-- `alignup` (R205). -/
def execAlignup (f : FmtA) (s : State) : Result :=
  .next (arith (.alignup f)
    { srcs := [(f.a, .w64, .n64), (f.b, .w32, .n32)], dst := some (f.d, .w64), pw := none,
      f := fun _ v =>
        (if 51 < nth v 1 then badAddr else (nth v 0 + 2 ^ nth v 1 - 1) / 2 ^ nth v 1 * 2 ^ nth v 1 % 2 ^ 64, false) }
    f.pw s)

/-- `inrange` (R204). -/
def execInrange (f : FmtA) (s : State) : Result :=
  .next (arith (.inrange f)
    { srcs := [(f.a, .w64, .n64), (f.b, .w64, .n64), (f.c, .w64, .n64)], dst := none, pw := some f.pw,
      f := fun _ v => (0, decide (nth v 1 ≤ nth v 0) && decide (nth v 0 - nth v 1 < nth v 2)) }
    f.pw s)

/-- The target of format B, from the line of the instruction (R184). -/
def targetB (f : FmtB) (line : DWord) : DWord := line + (f.off.signExtend 64 <<< 6) + f.slot.setWidth 64

/-- `lpc` (R205): the program counter of the label, with no check. -/
def execLpc (f : FmtB) (s : State) : Result :=
  let line := match s.clauses with | x :: _ => x.addr | [] => 0
  .next (arith (.lpc f) { srcs := [], dst := some (f.d, .w64), pw := none, f := fun _ _ => ((targetB f line).toNat, false) } 7 s)

end Sys2Proof.Machine
end

