-- ==== Sys2Proof/Machine/Packets.lean ====
section
/-! DEFINITION. Packets (R106) and how this package sends them: routing (R112) and multicast copies (R119). -/

namespace Sys2Proof.Machine

/-- Header fields of a packet (R106). -/
def pkKind (p : Packet) : Nat := bitsOf p.hdr.toNat 0 5
def pkBreakdown (p : Packet) : Bool := p.hdr.getLsbD 5
def pkRelayed (p : Packet) : Bool := p.hdr.getLsbD 6
def pkSrc (p : Packet) : Nat := bitsOf p.hdr.toNat 8 4
def pkDst (p : Packet) : Nat := bitsOf p.hdr.toNat 12 4
def pkRelay (p : Packet) : Nat := bitsOf p.hdr.toNat 16 4
def pkHops (p : Packet) : Nat := bitsOf p.hdr.toNat 20 4
def pkMeta (p : Packet) : Nat := bitsOf p.hdr.toNat 24 8
def pkLen (p : Packet) : Nat := bitsOf p.hdr.toNat 32 32
def pkAddr (p : Packet) : Nat := bitsOf p.hdr.toNat 64 64
def pkGroup (p : Packet) : Nat := bitsOf p.hdr.toNat 128 16
def pkTag (p : Packet) : Nat := bitsOf p.hdr.toNat 192 64

/-- A header with the reserved bits zero. -/
def mkHdr (kind src dst hops info len addr group tag : Nat) : BitVec 256 :=
  BitVec.ofNat 256 (kind + 2 ^ 8 * src + 2 ^ 12 * dst + 2 ^ 20 * hops + 2 ^ 24 * info + 2 ^ 32 * len + 2 ^ 64 * addr +
    2 ^ 128 * group + 2 ^ 192 * tag)

/-- The header is one a router accepts: kind at most 9 and the reserved bits zero (R106). -/
def pkOk (p : Packet) : Bool :=
  decide (pkKind p < 10) && !p.hdr.getLsbD 7 && bitsOf p.hdr.toNat 144 48 = 0 && decide (p.payload.length ≤ 256)

/-- The package answers: it is a member whose FXLIVE bit is set (R122). -/
def pkgLive (s : State) (p : Nat) : Bool := s.fab.live.getLsbD p

/-- Ports that lead to a package and are up, ascending (R112, R124). -/
def portsTo (s : State) (p : Nat) : List Nat :=
  (List.range 18).filter (fun q => s.fab.up.getLsbD q && s.fab.reach.at? q = some p)

/-- The number of the router's next choice, by which queue lengths are drawn. -/
def useNo (s : State) : Nat := s.tick + 2 ^ 40 * s.fab.sent.length

/-- Relays of detours whose two links are both up (R112). -/
def detours (s : State) (dst : Nat) : List Nat :=
  (List.range 16).filter (fun r => r != s.fab.index && r != dst && pkgLive s r && portsTo s r != [] && !Config.farDown (useNo s) r dst)

/-- Flits in the output queue of a port (R112). -/
def portQueue (s : State) (q : Nat) : Nat := Config.queueFlits (useNo s) q

/-- The port with the fewest flits, the first among equals; a lone port needs no comparison. -/
def shortest (s : State) : List Nat → Option Nat
  | [] => none
  | [q] => some q
  | q :: t => match shortest s t with
    | some r => if portQueue s r < portQueue s q then some r else some q
    | none => some q

/-- The port that the source router takes for a destination (R112): the shortest direct queue, unless it holds more than 24 flits and a
detour's is shorter; none while nothing can be used. -/
def route (s : State) (dst : Nat) : Option Nat :=
  let far := (detours s dst).filterMap (fun r => shortest s (portsTo s r))
  match shortest s (portsTo s dst) with
  | none => shortest s far
  | some q => if far = [] || portQueue s q ≤ 24 then some q else shortest s (q :: far)

/-- Sends a unicast packet, or lets it wait at the source (R112). -/
def sendPacket (s : State) (p : Packet) : State :=
  match route s (pkDst p) with
  | some q => { s with fab := { s.fab with sent := (q, p) :: s.fab.sent } }
  | none => { s with fab := { s.fab with stalled := s.fab.stalled ++ [p] } }

/-- The payload of kinds 1, 6 and 7: the line's byte mask, then the bytes from the lowest to the highest masked one (R106). -/
def maskPayload (m : BitVec 128) (d : BitVec 1024) : List Byte :=
  let on := (List.range 128).filter (fun i => m.getLsbD i)
  let lo := on.headD 0
  let hi := on.getLastD 0
  leBytes 16 m.toNat ++ (if on = [] then [] else (List.range (hi + 1 - lo)).map (fun i => d.extractLsb' (8 * (lo + i)) 8))

/-- Bytes carried after the mask (R106). -/
def maskCount (m : BitVec 128) : Nat :=
  let on := (List.range 128).filter (fun i => m.getLsbD i)
  if on = [] then 0 else on.getLastD 0 + 1 - on.headD 0

/-- Writes the masked bytes of a received payload to memory at a line (R106). -/
def writePayload (s : State) (addr : Nat) (payload : List Byte) : State × List Nat :=
  let m := BitVec.ofNat 128 (leNat (payload.take 16))
  let body := payload.drop 16
  let on := (List.range 128).filter (fun i => m.getLsbD i)
  let lo := on.headD 0
  let base := addr / 128 * 128
  (on.foldl (fun (s : State) i => { s with mem := Mem.setByte s.mem (base + i) (body.getD (i - lo) 0) }) s,
   maskSectors (base / 128) m)

/-- Writes the masked bytes of a packet at their line's home slice (R57, R106). -/
def writeHome (s : State) (p : Packet) (h : Hint) : State × List Nat :=
  let w := writePayload s (pkAddr p) p.payload
  let on := BitVec.ofNat 128 (leNat (p.payload.take 16))
  (l2Access w.1 (pkAddr p / 128) h on on, w.2)

/-- The entry of a multicast group (R118). -/
def groupEntry (s : State) (g : Nat) : Word := s.fab.groups.atD g 0

/-- The packages one multicast copy goes to from this router: pairs of port and neighbour (R118, R119). A port that is linked
but down sends its copy as a unicast to its neighbour; a port without a link sends nothing and the event is logged. -/
def egress (e : Word) : List Nat := (List.range 18).filter (fun q => e.getLsbD q)

/-- Acknowledgements awaited, as a count of 16 bits for each package: one more, one answered, and those of a package let go. -/
def ackAdd (n p : Nat) : Nat := n + 2 ^ (16 * p)
def ackTake (n p : Nat) : Nat := if bitsOf n (16 * p) 16 = 0 then n else n - 2 ^ (16 * p)
def ackDrop (n p : Nat) : Nat := n - bitsOf n (16 * p) 16 * 2 ^ (16 * p)

/-- Neighbours of a group's egress ports that are lost (R122). -/
def lostEgress (s : State) (g : Nat) : List Nat :=
  let e := groupEntry s g
  if e.getLsbD 19 then
    ((egress e).filter (fun q => s.fab.linked.getLsbD q)).map (fun q => s.fab.reach.atD q 0) |>.filter (fun d => !pkgLive s d)
  else []

/-- Acts on a multicast packet at this router (R119): the entry is latched, LOC writes here, and a copy goes to each egress
port, with the tag given; the hint is that under which the line is recorded here. Answers the acknowledgements that the copies owe; a
copy to a lost package owes none (R122). -/
def multicastHere (s : State) (p : Packet) (tag : Nat) (h : Hint) : State × Nat :=
  let e := groupEntry s (pkGroup p)
  if !e.getLsbD 19 then (logEvent s 11 0 (pkGroup p), 0)
  else
    let s1 :=
      if e.getLsbD 18 then
        let w := writeHome s p h
        publishPkg w.1 (signature w.2)
      else s
    let ports := egress e
    if 3 ≤ pkHops p then (logEvent s1 11 0 (pkGroup p), 0)
    else
      ports.foldl (fun (r : State × Nat) q =>
        if !s.fab.linked.getLsbD q then (logEvent r.1 11 q (pkGroup p), r.2)
        else
          let d := s.fab.reach.atD q 0
          let hdr := mkHdr (pkKind p) s.fab.index d (pkHops p + 1) (pkMeta p) (pkLen p) (pkAddr p) (pkGroup p) tag
          let c : Packet := { p with hdr := hdr }
          if !pkgLive s d then r
          else if s.fab.up.getLsbD q then ({ r.1 with fab := { r.1.fab with sent := (q, c) :: r.1.fab.sent } }, ackAdd r.2 d)
          else (sendPacket r.1 c, ackAdd r.2 d)) (s1, 0)

/-- A packet is a reply or an acknowledgement, which has a reserved buffer of its own (R116). -/
def isReply (p : Packet) : Bool := pkKind p = 4 || pkKind p = 5

/-- The reserved buffer of an input for a packet of its class is free (R116). -/
def bufferFree (s : State) (i : Nat) (p : Packet) : Bool := !s.fab.breakdown.any (fun b => b.1 = i && isReply b.2 == isReply p)

/-- Sends a reply or acknowledgement to a package (R94, R107). That of a drained packet takes the reserved buffer of the source's own input,
18, while no link can take it and the buffer is free (R116). -/
def sendReply (s : State) (drained : Bool) (kind dst tag addr : Nat) (payload : List Byte) : State :=
  let p : Packet := { hdr := mkHdr kind s.fab.index dst 0 0 payload.length addr 0 tag, payload := payload }
  if drained && (route s dst).isNone && bufferFree s 18 p then
    { s with fab := { s.fab with breakdown := s.fab.breakdown ++ [(18, { p with hdr := p.hdr ||| 32 })] } }
  else sendPacket s p

/-- Sends the reply to a packet. -/
def sendReplyTo (s : State) (p : Packet) (kind tag addr : Nat) (payload : List Byte) : State :=
  sendReply s (pkBreakdown p) kind (pkSrc p) tag addr payload

/-! ## Requests under way (R108) -/

/-- The place of the group identifier in a load, store or atomic says that the page is a memory-side one (R28, log 54). -/
def sideMark (ms : Bool) : Nat := if ms then 1 else 0

def Owner.core : Owner → Nat
  | .warp c _ => c
  | .stream c _ => c
  | .control c => c
  | .saved _ _ c _ => c
  | .savedStream _ c _ => c

/-- The peer line an access names (R93). -/
def peerLine (a : LaneAcc) : Option (Nat × Nat) :=
  match a.place with | .peer q pa => some (q, pa / 128) | _ => none

/-- Acknowledgements awaited, as counts of 16 bits per package. -/
def ackSum (n : Nat) : Nat := (List.range 16).foldl (fun t i => t + bitsOf n (16 * i) 16) 0

/-- Requests to peer packages for which a core awaits an answer: those of its operations, one for each line, the copies of its multicast
stores, its copy channels' chunks, the lines of its tile fetches and write-backs, and those of its instruction fetches (R108). -/
def peerRequests (s : State) (c : Nat) : Nat :=
  let mine := s.ops.filterV (fun _ p => p.owner.core = c)
  let lines := mine.flatMap (fun (e : Nat × MemOp) =>
    (e.2.lanes.filter (fun b => b.sent && (peerLine b).isSome)).map (fun b => (e.1, peerLine b)))
  let copies := (mine.filterV (fun _ p => p.body == .multicast)).flatMap (fun (e : Nat × MemOp) => e.2.lanes.filter LaneAcc.sent)
  let x := s.core c
  lines.eraseDups.length + copies.foldl (fun n a => n + ackSum a.data.toNat) 0 +
    x.engine.pending.foldl (fun n m => n + ackSum m.acks) 0 +
    x.chans.foldl (fun n (e : Nat × Chan) => n + (match e.2.cmd with
      | some y => match y.flight with | some 0 => 1 | some m => ackSum m | none => 0
      | none => 0)) 0 +
    x.engine.asked.length + x.fetches.length

end Sys2Proof.Machine
end

