-- ==== Sys2Proof/Machine/Blocks.lean ====
section
/-! DEFINITION. The debug window through which the control core sees a core (R323) and its blocks (R324, R325). -/

namespace Sys2Proof.Machine

/-- One byte of the debug window (R323). -/
def debugByte (s : State) (c x : Nat) : Byte :=
  let y := s.core c
  let ofWord (w : Nat) : Byte := BitVec.ofNat 8 (bitsOf w (8 * (x % 4)) 8)
  if x < 0xC0000 then Mem.byte y.store x
  else if x < 0x160000 then
    let b := x - 0x100000
    match y.warps.at? (b / 0x2000) with
    | some w => ofWord (warpWord (stamped s (shown s w)) s.tick (b % 0x2000 / 4 * 4))
    | none => 0
  else if x < 0x190000 then
    let b := x - 0x160000
    match y.streams.at? (b / 0x1000) with
    | some t => ofWord (streamWord t s.tick (b % 0x1000 / 4 * 4))
    | none => 0
  else if x < 0x201000 then
    match y.trapq.at? ((x - 0x200000) / 64) with
    | some r => (r.bytes c).getD (x % 64) 0
    | none => 0
  else if x = 0x201000 then BitVec.ofNat 8 (y.tqHead % 64)
  else if x = 0x201008 then BitVec.ofNat 8 (y.tqTail % 64)
  else 0

/-- The launch of a slot is a reproducible one of the open run, so that a patch is recorded (R345). -/
def patchLaunch (s : State) (id : Nat) : State :=
  match s.launches.at? id with
  | some x => if x.repro && s.rep.isOpen then { s with rep := { s.rep with patched := true } } else s
  | none => s

/-- Writes one byte of the debug window: a running warp's or stream's block is left as it is (R323). -/
def debugPut (s : State) (c x : Nat) (v : Byte) : State :=
  let y := s.core c
  let put (old : Nat) : Nat := setByteN old (x % 4) v.toNat
  if x < 0xC0000 then
    let s1 := s.modCore c (fun y => { y with store := Mem.setByte y.store x v })
    match y.launch with
    | some id => patchLaunch s1 id
    | none => s1
  else if x < 0x160000 then
    let b := x - 0x100000
    match y.warps.at? (b / 0x2000) with
    | some w =>
      if w.trapped then
        let o := b % 0x2000 / 4 * 4
        patchLaunch (s.modWarp c (b / 0x2000) (fun w => putShown s w o (put (warpWord (stamped s (shown s w)) s.tick o)))) w.launch
      else s
    | none => s
  else if x < 0x190000 then
    let b := x - 0x160000
    match y.streams.at? (b / 0x1000) with
    | some t =>
      if t.stopped then
        let o := b % 0x1000 / 4 * 4
        s.modStream c (b / 0x1000) (fun t => putStream t o (put (streamWord t s.tick o)))
      else s
    | none => s
  else s

/-- n bytes of the debug window as a number. -/
def debugRead (s : State) (c x : Nat) : Nat → Nat
  | 0 => 0
  | n + 1 => (debugByte s c x).toNat + 256 * debugRead s c (x + 1) n

/-- Writes n bytes of the debug window; the stores are in place at once, in program order (R326). -/
def debugWrite (s : State) (c x : Nat) : Nat → Nat → State
  | 0, _ => s
  | n + 1, v => debugWrite (debugPut s c x (BitVec.ofNat 8 v)) c (x + 1) n (v / 256)

end Sys2Proof.Machine
end

