-- ==== Sys2Proof/Machine/Fetch.lean ====
section
/-! DEFINITION. Fetching a line (R170, R172) and checking a transfer's target (R174). -/

namespace Sys2Proof.Machine

/-- What a fetch finds. -/
inductive Fetch where
  | line (l : Line)
  | fault (cause : Nat)
  /-- The line failed its parity twice (R172). -/
  | parity
  /-- The line lies in another package, and a request for it is under way (R107). -/
  | remote

/-- The tag of an instruction fetch from a peer page: bit 56 and the core (log 50). -/
def fetchTag (c : Nat) : Nat := 2 ^ 56 + c

/-- The instruction-cache key of a line: its number, with the owning package above for a peer line. -/
def fetchKey (p : Place) : Nat :=
  match p with
  | .mem pa => pa / 64
  | .side pa => pa / 64
  | .peer q pa => 2 ^ 50 * (q + 1) + pa / 64
  | _ => 0

/-- Takes a line from the instruction cache or memory, or asks its package for it while the core may send requests (R107, R108, R172). The cache keeps a line until `iflush`
(log 51); a peer line that failed its parity a second time is marked under `2^60 + key`. -/
def fetchPlace (s : State) (c va : Nat) (p : Place) (ms : Bool) : State × Fetch :=
  let key := fetchKey p
  let keep (s : State) (l : Line) : State := s.modCore c (fun x => { x with icache := x.icache.put key l })
  let ask (s : State) (q pa : Nat) : State × Fetch :=
    if (s.core c).fetches.contains key || 256 ≤ peerRequests s c then (s, .remote)
    else (sendPacket (s.modCore c (fun x => { x with fetches := key :: x.fetches }))
      { hdr := mkHdr 0 s.fab.index q 0 0 64 pa (sideMark ms) (fetchTag c), payload := [] }, .remote)
  match (s.core c).icache.at? key, p with
  | some l, _ =>
    if parityOk l then (s, .line l)
    else
      let drop (s : State) : State := s.modCore c (fun x => { x with icache := (x.icache.del key).del (key + 2 ^ 60) })
      let s2 := logEvent (drop s) 2 (dieOf c) va
      match p with
      | .peer q pa =>
        if ((s.core c).icache.at? (key + 2 ^ 60)).isSome then (drop s, .parity) else ask (logEvent s 2 (dieOf c) va) q pa
      | .mem pa | .side pa =>
        let l2 : Line := BitVec.ofNat 512 (Mem.rd s2.mem pa 64)
        if parityOk l2 then (keep s2 l2, .line l2) else (s2, .parity)
      | _ => (s2, .parity)
  | none, .mem pa | none, .side pa =>
    let l : Line := BitVec.ofNat 512 (Mem.rd s.mem pa 64)
    if parityOk l then (keep s l, .line l) else (logEvent s 2 (dieOf c) va, .parity)
  | none, .peer q pa => ask s q pa
  | none, _ => (s, .fault XCause.window)

/-- Fetches the line of a program counter for a core in a context; a lost package's reads as zeros (R122). -/
def fetchLine (s : State) (c ctx : Nat) (pc : DWord) : State × Fetch :=
  let va := pc.toNat / 64 * 64
  match resolveNow s { core := c, ctx := ctx, wg := none, regs := none, dbg := false }
      { kind := .ifetch, write := false, odd := true, width := 64 } va with
  | (s1, .fault f) => (s1, .fault f)
  | (s1, .miss) => (s1, .fault XCause.notPresent)
  | (s1, .ok (.peer q pa) leaf) => if pkgLive s1 q then fetchPlace s1 c va (.peer q pa) (pteMS leaf) else (s1, .line 0)
  | (s1, .ok p _) => fetchPlace s1 c va p false

/-- The lost package that the line of a program counter lies in (R96, R122). -/
def fetchLost (s : State) (c ctx : Nat) (pc : DWord) : Option Nat :=
  match (resolveNow s { core := c, ctx := ctx, wg := none, regs := none, dbg := false }
      { kind := .ifetch, write := false, odd := true, width := 64 } (pc.toNat / 64 * 64)).2 with
  | .ok (.peer q _) _ => if pkgLive s q then none else some q
  | _ => none

/-- What the check of a target finds (R174). -/
inductive Target where
  | ok
  | bad
  | fault (cause : Nat)
  | wait
  deriving DecidableEq, Repr

/-- Checks a target against the kind of the line of the transfer (R174). A line that fails its parity is met on entry, where R172
places the trap (log 52). -/
def checkTarget (s : State) (c ctx kind : Nat) (t : DWord) : State × Target :=
  if !pcOk t then (s, .bad)
  else
    match fetchLine s c ctx t with
    | (s1, .line l) => (s1, if lineTgt l (t.toNat % 8) && lineKind l = kind then .ok else .bad)
    | (s1, .fault f) => (s1, .fault f)
    | (s1, .parity) => (s1, .ok)
    | (s1, .remote) => (s1, .wait)

/-- The results of checking each lane's target. -/
def checkTargets (s : State) (c ctx kind : Nat) : List (Nat × DWord) → State × List (Nat × DWord × Target)
  | [] => (s, [])
  | (l, t) :: r =>
    let a := checkTarget s c ctx kind t
    let b := checkTargets a.1 c ctx kind r
    (b.1, (l, t, a.2) :: b.2)

end Sys2Proof.Machine
end

