-- ==== Sys2Proof/Machine/Float.lean ====
section
/-! DEFINITION. Binary floating point: formats and values (R213, R214), rounding (R215, R225), exact sums and products (R216),
division and square root, and the comparisons of R219. -/

namespace Sys2Proof.Machine

/-- A format of R213: exponent and fraction widths; `inf` is false for E4M3, which has no infinities. -/
structure Flt where
  eb : Nat
  mb : Nat
  inf : Bool := true
  deriving DecidableEq, Repr

/-- A floating-point value: (−1)^neg × num × 2^exp when finite. -/
inductive FVal where
  | nan
  | inf (neg : Bool)
  | fin (neg : Bool) (num : Nat) (exp : Int)
  deriving DecidableEq, Repr

namespace Flt

def f64 : Flt := { eb := 11, mb := 52 }
def f32 : Flt := { eb := 8, mb := 23 }
def f16 : Flt := { eb := 5, mb := 10 }
def bf16 : Flt := { eb := 8, mb := 7 }
def e4m3 : Flt := { eb := 4, mb := 3, inf := false }
def e5m2 : Flt := { eb := 5, mb := 2 }

def width (F : Flt) : Nat := 1 + F.eb + F.mb
def bias (F : Flt) : Nat := 2 ^ (F.eb - 1) - 1
def signBit (F : Flt) : Nat := 2 ^ (F.eb + F.mb)
/-- Codes of the largest finite magnitude, the infinity and the canonical NaN (R213). -/
def largest (F : Flt) : Nat := if F.inf then (2 ^ F.eb - 1) * 2 ^ F.mb - 1 else 2 ^ (F.eb + F.mb) - 2
def infCode (F : Flt) : Nat := if F.inf then (2 ^ F.eb - 1) * 2 ^ F.mb else 2 ^ (F.eb + F.mb) - 1
def nan (F : Flt) : Nat :=
  if F.inf then (2 ^ F.eb - 1) * 2 ^ F.mb + 2 ^ (F.mb - 1) else 2 ^ (F.eb + F.mb) - 1
/-- Exponent of the smallest quantum. -/
def qmin (F : Flt) : Int := 1 - (F.bias : Int) - F.mb

/-- The format of a type code. -/
def ofTy : Ty → Flt
  | .f64 => f64 | .f16 => f16 | .bf16 => bf16 | .e4m3 => e4m3 | .e5m2 => e5m2 | _ => f32

/-- The value of a code (R214). -/
def dec (F : Flt) (x : Nat) : FVal :=
  let neg := bitsOf x (F.eb + F.mb) 1 = 1
  let e := bitsOf x F.mb F.eb
  let m := bitsOf x 0 F.mb
  if F.inf && e = 2 ^ F.eb - 1 then (if m = 0 then .inf neg else .nan)
  else if !F.inf && e = 2 ^ F.eb - 1 && m = 2 ^ F.mb - 1 then .nan
  else if e = 0 then .fin neg m F.qmin
  else .fin neg (2 ^ F.mb + m) (F.qmin + (e - 1 : Int))

end Flt

/-- 2^k for k that may be negative, as a power where it is not. -/
def pow2 (k : Int) : Nat := 2 ^ k.toNat

/-- floor(log2(num / den)) for positive num and den. -/
def ilog (num den : Nat) : Int :=
  let e : Int := (Nat.log2 num : Int) - Nat.log2 den
  if den * pow2 e ≤ num * pow2 (-e) then e else e - 1

/-- The magnitude above or below: whether a mode takes the upper neighbour, for quotient k, remainder r of B, and sign; `s` is
the 16-bit slice of sr (R215, R225). -/
def roundUp (m : Rnd) (s : Nat) (neg : Bool) (k r B : Nat) : Bool :=
  if r = 0 then false
  else match m with
    | .rne => B < 2 * r || (2 * r = B && k % 2 = 1)
    | .rtz => false
    | .rdn => neg
    | .rup => !neg
    | .sr => 65536 ≤ r * 65536 / B + s

/-- round_M_F of the real (−1)^neg × num/den × 2^exp (R215); `sat` replaces an overflow by the largest value (R223). -/
def Flt.roundQ (F : Flt) (m : Rnd) (s : Nat) (sat : Bool) (neg : Bool) (num den : Nat) (exp : Int) : Nat :=
  let sg := if neg then F.signBit else 0
  if num = 0 then sg
  else
    let e0 := ilog num den + exp
    -- far outside the range only the side matters
    let tiny := e0 < F.qmin - 40
    let huge := (F.bias : Int) + 2 < e0
    let num1 := if tiny || huge then 1 else num
    let den1 := if tiny || huge then 1 else den
    let exp1 := if tiny then F.qmin - 40 else if huge then (F.bias : Int) + 2 else exp
    let e := if tiny then F.qmin - 40 else if huge then (F.bias : Int) + 2 else e0
    let q := if e - F.mb < F.qmin then F.qmin else e - F.mb
    let A := num1 * pow2 (exp1 - q)
    let B := den1 * pow2 (q - exp1)
    let k := A / B
    let k2 := if roundUp m s neg k (A % B) B then k + 1 else k
    let code := (q - F.qmin).toNat * 2 ^ F.mb + k2
    if F.largest < code then
      if sat then sg + F.largest
      else match m with
        | .rtz => sg + F.largest
        | .rdn => if neg then sg + F.infCode else F.largest
        | .rup => if neg then sg + F.largest else F.infCode
        | _ => if F.inf then sg + F.infCode else F.nan
    else sg + code

/-- round_M_F of a value. An infinity stays one, or with `sat` becomes the largest value (R215, R216, R223). -/
def Flt.enc (F : Flt) (m : Rnd) (v : FVal) (s : Nat := 0) (sat : Bool := false) : Nat :=
  let fix (x : Nat) : Nat := if !F.inf && x % F.signBit = F.infCode then F.nan else x
  match v with
  | .nan => F.nan
  | .inf neg => if sat then (if neg then F.signBit else 0) + F.largest else fix ((if neg then F.signBit else 0) + F.infCode)
  | .fin neg n e => fix (F.roundQ m s sat neg n 1 e)

namespace FVal

def isNan : FVal → Bool
  | .nan => true
  | _ => false

def negate : FVal → FVal
  | .nan => .nan
  | .inf n => .inf (!n)
  | .fin n a e => .fin (!n) a e

def abs : FVal → FVal
  | .nan => .nan
  | .inf _ => .inf false
  | .fin _ a e => .fin false a e

/-- The exact product (R216). -/
def mul : FVal → FVal → FVal
  | .nan, _ => .nan
  | _, .nan => .nan
  | .inf n, .inf m => .inf (Bool.xor n m)
  | .inf n, .fin m a _ => if a = 0 then .nan else .inf (Bool.xor n m)
  | .fin n a _, .inf m => if a = 0 then .nan else .inf (Bool.xor n m)
  | .fin n a e, .fin m b f => .fin (Bool.xor n m) (a * b) (e + f)

def isInf (neg : Bool) : FVal → Bool
  | .inf n => n == neg
  | _ => false

/-- The signed magnitude at an exponent not above the value's own. -/
def at_ (e0 : Int) : FVal → Int
  | .fin n a e => let m : Int := (a * pow2 (e - e0) : Nat); if n then -m else m
  | _ => 0

def exp? : FVal → Option Int
  | .fin _ a e => if a = 0 then none else some e
  | _ => none

def isNeg : FVal → Bool
  | .nan => false
  | .inf n => n
  | .fin n _ _ => n

def isZero : FVal → Bool
  | .fin _ a _ => a = 0
  | _ => false

/-- The exact sum of terms, with the sign of an exactly zero sum (R215, R216). -/
def sum (m : Rnd) (ts : List FVal) : FVal :=
  if ts.any isNan then .nan
  else if ts.any (isInf true) && ts.any (isInf false) then .nan
  else if ts.any (isInf true) then .inf true
  else if ts.any (isInf false) then .inf false
  else
    let es := ts.filterMap exp?
    let e0 := es.foldl (fun (a : Int) b => if b < a then b else a) (es.headD 0)
    let v := ts.foldl (fun (a : Int) t => a + t.at_ e0) 0
    if v = 0 then
      let zeros := ts.all isZero
      if zeros && ts.all isNeg then .fin true 0 0
      else if zeros && ts.all (fun t => !t.isNeg) then .fin false 0 0
      else .fin (m == .rdn) 0 0
    else .fin (decide (v < 0)) v.natAbs e0

/-- Scales by a power of two. -/
def scale (k : Int) : FVal → FVal
  | .fin n a e => .fin n a (e + k)
  | v => v

/-- The value is finite and its integral part toward −∞; 0 for others. -/
def floor : FVal → Int
  | .fin n a e =>
    let v : Int := if n then -(a : Int) else a
    if 0 ≤ e then v * (pow2 e : Nat) else v / (pow2 (-e) : Nat)
  | _ => 0

/-- Comparison of finite values and infinities; neither is a NaN. −0 equals +0. -/
def lt : FVal → FVal → Bool
  | .inf n, .inf m => n && !m
  | .inf n, _ => n
  | _, .inf m => !m
  | x, y => match sum .rne [x, y.negate] with
    | .fin n a _ => n && a != 0
    | _ => false

end FVal

/-- An exact integer as a value. -/
def intF (v : Int) : FVal := .fin (decide (v < 0)) v.natAbs 0

/-- Rounds a finite value to an integer (R218, R224, R225). Far exponents are brought near first, which changes no outcome. -/
def roundInt (m : Rnd) (s : Nat) (neg : Bool) (a : Nat) (e : Int) : Int :=
  let k : Nat :=
    if a = 0 then 0
    else if 0 ≤ e then a * pow2 (if e < 2000 then e else 2000)
    else
      let sh := if e < -(Nat.log2 a + 80 : Int) then Nat.log2 a + 80 else (-e).toNat
      let B := 2 ^ sh
      a / B + (if roundUp m s neg (a / B) (a % B) B then 1 else 0)
  if neg then -(k : Int) else k

/-- A quotient rounded once (R221, R228). -/
def Flt.div (F : Flt) (m : Rnd) (a b : FVal) : Nat :=
  match a, b with
  | .nan, _ => F.nan
  | _, .nan => F.nan
  | .inf _, .inf _ => F.nan
  | .inf n, .fin k _ _ => F.enc m (.inf (Bool.xor n k))
  | .fin n _ _, .inf k => F.enc m (.fin (Bool.xor n k) 0 0)
  | .fin n x e, .fin k y f =>
    if y = 0 then (if x = 0 then F.nan else F.enc m (.inf (Bool.xor n k)))
    else F.roundQ m 0 false (Bool.xor n k) x y (e - f)

/-- floor(√x), one bit of the root at a time from bit n − 1. -/
def isqrtGo (x : Nat) : Nat → Nat → Nat
  | 0, r => r
  | n + 1, r => let t := r + 2 ^ n; isqrtGo x n (if t * t ≤ x then t else r)
def isqrt (x : Nat) : Nat := isqrtGo x (Nat.log2 x / 2 + 1) 0

/-- The root of num/den × 2^exp, with 2p bits below the point, doubled, and its last bit set if the root is inexact: rounding
it gives what rounding the root gives. -/
def rootSticky (num den : Nat) (exp : Int) (p : Nat) : Nat × Int :=
  let odd := exp % 2 = 1
  let n1 := if odd then 2 * num else num
  let e1 := if odd then exp - 1 else exp
  let x := n1 * 2 ^ (2 * p) / den
  let r := isqrt x
  let exact := r * r * den = n1 * 2 ^ (2 * p)
  (2 * r + (if exact then 0 else 1), e1 / 2 - p - 1)

/-- √a rounded once (R221, R228). -/
def Flt.sqrt (F : Flt) (m : Rnd) (a : FVal) : Nat :=
  match a with
  | .nan => F.nan
  | .inf n => if n then F.nan else F.infCode
  | .fin n x e =>
    if x = 0 then (if n then F.signBit else 0)
    else if n then F.nan
    else
      let r := rootSticky x 1 e 160
      F.roundQ m 0 false false r.1 1 r.2

/-! ## Selection and inspection (R219) -/

/-- A key that orders codes with −0 below +0. -/
def Flt.key (F : Flt) (x : Nat) : Int :=
  if bitsOf x (F.eb + F.mb) 1 = 1 then -(x % F.signBit : Nat) - 1 else (x % F.signBit : Nat)

def Flt.isNan (F : Flt) (x : Nat) : Bool := (F.dec x).isNan

/-- `fmin` and `fmax` (R219). -/
def Flt.pick (F : Flt) (greater : Bool) (a b : Nat) : Nat :=
  if F.isNan a then (if F.isNan b then F.nan else b)
  else if F.isNan b then a
  else if (F.key a ≤ F.key b) == greater then b else a

/-- `fminp` and `fmaxp` (R219). -/
def Flt.pickP (F : Flt) (greater : Bool) (a b : Nat) : Nat :=
  if F.isNan a || F.isNan b then F.nan else F.pick greater a b

/-- `fcmp` (R219). -/
def Flt.cmp (F : Flt) (cc a b : Nat) : Bool :=
  let x := F.dec a
  let y := F.dec b
  let un := x.isNan || y.isNan
  match cc with
  | 0 => !un && !x.lt y && !y.lt x
  | 1 => un || x.lt y || y.lt x
  | 2 => !un && x.lt y
  | 3 => !un && !y.lt x
  | 4 => !un && y.lt x
  | 5 => !un && !x.lt y
  | 6 => un
  | _ => !un

/-- `fclass` (R219). -/
def Flt.cls (F : Flt) (a : Nat) : Nat :=
  let sub := bitsOf a F.mb F.eb = 0
  match F.dec a with
  | .nan => 2 ^ 8
  | .inf n => if n then 1 else 2 ^ 7
  | .fin n x _ =>
    if x = 0 then (if n then 2 ^ 3 else 2 ^ 4)
    else if sub then (if n then 2 ^ 2 else 2 ^ 5)
    else if n then 2 ^ 1 else 2 ^ 6

/-- Unbiased exponent of a nonzero finite value (R214). -/
def FVal.exponent : FVal → Int
  | .fin _ a e => (Nat.log2 a : Int) + e
  | _ => 0

/-! ## The two-input operations -/

def Flt.add (F : Flt) (m : Rnd) (a b : Nat) : Nat := F.enc m (.sum m [F.dec a, F.dec b])
def Flt.sub (F : Flt) (m : Rnd) (a b : Nat) : Nat := F.enc m (.sum m [F.dec a, (F.dec b).negate])
def Flt.mul (F : Flt) (m : Rnd) (a b : Nat) : Nat := F.enc m ((F.dec a).mul (F.dec b))
/-- Fused multiply-add (R218). -/
def Flt.fma (F : Flt) (m : Rnd) (negc : Bool) (a b c : Nat) : Nat :=
  F.enc m (.sum m [(F.dec a).mul (F.dec b), if negc then (F.dec c).negate else F.dec c])

/-- Two-sum (R220): the rounded sum and its exact error. -/
def Flt.add2 (F : Flt) (a b : Nat) : Nat × Nat :=
  let s := F.add .rne a b
  match F.dec s with
  | .fin _ _ _ =>
    match FVal.sum .rne [F.dec a, F.dec b, (F.dec s).negate] with
    | .fin n x e => (s, if x = 0 then 0 else F.enc .rne (.fin n x e))
    | _ => (s, 0)
  | _ => (s, 0)

/-- `frnd` (R218). -/
def Flt.rnd (F : Flt) (m : Rnd) (a : Nat) : Nat :=
  match F.dec a with
  | .nan => F.nan
  | .inf n => F.enc m (.inf n)
  | .fin n x e => F.enc .rne (.fin n (roundInt m 0 n x e).natAbs 0)

/-- `ffract` (R218). For ±0 the difference is +0 (log 40). -/
def Flt.fract (F : Flt) (a : Nat) : Nat :=
  match F.dec a with
  | .fin n x e =>
    if x = 0 then 0
    else
      let fl := FVal.floor (.fin n x e)
      F.enc .rtz (.sum .rtz [.fin n x e, .fin (decide (0 ≤ fl)) fl.natAbs 0])
  | _ => F.nan

/-- `fscale` (R218): b is clamped where nothing changes. -/
def Flt.scaleBy (F : Flt) (m : Rnd) (a : Nat) (b : Int) : Nat := F.enc m ((F.dec a).scale b)

/-- `fsign` (R218). -/
def Flt.sign (F : Flt) (a : Nat) : Nat :=
  match F.dec a with
  | .nan => F.nan
  | .inf n => F.enc .rne (.fin n 1 0)
  | .fin n x _ => if x = 0 then a % 2 ^ F.width else F.enc .rne (.fin n 1 0)

/-- `fabsdiff` (R218). -/
def Flt.absdiff (F : Flt) (m : Rnd) (a b : Nat) : Nat :=
  match FVal.sum .rne [F.dec a, (F.dec b).negate] with
  | .nan => F.nan
  | .inf _ => F.enc m (.inf false)
  | .fin _ x e => F.enc m (.fin false x e)

/-- `fgetexp` and `fgetman` (R219). -/
def Flt.getexp (F : Flt) (a : Nat) : Nat :=
  match F.dec a with
  | .fin n x e => if x = 0 then 0x80000000 else truncN 32 (FVal.exponent (.fin n x e))
  | _ => 0x7FFFFFFF
def Flt.getman (F : Flt) (a : Nat) : Nat :=
  match F.dec a with
  | .nan => F.nan
  | .inf _ => a
  | .fin n x e => if x = 0 then a else F.enc .rne (.fin n x (e - FVal.exponent (.fin n x e)))

end Sys2Proof.Machine
end

