-- ==== Sys2Proof/Machine/MemOps.lean ====
section
/-! DEFINITION. Memory operations in flight: issuing them (R236, R237), where they are performed (R79, R88), performing them
lane by lane, the requests to peer packages (R93, R107 to R111), and completion (R14, R130, R333). -/

namespace Sys2Proof.Machine

/-! ## The save record's layout (R331) -/

/-- Warps of a launch that one core holds, and cores of a workgroup (R156). -/
def Launch.wpc (x : Launch) : Nat := min 48 (regG x.part * 128 / (if x.regs = 0 then 8 else x.regs))
def Launch.cpw (x : Launch) : Nat := if x.warps ≤ x.wpc then 1 else ceilDiv x.warps (if x.wpc = 0 then 1 else x.wpc)

/-- Offset in a save record of the scratchpad image of the i-th core of the workgroup. -/
def savedScratch (x : Launch) (i : Nat) : Nat := x.warps * 0x2000 + 0x1000 + i * spSize x.part

/-- Position of a core among those of a workgroup, which are in `%wcore` order. -/
def coreRank (cores : List Nat) (c : Nat) : Nat := (cores.takeWhile (fun d => d != c)).length

/-- Offset in a save record of the image of the register partition of the i-th core, which its accumulator granules follow: a warp's
registers and tiles lie in it where they lay in the core store, as long as no other warp's in that record do (log 53). -/
def savedImage (x : Launch) (i : Nat) : Nat := savedScratch x x.cpw + i * (regG x.part + accG x.part) * 0x4000

/-- The saved warps with their places. -/
def SavedWg.all (v : SavedWg) : List (Warp × SavedPlace) := v.warps.zip v.places

/-- A saved warp and where it was saved. -/
def SavedWg.find (v : SavedWg) (p : Nat) : Option (Warp × SavedPlace) := v.all.find? (fun e => e.1.warpid = p)

/-- Where the registers of a saved warp lie. -/
def savedRegs (v : SavedWg) (p : Nat) : Nat :=
  match v.find p with
  | some (_, r) => r.addr.toNat + r.regs
  | none => 0

/-- The physical address in local memory of a virtual one, and the leaf that maps it, through a walk; none where it does not translate to
one. -/
def vaLeaf (s : State) (ctx va : Nat) (write : Bool) : Option (Nat × Nat) :=
  match windowRes s { core := 0, ctx := ctx, wg := none, regs := none, dbg := false }
      { kind := .copy, write := write, odd := true, width := 1 } va with
  | some _ => none
  | none =>
    match walk s ctx va with
    | .leaf e bits => if (leafFault s va e write false).isSome || ptePE e then none else some (leafPa va e bits, e)
    | .fault _ => none

/-- The physical address in local memory of a virtual one. -/
def vaPa (s : State) (ctx va : Nat) (write : Bool) : Option Nat := (vaLeaf s ctx va write).map Prod.fst

/-- Writes n bytes at a virtual address of local memory, or nothing where it does not translate. -/
def vaWrite (s : State) (ctx va n v : Nat) : State :=
  match vaPa s ctx va true with
  | some pa => s.wrMem pa n v
  | none => s

/-! ## Owners -/

def Owner.wg (s : State) : Owner → Option Nat
  | .warp c k => wgIdOf s c k
  | .stream c k => ((s.core c).streams.at? k).map Stream.wg
  | .control _ => none
  | .saved g _ _ _ => some g
  | .savedStream g _ _ => some g

/-- Workgroup and `%warpid` of a warp that owns an operation, for the right-of-way rules (R100). -/
def Owner.warpId (s : State) : Owner → Option (Nat × Nat)
  | .warp c k => (s.warp? c k).map (fun w => (w.wg, w.warpid))
  | .saved g p _ _ => some (g, p)
  | _ => none

/-- Changes a lane of the owner, resident or saved. -/
def modOwnedLane (s : State) (o : Owner) (l : Nat) (f : Lane → Lane) : State :=
  match o with
  | .warp c k => s.modLane c k l f
  | .control c => s.modLane c ctrlSlot l f
  | .stream _ _ => s
  | .savedStream _ _ _ => s
  | .saved g p _ _ => s.modSaved g p (fun w => { w with lanes := w.lanes.put l (f (w.lanes.atD l Lane.never)) })

/-- A stream takes a loaded value: into an access register, or as word l of the row that a push to a queue reads (R266, R267). -/
def Stream.take (x : Stream) (l : Nat) (p : Pos) (d : Operand) (v : Nat) : Stream :=
  match d with
  | .main r =>
    let r1 := x.regs.putD r.toNat (BitVec.ofNat 32 v) 0
    { x with regs := if p == .w64 then r1.putD (r.toNat + 1) (BitVec.ofNat 32 (v / 2 ^ 32)) 0 else r1 }
  | .queue _ _ => { x with buf := x.buf.put l (BitVec.ofNat 32 v) }
  | _ => x

/-- Writes a result for an owner: to its registers, or through the context map to its save record (R47, R333). -/
def writeOwned (s : State) (o : Owner) (l : Nat) (p : Pos) (d : Operand) (v : Nat) : State :=
  match o, d with
  | .warp c k, .wreg r => writeWreg s c k p r.toNat v
  | .warp c k, d => writeDst s c k l p d v
  | .control c, d => writeDst s c ctrlSlot l p d v
  | .stream c k, d => s.modStream c k (fun x => x.take l p d v)
  | .savedStream g _ _, d => s.modSavedStream g (fun x => x.take l p d v)
  | .saved g q _ _, .main r =>
    match s.wgs.at? g with
    | some x => match s.launches.at? x.launch, x.saved with
      | some y, some sv =>
        let base := savedRegs sv q
        (List.range (posSpan p)).foldl (fun s i =>
          vaWrite s y.ctx (base + ((r.toNat + i) * 32 + l) * 4) 4 (v / 2 ^ (32 * i))) s
      | _, _ => s
    | none => s
  | .saved g q _ _, .opf r =>
    s.modSaved g q (fun w => { w with opf := (List.range (posSpan p)).foldl (fun m i =>
      m.putD (32 * (r.toNat + i) + l) (BitVec.ofNat 32 (v / 2 ^ (32 * i))) 0) w.opf })
  | .saved g q _ _, .wreg r =>
    s.modSaved g q (fun w =>
      let r1 := w.wreg.putD r.toNat (BitVec.ofNat 32 v) 0
      { w with wreg := if p == .w64 then r1.putD (r.toNat + 1) (BitVec.ofNat 32 (v / 2 ^ 32)) 0 else r1 })
  | .saved g q _ _, .special _ =>
    s.modSaved g q (fun w => { w with lanes := w.lanes.put l { w.lanes.atD l Lane.never with sp := BitVec.ofNat 64 v } })
  | .saved _ _ _ _, _ => s

/-- The destination that an access writes: none where a warp-uniform register is another lane's to write (R180), which bit 254 of its
data marks. -/
def LaneAcc.dest (a : LaneAcc) (d : Operand) : Operand :=
  match d with
  | .wreg r => if a.data.getLsbD 254 then .imm 0 else .wreg r
  | d => d

/-- Sets a bit of the owner's member-lost status, which its launch's done word will tell (R122, R149). -/
def setLost (s : State) (o : Owner) (pkg : Nat) : State :=
  let f (w : Warp) : Warp := { w with lostmask := w.lostmask ||| (1#16 <<< pkg) }
  let note (s : State) (id : Nat) : State := s.modLaunch id (fun x => { x with lost := true })
  match o with
  | .warp c k => match s.warp? c k with
    | some w => note (s.modWarp c k f) w.launch
    | none => s
  | .saved g p _ _ => match s.wgs.at? g with
    | some x => note (s.modSaved g p f) x.launch
    | none => s
  | _ => s

/-- The owner of an engine command's member-lost status: its warp, resident or saved. -/
def warpOwner (s : State) (wg warpid : Nat) : Owner :=
  match (wgWarps s wg).find? (fun e => e.2.2.warpid = warpid) with
  | some (c, k, _) => .warp c k
  | none => .saved wg warpid 0 0

/-! ## Order of an operation (R81, R84) -/

/-- An operation that writes. -/
def OpBody.writes : OpBody → Bool
  | .load _ _ _ => false
  | .pop => false
  | .cwb => false
  | .cinv => false
  | _ => true

/-- The bytes an access covers: a number for the space, the first byte and the count. -/
def accRange (o : MemOp) (a : LaneAcc) : Nat × Nat × Nat :=
  let n := o.width
  let line (x : Nat) : Nat := if n = 128 then x / 128 * 128 else x
  match a.place with
  | .mem pa => (0, line pa, n)
  | .side pa => (0, line pa, n)
  | .store c off => (1 + c, off, n)
  | .peer q pa => (1000 + q, line pa, n)
  | .debug c off => (2000 + c, off, n)

def overlaps (x y : Nat × Nat × Nat) : Bool :=
  x.1 = y.1 && x.2.1 < y.2.1 + y.2.2 && y.2.1 < x.2.1 + x.2.2

/-- Lanes and streams that waited for earlier accesses try again, and so do fetches for which no request could be sent (R108). -/
def wakeDrain (s : State) (c : Nat) : State :=
  s.modCore c (fun x =>
    let go (w : Wait) : Wait := match w with
      | .drain => .run
      | .walk va .ifetch b => if x.fetches = [] then .run else .walk va .ifetch b
      | w => w
    { x with
      warps := x.warps.mapV (fun _ w => { w with lanes := w.lanes.mapV (fun _ l => { l with wait := go l.wait }) })
      streams := x.streams.mapV (fun _ t => { t with wait := go t.wait })
      ctrl := { x.ctrl with wait := go x.ctrl.wait } })

/-- After an operation of a core has moved on: finished operations lower their flags, waiters try again, and a warp that has
no lane left may end (R14, R130, R210). -/
def settleOps (s : State) (c : Nat) : State :=
  let s1 := wakeDrain (sweepOps s) c
  let gone := (s1.core c).warps.filterV (fun _ w => w.present = [])
  gone.foldl (fun s (e : Nat × Warp) => settleWarp s c e.1) s1

/-- A lane of an operation is done. -/
def dropAcc (s : State) (id l : Nat) : State :=
  s.modOp id (fun o => { o with lanes := o.lanes.filter (fun a => a.lane != l) })

/-! ## Atomic arithmetic (R111, R245) -/

/-- `round_rne_T(a + b)` and the minimum and maximum of the float atomics (R245). -/
def floatAtom (F : Flt) (op : AtomOp) (a b : Nat) : Nat :=
  match op with
  | .fadd => F.add .rne a b
  | .fmin => F.pickP false a b
  | _ => F.pickP true a b

/-- The new value of an atomic, and its predicate; `b` is the operand and `n` the new value of a `cas`. -/
def atomNew (op : AtomOp) (t : Ty) (old b n : Nat) : Nat × Bool :=
  match op with
  | .add => ((old + b) % 2 ^ t.bits, true)
  | .min => (if intVal t b < intVal t old then b % 2 ^ t.bits else old, true)
  | .max => (if intVal t old < intVal t b then b % 2 ^ t.bits else old, true)
  | .and => (old &&& b % 2 ^ t.bits, true)
  | .or => (old ||| b % 2 ^ t.bits, true)
  | .xor => (old ^^^ b % 2 ^ t.bits, true)
  | .exch => (b % 2 ^ t.bits, true)
  | .cas => (if old = b % 2 ^ t.bits then n % 2 ^ t.bits else old, true)
  | .inc => (if old < b then old + 1 else old, decide (old < b))
  | .dec => (if 0 < old then old - 1 else old, decide (0 < old))
  | .fadd | .fmin | .fmax => (floatAtom (Flt.ofTy t) op old (b % 2 ^ t.bits), true)

/-- The operation is one that lanes of a peer access combine (R110). -/
def combines (op : AtomOp) (t : Ty) : Bool :=
  match op with
  | .add | .min | .max | .and | .or | .xor => t.bits = 32 || t.bits = 64
  | .fadd | .fmin | .fmax => t == .f32
  | _ => false

def atomCode : AtomOp → Nat
  | .add => 0 | .min => 1 | .max => 2 | .and => 3 | .or => 4 | .xor => 5 | .exch => 6 | .cas => 7 | .inc => 8 | .dec => 9
  | .fadd => 10 | .fmin => 11 | .fmax => 12
def atomOfCode (n : Nat) : AtomOp :=
  match n with
  | 0 => .add | 1 => .min | 2 => .max | 3 => .and | 4 => .or | 5 => .xor | 6 => .exch | 7 => .cas | 8 => .inc | 9 => .dec
  | 10 => .fadd | 11 => .fmin | _ => .fmax

/-! ## Performing an access here (R79, R88) -/

/-- The operation is performed at the home slice because of its order and scope (R79). -/
def atHome (s : State) (o : MemOp) : Bool :=
  o.order != .plain && (match o.scope with
    | .wp => false
    | .wg => (boardWg s (o.owner.wg s)).isSome
    | _ => true)

/-- The place of an atomic on a general local page is the core's level 1 (R88). On a page whose retention hint is bypass, which fills no
level, it is so only where level 1 holds the line (R57, R60, log 111). -/
def atomL1 (s : State) (o : MemOp) (a : LaneAcc) : Bool :=
  let c := o.owner.core
  l1Sets (s.core c) != 0 && (match o.scope with | .pkg | .span => false | _ => true) &&
    (boardWg s (o.owner.wg s)).isNone && !a.sw && (match o.owner with | .stream _ _ => false | _ => true) &&
    (a.hint != .bypass || (match a.place with | .mem pa => (l1Find s c (localKey pa)).isSome | _ => false))

/-- Engine and control-core accesses do not go through level 1's write-allocate path of a warp (R265); a stream's are
performed at the home slice. -/
def byEngine (o : MemOp) : Bool := match o.owner with | .stream _ _ => true | .savedStream _ _ _ => true | _ => false

/-- Enters a warp among those that have written a shared-write line in the course (R100). -/
def addWriter (s : State) (e : Nat × Nat × Nat) : State :=
  if s.rep.writers.contains e then s else { s with rep := { s.rep with writers := e :: s.rep.writers } }

/-- Notes a write to a shared-write line of a reproducible launch (R100). -/
def noteWriter (s : State) (o : MemOp) (a : LaneAcc) : State :=
  if !a.sw then s
  else match o.owner.warpId s, accRange o a with
    | some w, (_, pa, _) => addWriter s (match a.place with | .peer q _ => peerKey q pa | _ => pa / 128, w.1, w.2)
    | none, _ => s

/-- Reads the n bytes of a load at its place (R79). -/
def loadAt (s : State) (o : MemOp) (a : LaneAcc) : State × Nat :=
  let c := o.owner.core
  let n := o.width
  match a.place with
  | .mem pa =>
    if byEngine o then (l2Touch s pa a.hint, Mem.rd s.mem pa n)
    else if atHome s o then loadHome s c pa n a.hint else loadLocal s c pa n a.hint
  | .side pa => (s, Mem.rd s.mem pa n)
  | .store d off => (s, Mem.rd (s.core d).store off n)
  | .debug d off => (s, debugRead s d off n)
  | .peer q pa => match l1Find s c (peerKey q pa) with
    | some l => (s, lineNat l.data (pa % 128) n)
    | none => (s, 0)

/-- Writes n bytes of a store at its place (R79). -/
def storeAt (s : State) (o : MemOp) (a : LaneAcc) (n v : Nat) : State :=
  let c := o.owner.core
  match a.place with
  | .mem pa =>
    if byEngine o then l2Write (s.wrMem pa n v) pa n a.hint
    else if atHome s o then l1Update (l2Write (s.wrMem pa n v) pa n a.hint) c (localKey pa) (pa % 128) n v false
    else storeLocal s c pa n v a.hint
  | .side pa => s.wrMem pa n v
  | .store d off => s.wrStore d off n v
  | .debug d off => debugWrite s d off n v
  | .peer _ _ => s

/-- Level 1 lacks bytes of an access, so that it goes on to the home slice (R79). -/
def reachesL2 (s : State) (c pa n : Nat) : Bool :=
  match l1Find s c (localKey pa) with
  | some l => l.valid &&& byteMask (pa % 128) (min n 128) != byteMask (pa % 128) (min n 128)
  | none => true

/-- The read-modify-write of an atomic at its place (R88, R89). Answers the old value and the predicate. -/
def atomAt (s : State) (o : MemOp) (a : LaneAcc) (op : AtomOp) (t : Ty) : State × Nat × Bool :=
  let c := o.owner.core
  let n := o.width
  let b := bitsOf a.data.toNat 0 64
  let nv := bitsOf a.data.toNat 64 64
  match a.place with
  | .mem pa =>
    let k := localKey pa
    if atomL1 s o a then
      let s1 := l1Fill (if reachesL2 s c pa n then l2Touch s pa a.hint else s) c k (memLine s k) a.hint
      let old := match l1Find s1 c k with | some l => lineNat l.data (pa % 128) n | none => Mem.rd s1.mem pa n
      let r := atomNew op t old b nv
      (l1Update s1 c k (pa % 128) n r.1 true, old, r.2)
    else
      let s1 := dropLines s c (fun l => l.line = k)
      let old := Mem.rd s1.mem pa n
      let r := atomNew op t old b nv
      let s2 := l2Write (s1.wrMem pa n r.1) pa n a.hint
      (if o.order.releases && atHome s o then s2 else markDirty s2 c [pa / 32], old, r.2)
  | .side pa =>
    let old := Mem.rd s.mem pa n
    let r := atomNew op t old b nv
    (s.wrMem pa n r.1, old, r.2)
  | .store d off =>
    let old := Mem.rd (s.core d).store off n
    let r := atomNew op t old b nv
    (s.wrStore d off n r.1, old, r.2)
  | _ => (s, 0, false)

/-- What an access does at the home slice of its line, where an engine's ownership may hold it (R71): nothing, a read, or a write. -/
def homeUse (s : State) (o : MemOp) (a : LaneAcc) (pa : Nat) : Option Bool :=
  let c := o.owner.core
  let away := reachesL2 s c pa o.width
  match o.body with
  | .load _ _ _ =>
    if !byEngine o && atHome s o then some (match l1Find s c (localKey pa) with | some l => l.written != 0 | none => false)
    else if byEngine o || away then some false else none
  | .pop => if away then some false else none
  | .store | .push => if atHome s o || l1Sets (s.core c) = 0 || a.hint == .bypass then some true else none
  | .zline => if l1Sets (s.core c) = 0 || a.hint == .bypass then some true else none
  | .atomic _ _ _ _ => if atomL1 s o a then (if away then some false else none) else some true
  | .cwb | .cinv => match l1Find s c (localKey pa) with
    | some l => if l.written != 0 then some true else none
    | none => none
  | .multicast => none

/-- A fetch that a lost package answers with zero sets the member-lost status of the warp (R96, R122). -/
def noteFetch (s : State) (c k : Nat) (pc : DWord) : State :=
  match fetchLost s c (s.ctxOf c k) pc with
  | some q => setLost s (.warp c k) q
  | none => s

/-- The same for each of a warp's targets. -/
def noteFetches (s : State) (c k : Nat) (pcs : List DWord) : State := pcs.foldl (fun s pc => noteFetch s c k pc) s

/-- The line that a lane has asked a peer package for, to execute it (R174). -/
def Wait.fetching : Wait → Option DWord
  | .walk va .ifetch _ => some va
  | _ => none

/-- An access of an operation may be performed now: earlier accesses of its warp to the same bytes are (R81), a lower lane's
write to them is, no engine holds the line (R71), what a release must send home is there (R76), and for a peer line R93 and R108 allow it
to be sent. -/
def accReady (s : State) (id : Nat) (o : MemOp) (a : LaneAcc) : Bool :=
  let mine (p : MemOp) : Bool := p.owner == o.owner
  let r := accRange o a
  let earlier := s.ops.anyV (fun j p => j < id && mine p && p.lanes.any (fun b => overlaps r (accRange p b)))
  let lower := o.body.writes && o.lanes.any (fun b => b.lane < a.lane && overlaps r (accRange o b) && !(peerLine a).isSome)
  let late := o.order.releases && atHome s o && o.body != .multicast && !(peerLine a).isSome && (wbHeld s o.owner.core || (o.scope == .span && peerOwed { s with
    ops := s.ops.filterV (fun j _ => j < id) } o.owner.core))
  !earlier && !lower && !late && !(a.sent && o.body != .pop) &&
    (match a.place with
    | .mem pa =>
      if o.body == .multicast then
        -- What a peer package receives keeps its place among the warp's accesses to the line there, whichever package it is (R81, R93).
        let clash := s.ops.anyV (fun j p => j < id && mine p && p.lanes.any (fun b => match b.place with
          | .peer _ q => q / 128 = pa / 128
          | .mem q => p.body == .multicast && q / 128 = pa / 128
          | _ => false))
        let e := groupEntry s (bitsOf a.data.toNat 64 16)
        !clash && !(e.extractLsb' 18 2 == 3#2 && (lineHeld s pa true || ownHeld s o.owner.core pa)) &&
          decide (peerRequests s o.owner.core + (egress e).length ≤ 256)
      else if byEngine o then !(o.order.acquires && wbHeld s o.owner.core)
      else (match homeUse s o a pa with
        | some write => !lineHeld s pa write && !ownHeld s o.owner.core pa
        | none => true)
    | .peer _ _ =>
      let same (b : LaneAcc) : Bool := peerLine b == peerLine a
      let copies (p : MemOp) (b : LaneAcc) : Bool := p.body == .multicast && (match b.place with
        | .mem q => (peerLine a).any (fun e => e.2 = q / 128)
        | _ => false)
      let clash := s.ops.anyV (fun j p => j < id && mine p && (o.body.writes || p.body.writes) &&
        p.lanes.any (fun b => same b || copies p b))
      let sentHere := o.lanes.any (fun b => same b && b.sent)
      let order := match o.body with
        | .atomic op t _ _ => o.lanes.any (fun b => b.lane < a.lane && same b && !(combines op t && b.place == a.place))
        | _ => false
      !clash && !sentHere && !order && decide (peerRequests s o.owner.core < 256)
    | _ => true)

/-! ## Completion of a lane -/

/-- The destination position of a load. -/
def loadPos (o : MemOp) (t : Ty) : Pos := if o.width = 16 then .w128 else t.pos

/-- The spin detector sees what an access wrote to a register file, or with no destination to a predicate (R159). -/
def noteOwned (s : State) (o : Owner) (d : Option Operand) (v : Nat) : State :=
  match o with
  | .warp c k => noteWrites s c k (match d with | some d => spinValues (some (d, .w32)) false [(0, v, false)] | none => [v])
  | _ => s

/-- The control core's lane goes on once its access is done (R326). -/
def ownerGoesOn (s : State) (o : MemOp) : State :=
  match o.owner with
  | .control c => passOn s c ctrlSlot [0]
  | _ => s

/-- A load's lane is done: its destination is written and an acquire acts (R76, R236). -/
def finishLoad (s : State) (id : Nat) (o : MemOp) (a : LaneAcc) (v : Nat) : State :=
  match o.body with
  | .load d t _ =>
    let x := if o.width = 16 then v else extT t v
    let s1 := noteOwned (writeOwned s o.owner a.lane (loadPos o t) (a.dest d) x) o.owner (some d) x
    -- A stream reads at the home slices, so its acquire sends home what the core's warps have stored (R86, R265).
    let s0 := if o.order.acquires && byEngine o then writeBackAll s1 o.owner.core else s1
    let s2 := if o.order.acquires then acquire s0 o.owner.core (o.owner.wg s0) o.scope else s0
    ownerGoesOn (dropAcc s2 id a.lane) o
  | _ => dropAcc s id a.lane

/-- An atomic's lane is done: its destination and predicate are written (R245). -/
def finishAtomic (s : State) (id : Nat) (o : MemOp) (a : LaneAcc) (old : Nat) (ok : Bool) : State :=
  match o.body with
  | .atomic op t d p =>
    let s1 := match d with | some d => noteOwned (writeOwned s o.owner a.lane t.pos (a.dest d) (extT t old)) o.owner (some d) (extT t old) | none => s
    let s2 := match op with
      | .inc | .dec => noteOwned (modOwnedLane s1 o.owner a.lane (fun y => y.setPred p.toNat ok)) o.owner none ok.toNat
      | _ => s1
    let s3 := if o.order.acquires then acquire s2 o.owner.core (o.owner.wg s2) o.scope else s2
    ownerGoesOn (dropAcc s3 id a.lane) o
  | _ => dropAcc s id a.lane

/-- A lane of a transfer goes to its target (R207); its latches no longer belong to the line (R129). -/
def landAt (s : State) (o : Owner) (l : Nat) (sp : DWord) (pc : DWord) : State :=
  let s1 := modOwnedLane s o l (fun y => { y with sp := sp, pc := pc, wait := .run })
  match o with
  | .warp c k => s1.modWarp c k (fun w => { w with lat := w.lat.filterV (fun i _ => i % 32 != l) })
  | .saved g p _ _ => s1.modSaved g p (fun w => { w with lat := w.lat.filterV (fun i _ => i % 32 != l) })
  | _ => s1

/-- The stack address a push or pop uses is kept in data bits [191:128]. -/
def accAddr (a : LaneAcc) : DWord := a.data.extractLsb' 128 64

/-- A push's lane is done: it has stored its return address and transfers (R207). -/
def finishPush (s : State) (id : Nat) (o : MemOp) (a : LaneAcc) : State :=
  dropAcc (landAt s o.owner a.lane (accAddr a) (a.data.extractLsb' 64 64)) id a.lane

/-- A store's lane is done. -/
def finishStore (s : State) (id : Nat) (o : MemOp) (a : LaneAcc) : State := ownerGoesOn (dropAcc s id a.lane) o

/-! ## Stopping at an instruction (R237) -/

/-- A warp keeps a stopped instruction: its issuing set, the lanes done, the operation that holds the others' accesses, and of a return the
lanes whose pops have faulted. -/
def stopAt (s : State) (c k : Nat) (pc : DWord) (set done : Word) (op : Nat) (faulted : Word) : State :=
  s.modWarp c k (fun w => { w with stopped := some { pc := pc, set := set, done := done, op := op, faulted := faulted } })

/-- The lanes of a multi-lane fault join or start one record for each granule, and park on it (R36). Each entry is a lane, its
address and its cause; `n` bounds the granules. -/
def parkFaults (s : State) (c k : Nat) (kind : AccKind) (write : Bool) : Nat → List (Nat × Nat × Nat) → State
  | 0, _ => s
  | _, [] => s
  | n + 1, (l, va, cause) :: t =>
    let lanes := l :: (t.filter (fun e => e.2.1 / 65536 = va / 65536)).map Prod.fst
    let r := joinFault s (BitVec.ofNat 64 va) (s.ctxOf c k) c cause kind write (maskOf lanes)
    parkFaults (parkAll r.1 c k lanes (.fault r.2 kind)) c k kind write n (t.filter (fun e => e.2.1 / 65536 != va / 65536))

end Sys2Proof.Machine
end

