-- ==== Sys2Proof/Machine/MemIssue.lean ====
section
/-! DEFINITION. Issuing a memory instruction: the checks before any lane is sent (R19, R237, R329), translation lane by lane
(R35, R101), the right-of-way rule (R100), and the operation in flight that results (R14, R236). -/

namespace Sys2Proof.Machine

/-- What a memory form does (R239, R244). -/
structure MemForm where
  instr : Instr
  ops : List (Operand × Pos)
  /-- The register a latch follows (R50). -/
  dst : Option (Operand × Pos)
  kind : AccKind
  write : Bool
  /-- A form that the self window refuses (R22). -/
  odd : Bool
  width : Nat
  align : Nat
  /-- The form acts on the whole 128-byte line of its address (R239). -/
  whole : Bool
  addr : State → Env → Nat → Int
  /-- The address is an offset into the core's scratchpad partition (R241). -/
  scratch : Bool
  data : State → Env → Nat → Nat
  /-- A lane's operands take the misaligned-access trap for a reason other than its address (R242). -/
  bad : State → Env → Nat → Bool
  body : OpBody
  ty : Ty
  hint : Hint
  scope : Scope
  order : Order
  fs : FlagSel

/-- A form whose lanes wait for their own access (R207, R326). -/
def OpBody.sync : OpBody → Bool
  | .push => true
  | .pop => true
  | _ => false

/-- The stopped instruction at a program counter. -/
def stoppedAt (s : State) (c k : Nat) (pc : DWord) : Option Stopped :=
  match s.warp? c k with
  | some w => match w.stopped with | some y => if y.pc = pc then some y else none | none => none
  | none => none

/-- An access of w bytes touches an enabled watchpoint for its kind (R329). -/
def watchHit (s : State) (c : Nat) (b : OpBody) (va w : Nat) : Bool :=
  let bit : Option Nat := match b with
    | .load _ _ _ | .pop => some 2
    | .cwb | .cinv => none
    | _ => some 1
  match bit with
  | none => false
  | some n => [0, 1].any (fun i =>
      let ctl := (s.core c).watch.atD (0x14 + i) 0
      let size := 2 ^ Nat.min 20 (bitsOf ctl.toNat 3 5)
      let a := ((s.core c).watch.atD (0x10 + 2 * i) 0).toNat + 2 ^ 32 * ((s.core c).watch.atD (0x11 + 2 * i) 0).toNat
      ctl.getLsbD 0 && ctl.getLsbD n && decide (va < a / size * size + size) && decide (a / size * size < va + w))

/-- The virtual address of a core's scratchpad in the cluster window (R20, R23), by which a watchpoint knows the bytes that a scratchpad
form reaches (R329, log 112). -/
def scratchBase (c : Nat) : Int := 0xF000001000000 + c % 4 * 2 ^ 20

/-- Resolves one lane's address (R19 to R28, R241, R242). Helper lanes, the control core and reproducible launches walk at
once. -/
def memResolve (m : MemForm) (s : State) (e : Env) (now : Bool) (l : Nat) : State × Res :=
  let a := m.addr s e l
  if m.scratch then
    let part := (s.core e.core).part
    (s, if a < 0 || (spSize part : Int) < a + m.width then .fault XCause.window
        else .ok (.store e.core (spBase part + a.toNat)) 0)
  else
    let va := truncN 64 a
    let w := whoOf s e.core e.slot
    let q : Access := { kind := m.kind, write := m.write, odd := m.odd, width := m.width }
    let x := if m.whole then va / 128 * 128 else va
    let r := if now then resolveNow s w q x else (s, resolve s w q x)
    match m.body, r.2 with
    | .multicast, .ok (.mem p) leaf => (r.1, .ok (.mem p) leaf)
    | .multicast, .ok (.store _ _) _ => (r.1, .fault XCause.window)
    | .multicast, .ok _ _ => (r.1, .fault XCause.attribute)
    | _, x => (r.1, x)

/-- A trap that the checks before translation raise: its cause, lanes and address (R237). Of the lanes `ex` that execute the form, `act` are
launched; a helper lane raises none but that of a watchpoint, by a load that it performs (R101, R329). -/
def memCheck (m : MemForm) (s : State) (e : Env) (ex act : List Nat) : Option (Nat × List Nat × Nat) :=
  let off := act.filter (fun l => m.addr s e l % (m.align : Int) != 0 || m.bad s e l)
  let reads (l : Nat) : Bool := act.contains l || ((match m.body with | .load _ _ _ => true | _ => false) &&
    m.addr s e l % (m.align : Int) = 0 && (match (memResolve m s e true l).2 with | .ok _ _ => true | _ => false))
  let watch := if e.slot = ctrlSlot then [] else (ex.filter reads).filter (fun l =>
    let va := truncN 64 (m.addr s e l)
    if m.scratch then watchHit s e.core m.body (truncN 64 (scratchBase e.core + m.addr s e l)) m.width
    else watchHit s e.core m.body (if m.whole then va / 128 * 128 else va) m.width)
  let first (ls : List Nat) : Nat := truncN 64 (m.addr s e (ls.headD 0))
  if off != [] then some (Cause.misaligned, off, first off)
  else if watch != [] then some (Cause.breakpoint, watch, first watch)
  else none

/-- Resolves each lane. -/
def memResolveAll (m : MemForm) (e : Env) : State → List (Nat × Bool) → State × List (Nat × Res)
  | s, [] => (s, [])
  | s, (l, now) :: t =>
    let r := memResolve m s e now l
    let u := memResolveAll m e r.1 t
    (u.1, (l, r.2) :: u.2)

/-- The number a shared-write line goes by. -/
def swKey (p : Place) : Nat :=
  match p with | .mem pa => pa / 128 | .side pa => pa / 128 | .peer q pa => peerKey q pa | _ => 0

/-- Lanes whose access R100 forbids: a write to a shared-write line, or a load of one that another warp has written in the
course, by a warp without the token. -/
def rowLanes (m : MemForm) (s : State) (w : Warp) (rs : List (Nat × Res)) : List Nat :=
  if holdsToken s w then []
  else (rs.filter (fun r => match r.2 with
    | .ok p leaf => pteSW leaf && !m.scratch &&
        (m.body.writes || s.rep.writers.any (fun e => e.1 = swKey p && e.2 != (w.wg, w.warpid)))
    | _ => false)).map Prod.fst

/-- A place in a frame that has been retired: an access there is one to data with no clean copy (R362). -/
def frameLost (s : State) (p : Place) : Bool :=
  match p with | .mem pa | .side pa => s.rel.badLines.contains (pa / 65536) | _ => false

/-- The access meets data with no clean copy, or is one to a retired frame (R362): `cwb` and `cinv` access no data, and a multicast store
accesses this package's memory where its group's entry delivers here. -/
def meetsLost (m : MemForm) (s : State) (e : Env) (l : Nat) (p : Place) : Bool :=
  (match m.body with
    | .cwb | .cinv => false
    | .multicast => (groupEntry s (bitsOf (m.data s e l) 64 16)).extractLsb' 18 2 == 3#2
    | _ => true) && frameLost s p

/-- What becomes of a lane. -/
inductive Fate where
  | sent (a : LaneAcc)
  | walk
  | park (cause : Nat)
  | fatal (trap detail : Nat)
  /-- A helper lane's access that would fault: zero (R101). -/
  | zeroed

/-- A place in another package. -/
def Place.isPeer : Place → Bool | .peer _ _ => true | _ => false

def Fate.sent? : Fate → Option LaneAcc | .sent a => some a | _ => none
def Fate.walks : Fate → Bool | .walk => true | _ => false
def Fate.parks : Fate → Option Nat | .park n => some n | _ => none
def Fate.fatals : Fate → Option (Nat × Nat) | .fatal t d => some (t, d) | _ => none

/-- A body that returns by the stack. -/
def OpBody.pops : OpBody → Bool | .pop => true | _ => false

/-- Sorts a resolved lane (R35, R101, R362). -/
def memFate (m : MemForm) (s : State) (e : Env) (helper repro : Bool) (l : Nat) (r : Res) : Fate :=
  match r with
  | .ok p leaf =>
    if meetsLost m s e l p then (if helper then .zeroed else .fatal Cause.dataLoss 0)
    else .sent { lane := l, place := p, data := BitVec.ofNat 256 (m.data s e l), hint := effHint m.hint leaf,
                 sw := repro && pteSW leaf && !m.scratch, ms := p.isPeer && pteMS leaf, sent := false }
  | .miss => .walk
  | .fault f =>
    if helper then .zeroed
    else if replayable s m.kind f && e.slot != ctrlSlot then .park f
    else .fatal Cause.translation f

/-- A helper lane takes zero, without an access (R101, R247); `ex` are the lanes that the instruction was issued for. -/
def zeroLane (m : MemForm) (s : State) (o : Owner) (ex : List Nat) (l : Nat) : State :=
  match m.body with
  | .load d t _ => noteOwned (writeOwned s o l (if m.width = 16 then .w128 else t.pos) (laneDest d ex l) 0) o (some d) 0
  | .atomic op t d p =>
    let s1 := match d with | some d => noteOwned (writeOwned s o l t.pos (laneDest d ex l) 0) o (some d) 0 | none => s
    match op with
    | .inc | .dec => noteOwned (modOwnedLane s1 o l (fun y => y.setPred p.toNat false)) o none 0
    | _ => s1
  | _ => s

/-- Ends a stopped instruction whose lanes are all done: those held go on behind it (R237). -/
def endStopped (s : State) (c k : Nat) : State :=
  match s.warp? c k with
  | some w => match w.stopped with
    | some y =>
      let back := (maskLanes y.set).filter (fun l => (s.lane c k l).wait == .held)
      deliverOwed (sweepOps (((passOn s c k back).modWarp c k (fun w => { w with stopped := none })).modOp y.op
        (fun o => { o with more := false }))) c k
    | none => s
  | none => s

/-- Lanes of the bundle that take no part in a stopped instruction go past it, and the bundle (R237). -/
def passBy (x : Clause) (s : State) (k : Nat) (ls : List Nat) : State :=
  ls.foldl (fun s l => (s.modLane x.core k l (fun y => { y with pc := nextPc x.pc })).leave k l) s

/-- The lanes a form issues or replays for (R236, R237). -/
def issuingSet (x : Clause) (s : State) (k : Nat) (ls : List Nat) : List Nat :=
  match stoppedAt s x.core k x.pc with
  | some y => ls.filter (fun l => maskHas y.set l && !maskHas y.done l)
  | none => guardLanes s x k ls

/-- The lanes for which an instruction sends an access: of `ldu` the lowest alone (R240). -/
def accessing (i : Instr) (x : Clause) (s : State) (k : Nat) (ls : List Nat) : List Nat :=
  match i with | .ldu _ => (issuingSet x s k ls).take 1 | _ => issuingSet x s k ls

/-- The access of a lane, marked where a warp-uniform destination is not this lane's to write: of the lanes that the instruction was
issued for, the lowest writes it (R180). -/
def ownDest (m : MemForm) (set : Word) (a : LaneAcc) : LaneAcc :=
  match m.dst with
  | some (.wreg _, _) => if (maskLanes set).head? = some a.lane then a else { a with data := a.data ||| 1#256 <<< 254 }
  | _ => a

/-- The lane's load or store goes through the self window (R22). A lane that pushes or pops there waits for its own access in any case. -/
def selfLane (m : MemForm) (s : State) (e : Env) (l : Nat) : Bool :=
  !m.scratch && !m.body.sync && (match regionOf (truncN 64 (m.addr s e l)) with | .self _ => true | _ => false)

/-- The accesses of an operation through the self window are performed as it issues, loads before any write, so that they keep their
place among the register accesses of the lanes (R15, R22). -/
def selfNow (s : State) (id : Nat) (accs : List LaneAcc) : State :=
  match s.ops.at? id with
  | none => s
  | some o => (accs.map (fun a => (a, (loadAt s o a).2))).foldl (fun s e => match o.body with
      | .load _ _ _ => finishLoad s id o e.1 e.2
      | _ => finishStore (storeAt s o e.1 o.width e.1.data.toNat) id o e.1) s

/-- Issues a memory form in one warp of the bundle, or replays it for the lanes of the stopped instruction that are not done
(R236, R237). No access is performed before it issues (log 123). -/
def memWarp (m : MemForm) : WarpStep := fun x s k ls =>
  let c := x.core
  let e := x.env k
  let owner : Owner := if k = ctrlSlot then .control c else .warp c k
  let prior := stoppedAt s c k x.pc
  let ex := accessing m.instr x s k ls
  let act := launchedOf s c k ex
  let loads := match m.body with | .load _ _ _ => true | _ => false
  let done0 := match prior with | some y => y.done | none => 0
  let set := match prior with | some y => y.set | none => maskOf ex
  match memCheck m s e ex act with
  | some (cause, on, addr) =>
    raiseTrap s c k cause x.pc { lanes := maskOf on, done := done0, addr := BitVec.ofNat 64 addr }
  | none =>
    if act != [] && mustDrain s c k act m.order m.scope then
      parkAll s c k ls .drain
    else
      let repro := s.repro c k
      let isHelper (l : Nat) : Bool := !act.contains l
      let live := (if loads then ex else act).filter (fun l => m.addr s e l % (m.align : Int) = 0)
      let res := memResolveAll m e s (live.map (fun l => (l, isHelper l || repro || k = ctrlSlot)))
      let row := if repro then
          match res.1.warp? c k with
          | some w => rowLanes m res.1 w (res.2.filter (fun r => !isHelper r.1))
          | none => []
        else []
      if row != [] then
        raiseTrap res.1 c k Cause.rightOfWay x.pc
          { lanes := maskOf row, done := done0, addr := BitVec.ofNat 64 (truncN 64 (m.addr s e (row.headD 0))) }
      else
        let fates := res.2.map (fun r => (r.1, memFate m res.1 e (isHelper r.1) repro r.1 r.2))
        -- A helper lane returns by its hidden stack (R209): nothing is sent for it.
        let hidden := (if m.body.pops then ex.filter isHelper else []).map (fun l =>
          ({ lane := l, place := .debug c 0xFFFFFFFF, data := BitVec.ofNat 256 (m.data s e l + 2 ^ 200), hint := .dflt, sw := false,
             ms := false, sent := true } : LaneAcc))
        let sent := (fates.filterMap (fun f => f.2.sent?)).map (ownDest m set) ++ hidden
        let walks := (fates.filter (fun f => f.2.walks)).map Prod.fst
        let parks := fates.filterMap (fun f => f.2.parks.map (fun n => (f.1, truncN 64 (m.addr s e f.1), n)))
        let fatal := fates.filterMap (fun f => f.2.fatals.map (fun t => (f.1, t)))
        let goers := sent.map LaneAcc.lane
        let rest := ex.filter (fun l => !(goers.contains l || walks.contains l || parks.any (fun p => p.1 = l) ||
          fatal.any (fun p => p.1 = l)))
        let done := done0 ||| maskOf (goers ++ rest)
        let stops := set &&& ~~~done != 0
        -- Helper lanes with nothing to send take zero.
        let s1 := rest.foldl (fun s l => zeroLane m s owner (maskLanes set) l) res.1
        -- What leaves the package, or is performed as it issues, is released first; another release publishes when it is performed.
        let own := sent.filter (fun a => selfLane m s e a.lane)
        let away := m.body == .multicast || sent.any (fun a => a.place.isPeer) || own != []
        let s2 := if m.order.releases && away then release s1 c (owner.wg s1) m.scope else s1
        let opId := match prior with | some y => y.op | none => s2.fresh
        let flag := if k = ctrlSlot then none else flagOf x.line m.fs
        let s3 := match s2.ops.at? opId with
          | some _ => s2.modOp opId (fun o => { o with lanes := o.lanes ++ sent })
          | none =>
            if goers = [] && !stops then s2
            else
              let o : MemOp := { owner := owner, body := m.body, ty := m.ty, width := m.width, hint := m.hint, scope := m.scope, order := m.order,
                                 lanes := sent, more := stops, flag := flag }
              raiseFlag { s2.bump with ops := s2.ops.put opId o } c k flag
        let hold : Wait := if m.body.sync then .transfer else .held
        let s4 := selfNow (if stops || m.body.sync || k = ctrlSlot then parkAll s3 c k goers hold else s3) opId own
        let s5 := setLatches s4 c k x.slot ls m.dst
        if !stops then (if prior.isSome then endStopped s5 c k else s5)
        else
          let s6 := stopAt (passBy x s5 k (ls.filter (fun l => !ex.contains l) ++ rest)) c k x.pc set done opId
            ((match prior with | some y => y.faulted &&& ~~~(maskOf ex) | none => 0) |||
              maskOf (parks.map Prod.fst ++ fatal.map Prod.fst))
          -- A pop's fatal fault waits until those that come back have been checked (R208).
          let later := m.body.pops && (walks != [] || (s6.ops.at? opId).any (fun o => !o.lanes.isEmpty))
          match if later then [] else fatal with
          | (l, t, d) :: _ =>
            raiseTrap s6 c k t x.pc { lanes := maskOf (fatal.map Prod.fst), done := done, detail := d,
                                      addr := BitVec.ofNat 64 (truncN 64 (m.addr s e l)) }
          | [] =>
            let s7 := walks.foldl (fun s l =>
              park s c k l (.walk (BitVec.ofNat 64 (truncN 64 (m.addr s e l))) m.kind m.write)) s6
            parkFaults (parkAll s7 c k (fatal.map Prod.fst) .drain) c k m.kind m.write 32 parks

/-- Issues a memory form. -/
def memory (m : MemForm) (s : State) : State := issue m.instr m.ops (memWarp m) s

end Sys2Proof.Machine
end

