-- ==== Sys2Proof/Machine/MemDone.lean ====
section
/-! DEFINITION. Performing the accesses of an operation in flight, here or at a peer package (R79, R88, R93, R107 to R111, R119),
and the check that lets a return transfer (R207 to R209). -/

namespace Sys2Proof.Machine

/-! ## Tags and packets of a request (R106) -/

/-- The warp slot of an owner. -/
def Owner.slot : Owner → Nat
  | .warp _ k => k
  | .stream _ k => k
  | .control _ => ctrlSlot
  | .saved _ _ _ k => k
  | .savedStream _ _ k => k

/-- The tag of a request: source core, warp slot, and a request number made of the operation and the lane (R106, log 54). -/
def reqTag (o : Owner) (id l : Nat) : Nat := 2 ^ 47 * o.core + 2 ^ 41 * (o.slot % 64) + (id * 32 + l) % 2 ^ 41

/-- The operation and the lane of a request's tag. -/
def tagOp (t : Nat) : Nat := t % 2 ^ 41 / 32
def tagLane (t : Nat) : Nat := t % 32

/-- The number of a scope. -/
def scopeNum : Scope → Nat
  | .wp => 0
  | .wg => 1
  | .pkg => 2
  | .span => 3

/-- Header byte 3 of a load or store: scope, order and type (R106). It is plain, or has its one order at one of the four scopes, with 19
types each (log 54). -/
def accMeta (sc : Scope) (o : Order) (t : Ty) : Nat := 19 * (if o == .plain then 0 else 1 + scopeNum sc) + t.code.toNat

/-- Header byte 3 of an atomic, which has any order at any scope, and a type whose code is below 16 (R106, log 54). -/
def atomMeta (sc : Scope) (o : Order) (t : Ty) : Nat :=
  64 * (match o with | .plain => 0 | .acq => 1 | .rel => 2 | .ar => 3) + 16 * scopeNum sc + t.code.toNat

/-- Lanes of an operation on one peer line that travel together, with their place in the line. -/
def lineMates (o : MemOp) (a : LaneAcc) : List LaneAcc := o.lanes.filter (fun b => peerLine b == peerLine a && !b.sent)

/-- Marks lanes as sent. -/
def markSent (s : State) (id : Nat) (ls : List Nat) : State :=
  s.modOp id (fun o => { o with lanes := o.lanes.map (fun a => if ls.contains a.lane then { a with sent := true } else a) })

/-- Sends the request of a load: the bytes from the lowest to the highest that its lanes read, or the whole line where level 1
will hold it (R107, R109). -/
def sendLoad (s : State) (id : Nat) (o : MemOp) (a : LaneAcc) (q pa : Nat) : State :=
  let mates := lineMates o a
  let offs := mates.map (fun b => (accRange o b).2.1)
  let lo := (minOf offs).getD pa
  let hi := offs.foldl Nat.max 0 + o.width
  let ro : Bool := match o.body with | .load _ _ r => r && l1Sets (s.core o.owner.core) != 0 && a.hint != .bypass | _ => false
  let addr := if ro then pa / 128 * 128 else lo
  let len := if ro then 128 else hi - lo
  sendPacket (markSent s id (mates.map LaneAcc.lane))
    { hdr := mkHdr 0 s.fab.index q 0 (accMeta o.scope o.order o.ty) len addr (sideMark a.ms) (reqTag o.owner id a.lane), payload := [] }

/-- Sends the request of a store: the line's byte mask over its lanes, the highest lane's bytes last (R81, R107). -/
def sendStore (s : State) (id : Nat) (o : MemOp) (a : LaneAcc) (q pa : Nat) : State :=
  let mates := lineMates o a
  let lineOf (r : BitVec 128 × BitVec 1024) (b : LaneAcc) : BitVec 128 × BitVec 1024 :=
    let lo := (accRange o b).2.1 % 128
    let m := byteMask lo o.width
    let v := match o.body with | .zline => 0 | _ => b.data.toNat % 2 ^ (8 * o.width)
    (r.1 ||| m, mergeLine m (BitVec.ofNat 1024 (v * 2 ^ (8 * lo))) r.2)
  let r := mates.foldl lineOf (0, 0)
  sendPacket (markSent s id (mates.map LaneAcc.lane))
    { hdr := mkHdr 1 s.fab.index q 0 (accMeta o.scope o.order o.ty) (maskCount r.1) (pa / 128 * 128) (sideMark a.ms)
               (reqTag o.owner id a.lane)
      payload := maskPayload r.1 r.2 }

/-- Lanes of an atomic that travel in one packet: those at the same address when the operation combines (R110). -/
def atomMates (o : MemOp) (a : LaneAcc) : List LaneAcc :=
  match o.body with
  | .atomic op t _ _ => if combines op t then o.lanes.filter (fun b => b.place == a.place && !b.sent) else [a]
  | _ => [a]

/-- The operand of a lane of an atomic, and the new value of a `cas`. -/
def accB (a : LaneAcc) : Nat := bitsOf a.data.toNat 0 64
def accN (a : LaneAcc) : Nat := bitsOf a.data.toNat 64 64

/-- Sends the request of an atomic, plain or combined (R110, R111). -/
def sendAtomic (s : State) (id : Nat) (o : MemOp) (a : LaneAcc) (q pa : Nat) (op : AtomOp) (t : Ty) (returns : Bool) : State :=
  let mates := atomMates o a
  let vals := match mates.map accB with
    | v :: vs => if t == Ty.f32 then v :: vs else [vs.foldl (fun acc b => (atomNew op t acc b 0).1) v]
    | [] => []
  let many := decide (1 < mates.length)
  let body := if many then vals.flatMap (leBytes 8) else leBytes 8 (accB a) ++ leBytes 8 (accN a)
  let code := atomCode op + (if returns then 256 else 0) + 2 ^ 16 * (if many then vals.length else 1)
  sendPacket (markSent s id (mates.map LaneAcc.lane))
    { hdr := mkHdr (if many then 3 else 2) s.fab.index q 0 (atomMeta o.scope o.order t) code pa (sideMark a.ms)
               (reqTag o.owner id a.lane), payload := body }

/-! ## Returns (R207, R208, R209) -/

/-- Lanes of the stopped instruction of a warp that are not done. -/
def undone (s : State) (c k : Nat) (op : Nat) : List Nat :=
  match s.warp? c k with
  | some w => match w.stopped with
    | some y => if y.op = op then maskLanes (y.set &&& ~~~y.done) else []
    | none => []
  | none => []

/-- The pop of a lane of the stopped return has faulted. -/
def popFaulted (s : State) (c k op l : Nat) : Bool :=
  match s.warp? c k with
  | some w => match w.stopped with | some y => y.op = op && maskHas y.faulted l | none => false
  | none => false

/-- Not every pop of a return has come back and been checked, or faulted (R207). -/
def popsOwed (s : State) (c k op : Nat) : Bool :=
  (match s.ops.at? op with | some o => !o.lanes.isEmpty | none => false) ||
    (undone s c k op).any (fun l => !popFaulted s c k op l)

/-- Lanes whose pops had faulted, and which were held until the others had been checked, go on (R208). -/
def freeFaulted (s : State) (c k op : Nat) : State :=
  s.modWarp c k (fun w => { w with lanes := w.lanes.mapV (fun l x =>
    if x.wait == .drain && popFaulted s c k op l then { x with wait := .run } else x) })

/-- A pop has come back: bit 200 of its data says so. -/
def popBack (a : LaneAcc) : Bool := a.data.getLsbD 200

/-- The target a lane popped. -/
def popTarget (a : LaneAcc) : DWord := a.data.extractLsb' 0 64

/-- Lanes of a return go back to being not done, as faulted ones, waiting as given. Its operation stays for them where the warp holds the return as its
stopped instruction; else they issue it anew. -/
def unpop (s : State) (c k id : Nat) (ls : List Nat) (w : Wait) : State :=
  let kept := match s.warp? c k with | some y => (match y.stopped with | some z => z.op = id | none => false) | none => false
  let s1 := s.modOp id (fun o => { o with lanes := o.lanes.filter (fun a => !ls.contains a.lane), more := kept })
  let s2 := s1.modWarp c k (fun y => match y.stopped with
    | some z => { y with stopped := some { z with done := z.done &&& ~~~(maskOf ls), faulted := z.faulted ||| maskOf ls } }
    | none => y)
  freeFaulted (ls.foldl (fun s l => s.modLane c k l (fun y => { y with wait := w })) s2) c k id

/-- A lane of a return transfers to the target it popped: a launched lane's stack pointer moves on, a helper lane's hidden stack
loses its top (R207, R209). -/
def landReturn (s : State) (c k : Nat) (o : Owner) (a : LaneAcc) : State :=
  if (s.lane c k a.lane).kind == .helper then
    (landAt s o a.lane (s.lane c k a.lane).sp (popTarget a)).modWarp c k (fun w =>
      { w with hrs := w.hrs.put a.lane (w.hrs.atD a.lane []).tail })
  else landAt s o a.lane (accAddr a + 8) (popTarget a)

/-- Once every pop of a return has come back or faulted, its targets are checked together, and then its lanes transfer
(R207, R208). -/
def finalizePops (s : State) (id : Nat) : State :=
  match s.ops.at? id with
  | none => s
  | some o =>
    match o.body, o.owner with
    | .pop, .warp c k =>
      if (undone s c k id).any (fun l => !popFaulted s c k id l) || o.lanes.any (fun a => !popBack a) then s
      else if o.lanes = [] then freeFaulted s c k id
      else
        let pc := (s.lane c k ((o.lanes.map LaneAcc.lane).headD 0)).pc
        let kind := match fetchLine s c (s.ctxOf c k) pc with | (_, .line l) => lineKind l | _ => 0
        let r0 := checkTargets s c (s.ctxOf c k) kind (o.lanes.map (fun a => (a.lane, popTarget a)))
        let r := (noteFetches r0.1 c k (o.lanes.map popTarget), r0.2)
        let bad := (r.2.filter (fun e => e.2.2 == .bad)).map Prod.fst
        let faults := r.2.filterMap (fun e => match e.2.2 with | .fault f => some (e.1, e.2.1, f) | _ => none)
        if r.2.any (fun e => e.2.2 == .wait) then r.1
        else if bad != [] then
          let s1 := unpop r.1 c k id (o.lanes.map LaneAcc.lane) .run
          raiseTrap s1 c k Cause.controlTransfer pc { lanes := maskOf bad, done := 0 }
        else match faults with
          | (l, t, f) :: _ =>
            let all := o.lanes.map LaneAcc.lane
            if replayable r.1 .ifetch f then
              let j := joinFault r.1 (t &&& ~~~63) (r.1.ctxOf c k) c f .ifetch false (maskOf (faults.map Prod.fst))
              unpop j.1 c k id all (.fault j.2 .ifetch)
            else
              let s1 := unpop r.1 c k id all .run
              raiseTrap s1 c k Cause.translation pc { lanes := maskOf [l], detail := f, addr := t &&& ~~~63 }
          | [] => freeFaulted (o.lanes.foldl (fun s a =>
              dropAcc (landReturn s c k o.owner a) id a.lane) r.1) c k id
    | .pop, .control c =>
      match o.lanes with
      | a :: _ =>
        if !popBack a then s
        else
          let kind := match fetchLine s c (s.ctxOf c ctrlSlot) (s.lane c ctrlSlot 0).pc with | (_, .line l) => lineKind l | _ => 0
          match checkTarget s c (s.ctxOf c ctrlSlot) kind (popTarget a) with
          | (s1, .ok) => dropAcc (landAt s1 o.owner a.lane (accAddr a + 8) (popTarget a)) id a.lane
          | (s1, .wait) => s1
          | (s1, _) => haltControl s1 c
      | [] => s
    | _, _ => s

/-- Every return that waits for its targets is tried again. -/
def finalizeAll (s : State) : State := s.ops.foldl (fun (s : State) (e : Nat × MemOp) => finalizePops s e.1) s

/-! ## Performing a lane (R236) -/

/-- A pop's value has come back. -/
def popReturned (s : State) (id l v : Nat) : State :=
  s.modOp id (fun o => { o with lanes := o.lanes.map (fun a =>
    if a.lane = l then { a with data := (a.data >>> 64 <<< 64) ||| BitVec.ofNat 256 (v % 2 ^ 64 + 2 ^ 200), sent := true } else a) })

/-- A lane whose package is lost completes, a load with zero and any other with no effect (R96, R122). -/
def finishLost (s : State) (id : Nat) (o : MemOp) (a : LaneAcc) (q : Nat) : State :=
  let s1 := setLost s o.owner q
  match o.body with
  | .load _ _ _ => finishLoad s1 id o a 0
  | .atomic _ _ _ _ => finishAtomic s1 id o a 0 false
  | .push => finishPush s1 id o a
  | .pop => popReturned s1 id a.lane 0
  | _ => finishStore s1 id o a

/-- Performs one lane's access, or sends its request (R79, R107, R119). `cinv` drops a peer line held for `.ro` loads too, as R243 has it
invalidate the line, though R76 and R109 name only other ends of such a line (DESIGN CHOICE, log 132). -/
def performLane (s : State) (id : Nat) (o : MemOp) (a : LaneAcc) : State :=
  let c := o.owner.core
  let send (q pa : Nat) : State :=
    match o.body with
    | .cwb => finishStore s id o a
    | .cinv => finishStore (dropLines s c (fun l => l.line = peerKey q pa)) id o a
    | .load _ _ ro =>
      if ro && (l1Find s c (peerKey q pa)).isSome then
        let r := loadAt s o a
        finishLoad r.1 id o a r.2
      else if pkgLive s q then sendLoad s id o a q pa else finishLost s id o a q
    | b =>
      if !pkgLive s q then finishLost s id o a q
      else match b with
        | .pop => sendLoad s id o a q pa
        | .atomic op t d _ => noteWriter (sendAtomic s id o a q pa op t d.isSome) o a
        | _ => noteWriter (sendStore s id o a q pa) o a
  match o.body, a.place with
  | .multicast, .mem pa =>
    let lo := pa % 128
    let m := byteMask lo o.width
    let d : BitVec 1024 := BitVec.ofNat 1024 (a.data.toNat % 2 ^ (8 * o.width) * 2 ^ (8 * lo))
    let p : Packet := { hdr := mkHdr 6 s.fab.index s.fab.index 0 (accMeta o.scope o.order o.ty) (maskCount m) (pa / 128 * 128)
                                 (bitsOf a.data.toNat 64 16) (reqTag o.owner id a.lane)
                        payload := maskPayload m d }
    let s0 := (lostEgress s (pkGroup p)).foldl (fun s q => setLost s o.owner q) (noteWriter s o a)
    -- What is delivered here comes after the core's own bytes of the line, and its level-1 copy gives way (R81).
    let s1 := if (groupEntry s (pkGroup p)).extractLsb' 18 2 == 3#2 then dropLines s0 c (fun l => l.line = localKey pa) else s0
    let r := multicastHere s1 p (reqTag o.owner id a.lane) a.hint
    if r.2 = 0 then finishStore r.1 id o a
    else r.1.modOp id (fun o => { o with lanes := o.lanes.map (fun b =>
      if b.lane = a.lane then { b with data := BitVec.ofNat 256 r.2, sent := true } else b) })
  | _, .peer q pa => send q pa
  | .load _ _ _, _ =>
    let r := loadAt s o a
    finishLoad r.1 id o a r.2
  | .store, _ => finishStore (noteWriter (storeAt s o a o.width a.data.toNat) o a) id o a
  | .push, _ => finishPush (noteWriter (storeAt s o a o.width a.data.toNat) o a) id o a
  | .zline, _ => finishStore (noteWriter (storeAt s o a 128 0) o a) id o a
  | .atomic op t _ _, _ =>
    let r := atomAt s o a op t
    finishAtomic (noteWriter r.1 o a) id o a r.2.1 r.2.2
  | .cwb, .mem pa => finishStore (writeBackLine s c (localKey pa)) id o a
  | .cinv, .mem pa => finishStore (dropLines s c (fun l => l.line = localKey pa)) id o a
  | .cwb, _ => finishStore s id o a
  | .cinv, _ => finishStore s id o a
  | .multicast, _ => finishStore s id o a
  | .pop, _ =>
    let r := loadAt s o a
    popReturned r.1 id a.lane r.2

/-- A release that performs lanes here writes back and publishes first, its own sectors with the rest (R76, R87). -/
def releaseFirst (s : State) (id : Nat) (o : MemOp) (mask : Word) : State :=
  let c := o.owner.core
  let mine := o.lanes.filter (fun a => mask.getLsbD a.lane && !a.sent && !(peerLine a).isSome)
  if !o.order.releases || o.body == .multicast || !mine.any (fun a => accReady s id o a) then s
  else
    let own := if atHome s o then mine.flatMap (fun a => match a.place with
        | .mem pa => [pa / 32, (pa + min o.width 128 - 1) / 32]
        | _ => []) else []
    release (markDirty s c own) c (o.owner.wg s) o.scope

/-- Performs the lanes of an operation that a mask names and that may go now, ascending. -/
def performMask (s : State) (id : Nat) (mask : Word) : State :=
  match s.ops.at? id with
  | none => s
  | some o0 =>
    let s0 := releaseFirst s id o0 mask
    let s1 := (maskLanes mask).foldl (fun s l =>
      match s.ops.at? id with
      | none => s
      | some o => match o.lanes.find? (fun a => a.lane = l) with
        | none => s
        | some a => if accReady s id o a && !a.sent then performLane s id o a else s) s0
    settleOps (finalizePops s1 id) o0.owner.core

/-- A lane's load returns, or its store or atomic is performed, when the environment says so (R236). -/
def execMemoryAccessDone (op : Nat) (mask : BitVec 32) (s : State) : Result := .next (performMask s op mask)

end Sys2Proof.Machine
end

