-- ==== Sys2Proof/Machine/LoadStore.lean ====
section
/-! DEFINITION. Group 0x7: loads, stores, prefetch and the line forms (R239 to R243). -/

namespace Sys2Proof.Machine

/-- The effective address of a memory operand: pair + index × width + offset (R13). -/
def addrM (f : FmtM) (w : Nat) (s : State) (e : Env) (l : Nat) : Int :=
  truncN 64 ((readOp s e l .b64 .w64 f.addr : Int) + readOp s e l .n32 .w32 f.index * w + f.off.toInt)

/-- The pair and the offset alone (R242, R244). -/
def addrPair (f : FmtM) (s : State) (e : Env) (l : Nat) : Int :=
  truncN 64 ((readOp s e l .b64 .w64 f.addr : Int) + f.off.toInt)

/-- The offset y of the local forms (R241). -/
def localY (f : FmtM) (w : Nat) (s : State) (e : Env) (l : Nat) : Int := (readOp s e l .n32 .w32 f.index : Int) * w + f.off.toInt

/-- A stack-area address (R241). -/
def addrL (f : FmtM) (w : Nat) (s : State) (e : Env) (l : Nat) : Int :=
  truncN 64 (((s.lane e.core e.slot l).sp.toNat : Int) + localY f w s e l)

/-- Access width of a type in bytes. -/
def tyBytes (t : Ty) : Nat := t.bits / 8

/-- A load of the given width and address. -/
def loadForm (i : Instr) (f : FmtM) (w : Nat) (p : Pos) (addr : State → Env → Nat → Int) (scratch ro : Bool) : MemForm :=
  { instr := i, ops := (f.data, p) :: (if scratch then [] else [(f.addr, .w64)]) ++ [(f.index, .w32)], dst := some (f.data, p),
    kind := .load, write := false, odd := decide (8 < w), width := w, align := w, whole := false, addr := addr, scratch := scratch,
    data := fun _ _ _ => 0, bad := fun _ _ _ => false, body := .load f.data f.ty ro, ty := f.ty, hint := f.hint, scope := f.scope, order := f.order,
    fs := f.fs }

/-- A store of the given width and address. -/
def storeForm (i : Instr) (f : FmtM) (w : Nat) (p : Pos) (addr : State → Env → Nat → Int) (scratch : Bool) : MemForm :=
  { instr := i, ops := (f.data, p) :: (if scratch then [] else [(f.addr, .w64)]) ++ [(f.index, .w32)], dst := none, kind := .store,
    write := true, odd := decide (8 < w), width := w, align := w, whole := false, addr := addr, scratch := scratch,
    data := fun s e l => readOp s e l f.ty p f.data, bad := fun _ _ _ => false, body := .store, ty := f.ty, hint := f.hint, scope := f.scope,
    order := f.order, fs := f.fs }

/-- A form that acts on the whole line of its address (R239, R243). -/
def lineForm (i : Instr) (f : FmtM) (body : OpBody) (write : Bool) : MemForm :=
  { instr := i, ops := [(f.addr, .w64), (f.index, .w32)], dst := none, kind := if write then .store else .load, write := write,
    odd := true, width := 128, align := 1, whole := true, addr := addrM f 1, scratch := false, data := fun _ _ _ => 0,
    bad := fun _ _ _ => false, body := body, ty := f.ty, hint := f.hint, scope := f.scope, order := f.order, fs := f.fs }

/-- `ld` (R239). -/
def execLd (f : FmtM) (s : State) : Result :=
  .next (memory (loadForm (.ld f) f (tyBytes f.ty) f.ty.pos (addrM f (tyBytes f.ty)) false (f.mmod.getLsbD 0)) s)

/-- `st` (R239). -/
def execSt (f : FmtM) (s : State) : Result :=
  .next (memory (storeForm (.st f) f (tyBytes f.ty) f.ty.pos (addrM f (tyBytes f.ty)) false) s)

/-- `ld4` (R239). -/
def execLd4 (f : FmtM) (s : State) : Result :=
  .next (memory (loadForm (.ld4 f) f 16 .w128 (addrM f 16) false (f.mmod.getLsbD 0)) s)

/-- `st4` (R239). -/
def execSt4 (f : FmtM) (s : State) : Result := .next (memory (storeForm (.st4 f) f 16 .w128 (addrM f 16) false) s)

/-- `lds` (R241). -/
def execLds (f : FmtM) (s : State) : Result :=
  .next (memory (loadForm (.lds f) f (tyBytes f.ty) f.ty.pos (localY f (tyBytes f.ty)) true false) s)

/-- `sts` (R241). -/
def execSts (f : FmtM) (s : State) : Result :=
  .next (memory (storeForm (.sts f) f (tyBytes f.ty) f.ty.pos (localY f (tyBytes f.ty)) true) s)

/-- `lds4` (R241). -/
def execLds4 (f : FmtM) (s : State) : Result := .next (memory (loadForm (.lds4 f) f 16 .w128 (localY f 16) true false) s)

/-- `sts4` (R241). -/
def execSts4 (f : FmtM) (s : State) : Result := .next (memory (storeForm (.sts4 f) f 16 .w128 (localY f 16) true) s)

/-- `ldl` (R241). -/
def execLdl (f : FmtM) (s : State) : Result :=
  .next (memory { loadForm (.ldl f) f (tyBytes f.ty) f.ty.pos (addrL f (tyBytes f.ty)) false false with
    ops := [(f.data, f.ty.pos), (f.index, .w32)] } s)

/-- `stl` (R241). -/
def execStl (f : FmtM) (s : State) : Result :=
  .next (memory { storeForm (.stl f) f (tyBytes f.ty) f.ty.pos (addrL f (tyBytes f.ty)) false with
    ops := [(f.data, f.ty.pos), (f.index, .w32)] } s)

/-- `ldu` (R240). -/
def execLdu (f : FmtM) (s : State) : Result :=
  .next (memory (loadForm (.ldu f) f (tyBytes f.ty) f.ty.pos (addrM f (tyBytes f.ty)) false (f.mmod.getLsbD 0)) s)

/-- `stmc` (R242): INDEX names the group, and a group above 16 bits traps. -/
def execStmc (f : FmtM) (s : State) : Result :=
  let group (s : State) (e : Env) (l : Nat) : Nat := readOp s e l .n32 .w32 f.index
  .next (memory { storeForm (.stmc f) f (tyBytes f.ty) f.ty.pos (addrPair f) false with
    odd := true
    data := fun s e l => readOp s e l f.ty f.ty.pos f.data % 2 ^ 64 + 2 ^ 64 * (group s e l % 2 ^ 16)
    bad := fun s e l => decide (2 ^ 16 ≤ group s e l)
    body := .multicast } s)

/-- `zline` (R239). -/
def execZline (f : FmtM) (s : State) : Result := .next (memory (lineForm (.zline f) f .zline true) s)

/-- `cwb` (R243). -/
def execCwb (f : FmtM) (s : State) : Result := .next (memory (lineForm (.cwb f) f .cwb false) s)

/-- `cinv` (R243). -/
def execCinv (f : FmtM) (s : State) : Result := .next (memory (lineForm (.cinv f) f .cinv false) s)

/-- One prefetch of a line to level 1 or 2; what would fault, or meets data loss, is dropped, and a fill of a line that an engine owns is
held at the home slice (R35, R71, R243, R362). -/
def prefetch (s : State) (w : Who) (va : Nat) (h : Hint) (level1 : Bool) : State :=
  match resolveNow s w { kind := .prefetch, write := false, odd := true, width := 1 } va with
  | (s1, .ok (.mem pa) leaf) =>
    let h2 := effHint h leaf
    if s1.rel.badLines.contains (pa / 65536) || h2 == .bypass then s1
    else fillFor s1 { core := w.core, pa := pa, hint := h2, level1 := level1 }
  | (s1, _) => s1

/-- `pf` (R243). -/
def execPf (f : FmtM) (s : State) : Result :=
  .next (issue (.pf f) [(f.addr, .w64), (f.index, .w32)] (fun x s k ls =>
    (launchedOf s x.core k (guardLanes s x k ls)).foldl (fun s l =>
      prefetch s (whoOf s x.core k) (addrM f 1 s (x.env k) l).toNat f.hint (!f.mmod.getLsbD 0)) s) s)

end Sys2Proof.Machine
end

