-- ==== Sys2Proof/Machine/Atomic.lean ====
section
/-! DEFINITION. Group 0x8: atomics and reductions (R244 to R247). -/

namespace Sys2Proof.Machine

/-- The operation of an integer form, from MMOD[3:0] (R244). -/
def intAtom (f : FmtM) : AtomOp := atomOfCode (bitsOf f.mmod.toNat 0 4)

/-- The operation of a float form (R244). -/
def floatAtomOf (f : FmtM) : AtomOp :=
  match bitsOf f.mmod.toNat 0 4 with | 0 => .fadd | 1 => .fmin | _ => .fmax

/-- An atomic: its operand field and position, and its destination. Scratchpad forms address by the offset alone (R244). -/
def atomForm (i : Instr) (f : FmtM) (op : AtomOp) (b : Operand) (bp : Pos) (dst : Option Operand) (scratch : Bool)
    (val : Nat → Nat) : MemForm :=
  { instr := i
    ops := (if scratch then [] else [(f.addr, .w64)]) ++ [(b, bp)] ++ (match dst with | some d => [(d, f.ty.pos)] | none => [])
    dst := dst.map (fun d => (d, f.ty.pos)), kind := .atomic, write := true, odd := true, width := tyBytes f.ty, align := tyBytes f.ty,
    whole := false, addr := if scratch then fun _ _ _ => f.off.toInt else addrPair f, scratch := scratch
    data := fun s e l => val (readOp s e l f.ty bp b)
    bad := fun _ _ _ => false, body := .atomic op f.ty dst (f.mmod.extractLsb' 6 3), ty := f.ty, hint := f.hint, scope := f.scope, order := f.order
    fs := f.fs }

/-- The comparand and the new value of a `cas`, as the operand and its second half. -/
def casVal (t : Ty) (v : Nat) : Nat := v % 2 ^ t.bits + 2 ^ 64 * (v / 2 ^ t.bits % 2 ^ t.bits)

/-- Operand position of a `cas`: a pair, or a quadruple for b64. -/
def casPos (t : Ty) : Pos := if t.bits = 64 then .w128 else .w64

/-- The value of an operand of the type's width. -/
def atomVal (t : Ty) (v : Nat) : Nat := v % 2 ^ t.bits

/-- `atom` (R244). -/
def execAtom (f : FmtM) (s : State) : Result :=
  .next (memory (atomForm (.atom f) f (intAtom f) f.index f.ty.pos (some f.data) false (atomVal f.ty)) s)

/-- `cas` (R244). -/
def execCas (f : FmtM) (s : State) : Result :=
  .next (memory (atomForm (.cas f) f .cas f.index (casPos f.ty) (some f.data) false (casVal f.ty)) s)

/-- `red` (R244). -/
def execRed (f : FmtM) (s : State) : Result :=
  .next (memory (atomForm (.red f) f (intAtom f) f.data f.ty.pos none false (atomVal f.ty)) s)

/-- `fatom` (R244). -/
def execFatom (f : FmtM) (s : State) : Result :=
  .next (memory (atomForm (.fatom f) f (floatAtomOf f) f.index f.ty.pos (some f.data) false (atomVal f.ty)) s)

/-- `fred` (R244). -/
def execFred (f : FmtM) (s : State) : Result :=
  .next (memory (atomForm (.fred f) f (floatAtomOf f) f.data f.ty.pos none false (atomVal f.ty)) s)

/-- `atominc` (R245). -/
def execAtominc (f : FmtM) (s : State) : Result :=
  .next (memory (atomForm (.atominc f) f .inc f.index f.ty.pos (some f.data) false (atomVal f.ty)) s)

/-- `atomdec` (R245). -/
def execAtomdec (f : FmtM) (s : State) : Result :=
  .next (memory (atomForm (.atomdec f) f .dec (.imm 0) .w32 (some f.data) false (fun _ => 0)) s)

/-- `atoms` (R244). -/
def execAtoms (f : FmtM) (s : State) : Result :=
  .next (memory (atomForm (.atoms f) f (intAtom f) f.index f.ty.pos (some f.data) true (atomVal f.ty)) s)

/-- `cass` (R244). -/
def execCass (f : FmtM) (s : State) : Result :=
  .next (memory (atomForm (.cass f) f .cas f.index (casPos f.ty) (some f.data) true (casVal f.ty)) s)

/-- `reds` (R244). -/
def execReds (f : FmtM) (s : State) : Result :=
  .next (memory (atomForm (.reds f) f (intAtom f) f.data f.ty.pos none true (atomVal f.ty)) s)

/-- `fatoms` (R244). -/
def execFatoms (f : FmtM) (s : State) : Result :=
  .next (memory (atomForm (.fatoms f) f (floatAtomOf f) f.index f.ty.pos (some f.data) true (atomVal f.ty)) s)

/-- `freds` (R244). -/
def execFreds (f : FmtM) (s : State) : Result :=
  .next (memory (atomForm (.freds f) f (floatAtomOf f) f.data f.ty.pos none true (atomVal f.ty)) s)

end Sys2Proof.Machine
end

