-- ==== Sys2Proof/Machine/Fp.lean ====
section
/-! DEFINITION. Groups 0x3 and 0x4: FP32, FP16, BF16 and FP64 (R217 to R221). -/

namespace Sys2Proof.Machine

/-- The two elements of a packed operand; an immediate fills both (R217). -/
def halves (o : Operand) (v : Nat) : Nat × Nat :=
  match o with
  | .imm _ => (v % 65536, v % 65536)
  | _ => (v % 65536, v / 65536 % 65536)

def isPacked (t : Ty) : Bool := t == .f16 || t == .bf16

/-- A form of the types f32, f64, or f16 and bf16 packed: the operation applies to each element (R217, R218). -/
def Arith.flt (f : FmtA) (os : List Operand) (g : Flt → List Nat → Nat) : Arith :=
  { srcs := os.map (fun o => (o, f.ty.pos, f.ty)), dst := some (f.d, f.ty.pos), pw := none,
    f := fun _ v =>
      let F := Flt.ofTy f.ty
      (if isPacked f.ty then
        let hs := (os.zip v).map (fun e => halves e.1 e.2)
        g F (hs.map Prod.fst) + 65536 * g F (hs.map Prod.snd)
      else g F v, false) }

/-- A form of one element per operand with its own destination (R219, R220). -/
def Arith.scalar (f : FmtA) (os : List Operand) (d : Option (Operand × Pos)) (g : Flt → List Nat → Nat) : Arith :=
  { srcs := os.map (fun o => (o, f.ty.pos, f.ty)), dst := d, pw := none, f := fun _ v => (g (Flt.ofTy f.ty) v, false) }

/-- A comparison, whose outcome goes through PW (R219). -/
def Arith.fcmp (f : FmtA) : Arith :=
  { srcs := [(f.a, f.ty.pos, f.ty), (f.b, f.ty.pos, f.ty)], dst := none, pw := some f.pw,
    f := fun _ v => (0, (Flt.ofTy f.ty).cmp f.opm.toNat (nth v 0) (nth v 1)) }

/-- `fdot2` (R220): the exact sum of two products and an addend, rounded once. -/
def dot2 (G : Flt) (m : Rnd) (a b : Nat × Nat) (c : Nat) : Nat :=
  Flt.f32.enc m (.sum m [(G.dec a.1).mul (G.dec b.1), (G.dec a.2).mul (G.dec b.2), Flt.f32.dec c])


/-- `fadd` (R218): a + b. -/
def execFadd (f : FmtA) (s : State) : Result :=
  .next (arith (.fadd f) (.flt f [f.a, f.b] fun F v => F.add f.rm (nth v 0) (nth v 1)) f.pw s)

/-- `fsub` (R218): a − b. -/
def execFsub (f : FmtA) (s : State) : Result :=
  .next (arith (.fsub f) (.flt f [f.a, f.b] fun F v => F.sub f.rm (nth v 0) (nth v 1)) f.pw s)

/-- `fmul` (R218): a × b. -/
def execFmul (f : FmtA) (s : State) : Result :=
  .next (arith (.fmul f) (.flt f [f.a, f.b] fun F v => F.mul f.rm (nth v 0) (nth v 1)) f.pw s)

/-- `fma` (R218): a × b ± c, rounded once. -/
def execFma (f : FmtA) (s : State) : Result :=
  .next (arith (.fma f) (.flt f [f.a, f.b, f.c] fun F v => F.fma f.rm (f.opm.getLsbD 0) (nth v 0) (nth v 1) (nth v 2)) f.pw s)

/-- `fmin` (R219). -/
def execFmin (f : FmtA) (s : State) : Result :=
  .next (arith (.fmin f) (.flt f [f.a, f.b] fun F v => F.pick false (nth v 0) (nth v 1)) f.pw s)

/-- `fmax` (R219). -/
def execFmax (f : FmtA) (s : State) : Result :=
  .next (arith (.fmax f) (.flt f [f.a, f.b] fun F v => F.pick true (nth v 0) (nth v 1)) f.pw s)

/-- `fminp` (R219). -/
def execFminp (f : FmtA) (s : State) : Result :=
  .next (arith (.fminp f) (.flt f [f.a, f.b] fun F v => F.pickP false (nth v 0) (nth v 1)) f.pw s)

/-- `fmaxp` (R219). -/
def execFmaxp (f : FmtA) (s : State) : Result :=
  .next (arith (.fmaxp f) (.flt f [f.a, f.b] fun F v => F.pickP true (nth v 0) (nth v 1)) f.pw s)

/-- `fclamp` (R218): fmin(fmax(a, b), c). -/
def execFclamp (f : FmtA) (s : State) : Result :=
  .next (arith (.fclamp f) (.flt f [f.a, f.b, f.c] fun F v => F.pick false (F.pick true (nth v 0) (nth v 1)) (nth v 2)) f.pw s)

/-- `fabs` (R218). -/
def execFabs (f : FmtA) (s : State) : Result :=
  .next (arith (.fabs f) (.flt f [f.a] fun F v => nth v 0 % F.signBit) f.pw s)

/-- `fneg` (R218). -/
def execFneg (f : FmtA) (s : State) : Result :=
  .next (arith (.fneg f) (.flt f [f.a] fun F v => (nth v 0 + F.signBit) % (2 * F.signBit)) f.pw s)

/-- `fcopysign` (R218). -/
def execFcopysign (f : FmtA) (s : State) : Result :=
  .next (arith (.fcopysign f) (.flt f [f.a, f.b] fun F v => nth v 0 % F.signBit + nth v 1 / F.signBit % 2 * F.signBit) f.pw s)

/-- `fsign` (R218). -/
def execFsign (f : FmtA) (s : State) : Result :=
  .next (arith (.fsign f) (.flt f [f.a] fun F v => F.sign (nth v 0)) f.pw s)

/-- `fabsdiff` (R218). -/
def execFabsdiff (f : FmtA) (s : State) : Result :=
  .next (arith (.fabsdiff f) (.flt f [f.a, f.b] fun F v => F.absdiff f.rm (nth v 0) (nth v 1)) f.pw s)

/-- `frnd` (R218). -/
def execFrnd (f : FmtA) (s : State) : Result :=
  .next (arith (.frnd f) (.flt f [f.a] fun F v => F.rnd f.rm (nth v 0)) f.pw s)

/-- `ffract` (R218). -/
def execFfract (f : FmtA) (s : State) : Result :=
  .next (arith (.ffract f) (.flt f [f.a] fun F v => F.fract (nth v 0)) f.pw s)

/-- `fadd2` (R220): the rounded sum and its error. -/
def execFadd2 (f : FmtA) (s : State) : Result :=
  .next (arith (.fadd2 f) (.scalar f [f.a, f.b] (some (f.d, .w64)) fun F v =>
    let r := F.add2 (nth v 0) (nth v 1)
    r.1 + 2 ^ 32 * r.2) f.pw s)

/-- `fdot2` (R220). -/
def execFdot2 (f : FmtA) (s : State) : Result :=
  .next (arith (.fdot2 f) 
    { srcs := [(f.a, .w32, (f.ty2.getD .f16)), (f.b, .w32, (f.ty2.getD .f16)), (f.c, .w32, .f32)],
      dst := some (f.d, .w32), pw := none,
      f := fun _ v => (dot2 (Flt.ofTy (f.ty2.getD .f16)) f.rm (halves f.a (nth v 0)) (halves f.b (nth v 1)) (nth v 2), false) } f.pw s)

/-- `fcmp` (R219). -/
def execFcmp (f : FmtA) (s : State) : Result :=
  .next (arith (.fcmp f) (.fcmp f) f.pw s)

/-- `fclass` (R219). -/
def execFclass (f : FmtA) (s : State) : Result :=
  .next (arith (.fclass f) (.scalar f [f.a] (some (f.d, .w32)) fun F v => F.cls (nth v 0)) f.pw s)

/-- `fscale` (R218): a × 2^b, with b read as i32 and used for both halves. -/
def execFscale (f : FmtA) (s : State) : Result :=
  .next (arith (.fscale f) 
    { srcs := [(f.a, .w32, f.ty), (f.b, .w32, .i32)], dst := some (f.d, .w32), pw := none,
      f := fun _ v =>
        let F := Flt.ofTy f.ty
        let b := sextN 32 (nth v 1)
        let h := halves f.a (nth v 0)
        (if isPacked f.ty then F.scaleBy f.rm h.1 b + 65536 * F.scaleBy f.rm h.2 b else F.scaleBy f.rm (nth v 0) b, false) } f.pw s)

/-- `fgetexp` (R219). -/
def execFgetexp (f : FmtA) (s : State) : Result :=
  .next (arith (.fgetexp f) (.scalar f [f.a] (some (f.d, .w32)) fun F v => F.getexp (nth v 0)) f.pw s)

/-- `fgetman` (R219). -/
def execFgetman (f : FmtA) (s : State) : Result :=
  .next (arith (.fgetman f) (.scalar f [f.a] (some (f.d, .w32)) fun F v => F.getman (nth v 0)) f.pw s)

/-- `fhsel` (R218). -/
def execFhsel (f : FmtA) (s : State) : Result :=
  .next (arith (.fhsel f) 
    { srcs := [(f.a, .w32, f.ty), (f.b, .w32, f.ty)], dst := some (f.d, .w32), pw := none,
      f := fun _ v =>
        let a := halves f.a (nth v 0)
        let b := halves f.b (nth v 1)
        ((if f.opm.getLsbD 0 then a.2 else a.1) + 65536 * (if f.opm.getLsbD 1 then b.2 else b.1), false) } f.pw s)

/-! ## Group 0x4: FP64 (R221) -/

/-- `fadd.f64` (R221): a + b. -/
def execFaddF64 (f : FmtA) (s : State) : Result :=
  .next (arith (.faddF64 f) (.scalar f [f.a, f.b] (some (f.d, .w64)) fun F v => F.add f.rm (nth v 0) (nth v 1)) f.pw s)

/-- `fsub.f64` (R221): a − b. -/
def execFsubF64 (f : FmtA) (s : State) : Result :=
  .next (arith (.fsubF64 f) (.scalar f [f.a, f.b] (some (f.d, .w64)) fun F v => F.sub f.rm (nth v 0) (nth v 1)) f.pw s)

/-- `fmul.f64` (R221): a × b. -/
def execFmulF64 (f : FmtA) (s : State) : Result :=
  .next (arith (.fmulF64 f) (.scalar f [f.a, f.b] (some (f.d, .w64)) fun F v => F.mul f.rm (nth v 0) (nth v 1)) f.pw s)

/-- `fma.f64` (R221): a × b ± c, rounded once. -/
def execFmaF64 (f : FmtA) (s : State) : Result :=
  .next (arith (.fmaF64 f) (.scalar f [f.a, f.b, f.c] (some (f.d, .w64)) fun F v => F.fma f.rm (f.opm.getLsbD 0) (nth v 0) (nth v 1) (nth v 2)) f.pw s)

/-- `fmin.f64` (R221). -/
def execFminF64 (f : FmtA) (s : State) : Result :=
  .next (arith (.fminF64 f) (.scalar f [f.a, f.b] (some (f.d, .w64)) fun F v => F.pick false (nth v 0) (nth v 1)) f.pw s)

/-- `fmax.f64` (R221). -/
def execFmaxF64 (f : FmtA) (s : State) : Result :=
  .next (arith (.fmaxF64 f) (.scalar f [f.a, f.b] (some (f.d, .w64)) fun F v => F.pick true (nth v 0) (nth v 1)) f.pw s)

/-- `frnd.f64` (R221). -/
def execFrndF64 (f : FmtA) (s : State) : Result :=
  .next (arith (.frndF64 f) (.scalar f [f.a] (some (f.d, .w64)) fun F v => F.rnd f.rm (nth v 0)) f.pw s)

/-- `fadd2.f64` (R221). -/
def execFadd2F64 (f : FmtA) (s : State) : Result :=
  .next (arith (.fadd2F64 f) (.scalar f [f.a, f.b] (some (f.d, .w128)) fun F v =>
    let r := F.add2 (nth v 0) (nth v 1)
    r.1 + 2 ^ 64 * r.2) f.pw s)

/-- `fcmp.f64` (R221). -/
def execFcmpF64 (f : FmtA) (s : State) : Result :=
  .next (arith (.fcmpF64 f) (.fcmp f) f.pw s)

/-- `fdiv.f64` (R221). -/
def execFdivF64 (f : FmtA) (s : State) : Result :=
  .next (arith (.fdivF64 f) (.scalar f [f.a, f.b] (some (f.d, .w64)) fun F v => F.div f.rm (F.dec (nth v 0)) (F.dec (nth v 1))) f.pw s)

/-- `fsqrt.f64` (R221). -/
def execFsqrtF64 (f : FmtA) (s : State) : Result :=
  .next (arith (.fsqrtF64 f) (.scalar f [f.a] (some (f.d, .w64)) fun F v => F.sqrt f.rm (F.dec (nth v 0))) f.pw s)

/-- `fclass.f64` (R221). -/
def execFclassF64 (f : FmtA) (s : State) : Result :=
  .next (arith (.fclassF64 f) (.scalar f [f.a] (some (f.d, .w32)) fun F v => F.cls (nth v 0)) f.pw s)

end Sys2Proof.Machine
end

