-- ==== Sys2Proof/Machine/Convert.lean ====
section
/-! DEFINITION. Group 0x5: conversions (R222 to R226) and the 4-bit family (R293, R307, R308). -/

namespace Sys2Proof.Machine

/-- The second type of a conversion (R222). -/
def gTy (f : FmtA) : Ty := f.ty2.getD .f32

/-- satfinite (R222). -/
def satfinite (f : FmtA) : Bool := f.opm.getLsbD 2

/-- Slice k of a 128-bit draw (R225). -/
def slice (draw k : Nat) : Nat := bitsOf draw (16 * k) 16

/-- The draw operand, a source only under sr (R222). -/
def drawSrc (f : FmtA) (o : Operand) : List (Operand × Pos × Ty) := if f.rm == .sr then [(o, .w128, .b32)] else []

/-- A float rounded to an integer and saturated to T's range, as T's bit pattern; a NaN gives 0 (R224). -/
def toIntT (t : Ty) (m : Rnd) (s : Nat) (v : FVal) : Nat :=
  let sat (x : Int) : Nat := truncN t.bits (if t.isI then satsN t.bits x else satuN t.bits x)
  match v with
  | .nan => 0
  | .inf neg => sat (if neg then -(2 ^ 70 : Nat) else (2 ^ 70 : Nat))
  | .fin neg a e => sat (roundInt m s neg a e)

/-- `cvt` between floating types (R223): to T from G. -/
def execCvt (f : FmtA) (s : State) : Result :=
  .next (arith (.cvt f)
    { srcs := (f.a, (gTy f).pos, gTy f) :: (if f.rm == .sr then [(f.b, .w128, .b32), (f.c, .w32, .n32)] else []),
      dst := some (f.d, f.ty.pos), pw := none,
      f := fun _ v =>
        ((Flt.ofTy f.ty).enc f.rm ((Flt.ofTy (gTy f)).dec (nth v 0)) (slice (nth v 1) (nth v 2 % 8)) (satfinite f), false) }
    f.pw s)

/-- `cvt` from a float to an integer (R224). -/
def execCvtF2i (f : FmtA) (s : State) : Result :=
  .next (arith (.cvtF2i f)
    { srcs := [(f.a, (gTy f).pos, gTy f)], dst := some (f.d, f.ty.pos), pw := none,
      f := fun _ v => (extT f.ty (toIntT f.ty f.rm 0 ((Flt.ofTy (gTy f)).dec (nth v 0))), false) }
    f.pw s)

/-- `cvt` from an integer to a float (R224). -/
def execCvtI2f (f : FmtA) (s : State) : Result :=
  .next (arith (.cvtI2f f)
    { srcs := [(f.a, (gTy f).pos, gTy f)], dst := some (f.d, f.ty.pos), pw := none,
      f := fun _ v => ((Flt.ofTy f.ty).enc f.rm (intF (intVal (gTy f) (nth v 0))), false) }
    f.pw s)

/-- `cvt` between integer types (R224). -/
def execCvtI2i (f : FmtA) (s : State) : Result :=
  .next (arith (.cvtI2i f)
    { srcs := [(f.a, (gTy f).pos, gTy f)], dst := some (f.d, f.ty.pos), pw := none,
      f := fun _ v => (writeT f.ty f.sat (intVal (gTy f) (nth v 0)), false) }
    f.pw s)

/-- `cvt.pk2` (R226): A's result below B's. -/
def execCvtPk2 (f : FmtA) (s : State) : Result :=
  .next (arith (.cvtPk2 f)
    { srcs := [(f.a, .w32, .f32), (f.b, .w32, .f32)] ++ drawSrc f f.c, dst := some (f.d, .w32), pw := none,
      f := fun _ v =>
        let h := f.opm.toNat % 4
        let one (x k : Nat) := (Flt.ofTy f.ty).enc f.rm (Flt.f32.dec x) (slice (nth v 2) k) (satfinite f)
        (one (nth v 0) (2 * h) + 65536 * one (nth v 1) (2 * h + 1), false) }
    f.pw s)

/-- One element of a pk4 form: to FP8, or to an 8-bit integer (R224). -/
def pk4Elem (f : FmtA) (v : FVal) (s : Nat) : Nat :=
  if f.ty.isF then (Flt.ofTy f.ty).enc f.rm v s (satfinite f) else toIntT f.ty f.rm s v % 256

/-- Four elements of 32 bits of a quadruple, each scaled by 2^b, in the bytes of a word (R226). -/
def pk4 (f : FmtA) (quad : Nat) (b : Int) (draw : Nat) : Nat :=
  let one (i : Nat) := pk4Elem f ((Flt.f32.dec (bitsOf quad (32 * i) 32)).scale b) (slice draw (4 * (f.opm.toNat % 2) + i))
  one 0 + 2 ^ 8 * one 1 + 2 ^ 16 * one 2 + 2 ^ 24 * one 3

/-- `cvt.pk4` (R226). -/
def execCvtPk4 (f : FmtA) (s : State) : Result :=
  .next (arith (.cvtPk4 f)
    { srcs := (f.a, .w128, .f32) :: drawSrc f f.b, dst := some (f.d, .w32), pw := none,
      f := fun _ v => (pk4 f (nth v 0) 0 (nth v 1), false) }
    f.pw s)

/-- `cvt.unpk2` (R226), exact. -/
def execCvtUnpk2 (f : FmtA) (s : State) : Result :=
  .next (arith (.cvtUnpk2 f)
    { srcs := [(f.a, .w32, gTy f)], dst := some (f.d, .w64), pw := none,
      f := fun _ v =>
        let one (x : Nat) := Flt.f32.enc .rne ((Flt.ofTy (gTy f)).dec x)
        (one (nth v 0 % 65536) + 2 ^ 32 * one (nth v 0 / 65536), false) }
    f.pw s)

/-- `cvt.unpk4` (R226), exact. -/
def execCvtUnpk4 (f : FmtA) (s : State) : Result :=
  .next (arith (.cvtUnpk4 f)
    { srcs := [(f.a, .w32, gTy f)], dst := some (f.d, .w128), pw := none,
      f := fun _ v =>
        let one (i : Nat) :=
          let x := bitsOf (nth v 0) (8 * i) 8
          Flt.f32.enc .rne (if (gTy f).isF then (Flt.ofTy (gTy f)).dec x else intF (intVal (gTy f) x))
        (one 0 + 2 ^ 32 * one 1 + 2 ^ 64 * one 2 + 2 ^ 96 * one 3, false) }
    f.pw s)

/-- `cvtsc` (R223): scaled by 2^b and rounded once. -/
def execCvtsc (f : FmtA) (s : State) : Result :=
  .next (arith (.cvtsc f)
    { srcs := [(f.a, (gTy f).pos, gTy f), (f.b, .w32, .i32)] ++ drawSrc f f.c, dst := some (f.d, f.ty.pos), pw := none,
      f := fun _ v =>
        ((Flt.ofTy f.ty).enc f.rm (((Flt.ofTy (gTy f)).dec (nth v 0)).scale (sextN 32 (nth v 1)))
          (slice (nth v 2) (f.opm.toNat % 4)) (satfinite f), false) }
    f.pw s)

/-- `cvtsc.pk4` (R223, R226). -/
def execCvtscPk4 (f : FmtA) (s : State) : Result :=
  .next (arith (.cvtscPk4 f)
    { srcs := [(f.a, .w128, .f32), (f.b, .w32, .i32)] ++ drawSrc f f.c, dst := some (f.d, .w32), pw := none,
      f := fun _ v => (pk4 f (nth v 0) (sextN 32 (nth v 1)) (nth v 2), false) }
    f.pw s)

/-! ## The 4-bit family -/

/-- The magnitudes of E2M1 in halves, and of the hybrid type in units (R293). -/
def q4Mags : List Nat := [0, 1, 2, 3, 4, 6, 8, 12]

/-- The value of a 4-bit code times 64, as sign and magnitude (R293). -/
def q4Val (type code : Nat) : Bool × Nat :=
  let neg := 8 ≤ code
  let k := code % 8
  match type with
  | 0 => (neg, 64 * (if neg then 8 - k else k))
  | 1 => (neg, 32 * q4Mags.getD k 0)
  | 2 => (neg, if k = 7 then 0 else 64 / 2 ^ k)
  | _ => (neg, 64 * q4Mags.getD k 0)

/-- The value of a code under a scale byte (R293). -/
def q4Dec (scale code : Nat) : FVal :=
  let v := q4Val (scale / 64) code
  .fin (v.1 && (v.2 != 0 || scale / 64 != 0)) v.2 ((scale % 64 : Nat) - 32 - 6)

/-- The code nearest a value (R307): on a tie the one with even low bits; the sign of q is kept in a zero (log 41). -/
def q4Code (type : Nat) (q : FVal) : Nat :=
  let plus0 := if type = 2 then 7 else 0
  match q with
  | .nan => plus0
  | .inf neg =>
    match type with
    | 0 => if neg then 8 else 7
    | 1 => if neg then 15 else 7
    | 2 => if neg then 8 else 0
    | _ => if neg then 15 else 7
  | .fin neg a e =>
    -- distances in units of 2^(min e (−6))
    let e0 : Int := if e < -6 then e else -6
    let qv : Int := FVal.at_ e0 (.fin neg a e)
    let dist (c : Nat) : Nat :=
      let v := q4Val type c
      (qv - FVal.at_ e0 (.fin v.1 v.2 (-6))).natAbs
    let cands := (List.range 16).filter (fun c => type = 0 || decide (8 ≤ c) == neg)
    let better (x y : Nat) : Nat := if dist y < dist x || (dist y = dist x && y % 2 = 0 && x % 2 = 1) then y else x
    cands.foldl better (cands.headD 0)

/-- `cvt.q4` (R308). -/
def execCvtQ4 (f : FmtA) (s : State) : Result :=
  .next (arith (.cvtQ4 f)
    { srcs := [(f.a, .w32, .f32), (f.b, .w32, .n32)], dst := some (f.d, .w32), pw := none,
      f := fun _ v =>
        let sb := nth v 1 % 256
        (q4Code (sb / 64) ((Flt.f32.dec (nth v 0)).scale (32 - (sb % 64 : Nat))), false) }
    f.pw s)

/-- `cvt.f32.q4` (R308), exact. -/
def execCvtF32Q4 (f : FmtA) (s : State) : Result :=
  .next (arith (.cvtF32Q4 f)
    { srcs := [(f.a, .w32, .b32), (f.b, .w32, .n32), (f.c, .w32, .n32)], dst := some (f.d, .w32), pw := none,
      f := fun _ v =>
        (Flt.f32.enc .rne (q4Dec (nth v 1 % 256) (bitsOf (nth v 0) (4 * (nth v 2 % 8)) 4)), false) }
    f.pw s)

end Sys2Proof.Machine
end

