-- ==== Sys2Proof/Machine/Control.lean ====
section
/-! DEFINITION. Group 0x0: transfers, divergence barriers and the end of a lane (R135, R136, R159, R206 to R212). -/

namespace Sys2Proof.Machine

/-! ## Transfers -/

/-- The spin detector of a class S launch sees a branch that lanes take to a target, or that all fall through (R159): the first take
starts a count, the second gives the first hash, and those behind compare. A backward branch beyond 64 lines starts none, and ends a
demotion as any other backward branch does. -/
def spinBranch (s : State) (c k : Nat) (pc : DWord) (taken : Option DWord) : State :=
  match s.launchOf c k with
  | none => s
  | some y =>
    if y.flag 0 then s
    else
      let forget (w : Warp) : Warp := { w with spin := Spin.reset, demoted := false }
      match taken with
      | none => s.modWarp c k (fun w => if w.spin.pc = pc then forget w else w)
      | some t =>
        let near := decide (pc.toNat / 64 ≤ t.toNat / 64 + 64)
        if pc.toNat / 64 < t.toNat / 64 then s
        else s.modWarp c k (fun w =>
          if !near then forget w
          else if w.spin.pc != pc then { w with spin := { Spin.reset with pc := pc }, demoted := false }
          else
            let n := if w.spin.seen && w.spin.acc = w.spin.hash then w.spin.takes + 1 else 0
            { w with spin := { pc := pc, hash := w.spin.acc, seen := true, takes := n, acc := 0 }, demoted := decide (32 ≤ n) })

/-- A transfer in one warp of the bundle: `tgt` gives each lane's target, or none where it falls through; every target is
checked before anything changes; `go` then moves the lanes, told of those that do not take it (R174, R207, R208). A control-transfer trap of one lane comes before a fault
of another's target (R190). -/
def transferWarp (tgt : State → Env → Nat → Option DWord) (go : Clause → State → Nat → List Nat → List (Nat × DWord) → State) : WarpStep :=
  fun x s k ls =>
  let c := x.core
  let ex := issuingSet x s k ls
  let takes := ex.filterMap (fun l => (tgt s (x.env k) l).map (fun t => (l, t)))
  let done0 := match stoppedAt s c k x.pc with | some y => y.done | none => 0
  let set := match stoppedAt s c k x.pc with | some y => y.set | none => maskOf (takes.map Prod.fst)
  let r0 := checkTargets s c (s.ctxOf c k) (lineKind x.line) takes
  let r := (noteFetches r0.1 c k (takes.map Prod.snd), r0.2)
  let lanesWith (p : Target → Bool) : List Nat := (r.2.filter (fun e => p e.2.2)).map Prod.fst
  let faults := r.2.filterMap (fun e => match e.2.2 with | .fault f => some (e.1, e.2.1 &&& ~~~63, f) | _ => none)
  let fatal := faults.filter (fun e => !replayable r.1 .ifetch e.2.2 || k = ctrlSlot)
  let bad := lanesWith (fun t => t == .bad)
  let wait := lanesWith (fun t => t == .wait)
  let others := ls.filter (fun l => !takes.any (fun e => e.1 = l))
  let hold (s : State) : State :=
    let op := match stoppedAt s c k x.pc with | some y => y.op | none => s.fresh
    stopAt (passBy x s.bump k others) c k x.pc set done0 op 0
  if takes = [] then r.1
  else if wait != [] then
    let t := match r.2.find? (fun e => e.2.2 == .wait) with | some e => e.2.1 | none => 0
    parkAll (hold r.1) c k (takes.map Prod.fst) (.walk (t &&& ~~~63) .ifetch false)
  else if bad != [] then raiseTrap r.1 c k Cause.controlTransfer x.pc { lanes := maskOf bad, done := done0 }
  else match fatal, faults with
    | (_, t, f) :: _, _ =>
      raiseTrap r.1 c k Cause.translation x.pc { lanes := maskOf (fatal.map Prod.fst), done := done0, detail := f, addr := t }
    | [], (_, t, f) :: _ =>
      let on := (faults.filter (fun e => e.2.1.toNat / 65536 = t.toNat / 65536)).map Prod.fst
      let j := joinFault (hold r.1) t (s.ctxOf c k) c f .ifetch false (maskOf on)
      parkAll j.1 c k (takes.map Prod.fst) (.fault j.2 .ifetch)
    | [], [] => go x r.1 k others takes

/-- Marks lanes of a stopped instruction as done, ending it with the last. -/
def markDone (s : State) (c k : Nat) (pc : DWord) (ls : List Nat) : State :=
  match stoppedAt s c k pc with
  | none => s
  | some y =>
    let d := y.done ||| maskOf ls
    let s1 := s.modWarp c k (fun w => { w with stopped := some { y with done := d } })
    if y.set &&& ~~~d = 0 then endStopped s1 c k else s1

/-- Lanes branch (R207). -/
def branchGo (x : Clause) (s : State) (k : Nat) (_ : List Nat) (ts : List (Nat × DWord)) : State :=
  ts.foldl (fun s e => jump s x.core k e.1 e.2) (markDone s x.core k x.pc (ts.map Prod.fst))

/-- A branch, watched by the spin detector where it is issued anew: the target of its lowest lane that goes back, else of its lowest
lane, stands for the branch (R159, log 16). -/
def branchWarp (tgt : State → Env → Nat → Option DWord) : WarpStep := fun x s k ls =>
  let takes := (issuingSet x s k ls).filterMap (tgt s (x.env k))
  let back := takes.find? (fun t => decide (t.toNat / 64 ≤ x.pc.toNat / 64))
  let seen := match stoppedAt s x.core k x.pc with
    | some _ => s
    | none => spinBranch s x.core k x.pc (back.or takes.head?)
  transferWarp tgt branchGo x seen k ls

/-- `bra` (R207). -/
def execBra (f : FmtB) (s : State) : Result :=
  .next (issue (.bra f) [] (fun x s k ls => branchWarp (fun _ _ _ => some (targetB f x.addr)) x s k ls) s)

/-- `brt` (R207). -/
def execBrt (f : FmtB) (s : State) : Result :=
  .next (issue (.brt f) [(f.a, .w32), (f.d, .w32)] (fun x s k ls =>
    branchWarp (fun s e l =>
      let i := readOp s e l .n32 .w32 f.a
      if readOp s e l .n32 .w32 f.d ≤ i then none
      else some (x.addr + ((f.off.signExtend 64 + BitVec.ofNat 64 i) <<< 6) + f.slot.setWidth 64)) x s k ls) s)

/-- `brx` (R207). -/
def execBrx (f : FmtB) (s : State) : Result :=
  .next (issue (.brx f) [(f.a, .w64)] (branchWarp (fun s e l => some (BitVec.ofNat 64 (readOp s e l .b64 .w64 f.a)))) s)

/-! ## Calls and returns (R207 to R209) -/

/-- A push or a pop as a memory form. -/
def stackForm (i : Instr) (body : OpBody) (write : Bool) (addr : State → Env → Nat → Int) (data : State → Env → Nat → Nat) :
    MemForm :=
  { instr := i, ops := [], dst := none, ty := .b64, kind := if write then .store else .load, write := write, odd := false, width := 8, align := 8,
    whole := false, addr := addr, scratch := false, data := data, bad := fun _ _ _ => false, body := body, hint := .dflt, scope := .wp,
    order := .plain, fs := .none }

/-- The stack pointer a push of the lane uses. -/
def pushAddr (s : State) (e : Env) (l : Nat) : DWord := (s.lane e.core e.slot l).sp - 8

/-- Lanes of a call whose targets have passed: helper lanes use the hidden stack and exit when it is full; launched ones push to
memory and transfer once that is performed (R207, R209). -/
def callGo (i : Instr) (x : Clause) (s : State) (k : Nat) (others : List Nat) (ts : List (Nat × DWord)) : State :=
  let c := x.core
  let target (l : Nat) : DWord := match ts.find? (fun e => e.1 = l) with | some e => e.2 | none => 0
  let form := stackForm i .push true (fun s e l => (pushAddr s e l).toNat)
    (fun s e l => (nextPc x.pc).toNat + 2 ^ 64 * (target l).toNat + 2 ^ 128 * (pushAddr s e l).toNat)
  let act := launchedOf s c k (ts.map Prod.fst)
  let help := ts.filter (fun e => !act.contains e.1)
  let depth (l : Nat) : Nat := match s.warp? c k with | some w => (w.hrs.atD l []).length | none => 0
  -- Where lanes of the call stop, those that do not take it go past it.
  let past (s : State) : State := if (stoppedAt s c k x.pc).isSome then passBy x s k others else s
  match memCheck form s (x.env k) act act with
  | some _ => memWarp form x s k (ts.map Prod.fst)
  | none =>
    let s1 := help.foldl (fun s e =>
      if depth e.1 < 16 then
        jump (s.modWarp c k (fun w => { w with hrs := w.hrs.put e.1 (nextPc x.pc :: w.hrs.atD e.1 []) })) c k e.1 e.2
      else s) (markDone s c k x.pc (help.map Prod.fst))
    let s2 := if act = [] then s1 else past (memWarp form x s1 k act)
    let deep := (help.filter (fun e => 16 ≤ depth e.1)).map Prod.fst
    if deep = [] then s2 else exitLanes s2 c k deep

/-- `call` (R207). -/
def execCall (f : FmtB) (s : State) : Result :=
  .next (issue (.call f) [] (fun x s k ls =>
    transferWarp (fun _ _ _ => some (targetB f x.addr)) (callGo (.call f)) x s k ls) s)

/-- `callx` (R207). -/
def execCallx (f : FmtB) (s : State) : Result :=
  .next (issue (.callx f) [(f.a, .w64)]
    (transferWarp (fun s e l => some (BitVec.ofNat 64 (readOp s e l .b64 .w64 f.a))) (callGo (.callx f))) s)

/-- `ret` (R207, R208, R209): a helper lane with an empty hidden stack exits; the others' pops are issued, and the targets are
checked together once all have come back or faulted. A lane whose pop has faulted replays once they have been. -/
def execRet (s : State) : Result :=
  let top (s : State) (e : Env) (l : Nat) : Option DWord := match s.warp? e.core e.slot with
    | some w => (w.hrs.atD l []).head?
    | none => none
  let form := stackForm .ret .pop false (fun s e l => (s.lane e.core e.slot l).sp.toNat)
    (fun s e l => if (s.lane e.core e.slot l).kind == .helper then ((top s e l).getD 0).toNat
      else 2 ^ 128 * (s.lane e.core e.slot l).sp.toNat)
  .next (issue .ret [] (fun x s k ls =>
    let out := (issuingSet x s k ls).filter (fun l => (s.lane x.core k l).kind == .helper && (top s (x.env k) l).isNone)
    let at_ := stoppedAt s x.core k x.pc
    let id := match at_ with | some y => y.op | none => s.fresh
    let hold := (issuingSet x s k ls).filter (fun l => at_.isSome && popFaulted s x.core k id l && popsOwed s x.core k id)
    let pops := ls.filter (fun l => !out.contains l && !hold.contains l)
    let act := launchedOf s x.core k (issuingSet x s k pops)
    match memCheck form s (x.env k) act act with
    | some _ => memWarp form x s k pops
    | none =>
      let s1 := parkAll (memWarp form x s k pops) x.core k hold .drain
      finalizePops (if out = [] then s1 else exitLanes s1 x.core k out) id) s)

/-! ## Divergence barriers (R135, R136, R211) -/

/-- The mask of a divergence barrier. -/
def barMask (s : State) (c k b : Nat) : Word := match s.warp? c k with | some w => w.bars.atD b 0 | none => 0

def setBar (s : State) (c k b : Nat) (m : Word) : State := s.modWarp c k (fun w => { w with bars := w.bars.putD b m 0 })

/-- The release test: once every lane of the mask waits at a `rejoin` of the barrier or has exited, those that wait go on and the
mask becomes 0 (R136). -/
def releaseRejoin (s : State) (c k b : Nat) : State :=
  let m := barMask s c k b
  let at_ (l : Nat) : Bool := (s.lane c k l).wait == .rejoin b
  if m != 0 && (maskLanes m).all (fun l => at_ l || (s.lane c k l).kind == .exited) then
    setBar (passOn s c k ((maskLanes m).filter at_)) c k b 0
  else s

/-- `enrol` (R135). -/
def execEnrol (f : FmtB) (s : State) : Result :=
  .next (issue (.enrol f) [] (fun x s k ls =>
    setBar s x.core k f.bar.toNat (barMask s x.core k f.bar.toNat ||| maskOf (guardLanes s x k ls))) s)

/-- `rejoin` (R136). -/
def execRejoin (f : FmtB) (s : State) : Result :=
  .next (issue (.rejoin f) [] (fun x s k ls =>
    let inMask := (guardLanes s x k ls).filter (fun l => maskHas (barMask s x.core k f.bar.toNat) l)
    releaseRejoin (parkAll s x.core k inMask (.rejoin f.bar.toNat)) x.core k f.bar.toNat) s)

/-- `bclr` (R211). -/
def execBclr (f : FmtB) (s : State) : Result :=
  .next (issue (.bclr f) [] (fun x s k ls =>
    releaseRejoin (setBar s x.core k f.bar.toNat (barMask s x.core k f.bar.toNat &&& ~~~(maskOf (guardLanes s x k ls)))) x.core k
      f.bar.toNat) s)

/-- `bread` (R211). -/
def execBread (f : FmtB) (s : State) : Result :=
  .next (issue (.bread f) [(f.d, .w32)] (fun x s k ls =>
    (Arith.of [] (some (f.d, .w32)) none (fun _ _ => ((barMask s x.core k f.bar.toNat).toNat, false))).warp (.bread f) 7 x s k ls) s)

/-- REJOIN_RELEASE (R136): the release test, as after the exit of a lane. -/
def execRejoinRelease (core slot bar : Nat) (s : State) : Result := .next (releaseRejoin s core slot bar)

/-! ## The rest -/

/-- `nop` (R189). -/
def execNop (s : State) : Result := .next (issue .nop [] (fun _ s _ _ => s) s)

/-- The warp is about to leave while the right-of-way token stands at it, whose passing by exit is a release at span scope (R97, R210,
R342). -/
def leavesWithToken (s : State) (c k : Nat) (ls : List Nat) : Bool :=
  match s.warp? c k with
  | some w => tokenAt s w && w.launchedLanes.all (fun l => ls.contains l)
  | none => false

/-- Lanes exit (R210): the release test of every divergence barrier that holds them follows (R136). -/
def exitWarp : WarpStep := fun x s k ls =>
  let c := x.core
  let ex := guardLanes s x k ls
  if ex = [] then s
  else if k = ctrlSlot then haltControl s c
  else if leavesWithToken s c k ex && mustDrain s c k lanes32 .rel .span then parkAll s c k ex .drain
  else
    let s1 := if leavesWithToken s c k ex then release s c (wgIdOf s c k) .span else s
    (List.range 16).foldl (fun s b => releaseRejoin s c k b) (exitLanes s1 c k ex)

/-- `exit` (R210). -/
def execExit (s : State) : Result := .next (issue .exit [] exitWarp s)

end Sys2Proof.Machine
end

