-- ==== Sys2Proof/Machine/Sync.lean ====
section
/-! DEFINITION. Group 0x9, first part: fences, `waita`, the barriers, the course and token waits and `pause` (R248 to R253, R259),
and the hardware steps that end those waits. -/

namespace Sys2Proof.Machine

/-! ## Fences (R84, R249) -/

/-- Order of `fence`, from S7[1:0]; scope, from S7[3:2] (R248). -/
def fenceOrder (f : FmtS) : Order := decodeOrder (f.s7.extractLsb' 0 2)
def fenceScope (f : FmtS) : Scope := decodeScope (f.s7.extractLsb' 2 2)

/-- A fence of lanes must wait: an acquire for their loads and atomics, a release for every access (R76, R84). -/
def fenceWaits (s : State) (c k : Nat) (ls : List Nat) (o : Order) (sc : Scope) : Bool :=
  mustDrain s c k ls o sc || (o.acquires && inFlight s c k ls (fun p => match p.body with
    | .load _ _ _ | .pop | .atomic _ _ _ _ => true
    | _ => false))

/-- What a fence does once it need not wait (R76). -/
def fenceNow (s : State) (c : Nat) (wg : Option Nat) (o : Order) (sc : Scope) : State :=
  let s1 := if o.releases then release s c wg sc else s
  if o.acquires then acquire s1 c wg sc else s1

/-- `fence` (R249): helper lanes perform none (R101). -/
def fenceWarp (o : Order) (sc : Scope) : WarpStep := fun x s k ls =>
  let act := launchedOf s x.core k (guardLanes s x k ls)
  if act = [] then s
  else if fenceWaits s x.core k act o sc then parkAll s x.core k ls .drain
  else fenceNow s x.core (wgIdOf s x.core k) o sc

/-- `fence` (R249). -/
def execFence (f : FmtS) (s : State) : Result := .next (issue (.fence f) [] (fenceWarp (fenceOrder f) (fenceScope f)) s)

/-! ## Milestones of a warp (R167) -/

/-- The scope of the open read section (R167). -/
def Warp.sectionScope (w : Warp) : Scope := if w.secSpan then .span else .pkg

/-- Loads of the warp that have not returned (R98 step 2). -/
def loadsOut (s : State) (c k : Nat) : Bool :=
  inFlight s c k lanes32 (fun o => !o.lanes.all (fun a => a.place == waitPlace) && (match o.body with
    | .load _ _ _ | .pop => true
    | .atomic _ _ (some _) _ => true
    | _ => false))

/-- The warp passes a milestone and keeps its stamp (log 60). -/
def registerPass (s : State) (c k : Nat) : State :=
  match s.warp? c k with
  | some w => passMilestone (s.modWarp c k (fun w => { w with stamp := s.track.takenPkg % 2 ^ 32 })) w.wg w.warpid
  | none => s

/-- A `mile`, or a park in `waita`, whose loads have returned (R167). -/
def splitSection (s : State) (c k : Nat) : State :=
  match s.warp? c k with
  | some w =>
    let s1 := registerPass s c k
    if w.depth = 0 then s1 else acquire s1 c (some w.wg) w.sectionScope
  | none => s

/-! ## `waita` (R250) -/

/-- The operation of a lane's `waita`, from its issue until the lane is done. -/
def waitOp (s : State) (c k l : Nat) : Option Nat :=
  (s.ops.find? (fun e => e.2.owner == .warp c k && e.2.lanes.any (fun a => a.lane = l && isWaitAcc a))).map Prod.fst

/-- What a `waita` lane awaits: comparand, condition, order and scope, in bit 254 that a warp-uniform destination is another lane's to
write, and in bit 255 that it is a `waita`'s. -/
def waitData (b cc : Nat) (acq : Bool) (sc : Scope) (other : Bool) : BitVec 256 :=
  BitVec.ofNat 256 (b + 2 ^ 64 * cc + 2 ^ 72 * (if acq then 1 else 0) +
    2 ^ 80 * (match sc with | .wp => 0 | .wg => 1 | .pkg => 2 | .span => 3) + (if other then 2 ^ 254 else 0) + 2 ^ 255)

/-- The condition holds for a value (R248). -/
def waitHolds (t : Ty) (d : BitVec 256) (v : Nat) : Bool :=
  waitCC (bitsOf d.toNat 64 8) (intVal t v) (intVal t (bitsOf d.toNat 0 64))

/-- A lane of a `waita` with no load in flight. -/
def waitAcc (l : Nat) (d : BitVec 256) : LaneAcc :=
  { lane := l, place := waitPlace, data := d, hint := .bypass, sw := false, ms := false, sent := true }

/-- A lane's `waita` is done: the value is written, an acquire acts, and its part of the flag ends (R14, R97, R250). -/
def waitDone (s : State) (c k l : Nat) (dst : Operand) (t : Ty) (d : BitVec 256) (v : Nat) : State :=
  let a := waitAcc l d
  let s1 := noteOwned (writeOwned s (.warp c k) l t.pos (a.dest dst) (extT t v)) (.warp c k) (some dst) (extT t v)
  let s2 := if bitsOf d.toNat 72 1 = 1 then acquire s1 c (wgIdOf s1 c k) (decodeScope (BitVec.ofNat 2 (bitsOf d.toNat 80 2))) else s1
  match waitOp s2 c k l with
  | some id => sweepOps (dropAcc s2 id l)
  | none => s2

/-- A `waita` issues for lanes that it has not been issued for yet: its flag is raised until the last of them is done (R14, R250). A
warp-uniform destination is the lowest lane's to write (log 76). -/
def waitIssue (s : State) (c k : Nat) (ls : List Nat) (dst : Operand) (t : Ty) (n : Nat) (flag : Option Nat) : State :=
  let new := ls.filter (fun l => (waitOp s c k l).isNone)
  if new = [] then s
  else
    let o : MemOp := { owner := .warp c k, body := .load dst t false, ty := t, width := n, hint := .bypass, scope := .wp, order := .plain,
                       lanes := new.map (fun l => waitAcc l (waitData 0 0 false .wp (!(ls.head? == some l)))), more := false, flag := flag }
    raiseFlag { s.bump with ops := s.ops.put s.fresh o } c k flag

/-- A lane of a `waita` parks on the line of its location, a milestone of its warp (R167, R250). -/
def waitPark (s : State) (c k l : Nat) (d : BitVec 256) (line : Nat) : State :=
  let s1 := match waitOp s c k l with
    | some id => s.modOp id (fun o => { o with lanes := o.lanes.map (fun b => if b.lane = l then waitAcc l d else b) })
    | none => s
  let s2 := if loadsOut s1 c k then s1 else splitSection s1 c k
  park s2 c k l (.waita line)

/-- The value at the point of coherence of a local place; level 1 is not used, and its copy gives way, so that no later load of the core
returns an older value (R81, R250). -/
def coherentLoad (s : State) (c : Nat) (p : Place) (n : Nat) : State × Nat :=
  match p with
  | .mem pa => loadHome s c pa n .bypass
  | .side pa => (s, Mem.rd s.mem pa n)
  | .store d off => (s, Mem.rd (s.core d).store off n)
  | .debug d off => (s, debugRead s d off n)
  | .peer _ _ => (s, 0)

/-- A warp-uniform destination is another lane's to write, as it was when the `waita` issued (log 76). -/
def waitOther (s : State) (c k l : Nat) : Bool :=
  match (waitOp s c k l).bind (fun id => s.ops.at? id) with
  | some o => o.lanes.any (fun a => a.lane = l && a.data.getLsbD 254)
  | none => false

/-- The warp's own earlier writes to the bytes of an access, or to its peer line, are still in flight (R81, R93, R117). -/
def ownWrites (s : State) (c k : Nat) (r : Nat × Nat × Nat) (a : LaneAcc) : Bool :=
  s.ops.anyV (fun _ o => o.owner == .warp c k && o.body.writes &&
    o.lanes.any (fun b => overlaps r (accRange o b) || ((peerLine a).isSome && peerLine b == peerLine a)))

/-- An engine's ownership holds a read at the home slice, or the write-back of the core's own bytes before it (R71). -/
def coherentHeld (s : State) (c : Nat) (p : Place) : Bool :=
  match p with
  | .mem pa => lineHeld s pa false || ownHeld s c pa ||
      (lineHeld s pa true && (match l1Find s c (localKey pa) with | some l => l.written != 0 | none => false))
  | _ => false

/-- One lane of a `waita` whose address has resolved. -/
def waitTry (f : FmtM) (x : Clause) (k : Nat) (s : State) (l : Nat) (p : Place) (b : Nat) : State :=
  let c := x.core
  let n := tyBytes f.ty
  let d := waitData (b % 2 ^ f.ty.bits) (bitsOf f.mmod.toNat 0 3) f.order.acquires f.scope (waitOther s c k l)
  let probe : MemOp := { owner := .warp c k, body := .load f.data f.ty false, ty := f.ty, width := n, hint := .bypass, scope := .wp, order := .plain,
                         lanes := [], more := false, flag := none }
  let a : LaneAcc := { lane := l, place := p, data := d, hint := .bypass, sw := false, ms := false, sent := true }
  if ownWrites s c k (accRange probe a) a || (p.isPeer && 256 ≤ peerRequests s c) then park s c k l .drain
  else match p with
    | .peer q pa =>
      if !pkgLive s q then waitDone (setLost s (.warp c k) q) c k l f.data f.ty d 0
      else
        let s1 := waitPark s c k l d (swKey p)
        match waitOp s1 c k l with
        | some id =>
          let s2 := s1.modOp id (fun o => { o with lanes := o.lanes.map (fun b => if b.lane = l then a else b) })
          sendPacket s2 { hdr := mkHdr 0 s2.fab.index q 0 (accMeta f.scope f.order f.ty) n pa 0 (reqTag (.warp c k) id l), payload := [] }
        | none => s1
    | p =>
      if coherentHeld s c p then waitPark s c k l d (swKey p)
      else
        let r := coherentLoad s c p n
        if waitHolds f.ty d r.2 then waitDone r.1 c k l f.data f.ty d r.2
        else waitPark r.1 c k l d (swKey p)

/-- `waita` in one warp of the bundle: each lane on its own (R250). -/
def waitaWarp (f : FmtM) : WarpStep := fun x s k ls =>
  let c := x.core
  let e := x.env k
  let form : MemForm := { loadForm (.waita f) f (tyBytes f.ty) f.ty.pos (addrPair f) false false with odd := true }
  let ex := guardLanes s x k ls
  let act := launchedOf s c k ex
  match memCheck form s e ex act with
  | some (cause, on, addr) => raiseTrap s c k cause x.pc { lanes := maskOf on, addr := BitVec.ofNat 64 addr }
  | none =>
    if act != [] && mustDrain s c k act f.order f.scope then parkAll s c k ls .drain
    else
      let repro := s.repro c k
      let isHelper (l : Nat) : Bool := !act.contains l
      let live := ex.filter (fun l => addrPair f s e l % (form.align : Int) = 0)
      let res := memResolveAll form e s (live.map (fun l => (l, isHelper l || repro)))
      let row := match res.1.warp? c k with
        | some w => if repro then rowLanes form res.1 w (res.2.filter (fun r => !isHelper r.1)) else []
        | none => []
      if row != [] then
        raiseTrap res.1 c k Cause.rightOfWay x.pc
          { lanes := maskOf row, addr := BitVec.ofNat 64 (addrPair f s e (row.headD 0)).toNat }
      else
        let fates := res.2.map (fun r => (r.1, memFate form res.1 e (isHelper r.1) repro r.1 r.2))
        let fatal := fates.filterMap (fun r => match r.2 with | .fatal t d => some (r.1, t, d) | _ => none)
        let parks := fates.filterMap (fun r => match r.2 with
          | .park n => some (r.1, (addrPair f s e r.1).toNat, n) | _ => none)
        let zero := ex.filter (fun l => isHelper l && !fates.any (fun r => r.1 = l && (match r.2 with | .sent _ => true | _ => false)))
        let s0 := zero.foldl (fun s l =>
          noteOwned (writeOwned s (.warp c k) l f.ty.pos (laneDest f.data ex l) 0) (.warp c k) (some f.data) 0) res.1
        let s1 := waitIssue s0 c k (ex.filter (fun l => !zero.contains l)) f.data f.ty (tyBytes f.ty) (flagOf x.line f.fs)
        let s2 := fates.foldl (fun s r => match r.2 with
          | .sent a => waitTry f x k s a.lane a.place (readOp s e a.lane f.ty f.ty.pos f.index)
          | .walk => park s c k r.1 (.walk (BitVec.ofNat 64 (addrPair f s e r.1).toNat) .load false)
          | _ => s) s1
        match fatal with
        | (l, t, d) :: _ =>
          let done := ex.filter (fun m => (s2.lane c k m).wait == .run && !fatal.any (fun q => q.1 = m) &&
            !parks.any (fun q => q.1 = m))
          raiseTrap s2 c k t x.pc { lanes := maskOf (fatal.map Prod.fst), done := maskOf done, detail := d,
                                    addr := BitVec.ofNat 64 (addrPair f s e l).toNat }
        | [] =>
          -- A warp parked on a fault leaves the bundle, its other lanes behind the instruction (R36).
          let s3 := parkFaults s2 c k .load false 32 parks
          if parks = [] then s3 else passBy x s3 k (ls.filter (fun l => (s3.lane c k l).wait == .run))

/-- `waita` (R250). -/
def execWaita (f : FmtM) (s : State) : Result :=
  .next (issue (.waita f) [(f.data, f.ty.pos), (f.addr, .w64), (f.index, f.ty.pos)] (waitaWarp f) s)

/-- A request of the lane's parked `waita` to a peer package awaits its answer. -/
def waitAsks (s : State) (c k l : Nat) : Bool :=
  s.ops.anyV (fun _ o => o.owner == .warp c k && o.lanes.any (fun a => a.lane = l && (peerLine a).isSome))

/-- WAITA_RECHECK (R250): the parked lane loads again. When it may be is timing (log 8). -/
def execWaitaRecheck (core slot lane : Nat) (s : State) : Result :=
  .next (match (s.lane core slot lane).wait with
    | .waita _ => if waitAsks s core slot lane then s else wakeAll s core slot [lane]
    | _ => s)

/-! ## Workgroup barriers (R251) -/

/-- Lanes of a workgroup, resident and saved, as core, slot, warp; a saved warp has no core. -/
def wgLaunched (s : State) (g : Nat) : List Nat :=
  let of (w : Warp) : List Nat := w.launchedLanes.map (fun l => w.warpid * 32 + l)
  (wgWarps s g).flatMap (fun e => of e.2.2) ++
    (match s.wgs.at? g with
    | some x => match x.saved with | some v => v.warps.flatMap of | none => []
    | none => [])

/-- Lanes of a workgroup in a wait go on behind it, resident or saved (R97). -/
def wgPassOn (s : State) (g : Nat) (p : Wait → Bool) : State :=
  let s1 := (wgWarps s g).foldl (fun s e => passOn s e.1 e.2.1 (waiting s e.1 e.2.1 p)) s
  s1.modWg g (fun x => match x.saved with
    | some v => { x with saved := some { v with warps := v.warps.map (fun (w : Warp) =>
        { w with lanes := w.lanes.mapV (fun _ y => if p y.wait then { y with pc := nextPc y.pc, wait := .run } else y) }) } }
    | none => x)

/-- Completes the phase of a barrier once every launched, non-exited lane has arrived; its release is an acquire (R97, R251). -/
def tryBarrier (s : State) (g b : Nat) : State :=
  match s.wgs.at? g with
  | none => s
  | some x =>
    let arr := x.bars.atD b []
    if arr != [] && (wgLaunched s g).all (fun i => arr.contains i) then
      let s1 := s.modWg g (fun x => { x with bars := x.bars.del b })
      wgPassOn (x.cores.foldl (fun s c => acquire s c (some g) .wg) s1) g (fun w => w == .bar b || w == .barWait b)
    else s

/-- Warp 0's first arrival at barrier 0 starts the workgroup's access stream, after a write-back of level 1 (R265). -/
def startStream (s : State) (c k : Nat) : State :=
  match (s.core c).streams.at? k with
  | some x => if x.started then s else (writeBackAll s c).modStream c k (fun x => { x with started := true })
  | none => s

/-- The three barrier forms: whether a lane arrives and whether it waits. Helper lanes pass, and so do the lanes whose arrival
completes the phase (R251). -/
def barWarp (b : Nat) (arrives waits : Bool) : WarpStep := fun x s k ls =>
  let c := x.core
  let act := launchedOf s c k (guardLanes s x k ls)
  match s.warp? c k with
  | none => s
  | some w =>
    let key (l : Nat) : Nat := w.warpid * 32 + l
    let arr := match s.wgs.at? w.wg with | some g => g.bars.atD b [] | none => []
    let twice := act.filter (fun l => arr.contains (key l))
    let starts := b = 0 && w.warpid = 0 && (match (s.core c).streams.at? k with | some t => !t.started | none => false)
    if act = [] then s
    else if !arrives then parkAll s c k twice (.barWait b)
    else if twice != [] then raiseTrap s c k Cause.convergence x.pc { lanes := maskOf twice }
    else if fenceWaits s c k act .ar .wg || (starts && wbHeld s c) then parkAll s c k ls .drain
    else
      let s1 := fenceNow (tokenAtBarrier s c k waits) c (some w.wg) .ar .wg
      let s2 := s1.modWg w.wg (fun g => { g with bars := g.bars.put b (arr ++ act.map key) })
      let s3 := tryBarrier (if starts then startStream s2 c k else s2) w.wg b
      let open_ := match s3.wgs.at? w.wg with | some g => g.bars.atD b [] != [] | none => false
      if waits && open_ then parkAll s3 c k act (.bar b) else s3

/-- The barrier number. -/
def barNo (f : FmtS) : Nat := (f.s7.extractLsb' 0 2).toNat

/-- `bar` (R251). -/
def execBar (f : FmtS) (s : State) : Result := .next (issue (.bar f) [] (barWarp (barNo f) true true) s)

/-- `bar.arrive` (R251). -/
def execBarArrive (f : FmtS) (s : State) : Result := .next (issue (.barArrive f) [] (barWarp (barNo f) true false) s)

/-- `bar.wait` (R251). -/
def execBarWait (f : FmtS) (s : State) : Result := .next (issue (.barWait f) [] (barWarp (barNo f) false true) s)

/-- BARRIER_PHASE_COMPLETE (R251). -/
def execBarrierPhaseComplete (wg bar : Nat) (s : State) : Result := .next (tryBarrier s wg bar)

/-- A wait that R251 counts; a wait at `gridbar` is not one (DESIGN CHOICE, log 137). -/
def Wait.blocks : Wait → Bool
  | .bar _ | .barWait _ | .collective _ | .rejoin _ => true
  | _ => false

/-- Every member of the collective that a lane waits at has arrived (R133). -/
def collectiveReady (w : Warp) (pc : DWord) (i : Instr) : Bool :=
  (membersOf w i).all (fun l =>
    let y := w.lanes.atD l Lane.never
    y.pc = pc && (match y.wait with | .collective _ => true | _ => false))

/-- The instruction at a waiting lane's program counter, from the line it holds. -/
def instrAt (line : Line) (pc : DWord) : Option Instr :=
  match decodeSlot line (pc.toNat % 8) with | .ok i => some i | .error _ => none

/-- None of the collectives and rejoins that the lanes given of a warp wait at can issue or release (R134, R136). -/
def warpStuck (s : State) (c k : Nat) (w : Warp) (ls : List Nat) : Bool :=
  ls.all (fun l =>
    let y := w.lanes.atD l Lane.never
    match y.wait with
    | .collective line => match instrAt line y.pc with
      | some i => !collectiveReady w y.pc i
      | none => true
    | .rejoin b =>
      let m := w.bars.atD b 0
      !((maskLanes m).all (fun l => (s.lane c k l).wait == .rejoin b || (s.lane c k l).kind == .exited))
    | .bar _ | .barWait _ => true
    | _ => false)

/-- BARRIER_DEADLOCK (R251): every counted lane waits and none can be released; the 4096 cycles are timing (log 8). -/
def execBarrierDeadlock (wg : Nat) (s : State) : Result :=
  let ws := wgWarps s wg
  let all := ws.all (fun e => e.2.2.launchedLanes.all (fun l => (e.2.2.lanes.atD l Lane.never).wait.blocks) &&
    warpStuck s e.1 e.2.1 e.2.2 e.2.2.launchedLanes)
  let barFree := (List.range 4).any (fun b => (match s.wgs.at? wg with | some x => x.bars.atD b [] != [] | none => false) &&
    (match s.wgs.at? wg with | some x => (wgLaunched s wg).all (fun i => (x.bars.atD b []).contains i) | none => false))
  let saved := match s.wgs.at? wg with | some x => x.saved.isSome | none => true
  if all && !barFree && !saved && (wgLaunched s wg) != [] then
    .next (ws.foldl (fun s e => match e.2.2.present.head? with
      | some l => raiseTrap s e.1 e.2.1 Cause.convergence (e.2.2.lanes.atD l Lane.never).pc { lanes := maskOf e.2.2.present }
      | none => s) s)
  else .next s

/-- CONVERGENCE_TIMEOUT (R134): the warp is stuck at collectives and rejoins; the record names the lowest waiting lane. -/
def execConvergenceTimeout (core slot : Nat) (s : State) : Result :=
  .next (match s.warp? core slot with
    | none => s
    | some w =>
      let waits := w.present.all (fun l => match (w.lanes.atD l Lane.never).wait with
        | .collective _ | .rejoin _ => true
        | _ => false)
      match w.present.head? with
      | some l =>
        if waits && warpStuck s core slot w w.present then
          raiseTrap s core slot Cause.convergence (w.lanes.atD l Lane.never).pc { lanes := maskOf w.present }
        else s
      | none => s)

/-- COLLECTIVE_ISSUE (R133): once every member has arrived, the partition issues no clause and the warp may issue, the members form one bundle
at the instruction, which the next step issues. -/
def execCollectiveIssue (core slot : Nat) (s : State) : Result :=
  .next (match s.warp? core slot with
    | none => s
    | some w =>
      let busy := s.clauses.any (fun x => x.core = core && x.picker == .part w.part)
      let at_ := w.present.find? (fun l => match (w.lanes.atD l Lane.never).wait with
        | .collective line => match instrAt line (w.lanes.atD l Lane.never).pc with
          | some i => collectiveReady w (w.lanes.atD l Lane.never).pc i
          | none => false
        | _ => false)
      match at_ with
      | none => s
      | some l =>
        let y := w.lanes.atD l Lane.never
        match y.wait with
        | .collective line =>
          let held := w.lanes.anyV (fun _ z => z.wait.parksWarp) || w.stopped.any (fun z => z.pc != y.pc)
          if busy || held || w.trapped || haltedLaunch s w.launch then s
          else
            let mine := w.present.filter (fun m => (w.lanes.atD m Lane.never).pc = y.pc &&
              (w.lanes.atD m Lane.never).wait == .collective line)
            let s1 := wakeAll s core slot mine
            { s1 with clauses := { core := core, picker := .part w.part, addr := y.pc &&& ~~~63, line := line, entry := y.pc.toNat % 8,
                                   slot := y.pc.toNat % 8, guard := guardOf (slotWord line (y.pc.toNat % 8)),
                                   lanes := mine.map (fun m => { slot := slot, lane := m }) } :: s1.clauses }
        | _ => s)

/-! ## The grid barrier (R252) -/

/-- Workgroups of a launch. -/
def launchWgs (s : State) (id : Nat) : List (Nat × Wg) := s.wgs.filterV (fun _ g => g.launch = id)

/-- Arrival keys of every launched, non-exited lane of the placed workgroups. -/
def gridLanes (s : State) (id : Nat) (x : Launch) : List Nat :=
  (launchWgs s id).flatMap (fun (e : Nat × Wg) => (wgLaunched s e.1).map (fun i => e.2.g * x.warps * 32 + i))

/-- Releases the grid barrier once every workgroup is placed and every lane has arrived (R252). -/
def tryGrid (s : State) (id : Nat) : State :=
  match s.launches.at? id with
  | none => s
  | some x =>
    if x.gridArr != [] && x.total ≤ x.next && (gridLanes s id x).all (fun i => x.gridArr.contains i) then
      let s1 := s.modLaunch id (fun x => { x with gridArr := [] })
      let cores := (s1.cores.filterV (fun _ y => y.launch = some id)).map Prod.fst
      let s2 := cores.foldl (fun s c => acquire s c (((s.core c).warps.head?).map (fun (w : Nat × Warp) => w.2.wg)) .pkg) s1
      (launchWgs s2 id).foldl (fun s (e : Nat × Wg) => wgPassOn s e.1 (fun w => w == .gridbar)) s2
    else s

/-- `gridbar` (R252). -/
def execGridbar (s : State) : Result :=
  .next (issue .gridbar [] (fun x s k ls =>
    let c := x.core
    let ex := guardLanes s x k ls
    let act := launchedOf s c k ex
    match s.warp? c k, s.launchOf c k, s.wgOf c k with
    | some w, some y, some g =>
      if ex = [] then s
      else if !y.flag 7 then raiseTrap s c k Cause.contract x.pc { lanes := maskOf ex }
      else if act = [] then s
      else if fenceWaits s c k act .ar .pkg then parkAll s c k ls .drain
      else
        let s1 := fenceNow (tokenAtBarrier s c k true) c (some w.wg) .ar .pkg
        let keys := act.map (fun l => (g.g * y.warps + w.warpid) * 32 + l)
        let s2 := s1.modLaunch w.launch (fun y => { y with gridArr := y.gridArr ++ keys })
        let s3 := tryGrid s2 w.launch
        let open_ := match s3.launches.at? w.launch with | some y => y.gridArr != [] | none => false
        if open_ then parkAll s3 c k act .gridbar else s3
    | _, _, _ => s) s)

/-- GRIDBAR_COMPLETE (R252). -/
def execGridbarComplete (launch : Nat) (s : State) : Result := .next (tryGrid s launch)

/-! ## Course and token waits (R253) -/

/-- Outside a reproducible launch the four forms trap (R253). -/
def reproOnly (f : WarpStep) : WarpStep := fun x s k ls =>
  let ex := guardLanes s x k ls
  if ex = [] then s
  else if !s.repro x.core k then raiseTrap s x.core k Cause.contract x.pc { lanes := maskOf ex }
  else f x s k ls

/-- `cwait` (R253): a lane goes on once the committed course reaches A, with an acquire at span scope. -/
def execCwait (f : FmtS) (s : State) : Result :=
  .next (issue (.cwait f) [(f.a, .w32)] (reproOnly (fun x s k ls =>
    let c := x.core
    let ex := guardLanes s x k ls
    let need (l : Nat) : Nat := readOp s (x.env k) l .n32 .w32 f.a
    let go := ex.filter (fun l => need l ≤ s.rep.committed.toNat)
    let s1 := tokenAtBarrier s c k (go.length != ex.length)
    let s2 := if go = [] then s1 else acquire s1 c (wgIdOf s1 c k) .span
    (ex.filter (fun l => !go.contains l)).foldl (fun s l => park s c k l (.cwait (need l))) s2)) s)

/-- The warp takes the token: an acquire at span scope (R97, R342). -/
def takeToken (s : State) (c : Nat) (w : Warp) : State :=
  acquire (s.modLaunch w.launch (fun x => { x with held := true })) c (some w.wg) .span

/-- `rowait` (R253). -/
def execRowait (s : State) : Result :=
  .next (issue .rowait [] (reproOnly (fun x s k ls =>
    match s.warp? x.core k with
    | none => s
    | some w =>
      if holdsToken s w then s
      else if tokenAt s w then takeToken s x.core w
      else parkAll s x.core k ls .rowait)) s)

/-- `ropass` (R253): a release at span scope, then the token moves on; any other warp does nothing. -/
def execRopass (s : State) : Result :=
  .next (issue .ropass [] (reproOnly (fun x s k ls =>
    match s.warp? x.core k with
    | none => s
    | some w =>
      if !holdsToken s w then s
      else if mustDrain s x.core k lanes32 .rel .span then parkAll s x.core k ls .drain
      else passToken (release s x.core (some w.wg) .span) w.launch false)) s)

/-- `rowhold` (R253). -/
def execRowhold (f : FmtS) (s : State) : Result :=
  .next (issue (.rowhold f) [] (reproOnly (fun x s k ls =>
    let h := match s.warp? x.core k with | some w => holdsToken s w | none => false
    putPreds s x.core k (some f.pw) ((guardLanes s x k ls).map (fun l => (l, h))))) s)

/-- Places of the warp at which the token of a launch stands. -/
def tokenWarp (s : State) (id : Nat) : Option (Nat × Nat × Warp) :=
  match s.launches.at? id with
  | some x => match x.token with
    | some p => ((launchWgs s id).find? (fun e => e.2.g = p / x.warps)).bind (fun (e : Nat × Wg) =>
        (wgWarps s e.1).find? (fun w => w.2.2.warpid = p % x.warps))
    | none => none
  | none => none

/-- TOKEN_ARRIVES (R341, R342): the token comes to this package, to its first live warp; and where it stands at a warp that waits
in `rowait`, that warp takes it. -/
def execTokenArrives (launch : Nat) (s : State) : Result :=
  .next (match s.launches.at? launch with
    | none => s
    | some x =>
      if !x.repro then s
      else match x.token with
        | none => s.modLaunch launch (fun x => { x with token := minOf (livePositions s launch x), held := false })
        | some p =>
          match tokenWarp s launch with
          | some (c, k, w) =>
            let ls := waiting s c k (fun y => y == .rowait)
            if parkedAt s launch x p then passToken s launch true
            else if x.held || ls = [] then s
            else passOn (takeToken s c w) c k ls
          | none => s)

/-! ## `pause` (R259) -/

/-- `pause` (R259). -/
def execPause (f : FmtS) (s : State) : Result :=
  .next (issue (.pause f) [(f.a, .w32)] (fun x s k ls =>
    (guardLanes s x k ls).foldl (fun s l =>
      let n := Nat.min 65535 (readOp s (x.env k) l .n32 .w32 f.a)
      if n = 0 then s else park s x.core k l (.pause n)) s) s)

/-- PAUSE_EXPIRY (R259). -/
def execPauseExpiry (core slot lane : Nat) (s : State) : Result :=
  .next (match (s.lane core slot lane).wait with
    | .pause _ => passOn s core slot [lane]
    | _ => s)

end Sys2Proof.Machine
end

