-- ==== Sys2Proof/Machine/Pools.lean ====
section
/-! DEFINITION. Group 0x9, second part: read sections, `grace`, the deferred-free queue and the block pools (R98, R167 to R169,
R254 to R258), and the hardware steps of the milestone tracker. -/

namespace Sys2Proof.Machine

/-! ## Read sections (R98, R254) -/

/-- A form that acts once for the warp, when some member's guard is true. -/
def onceWarp (f : Clause → State → Nat → List Nat → Warp → State) : WarpStep := fun x s k ls =>
  match s.warp? x.core k with
  | some w => if guardLanes s x k ls = [] then s else f x s k ls w
  | none => s

/-- `mile` (R167, R254): with an open section it first waits for the warp's loads. -/
def execMile (s : State) : Result :=
  .next (issue .mile [] (onceWarp (fun x s k ls w =>
    if w.depth != 0 && loadsOut s x.core k then parkAll s x.core k ls .drain else splitSection s x.core k)) s)

/-- The package or span scope of a section form, from S7[3:2] (R248). -/
def isSpan (f : FmtS) : Bool := f.s7.extractLsb' 2 2 == 3

/-- `rsec.begin` (R98 step 1). -/
def execRsecBegin (f : FmtS) (s : State) : Result :=
  .next (issue (.rsecBegin f) [] (onceWarp (fun x s k ls w =>
    if w.depth = 255 then raiseTrap s x.core k Cause.contract x.pc { lanes := maskOf (guardLanes s x k ls) }
    else
      let s1 := s.modWarp x.core k (fun w =>
        { stamped s w with depth := w.depth + 1, secSpan := isSpan f || (w.depth != 0 && w.secSpan) })
      if w.depth = 0 then acquire s1 x.core (some w.wg) (if isSpan f then .span else .pkg) else s1)) s)

/-- `rsec.end` (R98 step 2). -/
def execRsecEnd (s : State) : Result :=
  .next (issue .rsecEnd [] (onceWarp (fun x s k ls w =>
    if w.depth = 0 then raiseTrap s x.core k Cause.contract x.pc { lanes := maskOf (guardLanes s x k ls) }
    else if w.depth = 1 && loadsOut s x.core k then parkAll s x.core k ls .drain
    else
      let s1 := s.modWarp x.core k (fun w => { w with depth := w.depth - 1 })
      if w.depth = 1 then registerPass s1 x.core k else s1)) s)

/-- `rsdepth` (R254). -/
def execRsdepth (f : FmtA) (s : State) : Result :=
  .next (issue (.rsdepth f) [(f.d, .w32)] (fun x s k ls =>
    let d := match s.warp? x.core k with | some w => w.depth | none => 0
    (Arith.of [] (some (f.d, .w32)) none (fun _ _ => (d, false))).warp (.rsdepth f) f.pw x s k ls) s)

/-- A `grace` or `dfree` acts at span scope: in a span of one, span scope is package scope (R104). -/
def actsSpan (s : State) (f : FmtS) : Bool := isSpan f && decide (1 < s.fab.size)

/-- Snapshots of a scope that are outstanding (R168). -/
def snapsOut (s : State) (span : Bool) : Nat := (s.track.snaps.filter (fun x => x.span = span)).length

/-- `grace` (R98 step 3, R168). -/
def execGrace (f : FmtS) (s : State) : Result :=
  .next (issue (.grace f) [] (onceWarp (fun x s k ls w =>
    let sc : Scope := if actsSpan s f then .span else .pkg
    if w.depth != 0 then raiseTrap s x.core k Cause.contract x.pc { lanes := maskOf (guardLanes s x k ls) }
    else if mustDrain s x.core k lanes32 .rel sc then parkAll s x.core k ls .drain
    else if 16 ≤ snapsOut s (actsSpan s f) then parkAll s x.core k ls .graceSlot
    else
      let id := s.fresh
      parkAll (takeSnapshot (release s x.core (some w.wg) sc) (actsSpan s f)) x.core k ls (.grace id))) s)

/-! ## Block pools (R256, R257) -/

/-- A field of a pool's descriptor (R256). -/
def poolFld (s : State) (p off n : Nat) : Nat := s.rdDev (s.bpBase.toNat + 32 * p + off) n
def poolLg (s : State) (p : Nat) : Nat := poolFld s p 12 1
def poolCtx (s : State) (p : Nat) : Nat := poolFld s p 13 1

/-- The pool is configured (R255, R256, R373): a descriptor whose lg is no block size that R256 gives, 1 to 5 or above 30, counts as
unconfigured too (DESIGN CHOICE, log 131). -/
def poolOk (s : State) (p : Nat) : Bool :=
  p < 256 && s.bpBase != 0 && 6 ≤ poolLg s p && poolLg s p ≤ 30

/-- The code, beside those of R34, of a link word in a retired frame (R362). -/
def linkLost : Nat := 16

/-- The physical address of a pool's link word; a fault of the pool logic is fatal (R35, R257). -/
def linkPa (s : State) (c ctx va : Nat) (write : Bool) : State × Except Nat Nat :=
  match resolveNow s { core := c, ctx := ctx, wg := none, regs := none, dbg := false }
      { kind := .population, write := write, odd := true, width := 8 } va with
  | (s1, .ok (.mem pa) _) | (s1, .ok (.side pa) _) =>
    (s1, if s1.rel.badLines.contains (pa / 65536) then .error linkLost else .ok pa)
  | (s1, .ok (.peer _ _) _) => (s1, .error XCause.attribute)
  | (s1, .ok _ _) => (s1, .error XCause.window)
  | (s1, .miss) => (s1, .error XCause.notPresent)
  | (s1, .fault f) => (s1, .error f)

/-- What taking a block finds. -/
inductive Taken where
  | empty
  | block (addr : Nat)
  | fault (cause addr : Nat)

/-- `balloc` at the pool (R257): the link word of the block handed out is left unspecified (a free value, log 2). In a reproducible launch it
depends on nothing but the block, so that no timing shows in it (R334). -/
def poolTake (s : State) (c p salt : Nat) (repro : Bool) : State × Taken :=
  let base := s.bpBase.toNat + 32 * p
  let head := poolFld s p 0 8
  if head = 0 then (s, .empty)
  else
    match linkPa s c (poolCtx s p) head true with
    | (s1, .error f) => (s1, .fault f head)
    | (s1, .ok pa) =>
      let link := Mem.rd s1.mem pa 8
      let s2 := s1.wrDev base (leBytes 8 link ++ leBytes 4 (poolFld s p 8 4 + 2 ^ 32 - 1))
      (s2.wrMem pa 8 (Config.freeBits (if repro then head else s.tick * 64 + salt)).toNat, .block head)

/-- `bfree` of n consecutive blocks at the pool, ascending (R257); a fault leaves the pool as it was. -/
def poolGive (s : State) (c p addr : Nat) : Nat → State × Option (Nat × Nat)
  | 0 => (s, none)
  | n + 1 =>
    let base := s.bpBase.toNat + 32 * p
    match linkPa s c (poolCtx s p) (addr % 2 ^ 64) true with
    | (s1, .error f) => (s1, some (f, addr))
    | (s1, .ok pa) =>
      let s2 := s1.wrMem pa 8 (poolFld s p 0 8)
      let s3 := s2.wrDev base (leBytes 8 addr ++ leBytes 4 (poolFld s p 8 4 + 1))
      poolGive s3 c p (addr + 2 ^ poolLg s p) n

/-- Frees a range, or nothing where it faults. -/
def poolFree (s : State) (c p addr size : Nat) : State × Option (Nat × Nat) :=
  match poolGive s c p addr (size / 2 ^ poolLg s p) with
  | (s1, none) => (s1, none)
  | (_, some e) => (s, some e)

/-- The fate of a lane's address, size and pool (R255). -/
def poolFate (s : State) (addr size p : Nat) : Option Nat :=
  if !poolOk s p then some Cause.contract
  else
    let b := 2 ^ poolLg s p
    if size = 0 || size % b != 0 || addr % b != 0 then some Cause.misaligned else none

/-- Traps that a check of every issuing lane raises: those of the lowest lane that fails (R237, R255). -/
def lanesTrap (x : Clause) (s : State) (k : Nat) (act : List Nat) (chk : Nat → Option (Nat × Nat)) : Option State :=
  match act.findSome? (fun l => (chk l).map (fun e => (e.1, e.2))) with
  | none => none
  | some (cause, addr) =>
    let on := act.filter (fun l => match chk l with | some e => e.1 = cause | none => false)
    some (raiseTrap s x.core k cause x.pc { lanes := maskOf on, addr := BitVec.ofNat 64 addr })

/-- A pool form in a reproducible launch needs the token, whatever the kinds of the lanes that execute it (R258). -/
def rowTrap (x : Clause) (s : State) (k : Nat) (ex : List Nat) : Option State :=
  match s.warp? x.core k with
  | some w => if ex != [] && s.repro x.core k && !holdsToken s w then
      some (raiseTrap s x.core k Cause.rightOfWay x.pc { lanes := maskOf ex })
    else none
  | none => none

/-- A queue among the operands of a format A form. -/
def popOf (ops : List Operand) : Option (Nat × Bool) :=
  ops.findSome? (fun o => match o with | .queue q nb => some (q.toNat, nb) | _ => none)

/-- A fatal fault in the pool logic raises the translation trap in the warp that asked and fails its launch (R35, R39, log 124): the lane
that met it, the fault and its address, and the lanes that are done. A link word in a retired frame raises the data-loss trap alone
(R362). -/
def poolFails (s : State) (c k : Nat) (pc : DWord) (done : List Nat) : Option (Nat × Nat × Nat) → State
  | none => s
  | some (l, e, a) =>
    let s1 := raiseTrap s c k (if e = linkLost then Cause.dataLoss else Cause.translation) pc
      { lanes := maskOf [l], done := maskOf done, detail := e % 16, addr := BitVec.ofNat 64 a }
    match if e = linkLost then none else s.warp? c k with
    | some w => killLaunch s1 w.launch
    | none => s1

/-- `balloc` (R257): lanes in ascending order; a helper lane takes no block (log 61). -/
def execBalloc (f : FmtA) (s : State) : Result :=
  .next (issue (.balloc f) [(f.d, .w64), (f.c, .w32)] (fun x s k ls =>
    let c := x.core
    let ex := guardLanes s x k ls
    let act := launchedOf s c k ex
    let pool (s : State) (ws : List Word) (l : Nat) : Nat := readOp s { x.env k with pop := ws } l .n32 .w32 f.c
    let chk (s : State) (ws : List Word) (l : Nat) : Option (Nat × Nat) :=
      if !poolOk s (pool s ws l) || poolCtx s (pool s ws l) != s.ctxOf c k then some (Cause.contract, 0) else none
    let lane (ws : List Word) (r : State × List Nat × Option (Nat × Nat × Nat)) (l : Nat) : State × List Nat × Option (Nat × Nat × Nat) :=
      match r.2.2 with
      | some _ => r
      | none =>
        let put (s : State) (v : Nat) (ok : Bool) : State :=
          putPreds (putResults s c k (some (laneDest f.d ex l, .w64)) [(l, v)]) c k (some f.pw) [(l, ok)]
        if !act.contains l then (put r.1 0 false, l :: r.2.1, none)
        else match poolTake r.1 c (pool s ws l) l (s.repro c k) with
          | (s1, .empty) => (put s1 0 false, l :: r.2.1, none)
          | (s1, .block a) => (put s1 a true, l :: r.2.1, none)
          | (s1, .fault e a) => (s1, r.2.1, some (l, e, a))
    queueWarp (.balloc f) (popOf [f.c]) none 7 ex
      (fun s ws => (rowTrap x s k ex).or (lanesTrap x s k act (chk s ws)))
      (fun s ws _ =>
        let r := ex.foldl (lane ws) (s, [], none)
        poolFails r.1 c k x.pc r.2.1 r.2.2)
      (fun s ls => setLatches s c k x.slot ls (some (f.d, .w64))) x s k ls) s)

/-- `bfree` (R257): frees at once, with the fates of R255. -/
def execBfree (f : FmtS) (s : State) : Result :=
  .next (issue (.bfree f) [(f.a, .w64), (f.b, .w32), (f.c, .w32)] (fun x s k ls =>
    let c := x.core
    let ex := guardLanes s x k ls
    let act := launchedOf s c k ex
    let addr (l : Nat) : Nat := readOp s (x.env k) l .b64 .w64 f.a
    let size (l : Nat) : Nat := readOp s (x.env k) l .n32 .w32 f.b
    let pool (l : Nat) : Nat := readOp s (x.env k) l .n32 .w32 f.c
    let chk (l : Nat) : Option (Nat × Nat) :=
      match poolFate s (addr l) (size l) (pool l) with
      | some e => some (e, addr l)
      | none => if poolCtx s (pool l) != s.ctxOf c k then some (Cause.contract, 0) else none
    match (rowTrap x s k ex).or (lanesTrap x s k act chk) with
    | some t => t
    | none =>
      let r := act.foldl (fun (r : State × List Nat × Option (Nat × Nat × Nat)) l =>
        match r.2.2 with
        | some _ => r
        | none => match poolFree r.1 c (pool l) (addr l) (size l) with
          | (s1, none) => (s1, l :: r.2.1, none)
          | (s1, some (e, a)) => (s1, r.2.1, some (l, e, a))) (s, [], none)
      poolFails r.1 c k x.pc r.2.1 r.2.2) s)

/-- `bpstat` (R257): its checks are those of every executing lane, a helper lane among them, as the word is read for each. -/
def execBpstat (f : FmtA) (s : State) : Result :=
  .next (issue (.bpstat f) [(f.d, .w32), (f.c, .w32)] (fun x s k ls =>
    let c := x.core
    let ex := guardLanes s x k ls
    let a (s : State) : Arith := Arith.of [(f.c, .w32, .n32)] (some (f.d, .w32)) none (fun _ v => (poolFld s (v.headD 0) 8 4, false))
    let chk (s : State) (ws : List Word) (l : Nat) : Option (Nat × Nat) :=
      let p := readOp s { x.env k with pop := ws } l .n32 .w32 f.c
      if !poolOk s p || poolCtx s p != s.ctxOf c k then some (Cause.contract, 0) else none
    queueWarp (.bpstat f) (popOf [f.c]) (popOf [f.d]) f.pw ex
      (fun s ws => (rowTrap x s k ex).or (lanesTrap x s k ex (chk s ws)))
      (fun s ws nb => (a s).apply x s k ex ws none nb)
      (fun s ls => setLatches s c k x.slot ls (some (f.d, .w32))) x s k ls) s)

/-! ## The deferred-free queue (R169, R255) -/

/-- Entries the queue holds (R169). -/
def dfqSlots : Nat := 65536

/-- `dfree` (R255, and R257 for the context of the pool; log 19): every lane is checked, then one entry is pushed per lane, ascending; a lane that finds the queue full waits. -/
def execDfree (f : FmtS) (s : State) : Result :=
  .next (issue (.dfree f) [(f.a, .w64), (f.b, .w32), (f.c, .w32)] (fun x s k ls =>
    let c := x.core
    let act := launchedOf s c k (guardLanes s x k ls)
    let addr (l : Nat) : Nat := readOp s (x.env k) l .b64 .w64 f.a
    let size (l : Nat) : Nat := readOp s (x.env k) l .n32 .w32 f.b
    let pool (l : Nat) : Nat := readOp s (x.env k) l .n32 .w32 f.c
    let chk (l : Nat) : Option (Nat × Nat) :=
      if s.dfqBase = 0 then some (Cause.contract, 0)
      else match poolFate s (addr l) (size l) (pool l) with
        | some e => some (e, addr l)
        | none => if poolCtx s (pool l) != s.ctxOf c k then some (Cause.contract, 0) else none
    match lanesTrap x s k act chk with
    | some t => t
    | none =>
      if collectiveIn s c k (.dfree f) && act != [] && dfqSlots < s.dfq.length + act.length then parkAll s c k ls .dfree
      else act.foldl (fun s l =>
        if dfqSlots ≤ s.dfq.length then park s c k l .dfree
        else
          let e : DfEntry := { addr := BitVec.ofNat 64 (addr l), size := size l, pool := pool l, span := actsSpan s f,
                               stamp := if actsSpan s f then s.track.takenSpan else s.track.takenPkg,
                               queue := match s.launchOf c k with | some y => y.queue | none => 0,
                               course := match s.launchOf c k with | some y => BitVec.ofNat 32 y.course | none => 0,
                               launch := match s.warp? c k with | some w => w.launch | none => 0,
                               repro := s.repro c k }
          { s with dfq := s.dfq ++ [e] }) s) s)

/-- Releases one entry into its pool; a fault fails the launch that pushed it, or is logged once that has ended (R169). -/
def dfRelease (s : State) (e : DfEntry) : State :=
  match poolFree s 0 e.pool e.addr.toNat e.size with
  | (s1, none) => s1
  | (s1, some (cause, _)) =>
    match s1.launches.at? e.launch with
    | some _ => killLaunch s1 e.launch
    | none => logEvent s1 18 (channelOf (s1.bpBase.toNat + 32 * e.pool) / 32)
        (e.addr.toNat + 2 ^ 64 * (cause % 16 + 2 ^ 8 * (e.pool % 256) + 2 ^ 16 * e.queue))

/-- Lanes that wait in `dfree` try again. -/
def wakeWait (s : State) (p : Wait → Bool) : State :=
  { s with cores := s.cores.mapV (fun _ y => { y with warps := y.warps.mapV (fun _ w =>
      { w with lanes := w.lanes.mapV (fun _ l => if p l.wait then { l with wait := .run } else l) }) }) }

/-- Releases the entries that a test names, in push order (R169). -/
def dfReleaseAll (s : State) (p : DfEntry → Bool) : State :=
  let out := s.dfq.filter p
  let s1 := out.foldl dfRelease { s with dfq := s.dfq.filter (fun e => !p e) }
  if out = [] then s1 else wakeWait s1 (fun w => w == .dfree)

/-- Lanes of every warp in a wait go on behind it, resident or saved. -/
def passAllOn (s : State) (p : Wait → Bool) : State :=
  let s1 := s.cores.foldl (fun s (e : Nat × Core) => e.2.warps.foldl (fun s (w : Nat × Warp) =>
    passOn s e.1 w.1 (waiting s e.1 w.1 p)) s) s
  s1.wgs.foldl (fun s (g : Nat × Wg) => s.modWg g.1 (fun x => match x.saved with
    | some v => { x with saved := some { v with warps := v.warps.map (fun (w : Warp) =>
        { w with lanes := w.lanes.mapV (fun _ y => if p y.wait then { y with pc := nextPc y.pc, wait := .run } else y) }) } }
    | none => x)) s1

/-- GRACE_COMPLETE (R98 steps 3 and 4, R168, R169): once every warp of the snapshot has passed a milestone, the `grace` goes on,
a waiting one may start, and the older deferred frees of its scope return to their pools, those of reproducible launches
excepted. -/
def execGraceComplete (snap : Nat) (s : State) : Result :=
  .next (match s.track.snaps.find? (fun x => x.id = snap) with
    | none => s
    | some x =>
      let gone (p : Nat × Nat) : Bool := !(sectionWarps s).contains p
      if !x.warps.all gone then s
      else
        let s1 := { s with track := { s.track with snaps := s.track.snaps.filter (fun y => y.id != snap) } }
        let s2 := passAllOn s1 (fun w => w == .grace snap)
        let s3 := wakeWait s2 (fun w => w == .graceSlot)
        dfReleaseAll s3 (fun e => e.span = x.span && decide (e.stamp < x.number) && !e.repro))

/-- INTERNAL_GRACE (R169): the tracker takes a snapshot of its own at the scope of an entry that waits; the 100 µs are timing
(log 8), and a queue more than half full needs no wait. -/
def execInternalGrace (span : Bool) (s : State) : Result :=
  .next (if s.dfq.any (fun e => e.span = span && !e.repro) && snapsOut s span < 16 then takeSnapshot s span else s)

end Sys2Proof.Machine
end

