-- ==== Sys2Proof/Machine/Queue.lean ====
section
/-! DEFINITION. Group 0xA, first part: the queues of a workgroup (R17, R180, R260 to R262), and the hardware steps that end
the waits on them. -/

namespace Sys2Proof.Machine

/-- `push` (R262): a move whose destination is a queue. -/
def execPush (f : FmtA) (s : State) : Result :=
  .next (arith (.push f) (Arith.of [(f.a, .w32, f.ty)] (some (f.d, .w32)) none (fun _ v => (v.headD 0, false))) f.pw s)

/-- `pop` (R262): a move whose source is a queue. -/
def execPop (f : FmtA) (s : State) : Result :=
  .next (arith (.pop f) (Arith.of [(f.a, .w32, f.ty)] (some (f.d, .w32)) none (fun _ v => (v.headD 0, false))) f.pw s)

/-- `qpeek` (R262): a pop that removes nothing. -/
def execQpeek (f : FmtA) (s : State) : Result :=
  .next (issue (.qpeek f) [(f.d, .w32)] (fun x s k ls =>
    let c := x.core
    let ex := guardLanes s x k ls
    let a : Arith := Arith.of [(f.a, .w32, f.ty)] (some (f.d, .w32)) none (fun _ v => (v.headD 0, false))
    let fin (s : State) (ls : List Nat) : State := setLatches s c k x.slot ls (some (f.d, .w32))
    match popOf [f.a], wgIdOf s c k with
    | some (q, nb), some g =>
      if ex = [] then fin s ls
      else match queueHead s g q with
        | .unconfigured => raiseTrap s c k Cause.contract x.pc { lanes := maskOf ex }
        | .blocked =>
          if nb then fin (putPreds s c k (some f.pw) (ex.map (fun l => (l, false)))) ls
          else
            let again := retrying (.qpeek f) s c k ls ex
            fin (parkAll s c k again (.pop q)) (ls.filter (fun l => !again.contains l))
        | .ready ws => fin (a.apply x (acquire s c (some g) .wg) k ex ws none (if nb then some f.pw else none)) ls
    | _, _ => s) s)

/-- A lane, a saved lane or the stream of a workgroup waits on a queue. -/
def queueWaited (s : State) (g q : Nat) : Bool :=
  let w (x : Warp) : Bool := x.lanes.anyV (fun _ l => l.wait == .push q || l.wait == .pop q)
  (wgWarps s g).any (fun e => w e.2.2) ||
    (match s.wgs.at? g with
    | some x => (match x.saved with | some v => v.warps.any w | none => false)
    | none => false) ||
    s.cores.anyV (fun _ y => y.streams.anyV (fun _ t => t.wg = g && (t.wait == .push q || t.wait == .pop q)))

/-- `qcfg` (R261): A is a warp-uniform register, and B is read in the lowest executing lane. -/
def execQcfg (f : FmtS) (s : State) : Result :=
  .next (issue (.qcfg f) [(f.b, .w32)] (onceWarp (fun x s k ls w =>
    let c := x.core
    let ex := guardLanes s x k ls
    let q := f.s7.toNat % 64
    let rd (o : Operand) : Nat := readOp s (x.env k) (ex.headD 0) .n32 .w32 o
    let a := rd f.a
    let n := rd f.b
    match s.wgs.at? w.wg with
    | none => s
    | some g =>
      let full := match g.queues.at? q with | some y => y.count != 0 | none => false
      let size := spSize (s.core (g.cores.headD 0)).part
      if a % 128 != 0 || n = 0 || 256 < n || size < a + 128 * n || full || queueWaited s w.wg q then
        raiseTrap s c k Cause.contract x.pc { lanes := maskOf ex }
      else s.modWg w.wg (fun g => { g with queues := g.queues.put q { off := a, cap := n, head := 0, count := 0 } }))) s)

/-- `qstat` (R262): entries below, allowance above. -/
def execQstat (f : FmtA) (s : State) : Result :=
  .next (issue (.qstat f) [(f.d, .w32)] (fun x s k ls =>
    let c := x.core
    let ex := guardLanes s x k ls
    let q := match f.a with | .imm v => v.toNat | _ => 0
    let found := match s.wgOf c k with | some g => g.queues.at? q | none => none
    match found with
    | none => if ex = [] then s else raiseTrap s c k Cause.contract x.pc { lanes := maskOf ex }
    | some y =>
      (Arith.of [] (some (f.d, .w32)) none (fun _ _ => (y.count + 2 ^ 16 * (y.cap - y.count), false))).warp (.qstat f) f.pw x s k ls) s)

/-- Lanes and the stream of a workgroup in a wait on a queue try again; a saved waiter does on its restore (R262). -/
def queueWake (s : State) (g : Nat) (w : Wait) : State :=
  let s1 := (wgWarps s g).foldl (fun s e => wakeAll s e.1 e.2.1 (waiting s e.1 e.2.1 (fun y => y == w))) s
  { s1 with cores := s1.cores.mapV (fun _ y => { y with
      streams := y.streams.mapV (fun _ t => if t.wg = g && t.wait == w then { t with wait := .run } else t) }) }

/-- QUEUE_PUSH_UNBLOCK (R17). -/
def execQueuePushUnblock (wg q : Nat) (s : State) : Result :=
  .next (match queueRoom s wg q with
    | .ready _ => queueWake s wg (.push q)
    | _ => s)

/-- QUEUE_POP_UNBLOCK (R17). -/
def execQueuePopUnblock (wg q : Nat) (s : State) : Result :=
  .next (match queueHead s wg q with
    | .ready _ => queueWake s wg (.pop q)
    | _ => s)

end Sys2Proof.Machine
end

