-- ==== Sys2Proof/Machine/Copy.lean ====
section
/-! DEFINITION. Group 0xA, second part: the copy channels (R64 to R73, R77, R78, R260, R263, R264), their faults (R35, R39), and
the hardware steps that move a command on. -/

namespace Sys2Proof.Machine

/-! ## Where a command writes -/

/-- Destination and source addresses of a position in destination order, and the bytes left in its run (R65, R260). -/
def CopyCmd.spot (x : CopyCmd) (p : Nat) : Nat × Nat × Nat :=
  match x.form with
  | .rows b _ ss ds =>
    ((x.dst.toNat + p / b * ds + p % b) % 2 ^ 64, (x.src.toNat + p / b * ss + p % b) % 2 ^ 64, b - p % b)
  | _ => ((x.dst.toNat + p) % 2 ^ 64, (x.src.toNat + p) % 2 ^ 64, x.len - p)

/-- The destination of positions p to q − 1 as address ranges. -/
def CopyCmd.rangesOf (x : CopyCmd) (p q : Nat) : List (Nat × Nat) :=
  let piece (lo hi : Nat) : List (Nat × Nat) := if Nat.max lo p < Nat.min hi q then
      [((x.spot (Nat.max lo p)).1, Nat.min hi q - Nat.max lo p)]
    else []
  match x.form with
  | .rows b n _ _ => (List.range n).flatMap (fun r => piece (r * b) (r * b + b))
  | _ => piece 0 x.len

/-- The parts of a range in each 64 KiB granule. -/
def granuleParts (r : Nat × Nat) : List (Nat × Nat) :=
  (List.range ((r.1 + r.2 - 1) / 65536 - r.1 / 65536 + 1)).map (fun i =>
    let lo := Nat.max r.1 ((r.1 / 65536 + i) * 65536)
    let hi := Nat.min (r.1 + r.2) ((r.1 / 65536 + i + 1) * 65536)
    (lo, hi - lo))

/-- The destination of positions p to q − 1, by granule. -/
def CopyCmd.partsOf (x : CopyCmd) (p q : Nat) : List (Nat × Nat) := (x.rangesOf p q).flatMap granuleParts

def CopyCmd.parts (x : CopyCmd) : List (Nat × Nat) := x.partsOf 0 x.len

/-- A copy channel as the address decoder sees it. -/
def copyWho (c : Nat) (x : CopyCmd) : Who := { core := c, ctx := x.ctx, wg := some x.wg, regs := none, dbg := false }

/-- Where a destination address of a command is written. -/
def copyDst (s : State) (c : Nat) (x : CopyCmd) (va : Nat) : State × Res :=
  match x.form, resolveNow s (copyWho c x) { kind := .copy, write := true, odd := true, width := 4 } va with
  | .multicast _, (s1, .ok (.mem pa) e) => (s1, .ok (.mem pa) e)
  | .multicast _, (s1, .ok (.store _ _) _) => (s1, .fault XCause.window)
  | .multicast _, (s1, .ok _ _) => (s1, .fault XCause.attribute)
  | _, r => r

/-- Destination granules that ownership may cover: pages on which R68 takes no record do not count (R69). -/
def CopyCmd.granules (s : State) (c : Nat) (x : CopyCmd) : List Nat :=
  ((x.parts.filter (fun p => match regionOf p.1 with
    | .general | .peer _ => (match (copyDst s c x p.1).2 with | .ok (.side _) _ => false | .ok (.peer _ _) _ => false | _ => true)
    | _ => false)).map (fun p => p.1 / 65536)).eraseDups

/-- Lines on local general pages among parts of the destination (R67, R68). -/
def CopyCmd.linesIn (s : State) (c : Nat) (x : CopyCmd) (ps : List (Nat × Nat)) : List Nat :=
  (ps.flatMap (fun p => match (copyDst s c x p.1).2 with
    | .ok (.mem pa) _ => linesOf pa p.2
    | _ => [])).eraseDups

/-- Destination lines on local general pages. -/
def CopyCmd.lines (s : State) (c : Nat) (x : CopyCmd) : List Nat := x.linesIn s c x.parts

/-- The first destination granule that does not translate yet, by a fault that replays: its cause and address (R35). -/
def CopyCmd.missing (s : State) (c : Nat) (x : CopyCmd) : Option (Nat × Nat) :=
  x.parts.findSome? (fun p => match (copyDst s c x p.1).2 with
    | .fault f => if replayable s .copy f then some (f, p.1) else none
    | _ => none)

/-! ## A channel -/

def State.chan (s : State) (c ch : Nat) : Chan := (s.core c).chans.atD ch Chan.reset
def State.modChan (s : State) (c ch : Nat) (f : Chan → Chan) : State :=
  s.modCore c (fun x => { x with chans := x.chans.put ch (f (x.chans.atD ch Chan.reset)) })
def State.modCmd (s : State) (c ch : Nat) (f : CopyCmd → CopyCmd) : State :=
  s.modChan c ch (fun y => { y with cmd := y.cmd.map f })

/-- The write-pointer register (R64). -/
def Chan.value (y : Chan) : Nat := y.seq.toNat * 2 ^ 48 + y.done % 2 ^ 48

/-- Lowers a flag that an engine command raised in its warp, wherever the warp is (R130, R263). -/
def lowerFlagOf (s : State) (wg warpid : Nat) (flag : Option Nat) : State :=
  match flag with
  | none => s
  | some n =>
    match (wgWarps s wg).find? (fun e => e.2.2.warpid = warpid) with
    | some (c, k, _) => settleOps (lowerFlag s c k flag) c
    | none => s.modSaved wg warpid (fun w => { w with flags := w.flags.putD n (w.flags.atD n 0 - 1) 0 })

/-- Ends a command: its records are freed and its flag falls (R67, R73, R263). -/
def endCopy (s : State) (c ch : Nat) (x : CopyCmd) : State := lowerFlagOf (freeOwnership s (.copy c ch)) x.wg x.warpid x.flag

/-- Kills the current command, leaving DONE where it stands (R73, R264). -/
def killCopy (s : State) (c ch : Nat) : State :=
  match (s.chan c ch).cmd with
  | some x =>
    if (s.chan c ch).free then s
    else endCopy (s.modCmd c ch (fun x => { x with killed := true, parked := none, flight := none })) c ch x
  | none => s

/-- What acceptance finds. -/
inductive Accept where
  | taken (s : State)
  | wait
  /-- The instruction parks on the record of this fault, with nothing taken and nothing written. -/
  | parks (s : State) (id : Nat)
  | tooLarge

/-- Acceptance of a command (R64, R69, R70, R263); the core's written bytes must be able to go home first (R71). As the command owns every
line of its destination from its acceptance, a destination granule that is not present is a fault of the acceptance, on which the
instruction parks and replays as a whole (R35, R67, R69; DEDUCED, log 45). -/
def acceptCopy (s : State) (c ch : Nat) (x : CopyCmd) : Accept :=
  if 256 < (x.granules s c).length then .tooLarge
  else match x.missing s c with
  | some (f, va) =>
    let j := joinFault s (BitVec.ofNat 64 va) x.ctx c f .copy true 0
    .parks j.1 j.2
  | none =>
    let lines := x.lines s c
    if !recordsFree s (granulesOf lines) || wbHeld s c then .wait
    else
      let s1 := engineStart s c (.copy c ch) true lines
      let s2 := s1.modChan c ch (fun y => { y with seq := y.seq + 1, done := 0, cmd := some x })
      .taken (if x.len = 0 then freeOwnership s2 (.copy c ch) else raiseFlag s2 c x.slot x.flag)

/-! ## The commands -/

/-- A form that commands an engine once for the warp, when some launched member's guard is true: helper lanes command none (R101). The lanes
given are those that execute it. -/
def engineWarp (f : Clause → State → Nat → List Nat → List Nat → Warp → State) : WarpStep := fun x s k ls =>
  match s.warp? x.core k, launchedOf s x.core k (guardLanes s x k ls) with
  | some w, l :: t => f x s k ls (l :: t) w
  | _, _ => s

/-- A copy command of a warp: its form and the four values of R263, read in the lowest executing lane. -/
def copyWarp (f : FmtS) (form : (Operand → Pos → Nat) → CopyForm) (src : (Operand → Pos → Nat) → Nat)
    (len : (Operand → Pos → Nat) → Nat) (bad : (Operand → Pos → Nat) → Bool) : WarpStep := engineWarp (fun x s k ls ex w =>
  let c := x.core
  let rd (o : Operand) (p : Pos) : Nat := readOp s (x.env k) (ex.headD 0) (if p == .w64 then .n64 else .n32) p o
  let ch := (f.s7.extractLsb' 0 2).toNat
  let dst := rd f.a .w64
  if dst % 4 != 0 || src rd % 4 != 0 || len rd % 4 != 0 || bad rd then
    raiseTrap s c k Cause.misaligned x.pc { lanes := maskOf ex, addr := BitVec.ofNat 64 (if dst % 4 != 0 then dst else src rd) }
  else if inFlight s c k lanes32 (fun _ => true) then parkAll s c k ls .drain
  else
    let cmd : CopyCmd :=
      { dst := BitVec.ofNat 64 dst, src := BitVec.ofNat 64 (src rd), len := len rd, form := form rd,
        hint := decodeHint (f.s7.extractLsb' 2 2), slot := k, launch := w.launch, wg := w.wg, ctx := s.ctxOf c k,
        flag := flagOf x.line f.fs, parked := none, seen := false, warpid := w.warpid, killed := false, prog := 0, wrote := [], flight := none }
    let wait (s : State) (cmd : CopyCmd) : State :=
      parkAll (s.modChan c ch (fun y => { y with queue := y.queue ++ [cmd] })) c k ls (.copy ch)
    if !(s.chan c ch).free || (s.chan c ch).queue != [] then wait s cmd
    else match acceptCopy s c ch cmd with
      | .taken t => t
      | .wait => wait s cmd
      | .parks t id => parkAll t c k ls (.fault id .copy)
      | .tooLarge => raiseTrap s c k Cause.engine x.pc { lanes := maskOf ex })

/-- `cpy` (R263). -/
def execCpy (f : FmtS) (s : State) : Result :=
  .next (issue (.cpy f) [] (copyWarp f (fun _ => .linear) (fun rd => rd f.b .w64) (fun rd => rd f.c .w32) (fun _ => false)) s)

/-- `cpy2d` (R263): C holds the bytes of a row and the rows, IMM the strides in units of 16 bytes. -/
def execCpy2d (f : FmtS) (s : State) : Result :=
  let c0 (rd : Operand → Pos → Nat) : Nat := rd f.c .w64 % 2 ^ 32
  let c1 (rd : Operand → Pos → Nat) : Nat := rd f.c .w64 / 2 ^ 32
  let ss := 16 * (f.imm.extractLsb' 16 16).toNat
  let ds := 16 * (f.imm.extractLsb' 0 16).toNat
  .next (issue (.cpy2d f) [] (copyWarp f (fun rd => .rows (c0 rd) (c1 rd) ss ds) (fun rd => rd f.b .w64) (fun rd => c0 rd * c1 rd)
    (fun rd => c0 rd % 16 != 0)) s)

/-- `cpymc` (R119, R263). -/
def execCpymc (f : FmtS) (s : State) : Result :=
  .next (issue (.cpymc f) [] (copyWarp f (fun _ => .multicast (f.imm.extractLsb' 0 16)) (fun rd => rd f.b .w64)
    (fun rd => rd f.c .w32) (fun _ => false)) s)

/-- `cpfill` (R263). -/
def execCpfill (f : FmtS) (s : State) : Result :=
  .next (issue (.cpfill f) [] (copyWarp f (fun rd => .fill (BitVec.ofNat 32 (rd f.b .w32))) (fun _ => 0) (fun rd => rd f.c .w32)
    (fun _ => false)) s)

/-- `cpkill` (R264). -/
def execCpkill (f : FmtS) (s : State) : Result :=
  .next (issue (.cpkill f) [] (engineWarp (fun x s _ _ _ _ => killCopy s x.core (f.s7.extractLsb' 0 2).toNat)) s)

/-! ## The write pointer (R64, R78, R264) -/

/-- A read of a channel: the first for a SEQ drops the command's lines from level 1 (R78), and the bytes below DONE, which now count as the
lane's own stores, are carried by the core's later releases (R92). -/
def readChan (s : State) (c ch : Nat) : State :=
  match (s.chan c ch).cmd with
  | some x =>
    let s1 := markDirty s c x.wrote
    if x.seen then s1
    else
      let gs := granulesOf (x.lines s c)
      dropLines (s1.modCmd c ch (fun x => { x with seen := true })) c (fun l => !isPeerKey l.line && gs.contains (l.line / 512))
  | none => s

/-- The channel an immediate names. -/
def chanOf (o : Operand) : Nat := match o with | .imm v => v.toNat % 4 | _ => 0

/-- `ldwp` (R264). -/
def execLdwp (f : FmtA) (s : State) : Result :=
  .next (issue (.ldwp f) [(f.d, .w64)] (fun x s k ls =>
    let ch := chanOf f.a
    let s1 := if guardLanes s x k ls = [] then s else readChan s x.core ch
    (Arith.of [] (some (f.d, .w64)) none (fun _ _ => ((s1.chan x.core ch).value, false))).warp (.ldwp f) f.pw x s1 k ls) s)

/-- The register has met an awaited value, or shows another SEQ (R264). -/
def wpReady (y : Chan) (b : Nat) : Bool := b ≤ y.value || y.value / 2 ^ 48 != b / 2 ^ 48

/-- `waitwp` (R264). -/
def execWaitwp (f : FmtA) (s : State) : Result :=
  .next (issue (.waitwp f) [(f.d, .w64), (f.b, .w64)] (fun x s k ls =>
    let c := x.core
    let ch := chanOf f.a
    let ex := guardLanes s x k ls
    let b (l : Nat) : Nat := readOp s (x.env k) l .b64 .w64 f.b
    let go := ex.filter (fun l => wpReady (s.chan c ch) (b l))
    let s1 := if go = [] then s else readChan s c ch
    let s2 := go.foldl (fun s l => putResults s c k (some (laneDest f.d ex l, .w64)) [(l, (s1.chan c ch).value)]) s1
    let off := ex.filter (fun l => !go.contains l)
    let s3 := off.foldl (fun s l => park s c k l (.waitwp ch (BitVec.ofNat 64 (b l)) (laneDest f.d ex l))) s2
    setLatches s3 c k x.slot (ls.filter (fun l => !off.contains l)) (some (f.d, .w64))) s)

/-- WAITWP_WAKE (R264): the parked lane completes as `ldwp` does. -/
def execWaitwpWake (core slot lane : Nat) (s : State) : Result :=
  .next (match (s.lane core slot lane).wait with
    | .waitwp ch b d =>
      if wpReady (s.chan core ch) b.toNat then
        let s1 := readChan s core ch
        passOn (putResults s1 core slot (some (d, .w64)) [(lane, (s1.chan core ch).value)]) core slot [lane]
      else s
    | _ => s)

/-! ## A command under way -/

/-- COPY_ACCEPT (R72, R263): the oldest waiting command of a free channel. -/
def execCopyAccept (core ch : Nat) (s : State) : Result :=
  .next (match (s.chan core ch).queue with
    | [] => s
    | x :: t =>
      let ls := waiting s core x.slot (fun y => y == .copy ch)
      let w := s.warp? core x.slot
      let here := match w with | some w => w.wg = x.wg && w.warpid = x.warpid && ls != [] | none => false
      let gone := s.modChan core ch (fun y => { y with queue := t })
      if !here then gone
      else if !(s.chan core ch).free || (match w with | some w => w.trapped | none => true) then s
      else match acceptCopy gone core ch x with
        | .taken u => passOn u core x.slot ls
        | .wait => s
        | .parks u id => parkAll u core x.slot ls (.fault id .copy)
        | .tooLarge =>
          raiseTrap (wakeAll gone core x.slot ls) core x.slot Cause.engine (s.lane core x.slot (ls.headD 0)).pc { lanes := maskOf ls })

/-- The bytes of the next chunk: within one line at either end. -/
def CopyCmd.chunk (x : CopyCmd) : Nat :=
  let a := x.spot x.prog
  let d := Nat.min a.2.2 (128 - a.1 % 128)
  match x.form with
  | .fill _ => d
  | _ => Nat.min d (128 - a.2.1 % 128)

/-- The tag of a channel's request to a peer package: bit 57, the command's SEQ, core and channel (log 54). -/
def copyTag (s : State) (c ch : Nat) : Nat := 2 ^ 57 + 2 ^ 11 * (s.chan c ch).seq.toNat + 4 * c + ch

/-- A fault of a command: it parks, or is killed and its issuer told (R35, R39). -/
def copyFault (s : State) (c ch : Nat) (x : CopyCmd) (cause va : Nat) (write : Bool) : State :=
  if replayable s .copy cause then
    let j := joinFault s (BitVec.ofNat 64 va) x.ctx c cause .copy write 0
    j.1.modCmd c ch (fun x => { x with parked := some j.2, flight := none })
  else engineTrap (killCopy s c ch) c x.launch x.wg x.warpid Cause.translation (cause + 16 * agentCode .copy) (BitVec.ofNat 64 va)

/-- A command that meets a retired frame is killed and its issuer told (R73, R362). -/
def copyLost (s : State) (c ch : Nat) (x : CopyCmd) (va : Nat) : State :=
  engineTrap (killCopy s c ch) c x.launch x.wg x.warpid Cause.dataLoss (16 * agentCode .copy) (BitVec.ofNat 64 va)

/-- A chunk has been written at its destination (R65): its line is released once no later byte falls in it, and DONE rises, but
not to the length before the publication. -/
def copyAdvance (s : State) (c ch : Nat) : State :=
  match (s.chan c ch).cmd with
  | none => s
  | some x =>
    let n := x.prog + x.chunk
    let va := (x.spot x.prog).1
    let later := match x.form with
      | .rows b r _ _ => ((List.range r).any (fun i => n ≤ i * b + b - 1 && (
          let lo := (x.spot (Nat.max (i * b) n)).1
          let hi := (x.spot (i * b + b - 1)).1
          lo / 128 ≤ va / 128 && va / 128 ≤ hi / 128)))
      | _ => decide (n < x.len) && (x.spot n).1 / 128 = va / 128
    let s1 := match (copyDst s c x va).2 with
      | .ok (.mem pa) _ => if later then s else dropOwnership s (.copy c ch) [pa / 128]
      | _ => s
    let s2 := s1.modCmd c ch (fun x => { x with prog := n, flight := none })
    if n < x.len then s2.modChan c ch (fun y => { y with done := n }) else s2

/-- The command owns the line of a place on a local general page. Where a granule has come to lie elsewhere since the acceptance, it takes
the record there first, after the steps of R70, for the lines still to be written; none while its home slice has no free record or the core's
written bytes cannot go home (R67, R69, R71, log 45). -/
def copyOwn (s : State) (c ch : Nat) (x : CopyCmd) (pa : Nat) : Option State :=
  let e := EngineRef.copy c ch
  if s.own.any (fun r => r.engine == e && r.granule = pa / 65536 && r.mask.getLsbD (pa / 128 % 512)) then some s
  else
    let lines := (x.linesIn s c (x.partsOf x.prog x.len)).filter (fun l => l / 512 = pa / 65536)
    if recordsFree s [pa / 65536] && !wbHeld s c then some (engineStart s c e true lines) else none

/-- Writes the next chunk's bytes at its destination, or sends them (R65, R68, R119). -/
def copyWrite (s : State) (c ch : Nat) (x : CopyCmd) (v : Nat) : State :=
  let n := x.chunk
  let va := (x.spot x.prog).1
  let bytes (pa : Nat) : BitVec 128 × BitVec 1024 :=
    (byteMask (pa % 128) n, BitVec.ofNat 1024 (v % 2 ^ (8 * n) * 2 ^ (8 * (pa % 128))))
  let note (s : State) (pa : Nat) : State := s.modCmd c ch (fun x => { x with wrote := addSectors x.wrote (sectorsOf pa n) })
  let here (r : Res) : Bool := match x.form, r with
    | .multicast g, .ok p _ => (groupEntry s g.toNat).extractLsb' 18 2 == 3#2 && frameLost s p
    | _, .ok p _ => frameLost s p
    | _, _ => false
  if here (copyDst s c x va).2 then copyLost s c ch x va
  else match x.form, copyDst s c x va with
  | _, (s1, .fault f) => copyFault s1 c ch x f va true
  | _, (s1, .miss) => copyFault s1 c ch x XCause.notPresent va true
  | .multicast g, (s0, .ok (.mem pa) leaf) =>
    let b := bytes pa
    match copyOwn s0 c ch x pa with
    | none => s0
    | some s1 =>
      let s2 := (lostEgress s1 g.toNat).foldl (fun s q => setLost s (warpOwner s x.wg x.warpid) q) s1
      let s3 := if (groupEntry s2 g.toNat).extractLsb' 18 2 == 3#2 then note s2 pa else s2
      let r := multicastHere s3
        { hdr := mkHdr 7 s3.fab.index s3.fab.index 0 0 (maskCount b.1) (pa / 128 * 128) g.toNat (copyTag s3 c ch)
          payload := maskPayload b.1 b.2 } (copyTag s3 c ch) (effHint x.hint leaf)
      if r.2 = 0 then copyAdvance r.1 c ch else r.1.modCmd c ch (fun x => { x with flight := some r.2 })
  | _, (s1, .ok (.peer q pa) leaf) =>
    if !pkgLive s1 q then copyAdvance (setLost s1 (warpOwner s1 x.wg x.warpid) q) c ch
    else
      let b := bytes pa
      sendPacket (s1.modCmd c ch (fun x => { x with flight := some (ackAdd 0 q) }))
        { hdr := mkHdr 1 s1.fab.index q 0 0 (maskCount b.1) (pa / 128 * 128) (sideMark (pteMS leaf)) (copyTag s1 c ch)
          payload := maskPayload b.1 b.2 }
  | _, (s1, .ok (.mem pa) leaf) =>
    match copyOwn s1 c ch x pa with
    | some s2 => copyAdvance (l2Write ((note s2 pa).wrMem pa n v) pa n (effHint x.hint leaf)) c ch
    | none => s1
  | _, (s1, .ok (.side pa) _) => copyAdvance ((note s1 pa).wrMem pa n v) c ch
  | _, (s1, .ok (.store d off) _) => copyAdvance (s1.wrStore d off n v) c ch
  | _, (s1, .ok (.debug _ _) _) => s1

/-- The pattern over n bytes from an address aligned to 4. -/
def fillBytes (p : Word) (n : Nat) : Nat := leNat ((List.range n).map (fun i => p.extractLsb' (8 * (i % 4)) 8))

/-- Moves a command on by one chunk, or asks a peer package for the chunk's bytes, while the core may send requests (R108). -/
def copyStep (s : State) (c ch : Nat) : State :=
  match (s.chan c ch).cmd with
  | none => s
  | some x =>
    let copies := match x.form with | .multicast g => (egress (groupEntry s g.toNat)).length | _ => 1
    if x.killed || x.parked.isSome || x.flight.isSome || x.len ≤ x.prog || 256 < peerRequests s c + copies then s
    else
      let n := x.chunk
      let va := (x.spot x.prog).2.1
      match x.form with
      | .fill p => copyWrite s c ch x (fillBytes p n)
      | _ =>
        match resolveNow s (copyWho c x) { kind := .copy, write := false, odd := true, width := 4 } va with
        | (s1, .fault f) => copyFault s1 c ch x f va false
        | (s1, .miss) => copyFault s1 c ch x XCause.notPresent va false
        | (s1, .ok (.mem pa) leaf) =>
          if frameLost s1 (.mem pa) then copyLost s1 c ch x va
          else copyWrite (l2Touch s1 pa (effHint x.hint leaf)) c ch x (Mem.rd s1.mem pa n)
        | (s1, .ok (.side pa) _) =>
          if frameLost s1 (.side pa) then copyLost s1 c ch x va else copyWrite s1 c ch x (Mem.rd s1.mem pa n)
        | (s1, .ok (.store d off) _) => copyWrite s1 c ch x (Mem.rd (s1.core d).store off n)
        | (s1, .ok (.peer q pa) leaf) =>
          if !pkgLive s1 q then copyWrite (setLost s1 (warpOwner s1 x.wg x.warpid) q) c ch x 0
          else
            sendPacket (s1.modCmd c ch (fun x => { x with flight := some 0 }))
              { hdr := mkHdr 0 s1.fab.index q 0 0 n pa (sideMark (pteMS leaf)) (copyTag s1 c ch), payload := [] }
        | (s1, .ok (.debug _ _) _) => s1

/-- COPY_LINE_DELIVERED (R65). -/
def execCopyLineDelivered (core ch : Nat) (s : State) : Result := .next (copyStep s core ch)

/-- The bytes that a peer package answers to the command of this SEQ, or an acknowledgement of package p to it (R68, R107). -/
def copyAnswer (s : State) (c ch seq p v : Nat) : State :=
  match (s.chan c ch).cmd with
  | none => s
  | some x =>
    match if (s.chan c ch).seq.toNat = seq then x.flight else none with
    | none => s
    | some 0 => copyWrite (s.modCmd c ch (fun x => { x with flight := none })) c ch { x with flight := none } v
    | some n =>
      if ackTake n p = 0 then copyAdvance s c ch else s.modCmd c ch (fun x => { x with flight := some (ackTake n p) })

/-- COPY_DONE (R65, R77): the publication, then DONE at the length. -/
def execCopyDone (core ch : Nat) (s : State) : Result :=
  .next (match (s.chan core ch).cmd with
    | none => s
    | some x =>
      if x.killed || x.prog < x.len || x.len ≤ (s.chan core ch).done then s
      else
        let s1 := enginePublish s (some x.wg) x.wrote
        endCopy (s1.modChan core ch (fun y => { y with done := x.len })) core ch x)

end Sys2Proof.Machine
end

