-- ==== Sys2Proof/Machine/CrossLane.lean ====
section
/-! DEFINITION. Group 0xB, the cross-lane operations (R269 to R276), and the draws of CG10 (R277 to R283). -/

namespace Sys2Proof.Machine

/-! ## What the forms of group 0xB share (R269) -/

/-- Sub-group width, from OPM[1:0]. -/
def xlWidth (f : FmtA) : Nat := 4 * 2 ^ (f.opm.toNat % 4)

/-- A warp-collective form over registers: the result and predicate of each executing lane from the executing lanes of the
bundle, all sources read first. -/
def crossWarp (dst : Option (Operand × Pos)) (pw : Option (BitVec 3)) (g : State → Env → List Nat → Nat → Nat × Bool) : WarpStep :=
  fun x s k ls =>
  let c := x.core
  let ex := guardLanes s x k ls
  let rs := ex.map (fun l => (l, g s (x.env k) ex l))
  let s1 := writeResults s c k dst (rs.map (fun r => (r.1, r.2.1)))
  let s2 := writePreds s1 c k pw (rs.map (fun r => (r.1, r.2.2)))
  setLatches (noteWrites s2 c k (spinValues dst pw.isSome rs)) c k x.slot ls dst

/-- Issues a form of group 0xB. -/
def cross (i : Instr) (ops : List (Operand × Pos)) (dst : Option (Operand × Pos)) (pw : Option (BitVec 3))
    (g : State → Env → List Nat → Nat → Nat × Bool) (s : State) : State := issue i ops (crossWarp dst pw g) s

/-- Contributors of a lane's sub-group, ascending (R269). -/
def contributors (s : State) (e : Env) (ex : List Nat) (w l : Nat) : List Nat :=
  (launchedOf s e.core e.slot ex).filter (fun j => j / w = l / w)

/-- Operand A of a lane, at the form's type. -/
def valA (f : FmtA) (s : State) (e : Env) (l : Nat) : Nat := readOp s e l f.ty f.ty.pos f.a

/-- Operand B of a lane as n32. -/
def valB (f : FmtA) (s : State) (e : Env) (l : Nat) : Nat := readOp s e l .n32 .w32 f.b

/-- The immediate code in field B. -/
def codeB (f : FmtA) : Nat := match f.b with | .imm v => v.toNat | _ => 0

/-! ## Shuffles (R271) -/

/-- A shuffle: the source lane of each lane, or its fill. -/
def shuffle (i : Instr) (f : FmtA) (src : State → Env → Nat → Option Nat) (s : State) : State :=
  let p := f.ty.pos
  cross i [(f.a, p), (f.c, p), (f.d, p), (f.b, .w32)] (some (f.d, p)) none (fun s e ex l =>
    (match src s e l with
      | some j => if ex.contains j then valA f s e j else readOp s e l f.ty p f.c
      | none => readOp s e l f.ty p f.c, false)) s

/-- `xl.at`. -/
def execXlAt (f : FmtA) (s : State) : Result :=
  .next (shuffle (.xlAt f) f (fun s e l => let w := xlWidth f; some (l / w * w + valB f s e l % w)) s)

/-- `xl.below`. -/
def execXlBelow (f : FmtA) (s : State) : Result :=
  .next (shuffle (.xlBelow f) f (fun s e l => if valB f s e l ≤ l % xlWidth f then some (l - valB f s e l) else none) s)

/-- `xl.above`. -/
def execXlAbove (f : FmtA) (s : State) : Result :=
  .next (shuffle (.xlAbove f) f (fun s e l => if l % xlWidth f + valB f s e l < xlWidth f then some (l + valB f s e l) else none) s)

/-- `xl.xor`. -/
def execXlXor (f : FmtA) (s : State) : Result :=
  .next (shuffle (.xlXor f) f (fun s e l => let w := xlWidth f; some (l / w * w + ((l % w) ^^^ (valB f s e l % w)))) s)

/-- `quadx`. -/
def execQuadx (f : FmtA) (s : State) : Result := .next (shuffle (.quadx f) f (fun _ _ l => some (l ^^^ codeB f)) s)

/-- `quadb`. -/
def execQuadb (f : FmtA) (s : State) : Result :=
  .next (shuffle (.quadb f) f (fun s e l => some (l / 4 * 4 + valB f s e l % 4)) s)

/-! ## Votes, ballots and masks (R272) -/

/-- Predicate A of a lane. -/
def predA (f : FmtA) (s : State) (e : Env) (l : Nat) : Bool := (s.lane e.core e.slot l).pred (predIx f.a)

/-- `vote`. -/
def execVote (f : FmtA) (s : State) : Result :=
  .next (cross (.vote f) [] none (some f.pw) (fun s e ex l =>
    let ps := (contributors s e ex (xlWidth f) l).map (predA f s e)
    (0, match codeB f with
      | 0 => ps.all id
      | 1 => ps.any id
      | _ => ps.all id || !ps.any id)) s)

/-- `ballot`. -/
def execBallot (f : FmtA) (s : State) : Result :=
  .next (cross (.ballot f) [(f.d, .w32)] (some (f.d, .w32)) none (fun s e ex l =>
    ((maskOf ((contributors s e ex (xlWidth f) l).filter (predA f s e))).toNat, false)) s)

/-- `present`. -/
def execPresent (f : FmtA) (s : State) : Result :=
  .next (cross (.present f) [(f.d, .w32)] (some (f.d, .w32)) none (fun _ _ ex _ => ((maskOf ex).toNat, false)) s)

/-- `first`. -/
def execFirst (f : FmtA) (s : State) : Result :=
  .next (cross (.first f) [] none (some f.pw) (fun _ _ ex l =>
    (0, (ex.filter (fun j => j / xlWidth f = l / xlWidth f)).head? == some l)) s)

/-! ## Reductions and scans (R273, R274) -/

/-- The integer operation of a code, on values of the type. -/
def redOp (t : Ty) (op x y : Nat) : Nat :=
  match op with
  | 0 => (x + y) % 2 ^ t.bits
  | 1 => if intVal t y < intVal t x then y else x
  | 2 => if intVal t x < intVal t y then y else x
  | 3 => x &&& y
  | 4 => x ||| y
  | _ => x ^^^ y

/-- Its identity. -/
def redId (t : Ty) (op : Nat) : Nat :=
  match op with
  | 1 => if t.isI then 2 ^ (t.bits - 1) - 1 else 2 ^ t.bits - 1
  | 2 => if t.isI then 2 ^ (t.bits - 1) else 0
  | 3 => 2 ^ t.bits - 1
  | _ => 0

/-- A fold in ascending lane order. -/
def redFold (t : Ty) (op : Nat) : List Nat → Nat
  | [] => redId t op
  | v :: vs => vs.foldl (redOp t op) v

/-- `lred`. -/
def execLred (f : FmtA) (s : State) : Result :=
  let p := f.ty.pos
  .next (cross (.lred f) [(f.a, p), (f.d, p)] (some (f.d, p)) none (fun s e ex l =>
    (redFold f.ty (codeB f) ((contributors s e ex (xlWidth f) l).map (fun j => valA f s e j % 2 ^ f.ty.bits)), false)) s)

/-- Contributors up to a lane, or below it (`.excl`). -/
def upTo (excl : Bool) (l : Nat) (ks : List Nat) : List Nat := ks.filter (fun j => if excl then j < l else j ≤ l)

/-- `scan`. -/
def execScan (f : FmtA) (s : State) : Result :=
  let p := f.ty.pos
  .next (cross (.scan f) [(f.a, p), (f.d, p)] (some (f.d, p)) none (fun s e ex l =>
    (redFold f.ty (codeB f % 8) ((upTo (decide (8 ≤ codeB f)) l (contributors s e ex (xlWidth f) l)).map
      (fun j => valA f s e j % 2 ^ f.ty.bits)), false)) s)

/-- The floating operation of a code. -/
def fredOp (op x y : Nat) : Nat :=
  match op with
  | 0 => Flt.f32.add .rne x y
  | 1 => Flt.f32.pick false x y
  | _ => Flt.f32.pick true x y

/-- Its identity. -/
def fredId (op : Nat) : Nat := match op with | 0 => 0 | 1 => 0x7F800000 | _ => 0xFF800000

/-- `comb` of R274. -/
def comb (op : Nat) : Option Nat → Option Nat → Option Nat
  | x, none => x
  | none, y => y
  | some x, some y => some (fredOp op x y)

/-- One level of the tree: neighbours are combined. -/
def combPairs (op : Nat) : List (Option Nat) → List (Option Nat)
  | x :: y :: t => comb op x y :: combPairs op t
  | t => t

/-- The tree of R274 over at most 2^n values. -/
def combTree (op : Nat) : Nat → List (Option Nat) → Option Nat
  | 0, t => t.headD none
  | n + 1, t => combTree op n (combPairs op t)

/-- A NaN result is the canonical one, also where a lone contributor brings another (R216, R274). -/
def redResult (x : Nat) : Nat := match Flt.f32.dec x with | .nan => Flt.f32.nan | _ => x

/-- `flred`. -/
def execFlred (f : FmtA) (s : State) : Result :=
  .next (cross (.flred f) [(f.a, .w32), (f.d, .w32)] (some (f.d, .w32)) none (fun s e ex l =>
    let w := xlWidth f
    let ks := contributors s e ex w l
    let t := (List.range w).map (fun j => if ks.contains (l / w * w + j) then some (valA f s e (l / w * w + j)) else none)
    (redResult ((combTree (codeB f) 5 t).getD (fredId (codeB f))), false)) s)

/-- `fscan`. -/
def execFscan (f : FmtA) (s : State) : Result :=
  .next (cross (.fscan f) [(f.a, .w32), (f.d, .w32)] (some (f.d, .w32)) none (fun s e ex l =>
    let op := codeB f % 8
    let vs := (upTo (decide (8 ≤ codeB f)) l (contributors s e ex (xlWidth f) l)).map (valA f s e)
    (redResult ((vs.foldl (fun cur v => comb op cur (some v)) none).getD (fredId op)), false)) s)

/-! ## Equal values (R275) -/

/-- `peers`. -/
def execPeers (f : FmtA) (s : State) : Result :=
  .next (cross (.peers f) [(f.a, f.ty.pos), (f.d, .w32)] (some (f.d, .w32)) none (fun s e ex l =>
    ((maskOf ((contributors s e ex (xlWidth f) l).filter (fun j => valA f s e j = valA f s e l))).toNat, false)) s)

/-- `same`. -/
def execSame (f : FmtA) (s : State) : Result :=
  .next (cross (.same f) [(f.a, f.ty.pos), (f.d, .w32)] (some (f.d, .w32)) (some f.pw) (fun s e ex l =>
    let ks := contributors s e ex (xlWidth f) l
    let ok := ks.all (fun j => valA f s e j = valA f s e (ks.headD 0))
    (if ok then (maskOf ks).toNat else 0, ok)) s)

/-! ## CG10 (R277) -/

/-- The state of CG10: key and counter words. -/
structure Cg where
  k0 : Nat
  k1 : Nat
  x0 : Nat
  x1 : Nat
  x2 : Nat
  x3 : Nat
  deriving DecidableEq, Repr

/-- One round. -/
def cgRound (s : Cg) : Cg :=
  let p := 0xB5C32E9B * s.x0
  let q := 0xE10A6C47 * s.x2
  { k0 := (s.k0 + 0x9E3779B9) % 2 ^ 32
    k1 := (s.k1 + 0xBB67AE85) % 2 ^ 32
    x0 := (q / 2 ^ 32) ^^^ s.x1 ^^^ s.k0
    x1 := q % 2 ^ 32
    x2 := (p / 2 ^ 32) ^^^ s.x3 ^^^ s.k1
    x3 := p % 2 ^ 32 }

/-- Some rounds. -/
def cgRounds : Nat → Cg → Cg
  | 0, s => s
  | n + 1, s => cgRounds n (cgRound s)

/-- The output: x0 in the low bits. Keys and counters are taken modulo their width. -/
def cg10 (key ctr : Nat) : Nat :=
  let y := cgRounds 10 { k0 := bitsOf key 0 32, k1 := bitsOf key 32 32, x0 := bitsOf ctr 0 32, x1 := bitsOf ctr 32 32,
                         x2 := bitsOf ctr 64 32, x3 := bitsOf ctr 96 32 }
  y.x0 + 2 ^ 32 * y.x1 + 2 ^ 64 * y.x2 + 2 ^ 96 * y.x3

/-- The key of a launch (R278). -/
def Launch.key (x : Launch) : Nat := x.fld 0x38 8

/-- The key of a warp's launch. -/
def warpKey (s : State) (c k : Nat) : Nat := match s.launchOf c k with | some x => x.key | none => 0

/-! ## Draws (R280 to R282) -/

/-- `rnd.cg10`. -/
def execRndCg10 (f : FmtA) (s : State) : Result :=
  .next (cross (.rndCg10 f) [(f.a, .w32), (f.b, .w32), (f.c, .w32), (f.d, .w128)] (some (f.d, .w128)) none (fun s e _ l =>
    let rd (o : Operand) : Nat := readOp s e l .b32 .w32 o
    (cg10 (warpKey s e.core e.slot) (rd f.a + 2 ^ 32 * rd f.b + 2 ^ 64 * rd f.c), false)) s)

/-- `rnd4.cg10`. -/
def execRnd4Cg10 (f : FmtA) (s : State) : Result :=
  .next (cross (.rnd4Cg10 f) [(f.a, .w128), (f.d, .w128)] (some (f.d, .w128)) none (fun s e _ l =>
    (cg10 (warpKey s e.core e.slot) (readOp s e l .b32 .w128 f.a), false)) s)

/-- `rndk.cg10`. -/
def execRndkCg10 (f : FmtA) (s : State) : Result :=
  .next (arith (.rndkCg10 f) (Arith.of [(f.a, .w128, .b32), (f.b, .w64, .b64)] (some (f.d, .w128)) none
    (fun _ v => (cg10 (nth v 1) (nth v 0), false))) f.pw s)

/-- `unif`. -/
def execUnif (f : FmtA) (s : State) : Result :=
  .next (arith (.unif f) (Arith.of [(f.a, .w32, .n32)] (some (f.d, .w32)) none
    (fun _ v => (Flt.f32.enc .rne (.fin false (nth v 0 / 2 ^ 8 + f.opm.toNat % 2) (-24)), false))) f.pw s)

/-- `rkey`. -/
def execRkey (f : FmtA) (s : State) : Result :=
  .next (cross (.rkey f) [(f.d, .w64)] (some (f.d, .w64)) none (fun s e _ _ => (warpKey s e.core e.slot, false)) s)

end Sys2Proof.Machine
end

