-- ==== Sys2Proof/Machine/Population.lean ====
section
/-! DEFINITION. LW64 and the populations: the forms 0x305 to 0x30B of group 0xC (R309 to R313, R318), root handles (R317), and the
resample barrier (R314 to R316, R319). -/

namespace Sys2Proof.Machine

/-! ## LW64 (R309) -/

/-- The 256th root of x, rounded down, as eight nested square roots. -/
def root256 (x : Nat) : Nat := isqrt (isqrt (isqrt (isqrt (isqrt (isqrt (isqrt (isqrt x)))))))

/-- T[j] of R315: round-half-even(2^32 × 2^(−j/256)), from the value doubled and rounded down; no value of the table is a tie. -/
def lwT (j : Nat) : Nat := (root256 (2 ^ (33 * 256 - j)) + 1) / 2

/-- E(D) of R315. -/
def lwE (d : Nat) : Nat :=
  let j := d % 2 ^ 32 / 2 ^ 24
  (lwT j - (lwT j - lwT (j + 1)) * (d % 2 ^ 24) / 2 ^ 24) / 2 ^ (d / 2 ^ 32)

/-- A sum of weights, −∞ absorbing. -/
def lwAdd : Option Int → Option Int → Option Int
  | some a, some b => some (a + b)
  | _, _ => none

/-- `addlw`. -/
def execAddlw (f : FmtA) (s : State) : Result :=
  .next (arith (.addlw f) (Arith.of [(f.a, .w64, .lw64), (f.b, .w64, .lw64)] (some (f.d, .w64)) none
    (fun _ v => (lwCode (lwAdd (lwVal (nth v 0)) (lwVal (nth v 1))), false))) f.pw s)

/-- A natural-log score as a weight: one rounding by the constant 0x1_7154_7653. -/
def lwOfF32 (x : Nat) : Nat :=
  match Flt.f32.dec x with
  | .nan => lwCode none
  | .inf neg => if neg then lwCode none else 0x7FFFFFFFFFFFFFFF
  | .fin neg n e => lwCode (some (roundInt .rne 0 neg (n * 0x171547653) e))

/-- `lwcvt`. -/
def execLwcvt (f : FmtA) (s : State) : Result :=
  .next (arith (.lwcvt f) (Arith.of [(f.a, .w32, .f32)] (some (f.d, .w64)) none (fun _ v => (lwOfF32 (nth v 0), false))) f.pw s)

/-- `lwf`. -/
def execLwf (f : FmtA) (s : State) : Result :=
  .next (arith (.lwf f) (Arith.of [(f.a, .w64, .lw64)] (some (f.d, .w32)) none
    (fun _ v => (match lwVal (nth v 0) with
      | none => 0xFF800000
      | some w => Flt.f32.enc .rne (.fin (decide (w < 0)) w.natAbs (-32)), false))) f.pw s)

/-- `lwe`. -/
def execLwe (f : FmtA) (s : State) : Result :=
  .next (arith (.lwe f) (Arith.of [(f.a, .w64, .lw64)] (some (f.d, .w64)) none
    (fun _ v => (match lwVal (nth v 0) with
      | none => 0
      | some w => if 0 < w then 0xFFFFFFFFFFFFFFFF else lwE w.natAbs, false))) f.pw s)

/-! ## Root handles (R317)

Counts, table words and pushes are the work of a job, which goes on from task to task and waits for the answer of a peer package where a
table or block lies in its window. -/

/-- What the controller finds at an address. -/
inductive CountAt where
  | here (pa : Nat)
  | away (pkg pa : Nat)
  | bad

/-- A word of a table or block in a context; a count word must lie on a memory-side page (R317), and a fault is fatal (R35). -/
def countAt (s : State) (ctx va n : Nat) (count : Bool) : CountAt :=
  match (resolveNow s { core := 0, ctx := ctx, wg := none, regs := none, dbg := false }
      { kind := .population, write := count, odd := true, width := n } va).2 with
  | .ok (.side pa) _ => .here pa
  | .ok (.mem pa) _ => if count then .bad else .here pa
  | .ok (.peer q pa) leaf => if count && !pteMS leaf then .bad else .away q pa
  | _ => .bad

/-- What a task adds to a count; none for a read. -/
def RootTask.adds : RootTask → Option Nat
  | .up _ => some 1
  | .table _ | .block _ => some (2 ^ 32 - 1)
  | _ => none

/-- The word that a task reads or changes, and its width. -/
def RootTask.word : RootTask → Nat × Nat
  | .up va | .table va | .block va | .free va | .raised _ va => (va, 4)
  | .size va => (va + 4, 4)
  | .entry va => (va, 8)

/-- The tasks that follow one whose word held v; none where the table names more blocks than it has room for (R317). -/
def RootTask.next (s : State) (pool : Nat) (t : RootTask) (v : Nat) : Option (List RootTask) :=
  match t with
  | .up _ | .free _ | .raised _ _ => some []
  | .table va => some (if v = 1 then [.size va] else [])
  | .size va =>
    if (2 ^ poolLg s pool - 8) / 8 < v then none
    else some ((List.range v).map (fun i => .entry (va + 8 + 8 * i)) ++ [.free va])
  | .entry _ => some [.block v]
  | .block va => some (if v = 1 then [.free va] else [])

/-- The tag of a count or a read of the controller (log 54). -/
def jobTag (id : Nat) : Nat := 3 * 2 ^ 56 + id

/-- Asks a peer package for a task's word: a memory-side atomic that returns the old count, or a read (R63, R317). -/
def askTask (s : State) (id q pa : Nat) (t : RootTask) : State :=
  match t.adds with
  | some d => sendPacket s { hdr := mkHdr 2 s.fab.index q 0 (atomMeta .pkg .plain .n32) (atomCode .add + 256 + 2 ^ 16) pa (sideMark true) (jobTag id)
                             payload := leBytes 8 d ++ leBytes 8 0 }
  | none => sendPacket s { hdr := mkHdr 0 s.fab.index q 0 (accMeta .pkg .plain .n64) t.word.2 pa 0 (jobTag id), payload := [] }

/-- The package in whose window an address lies. -/
def windowOf (s : State) (va : Nat) : Nat := match regionOf va with | .peer p => p | _ => s.fab.index

/-- The entry by which a population's controller pushes (R169, R317): the block size is its pool's. -/
def popEntry (s : State) (id : Nat) (q : Population) : DfEntry :=
  let span := decide (1 < (maskLanes (q.members.setWidth 32)).length)
  let x := s.launches.at? id
  { addr := 0, size := 2 ^ poolLg s q.pool, pool := q.pool, span := span
    stamp := 0
    queue := match x with | some x => x.queue | none => 0
    course := match x with | some x => BitVec.ofNat 32 x.course | none => 0
    launch := id, repro := match x with | some x => x.repro | none => false }

/-- Pushes a table or block to the deferred-free queue of the package whose window holds it (R169, R317); none while the queue is full. -/
def pushFree (s : State) (e : DfEntry) (va : Nat) : Option State :=
  let y : DfEntry := { e with addr := BitVec.ofNat 64 va, stamp := if e.span then s.track.takenSpan else s.track.takenPkg }
  if windowOf s va != s.fab.index then some { s with fab := { s.fab with freed := s.fab.freed ++ [(windowOf s va, y)] } }
  else if dfqSlots ≤ s.dfq.length then none
  else some { s with dfq := s.dfq ++ [y] }

/-- How far a job has come. -/
inductive JobEnd where
  | done
  | wait (j : RootJob)
  | bad

/-- Runs the tasks of a job, in order. -/
def runTasks (id : Nat) : Nat → State → RootJob → State × JobEnd
  | 0, s, j => (s, .wait j)
  | n + 1, s, j =>
    match j.tasks with
    | [] => (s, .done)
    | .free va :: ts => match pushFree s j.entry va with
      | some t => runTasks id n t { j with tasks := ts }
      | none => (s, .wait j)
    | .raised q va :: ts =>
      match countAt s j.ctx va 4 true with
      | .here pa =>
        if !pkgLive s q then runTasks id n s { j with tasks := ts }
        else if s.fab.raised.contains (q, pa) then
          runTasks id n { s with fab := { s.fab with raised := s.fab.raised.erase (q, pa) } } { j with tasks := ts }
        else (s, .wait j)
      | _ => (s, .bad)
    | t :: ts =>
      match countAt s j.ctx t.word.1 t.word.2 t.adds.isSome with
      | .bad => (s, .bad)
      | .away q pa =>
        if pkgLive s q then (askTask s id q pa t, .wait { j with asked := some q })
        else runTasks id n s { j with tasks := ts }
      | .here pa =>
        if s.rel.badLines.contains (pa / 65536) then (s, .bad) else
        let v := Mem.rd s.mem pa t.word.2
        match t.next s j.entry.pool v with
        | none => (s, .bad)
        | some l => runTasks id n (match t.adds with | some d => s.wrMem pa 4 ((v + d) % 2 ^ 32) | none => s) { j with tasks := l ++ ts }

/-! ## Particles -/

def State.modPop (s : State) (p : Nat) (f : Population → Population) : State := { s with pops := s.pops.upd p f }
def State.modParticle (s : State) (p i : Nat) (f : Particle → Particle) : State :=
  s.modPop p (fun q => { q with parts := q.parts.upd i f })

/-- The population of a launch. -/
def popOfLaunch (s : State) (id : Nat) : Option (Nat × Population) :=
  match s.launches.at? id with
  | some x => match x.population with
    | some p => (s.pops.at? p).map (fun q => (p, q))
    | none => none
  | none => none

/-- Grain index of a workgroup's thread, warp or itself, as workgroup and lane numbers: the workgroup's linear number, and the
warps of the grain by `%warpid`. -/
def grainWarps (x : Launch) (q : Population) (i : Nat) : Nat × List Nat :=
  match q.grain with
  | 0 => (i / x.threads, [i % x.threads / 32])
  | 1 => (i / x.warps, [i % x.warps])
  | _ => (i, List.range x.warps)

/-- The warps of a placed workgroup of a launch that have not exited, resident or saved, by `%warpid`; none before it is placed. -/
def liveWarps (s : State) (id : Nat) (x : Launch) (g : Nat) : Option (Nat × List Warp) :=
  match (launchWgs s id).find? (fun e => e.2.g = g) with
  | some (n, y) => some (n, ((wgWarps s n).map (fun e => e.2.2)).filter (fun w => w.present != []) ++
      (match y.saved with | some v => v.warps | none => []))
  | none => if g < x.next then some (0, []) else none

/-- What a particle's slot has to report: nothing yet, or a committed weight; an exited grain arrives with −∞ (R313). -/
def arrival (s : State) (id : Nat) (x : Launch) (q : Population) (slot : Nat) : Option (Option Int) :=
  match q.parts.at? slot with
  | none => none
  | some y =>
    let gr := grainWarps x q (slot - q.first)
    match liveWarps s id x gr.1 with
    | none => none
    | some (n, ws) =>
      let mine := ws.filter (fun w => gr.2.contains w.warpid)
      if q.grain = 0 then
        let l := (slot - q.first) % x.threads % 32
        if mine.all (fun w => (w.lanes.atD l Lane.never).kind != .launched) then some none
        else if y.arrived then some y.acc else none
      else if mine = [] then some none
      else if mine.all (fun w => q.rsbWarps.contains (n, w.warpid)) && y.old.isNone then some y.acc
      else none

/-! ## `pwadd`, `psetroot` and `rsb` -/

/-- `pwadd` (R312). -/
def execPwadd (f : FmtA) (s : State) : Result :=
  .next (issue (.pwadd f) [(f.a, .w64)] (fun x s k ls =>
    let c := x.core
    let ex := guardLanes s x k ls
    let act := launchedOf s c k ex
    let part (l : Nat) : Option (Nat × Nat × Particle) :=
      match particleOf s c k l with | some (p, i) => (s.particle p i).map (fun y => (p, i, y)) | none => none
    let flag6 := match s.launchOf c k with | some y => y.flag 6 | none => false
    let full (s : State) (l : Nat) : Bool := match particleOf s c k l with
      | some (p, i) => (match s.particle p i with | some y => y.old.isNone && 2 ^ 32 ≤ y.updates + 1 | none => false)
      | none => false
    if ex = [] then s
    else if !flag6 then raiseTrap s c k Cause.contract x.pc { lanes := maskOf ex }
    else
      let r := act.foldl (fun (r : State × List Nat × List Nat) l =>
        if r.2.2 != [] || full r.1 l then (r.1, r.2.1, r.2.2 ++ [l])
        else match part l with
          | some (p, i, y) =>
            if y.old.isSome then (r.1, l :: r.2.1, r.2.2)
            else
              let v := lwVal (readOp r.1 (x.env k) l .lw64 .w64 f.a)
              (r.1.modParticle p i (fun y => { y with acc := lwAdd y.acc v, updates := y.updates + 1 }), l :: r.2.1, r.2.2)
          | none => (r.1, l :: r.2.1, r.2.2)) (s, [], [])
      if r.2.2 = [] then r.1
      else raiseTrap r.1 c k Cause.contract x.pc { lanes := maskOf (r.2.2.take 1), done := maskOf r.2.1 }) s)

/-- Lanes of a warp complete `rsb` with a status (R313). -/
def rsbEnd (s : State) (c k : Nat) (ls : List Nat) (d : Operand) (pw : BitVec 3) (status : Nat) : State :=
  passOn (putPreds (putResults s c k (some (d, .w32)) (ls.map (fun l => (l, status)))) c k (some pw)
    (ls.map (fun l => (l, decide (status = 1))))) c k ls

/-- Lanes that wait in `rsb` complete with a status, those that a test of workgroup, warp and lane names, resident or saved. -/
def rsbRelease (s : State) (id status : Nat) (p : Nat → Warp → Nat → Bool) : State :=
  (launchWgs s id).foldl (fun s (e : Nat × Wg) =>
    let s1 := (wgWarps s e.1).foldl (fun s r =>
        let ls := waiting s r.1 r.2.1 (fun w => match w with | .rsb _ _ => true | _ => false)
        (ls.filter (p e.1 r.2.2)).foldl (fun s l => match (s.lane r.1 r.2.1 l).wait with
          | .rsb d pw => rsbEnd s r.1 r.2.1 [l] d pw status
          | _ => s) s) s
    match e.2.saved with
    | none => s1
    | some v => v.warps.foldl (fun s w =>
        (w.present.filter (p e.1 w)).foldl (fun s l => match (w.lanes.atD l Lane.never).wait with
          | .rsb d pw =>
            let s2 := writeOwned s (.saved e.1 w.warpid 0 0) l .w32 d status
            s2.modSaved e.1 w.warpid (fun w => { w with
              lanes := w.lanes.put l (let y := (w.lanes.atD l Lane.never).setPred pw.toNat (decide (status = 1))
                                      { y with pc := nextPc y.pc, wait := .run }) })
          | _ => s) s) s1) s

/-- A grain that was retired comes to its `rsb`: it is discarded and logged, and its registers are the slot's from now on (R314). -/
def lateArrival (s : State) (p i : Nat) : State := logEvent (s.modParticle p i (fun y => { y with old := none })) 8 0 i

/-- A retired grain that has come to its `rsb`, under warp or workgroup grain once every warp has executed it or exited, completes at once with
status 1 (R313, R314), but while a decision is being applied only once it has been, as its root's counts are not right before (R316,
R352). -/
def lateGrain (s : State) (id p i : Nat) : State :=
  match s.pops.at? p, s.launches.at? id, s.particle p i with
  | some q, some x, some z =>
    let gr := grainWarps x q (i - q.first)
    match liveWarps s id x gr.1 with
    | none => s
    | some (n, ws) =>
      let mine := ws.filter (fun (v : Warp) => gr.2.contains v.warpid)
      let own := (i - q.first) % x.threads % 32
      let inRsb (v : Warp) : Bool := match (v.lanes.atD own Lane.never).wait with | .rsb _ _ => true | _ => false
      let come := if q.grain = 0 then mine.any inRsb else mine != [] && mine.all (fun v => q.rsbWarps.contains (n, v.warpid))
      if z.old.isSome && q.closing.isNone && come then
        let s1 := (lateArrival s p i).modPop p (fun q => { q with
          rsbWarps := q.rsbWarps.filter (fun e => !(e.1 = n && gr.2.contains e.2)) })
        rsbRelease s1 id 1 (fun g v l => g = n && gr.2.contains v.warpid && (q.grain != 0 || l = own))
      else s
  | _, _, _ => s

/-- `rsb` (R313): a release at span scope, then the grain's arrival. -/
def execRsb (f : FmtA) (s : State) : Result :=
  .next (issue (.rsb f) [(f.d, .w32)] (onceWarp (fun x s k ls w =>
    let c := x.core
    let ex := guardLanes s x k ls
    let wait (s : State) (ls : List Nat) : State := ls.foldl (fun s l => park s c k l (.rsb (laneDest f.d ex l) f.pw)) s
    match s.launchOf c k, popOfLaunch s w.launch with
    | some y, some (p, q) =>
      if !y.flag 6 then raiseTrap s c k Cause.contract x.pc { lanes := maskOf ex }
      else if mustDrain s c k lanes32 .rel .span then parkAll s c k ls .drain
      else
        let s1 := release (tokenAtBarrier s c k true) c (some w.wg) .span
        let slot (l : Nat) : Nat := match particleOf s1 c k l with | some (_, i) => i | none => 0
        let stale (i : Nat) : Bool := match s1.particle p i with | some z => z.old.isSome | none => false
        if q.grain = 0 then
          let act := launchedOf s1 c k ex
          let late := act.filter (fun l => stale (slot l))
          let new := act.filter (fun l => !late.contains l)
          let help := ex.filter (fun l => !act.contains l)
          -- While a decision is being applied, the lanes of retired grains wait for its end.
          let now := if q.closing.isSome then [] else late
          let s2 := now.foldl (fun s l => lateArrival s p (slot l)) s1
          let s3 := new.foldl (fun s l => s.modParticle p (slot l) (fun z => { z with arrived := true })) s2
          let go := if new = [] && now != [] then now ++ help else now
          let s4 := if go = [] then s3 else putPreds (go.foldl (fun s l => putResults s c k (some (laneDest f.d ex l, .w32)) [(l, 1)]) s3) c k (some f.pw)
            (go.map (fun l => (l, true)))
          wait s4 (ex.filter (fun l => !go.contains l))
        else
          let i := slot (ex.headD 0)
          let s2 := s1.modPop p (fun q => { q with rsbWarps := q.rsbWarps ++ [(w.wg, w.warpid)] })
          lateGrain (wait s2 ex) w.launch p i
    | _, _ => raiseTrap s c k Cause.contract x.pc { lanes := maskOf ex })) s)

/-! ## The barrier (R314 to R316, R319) -/

/-- Member packages, ascending. -/
def Population.packages (q : Population) : List Nat := (List.range 16).filter (fun p => q.members.getLsbD p)

/-- Slots of each member, in rank order (R310). -/
def Population.slotsOf (q : Population) : List (List Nat) :=
  let m := q.packages.length
  (List.range m).map (fun r => (List.range ((r + 1) * q.n / m - r * q.n / m)).map (fun i => r * q.n / m + i))

/-- Steps 1 to 3 of R315: n(i) of every slot, or none at a collapse. -/
def popCounts (ws : List (Option Int)) : Option (List Nat) :=
  match ws.filterMap id with
  | [] => none
  | v :: vs =>
    let m := vs.foldl (fun a b => if a < b then b else a) v
    some (ws.map (fun w => match w with | some x => lwE (m - x).toNat | none => 0))

/-- Steps 4 to 6 of R315: the offspring of every slot. -/
def popOffspring (ns : List Nat) (u n : Nat) : List Nat :=
  let sum := ns.foldl (· + ·) 0
  let ts := (List.range n).map (fun k => (k * 2 ^ 32 + u) * sum / (n * 2 ^ 32))
  (ns.foldl (fun (r : Nat × List Nat) v =>
    (r.1 + v, (ts.filter (fun t => r.1 ≤ t && t < r.1 + v)).length :: r.2)) (0, [])).2.reverse

/-- Step 7 of R315: the slots that receive another's particle, with its slot. -/
def popClones (os : List Nat) (pkgs : List (List Nat)) : List (Nat × Nat) :=
  let o (i : Nat) : Nat := os.getD i 0
  let r := pkgs.map (fun sl =>
    let vac := sl.filter (fun i => o i = 0)
    let ext := sl.flatMap (fun i => List.replicate (o i - 1) i)
    (vac.zip ext, vac.drop ext.length, ext.drop vac.length))
  r.flatMap (fun e => e.1) ++ (r.flatMap (fun e => e.2.1)).zip (r.flatMap (fun e => e.2.2))

/-- A member of the population is lost (R319). -/
def Population.memberLost (s : State) (q : Population) : Bool := q.packages.any (fun p => !pkgLive s p)

/-- Committed weights as the coordinator has them; a slot without a report is a straggler (R314). -/
def Population.weights (q : Population) : List (Option Int) :=
  (List.range q.n).map (fun i => match q.reports.at? i with | some (w, _) => w | none => none)

/-- Every core that runs the launch performs an acquire at span scope (R97). -/
def launchAcquire (s : State) (id : Nat) (sc : Scope) : State :=
  ((s.cores.filterV (fun _ y => y.launch = some id)).map Prod.fst).foldl (fun s c =>
    acquire s c (((s.core c).warps.head?).map (fun (w : Nat × Warp) => w.2.wg)) sc) s

/-- Grains whose lanes have all arrived at `rsb`, which the close therefore completes. -/
def waitingGrain (s : State) (id : Nat) (x : Launch) (q : Population) (slot : Nat) : Bool :=
  match arrival s id x q slot with | some _ => true | none => false

/-- A warp, by workgroup and number, is one of a slot's grain. -/
def inGrain (s : State) (x : Launch) (q : Population) (g p slot : Nat) : Bool :=
  let gr := grainWarps x q (slot - q.first)
  (match s.wgs.at? g with | some y => y.g = gr.1 | none => false) && gr.2.contains p

/-- The lane waits in `rsb` for one of the given slots: as its particle, as a lane of its grain, or under lane grain as a helper. -/
def waitsFor (s : State) (x : Launch) (q : Population) (ready : List Nat) (g : Nat) (w : Warp) (l : Nat) : Bool :=
  if q.grain = 0 then
    (w.lanes.atD l Lane.never).kind == .helper ||
      (match s.wgs.at? g with | some y => ready.contains (q.first + y.g * x.threads + 32 * w.warpid + l) | none => false)
  else q.rsbWarps.contains (g, w.warpid) && ready.any (inGrain s x q g w.warpid)

/-- The barrier completes for the grains that had arrived (R97, R313, R316, R319): the acquire, then the lanes with their status. Under
lane grain, helper lanes go with the others. Retired grains that have come to their `rsb` meanwhile go on too. -/
def finishPop (s : State) (p : Nat) (ready : List Nat) (status : Nat) : State :=
  match s.pops.at? p with
  | none => s
  | some q =>
    match s.launches.at? q.launch with
    | none => s
    | some x =>
      let s1 := rsbRelease (launchAcquire s q.launch .span) q.launch status (waitsFor s x q ready)
      let s2 := s1.modPop p (fun y => { y with
        closing := none
        rsbWarps := y.rsbWarps.filter (fun e => !ready.any (inGrain s x q e.1 e.2))
        parts := y.parts.mapV (fun i z => { z with old := if ready.contains i then none else z.old }) })
      (q.parts.map Prod.fst).foldl (fun s i => lateGrain s q.launch p i) s2

/-- A member lost by the time the survivors have applied their parts makes the status 3 (R319). -/
def appliedStatus (s : State) (p : Nat) : Nat :=
  match s.pops.at? p with
  | some q => if q.memberLost s then 3 else 1
  | none => 1

/-- A job has ended: the barrier that it served completes, and a `psetroot` goes on (R316, R351). -/
def jobDone (s : State) (j : RootJob) : State :=
  match j.slot, (s.pops.at? j.pop).bind (fun q => if q.launch = j.entry.launch then q.closing else none) with
  | none, some ready =>
    let st := appliedStatus s j.pop
    finishPop (if st = 3 then s.modLaunch j.entry.launch (fun x => { x with lost := true }) else s) j.pop ready st
  | _, _ => s.cores.foldl (fun s (e : Nat × Core) => wakeDrain s e.1) s

/-- A job goes on as far as it can; an error kills its launch (R317). -/
def driveJob (s : State) (id : Nat) : State :=
  match s.jobs.at? id with
  | none => s
  | some j =>
    if j.asked.isSome then s
    else
      let r := runTasks id 4096 s j
      match r.2 with
      | .done => jobDone { r.1 with jobs := r.1.jobs.del id } j
      | .wait k => { r.1 with jobs := r.1.jobs.put id k }
      | .bad => killLaunch { r.1 with jobs := r.1.jobs.del id } j.entry.launch

/-- Every job goes on. -/
def driveJobs (s : State) : State := s.jobs.foldl (fun s (e : Nat × RootJob) => driveJob s e.1) s

/-- Starts a job of a population's controller. -/
def startJob (s : State) (id p : Nat) (q : Population) (slot : Option Nat) (tasks : List RootTask) : State :=
  let ctx := match s.launches.at? id with | some x => x.ctx | none => 0
  let j : RootJob := { ctx := ctx, entry := popEntry s id q, pop := p, slot := slot, tasks := tasks, asked := none }
  driveJob { s with fresh := s.fresh + 1, jobs := s.jobs.put s.fresh j } s.fresh

/-- The word of a peer package that a job awaits has come. -/
def jobAnswer (s : State) (id v : Nat) : State :=
  match s.jobs.at? id with
  | none => s
  | some j => match j.asked, j.tasks with
    | some _, t :: ts => match t.next s j.entry.pool v with
      | some l => driveJob { s with jobs := s.jobs.put id { j with asked := none, tasks := l ++ ts } } id
      | none => killLaunch { s with jobs := s.jobs.del id } j.entry.launch
    | _, _ => s

/-- A job that a lost package owed an answer goes on behind that task, which has no effect (R96, R122). -/
def loseJob (q : Nat) (j : RootJob) : RootJob := if j.asked = some q then { j with asked := none, tasks := j.tasks.tail } else j

/-! ## `psetroot` (R318, R351) -/

/-- Releases of a slot's old roots are still being performed. -/
def rootBusy (s : State) (p i : Nat) : Bool := s.jobs.anyV (fun _ j => j.pop = p && j.slot = some i)

/-- Sets a particle's root and releases the old one (R317, R318). A grain whose particle has been retired sets the root that it reads, and
no other particle's (R314, R352, log 49). -/
def setRoot (s : State) (id p i : Nat) (root : DWord) : State :=
  match s.pops.at? p with
  | none => s
  | some q =>
    match q.parts.at? i with
    | none => s
    | some y =>
      if y.old.isSome then s.modParticle p i (fun y => { y with old := y.old.map (fun v => { v with root := root }) })
      else if y.root = root then s
      else
        let s1 := s.modParticle p i (fun y => { y with root := root })
        if y.root = 0 then s1 else startJob s1 id p q (some i) [.table y.root.toNat]

/-- `psetroot` (R318): the root of a grain is set once, from the lowest executing lane. It completes once the old root's counts have been
lowered, which is part of its release (R351): it then finds the root set and does nothing more. -/
def execPsetroot (f : FmtA) (s : State) : Result :=
  .next (issue (.psetroot f) [(f.a, .w64)] (fun x s k ls =>
    let c := x.core
    let ex := guardLanes s x k ls
    let flag6 := match s.launchOf c k with | some y => y.flag 6 | none => false
    let whole := match grainOf s c k with | some g => g != 0 | none => false
    let act := if whole then ex else launchedOf s c k ex
    match s.warp? c k with
    | none => s
    | some w =>
      if ex = [] then s
      else if !flag6 then raiseTrap s c k Cause.contract x.pc { lanes := maskOf ex }
      else if act = [] then s
      else
        let again (s : State) : State := parkAll s c k (retrying (.psetroot f) s c k ls ex) .drain
        let busy (s : State) : Bool := act.any (fun l => match particleOf s c k l with | some (p, i) => rootBusy s p i | none => false)
        if busy s || mustDrain s c k (if whole then lanes32 else act) .rel .span then again s
        else
          let s1 := release s c (some w.wg) .span
          let s2 := (if whole then act.take 1 else act).foldl (fun s l => match particleOf s c k l with
            | some (p, i) => setRoot s w.launch p i (BitVec.ofNat 64 (readOp s1 (x.env k) l .b64 .w64 f.a))
            | none => s) s1
          if busy s2 then again s2 else s2) s)

/-! ## Closing the barrier (R314 to R316, R319) -/

/-- Tables in this package's window that other members raise for their clones (R316): the member, and the table's address. -/
def raisedHere (s : State) (q : Population) (rootOf : Nat → DWord) (clones : List (Nat × Nat)) : List RootTask :=
  let home (i : Nat) : Nat := ((q.packages.zip q.slotsOf).find? (fun e => e.2.contains i)).elim s.fab.index Prod.fst
  let mine (va : Nat) : Bool := match regionOf va with | .peer p => p = s.fab.index | _ => false
  (clones.filter (fun e => home e.1 != s.fab.index && mine (rootOf e.2).toNat)).map (fun e => .raised (home e.1) (rootOf e.2).toNat)

/-- Applies a decision to this package's slots (R316): the roots, weights and steps at once, then the counts, every increment, those that
other members owe tables here among them, before the retired roots are released; the barrier completes once they are done. -/
def applyDecision (s : State) (p id : Nat) (q : Population) (ready : List Nat) (clones : List (Nat × Nat)) : State :=
  let mine := clones.filter (fun e => (q.parts.at? e.1).isSome)
  let rootOf (i : Nat) : DWord := match q.parts.at? i with
    | some y => y.root
    | none => match q.reports.at? i with | some (_, r) => r | none => 0
  let tasks := (mine.filter (fun e => rootOf e.2 != 0)).map (fun e => RootTask.up (rootOf e.2).toNat) ++ raisedHere s q rootOf clones ++
    (mine.filter (fun e => rootOf e.1 != 0)).map (fun e => RootTask.table (rootOf e.1).toNat)
  let s1 := s.modPop p (fun q => { q with
    step := q.step + 1, opened := false, reports := [], closing := some ready
    parts := q.parts.mapV (fun i y =>
      let late := !(q.reports.at? i).isSome
      let keep := if late && y.old.isNone then some y.view else y.old
      let z := match mine.find? (fun e => e.1 = i) with
        | some e => { y with root := rootOf e.2, parent := e.2 }
        | none => y
      { z with acc := some 0, pw := some 0, step := y.step + 1, arrived := false, updates := 0, old := keep }) })
  startJob s1 id p q none tasks

/-- The population barrier closes (R314, R315, R316, R319). Under status 2 and 3 `%pw` takes every particle's accumulator, a straggler's too,
which has committed nothing (DESIGN CHOICE, log 138). -/
def closePop (s : State) (p : Nat) : State :=
  match s.pops.at? p with
  | none => s
  | some q =>
    match s.launches.at? q.launch with
    | none => s
    | some x =>
      let id := q.launch
      let here := q.parts.map Prod.fst
      let ready := here.filter (waitingGrain s id x q)
      let keep (s : State) : State := s.modPop p (fun q => { q with
        opened := false, reports := []
        parts := q.parts.mapV (fun _ y => { y with pw := y.acc, arrived := false }) })
      if q.closing.isSome then s
      else if q.memberLost s then finishPop ((keep s).modLaunch id (fun x => { x with lost := true })) p ready 3
      else
        match popCounts q.weights with
        | none => finishPop (keep s) p ready 2
        | some ns =>
          let u := cg10 x.key (p + 2 ^ 32 * q.step) % 2 ^ 32
          let clones := popClones (popOffspring ns u q.n) q.slotsOf
          let late := here.filter (fun i => !(q.reports.at? i).isSome)
          let s1 := late.foldl (fun s i => logEvent s 7 0 i) s
          applyDecision s1 p id q ready clones

/-- ARRIVAL_REPORT (R314): for a slot of this package the report carries what its grain has committed; for another's, what that
package committed. A retired grain that the exit of a warp completes arrives here as well. -/
def execArrivalReport (pop particle : Nat) (weight : Option Int) (root : DWord) (s : State) : Result :=
  .next (match s.pops.at? pop with
    | none => s
    | some q =>
      let put (w : Option Int) (r : DWord) : State := s.modPop pop (fun q =>
        { q with opened := true, reports := q.reports.put particle (w, r) })
      if q.n ≤ particle || (q.reports.at? particle).isSome then s
      else match q.parts.at? particle, s.launches.at? q.launch with
        | some y, some x => match arrival s q.launch x q particle with
          | some w => put w y.root
          | none => lateGrain s q.launch pop particle
        | none, some _ => put weight root
        | _, none => s)

/-- POP_BARRIER_CLOSE (R315): every particle's report has come, or a member is lost and every grain here has arrived (R319). -/
def execPopBarrierClose (pop : Nat) (s : State) : Result :=
  .next (match s.pops.at? pop with
    | none => s
    | some q =>
      let all := (List.range q.n).all (fun i => (q.reports.at? i).isSome)
      let lost := q.memberLost s && (match s.launches.at? q.launch with
        | some x => q.parts.all (fun (e : Nat × Particle) => waitingGrain s q.launch x q e.1)
        | none => false)
      if all || lost then closePop s pop else s)

/-- STRAGGLER_DEADLINE (R314): a finite deadline has passed since the first report; when that is, is timing (log 8). -/
def execStragglerDeadline (pop : Nat) (s : State) : Result :=
  .next (match s.pops.at? pop with
    | none => s
    | some q => if q.opened && q.deadline != BitVec.allOnes 64 then closePop s pop else s)

end Sys2Proof.Machine
end

