-- ==== Sys2Proof/Machine/Matrix.lean ====
section
/-! DEFINITION. The matrix engine (R162, R163), its swatch entries (R295 to R297), accumulator tiles (R299) and group 0xD
(R300 to R307). -/

namespace Sys2Proof.Machine

/-! ## Swatch entries (R295, R296) -/

/-- A swatch entry's fields. -/
structure Swatch where
  fmt : Nat
  trans : Bool
  sparse : Bool
  hint : Hint
  rows : Nat
  cols : Nat
  base : Nat
  stride : Nat
  sbase : Nat
  smooth : Nat
  seed : Nat
  deriving DecidableEq, Repr

/-- Bytes of an element; 0 for the 4-bit family. -/
def fmtBytes (n : Nat) : Nat :=
  match n with
  | 0x04 | 0x10 | 0x11 => 1
  | 0x0C | 0x0D => 2
  | 0x06 | 0x0E => 4
  | _ => 0

/-- The fields of an entry. -/
def swatchOf (e : BitVec 512) : Swatch :=
  let f (off n : Nat) : Nat := bitsOf e.toNat (8 * off) (8 * n)
  { fmt := f 0 1, trans := (f 1 1).testBit 0, sparse := (f 1 1).testBit 1, hint := decodeHint (BitVec.ofNat 2 (f 1 1 / 4)),
    rows := f 4 4, cols := f 8 4, base := f 0x10 8, stride := f 0x18 8, sbase := f 0x20 8, smooth := f 0x2C 4, seed := f 0x30 8 }

/-- The trap that an entry's contents raise at its use (R295). -/
def swatchBad (e : BitVec 512) : Option Nat :=
  let f (off n : Nat) : Nat := bitsOf e.toNat (8 * off) (8 * n)
  let y := swatchOf e
  let q4 := y.fmt = 0x20
  let size := if q4 then 16 else fmtBytes y.fmt
  if !(q4 || fmtBytes y.fmt != 0) || 16 ≤ f 1 1 || f 2 2 != 0 || f 0xC 4 != 0 || f 0x2A 2 != 0 || f 0x38 8 != 0 ||
      (q4 && y.trans && y.rows % 32 != 0) || (q4 && !y.trans && y.cols % 32 != 0) || (q4 && f 0x28 2 != 32) ||
      (y.smooth != 0xFFFFFFFF && y.smooth % 8 != 0) then some Cause.engine
  else if y.base % size != 0 || y.stride % size != 0 then some Cause.misaligned
  else none

namespace Swatch

/-- The element lies in the entry (R296). -/
def has (y : Swatch) (r c : Nat) : Bool := r < y.rows && c < y.cols

/-- The address of an element, and for the 4-bit family the nibble of its byte (R294, R296). -/
def addr (y : Swatch) (r c : Nat) : Nat × Nat :=
  let i := if y.trans then c else r
  let j := if y.trans then r else c
  if y.fmt = 0x20 then ((y.base + i * y.stride + j / 2) % 2 ^ 64, j % 2)
  else ((y.base + i * y.stride + j * fmtBytes y.fmt) % 2 ^ 64, 0)

/-- The address of the scale byte of an element of the 4-bit family (R296). -/
def scaleAddr (y : Swatch) (r c : Nat) : Nat :=
  if y.trans then (y.sbase + c * (y.rows / 32) + r / 32) % 2 ^ 64 else (y.sbase + r * (y.cols / 32) + c / 32) % 2 ^ 64

/-- Lines, VA / 128, that an element's code needs, with its scale where `scale` asks for one. -/
def lines (y : Swatch) (scale : Bool) (r c : Nat) : List Nat :=
  if !y.has r c then []
  else (y.addr r c).1 / 128 :: (if y.fmt = 0x20 && scale then [y.scaleAddr r c / 128] else [])

/-- The code of an element from the fetched lines; zero outside the entry. -/
def code (y : Swatch) (ls : NMap (BitVec 1024)) (r c : Nat) : Nat :=
  if !y.has r c then 0
  else
    let a := y.addr r c
    let d := ls.atD (a.1 / 128) 0
    if y.fmt = 0x20 then lineNat d (a.1 % 128) 1 / 16 ^ a.2 % 16 else lineNat d (a.1 % 128) (fmtBytes y.fmt)

/-- Its value as a real (R214, R293). -/
def val (y : Swatch) (ls : NMap (BitVec 1024)) (r c : Nat) : FVal :=
  if !y.has r c then .fin false 0 0
  else
    let x := y.code ls r c
    match y.fmt with
    | 0x0C => Flt.f16.dec x
    | 0x0D => Flt.bf16.dec x
    | 0x10 => Flt.e4m3.dec x
    | 0x11 => Flt.e5m2.dec x
    | 0x0E => Flt.f32.dec x
    | 0x20 => q4Dec (lineNat (ls.atD (y.scaleAddr r c / 128) 0) (y.scaleAddr r c % 128) 1) x
    | _ => .fin false 0 0

/-- Its code as an integer (R302). -/
def intOf (y : Swatch) (ls : NMap (BitVec 1024)) (r c : Nat) : Int := sextN (if y.fmt = 0x20 then 4 else 8) (y.code ls r c)

end Swatch

/-! ## Tile fetches (R35, R61, R67, R297, R301) -/

def State.modEngine (s : State) (c : Nat) (f : Engine → Engine) : State := s.modCore c (fun x => { x with engine := f x.engine })

/-- Why a fetch has not answered. -/
inductive FetchStop where
  /-- Lines of peer packages are under way. -/
  | wait
  /-- Written bytes of the core itself wait to go home (R71). -/
  | held
  | fault (cause va : Nat)
  | lost (va : Nat)

/-- The tag of a tile fetch from a peer package: bit 58, core, warp slot and a number (R106, log 54). -/
def tileTag (c k n : Nat) : Nat := 2 ^ 58 + 2 ^ 47 * c + 2 ^ 41 * (k % 64) + n % 2 ^ 41

/-- The key of a peer line that a warp slot has asked for. -/
def slotKey (k key : Nat) : Nat := 2 ^ 56 * k + key

/-- What was asked for before a `swinv` comes too late to serve a fetch after it (R297): bit 55 marks its key. -/
def staleKey (key : Nat) : Nat := if key.testBit 55 then key else key + 2 ^ 55

/-- Peer lines that a slot has asked for and not been sent. -/
def slotAsked (s : State) (c k : Nat) : NMap Nat := (s.core c).engine.asked.filterV (fun _ x => x / 2 ^ 56 = k)

/-- One line of a tile fetch: its bytes, or what stops it, with the peer line still to ask for. -/
def fetchOne (s : State) (c k va : Nat) : State × Except FetchStop (BitVec 1024) :=
  match resolveNow s (whoOf s c k) { kind := .tileFetch, write := false, odd := true, width := 128 } (va * 128) with
  | (s1, .fault f) => (s1, .error (.fault f (va * 128)))
  | (s1, .miss) => (s1, .error (.fault XCause.notPresent (va * 128)))
  | (s1, .ok (.mem pa) _) | (s1, .ok (.side pa) _) =>
    if s1.rel.badLines.contains (pa / 65536) then (s1, .error (.lost (va * 128))) else (s1, .ok (memLine s1 (pa / 128)))
  | (s1, .ok (.peer q pa) leaf) =>
    let key := slotKey k (peerKey q pa)
    match (s1.core c).engine.lines.at? key with
    | some d => (s1, .ok d)
    | none =>
      if !pkgLive s1 q then (setLost s1 (.warp c k) q, .ok 0)
      else if (s1.core c).engine.asked.anyV (fun _ x => x = key) || 256 ≤ peerRequests s1 c then (s1, .error .wait)
      else
        let n := s1.fresh
        let s2 := s1.bump.modEngine c (fun e => { e with asked := e.asked.put n key })
        (sendPacket s2 { hdr := mkHdr 0 s2.fab.index q 0 0 128 (pa / 128 * 128) (sideMark (pteMS leaf)) (tileTag c k n), payload := [] }, .error .wait)
  | (s1, .ok _ _) => (s1, .error (.fault XCause.window (va * 128)))

/-- Fetches lines: every line that can be asked for is, and the first fault or loss stops the fetch. -/
def fetchLines (s : State) (c k : Nat) : List Nat → State × Except FetchStop (NMap (BitVec 1024))
  | [] => (s, .ok [])
  | va :: t =>
    match fetchOne s c k va with
    | (s1, .error .wait) =>
      match fetchLines s1 c k t with
      | (s2, .ok _) => (s2, .error .wait)
      | r => r
    | (s1, .error e) => (s1, .error e)
    | (s1, .ok d) =>
      match fetchLines s1 c k t with
      | (s2, .ok m) => (s2, .ok (m.put va d))
      | r => r

/-- The local level-2 lines among fetched lines, with the hint that the entry names for them (R57, R61, R67, R295). -/
def fetchedLines (s : State) (c k : Nat) (h : Hint) (vas : List Nat) : List (Nat × Hint) :=
  vas.filterMap (fun va => match (resolveNow s (whoOf s c k) { kind := .tileFetch, write := false, odd := true, width := 128 }
      (va * 128)).2 with
    | .ok (.mem pa) leaf => some (pa / 128, effHint h leaf)
    | _ => none)

/-- Reads a swatch entry, from the core's cache or memory, where the core's own stores are (R297). -/
def readSwatch (s : State) (c k id : Nat) : State × Except FetchStop (BitVec 512) :=
  match (s.core c).swatch.at? id with
  | some e => (s, .ok e)
  | none =>
    let a := ((match s.launchOf c k with | some x => x.fld 0x40 8 | none => 0) + 64 * id) % 2 ^ 64
    -- The table may lie anywhere (R147), so an entry may reach into a second line.
    let z := (a + 63) % 2 ^ 64 / 128
    let need := if z = a / 128 then [z] else [a / 128, z]
    if wbHeld s c then (s, .error .held)
    else match fetchLines (writeBackAll s c) c k need with
    | (s1, .error (.fault cause va)) => (s1, .error (.fault cause (if va / 128 = z && need.length = 2 then va else a)))
    | (s1, .error (.lost va)) => (s1, .error (.lost (if va / 128 = z && need.length = 2 then va else a)))
    | (s1, .error w) => (s1, .error w)
    | (s1, .ok m) =>
      let s2 := (fetchedLines s1 c k .dflt need).foldl (fun s e => l2Touch s (128 * e.1) e.2) s1
      let d := (m.atD (a / 128) 0).toNat + 2 ^ 1024 * (m.atD z 0).toNat
      let e : BitVec 512 := BitVec.ofNat 512 (bitsOf d (8 * (a % 128)) 512)
      (s2.modCore c (fun x => { x with swatch := x.swatch.put id e }), .ok e)

/-! ## Tiles (R299) -/

/-- First byte of an accumulator granule in the core store. -/
def granuleOff (s : State) (c g : Nat) : Nat := accBase (s.core c).part + 0x4000 * g

/-- The lowest free accumulator granule. -/
def freeGranule (s : State) (c : Nat) : Option Nat :=
  (List.range (accG (s.core c).part)).find? (fun g => ((s.core c).granules.at? g).isNone)

/-- The granule of a tile, if it is bound. -/
def tileAt (s : State) (c k t : Nat) : Option Nat := match s.warp? c k with | some w => w.tiles.at? t | none => none

/-- Binds a tile to a granule, zero. -/
def bindTile (s : State) (c k t g : Nat) : State :=
  (s.modCore c (fun x => { x with
    granules := x.granules.put g (k, t)
    store := Mem.clear x.store (accBase x.part + 0x4000 * g) 0x4000 })).modWarp c k (fun w => { w with tiles := w.tiles.put t g })

/-- A word of a tile, which its granule holds row by row (log 63). -/
def tileWord (s : State) (c g r col : Nat) : Nat := Mem.rd (s.core c).store (granuleOff s c g + 4 * (64 * r + col)) 4

def setTileWord (s : State) (c g r col v : Nat) : State := s.wrStore c (granuleOff s c g + 4 * (64 * r + col)) 4 v

/-- Writes a whole tile. -/
def setTile (s : State) (c g : Nat) (f : Nat → Nat → Nat) : State :=
  let bs := (List.range 64).flatMap (fun r => (List.range 64).flatMap (fun col => leBytes 4 (f r col)))
  s.modCore c (fun x => { x with store := Mem.splice x.store (accBase x.part + 0x4000 * g) bs })

/-- Runs a tile form once its tile is bound; else it waits, or traps where the core has no accumulators. The first reference binds it, and it
stays bound where the form then waits or ends in a trap (DEDUCED, log 127). -/
def withTile (t : Nat) (f : State → Nat → State) (x : Clause) (s : State) (k : Nat) (ls ex : List Nat) : State :=
  let c := x.core
  if accG (s.core c).part = 0 then raiseTrap s c k Cause.contract x.pc { lanes := maskOf ex }
  else match tileAt s c k t with
    | some g => f s g
    | none => match freeGranule s c with
      | some g => f (bindTile s c k t g) g
      | none => parkAll s c k ls .tile

/-- TILE_BIND_GRANT (R299): a granule is free, and the oldest warp that waits for one binds it. -/
def execTileBindGrant (core : Nat) (s : State) : Result :=
  .next (match freeGranule s core with
    | none => s
    | some _ =>
      let ws := (s.core core).warps.filterV (fun _ w => w.lanes.anyV (fun _ l => l.wait == .tile))
      match ws.find? (fun (e : Nat × Warp) => ws.all (fun (d : Nat × Warp) => e.2.age ≤ d.2.age)) with
      | some e => wakeAll s core e.1 (waiting s core e.1 (fun w => w == .tile))
      | none => s)

/-- Every resident warp of the core is in a wait that a test names (R141, R299). A warp with no lane left, whose operations are still owed,
waits for nothing and is passed over, though its registers and its place in its partition are taken (DESIGN CHOICE, log 133). -/
def allWait (s : State) (c : Nat) (p : Wait → Bool) : Bool :=
  (s.core c).warps != [] && !(s.core c).warps.anyV (fun _ w => !w.present.all (fun l => p (w.lanes.atD l Lane.never).wait))

/-- A wait for an allocation: of a tile, or of registers (R299). -/
def Wait.allocates : Wait → Bool
  | .tile | .regrow _ => true
  | _ => false

/-- TILE_BIND_TIMEOUT (R299): the youngest warp that waits for a tile traps; the 2048 cycles are timing (log 8). -/
def execTileBindTimeout (core : Nat) (s : State) : Result :=
  .next (if !allWait s core Wait.allocates then s
    else
      let ws := (s.core core).warps.filterV (fun _ w => w.lanes.anyV (fun _ l => l.wait == .tile))
      match ws.find? (fun (e : Nat × Warp) => ws.all (fun (d : Nat × Warp) => d.2.age ≤ e.2.age)) with
      | some e =>
        let ls := waiting s core e.1 (fun w => w == .tile)
        raiseTrap (wakeAll s core e.1 ls) core e.1 Cause.contract (s.lane core e.1 (ls.headD 0)).pc { lanes := maskOf ls }
      | none => s)

/-! ## The arbiter (R162, R163) -/

/-- The forms that the lease governs (R301). -/
def Instr.usesEngine : Instr → Bool
  | .mma _ | .mmas _ | .tld _ | .tst _ => true
  | _ => false

/-- The instruction at a lane's program counter, as the core's instruction cache or memory holds it. -/
def instrNow (s : State) (c k l : Nat) : Option Instr :=
  let pc := (s.lane c k l).pc
  match (fetchLine s c (s.ctxOf c k) pc).2 with
  | .line y => instrAt y pc
  | _ => none

/-- The wait of a lane whose matrix instruction is ready, or fetches lines of peer packages (R162). -/
def Wait.engineReady : Wait → Bool
  | .run | .engine => true
  | _ => false

/-- A warp has no matrix instruction ready: it is elsewhere, or its instruction waits for a fault, a tile or records (R162). -/
def notReady (s : State) (c k : Nat) : Bool :=
  match s.warp? c k with
  | none => true
  | some w => w.present = [] || w.trapped || !w.present.all (fun l => (w.lanes.atD l Lane.never).wait.engineReady &&
      (match instrNow s c k l with | some i => Instr.usesEngine i | none => false))

/-- The lease in operations of a warp's launch. -/
def leaseOf (s : State) (c k : Nat) : Nat := match s.launchOf c k with | some x => x.lease | none => 64

/-- The current lease has ended or is not held (R162). -/
def leaseOver (s : State) (c : Nat) : Bool :=
  match (s.core c).engine.holder with
  | none => true
  | some k => leaseOf s c k ≤ (s.core c).engine.used || notReady s c k

/-- A warp asks for the engine; none where it must wait. -/
def takeEngine (s : State) (c k : Nat) : Option State :=
  let e := (s.core c).engine
  if e.owner = some k then some s
  else if e.owner.isSome || e.ownerQ.contains k then none
  else if e.holder = some k && (e.used < leaseOf s c k || (e.leaseQ = [] && e.ownerQ = [])) then
    some s
  else if e.holder = none && e.leaseQ = [] && e.ownerQ = [] then
    some (s.modEngine c (fun e => { e with holder := some k, used := 0 }))
  else none

/-- Runs a form that occupies the engine (R162). -/
def withEngine (f : State → State) (x : Clause) (s : State) (k : Nat) (ls : List Nat) : State :=
  match takeEngine s x.core k with
  | some t => f t
  | none => parkAll (s.modEngine x.core (fun e => { e with
      leaseQ := if e.leaseQ.contains k || e.ownerQ.contains k then e.leaseQ else e.leaseQ ++ [k] })) x.core k ls .engine

/-- LEASE_HANDOFF (R162, R163): owners come before lease requests. -/
def execLeaseHandoff (core : Nat) (s : State) : Result :=
  .next (
    let e := (s.core core).engine
    if e.owner.isSome || !leaseOver s core then s
    else match e.ownerQ, e.leaseQ with
      | k :: t, _ =>
        let s1 := s.modEngine core (fun e => { e with owner := some k, ownerQ := t, holder := none })
        let s2 := passOn s1 core k (waiting s1 core k (fun w => w == .macq))
        wakeAll s2 core k (waiting s2 core k (fun w => w == .engine))
      | [], k :: t =>
        let s1 := s.modEngine core (fun e => { e with holder := some k, used := 0, leaseQ := t })
        wakeAll s1 core k (waiting s1 core k (fun w => w == .engine))
      | [], [] => s)

/-- `macq` (R163). -/
def execMacq (s : State) : Result :=
  .next (issue .macq [] (fun x s k ls =>
    let c := x.core
    let e := (s.core c).engine
    if e.owner = some k then s
    else if e.owner.isNone && e.ownerQ = [] && leaseOver s c then
      s.modEngine c (fun e => { e with owner := some k, holder := none })
    else
      parkAll (s.modEngine c (fun e => { e with ownerQ := if e.ownerQ.contains k then e.ownerQ else e.ownerQ ++ [k] })) c k ls .macq) s)

/-- `mrel` (R163). -/
def execMrel (s : State) : Result :=
  .next (issue .mrel [] (fun x s k _ =>
    if (s.core x.core).engine.owner = some k then s.modEngine x.core (fun e => { e with owner := none }) else s) s)

/-! ## What stops a matrix instruction -/

/-- Drops the peer lines that a slot has been sent or has asked for. -/
def dropFetched (s : State) (c k : Nat) : State := s.modEngine c (fun e => { e with
  lines := e.lines.filterV (fun n _ => n / 2 ^ 56 != k), asked := e.asked.filterV (fun _ n => n / 2 ^ 56 != k) })

/-- A stopped fetch: the whole instruction replays with the records that it holds, or its command is killed and the warp goes on behind it
with a trap (R35, R39, R73, R362). -/
def fetchStops (x : Clause) (s : State) (k : Nat) (ls : List Nat) (kind : AccKind) : FetchStop → State
  | .wait => parkAll s x.core k ls (if slotAsked s x.core k = [] then .drain else .engine)
  | .held => parkAll s x.core k ls .record
  | .fault cause va =>
    let c := x.core
    if replayable s kind cause then
      let j := joinFault s (BitVec.ofNat 64 va) (s.ctxOf c k) c cause kind (kind == .writeBack) 0
      parkAll j.1 c k ls (.fault j.2 kind)
    else
      let s1 := passBy x (dropFetched (freeKept s c k) c k) k ls
      match s1.warp? c k with
      | some w => raiseTrap s1 c k Cause.translation (w.lanes.atD (w.present.headD 0) Lane.never).pc
          { detail := cause + 16 * agentCode kind, addr := BitVec.ofNat 64 va }
      | none => s1
  | .lost va =>
    let c := x.core
    let s1 := passBy x (dropFetched (freeKept s c k) c k) k ls
    match s1.warp? c k with
    | some w => raiseTrap s1 c k Cause.dataLoss (w.lanes.atD (w.present.headD 0) Lane.never).pc
        { detail := 16 * agentCode kind, addr := BitVec.ofNat 64 va }
    | none => s1

/-- A precise engine-command trap: engine 2, or 3 for an entry's contents (R320, R321). -/
def matTrap (x : Clause) (s : State) (k : Nat) (ex : List Nat) (cause engine : Nat) : State :=
  raiseTrap (dropFetched (freeKept s x.core k) x.core k) x.core k cause x.pc { lanes := maskOf ex, detail := if cause = Cause.engine then engine else 0 }

/-- Reads an entry and goes on with its fields. -/
def withSwatch (id : Nat) (f : State → Swatch → State) (x : Clause) (s : State) (k : Nat) (ls ex : List Nat) : State :=
  match readSwatch s x.core k id with
  | (s1, .error e) => fetchStops x s1 k ls .tileFetch e
  | (s1, .ok e) => match swatchBad e with
    | some cause => matTrap x s1 k ex cause 3
    | none => f s1 (swatchOf e)

/-- The lines lie in more granules than one command may cover (R69). -/
def tooMany (lines : List Nat) : Bool := decide (256 < (granulesOf lines).length)

/-- The ownership of a matrix operation (R67, R69, R70, R73): its number, which a replay keeps, and records for those of its lines that have
none. None while home slices lack records, or at its first issue while the core's written bytes cannot go home (R71). -/
def matOwn (s : State) (c k : Nat) (write : Bool) (lines : List Nat) : Option (State × Nat) :=
  let kept := (s.warp? c k).bind Warp.keeps
  let n := kept.getD s.fresh
  let mine := s.own.filter (fun r => r.engine == .tile n)
  let new := lines.filter (fun l => !mine.any (fun r => r.granule = l / 512 && r.mask.getLsbD (l % 512)))
  if !recordsFree s ((granulesOf new).filter (fun g => !mine.any (fun r => r.granule = g))) || (kept.isNone && wbHeld s c) then none
  else
    let s1 := if kept.isSome then s else s.bump.modWarp c k (fun w => { w with keeps := some n })
    some (if kept.isSome && new = [] then s1 else engineStart s1 c (.tile n) write new, n)

/-- A line's way is one of 8 that are pinned in its set, or may be (R61). -/
def mayPin (s : State) (l : Nat) : Bool :=
  s.l2.any (fun y => y.line = l && y.pins != 0) || decide (((l2Set s l).filter (fun y => y.pins != 0)).length < 8)

/-- Two lines share a set of level 2 (R54). -/
def sameSet (l m : Nat) : Bool := l % 768 = m % 768 && homeSlice (128 * l) = homeSlice (128 * m)

/-- The lines of a fetch may be pinned: with the ways that others have pinned in a set they are 8 at most. A fetch that needs more of one set
on its own has consumed the first of them before it pins the rest (R61). -/
def pinsFit (s : State) (ls : List Nat) : Bool :=
  ls.all (fun l =>
    let others := (l2Set s l).filter (fun y => y.pins != 0 && !ls.contains y.line)
    others = [] || others.length + (ls.filter (sameSet l)).length ≤ 8)

/-- Fetches lines at level 2 under their hints and pins them, at most 8 ways of a set; lines beyond them have been consumed by then (R57,
R61). Answers the lines pinned. -/
def pinLines (s : State) (ls : List (Nat × Hint)) : State × List Nat :=
  ls.foldl (fun (r : State × List Nat) e =>
    let s1 := l2Touch r.1 (128 * e.1) e.2
    if mayPin s1 e.1 && s1.l2.any (fun y => y.line = e.1) then
      ({ s1 with l2 := s1.l2.map (fun y => if y.line = e.1 then { y with pins := y.pins + 1 } else y) }, e.1 :: r.2)
    else (s1, r.2)) (s, [])

/-- An operation is under way until MATRIX_OP_COMPLETE (R301); it counts toward the lease (R162). -/
def pend (s : State) (x : Clause) (k id : Nat) (fs : FlagSel) (wrote pins : List Nat) (acks : Nat) : State :=
  match s.warp? x.core k with
  | none => s
  | some w =>
    let f := flagOf x.line fs
    let s1 := (dropFetched s x.core k).modEngine x.core (fun e => { e with
      used := if e.holder = some k then e.used + 1 else e.used
      pending := e.pending ++
        [{ id := id, more := false, slot := k, wg := w.wg, warpid := w.warpid, flag := f, wrote := wrote, pins := pins, acks := acks }] })
    raiseFlag (s1.modWarp x.core k (fun w => { w with keeps := none, row := 0 })) x.core k f

/-- Changes a matrix operation, which stands with the core that issued it. -/
def modMat (s : State) (id : Nat) (f : MatOp → MatOp) : State :=
  { s with cores := s.cores.mapV (fun _ y => { y with engine := { y.engine with
      pending := y.engine.pending.map (fun m => if m.id = id then f m else m) } }) }

/-- A write-back is under way from its issue: its flag is up, and rows are still to be written (R301). -/
def openMat (s : State) (x : Clause) (k id : Nat) (fs : FlagSel) : State :=
  if s.cores.anyV (fun _ y => y.engine.pending.any (fun m => m.id = id)) then s
  else match s.warp? x.core k with
    | none => s
    | some w =>
      let f := flagOf x.line fs
      raiseFlag (s.modEngine x.core (fun e => { e with pending := e.pending ++
        [{ id := id, more := true, slot := k, wg := w.wg, warpid := w.warpid, flag := f, wrote := [], pins := [], acks := 0 }] }))
        x.core k f

/-- Its last row has been written; the operation counts toward the lease (R162). -/
def closeMat (s : State) (c k id : Nat) : State :=
  ((modMat (dropFetched s c k) id (fun m => { m with more := false })).modEngine c (fun e => { e with
    used := if e.holder = some k then e.used + 1 else e.used })).modWarp c k (fun w => { w with keeps := none, row := 0 })

/-- Runs an operation on fetched lines: records and the steps of R70 first, then the fetch, and the pins while the operation reads
(R61, R67, R301). `run` answers the state with the result. A form that covers more than 256 granules is refused (R69, log 115). -/
def withTileFetch (x : Clause) (s : State) (k : Nat) (ls ex : List Nat) (fs : FlagSel) (need : List (Hint × List Nat))
    (run : State → NMap (BitVec 1024) → State) : State :=
  let c := x.core
  let own := (need.flatMap (fun e => fetchedLines s c k e.1 e.2)).foldl
    (fun (l : List (Nat × Hint)) e => if l.any (fun d => d.1 = e.1) then l else l ++ [e]) []
  if tooMany (own.map Prod.fst) then matTrap x s k ex Cause.engine 2
  else match matOwn s c k false (own.map Prod.fst) with
  | none => parkAll s c k ls .record
  | some (s1, id) =>
    match fetchLines s1 c k (need.flatMap (fun e => e.2)).eraseDups with
    | (s2, .error e) => fetchStops x s2 k ls .tileFetch e
    | (s2, .ok m) =>
      if !pinsFit s2 ((own.filter (fun e => e.2 != .bypass)).map Prod.fst) then parkAll s2 c k ls .record
      else
        let r := pinLines s2 own
        pend (run r.1 m) x k id fs [] r.2 0

/-- A coordinate or row operand as n32; it is warp-uniform or an immediate (R300). -/
def coordOf (x : Clause) (s : State) (k : Nat) (ex : List Nat) (o : Operand) : Nat :=
  readOp s (x.env k) (ex.headD 0) .n32 .w32 o

/-! ## Multiplication (R302, R303, R306) -/

/-- k of an operand class, for a multiply form; none for a pair that is no class (R302). -/
def classK (a b : Nat) (int : Bool) : Option Nat :=
  let half (n : Nat) : Bool := n = 0x0C || n = 0x0D
  let byte (n : Nat) : Bool := n = 0x10 || n = 0x11
  if half a && half b then (if int then none else some 32)
  else if byte a && byte b then (if int then none else some 64)
  else if a = 0x04 && b = 0x04 then (if int then some 64 else none)
  else if a = 0x20 && b = 0x20 then some 128
  else none

/-- A value toward zero at weight 2^w. -/
def truncAt (w : Int) : FVal → Int
  | .fin neg n e =>
    let m : Nat := if w ≤ e then n * 2 ^ (e - w).toNat else n / 2 ^ (w - e).toNat
    if neg then -(m : Int) else m
  | _ => 0

/-- The sum of exact terms of R302. -/
def mmaSum (ts : List FVal) : Nat :=
  let pinf := ts.any (fun t => t.isInf false)
  let ninf := ts.any (fun t => t.isInf true)
  if ts.any FVal.isNan || (pinf && ninf) then 0x7FC00000
  else if pinf then 0x7F800000
  else if ninf then 0xFF800000
  else match ts.filter (fun t => !t.isZero) with
    | [] => 0
    | v :: vs =>
      let e := vs.foldl (fun m t => if m < t.exponent then t.exponent else m) v.exponent
      let sum := ((v :: vs).map (truncAt (e - 60))).foldl (· + ·) 0
      Flt.f32.enc .rne (.fin (decide (sum < 0)) sum.natAbs (e - 60))

/-- The pattern index m of a group of a column (R303). -/
def sparseM (seed kappa j c g : Nat) : Nat :=
  let h := bitsOf (cg10 seed (kappa + 2 ^ 32 * j + 2 ^ 64 * c + 2 ^ 96 * (g / 4))) (32 * (g % 4)) 32
  h * 6 / 2 ^ 32

/-- Which of a group's four positions are kept (R303). -/
def keptPair (m : Nat) : Nat × Nat :=
  match m with | 0 => (0, 1) | 1 => (0, 2) | 2 => (0, 3) | 3 => (1, 2) | 4 => (1, 3) | _ => (2, 3)

/-- The stored row of a logical position of a column of B, none for a position that is not kept. -/
def storedRow (y : Swatch) (sparse : Bool) (kk kappa j c p : Nat) : Option Nat :=
  if !sparse then some (kk * kappa + p)
  else
    let kp := keptPair (sparseM y.seed kappa j c (p / 4))
    if p % 4 = kp.1 then some (kk / 2 * kappa + 2 * (p / 4))
    else if p % 4 = kp.2 then some (kk / 2 * kappa + 2 * (p / 4) + 1)
    else none

/-- The smoothing value of a channel, with its reciprocal above it: offset in the core's scratchpad, none beyond it (R306). -/
def smoothAt (s : State) (c o ch : Nat) : Option Nat :=
  if o + 8 * ch + 8 ≤ spSize (s.core c).part then some (Mem.rd (s.core c).store (spBase (s.core c).part + o + 8 * ch) 8) else none

/-- The window address of a scratchpad offset, for a trap record. -/
def scratchVa (c o : Nat) : Nat := 0xF000001000000 + c % 4 * 2 ^ 20 + o

/-- `mma` and `mmas` in one warp: the warp's earlier accesses are performed and the core's written bytes go home before the operands are
read (R70, R92). -/
def mmaWarp (f : FmtX) (sparse : Bool) : WarpStep := fun x s k ls =>
  let c := x.core
  let ex := launchedOf s c k (guardLanes s x k ls)
  let t := f.tile.toNat
  let clr := f.xmod.getLsbD 0
  let int := f.xmod.getLsbD 1
  let sat := f.xmod.getLsbD 2
  let i := coordOf x s k ex f.ca
  let j := coordOf x s k ex f.cb
  let kap := coordOf x s k ex f.cc
  let rng : List Nat := List.range 64
  if ex = [] then s
  else if inFlight s c k lanes32 (fun _ => true) then parkAll s c k ls .drain
  else
    withTile t (fun s g => withEngine (fun s =>
      withSwatch f.swa.toNat (fun s ya => withSwatch f.swb.toNat (fun s yb =>
        match classK ya.fmt yb.fmt int with
        | none => matTrap x s k ex Cause.engine 2
        | some k1 =>
          if (sat && !int) || (sparse && ya.sparse) || yb.sparse != sparse || (ya.fmt = 0x20 && (ya.trans || !yb.trans)) then
            matTrap x s k ex Cause.engine 2
          else
            let kk := if sparse then 2 * k1 else k1
            let ps := List.range kk
            let row (r : Nat) : Nat := 64 * i + r
            let needA := (rng.flatMap (fun r => ps.flatMap (fun p => ya.lines (!int) (row r) (kk * kap + p)))).eraseDups
            let needB := (rng.flatMap (fun q => ps.flatMap (fun p => match storedRow yb sparse kk kap j q p with
                | some b => yb.lines (!int) b (64 * j + q)
                | none => []))).eraseDups
            let smooth := !int && yb.smooth != 0xFFFFFFFF
            match (if smooth then ps.find? (fun p => (smoothAt s c yb.smooth (kk * kap + p)).isNone) else none) with
            | some p => fetchStops x s k ls .tileFetch (.fault XCause.window (scratchVa c (yb.smooth + 8 * (kk * kap + p))))
            | none =>
              withTileFetch x s k ls ex f.fs [(ya.hint, needA), (yb.hint, needB)] (fun s2 m =>
                  let sm (p : Nat) : FVal := if smooth then Flt.f32.dec ((smoothAt s2 c yb.smooth (kk * kap + p)).getD 0 % 2 ^ 32)
                    else .fin false 1 0
                  setTile s2 c g (fun r q =>
                    let x0 := if clr then 0 else tileWord s2 c g r q
                    if int then
                      let sum := ps.foldl (fun (acc : Int) p => match storedRow yb sparse kk kap j q p with
                        | some b => acc + ya.intOf m (row r) (kk * kap + p) * yb.intOf m b (64 * j + q)
                        | none => acc) (sextN 32 x0)
                      truncN 32 (if sat then satsN 32 sum else sum)
                    else
                      mmaSum (Flt.f32.dec x0 :: ps.map (fun p =>
                        let b := match storedRow yb sparse kk kap j q p with
                          | some b => yb.val m b (64 * j + q)
                          | none => .fin false 0 0
                        ((ya.val m (row r) (kk * kap + p)).mul b).mul (sm p)))))) x s k ls ex) x s k ls ex) x s k ls) x s k ls ex

/-- `mma` (R302). -/
def execMma (f : FmtX) (s : State) : Result := .next (issue (.mma f) [] (mmaWarp f false) s)

/-- `mmas` (R302, R303). -/
def execMmas (f : FmtX) (s : State) : Result := .next (issue (.mmas f) [] (mmaWarp f true) s)

/-- Lets pinned lines go (R61). -/
def unpin (s : State) (ls : List Nat) : State :=
  { s with l2 := s.l2.map (fun l => if ls.contains l.line then { l with pins := l.pins - 1 } else l) }

/-- MATRIX_OP_COMPLETE (R61, R67, R77, R301): the oldest operation of a core that no peer owes anything publishes, lets its lines go
and lowers its flag. -/
def execMatrixOpComplete (core : Nat) (s : State) : Result :=
  .next (match (s.core core).engine.pending.find? (fun m => m.acks = 0 && !m.more) with
    | none => s
    | some m =>
      let s1 := if m.wrote = [] then s else enginePublish s (some m.wg) m.wrote
      let s2 := s1.modEngine core (fun e => { e with pending := e.pending.filter (fun y => y.id != m.id) })
      settleOps (lowerFlagOf (freeOwnership (unpin s2 m.pins) (.tile m.id)) m.wg m.warpid m.flag) core)

/-! ## Tile moves (R305) -/

/-- A tile form that acts when some lane executes. -/
def tileWarp (t : Nat) (f : Clause → State → Nat → List Nat → List Nat → Nat → State) : WarpStep := fun x s k ls =>
  let ex := guardLanes s x k ls
  if ex = [] then s else withTile t (fun s g => f x s k ls ex g) x s k ls ex

/-- `tzero`. -/
def execTzero (f : FmtX) (s : State) : Result :=
  .next (issue (.tzero f) [] (tileWarp f.tile.toNat (fun x s _ _ _ g => setTile s x.core g (fun _ _ => 0))) s)

/-- `tld`. -/
def execTld (f : FmtX) (s : State) : Result :=
  .next (issue (.tld f) [] (fun x s k ls =>
    let c := x.core
    let ex := launchedOf s c k (guardLanes s x k ls)
    if ex = [] then s
    else if inFlight s c k lanes32 (fun _ => true) then parkAll s c k ls .drain
    else tileWarp f.tile.toNat (fun x s k ls _ g => withEngine (fun s => withSwatch f.swc.toNat (fun s y =>
      let i := coordOf x s k ex f.ca
      let j := coordOf x s k ex f.cb
      if y.fmt != 0x0E && y.fmt != 0x06 then matTrap x s k ex Cause.engine 2
      else
        let need := ((List.range 64).flatMap (fun r => (List.range 64).flatMap (fun q => y.lines false (64 * i + r) (64 * j + q)))).eraseDups
        withTileFetch x s k ls ex f.fs [(y.hint, need)] (fun s m =>
          setTile s c g (fun r q => y.code m (64 * i + r) (64 * j + q)))) x s k ls ex) x s k ls) x s k ls) s)

/-- The value that `tst` stores of a tile word (R305). -/
def tstVal (fmt v : Nat) : Nat :=
  match fmt with
  | 0x0C => Flt.f16.enc .rne (Flt.f32.dec v)
  | 0x0D => Flt.bf16.enc .rne (Flt.f32.dec v)
  | _ => v

/-- Elements of one row that `tst` stores: address and value. -/
def tstRow (s : State) (c g : Nat) (y : Swatch) (i j r : Nat) : List (Nat × Nat) :=
  (List.range 64).filterMap (fun q =>
    if y.has (64 * i + r) (64 * j + q) then some ((y.addr (64 * i + r) (64 * j + q)).1, tstVal y.fmt (tileWord s c g r q)) else none)

/-- Where a write-back's address is written. -/
def tstDst (s : State) (c k va n : Nat) : State × Res :=
  match resolveNow s (whoOf s c k) { kind := .writeBack, write := true, odd := true, width := n } va with
  | (s1, .ok (.store _ _) _) => (s1, .fault XCause.window)
  | (s1, .ok (.debug _ _) _) => (s1, .fault XCause.window)
  | (s1, .miss) => (s1, .fault XCause.notPresent)
  | r => r

/-- The tag of a write-back to a peer package: bit 59, core, warp slot and the operation's number (R106, log 54). -/
def wbTag (c k id : Nat) : Nat := 2 ^ 59 + 2 ^ 47 * c + 2 ^ 41 * (k % 64) + id % 2 ^ 41

/-- Writes one row that has no fault: the operation keeps the sectors written here, and awaits the acknowledgements of what is sent to
peers. Lines on memory-side pages stand 2^53 higher among the peer lines. -/
def tstWrite (s : State) (c k n id : Nat) (h : Hint) (row : List (Nat × Nat)) : State :=
  let r := row.foldl (fun (r : State × List Nat × NMap (BitVec 128 × BitVec 1024)) e =>
    match (tstDst r.1 c k e.1 n).2 with
    | .ok (.mem pa) leaf => (l2Write (r.1.wrMem pa n e.2) pa n (effHint h leaf), addSectors r.2.1 [pa / 32], r.2.2)
    | .ok (.side pa) _ => (r.1.wrMem pa n e.2, addSectors r.2.1 [pa / 32], r.2.2)
    | .ok (.peer q pa) leaf =>
      let key := peerKey q pa + 2 ^ 53 * sideMark (pteMS leaf)
      let old := r.2.2.atD key (0, 0)
      let m := byteMask (pa % 128) n
      (r.1, r.2.1, r.2.2.put key (old.1 ||| m, mergeLine m (BitVec.ofNat 1024 (e.2 % 2 ^ (8 * n) * 2 ^ (8 * (pa % 128)))) old.2))
    | _ => r) (s, [], [])
  let pkg (key : Nat) : Nat := key % 2 ^ 53 / 2 ^ 45 - 1
  let live := r.2.2.filter (fun (e : Nat × BitVec 128 × BitVec 1024) => pkgLive r.1 (pkg e.1))
  let dead := r.2.2.filter (fun (e : Nat × BitVec 128 × BitVec 1024) => !pkgLive r.1 (pkg e.1))
  let s1 := dead.foldl (fun s (e : Nat × BitVec 128 × BitVec 1024) => setLost s (.warp c k) (pkg e.1)) r.1
  let s2 := live.foldl (fun s (e : Nat × BitVec 128 × BitVec 1024) =>
    sendPacket s { hdr := mkHdr 1 s.fab.index (pkg e.1) 0 0 (maskCount e.2.1) (e.1 % 2 ^ 45 * 128) (e.1 / 2 ^ 53) (wbTag c k id)
                   payload := maskPayload e.2.1 e.2.2 }) s1
  modMat s2 id (fun m => { m with
    wrote := addSectors m.wrote r.2.1
    acks := live.foldl (fun n (e : Nat × BitVec 128 × BitVec 1024) => ackAdd n (pkg e.1)) m.acks })

/-- Peer lines that a row writes. -/
def tstPeers (s : State) (c k n : Nat) (row : List (Nat × Nat)) : List (Nat × Nat) :=
  (row.filterMap (fun e => match (tstDst s c k e.1 n).2 with | .ok (.peer q pa) _ => some (q, pa / 128) | _ => none)).eraseDups

/-- What stops a write-back before its last row: a fault, with its cause and address, a retired frame, or too many peer requests (R35, R108,
R362). -/
inductive RowStop where
  | fault (cause va : Nat)
  | lost (va : Nat)
  | full

/-- Writes the rows from one on, until one that is stopped. -/
def tstRows (c k g n id i j : Nat) (y : Swatch) : Nat → State → Nat → State × Option (Nat × RowStop)
  | 0, s, _ => (s, none)
  | left + 1, s, r =>
    let row := tstRow s c g y i j r
    match row.findSome? (fun e => match (tstDst s c k e.1 n).2 with
      | .fault f => some (.fault f e.1)
      | .ok p _ => if frameLost s p then some (.lost e.1) else none
      | _ => none) with
    | some stop => (s, some (r, stop))
    | none =>
      if (tstPeers s c k n row) != [] && 256 < peerRequests s c + (tstPeers s c k n row).length then (s, some (r, .full))
      else tstRows c k g n id i j y left (tstWrite s c k n id y.hint row) (r + 1)

/-- Lines of level 2 that the rows from one on write (R67). -/
def tstLines (s : State) (c k g n i j : Nat) (y : Swatch) (r : Nat) : List Nat :=
  (((List.range 64).filter (fun q => r ≤ q)).flatMap (fun q => (tstRow s c g y i j q).filterMap (fun e =>
    match (tstDst s c k e.1 n).2 with | .ok (.mem pa) _ => some (pa / 128) | _ => none))).eraseDups

/-- `tst`: a matrix write-back, whose lines it lets go as it has written them (R67, R77, R305). -/
def execTst (f : FmtX) (s : State) : Result :=
  .next (issue (.tst f) [] (fun x s k ls =>
    let c := x.core
    let ex := launchedOf s c k (guardLanes s x k ls)
    if ex = [] then s
    else if inFlight s c k lanes32 (fun _ => true) then parkAll s c k ls .drain
    else tileWarp f.tile.toNat (fun x s k ls _ g => withEngine (fun s => withSwatch f.swc.toNat (fun s y =>
      let i := coordOf x s k ex f.ca
      let j := coordOf x s k ex f.cb
      let n := fmtBytes y.fmt
      if !(y.fmt = 0x0E || y.fmt = 0x06 || y.fmt = 0x0C || y.fmt = 0x0D) then matTrap x s k ex Cause.engine 2
      else
        let from_ := match s.warp? c k with | some w => w.row | none => 0
        let lines := tstLines s c k g n i j y from_
        if tooMany lines then matTrap x s k ex Cause.engine 2
        else match matOwn s c k true lines with
        | none => parkAll s c k ls .record
        | some (s1, id) =>
          let s2 := openMat s1 x k id f.fs
          match tstRows c k g n id i j y (64 - from_) s2 from_ with
          | (s3, some (row, stop)) =>
            let left := tstLines s3 c k g n i j y row
            let s4 := (dropOwnership s3 (.tile id) (lines.filter (fun l => !left.contains l))).modWarp c k (fun w => { w with row := row })
            match stop with
            | .fault cause va => fetchStops x s4 k ls .writeBack (.fault cause va)
            | .lost va => fetchStops x s4 k ls .writeBack (.lost va)
            | .full => parkAll s4 c k ls .drain
          | (s3, none) => closeMat (freeOwnership s3 (.tile id)) c k id) x s k ls ex) x s k ls) x s k ls) s)

/-- A row operand, which a value of 64 or more makes an engine-command trap (R305). -/
def withRow (f : FmtX) (g : State → Nat → State) (x : Clause) (s : State) (k : Nat) (ex : List Nat) : State :=
  let r := coordOf x s k ex f.ca
  if 64 ≤ r then matTrap x s k ex Cause.engine 2 else g s r

/-- `trd`. -/
def execTrd (f : FmtX) (s : State) : Result :=
  .next (issue (.trd f) [(f.cc, .w64)] (fun x s k ls =>
    tileWarp f.tile.toNat (fun x s k ls ex g => withRow f (fun s r =>
      let c := x.core
      let s1 := putResults s c k (some (f.cc, .w64)) (ex.map (fun l =>
        (l, tileWord s c g r (2 * l) + 2 ^ 32 * tileWord s c g r (2 * l + 1))))
      setLatches s1 c k x.slot ls (some (f.cc, .w64))) x s k ex) x s k ls) s)

/-- `twr`. -/
def execTwr (f : FmtX) (s : State) : Result :=
  .next (issue (.twr f) [(f.cc, .w64)] (tileWarp f.tile.toNat (fun x s k _ ex g => withRow f (fun s r =>
    ex.foldl (fun s l =>
      let v := readOp s (x.env k) l .b64 .w64 f.cc
      setTileWord (setTileWord s x.core g r (2 * l) v) x.core g r (2 * l + 1) (v / 2 ^ 32)) s) x s k ex)) s)

/-- `tscl`. -/
def execTscl (f : FmtX) (s : State) : Result :=
  .next (issue (.tscl f) [(f.cc, .w64)] (tileWarp f.tile.toNat (fun x s k _ ex g =>
    let c := x.core
    setTile s c g (fun r q =>
      if ex.contains (r / 2) then
        Flt.f32.mul .rne (tileWord s c g r q) (readOp s (x.env k) (r / 2) .b64 .w64 f.cc / 2 ^ (32 * (r % 2)) % 2 ^ 32)
      else tileWord s c g r q))) s)

/-- `trel`: an unbound tile stays so (R299, R305). -/
def execTrel (f : FmtX) (s : State) : Result :=
  .next (issue (.trel f) [] (fun x s k ls =>
    let c := x.core
    let ex := guardLanes s x k ls
    if ex = [] then s
    else if accG (s.core c).part = 0 then raiseTrap s c k Cause.contract x.pc { lanes := maskOf ex }
    else match tileAt s c k f.tile.toNat with
      | some g => (s.modCore c (fun y => { y with granules := y.granules.del g })).modWarp c k (fun w =>
          { w with tiles := w.tiles.del f.tile.toNat })
      | none => s) s)

/-! ## Quantising and patterns (R304, R307) -/

/-- The largest magnitude of a block type (R293). -/
def q4Max (type : Nat) : Nat := match type with | 0 => 7 | 1 => 6 | 2 => 1 | _ => 12

/-- A finite value's magnitude is at most m × 2^(e−32). -/
def magLe (v : FVal) (m e : Nat) : Bool :=
  match v with
  | .fin _ n x =>
    let d : Int := x - (e : Int) + 32
    if 0 ≤ d then n * 2 ^ d.toNat ≤ m else n ≤ m * 2 ^ (-d).toNat
  | _ => true

/-- `qsm` (R307). -/
def execQsm (f : FmtX) (s : State) : Result :=
  let src : Operand := .main (f.xmod.extractLsb' 3 10)
  .next (issue (.qsm f) [(src, .w32), (f.cc, .w32)] (fun x s k ls =>
    let c := x.core
    let ex := guardLanes s x k ls
    let type := bitsOf f.xmod.toNat 1 2
    let cb := coordOf x s k ex f.cb
    let fin (s : State) (rcp : Nat → Nat) : State :=
      let y (l : Nat) : FVal :=
        let v := readOp s (x.env k) l .f32 .w32 src
        Flt.f32.dec (if f.xmod.getLsbD 0 then Flt.f32.mul .rne v (rcp l) else v)
      let finite := (ex.map y).filter (fun v => !(v.isNan || v.isInf true || v.isInf false))
      let e := ((List.range 64).find? (fun e => finite.all (fun v => magLe v (q4Max type) e))).getD 63
      let code (l : Nat) : Nat := if ex.contains l then q4Code type ((y l).scale (32 - (e : Int))) else 0
      let val (l : Nat) : Nat :=
        if l < 4 then ((List.range 8).map (fun i => code (8 * l + i) * 16 ^ i)).foldl (· + ·) 0
        else if l = 4 then type * 64 + e
        else 0
      setLatches (putResults (dropFetched s c k) c k (some (f.cc, .w32)) (ex.map (fun l => (l, val l)))) c k x.slot ls (some (f.cc, .w32))
    if ex = [] then fin s (fun _ => 0)
    else if !f.xmod.getLsbD 0 then fin s (fun _ => 0)
    else withSwatch f.swa.toNat (fun s sw =>
      if sw.smooth = 0xFFFFFFFF then fin s (fun _ => 0x3F800000)
      else match ex.find? (fun l => (smoothAt s c sw.smooth (cb + l)).isNone) with
        | some l => fetchStops x s k ls .tileFetch (.fault XCause.window (scratchVa c (sw.smooth + 8 * (cb + l))))
        | none => fin s (fun l => (smoothAt s c sw.smooth (cb + l)).getD 0 / 2 ^ 32)) x s k ls ex) s)

/-- `swinv` (R297): what is under way from peer packages serves no fetch after it. -/
def execSwinv (f : FmtX) (s : State) : Result :=
  .next (issue (.swinv f) [] (fun x s k ls =>
    if guardLanes s x k ls = [] then s
    else s.modCore x.core (fun y => { y with
      swatch := if f.xmod.getLsbD 0 then [] else y.swatch.del f.swa.toNat
      engine := { y.engine with lines := [], asked := y.engine.asked.mapV (fun _ key => staleKey key) } })) s)

/-- `spgen` (R304). -/
def execSpgen (f : FmtX) (s : State) : Result :=
  .next (issue (.spgen f) [(f.cc, .w32)] (fun x s k ls =>
    let c := x.core
    let ex := guardLanes s x k ls
    let kap := coordOf x s k ex f.ca
    let j := coordOf x s k ex f.cb
    let h := bitsOf f.xmod.toNat 0 4
    let hi := bitsOf f.xmod.toNat 4 1
    if ex = [] then setLatches s c k x.slot ls (some (f.cc, .w32))
    else withSwatch f.swb.toNat (fun s y =>
      if !y.sparse then matTrap x s k ex Cause.engine 2
      else
        let val (l : Nat) : Nat :=
          ((List.range 8).map (fun i => sparseM y.seed kap j (l + 32 * hi) (8 * h + i) * 16 ^ i)).foldl (· + ·) 0
        setLatches (putResults (dropFetched s c k) c k (some (f.cc, .w32)) (ex.map (fun l => (l, val l)))) c k x.slot ls (some (f.cc, .w32)))
      x s k ls ex) s)

end Sys2Proof.Machine
end

