-- ==== Sys2Proof/Machine/Context.lean ====
section
/-! DEFINITION. Contexts: where a warp can lie on a core (R44, R45, R128, R140), the state a warp starts in (R125, R150), saving a
context (R330, R331) and restoring it (R332). -/

namespace Sys2Proof.Machine

/-! ## Room on a core (R44, R45, R128, R140) -/

/-- A reply or an engine completion is owed to a slot (R333). -/
def slotOwed (s : State) (c k : Nat) : Bool :=
  s.ops.anyV (fun _ o => o.ofSlot c k && o.owes) || (s.core c).engine.pending.any (fun m => m.slot = k && m.flag.isSome) ||
    (s.core c).chans.anyV (fun _ z => !z.free && (match z.cmd with | some y => y.slot = k && y.flag.isSome | none => false))

/-- A slot with no warp, no stream, and nothing owed (R333, R358). -/
def slotFree (s : State) (c k : Nat) : Bool :=
  k < Config.warpSlots && ((s.core c).warps.at? k).isNone && ((s.core c).streams.at? k).isNone && !slotOwed s c k

/-- The lowest free warp slot. -/
def freeSlot (s : State) (c : Nat) : Option Nat := (List.range Config.warpSlots).find? (slotFree s c)

/-- A core's engines have no work (R43, R155). -/
def engineIdle (y : Core) : Bool :=
  y.engine.pending.isEmpty && !y.chans.anyV (fun _ z => !z.free || !z.queue.isEmpty)

/-- A core may take a warp of a workgroup: it holds nothing and has no engine work left, or runs the launch already, with its scratchpad
that workgroup's alone (R43, R44). -/
def mayHold (s : State) (c id wg : Nat) (x : Launch) : Bool :=
  let y := s.core c
  (y.launch = none && y.warps.isEmpty && y.streams.isEmpty && engineIdle y) ||
    (y.launch = some id &&
      (spG x.part = 0 || (!y.warps.anyV (fun _ w => w.wg != wg) && !y.streams.anyV (fun _ t => t.wg != wg))))

/-- The lowest base at which an allocation of n registers fits, `own` being the slot whose own allocation counts as free (R45,
R140). -/
def fitBase (s : State) (c : Nat) (own : Option Nat) (n : Nat) : Option Nat :=
  let x := s.core c
  let taken := (x.warps.filterV (fun k _ => own != some k)).map (fun (e : Nat × Warp) => (e.2.base, e.2.base + 128 * e.2.regs))
  ((List.range (16 * regG x.part)).map (fun i => 0x400 * i)).find? (fun b =>
    b + 128 * n ≤ regG x.part * 0x4000 && taken.all (fun t => b + 128 * n ≤ t.1 || t.2 ≤ b))

/-- The issue partition with the fewest resident warps (R128). -/
def bindPart (s : State) (c : Nat) : Nat :=
  let count (p : Nat) : Nat := ((s.core c).warps.filterV (fun _ w => w.part = p)).length
  ((List.range 4).find? (fun p => (List.range 4).all (fun q => count p ≤ count q))).getD 0

/-- The state of lane l of warp p at the start of a workgroup of T threads (R125, R150). -/
def startLane (threads p l : Nat) (entry : DWord) : Lane :=
  let t := 32 * p + l
  let kind : LaneKind := if t < threads then .launched else if t < ceilDiv threads 4 * 4 then .helper else .never
  { kind := kind, pc := entry, preds := 0x80, sp := 0, wait := .run }

/-- A warp as it starts (R150). -/
def startWarp (x : Launch) (id wg p part age base : Nat) : Warp :=
  let half (v i : Nat) : Word := BitVec.ofNat 32 (v / 2 ^ (32 * i))
  let w0 : NMap Word := [(0, half (x.fld 0x10 8) 0), (1, half (x.fld 0x10 8) 1), (2, half x.slotAddr.toNat 0),
                         (3, half x.slotAddr.toNat 1)]
  { launch := id, wg := wg, warpid := p, part := part, age := age, regs := x.regs, base := base,
    lanes := lanes32.map (fun l => (l, startLane x.threads p l (BitVec.ofNat 64 (x.fld 0 8)))),
    flags := [], bars := [], wreg := w0.filter (fun (e : Nat × Word) => e.2 != 0), opf := [], lat := [], hrs := [], depth := 0,
    stamp := 0, secSpan := false, lostmask := 0, dmask := 0, stopped := none, trapped := false, cause := 0, trapPc := 0,
    stepping := none, tiles := [], spin := Spin.reset, demoted := false, lastIssue := 0, owed := [], owns := false,
    row := 0, keeps := none, entered := false, patch := [] }

/-- An access stream before its start (R150, R265). -/
def startStreamState (x : Launch) (id wg : Nat) : Stream :=
  let half (i : Nat) : Word := BitVec.ofNat 32 (x.fld 0x10 8 / 2 ^ (32 * i))
  let a : NMap Word := [(0, half 0), (1, half 1)]
  { launch := id, wg := wg, pc := BitVec.ofNat 64 (x.fld 8 8), started := false, stopped := false, ended := false, wait := .run,
    flags := [], loops := [], regs := a.filter (fun (e : Nat × Word) => e.2 != 0), gath := none, agath := [], row := 0, cause := 0,
    stepping := false, entered := false, owed := [], buf := [], patch := [] }

/-- Makes a warp resident in a slot of a core (R128); its wait for issue starts (R158, R161). A core that has held no warp of a workgroup
over several cores has acquired nothing at its board yet (R75). -/
def seatWarp (s : State) (c k : Nat) (w : Warp) : State :=
  s.modCore c (fun x => { x with
    warps := x.warps.put k { w with lastIssue := s.tick }, ages := x.ages + 1
    sides := match boardWg s (some w.wg) with | some g => x.sides.put g (x.side g) | none => x.sides })

/-- A core starts a launch: level 1 is written back, published and emptied, the partition word is loaded, the stamps are current,
and no swatch entry is cached (R43, R75, R297). -/
def loadPart (s : State) (c id : Nat) (part : Word) : State :=
  let s1 := dropLines s c (fun _ => true)
  let s2 := if (s1.core c).dirtyPkg = [] then s1 else publishCore s1 c
  (s2.modCore c (fun x => { x with
    part := part, launch := some id, pkgStamp := s2.board.stamp, dirtyPkg := [], carryPkg := 0, sides := [], swatch := []
    engine := { x.engine with asked := [], lines := [] } })).modLaunch id
    (fun x => { x with ran := if x.ran.contains c then x.ran else x.ran ++ [c] })

/-! ## Saving (R330, R331) -/

/-- What becomes of a wait when its warp is saved (R330): an arrival, a snapshot, a parked fault and the cycles of a `pause` are
kept, and the instructions of the other waits are issued again, that of a `waita` once its warp is restored (R168). -/
def Wait.whenSaved (w : Wait) : Wait :=
  match w with
  | .collective l => .collective l
  | .rejoin b => .rejoin b
  | .bar n => .bar n
  | .barWait n => .barWait n
  | .gridbar => .gridbar
  | .rsb d p => .rsb d p
  | .grace n => .grace n
  | .fault n k => .fault n k
  | .killed d a => .killed d a
  | .waita a => .waita a
  | .pause n => .pause n
  | .held => .held
  | .transfer => .transfer
  | _ => .run

/-- Writes bytes at a virtual address, page by page; none where one does not translate (R331). -/
def vaSplice (ctx : Nat) : Nat → State → Nat → List Byte → Option State
  | 0, s, _, _ => some s
  | n + 1, s, va, bs =>
    if bs = [] then some s
    else
      let k := 65536 - va % 65536
      match vaPa s ctx va true with
      | none => none
      | some pa => vaSplice ctx n { s with mem := Mem.splice s.mem pa (bs.take k) } (va + k) (bs.drop k)

/-- Writes bytes of a save record. -/
def recWrite (s : State) (ctx va : Nat) (bs : List Byte) : Option State := vaSplice ctx (bs.length / 65536 + 2) s va bs

/-- Reads a 32-bit word of a save record. -/
def recWord (s : State) (ctx va : Nat) : Nat :=
  match vaPa s ctx va false with
  | some pa => Mem.rd s.mem pa 4
  | none => 0

/-- Reads n bytes of a save record, word by word. -/
def recBytes (s : State) (ctx va n : Nat) : List Byte := (List.range (n / 4)).flatMap (fun i => leBytes 4 (recWord s ctx (va + 4 * i)))

/-- What a restored lane waits for (R330). -/
def Wait.whenRestored (w : Wait) : Wait := match w with | .waita _ => .run | w => w

/-- The bytes of a warp-state block and of a stream-state block (R324, R325). -/
def warpBlock (w : Warp) (seed : Nat) : List Byte := (List.range 0x800).flatMap (fun i => leBytes 4 (warpWord w seed (4 * i)))
def streamBlock (x : Stream) (seed : Nat) : List Byte := (List.range 0x400).flatMap (fun i => leBytes 4 (streamWord x seed (4 * i)))

/-- Bytes of a save record that saved warps' registers and tiles take. -/
def takenIn (v : SavedWg) (addr : DWord) : List (Nat × Nat) :=
  v.all.flatMap (fun e => if e.2.addr = addr then (e.2.regs, e.2.regs + 128 * e.1.regs) :: e.2.tiles.map (fun t => (t, t + 0x4000)) else [])

/-- Where n bytes go among those taken: at the place wished for if it is free, else at the lowest multiple of 1024 from `from_` on that is
free within `room` bytes, else behind all (log 53). -/
def placeIn (taken : List (Nat × Nat)) (want n from_ room : Nat) : Nat :=
  let free (a : Nat) : Bool := taken.all (fun t => a + n ≤ t.1 || t.2 ≤ a)
  if free want then want
  else match ((List.range (room / 1024)).map (fun i => from_ + 1024 * i)).find? (fun a => free a && a + n ≤ from_ + room) with
    | some a => a
    | none => taken.foldl (fun m t => Nat.max m t.2) (from_ + room)

/-- Where a warp of core c goes in a record: its registers and tiles lie apart from those of the warps saved there before (R331). -/
def placeWarp (c : Nat) (w : Warp) (x : Launch) (g : Wg) (v : SavedWg) (addr : DWord) : SavedPlace :=
  let i := coreRank g.cores c
  let size := (regG x.part + accG x.part) * 0x4000
  let put (taken : List (Nat × Nat)) (off n : Nat) : Nat :=
    placeIn taken (savedImage x i + off) n (savedScratch x x.cpw) (x.cpw * size)
  let taken := takenIn v addr
  let regs := put taken w.base (128 * w.regs)
  let tiles := w.tiles.foldl (fun (ts : List Nat) t =>
    ts ++ [put ((regs, regs + 128 * w.regs) :: ts.map (fun a => (a, a + 0x4000)) ++ taken) (regG x.part * 0x4000 + 0x4000 * t.2) 0x4000]) []
  { wcore := i, addr := addr, regs := regs, tiles := tiles }

/-- No warp saved yet. -/
def SavedWg.empty (tick : Nat) : SavedWg := { warps := [], places := [], scratch := [], stream := none, traps := [], tick := tick }

/-- The parts of a save record that a warp's save writes: its block, its registers and tiles, with the last warp of the workgroup on
the core that core's scratchpad, and with warp 0 the stream's block, zero without a stream (R331). -/
def saveParts (s : State) (c : Nat) (w : Warp) (x : Launch) (r : SavedPlace) (last : Bool) (st : Option Stream) :
    List (Nat × List Byte) :=
  let y := s.core c
  [(w.warpid * 0x2000, warpBlock (shown s w) s.tick), (r.regs, Mem.bytes y.store w.base (128 * w.regs))] ++
    (w.tiles.zip r.tiles).map (fun t => (t.2, Mem.bytes y.store (granuleOff s c t.1.2) 0x4000)) ++
    (if last then [(savedScratch x r.wcore, Mem.bytes y.store (spBase y.part) (spSize y.part))] else []) ++
    (if w.warpid = 0 then
      [(x.warps * 0x2000, match st with | some t => streamBlock t s.tick | none => List.replicate 0x1000 0)]
    else [])

/-- Removes the unconsumed records of a slot from a trap queue; the records behind them move up (R331, log 64). -/
def withdraw (s : State) (c slot : Nat) : State × List TrapRec :=
  let x := s.core c
  let live := (List.range (x.tqHead - x.tqTail)).filterMap (fun i => x.trapq.at? ((x.tqTail + i) % 64))
  let mine := (live ++ x.tqHeld).filter (fun r => r.slot = slot)
  let keep := live.filter (fun r => r.slot != slot)
  let put (q : NMap TrapRec) (i : Nat) : NMap TrapRec := match keep[i]? with | some r => q.put ((x.tqTail + i) % 64) r | none => q
  (drainTraps (s.modCore c (fun x => { x with
    trapq := (List.range keep.length).foldl put x.trapq, tqHead := x.tqTail + keep.length
    tqHeld := x.tqHeld.filter (fun r => r.slot != slot) })) c, mine)

/-- The stream that a warp's save takes with it. -/
def streamWith (s : State) (c k : Nat) (w : Warp) : Option Stream :=
  if w.warpid = 0 then match (s.core c).streams.at? k with
    | some t => if t.wg = w.wg then some { t with wait := if t.parked then t.wait else .run, buf := [] } else none
    | none => none
  else none

/-- The warp as its record keeps it: every lane has left its clause, and its waits are as R330 has them. A restored owner that stands in the
owner queue still owns the engine; a warp that waits at `macq` issues it again (R163). -/
def savedForm (s : State) (c k : Nat) (w : Warp) : Warp :=
  let e := (s.core c).engine
  { stamped s w with
    lanes := w.lanes.mapV (fun _ l => { l with wait := l.wait.whenSaved })
    spin := Spin.reset, demoted := false
    owns := e.owner = some k || (e.ownerQ.contains k && !w.lanes.anyV (fun _ l => l.wait == .macq)) }

/-- Lanes whose `waita` or row is issued again: their pending requests are dropped. The flag of a `waita` stays raised until its lanes are
done (R14). -/
def dropReissued (s : State) (c k : Nat) (w : Warp) : State :=
  let ls := w.present.filter (fun l => match (w.lanes.atD l Lane.never).wait with | .waita _ => true | _ => false)
  sweepOps { s with ops := s.ops.mapV (fun _ o =>
    if o.owner == .warp c k then { o with lanes := o.lanes.map (fun a =>
      if isWaitAcc a && ls.contains a.lane then { a with place := waitPlace } else a) }
    else if w.warpid = 0 && o.owner == .stream c k then
      (match o.body with
      | .load (.queue _ _) _ _ => { o with lanes := [] }
      | _ => o)
    else o) }

/-- The matrix operations of a warp that is saved pin no line any more (R61). -/
def unpinWarp (s : State) (c k : Nat) : State :=
  let mine := (s.core c).engine.pending.filter (fun m => m.slot = k)
  (mine.foldl (fun s m => unpin s m.pins) s).modEngine c (fun e => { e with
    pending := e.pending.map (fun m => if m.slot = k then { m with pins := [] } else m) })

/-- SAVES A WARP to a record, with its workgroup's other state where R331 says; a translation fault kills the launch. -/
def saveWarp (s : State) (c k : Nat) (addr : DWord) : State :=
  match s.warp? c k with
  | none => s
  | some w0 =>
    match s.launches.at? w0.launch with
    | none => s
    | some x =>
      let s1 := publishCore (writeBackAll (dropFetched (dropReissued (s.dropWarp c k) c k w0) c k) c) c
      let s2 := match boardWg s1 (some w0.wg) with | some g => publishCoreWg s1 c g | none => s1
      match s2.warp? c k, s2.wgs.at? w0.wg with
      | some w1, some g =>
        let w := savedForm s2 c k w1
        let st := streamWith s2 c k w
        let last := ((wgWarps s2 w.wg).filter (fun e => e.1 = c)).length = 1
        let v := g.saved.getD (SavedWg.empty s.tick)
        let r := placeWarp c w x g v addr
        match (saveParts s2 c w x r last st).foldl (fun (r : Option State) p =>
            r.bind (fun s => recWrite s x.ctx (addr.toNat + p.1) p.2)) (some s2) with
        | none => killLaunch s2 w.launch
        | some s3 =>
          let t1 := withdraw s3 c k
          let t2 := if st.isSome then withdraw t1.1 c (48 + k) else (t1.1, [])
          let s4 := t2.1.modWg w.wg (fun g =>
            { g with saved := some { v with
                warps := v.warps ++ [w], places := v.places ++ [r]
                scratch := if last then v.scratch.put r.wcore addr else v.scratch
                stream := if st.isSome then st else v.stream
                traps := v.traps ++ t1.2.map (fun r => (w.warpid, r)) ++ t2.2.map (fun r => (0xFFFF, r)) } })
          let s5 := (unpinWarp s4 c k).modCore c (fun y => { y with
            warps := y.warps.del k
            streams := if st.isSome then y.streams.del k else y.streams
            granules := y.granules.filterV (fun _ e => e.1 != k)
            engine := { y.engine with
              holder := if y.engine.holder = some k then none else y.engine.holder
              leaseQ := y.engine.leaseQ.filter (· != k)
              owner := if y.engine.owner = some k then none else y.engine.owner
              ownerQ := y.engine.ownerQ.filter (· != k) } })
          let s6 := { s5 with
            clauses := s5.clauses.filter (fun z => !(z.core = c && st.isSome && z.picker == .stream k))
            ops := s5.ops.mapV (fun _ o =>
              if o.owner == .warp c k then { o with owner := .saved w.wg w.warpid c k }
              else if st.isSome && o.owner == .stream c k then { o with owner := .savedStream w.wg c k }
              else o) }
          freeCore s6 c
      | _, _ => s

/-- Saves every resident warp of a workgroup, in `%warpid` order. -/
def saveWg (s : State) (wg : Nat) (addr : DWord) : State :=
  let ws := wgWarps s wg
  (List.range 192).foldl (fun s p => match ws.find? (fun e => e.2.2.warpid = p) with
    | some (c, k, _) => saveWarp s c k addr
    | none => s) s

/-- Bytes of a workgroup's save record in a launch's save area (R331). -/
def recSize (x : Launch) : Nat :=
  65536 * ceilDiv (x.cpw * (regG x.part + spG x.part + accG x.part) * 0x4000 + x.warps * 0x2000 + 0x1000) 65536

/-- The record of a workgroup in its launch's save area (R331). -/
def recAddr (x : Launch) (g : Nat) : DWord := BitVec.ofNat 64 (x.saveArea + g * recSize x)

/-- Keeps the block of a saved warp or stream in step with what replies have changed in it (R333). -/
def syncRecord (old new : State) : State :=
  new.wgs.foldl (fun (s : State) (e : Nat × Wg) =>
    match e.2.saved, (match old.wgs.at? e.1 with | some g => g.saved | none => none), new.launches.at? e.2.launch with
    | some v, some u, some x =>
      let s1 := v.all.foldl (fun (s : State) (r : Warp × SavedPlace) =>
        match u.warps.find? (fun y => y.warpid = r.1.warpid) with
        | some y =>
          let a := shown old y
          let b := shown new r.1
          if a = b then s else
            (List.range 0x580).foldl (fun s i =>
              if warpWord a 0 (4 * i) = warpWord b 0 (4 * i) then s
              else vaWrite s x.ctx (r.2.addr.toNat + 0x2000 * b.warpid + 4 * i) 4 (warpWord b 0 (4 * i))) s
        | none => s) s
      (match v.stream, u.stream with
      | some t, some r => if t = r then s1 else
          let a := match v.find 0 with | some e => e.2.addr.toNat | none => 0
          (List.range 0x81).foldl (fun s i =>
            if streamWord r 0 (4 * i) = streamWord t 0 (4 * i) then s
            else vaWrite s x.ctx (a + 0x2000 * x.warps + 4 * i) 4 (streamWord t 0 (4 * i))) s1
      | _, _ => s1)
    | _, _, _ => s) new

/-! ## Restoring (R332) -/

/-- The warp with the words of its block that were changed in memory (R324, R332). -/
def readBlock (s : State) (ctx va : Nat) (w : Warp) : Warp :=
  (List.range 0x580).foldl (fun w i =>
    let m := recWord s ctx (va + 4 * i)
    if m = warpWord (shown s w) 0 (4 * i) then w else putShown s w (4 * i) m) w

def readStreamBlock (s : State) (ctx va : Nat) (x : Stream) : Stream :=
  (List.range 0x81).foldl (fun x i =>
    let m := recWord s ctx (va + 4 * i)
    if m = streamWord x 0 (4 * i) then x else putStream x (4 * i) m) x

/-- Free accumulator granules of a core, ascending. -/
def freeGranules (s : State) (c : Nat) : List Nat :=
  (List.range (accG (s.core c).part)).filter (fun g => ((s.core c).granules.at? g).isNone)

/-- The i-th core of a workgroup is now c; a core that stood in its place and holds no warp of it takes c's former place (R332). -/
def seatCore (cores : List Nat) (i c : Nat) : List Nat :=
  let j := coreRank cores c
  if j = i then cores else (if j < cores.length then cores.set j (cores.getD i c) else cores).set i c

/-- RESTORES A WARP of a saved workgroup into a slot of a core whose partition word is loaded; none where it does not fit. -/
def restoreWarp (s : State) (c k wg p : Nat) : Option State :=
  match s.wgs.at? wg with
  | none => none
  | some g =>
    match g.saved, s.launches.at? g.launch with
    | some v, some x =>
      match v.find p with
      | none => none
      | some (w, r) =>
        let grs := freeGranules s c
        match fitBase s c none w.regs with
        | none => none
        | some b =>
          if grs.length < w.tiles.length then none
          else
            let first := (wgWarps s wg).all (fun e => e.1 != c)
            let a := r.addr.toNat
            let s1 := match if first then v.scratch.at? r.wcore else none with
              | some b => s.modCore c (fun y => { y with
                  store := Mem.splice y.store (spBase x.part) (recBytes s x.ctx (b.toNat + savedScratch x r.wcore) (spSize x.part)) })
              | none => s
            let s2 := s1.modCore c (fun y => { y with
              store := Mem.splice y.store b (recBytes s x.ctx (a + r.regs) (128 * w.regs)) })
            let tiles := (w.tiles.zip r.tiles).zip grs
            let s3 := tiles.foldl (fun (s : State) t => s.modCore c (fun y => { y with
              store := Mem.splice y.store (granuleOff s c t.2) (recBytes s x.ctx (a + t.1.2) 0x4000)
              granules := y.granules.put t.2 (k, t.1.1.1) })) s2
            let w1 := readBlock s x.ctx (a + 0x2000 * p) w
            let w0 := if w1.trapped then w1 else w1.applyPatch
            let w2 : Warp := { w0 with lanes := w0.lanes.mapV (fun _ l => { l with wait := l.wait.whenRestored }),
                                       part := bindPart s c, age := (s.core c).ages, base := b, owns := false,
                                       tiles := tiles.map (fun t => (t.1.1.1, t.2)) }
            let s4 := seatWarp s3 c k w2
            let s5 := if w.owns then s4.modEngine c (fun e => { e with ownerQ := e.ownerQ ++ [k] }) else s4
            let st := if p = 0 then v.stream.map (fun t =>
                let u := readStreamBlock s x.ctx (a + 0x2000 * x.warps) t
                if u.stopped then u else u.applyPatch) else none
            let s6 := match st with | some t => s5.modCore c (fun y => { y with streams := y.streams.put k t }) | none => s5
            let s7 := { s6 with ops := s6.ops.mapV (fun _ o => match o.owner with
              | .saved g2 p2 _ _ => if g2 = wg && p2 = p then { o with owner := .warp c k } else o
              | .savedStream g2 _ _ => if st.isSome && g2 = wg then { o with owner := .stream c k } else o
              | _ => o) }
            let keep (r : Nat × TrapRec) : Bool := r.1 != p && !(st.isSome && r.1 = 0xFFFF)
            let rest := v.all.filter (fun e => e.1.warpid != p)
            let v2 : SavedWg := { v with
              warps := rest.map Prod.fst, places := rest.map Prod.snd, stream := if st.isSome then none else v.stream
              traps := v.traps.filter keep }
            let s8 := s7.modWg wg (fun g => { g with cores := seatCore g.cores r.wcore c, saved := if rest = [] then none else some v2 })
            let s9 := (v.traps.filter (fun r => !keep r)).foldl (fun s r =>
              pushTrap s c { r.2 with slot := if r.1 = 0xFFFF then 48 + k else k }) s8
            some (deliverOwed (acquire (openSides s9 wg) c (some wg) .pkg) c k)
    | _, _ => none

end Sys2Proof.Machine
end

