-- ==== Sys2Proof/Machine/System.lean ====
section
/-! DEFINITION. Group 0xE: the traps a program asks for, the control core's forms (R327 to R329), register enlargement (R138 to R141) and
`launch` (R153, R154). -/

namespace Sys2Proof.Machine

/-! ## Traps and the edition (R327) -/

/-- `trap` (R327). -/
def execTrap (f : FmtS) (s : State) : Result :=
  .next (issue (.trap f) [] (fun x s k ls =>
    let ex := guardLanes s x k ls
    if ex = [] then s
    else raiseTrap s x.core k Cause.software x.pc { lanes := maskOf ex, detail := f.imm.toNat % 256, imm := f.imm }) s)

/-- `brk` (R327). -/
def execBrk (s : State) : Result :=
  .next (issue .brk [] (fun x s k ls =>
    let ex := guardLanes s x k ls
    if ex = [] then s else raiseTrap s x.core k Cause.breakpoint x.pc { lanes := maskOf ex }) s)

/-- A form of format A that writes one value, the same in every lane. -/
def constArith (f : FmtA) (v : Nat) : Arith := Arith.of [] (some (f.d, .w32)) none (fun _ _ => (v, false))

/-- `rdarch` (R327): the edition H3. -/
def execRdarch (f : FmtA) (s : State) : Result := .next (arith (.rdarch f) (constArith f 3) f.pw s)

/-! ## The control core's forms (R327) -/

/-- `tnext` (R327). -/
def execTnext (f : FmtA) (s : State) : Result :=
  .next (issue (.tnext f) [(f.d, .w32)] (fun x s k ls =>
    let y := s.core x.core
    if guardLanes s x k ls = [] then s
    else if y.tqHead = y.tqTail then parkAll s x.core k ls .trapQueue
    else (constArith f (y.tqTail % 64)).warp (.tnext f) 7 x s k ls) s)

/-- A form of the control core on a slot, which A names: it writes whether it acted. -/
def slotForm (f : FmtS) (act : State → Nat → Nat → Nat → Option State) : WarpStep := fun x s k ls =>
  (guardLanes s x k ls).foldl (fun s l =>
    let e := x.env k
    match act s x.core (readOp s e l .n32 .w32 f.a) (readOp s e l .n64 .w64 f.b) with
    | some t => writePreds t x.core k (some f.pw) [(l, true)]
    | none => writePreds s x.core k (some f.pw) [(l, false)]) s

/-- The warp of a slot is stopped; the stream of a stream slot is (R325, R327). -/
def warpStopped (s : State) (c v : Nat) : Bool :=
  v < 48 && (match s.warp? c v with | some w => w.trapped | none => false)
def streamStopped (s : State) (c v : Nat) : Bool :=
  48 ≤ v && v < 96 && (match (s.core c).streams.at? (v - 48) with | some t => t.stopped | none => false)

/-- A resumption of a stopped slot (R328); a warp whose last launched lane the control core has marked as exited ends (R127, R324). -/
def resumeSlot (m : ResumeKind) (s : State) (c v _b : Nat) : Option State :=
  if warpStopped s c v then some (exitLanes (resumeWarp s c v m) c v [])
  else if streamStopped s c v then some (resumeStream s c (v - 48) m)
  else none

/-- Stores of the control core to the debug window are still in flight (R327). -/
def debugOwed (s : State) (c k : Nat) (ls : List Nat) : Bool :=
  inFlight s c k ls (fun o => o.lanes.any (fun a => match a.place with | .debug _ _ => true | _ => false))

/-- A form that performs `dwsync` first (R327, R328). -/
def afterDwsync (f : WarpStep) : WarpStep := fun x s k ls =>
  if guardLanes s x k ls != [] && debugOwed s x.core k ls then parkAll s x.core k ls .drain else f x s k ls

/-- `tres` (R327, R328). -/
def execTres (f : FmtS) (s : State) : Result :=
  .next (issue (.tres f) [(f.a, .w32)] (afterDwsync (slotForm f (resumeSlot .res))) s)

/-- `tskip` (R327, R328); on a warp of a reproducible launch it patches the run (R345). -/
def execTskip (f : FmtS) (s : State) : Result :=
  .next (issue (.tskip f) [(f.a, .w32)] (afterDwsync (slotForm f (fun s c v b =>
    let s1 := if warpStopped s c v then (match s.warp? c v with | some w => patchLaunch s w.launch | none => s) else s
    resumeSlot .skip s1 c v b))) s)

/-- `tstep` (R327, R328). -/
def execTstep (f : FmtS) (s : State) : Result :=
  .next (issue (.tstep f) [(f.a, .w32)] (afterDwsync (slotForm f (resumeSlot .step))) s)

/-- Bytes 20 to 31 of an entry of kind 17 (R366). -/
def killDetail (s : State) (c v cause launch wg : Nat) : Nat :=
  let q := match s.launches.at? launch with | some y => y.queue | none => 0
  let g := match s.wgs.at? wg with | some y => y.g | none => 0
  c + 2 ^ 16 * v + 2 ^ 24 * cause + 2 ^ 32 * g + 2 ^ 64 * q

/-- Kills the launch of a stopped slot, with the case logged (R327). -/
def killSlot (s : State) (c v : Nat) : Option State :=
  if warpStopped s c v then
    (s.warp? c v).map (fun w => killLaunch (logEvent s 17 (dieOf c) (killDetail s c v w.cause w.launch w.wg)) w.launch)
  else if streamStopped s c v then
    ((s.core c).streams.at? (v - 48)).map (fun t =>
      killLaunch (logEvent s 17 (dieOf c) (killDetail s c v t.cause t.launch t.wg)) t.launch)
  else none

/-- `tkill` (R327). -/
def execTkill (f : FmtS) (s : State) : Result :=
  .next (issue (.tkill f) [(f.a, .w32)] (slotForm f (fun s c v _ => killSlot s c v)) s)

/-- Stops a slot at the present instruction boundary; the rest of a stream's clause does not issue (R325, R327). -/
def stopSlot (s : State) (c v : Nat) : State :=
  if v < 48 then
    match s.warp? c v with
    | some w => raiseTrap s c v Cause.debugStop (w.lanes.atD (w.present.headD 0) Lane.never).pc { lanes := maskOf w.present }
    | none => s
  else
    match (s.core c).streams.at? (v - 48) with
    | some t =>
      if t.started && !t.stopped then
        let s1 := raiseStreamTrap s c (v - 48) Cause.debugStop t.pc { lanes := 1 }
        { s1 with clauses := s1.clauses.filter (fun z => !(z.core = c && z.picker == .stream (v - 48))) }
      else s
    | none => s

/-- `tstop` (R327). -/
def execTstop (f : FmtS) (s : State) : Result :=
  .next (issue (.tstop f) [(f.a, .w32)] (fun x s k ls =>
    (guardLanes s x k ls).foldl (fun s l => stopSlot s x.core (readOp s (x.env k) l .n32 .w32 f.a)) s) s)

/-- `csave` (R327, R331): a stopped warp, to a record. -/
def execCsave (f : FmtS) (s : State) : Result :=
  .next (issue (.csave f) [(f.a, .w32), (f.b, .w64)] (slotForm f (fun s c v b =>
    if warpStopped s c v then some (saveWarp s c v (BitVec.ofNat 64 b)) else none)) s)

/-- The saved workgroup of a record, and the lowest warp it still holds (log 65). -/
def savedAt (s : State) (b : Nat) : Option (Nat × Nat × Nat) :=
  s.wgs.findSome? (fun (e : Nat × Wg) => match e.2.saved with
    | some v => (minOf ((v.all.filter (fun r => r.2.addr.toNat = b)).map (fun r => r.1.warpid))).map
        (fun p => (e.1, p, e.2.launch))
    | none => none)

/-- The core may stand at the place in its workgroup that a saved warp had: the warps of that place are on it, and no others (R332). -/
def placeFits (s : State) (wg p c : Nat) : Bool :=
  match s.wgs.at? wg with
  | none => false
  | some g => match g.saved.bind (fun v => v.find p) with
    | none => false
    | some (_, r) => (wgWarps s wg).all (fun e => decide (e.1 = c) == decide (coreRank g.cores e.1 = r.wcore))

/-- Restores a record's warp into an empty slot, stopped (R43, R44, R327, R332). -/
def loadSlot (s : State) (c v b : Nat) : Option State :=
  match savedAt s b with
  | none => none
  | some (wg, p, id) =>
    match s.launches.at? id with
    | none => none
    | some x =>
      let y := s.core c
      if !slotFree s c v || !mayHold s c id wg x || !placeFits s wg p c then none
      else
        let s1 := if y.launch = some id then s else loadPart s c id x.part
        (restoreWarp s1 c v wg p).map (fun s => s.modWarp c v (fun w => { w with
          trapped := true
          trapPc := if w.trapped then w.trapPc else (w.lanes.atD (w.present.headD 0) Lane.never).pc }))

/-- `cload` (R327, R332). -/
def execCload (f : FmtS) (s : State) : Result :=
  .next (issue (.cload f) [(f.a, .w32), (f.b, .w64)] (slotForm f loadSlot) s)

/-- Slots of a core as a mask, from a test (R329). -/
def slotMask (p : Nat → Bool) (lo n : Nat) : Nat :=
  (List.range n).foldl (fun m i => if p (lo + i) then m + 2 ^ i else m) 0

/-- A control register (R329). -/
def ctrlReg (s : State) (c sel : Nat) : Nat :=
  let y := s.core c
  let occ (k : Nat) : Bool := (y.warps.at? k).isSome || slotOwed s c k
  let stp (k : Nat) : Bool := match y.warps.at? k with | some w => w.trapped | none => false
  match sel with
  | 0x00 => c
  | 0x01 => slotMask occ 0 32
  | 0x02 => slotMask occ 32 16
  | 0x03 => slotMask stp 0 32
  | 0x04 => slotMask stp 32 16
  | n => if 0x10 ≤ n && n ≤ 0x15 then (y.watch.atD n 0).toNat else 0

/-- The selector of `crd`: an immediate. -/
def immOf (o : Operand) : Nat := match o with | .imm x => x.toNat | _ => 0

/-- `crd` (R327, R329). -/
def execCrd (f : FmtA) (s : State) : Result :=
  .next (issue (.crd f) [(f.d, .w32)] (fun x s k ls =>
    (constArith f (ctrlReg s x.core (immOf f.b))).warp (.crd f) 7 x s k ls) s)

/-- `cwr` (R327, R329): the zero bits of a watchpoint's control register stay zero. -/
def execCwr (f : FmtS) (s : State) : Result :=
  .next (issue (.cwr f) [(f.a, .w32)] (fun x s k ls =>
    (guardLanes s x k ls).foldl (fun s l =>
      let n := f.s7.toNat
      let v : Word := BitVec.ofNat 32 (readOp s (x.env k) l .n32 .w32 f.a)
      if 0x10 ≤ n && n ≤ 0x15 then
        s.modCore x.core (fun y => { y with watch := y.watch.putD n (if 0x14 ≤ n then v &&& 0xFF else v) 0 })
      else s) s) s)

/-- `tdone` (R327): the oldest record is consumed, and a held-back one may enter (R322). -/
def execTdone (s : State) : Result :=
  .next (issue .tdone [] (fun x s k ls =>
    if guardLanes s x k ls = [] || (s.core x.core).tqHead = (s.core x.core).tqTail then s
    else drainTraps (s.modCore x.core (fun y => { y with tqTail := y.tqTail + 1 })) x.core) s)

/-- `iflush` (R327). -/
def execIflush (s : State) : Result :=
  .next (issue .iflush [] (fun x s k ls =>
    if guardLanes s x k ls = [] then s else s.modCore x.core (fun y => { y with icache := [] })) s)

/-- `dwsync` (R327): the stores to the debug window are in place as they are performed, so it waits for those in flight. -/
def execDwsync (s : State) : Result :=
  .next (issue .dwsync [] (afterDwsync (fun _ s _ _ => s)) s)

/-- `hnotify` (R327). -/
def execHnotify (f : FmtS) (s : State) : Result :=
  .next (issue (.hnotify f) [(f.a, .w32)] (fun x s k ls =>
    (guardLanes s x k ls).foldl (fun s l =>
      { s with host := { s.host with
          notes := s.host.notes ++ [(x.core, BitVec.ofNat 32 (readOp s (x.env k) l .n32 .w32 f.a))] } }) s) s)

/-! ## Register enlargement (R138 to R141) -/

/-- Registers n that a form names (R138). -/
def regCount (f : FmtS) : Nat := 8 * (f.s7.toNat + 1)

/-- An operation with a register destination, or a self-window access, is outstanding (R139). -/
def regsBusy (s : State) (c k : Nat) : Bool :=
  inFlight s c k lanes32 (fun o =>
    (match o.body with
    | .load d _ _ => (match d with | .main _ | .opf _ => true | _ => false)
    | .atomic _ _ (some d) _ => (match d with | .main _ | .opf _ => true | _ => false)
    | _ => false) ||
    o.lanes.any (fun a => match a.place with
      | .store d off => d = c && off < regG (s.core c).part * 0x4000
      | _ => false))

/-- Moves an allocation to a larger one: the registers are copied, the new ones are zero (R139). -/
def growRegs (s : State) (c k n b : Nat) : State :=
  match s.warp? c k with
  | none => s
  | some w =>
    let old := Mem.bytes (s.core c).store w.base (128 * w.regs)
    (s.modCore c (fun y => { y with
      store := Mem.splice (Mem.clear y.store b (128 * n)) b old })).modWarp c k (fun w => { w with base := b, regs := n })

/-- `regrow` ends: its success is written in every lane that has not exited (R139). -/
def regrowEnds (s : State) (c k : Nat) (pw : BitVec 3) (ok : Bool) : State :=
  match s.warp? c k with
  | some w => putPreds s c k (some pw) (w.present.map (fun l => (l, ok)))
  | none => s

/-- `regrow` (R139, R140). -/
def execRegrow (f : FmtS) (s : State) : Result :=
  let n := regCount f
  .next (issue (.regrow f) [] (fun x s k ls =>
    let c := x.core
    match s.warp? c k with
    | none => s
    | some w =>
      if regsBusy s c k then parkAll s c k ls .drain
      else if regG (s.core c).part * 0x4000 < 128 * n then regrowEnds s c k f.pw false
      else if n ≤ w.regs then regrowEnds s c k f.pw true
      else match fitBase s c (some k) n with
        | some b => regrowEnds (growRegs s c k n b) c k f.pw true
        | none => parkAll s c k ls (.regrow n)) s)

/-- `regshrink` (R139). -/
def execRegshrink (f : FmtS) (s : State) : Result :=
  let n := regCount f
  .next (issue (.regshrink f) [] (fun x s k ls =>
    let c := x.core
    if regsBusy s c k then parkAll s c k ls .drain
    else s.modWarp c k (fun w => if n < w.regs then { w with regs := n } else w)) s)

/-- Warps of a core blocked in `regrow`, oldest first, with the count and the written predicate. -/
def blockedRegrows (s : State) (c : Nat) : List (Nat × Warp × Nat × Option (BitVec 3)) :=
  let of (e : Nat × Warp) : Option (Nat × Warp × Nat × Option (BitVec 3)) :=
    (e.2.present.find? (fun l => match (e.2.lanes.atD l Lane.never).wait with | .regrow _ => true | _ => false)).bind (fun l =>
      match (e.2.lanes.atD l Lane.never).wait with
      | .regrow n => some (e.1, e.2, n, match instrNow s c e.1 l with | some (.regrow f) => some f.pw | _ => none)
      | _ => none)
  let l := (s.core c).warps.filterMap of
  let older (a : Nat × Warp × Nat × Option (BitVec 3)) (m : List (Nat × Warp × Nat × Option (BitVec 3))) :=
    m.takeWhile (fun b => b.2.1.age ≤ a.2.1.age) ++ [a] ++ m.dropWhile (fun b => b.2.1.age ≤ a.2.1.age)
  l.foldl (fun m a => older a m) []

/-- A blocked `regrow` completes, or is issued again where its line can no longer be read. -/
def unblockRegrow (s : State) (c k : Nat) (pw : Option (BitVec 3)) (ok : Bool) : State :=
  let ls := waiting s c k (fun w => match w with | .regrow _ => true | _ => false)
  match pw with
  | some p => passOn (regrowEnds s c k p ok) c k ls
  | none => wakeAll s c k ls

/-- REGROW_GRANT (R140): blocked requests are examined oldest warp first, and each one that fits is granted. -/
def execRegrowGrant (core : Nat) (s : State) : Result :=
  .next ((blockedRegrows s core).foldl (fun s e =>
    if e.2.1.trapped then s
    else match fitBase s core (some e.1) e.2.2.1, e.2.2.2 with
      | some b, some p => unblockRegrow (growRegs s core e.1 e.2.2.1 b) core e.1 (some p) true
      | some _, none => unblockRegrow s core e.1 none true
      | none, _ => s) s)

/-- REGROW_FAIL_TIMEOUT (R141): every resident warp is blocked, and the request of the youngest fails; the 2048 cycles are timing
(log 8). -/
def execRegrowFailTimeout (core : Nat) (s : State) : Result :=
  .next (if !allWait s core (fun w => match w with | .regrow _ => true | _ => false) then s
    else match (blockedRegrows s core).getLast? with
      | some e => unblockRegrow s core e.1 e.2.2.2 false
      | none => s)

/-! ## `launch` (R153, R154) -/

/-- E of LQCFG as it is used and read back (R142). -/
def ringSize (e : Nat) : Nat := if e = 0 then 1 else if 12 < e then 12 else e

/-- Slots of a queue's ring (R142). -/
def LQueue.slots (q : LQueue) : Nat := 2 ^ ringSize q.size

/-- Records that the ring holds. -/
def LQueue.held (q : LQueue) : Nat := (q.tail + q.slots - q.head % q.slots) % q.slots

def State.lq (s : State) (q : Nat) : LQueue := s.lqs.atD q LQueue.reset
def State.modLq (s : State) (q : Nat) (f : LQueue → LQueue) : State := { s with lqs := s.lqs.put q (f (s.lq q)) }

/-- The queue takes a record from a running program (R154). -/
def LQueue.takesDev (q : LQueue) : Bool := q.enable && q.dev && q.held < q.slots - 1

/-- Submits the 256 bytes of a record, or writes false (R154). -/
def submit (s : State) (q : Nat) (bytes : List Byte) : State × Bool :=
  let y := s.lq q
  if !y.takesDev then (s, false)
  else
    ((s.wrDev (y.base.toNat + 256 * y.tail) bytes).modLq q (fun y => { y with tail := (y.tail + 1) % y.slots }), true)

/-- What one lane's record address leads to. -/
inductive RecRead where
  | bytes (bs : List Byte)
  | wait
  | park (cause : Nat)
  | fatal (cause detail : Nat)

/-- Reads the record at an address as the load it is (R154, R362). -/
def readRecord (s : State) (c k a : Nat) : State × RecRead :=
  match resolveNow s (whoOf s c k) { kind := .load, write := false, odd := true, width := 256 } a with
  | (s1, .fault f) => (s1, if replayable s1 .load f then .park f else .fatal Cause.translation f)
  | (s1, .miss) => (s1, .park XCause.notPresent)
  | (s1, .ok (.mem pa) _) | (s1, .ok (.side pa) _) =>
    if s1.rel.badLines.contains (pa / 65536) then (s1, .fatal Cause.dataLoss 0) else (s1, .bytes (Mem.bytes s1.mem pa 256))
  | (s1, .ok (.peer _ _) _) =>
    match fetchLines s1 c k [a / 128, a / 128 + 1] with
    | (s2, .ok m) => (s2, .bytes (leBytes 128 (m.atD (a / 128) 0).toNat ++ leBytes 128 (m.atD (a / 128 + 1) 0).toNat))
    | (s2, .error _) => (s2, .wait)
  | (s1, .ok _ _) => (s1, .fatal Cause.translation XCause.window)

/-- The lanes of a `launch` with a vector pair submit in ascending order; a fault stops the lanes not done (R154, R237). Answers the
lanes done, those that wait for a peer's lines, those that park, and those whose fault is fatal. -/
def launchLanes (q : Nat) (pw : BitVec 3) (c k : Nat) (addr : Nat → Nat) :
    State → List Nat → State × List Nat × List Nat × List (Nat × Nat × Nat) × List (Nat × Nat × Nat)
  | s, [] => (s, [], [], [], [])
  | s, l :: t =>
    if (s.lane c k l).kind == .helper then
      let r := launchLanes q pw c k addr (putPreds s c k (some pw) [(l, false)]) t
      (r.1, l :: r.2.1, r.2.2)
    else if !(s.lq q).takesDev then
      let r := launchLanes q pw c k addr (putPreds s c k (some pw) [(l, false)]) t
      (r.1, l :: r.2.1, r.2.2)
    else match readRecord s c k (addr l) with
      | (s1, .bytes bs) =>
        let u := submit s1 q bs
        let r := launchLanes q pw c k addr (putPreds u.1 c k (some pw) [(l, u.2)]) t
        (r.1, l :: r.2.1, r.2.2)
      | (s1, .wait) => (s1, [], l :: t, [], [])
      | (s1, .park f) =>
        let r := launchLanes q pw c k addr s1 t
        (r.1, r.2.1, r.2.2.1, (l, addr l, f) :: r.2.2.2.1, r.2.2.2.2)
      | (s1, .fatal cause d) =>
        let r := launchLanes q pw c k addr s1 t
        (r.1, r.2.1, r.2.2.1, r.2.2.2.1, (l, cause, d) :: r.2.2.2.2)

/-- `launch` in one warp of the bundle (R154). With a warp-uniform pair it acts once, for the lowest member, and writes every member. -/
def launchWarp (f : FmtS) : WarpStep := fun x s k ls =>
  let c := x.core
  let once := f.a.isWreg
  let ex := issuingSet x s k ls
  let e := x.env k
  let addr (l : Nat) : Nat := readOp s e l .n64 .w64 f.a
  let act := launchedOf s c k ex
  let who := if once then (if act = [] then ex.take 1 else act.take 1) else ex
  let bad := who.filter (fun l => addr l % 256 != 0)
  let win := who.filter (fun l => match regionOf (addr l) with | .general => false | .peer _ => false | .nonCanonical => false | _ => true)
  let watch := who.filter (fun l =>
    act.contains l && (s.lq f.s7.toNat).takesDev && watchHit s c .pop (addr l) 256)
  let prior := stoppedAt s c k x.pc
  let done0 := match prior with | some y => y.done | none => 0
  let set := match prior with | some y => y.set | none => maskOf ex
  let on (l : Nat) : Word := if once then maskOf ex else maskOf [l]
  if ex = [] then s
  else if act != [] && mustDrain s c k act .rel .pkg then parkAll s c k ls .drain
  else if bad != [] then
    raiseTrap s c k Cause.misaligned x.pc
      { lanes := if once then maskOf ex else maskOf bad, done := done0, addr := BitVec.ofNat 64 (addr (bad.headD 0)) }
  else if win != [] then
    raiseTrap s c k Cause.translation x.pc
      { lanes := if once then maskOf ex else maskOf win, done := done0, detail := XCause.window,
        addr := BitVec.ofNat 64 (addr (win.headD 0)) }
  else if watch != [] then
    raiseTrap s c k Cause.breakpoint x.pc
      { lanes := if once then maskOf ex else maskOf watch, done := done0, addr := BitVec.ofNat 64 (addr (watch.headD 0)) }
  else
    let s1 := if act = [] then s else release s c (wgIdOf s c k) .pkg
    let r := launchLanes f.s7.toNat f.pw c k addr s1 who
    let s2 := if r.2.2.1 = [] then dropFetched r.1 c k else r.1
    let first := match r.2.1.head? with | some l => (s2.lane c k l).preds.getLsbD f.pw.toNat | none => false
    let s3 := if once && r.2.1 != [] then putPreds s2 c k (some f.pw) (ex.map (fun l => (l, first))) else s2
    let done := done0 ||| (if once then (if r.2.1 = [] then 0 else maskOf ex) else maskOf r.2.1)
    if set &&& ~~~done = 0 then (if prior.isSome then endStopped s3 c k else s3)
    else
      let s4 := parkAll s3 c k (maskLanes (set &&& done)) .held
      let s5 := stopAt (passBy x s4.bump k (ls.filter (fun l => !ex.contains l))) c k x.pc set done
        (match prior with | some y => y.op | none => s4.fresh) 0
      match r.2.2.2.2, r.2.2.2.1 with
      | (l, cause, d) :: _, _ =>
        raiseTrap s5 c k cause x.pc { lanes := on l, done := done, detail := d, addr := BitVec.ofNat 64 (addr l) }
      | [], (l, va, cause) :: t =>
        let s6 := parkAll s5 c k r.2.2.1 .engine
        if once then
          let j := joinFault s6 (BitVec.ofNat 64 va) (s6.ctxOf c k) c cause .load false (maskOf ex)
          parkAll j.1 c k ex (.fault j.2 .load)
        else parkFaults s6 c k .load false 32 ((l, va, cause) :: t)
      | [], [] => parkAll s5 c k (if once then ex else r.2.2.1) .engine

/-- `launch` (R154). -/
def execLaunch (f : FmtS) (s : State) : Result := .next (issue (.launch f) [(f.a, .w64)] (launchWarp f) s)

end Sys2Proof.Machine
end

