-- ==== Sys2Proof/Machine/Launch.lean ====
section
/-! DEFINITION. Launch queues and their registers (R142 to R145), the check of a launch record (R147 to R151, R156, R157, R164, R310,
R339), the dispatcher (R146, R155), the done word (R149) and swap-out (R160, R161). -/

namespace Sys2Proof.Machine

/-! ## Queue registers (R142, R143, R145) -/

/-- A launch has been taken from the queue and has not written its done word (R145). -/
def queueTaken (s : State) (q : Nat) : Bool := s.launches.anyV (fun _ x => x.queue = q && x.checked)

/-- A register write is refused: nothing but the error bit changes (R143). -/
def lqError (s : State) (q : Nat) : State := s.modLq q (fun y => { y with err := true })

/-- The records not yet taken are discarded (R145). -/
def lqDiscard (s : State) (q : Nat) : State :=
  { s.modLq q (fun y => { y with head := 0, tail := 0, current := none }) with
    launches := s.launches.filterV (fun _ x => x.checked || x.queue != q) }

/-- LAUNCH_REGISTER: a write of LQTAIL (R143). -/
def execLaunchRegister (q : Nat) (v : DWord) (s : State) : Result :=
  let y := s.lq q
  let t := v.toNat
  .next (if y.dev || y.slots ≤ t || y.slots - 1 < y.held + (t + y.slots - y.tail % y.slots) % y.slots then lqError s q
    else s.modLq q (fun y => { y with tail := t, err := false }))

/-- LQCFG_WRITE (R142, R143, R145). -/
def execLqcfgWrite (q : Nat) (v : DWord) (s : State) : Result :=
  let y := s.lq q
  let ctx := bitsOf v.toNat 0 8
  let level := bitsOf v.toNat 8 2
  let e := bitsOf v.toNat 10 4
  let on := v.getLsbD 16
  let dev := v.getLsbD 17
  let same := ctx = y.ctx && level = y.level && ringSize e = ringSize y.size && dev = y.dev
  .next (if y.enable && !same then lqError s q
    else
      let s1 := s.modLq q (fun y => { y with ctx := ctx, level := level, size := e, enable := on, dev := dev, err := false })
      if !y.enable && !queueTaken s q && (ringSize e != ringSize y.size || ctx != y.ctx) then lqDiscard s1 q else s1)

/-- LQBASE_WRITE (R142, R143, R145). -/
def execLqbaseWrite (q : Nat) (v : DWord) (s : State) : Result :=
  let y := s.lq q
  .next (if y.enable then lqError s q
    else
      let s1 := s.modLq q (fun y => { y with base := v &&& 0x000FFFFFFFFFFF00, err := false })
      if queueTaken s q then s1 else lqDiscard s1 q)

/-! ## Capacity (R156) -/

/-- The package's residency capacity for a record, in workgroups. -/
def Launch.capacity (x : Launch) : Nat :=
  let wpc := Nat.min 48 (regG x.part * 128 / x.regs)
  if x.warps ≤ wpc then (if 0 < spG x.part then 368 else 368 * (wpc / x.warps))
  else 92 * (4 / ceilDiv x.warps wpc)

/-- The record is placed by gang dispatch (R157, R339). -/
def Launch.gang (x : Launch) : Bool := (x.flag 7 || x.repro) && !(x.flag 0 && x.flag 1)

/-- Class P and swappable (R157, R161). -/
def Launch.swaps (x : Launch) : Bool := x.flag 0 && x.flag 1

/-! ## The check of a record (R149) -/

/-- A field of the collective binding (R164), and of the population binding (R148). -/
def Launch.coll (x : Launch) (off n : Nat) : Nat := x.fld (0xA0 + off) n
def Launch.pop (x : Launch) (off n : Nat) : Nat := x.fld (0xD0 + off) n

/-- Members of a mask, ascending. -/
def membersIn (m : Nat) : List Nat := (List.range 16).filter (fun p => m.testBit p)

/-- Place of a package among the members (R165, R310). -/
def rankIn (m p : Nat) : Nat := ((membersIn m).filter (fun q => q < p)).length

/-- Chunk c is received here (R165). -/
def receives (s : State) (x : Launch) (c : Nat) : Bool :=
  x.coll 4 2 != 0 || c % (membersIn (x.coll 2 2)).length = rankIn (x.coll 2 2) s.fab.index

/-- Chunks received here, ascending. -/
def chunksHere (s : State) (x : Launch) : List Nat := (List.range x.total).filter (receives s x)

/-- n bytes from a virtual address lie on general local pages (R149, R164). -/
def onGeneral (s : State) (ctx va n : Nat) : Bool :=
  (granuleParts (va, n)).all (fun p => match regionOf p.1, walk s ctx p.1 with
    | .general, .leaf e _ => !ptePE e && !pteMS e
    | _, _ => false)

/-- The record breaks R147 or R339, which makes it record-invalid. -/
def recordInvalid (s : State) (x : Launch) : Bool :=
  x.fld 0 8 % 64 != 0 || x.fld 8 8 % 64 != 0 || x.gridX = 0 || 0xFFFFFF < x.gridX || x.gridY = 0 || x.gridZ = 0 ||
    2 ^ 32 - 1 < x.total || x.threads = 0 || 6144 < x.threads || x.regs = 0 || 1024 < x.regs || x.regs % 8 != 0 ||
    x.fld 0x28 4 / 1024 != 0 || 4096 < x.fld 0x2C 2 || x.fld 0x2E 2 != 0 || (x.flag 1 && x.saveArea = 0) ||
    (List.range 4).any (fun i => x.fld (0x6C + 16 * i) 4 != 0) || x.fld 0xF0 8 != 0 || x.fld 0xF8 8 != 0 ||
    (x.repro && (!s.rep.isOpen || x.course ≤ s.rep.closed.toNat || x.course = 0 || x.flag 2 || 4096 ≤ s.rep.launches.length))

/-- The record breaks R42. -/
def partitionInvalid (x : Launch) : Bool :=
  x.part.toNat / 2 ^ 24 != 0 || regG x.part + spG x.part + accG x.part + l1G x.part != 48 || regG x.part = 0

/-- The record breaks R44, R147 or R156. -/
def tooLarge (x : Launch) : Bool :=
  let wpc := Nat.min 48 (regG x.part * 128 / x.regs)
  regG x.part * 0x4000 < 128 * x.regs || (wpc < x.warps && 4 < ceilDiv x.warps wpc)

/-- A member's binding of the launch differs from this package's: a free value (log 66). -/
def bindingDiffers (s : State) (p : Nat) : Bool := p != s.fab.index && Config.bindingDiffers s.tick p

/-- The binding breaks R164. The binding must be the lowest member's. Of the landing, result and flag areas, the parts that this member
receives must be mapped (DESIGN CHOICE, log 119). -/
def collectiveInvalid (s : State) (x : Launch) : Bool :=
  let chunk := x.coll 8 4
  let m := x.coll 2 2
  x.coll 0 1 ∉ [1, 2, 3, 4] || x.coll 1 1 != 0 || !m.testBit s.fab.index || m &&& s.fab.live.toNat != m || x.coll 6 2 != 0 ||
    chunk % 128 != 0 || chunk = 0 || 262144 < chunk || bindingDiffers s ((membersIn m).headD 0) ||
    (chunksHere s x).any (fun c =>
      (membersIn m).any (fun p => !onGeneral s x.ctx (x.coll 0x18 8 + (16 * c + p) * chunk) chunk) ||
        !onGeneral s x.ctx (x.coll 0x20 8 + c * chunk) chunk || !onGeneral s x.ctx (x.coll 0x28 8 + 4 * c) 4)

/-- First slot of a member rank in a population, and the slots of the package (R310). -/
def popFirst (x : Launch) (rank : Nat) : Nat := rank * x.pop 4 4 / (membersIn (x.pop 2 2)).length
def popSlots (s : State) (x : Launch) : Nat :=
  popFirst x (rankIn (x.pop 2 2) s.fab.index + 1) - popFirst x (rankIn (x.pop 2 2) s.fab.index)

/-- Grains of the launch on this package (R310). -/
def grainCount (x : Launch) : Nat :=
  match x.pop 1 1 with
  | 0 => x.total * x.threads
  | 1 => x.total * x.warps
  | _ => x.total

/-- The binding breaks R310. -/
def populationInvalid (s : State) (x : Launch) : Bool :=
  let m := x.pop 2 2
  63 < x.pop 0 1 || (s.pops.at? (x.pop 0 1)).isSome || 2 < x.pop 1 1 || (x.pop 1 1 = 1 && x.threads % 32 != 0) ||
    m &&& s.fab.live.toNat != m || !m.testBit s.fab.index || x.pop 4 4 = 0 || 2 ^ 24 < x.pop 4 4 ||
    grainCount x != popSlots s x || !poolOk s (x.pop 0x10 2) || (x.repro && x.pop 8 8 != 2 ^ 64 - 1) ||
    (membersIn m).any (bindingDiffers s) || x.pop 0x12 6 != 0 || x.pop 0x18 8 != 0 || s.popBase = 0 || s.popSize.toNat * 2 ^ 21 < 32 * popSlots s x

/-- The lowest status among the failing checks of step 4 of R149; none when the record is valid. -/
def checkStatus (s : State) (x : Launch) : Option Nat :=
  if recordInvalid s x then some 0x10
  else if partitionInvalid x then some 0x11
  else if tooLarge x then some 0x12
  else if (x.flag 7 || x.repro) && x.capacity < x.total && !x.swaps then some 0x13
  else if x.flag 5 && collectiveInvalid s x then some 0x14
  else if x.flag 6 && populationInvalid s x then some 0x15
  else none

/-- Writes a done word (R149). -/
def writeDone (s : State) (x : Launch) (status : Nat) : State := s.wrMem x.donePa 8 (status + 2 ^ 32 * x.course)

/-- The head record is rejected: it runs no workgroup, and the queue goes on behind it (R144, R149). -/
def reject (s : State) (q : Nat) (status : Nat) (done : Option Launch) : State :=
  let s1 := match done with | some x => writeDone s x status | none => s
  let s2 := match (s1.lq q).current with | some id => { s1 with launches := s1.launches.del id } | none => s1
  s2.modLq q (fun y => { y with
    status := BitVec.ofNat 8 status, finished := y.finished + 1, head := (y.head + 1) % y.slots, current := none })

/-- The launch of a record just read from its slot. -/
def newLaunch (s : State) (q : Nat) : Launch :=
  let y := s.lq q
  let a := y.base.toNat + 256 * y.head
  { queue := q, slotAddr := BitVec.ofNat 64 a, record := BitVec.ofNat 2048 (s.rdDev a 256), ctx := y.ctx, donePa := 0, checked := false,
    waits := 0, polls := [], next := 0, redo := [], ended := 0, killed := false, lost := false, token := none, held := false, gridArr := [],
    ran := [], counter := 0, due := [], landed := [], asked := [], got := [], reduce := 0, reduceLost := false,
    pass := 0, wrote := [], population := none }

/-- The context of the queue is usable (step 1 of R149, R29). -/
def ctxUsable (s : State) (ctx : Nat) : Bool :=
  let a := s.xl.ctxBase.toNat + 16 * ctx
  s.xl.ctxBase != 0 && a + 16 ≤ Config.memTop && ctxEntryOk (Mem.rd s.mem a 8) (Mem.rd s.mem (a + 8) 8)

/-- Where the done word lies: general, local, writable (step 2 of R149). -/
def donePlace (s : State) (ctx va : Nat) : Option Nat :=
  if va = 0 || va % 8 != 0 then none
  else match regionOf va, walk s ctx va with
    | .general, .leaf e bits => if ptePE e || pteMS e || pteRO e then none else some (leafPa va e bits)
    | _, _ => none

/-- Steps 1 and 2 of R149: the head record of an enabled queue is read, and its context and done address are checked. What has been read
and which waits have been satisfied survive a time with enable clear (DESIGN CHOICE, log 117). -/
def takeHead (s : State) (q : Nat) : State :=
  let y := s.lq q
  if !y.enable || s.pre.active.getLsbD q || y.current.isSome || y.held = 0 then s
  else
    let x := newLaunch s q
    if !ctxUsable s y.ctx then reject s q 0x16 none
    else match donePlace s y.ctx (x.fld 0x58 8) with
      | none => reject s q 0x10 none
      | some pa =>
        { s with fresh := s.fresh + 1, launches := s.launches.put s.fresh { x with donePa := pa } }.modLq q
          (fun y => { y with current := some s.fresh })

/-- The tag of a wait word asked of a peer package (log 54). -/
def waitTag (id i : Nat) : Nat := 2 ^ 60 + 4 * id + i

/-- A wait entry: address and least value (R151). -/
def Launch.waitAddr (x : Launch) (i : Nat) : Nat := x.fld (0x60 + 16 * i) 8
def Launch.waitMin (x : Launch) (i : Nat) : Nat := x.fld (0x68 + 16 * i) 4

/-- What the dispatcher finds in one wait entry (R151). -/
inductive WaitRead where
  | yes | no | bad | ask (pkg pa : Nat)
  deriving DecidableEq, Repr

def readWait (s : State) (x : Launch) (i : Nat) : WaitRead :=
  let va := x.waitAddr i
  let of (v : Nat) : WaitRead := if x.waitMin i ≤ v then .yes else .no
  if va = 0 then .yes
  else if va % 4 != 0 then .bad
  else match regionOf va, walk s x.ctx va with
    | .general, .leaf e bits | .peer _, .leaf e bits =>
      if (leafFault s va e false false).isSome then .bad
      else match leafPlace va e bits with
        | .peer q pa => if pkgLive s q then .ask q pa else of 0
        | _ => of (Mem.rd s.mem (leafPa va e bits) 4)
    | _, _ => .bad

/-- Reads the wait words of a head record that are not satisfied (step 3 of R149, R151). -/
def pollHead (s : State) (q : Nat) : State :=
  match (s.lq q).current with
  | none => s
  | some id =>
    match s.launches.at? id with
    | none => s
    | some x =>
      if x.checked || !(s.lq q).enable || s.pre.active.getLsbD q then s
      else
        let left := (List.range 4).filter (fun i => !x.waits.getLsbD i)
        if left.any (fun i => readWait s x i == .bad) then reject s q 0x10 (some x)
        else left.foldl (fun s i => match readWait s x i with
          | .yes => s.modLaunch id (fun x => { x with waits := x.waits ||| (1#4 <<< i) })
          | .ask p pa => if x.polls.contains i then s else
            sendPacket (s.modLaunch id (fun x => { x with polls := i :: x.polls })) { hdr := mkHdr 0 s.fab.index p 0 0 4 pa 0 (waitTag id i), payload := [] }
          | _ => s) s

/-- Every queue's head is read and its waits polled, once dispatch is enabled (R371). -/
def pollAll (s : State) : State := if !s.ready then s else (List.range Config.queues).foldl (fun s q => pollHead (takeHead s q) q) s

/-- DEPENDENCE_POLL (R151): when it comes, every 1 µs or behind a done word or flag, is timing (log 8). -/
def execDependencePoll (s : State) : Result := .next (pollAll s)

/-- The population that a valid record binds (R310, R311). -/
def newPop (s : State) (id : Nat) (x : Launch) : Population :=
  let first := popFirst x (rankIn (x.pop 2 2) s.fab.index)
  let n := popSlots s x
  { launch := id, grain := x.pop 1 1, members := BitVec.ofNat 16 (x.pop 2 2), n := x.pop 4 4, pool := x.pop 0x10 2,
    deadline := BitVec.ofNat 64 (x.pop 8 8), first := first, count := n, step := 0, opened := false,
    parts := (List.range n).map (fun i =>
      (first + i, ({ root := 0, parent := first + i, acc := some 0, pw := some 0, step := 0, arrived := false, updates := 0,
                     old := none } : Particle))),
    reports := [], rsbWarps := [], closing := none }

/-- The landing slots of a collective here, as chunk, package and physical parts (R164, R165). -/
def landingParts (s : State) (x : Launch) : List (Nat × Nat × List (Nat × Nat)) :=
  (chunksHere s x).flatMap (fun c => (membersIn (x.coll 2 2)).map (fun p =>
    (c, p, (granuleParts (x.coll 0x18 8 + (16 * c + p) * x.coll 8 4, x.coll 8 4)).filterMap (fun r =>
      (vaPa s x.ctx r.1 false).map (fun a => (a, r.2))))))

/-- Two physical parts share a byte. -/
def partsMeet (a b : Nat × Nat) : Bool := decide (a.1 < b.1 + b.2) && decide (b.1 < a.1 + a.2)

/-- Chunks still to come of earlier launches no longer count where a new launch lands (log 114). -/
def dropLate (s : State) (x : Launch) : State :=
  let mine := (landingParts s x).flatMap (fun e => e.2.2)
  { s with late := s.late.filter (fun y => !y.parts.any (fun a => mine.any (partsMeet a))) }

/-- Chunks of an ended launch that have not arrived whole (R166, log 114). -/
def lateChunks (s : State) (x : Launch) : List LateChunk :=
  (landingParts s x).filterMap (fun e =>
    let key := 16 * e.1 + e.2.1
    let left := x.coll 8 4 - x.landed.atD key 0 - x.landed.atD (2 ^ 40 + key) 0
    if left = 0 || e.2.1 = s.fab.index then none else some { src := e.2.1, chunk := e.1, parts := e.2.2, left := left })

/-- The record is taken: its collective, its population, its run entry and its token come to be (R145, R165, R310, R339, R341). -/
def takeRecord (s : State) (id : Nat) (x : Launch) : State :=
  let lowest := (membersIn s.rep.members.toNat).head? = some s.fab.index
  let s1 := (if x.flag 5 then dropLate s x else s).modLaunch id (fun y => { y with
    checked := true
    counter := if x.flag 5 then (membersIn (x.coll 2 2)).length * (chunksHere s x).length else 0
    population := if x.flag 6 then some (x.pop 0 1) else none
    token := if x.repro && lowest then some 0 else none })
  let s2 := if x.flag 6 then { s1 with pops := s1.pops.put (x.pop 0 1) (newPop s id x) } else s1
  if x.repro then
    { s2 with rep := { s2.rep with launches := s2.rep.launches ++
        [{ course := BitVec.ofNat 32 x.course, queue := x.queue, key := BitVec.ofNat 64 (x.fld 0x38 8),
           hash := sha256 (leBytes 256 x.record.toNat) }] } }
  else s2

/-- Step 4 of R149 for a head record whose waits are satisfied. -/
def checkHead (s : State) (q : Nat) : State :=
  match (s.lq q).current with
  | none => s
  | some id =>
    match s.launches.at? id with
    | none => s
    | some x =>
      if x.checked || x.waits != 0xF || !(s.lq q).enable || s.pre.active.getLsbD q then s
      else match checkStatus s x with
        | some st => reject s q st (some x)
        | none => takeRecord s id x

/-! ## Placement (R44, R56, R137, R155, R157) -/

/-- The compute die of a core takes work: it is not gated, and its core is not being replaced (R365, R369). -/
def coreUp (s : State) (c : Nat) : Bool :=
  !s.pow.gate.getLsbD (dieOf c) && !(match s.rel.sub with | some x => x.kind = 0 && x.die = dieOf c && x.unit = c % 92 | none => false)

/-- A core accepts warps of a launch (R155); `idle` lets it be one that holds nothing. -/
def accepts (s : State) (idle : Bool) (id : Nat) (x : Launch) (c : Nat) : Bool :=
  let y := s.core c
  coreUp s c &&
    ((idle && y.launch = none && y.warps.isEmpty && y.streams.isEmpty && engineIdle y) ||
      (y.launch = some id && !y.warps.isEmpty && spG x.part = 0))

/-- Seats warps from p on over the cores, filling each before the next (R137). -/
def seatFrom (id wg : Nat) (x : Launch) : Nat → State → List Nat → Nat → Option State
  | 0, _, _, _ => none
  | _, _, [], _ => none
  | n + 1, s, c :: cs, p =>
    if x.warps ≤ p then some s
    else
      let s1 := if (s.core c).launch = some id then s else loadPart s c id x.part
      match freeSlot s1 c, fitBase s1 c none x.regs with
      | some k, some b =>
        let w := startWarp x id wg p (bindPart s1 c) (s1.core c).ages b
        let s2 := seatWarp (s1.modCore c (fun y => { y with store := Mem.clear y.store b (128 * x.regs) })) c k w
        let s3 := if p = 0 && x.fld 8 8 != 0 then
            s2.modCore c (fun y => { y with streams := y.streams.put k (startStreamState x id wg) })
          else s2
        if p + 1 = x.warps then some s3 else seatFrom id wg x n s3 (c :: cs) (p + 1)
      | _, _ => seatFrom id wg x n s cs p

/-- A workgroup as it is placed. -/
def newWg (id : Nat) (x : Launch) (g : Nat) (cores : List Nat) : Wg :=
  { launch := id, g := g, x := g % x.gridX, y := g / x.gridX % x.gridY, z := g / x.gridX / x.gridY, cores := cores, live := x.warps,
    bars := [], queues := [], board := Board.reset, saved := none }

/-- Places workgroup g on the given cores, if its warps find room there. -/
def seatWg (s : State) (id : Nat) (x : Launch) (g : Nat) (cores : List Nat) : Option State :=
  let wg := s.fresh
  let s1 := { s.bump with wgs := s.wgs.put wg (newWg id x g cores) }
  (seatFrom id wg x (x.warps + 5) s1 cores 0).map (fun t => openSides t wg)

/-- Ascending choices of n from a list. -/
def choose : Nat → List Nat → List (List Nat)
  | 0, _ => [[]]
  | _, [] => []
  | n + 1, a :: t => (choose n t).map (fun l => a :: l) ++ choose (n + 1) t

/-- The cores of a cluster: 4n to 4n + 3 (R3). -/
def clusterCores (n : Nat) : List Nat := (List.range 4).map (fun i => 4 * n + i)

/-- Inserts by a key, keeping earlier ones first among equals. -/
def insertBy (key : Nat → Nat) (a : Nat) : List Nat → List Nat
  | [] => [a]
  | b :: t => if key a < key b then a :: b :: t else b :: insertBy key a t

def sortBy (key : Nat → Nat) (l : List Nat) : List Nat := l.foldl (fun r a => insertBy key a r) []

/-- Resident warps of a compute die. -/
def dieWarps (s : State) (d : Nat) : Nat :=
  ((s.cores.filterV (fun c _ => dieOf c = d)).map (fun (e : Nat × Core) => e.2.warps.length)).foldl (· + ·) 0

/-- The tile slice of a workgroup's tile coordinates (R56). -/
def tileSlice (x y z : Nat) : Nat :=
  let k := (x ^^^ (y * 2 ^ 8) ^^^ (z * 2 ^ 16)) % 2 ^ 23
  (k ^^^ (k / 2 ^ 7) ^^^ (k / 2 ^ 14)) % 65536 * 320 / 65536

/-- Tile coordinates of workgroup g, from the record's map (R147); none where the map cannot be read. -/
def tileCoords (s : State) (x : Launch) (g : Nat) : Option (Nat × Nat × Nat) :=
  let at_ (i : Nat) : Option Nat := (vaPa s x.ctx (x.fld 0x48 8 + 8 * g + 2 * i) false).map (fun pa => Mem.rd s.mem pa 2)
  match at_ 0, at_ 1, at_ 2 with
  | some a, some b, some c => some (a, b, c)
  | _, _, _ => none

def absDiff (a b : Nat) : Nat := (a - b) + (b - a)

/-- Clusters in the order a workgroup is offered them: by the tile preference (R56), else the dies by resident warps (R155). The nearest
cluster of a die is the one whose logical number differs least, the lower one first (DESIGN CHOICE, log 116). -/
def clusterOrder (s : State) (x : Launch) (g : Nat) : List Nat :=
  let dies := sortBy (dieWarps s) [0, 1, 2, 3]
  let plain := dies.flatMap (fun d => (List.range 23).map (fun i => 23 * d + i))
  match if x.flag 4 then tileCoords s x g else none with
  | none => plain
  | some (a, b, c) =>
    let t := tileSlice a b c
    let near := sortBy (fun i => absDiff (i % 23) (t % 80 * 23 / 80)) ((List.range 23).map (fun i => 23 * (t / 80) + i))
    near ++ plain.filter (fun i => !near.contains i)

/-- Places workgroup g of a launch where the dispatcher's order first finds room (R155); none where no core accepts it. -/
def placeWg (s : State) (idle : Bool) (id : Nat) (x : Launch) (g : Nat) : Option State :=
  let offers := (clusterOrder s x g).flatMap (fun cl => choose x.cpw ((clusterCores cl).filter (accepts s idle id x)))
  offers.findSome? (fun cores => seatWg s id x g cores)

/-- Places workgroups g to g + n − 1, all or none (R157). -/
def placeAll (idle : Bool) (id : Nat) (x : Launch) : Nat → State → Nat → Option State
  | 0, s, _ => some s
  | n + 1, s, g => (placeWg s idle id x g).bind (fun s => placeAll idle id x n s (g + 1))

/-- The head record behind its placement: the count of workgroups placed, and the queue's head once all are (R144). -/
def placed (s : State) (id q n : Nat) : State :=
  let s1 := s.modLaunch id (fun x => { x with next := x.next + n })
  match s1.launches.at? id with
  | some x => if x.total ≤ x.next then s1.modLq q (fun y => { y with head := (y.head + 1) % y.slots, current := none }) else s1
  | none => s1

/-- A head record that has been taken and may be placed (R146, R339). -/
def readyHead (s : State) (q : Nat) : Option (Nat × Launch) :=
  match (s.lq q).current with
  | none => none
  | some id => match s.launches.at? id with
    | some x =>
      if x.checked && !s.pre.active.getLsbD q && (!x.repro || x.course ≤ s.rep.committed.toNat + 1) then some (id, x) else none
    | none => none

/-- One placement for a queue's ready head (R146, R157). -/
def placeHead (s : State) (idle : Bool) (q : Nat) : Option State :=
  match readyHead s q with
  | none => none
  | some (id, x) =>
    if x.killed then none
    else if x.gang then (placeAll idle id x x.total s 0).map (fun s => placed s id q x.total)
    else (placeWg s idle id x x.next).map (fun s => placed s id q 1)

/-- A reduce block waits for a core, which it takes ahead of all other work (R166). -/
def reduceWaits (x : Launch) : Bool := x.checked && x.flag 5 && x.reduce = 0 && (x.counter = 0 || x.reduceLost)

/-- A gang record of at least the level waits, so that no idle core goes to a record of that level or below (R157). -/
def gangWaits (s : State) (level : Nat) : Bool :=
  (List.range Config.queues).any (fun q => level ≤ (s.lq q).level && (match readyHead s q with
    | some (_, x) => x.gang && (placeHead s true q).isNone
    | none => false))

/-- Idle cores may go to a record of a level now. -/
def idleFor (s : State) (level : Nat) : Bool := !gangWaits s level && !s.launches.anyV (fun _ x => reduceWaits x)

/-- Queues of a level in turn, from the one behind that served last (R146). -/
def queuesAt (s : State) (level : Nat) : List Nat :=
  let from_ := match s.dispLast.at? level with | some q => q + 1 | none => 0
  ((List.range 64).map (fun i => (from_ + i) % 64)).filter (fun q => (s.lq q).level = level)

/-- The placement of the highest placeable level. -/
def serve (s : State) (level : Nat) : Option State :=
  let idle := idleFor s level
  (queuesAt s level).findSome? (fun q =>
    (placeHead s idle q).map (fun s => { s with dispLast := s.dispLast.put level q }))

/-- A workgroup that a pre-emption discarded is dispatched again (R155), ahead of the queues' heads (DESIGN CHOICE, log 118). -/
def serveRedo (s : State) : Option State :=
  s.launches.findSome? (fun e => match e.2.redo with
    | g :: t =>
      if s.pre.active.getLsbD e.2.queue || s.wgs.anyV (fun _ y => y.launch = e.1 && y.g = g) then none
      else (placeWg s (idleFor s (s.lq e.2.queue).level) e.1 e.2 g).map (fun s => s.modLaunch e.1 (fun x => { x with redo := t }))
    | [] => none)

/-- DISPATCH_WORKGROUP (R146, R371 step 7): the heads are read, polled and checked, and one workgroup is placed. -/
def execDispatchWorkgroup (s : State) : Result :=
  let s1 := (List.range Config.queues).foldl (fun s q => checkHead (pollHead (takeHead s q) q) q) s
  .next (if !s.ready then s
    else match serveRedo s1 with
    | some s2 => s2
    | none => ([3, 2, 1, 0].findSome? (serve s1)).getD s1)

/-! ## The done word (R149) -/

/-- Every workgroup and stream of a launch has ended, and its reduce block has written its flags. -/
def launchEnded (s : State) (id : Nat) (x : Launch) : Bool :=
  x.checked && decide (x.total ≤ x.next) && x.redo = [] && decide (x.total ≤ x.ended) && x.due = [] &&
    !s.wgs.anyV (fun _ g => g.launch = id) && !s.cores.anyV (fun _ y => y.streams.anyV (fun _ t => t.launch = id)) &&
    (x.killed || !x.flag 5 || chunksHere s x = [] || x.reduce = 1)

/-- The status a launch ends with (R149). -/
def doneStatus (x : Launch) : Nat := if x.killed then 3 else if x.lost || x.reduceLost then 2 else 1

/-- DONE_WORD_WRITE (R149): it waits for written bytes that an engine's ownership keeps from going home (R71). -/
def execDoneWordWrite (launch : Nat) (s : State) : Result :=
  .next (match s.launches.at? launch with
    | none => s
    | some x =>
      if !launchEnded s launch x then s
      else
        let s0 := x.ran.foldl writeBackAll s
        if x.ran.any (wbHeld s0) then s0
        else
        let s1 := x.ran.foldl publishCore s0
        let s2 := writeDone s1 x (doneStatus x)
        let s3 := { freeOwnership s2 (.reduce launch) with
          launches := s2.launches.del launch
          late := if x.flag 5 then s2.late ++ lateChunks s2 x else s2.late
          pops := s2.pops.filterV (fun _ p => p.launch != launch)
          cores := s2.cores.mapV (fun _ y => if y.launch = some launch && y.warps.isEmpty then { y with launch := none } else y) }
        s3.modLq x.queue (fun y => { y with
          finished := y.finished + 1
          head := if y.current = some launch then (y.head + 1) % y.slots else y.head
          current := if y.current = some launch then none else y.current }))

/-! ## Restoring a workgroup and swapping (R160, R161, R332) -/

/-- Restores the saved warps of a workgroup on given cores, one for each of its old ones. -/
def restoreOn (s : State) (wg id : Nat) (x : Launch) (v : SavedWg) (cores : List Nat) : Option State :=
  let ws := v.all
  (List.range x.warps).foldl (fun (r : Option State) p =>
    r.bind (fun s => match ws.find? (fun e => e.1.warpid = p) with
      | none => some s
      | some (_, r) =>
        let c := cores.getD r.wcore 0
        let s1 := if (s.core c).launch = some id then s else loadPart s c id x.part
        (freeSlot s1 c).bind (fun k => restoreWarp s1 c k wg p))) (some s)

/-- The cores, all up, can hold warps of a workgroup (R43, R44). -/
def canHold (s : State) (id wg : Nat) (x : Launch) (cores : List Nat) : Bool := cores.all (fun c => coreUp s c && mayHold s c id wg x)

/-- Restores a saved workgroup on the first cluster whose cores accept it with the `%wcore`s it had (R332); where some of its warps are
resident, on the cores of those, if they still can hold it (R43, R44). -/
def restoreWg (s : State) (wg : Nat) : Option State :=
  match s.wgs.at? wg with
  | none => none
  | some g =>
    match g.saved, s.launches.at? g.launch with
    | some v, some x =>
      let here := wgWarps s wg != []
      let clusters := if here then [g.cores.headD 0 / 4] else clusterOrder s x g.g
      clusters.findSome? (fun cl =>
        let cores := g.cores.map (fun c => 4 * cl + c % 4)
        if if here then canHold s g.launch wg x cores else cores.all (accepts s true g.launch x) then restoreOn s wg g.launch x v cores
        else none)
    | _, _ => none

/-- Steps since a workgroup last issued, as the step of its newest issue. -/
def wgIssue (s : State) (wg : Nat) : Nat := (wgWarps s wg).foldl (fun n e => Nat.max n e.2.2.lastIssue) 0

/-- The element with the least key, the first among equals. -/
def leastBy (key : Nat → Nat) : List Nat → Option Nat
  | [] => none
  | a :: t => match leastBy key t with
    | none => some a
    | some b => if key b < key a then some b else some a

/-- SWAP_OUT (R160, R161): the workgroup longest without issue is saved, and the earliest swapped out, else the next unplaced one,
takes its place, where the freed cores can hold it (R43, R44); one that they cannot hold, because its registers were enlarged or a core
has gone to other work, goes where the dispatcher finds room (DESIGN CHOICE, log 128). How long the interval is, is timing (log 8). -/
def execSwapOut (launch : Nat) (s : State) : Result :=
  .next (match s.launches.at? launch with
    | none => s
    | some x =>
      let mine := (launchWgs s launch).map Prod.fst
      let out := mine.filter (fun g => match s.wgs.at? g with | some y => y.saved.isSome && wgWarps s g = [] | none => false)
      let res := mine.filter (fun g => wgWarps s g != [])
      let when_ (g : Nat) : Nat := match s.wgs.at? g with
        | some y => (match y.saved with | some v => v.tick | none => 0)
        | none => 0
      if !x.swaps || !x.checked || x.killed || s.pre.active.getLsbD x.queue || (out = [] && x.total ≤ x.next) then s
      else
        let old := (leastBy (wgIssue s) res).bind s.wgs.at?
        let s1 := match leastBy (wgIssue s) res, old with
          | some g, some y => saveWg s g (recAddr x y.g)
          | _, _ => s
        match leastBy when_ out with
        | some g =>
          let back := match old, (s1.wgs.at? g).bind Wg.saved with
            | some y, some v => if canHold s1 launch g x y.cores then restoreOn s1 g launch x v y.cores else none
            | _, _ => none
          ((back.orElse (fun _ => restoreWg s1 g))).getD s1
        | none => match s1.launches.at? launch with
          | some y => if y.next < y.total then
              let new := old.bind (fun z => if canHold s1 launch s1.fresh y z.cores then seatWg s1 launch y y.next z.cores else none)
              let any_ := fun (_ : Unit) => placeWg s1 (idleFor s1 (s1.lq y.queue).level) launch y y.next
              ((new.orElse any_).map (fun s => placed s launch y.queue 1)).getD s1
            else s1
          | none => s1)

end Sys2Proof.Machine
end

