-- ==== Sys2Proof/Machine/Collective.lean ====
section
/-! DEFINITION. Collectives (R164 to R166): sending the chunk of a workgroup that has ended, what arrives in a landing area, and the
reduce block. -/

namespace Sys2Proof.Machine

/-! ## Addresses of a binding (R164) -/

def Launch.chunk (x : Launch) : Nat := x.coll 8 4
/-- The members, ascending (R165). -/
def Launch.members (x : Launch) : List Nat := membersIn (x.coll 2 2)
def Launch.srcAddr (x : Launch) (g : Nat) : Nat := x.coll 0x10 8 + g * x.chunk
/-- The landing slot of chunk c from package p. -/
def Launch.landAddr (x : Launch) (c p : Nat) : Nat := x.coll 0x18 8 + (16 * c + p) * x.chunk
def Launch.resultAddr (x : Launch) (c : Nat) : Nat := x.coll 0x20 8 + c * x.chunk
def Launch.flagAddr (x : Launch) (c : Nat) : Nat := x.coll 0x28 8 + 4 * c

/-- The parts of n bytes from an address in each 128-byte line: address and length. -/
def lineParts (va n : Nat) : List (Nat × Nat) :=
  if n = 0 then []
  else (List.range ((va + n - 1) / 128 - va / 128 + 1)).map (fun i =>
    let lo := Nat.max va ((va / 128 + i) * 128)
    (lo, Nat.min (va + n) ((va / 128 + i + 1) * 128) - lo))

/-- The n bytes at a virtual address of local memory; none where a part does not translate to it. -/
def vaBytes (s : State) (ctx va n : Nat) : Option (List Byte) :=
  (lineParts va n).foldl (fun r p => r.bind (fun bs => (vaPa s ctx p.1 false).map (fun pa => bs ++ Mem.bytes s.mem pa p.2))) (some [])

/-- What the reading of bytes in one line finds. -/
inductive Source where
  | here (bs : List Byte)
  | ask (pkg pa : Nat)
  | fault

/-- Reads bytes of one line, here or in a peer package, as no thread does (R35, R165, R338). -/
def readSource (s : State) (ctx va n : Nat) : Source :=
  match regionOf va with
  | .general | .peer _ =>
    match walk s ctx va with
    | .fault _ => .fault
    | .leaf e bits =>
      if (leafFault s va e false false).isSome then .fault
      else match leafPlace va e bits with
        | .peer q pa => if pkgLive s q then .ask q pa else .here (List.replicate n 0)
        | _ => if s.rel.badLines.contains (leafPa va e bits / 65536) then .fault else .here (Mem.bytes s.mem (leafPa va e bits) n)
  | _ => .fault

/-! ## Arrival (R165, R166) -/

/-- Bytes of the landing slot (c, p) have been performed: the last of them makes the chunk arrive, which lowers the counter. -/
def landed (s : State) (id c p n : Nat) : State :=
  s.modLaunch id (fun x =>
    let old := x.landed.atD (16 * c + p) 0
    let new := Nat.min x.chunk (old + n)
    { x with
      landed := x.landed.put (16 * c + p) new
      counter := if old < x.chunk && new = x.chunk then x.counter - 1 else x.counter })

/-- The landing slot that holds a physical address: launch, chunk and package. -/
def landingSlot (s : State) (pa : Nat) : Option (Nat × Nat × Nat) :=
  s.launches.findSome? (fun (e : Nat × Launch) =>
    if !(e.2.checked && e.2.flag 5) then none
    else (chunksHere s e.2).findSome? (fun c => e.2.members.findSome? (fun p =>
      if (granuleParts (e.2.landAddr c p, e.2.chunk)).any (fun r => match vaPa s e.2.ctx r.1 false with
        | some a => decide (a ≤ pa) && decide (pa < a + r.2)
        | none => false) then some (e.1, c, p) else none)))

/-- What becomes of bytes sent to an address: they are no chunk's, a chunk's in time, or a late chunk's (R166). -/
inductive Landing where
  | plain
  | chunk (id c p : Nat)
  | late (id c p : Nat)
  /-- Of the launch that this entry of the late chunks remembers. -/
  | over (i c p : Nat)

/-- Where bytes from package q for an address belong. -/
def landingOf (s : State) (q pa : Nat) : Landing :=
  let old := (List.range s.late.length).find? (fun i => match s.late[i]? with
    | some y => y.src = q && y.parts.any (fun a => decide (a.1 ≤ pa) && decide (pa < a.1 + a.2))
    | none => false)
  match landingSlot s pa with
  | none => match old.bind (fun i => s.late[i]?.map (fun y => (i, y))) with
    | some (i, y) => .over i y.chunk y.src
    | none => .plain
  | some (id, c, p) => match s.launches.at? id with
    | some x => if x.reduce = 0 then .chunk id c p else .late id c p
    | none => .plain

/-- Late bytes of a chunk are discarded and logged (R166); how many have come is kept, so that the slot is free once all have (log 114). -/
def discardLate (s : State) (c p : Nat) (n : Nat) : Landing → State
  | .late id _ _ => logEvent (s.modLaunch id (fun x =>
      let k := 2 ^ 40 + 16 * c + p
      { x with landed := x.landed.put k (x.landed.atD k 0 + n) })) 12 p (c + 2 ^ 32 * p)
  | .over i _ _ => logEvent { s with late := match s.late[i]? with
      | some y => if y.left ≤ n then s.late.eraseIdx i else s.late.set i { y with left := y.left - n }
      | none => s.late } 12 p (c + 2 ^ 32 * p)
  | _ => s

/-- Performs the masked bytes of a copy-write packet of package q here, unless they come too late for their reduce block (R106, R166). -/
def copyWriteHere (s : State) (q pa : Nat) (payload : List Byte) : State × List Nat :=
  let on := (List.range 128).filter (fun i => (BitVec.ofNat 128 (leNat (payload.take 16))).getLsbD i)
  let l := landingOf s q (pa / 128 * 128 + on.headD 0)
  match l with
  | .late _ c p | .over _ c p => (discardLate s c p on.length l, [])
  | .chunk id c p =>
    let w := writePayload s pa payload
    (landed w.1 id c p on.length, w.2)
  | .plain => writePayload s pa payload

/-! ## Sending (R165) -/

/-- The tag of a chunk's packet: bit 61 and the launch (log 54). Its acknowledgement is owed to nobody. -/
def chunkTag (id : Nat) : Nat := 2 ^ 61 + id

/-- The tag of a read of a chunk's source in a peer package: bit 63, the launch and the place in the chunk (log 54). -/
def sourceTag (id off : Nat) : Nat := 2 ^ 63 + 2 ^ 18 * id + off

/-- The physical address of a landing place at a member, by the frames exchanged at validation (R164, log 66). -/
def memberPa (x : Launch) (id q va : Nat) : Nat :=
  (Config.landFrame id q (va / 65536 - x.coll 0x18 8 / 65536)).toNat * 65536 + va % 65536

/-- A packet's payload for bytes that lie in one line. -/
def linePayload (pa : Nat) (bs : List Byte) : List Byte :=
  maskPayload (byteMask (pa % 128) bs.length) (BitVec.ofNat 1024 (leNat bs * 2 ^ (8 * (pa % 128))))

/-- A copy write of a chunk's bytes. -/
def chunkPacket (s : State) (id q pa group : Nat) (bs : List Byte) : Packet :=
  { hdr := mkHdr 7 s.fab.index q 0 0 bs.length (pa / 128 * 128) group (chunkTag id), payload := linePayload pa bs }

/-- A multicast copy write as this router acts on it: its own delivery counts toward a landing area (R119, R165, R166). -/
def copyMulticast (s : State) (p : Packet) (tag : Nat) : State × Nat :=
  let e := groupEntry s (pkGroup p)
  if e.getLsbD 18 && e.getLsbD 19 then
    let on := (List.range 128).filter (fun i => (BitVec.ofNat 128 (leNat (p.payload.take 16))).getLsbD i)
    let l := landingOf s (pkSrc p) (pkAddr p / 128 * 128 + on.headD 0)
    match l with
    | .plain => multicastHere s p tag .dflt
    | .chunk id c q =>
      let r := multicastHere s p tag .dflt
      (landed r.1 id c q on.length, r.2)
    | .late _ c q | .over _ c q =>
      let s1 := discardLate s c q on.length l
      let far := { s1 with fab := { s1.fab with groups := s1.fab.groups.put (pkGroup p) (e &&& ~~~(1#32 <<< 18)) } }
      let r := multicastHere far p tag .dflt
      ({ r.1 with fab := { r.1.fab with groups := s1.fab.groups } }, r.2)
  else multicastHere s p tag .dflt

/-- Sends chunk g to its receiver, or to the group (R165). -/
def sendChunk (s : State) (id : Nat) (x : Launch) (g : Nat) (bs : List Byte) : State :=
  let me := s.fab.index
  let va := x.landAddr g me
  let group := x.coll 4 2
  let q := x.members.getD (g % x.members.length) 0
  (lineParts va x.chunk).foldl (fun s r =>
    let part := (bs.drop (r.1 - va)).take r.2
    if group != 0 then
      match vaPa s x.ctx r.1 true with
      | some pa => (copyMulticast s (chunkPacket s id me pa group part) (chunkTag id)).1
      | none => killLaunch s id
    else if q = me then
      match vaPa s x.ctx r.1 true with
      | some pa => (copyWriteHere s me pa (linePayload pa part)).1
      | none => killLaunch s id
    else if pkgLive s q then sendPacket s (chunkPacket s id q (memberPa x id q r.1) 0 part)
    else s) s

/-- The bytes of a part, local or sent back by its package. -/
def sourceBytes (s : State) (x : Launch) (va n off : Nat) : Option (List Byte) :=
  match x.got.at? off with
  | some (k, v) => some (leBytes k v)
  | none => match readSource s x.ctx va n with
    | .here bs => some bs
    | _ => none

/-- The oldest chunk due is sent, or its peer parts are asked for; a fault fails the launch (R35, R165). The source is read at its home: bytes
that the core of the exited workgroup still holds in level 1 are not written back for it (DESIGN CHOICE, log 134). -/
def flushOne (s : State) (id : Nat) : State :=
  match s.launches.at? id with
  | none => s
  | some x =>
    match x.due with
    | [] => s
    | g :: t =>
      if x.killed then s.modLaunch id (fun x => { x with due := [], asked := [], got := [] })
      else
        let va := x.srcAddr g
        let parts := lineParts va x.chunk
        if parts.any (fun r => match readSource s x.ctx r.1 r.2 with | .fault => true | _ => false) then killLaunch s id
        else match parts.foldl (fun (o : Option (List Byte)) r =>
            o.bind (fun bs => (sourceBytes s x r.1 r.2 (r.1 - va)).map (fun b => bs ++ b))) (some []) with
          | some bs => (sendChunk s id x g bs).modLaunch id (fun x => { x with due := t, asked := [], got := [] })
          | none =>
            parts.foldl (fun s r =>
              if x.asked.contains (r.1 - va) || (x.got.at? (r.1 - va)).isSome then s
              else match readSource s x.ctx r.1 r.2 with
                | .ask q pa =>
                  sendPacket (s.modLaunch id (fun x => { x with asked := (r.1 - va) :: x.asked }))
                    { hdr := mkHdr 0 s.fab.index q 0 0 r.2 pa 0 (sourceTag id (r.1 - va)), payload := [] }
                | _ => s) s

/-- Chunks that have become due are sent (R165). -/
def flushDue (s : State) : State := s.launches.foldl (fun s (e : Nat × Launch) =>
  (List.range e.2.due.length).foldl (fun s _ => flushOne s e.1) s) s

/-- A part of a chunk's source has come back. -/
def sourceAnswer (s : State) (id off n v : Nat) : State :=
  s.modLaunch id (fun x =>
    if x.asked.contains off then { x with asked := x.asked.filter (· != off), got := x.got.put off (n, v) } else x)

/-! ## The reduce block (R166) -/

/-- Chunks and members whose contribution has arrived. -/
def arrivedIn (x : Launch) (c : Nat) : List Nat := x.members.filter (fun p => x.landed.atD (16 * c + p) 0 = x.chunk)

/-- The parts of a launch's results here, each of one line: chunk, virtual address and bytes. -/
def resultParts (s : State) (x : Launch) : List (Nat × Nat × Nat) :=
  (chunksHere s x).flatMap (fun c => (lineParts (x.resultAddr c) x.chunk).map (fun r => (c, r)))

/-- The parts that the reduce block writes next, as one command of at most 256 granules (R69): those of a larger result are written in
several passes, each with its own records (DESIGN CHOICE, log 115). -/
def passParts (s : State) (x : Launch) : List (Nat × Nat × Nat) :=
  let ps := (resultParts s x).drop x.pass
  let gs := ((ps.map (fun p => p.2.1 / 65536)).eraseDups).take 256
  ps.takeWhile (fun p => gs.contains (p.2.1 / 65536))

/-- Level-2 lines of a pass (R67, R68). -/
def passLines (s : State) (x : Launch) : List Nat :=
  ((passParts s x).filterMap (fun p => match vaLeaf s x.ctx p.2.1 true with
    | some (pa, e) => if pteMS e then none else some (pa / 128)
    | none => none)).eraseDups

/-- A core that holds no warp, for a reduce block. -/
def reduceCore (s : State) : Option Nat :=
  (List.range Config.cores).find? (fun c =>
    let y := s.core c
    coreUp s c && y.launch.isNone && y.warps.isEmpty && y.streams.isEmpty)

/-- REDUCE_BLOCK_DISPATCH (R67, R69, R70, R166): the block waits for its records. -/
def execReduceBlockDispatch (launch : Nat) (s : State) : Result :=
  .next (match s.launches.at? launch with
    | none => s
    | some x =>
      if !reduceWaits x || x.killed then s
      else match reduceCore s with
        | none => s
        | some c =>
          let lines := passLines s x
          if !recordsFree s (granulesOf lines) then s
          else
          let s1 := engineStart s c (.reduce launch) true lines
          (s1.modCore c (fun y => { y with launch := some launch })).modLaunch launch (fun x => { x with reduce := c + 2 }))

/-- COLLECTIVE_TIMEOUT (R166, R339): the time-out, which a reproducible launch does not have, or the loss of a member. -/
def execCollectiveTimeout (launch : Nat) (s : State) : Result :=
  .next (match s.launches.at? launch with
    | none => s
    | some x =>
      let ended := decide (x.total ≤ x.next) && x.redo = [] && decide (x.total ≤ x.ended)
      let lost := x.members.any (fun p => !pkgLive s p)
      if x.checked && x.flag 5 && x.reduce = 0 && 0 < x.counter && ((!x.repro && ended) || lost) then
        s.modLaunch launch (fun x => { x with reduceLost := true })
      else s)

/-- An element operation of a collective (R111, R166): type and operation. -/
def reduceOp (op : Nat) : AtomOp × Ty :=
  match op with
  | 1 => (.fadd, .f32)
  | 2 => (.add, .i32)
  | 3 => (.fmax, .f32)
  | _ => (.fadd, .f64)

/-- The elements of a chunk that two contributions reduce to. -/
def reduceBytes (op : Nat) (a b : List Byte) : List Byte :=
  let o := reduceOp op
  let n := o.2.bits / 8
  (List.range (a.length / n)).flatMap (fun i =>
    leBytes n (atomNew o.1 o.2 (leNat ((a.drop (n * i)).take n)) (leNat ((b.drop (n * i)).take n)) 0).1)

/-- The result of chunk c; where no contribution has arrived its bytes are free values (log 2). -/
def reduceChunk (s : State) (x : Launch) (c : Nat) : Option (List Byte) :=
  match arrivedIn x c with
  | [] => some ((List.range (x.chunk / 8)).flatMap (fun i => leBytes 8 (Config.freeBits (2 ^ 40 * s.tick + 2 ^ 15 * c + i)).toNat))
  | p :: ps => ps.foldl (fun r q => r.bind (fun acc =>
      (vaBytes s x.ctx (x.landAddr c q) x.chunk).map (fun b => reduceBytes (x.coll 0 1) acc b)))
      (vaBytes s x.ctx (x.landAddr c p) x.chunk)

/-- Writes n bytes at a virtual address as an engine: in memory, and in level 2 under the page's hint where it may hold the line (R28); none on a
fault, or in a retired frame (R362). Answers the sectors written. -/
def reduceWrite (s : State) (ctx va : Nat) (bs : List Byte) : Option (State × List Nat) :=
  match vaLeaf s ctx va true with
  | none => none
  | some (pa, e) =>
    let s1 := { s with mem := Mem.splice s.mem pa bs }
    if frameLost s (.mem pa) then none
    else some (if pteMS e then s1 else l2Write s1 pa bs.length (effHint .dflt e), sectorsOf pa bs.length)

/-- Writes the parts of chunk c that a pass covers. -/
def reduceChunkParts (x : Launch) (c : Nat) (bs : List Byte) (t : State × List Nat) : List (Nat × Nat × Nat) → Option (State × List Nat)
  | [] => some t
  | p :: ps =>
    if p.1 != c then reduceChunkParts x c bs t ps
    else (reduceWrite t.1 x.ctx p.2.1 ((bs.drop (p.2.1 - x.resultAddr c)).take p.2.2)).bind (fun u =>
      reduceChunkParts x c bs (u.1, addSectors t.2 u.2) ps)

/-- Writes the results of the present pass. -/
def reducePass (s : State) (x : Launch) : Option (State × List Nat) :=
  ((passParts s x).map Prod.fst).eraseDups.foldl (fun r c => r.bind (fun t =>
    (reduceChunk s x c).bind (fun bs => reduceChunkParts x c bs t (passParts s x)))) (some (s, x.wrote))

/-- The present pass owns its lines (R67, R69, R70); none while a home slice lacks a record. -/
def reduceOwn (s : State) (launch : Nat) (x : Launch) : Option State :=
  let lines := passLines s x
  if lines = [] || s.own.any (fun r => r.engine == .reduce launch) then some s
  else if recordsFree s (granulesOf lines) then some (engineStart s (x.reduce - 2) (.reduce launch) true lines)
  else none

/-- REDUCE_BLOCK_DONE (R77, R166): the result chunks, by passes, then the publication and the flags; a fault fails the launch (R35). -/
def execReduceBlockDone (launch : Nat) (s : State) : Result :=
  .next (match s.launches.at? launch with
    | none => s
    | some x =>
      if x.reduce < 2 then s
      else match reduceOwn s launch x with
      | none => s
      | some s0 =>
        let leave (s : State) : State :=
          (freeOwnership s (.reduce launch)).modCore (x.reduce - 2) (fun y => { y with launch := none })
        let status := if x.reduceLost then 3 else 1
        match reducePass s0 x with
        | none => killLaunch ((leave s0).modLaunch launch (fun x => { x with reduce := 1 })) launch
        | some (s1, sec) =>
          let n := x.pass + (passParts s x).length
          if n < (resultParts s x).length then
            (freeOwnership s1 (.reduce launch)).modLaunch launch (fun x => { x with pass := n, wrote := sec })
          else
            let s2 := enginePublish s1 none sec
            let flag (o : Option State) (c : Nat) : Option State := o.bind (fun s =>
              (reduceWrite s x.ctx (x.flagAddr c) (leBytes 4 (x.course % 2 ^ 16 * 2 ^ 16 + status))).map Prod.fst)
            let done (s : State) : State :=
              (leave s).modLaunch launch (fun x => { x with reduce := 1, lost := x.lost || x.reduceLost })
            match (chunksHere s2 x).foldl flag (some s2) with
            | some s3 => done s3
            | none => killLaunch (done s2) launch)

end Sys2Proof.Machine
end

