-- ==== Sys2Proof/Machine/Fabric.lean ====
section
/-! DEFINITION. Packets that arrive: accesses performed for peers (R94, R106 to R111), answers to this package's own (R107, R108),
multicast and relays (R113, R119), and what a lost member leaves (R121 to R123). -/

namespace Sys2Proof.Machine

/-! ## Acceptance (R106, R123) -/

/-- Discards a packet and logs a protocol error at the port its source is reached by (R106, R366). -/
def discard (s : State) (p : Packet) : State :=
  logEvent s 11 ((portsTo s (pkSrc p)).headD 0) (bitsOf p.hdr.toNat 0 96)

/-- Acts on a packet of the given kind: a malformed one, and one whose source is lost, is discarded (R106, R123). -/
def receive (kind : Nat) (p : Packet) (f : State → State) (s : State) : State :=
  if !pkOk p || !pkgLive s (pkSrc p) then discard s p
  else if pkKind p != kind then s
  else f s

/-- n bytes from an address lie in local memory (R27). -/
def inMemory (a n : Nat) : Bool := a + n ≤ Config.memTop

/-! ## What an acknowledgement completes (R94, R107, R119) -/

/-- The bits of a tag that tell its kind apart: one of the eight, or two of them for a controller's job and for a region's digest (log 54). -/
def tagKind (t : Nat) : Nat :=
  match bitsOf t 56 8 with
  | 3 => 8
  | 5 => 9
  | n => Nat.log2 n
def plainTag (t : Nat) : Bool := bitsOf t 56 8 = 0

/-- The core of a copy channel's tag. -/
def tagCore (t : Nat) : Nat := t % 2 ^ 11 / 4

/-- The tag of a forwarded multicast packet: bit 62 and a number (log 54). -/
def fwdTag (n : Nat) : Nat := 2 ^ 62 + n

/-- Lanes of an operation whose request to package q is under way and that travelled with lane l. -/
def sentWith (o : MemOp) (l q : Nat) : List LaneAcc :=
  match o.lanes.find? (fun a => a.lane = l) with
  | none => []
  | some a =>
    let own (b : LaneAcc) : Bool := b.sent && (match b.place with | .peer r _ => r = q | _ => false)
    match o.body with
    | .atomic op t _ _ => o.lanes.filter (fun b => own b && (if combines op t then b.place == a.place else b.lane = l))
    | _ => o.lanes.filter (fun b => own b && peerLine b == peerLine a)

/-- A store, push, `zline` or atomic without a result is acknowledged. -/
def storeAcked (s : State) (id l q : Nat) : State :=
  match s.ops.at? id with
  | none => s
  | some o =>
    let s1 := (sentWith o l q).foldl (fun s a => match o.body with
      | .push => finishPush s id o a
      | .atomic _ _ _ _ => finishAtomic s id o a 0 true
      | .load _ _ _ | .pop => s
      | _ => finishStore s id o a) s
    settleOps s1 o.owner.core

/-- One copy of a multicast store is acknowledged; the lane is done with the last (R119). -/
def copyAcked (s : State) (id l q : Nat) : State :=
  match s.ops.at? id with
  | none => s
  | some o => match o.lanes.find? (fun a => a.lane = l && a.sent) with
    | none => s
    | some a =>
      let m := ackTake a.data.toNat q
      if m = 0 then settleOps (finishStore s id o a) o.owner.core
      else s.modOp id (fun o => { o with lanes := o.lanes.map (fun b =>
        if b.lane = l then { b with data := BitVec.ofNat 256 m } else b) })

/-- An acknowledgement of package q for a tag of this package, but for the forwarded multicasts. -/
def ackOwn (s : State) (q tag : Nat) : State :=
  if plainTag tag then
    match s.ops.at? (tagOp tag) with
    | some o => if o.body == .multicast then copyAcked s (tagOp tag) (tagLane tag) q else storeAcked s (tagOp tag) (tagLane tag) q
    | none => s
  else match tagKind tag with
    | 1 => settleOps (copyAnswer s (tagCore tag) (tag % 4) (tag % 2 ^ 56 / 2 ^ 11) q 0) (tagCore tag)
    | 3 => settleOps { s with cores := s.cores.mapV (fun _ y => { y with engine := { y.engine with
        pending := y.engine.pending.map (fun m => if m.id = tag % 2 ^ 41 then { m with acks := ackTake m.acks q } else m) } }) }
      (tag % 2 ^ 56 / 2 ^ 47)
    | _ => s

/-- A forwarded packet awaits the acknowledgements given still; with none left it is acknowledged upstream (R119). -/
def oweLess (s : State) (n : Nat) (a : OwedAck) (m : Nat) : State :=
  if m = 0 then sendReply { s with fab := { s.fab with owedAcks := s.fab.owedAcks.del n } } a.drained 5 a.up a.tag 0 []
  else { s with fab := { s.fab with owedAcks := s.fab.owedAcks.put n { a with awaits := m } } }

/-- An acknowledgement for a tag: a forwarded packet is acknowledged upstream once every copy is (R119). -/
def ackTag (s : State) (q tag : Nat) : State :=
  if !plainTag tag && tagKind tag = 6 then
    let n := tag % 2 ^ 56
    match s.fab.owedAcks.at? n with
    | none => s
    | some a => oweLess s n a (ackTake a.awaits q)
  else ackOwn s q tag

/-- Answers an access: with a packet, or at once where this package's own copy was held (R71, R116, R119). -/
def answer (s : State) (p : Packet) (kind addr : Nat) (payload : List Byte) : State :=
  if pkSrc p = s.fab.index then ackTag s (pkSrc p) (pkTag p) else sendReplyTo s p kind (pkTag p) addr payload

/-! ## Accesses of peers performed here (R94, R106 to R111) -/

/-- The atomic operation and type of a request, whether it wants the old value, and the operands it carries (log 54). -/
def pkAtomOp (p : Packet) : AtomOp := atomOfCode (bitsOf (pkLen p) 0 8)
def pkTy (p : Packet) : Ty := (Ty.ofCode (BitVec.ofNat 5 (pkMeta p % 16))).getD .b64
def pkReturns (p : Packet) : Bool := (pkLen p).testBit 8
def pkVals (p : Packet) : List Nat := (List.range (bitsOf (pkLen p) 16 16)).map (fun i => leNat ((p.payload.drop (8 * i)).take 8))

/-- The access is to a memory-side page, whose lines no level holds and no engine owns (R28, R68). -/
def pkSide (p : Packet) : Bool := pkGroup p != 0

/-- The line of a request is held by an engine's ownership (R71). -/
def peerHeld (s : State) (p : Packet) : Bool := !pkSide p && lineHeld s (pkAddr p) (pkKind p != 0)

/-- A warp of another member has written a line in the course (R100): it stands under the package and the core and slot of the tag. -/
def notePeer (s : State) (p : Packet) : State :=
  if !s.rep.isOpen || !s.rep.members.getLsbD (pkSrc p) || pkSrc p = s.fab.index then s
  else addWriter s (pkAddr p / 128, 2 ^ 40 + pkSrc p, pkTag p / 2 ^ 41)

/-- Keeps note of a count that another member's population controller raises for a clone (R316), whose tag says so (log 54). -/
def noteRaised (s : State) (p : Packet) : State :=
  if !s.pops.isEmpty && pkKind p = 2 && pkSide p && pkTag p / 2 ^ 56 = 3 && pkAtomOp p == .add && leNat (p.payload.take 8) = 1 then
    { s with fab := { s.fab with raised := s.fab.raised ++ [(pkSrc p, pkAddr p)] } }
  else s

/-- Performs a load, store or atomic of a peer and answers it. The sectors written are published before the acknowledgement (R94). Its
line is recorded at level 2 under the hint default, as a packet carries none (DESIGN CHOICE, log 126); on a memory-side page level 2 holds
none (R28). -/
def servePeer (s : State) (p : Packet) : State :=
  let a := pkAddr p
  match pkKind p with
  | 0 => answer (if pkSide p then s else l2Touch s a .dflt) p 4 a (Mem.bytes s.mem a (pkLen p))
  | 1 =>
    let w := if pkSide p then writePayload (notePeer s p) a p.payload else writeHome (notePeer s p) p .dflt
    answer (publishPkg w.1 (signature w.2)) p 5 a []
  | k =>
    let t := pkTy p
    let n := t.bits / 8
    let old := Mem.rd s.mem a n
    let vs := if k = 2 then [leNat (p.payload.take 8)] else pkVals p
    let nv := if k = 2 then leNat ((p.payload.drop 8).take 8) else 0
    let fin := vs.foldl (fun cur v => (atomNew (pkAtomOp p) t cur v nv).1) old
    let w := (noteRaised (notePeer s p) p).wrMem a n fin
    let s1 := publishPkg (if pkSide p then w else l2Write w a n .dflt) (signature [a / 32])
    if pkReturns p then answer s1 p 4 a (leBytes n old) else answer s1 p 5 a []

/-- An access of a peer arrives at its owner: outside local memory it is a protocol error; at a line that an engine owns it is held
(R71). -/
def peerAccess (p : Packet) (s : State) : State :=
  let n := match pkKind p with | 0 => pkLen p | 1 => 128 - pkAddr p % 128 | _ => (pkTy p).bits / 8
  if !inMemory (pkAddr p) n then discard s p
  else if peerHeld s p then { s with fab := { s.fab with heldHere := s.fab.heldHere ++ [p] } }
  else servePeer s p

/-- Held accesses whose lines have been let go are performed, oldest first (R71). -/
def serveHeld (s : State) : State :=
  s.fab.heldHere.foldl (fun s p =>
    if peerHeld s p then s
    else servePeer { s with fab := { s.fab with heldHere := s.fab.heldHere.erase p } } p) s

/-- LOAD_REQUEST (R107). -/
def execLoadRequest (p : Packet) (s : State) : Result := .next (receive 0 p (peerAccess p) s)

/-- STORE (R94, R106). -/
def execStore (p : Packet) (s : State) : Result := .next (receive 1 p (peerAccess p) s)

/-- ATOMIC (R107, R110). -/
def execAtomic (p : Packet) (s : State) : Result := .next (receive 2 p (peerAccess p) s)

/-- COMBINED_ATOMIC (R111): one read and one write at the owner. -/
def execCombinedAtomic (p : Packet) (s : State) : Result := .next (receive 3 p (peerAccess p) s)

/-! ## Multicast (R119) -/

/-- A multicast packet at this router: its own delivery, held where an engine owns the line (R71), and the copies. It acknowledges
upstream once all of them are acknowledged. -/
def multicastAt (p : Packet) (s : State) : State :=
  let n := s.fresh
  let e := groupEntry s (pkGroup p)
  let here := pkKind p = 6 && e.extractLsb' 18 2 == 3#2
  let hold := here && lineHeld s (pkAddr p) true
  let t := if here then notePeer s.bump p else s.bump
  let owe (r : State × Nat) : State :=
    if r.2 = 0 then sendReplyTo r.1 p 5 (pkTag p) 0 []
    else
      let a : OwedAck := { up := pkSrc p, tag := pkTag p, drained := pkBreakdown p, awaits := r.2 }
      { r.1 with fab := { r.1.fab with owedAcks := r.1.fab.owedAcks.put n a } }
  if e.getLsbD 18 && !inMemory (pkAddr p) 128 then discard s p
  else if hold then
    let s1 := { t with fab := { s.fab with groups := s.fab.groups.put (pkGroup p) (e &&& ~~~(1#32 <<< 18)) } }
    let r := multicastHere s1 p (fwdTag n) .dflt
    let mine : Packet := { p with hdr := mkHdr 1 s.fab.index s.fab.index 0 (pkMeta p) (pkLen p) (pkAddr p) 0 (fwdTag n) }
    owe ({ r.1 with fab := { r.1.fab with groups := s.fab.groups, heldHere := r.1.fab.heldHere ++ [mine] } },
      ackAdd r.2 s.fab.index)
  else owe (if pkKind p = 7 then copyMulticast t p (fwdTag n) else multicastHere t p (fwdTag n) .dflt)

/-- MULTICAST_STORE (R119). -/
def execMulticastStore (p : Packet) (s : State) : Result := .next (receive 6 p (multicastAt p) s)

/-- COPY_WRITE (R119, R165): a copy of a multicast, which has made a hop and whose group may be group 0, or the chunk of a collective sent to
this package alone. -/
def execCopyWrite (p : Packet) (s : State) : Result :=
  .next (receive 7 p (fun s =>
    if pkGroup p != 0 || pkHops p != 0 then multicastAt p s
    else if !inMemory (pkAddr p) (128 - pkAddr p % 128) then discard s p
    else
      let w := copyWriteHere s (pkSrc p) (pkAddr p) p.payload
      sendReplyTo (publishPkg w.1 (signature w.2)) p 5 (pkTag p) 0 []) s)

/-! ## Answers (R107, R108) -/

/-- The value of a `waita` lane's load has come: it is done, or the lane stays parked until its next load (R250). The answer to a load that
the lane no longer awaits is of no effect. -/
def waitAnswer (s : State) (c k id : Nat) (a : LaneAcc) (d : Operand) (t : Ty) (v : Nat) (last : Bool) : State :=
  if (peerLine a).isNone then s
  else if last || waitHolds t a.data v then
    let s1 := s.modOp id (fun o => { o with lanes := o.lanes.map (fun b => if b.lane = a.lane then { b with place := waitPlace } else b) })
    let s2 := waitDone s1 c k a.lane d t a.data v
    match (s2.lane c k a.lane).wait with
    | .waita _ => passOn s2 c k [a.lane]
    | _ => s2
  else s.modOp id (fun o => { o with lanes := o.lanes.map (fun b => if b.lane = a.lane then { b with place := waitPlace } else b) })

/-- The first byte that the request of a set of lanes asked for (R107). -/
def askedFrom (o : MemOp) (ls : List LaneAcc) (n : Nat) : Nat :=
  let lo := (minOf (ls.map (fun b => (accRange o b).2.1))).getD 0
  match o.body with
  | .load _ _ true => if n = 128 then lo / 128 * 128 else lo
  | _ => lo

/-- The bytes of a load have come: its lanes are done, and a `.ro` load fills level 1 (R107, R109). -/
def loadAnswer (s : State) (id q : Nat) (o : MemOp) (a : LaneAcc) (bs : List Byte) : State :=
  match o.body, o.owner, isWaitAcc a with
  | .load d t _, .warp c k, true => waitAnswer s c k id a d t (leNat bs) false
  | _, _, true => s
  | _, _, false =>
    let ls := (sentWith o a.lane q).filter (fun b => !isWaitAcc b)
    let from_ := askedFrom o ls bs.length
    let c := o.owner.core
    let ro := match o.body, o.owner with
      | .load _ _ r, .warp _ _ => r && bs.length = 128 && l1Sets (s.core c) != 0
      | _, _ => false
    let s1 := if ro then l1Fill s c (peerKey q from_) (BitVec.ofNat 1024 (leNat bs)) a.hint else s
    ls.foldl (fun s b =>
      let v := leNat ((bs.drop ((accRange o b).2.1 - from_)).take o.width)
      match o.body with
      | .pop => popReturned s id b.lane v
      | _ => finishLoad s id o b v) s1

/-- The old value of an atomic has come: each lane rebuilds its own, in ascending order (R111). -/
def atomAnswer (s : State) (id q : Nat) (o : MemOp) (a : LaneAcc) (op : AtomOp) (t : Ty) (old : Nat) : State :=
  ((sentWith o a.lane q).foldl (fun (r : State × Nat) b =>
    let n := atomNew op t r.2 (accB b) (accN b)
    (finishAtomic r.1 id o b r.2 n.2, n.1)) (s, old)).1

/-- Lanes, streams and the control core of a core that wait for an instruction line try again. -/
def wakeFetch (s : State) (c : Nat) : State :=
  let go (w : Wait) : Wait := match w with | .walk _ .ifetch _ => .run | w => w
  s.modCore c (fun x => { x with
    warps := x.warps.mapV (fun _ w => { w with lanes := w.lanes.mapV (fun _ l => { l with wait := go l.wait }) })
    streams := x.streams.mapV (fun _ t => { t with wait := go t.wait })
    ctrl := { x.ctrl with wait := go x.ctrl.wait } })

/-- A fetch line has come from its package (R107, R172). -/
def fetchAnswer (s : State) (c q pa : Nat) (bs : List Byte) : State :=
  let key := fetchKey (.peer q pa)
  let l : Line := BitVec.ofNat 512 (leNat bs)
  let again := match (s.core c).icache.at? key with | some o => !parityOk o | none => false
  let add (m : NMap Line) : NMap Line := if !parityOk l && again then (m.put key l).put (key + 2 ^ 60) l else m.put key l
  let s1 := s.modCore c (fun x => { x with icache := add x.icache, fetches := x.fetches.filter (fun k => k != key) })
  finalizeAll (wakeFetch s1 c)

/-- A warp that waits for lines of peer packages tries again once all have come; so does what waited for a free request (R108). -/
def wakeEngine (s : State) (c k : Nat) : State :=
  let s1 := wakeDrain s c
  if slotAsked s1 c k != [] then s1 else wakeAll s1 c k (waiting s1 c k (fun w => w == .engine))

/-- A line of a tile fetch has come. -/
def tileAnswer (s : State) (n : Nat) (bs : List Byte) : State :=
  match s.cores.find? (fun e => (e.2.engine.asked.at? n).isSome) with
  | none => s
  | some (c, y) =>
    let key := y.engine.asked.atD n 0
    wakeEngine (s.modEngine c (fun e => { e with
      asked := e.asked.del n, lines := e.lines.put key (BitVec.ofNat 1024 (leNat bs)) })) c (key / 2 ^ 56)

/-- A wait word has come (R151). -/
def wordAnswer (s : State) (id i v : Nat) : State :=
  s.modLaunch id (fun y =>
    let x := { y with polls := y.polls.filter (· != i) }
    if x.waitMin i ≤ v && !x.checked then { x with waits := x.waits ||| (1#4 <<< i) } else x)

/-- The tag of a read for a region's digest (R338, log 54). -/
def regionTag : Nat := 5 * 2 ^ 56

/-- Bytes of a region have come. -/
def regionAnswer (s : State) (bs : List Byte) : State :=
  { s with rep := { s.rep with opening := s.rep.opening.map (fun o => match o.asked with
      | some _ => { o with bytes := o.bytes ++ bs, asked := none }
      | none => o) } }

/-- What a load reply completes, by its tag (R107, log 54). -/
def replyTag (s : State) (p : Packet) : State :=
  let tag := pkTag p
  let q := pkSrc p
  let v := leNat p.payload
  if plainTag tag then
    match s.ops.at? (tagOp tag) with
    | none => s
    | some o => match o.lanes.find? (fun a => a.lane = tagLane tag && a.sent) with
      | none => s
      | some a =>
        let s1 := match o.body with
          | .atomic op t _ _ => atomAnswer s (tagOp tag) q o a op t v
          | _ => loadAnswer s (tagOp tag) q o a p.payload
        settleOps (finalizePops s1 (tagOp tag)) o.owner.core
  else match tagKind tag with
    | 0 => wakeDrain (fetchAnswer s (tag % 2 ^ 56) q (pkAddr p) p.payload) (tag % 2 ^ 56)
    | 1 => wakeDrain (copyAnswer s (tagCore tag) (tag % 4) (tag % 2 ^ 56 / 2 ^ 11) q v) (tagCore tag)
    | 8 => jobAnswer s (tag % 2 ^ 56) v
    | 9 => regionAnswer s p.payload
    | 2 => tileAnswer s (tag % 2 ^ 41) p.payload
    | 4 => wordAnswer s (tag % 2 ^ 56 / 4) (tag % 4) v
    | 7 => sourceAnswer s (tag % 2 ^ 63 / 2 ^ 18) (tag % 2 ^ 18) p.payload.length v
    | _ => s

/-- LOAD_REPLY (R107, R108). -/
def execLoadReply (p : Packet) (s : State) : Result := .next (receive 4 p (fun s => replyTag s p) s)

/-- ACKNOWLEDGEMENT (R94). -/
def execAcknowledgement (p : Packet) (s : State) : Result := .next (receive 5 p (fun s => ackTag s (pkSrc p) (pkTag p)) s)

/-- INVALID_PACKET (R106): discarded and logged; a packet that is none stays for the event of its kind. -/
def execInvalidPacket (p : Packet) (s : State) : Result := .next (if pkOk p then s else discard s p)

/-! ## Relays and links (R105, R112, R113, R116) -/

/-- The packet of a detour on its second hop: the relayed bit is set and this package is named as the relay (R106). -/
def relayed (s : State) (p : Packet) : Packet :=
  { p with hdr := (p.hdr &&& ~~~(0xF#256 <<< 16)) ||| BitVec.ofNat 256 (64 + 2 ^ 16 * s.fab.index) }

/-- Sends a packet on a direct link; none while none is up (R113, R116). -/
def direct (s : State) (p : Packet) : Option State :=
  match portsTo s (pkDst p) with
  | q :: _ => some { s with fab := { s.fab with sent := (q, p) :: s.fab.sent } }
  | [] => none

/-- Forwards a packet on a direct link, as the second hop of its detour; none while no direct link is up (R113). -/
def forward (s : State) (p : Packet) : Option State := direct s (relayed s p)

/-- RELAYED_PACKET (R113): a packet that comes in by a port is forwarded, held at that input while no direct link is up, or dropped where
its destination is lost. -/
def execRelayedPacket (a : Arrival) (s : State) : Result :=
  let p := a.packet
  .next (if !pkOk p || !pkgLive s (pkSrc p) then discard s p
    else if pkDst p = s.fab.index || !pkgLive s (pkDst p) then s
    else match forward s p with
      | some t => t
      | none => { s with fab := { s.fab with inputs := s.fab.inputs.put a.port (s.fab.inputs.atD a.port [] ++ [p]) } })

/-- The packet at the head of a router input (R114). -/
def headOf (s : State) (i : Nat) : Option Packet := (if i = 18 then s.fab.stalled else s.fab.inputs.atD i []).head?

/-- An input whose head has moved is no longer suspect, and its hold timer starts anew (R114). -/
def settleInputs (before s : State) : State :=
  (List.range 19).foldl (fun (s : State) i =>
    if headOf before i == headOf s i then s
    else { s with fab := { s.fab with suspect := s.fab.suspect &&& ~~~(1#19 <<< i), since := s.fab.since.put i s.tick } }) s

/-- Packets that wait for a route try again (R112, R113, R116). -/
def retryWaiting (s : State) : State :=
  let s1 := s.fab.stalled.foldl (fun s p => sendPacket s p) { s with fab := { s.fab with stalled := [] } }
  let s2 := s1.fab.inputs.foldl (fun (s : State) (e : Nat × List Packet) =>
    e.2.foldl (fun s p => match forward s p with
      | some t => { t with fab := { t.fab with inputs := t.fab.inputs.upd e.1 (fun l => l.erase p) } }
      | none => s) s) s1
  s2.fab.breakdown.foldl (fun s b => match direct s b.2 with
    | some t => { t with fab := { t.fab with breakdown := t.fab.breakdown.erase b } }
    | none => s) (settleInputs s s2)

/-- LINK_DOWN (R105): a port that has a link. -/
def execLinkDown (port : Nat) (s : State) : Result :=
  .next { s with fab := { s.fab with up := s.fab.up &&& ~~~(1#18 <<< port) } }

/-- LINK_UP (R112). -/
def execLinkUp (port : Nat) (s : State) : Result :=
  .next (if s.fab.linked.getLsbD port then retryWaiting { s with fab := { s.fab with up := s.fab.up ||| (1#18 <<< port) } } else s)


/-- ROUTER_HOLD_TIMEOUT (R114): the input becomes suspect while it holds a packet; input 18 is what waits at the source. -/
def execRouterHoldTimeout (input : Nat) (s : State) : Result :=
  .next (if (if input = 18 then s.fab.stalled != [] else s.fab.inputs.atD input [] != []) then
      { s with fab := { s.fab with suspect := s.fab.suspect ||| (1#19 <<< input) } }
    else s)

/-! ## The recovery token (R115, R116) -/

/-- The next live package in ascending index, wrapping. -/
def nextLive (s : State) : Option Nat :=
  ((List.range 15).map (fun i => (s.fab.index + 1 + i) % 16)).find? (fun q => pkgLive s q)

/-- Drains the head packet of a suspect input into the breakdown lane, if its reserved buffer there is free; the move resets the input's
timer (R114 to R116). A relay sends it on as the second hop of its detour. -/
def drainInput (s : State) (i : Nat) : State :=
  let q := if i = 18 then s.fab.stalled else s.fab.inputs.atD i []
  match q with
  | [] => { s with fab := { s.fab with suspect := s.fab.suspect &&& ~~~(1#19 <<< i) } }
  | p :: t =>
    let b : Packet := let y := if i = 18 then p else relayed s p
      { y with hdr := y.hdr ||| 32 }
    let s1 := { s with fab := { s.fab with
      suspect := s.fab.suspect &&& ~~~(1#19 <<< i), drained := (s.fab.drained + 1) % 2 ^ 32
      stalled := if i = 18 then t else s.fab.stalled
      inputs := if i = 18 then s.fab.inputs else s.fab.inputs.put i t } }
    match direct s1 b with
    | some u => u
    | none =>
      if bufferFree s i p then { s1 with fab := { s1.fab with breakdown := s1.fab.breakdown ++ [(i, b)] } }
      else s

/-- Inputs in the order of their heads' age, the one held longest first (R115). -/
def inputsByAge (s : State) : List Nat := sortBy (fun i => s.fab.since.atD i 0) (List.range 19)

/-- Sends a token or a notice on a direct link, or keeps it in its own buffer until one is up (R115, R121). -/
def sendOwn (s : State) (p : Packet) : State :=
  match direct s p with
  | some t => t
  | none => { s with fab := { s.fab with breakdown := s.fab.breakdown ++ [(19, p)] } }

/-- Passes the token on to the next live package; the packet of kind 8 carries the epoch in its tag (R115). -/
def passOnToken (s : State) (epoch : Nat) : State :=
  match nextLive s with
  | none => s
  | some q => sendOwn s { hdr := mkHdr 8 s.fab.index q 0 0 0 0 0 epoch, payload := [] }

/-- The token is here: a suspect router drains, the oldest packets first, then passes it on (R115). -/
def tokenHere (s : State) (epoch : Word) : State :=
  passOnToken ((inputsByAge s).foldl (fun s i => if s.fab.suspect.getLsbD i then drainInput s i else s)
    { s with fab := { s.fab with epoch := epoch } }) epoch.toNat

/-- RECOVERY_TOKEN (R115): the packet of kind 8, which carries the epoch in its tag. A token of an older epoch is discarded; none
circulates in a span of one (R104), and one from a lost package is discarded and logged (R123). -/
def execRecoveryToken (p : Packet) (s : State) : Result :=
  .next (receive 8 p (fun s =>
    let epoch : Word := BitVec.ofNat 32 (pkTag p)
    if epoch.toNat < s.fab.epoch.toNat || s.fab.size ≤ 1 then s else tokenHere s epoch) s)

/-- TOKEN_REISSUE (R115): by the lowest live package. -/
def execTokenReissue (s : State) : Result :=
  .next (if 1 < s.fab.size && (membersIn s.fab.live.toNat).head? = some s.fab.index then tokenHere s (s.fab.epoch + 1) else s)

/-! ## A lost member (R96, R121, R122) -/

/-- Lanes of an operation that the lost package owed an answer complete (R96, R122). -/
def loseOp (q : Nat) (s : State) (id : Nat) : State :=
  match s.ops.at? id with
  | none => s
  | some o =>
    let owed := o.lanes.filter (fun a => a.sent && (match a.place with | .peer r _ => r = q | _ => false))
    let s1 := owed.foldl (fun s a => match o.body, o.owner, isWaitAcc a with
      | .load d t _, .warp c k, true => waitAnswer (setLost s o.owner q) c k id a d t 0 true
      | .pop, _, _ => if popBack a then s else finishLost s id o a q
      | _, _, _ => finishLost s id o a q) s
    let s2 := if o.body == .multicast then
        o.lanes.foldl (fun s a =>
          let m := ackDrop a.data.toNat q
          if !a.sent || m = a.data.toNat then s
          else
            let s1 := setLost s o.owner q
            if m = 0 then finishStore s1 id o a
            else s1.modOp id (fun o => { o with lanes := o.lanes.map (fun b =>
              if b.lane = a.lane then { b with data := BitVec.ofNat 256 m } else b) })) s1
      else s1
    settleOps (finalizePops s2 id) o.owner.core

/-- A copy command that the lost package owed goes on (R96, R122). -/
def loseCopy (q : Nat) (s : State) (c ch : Nat) : State :=
  match (s.chan c ch).cmd with
  | none => s
  | some x =>
    match x.flight with
    | none => s
    | some 0 =>
      match (resolveNow s (copyWho c x) { kind := .copy, write := false, odd := true, width := 4 } (x.spot x.prog).2.1).2 with
      | .ok (.peer r _) _ => if r = q then copyAnswer (setLost s (warpOwner s x.wg x.warpid) q) c ch (s.chan c ch).seq.toNat q 0 else s
      | _ => s
    | some n =>
      if ackDrop n q = n then s
      else
        let s1 := setLost s (warpOwner s x.wg x.warpid) q
        if ackDrop n q = 0 then copyAdvance s1 c ch else s1.modCmd c ch (fun x => { x with flight := some (ackDrop n q) })

/-- Matrix operations and tile fetches of a core that the lost package owed (R96, R122). -/
def loseEngine (q : Nat) (s : State) (c : Nat) : State :=
  let e := (s.core c).engine
  let hit := e.pending.filter (fun m => ackDrop m.acks q != m.acks)
  let s1 := hit.foldl (fun s m => setLost s (warpOwner s m.wg m.warpid) q) s
  let s2 := s1.modEngine c (fun e => { e with
    pending := e.pending.map (fun m => { m with acks := ackDrop m.acks q })
    asked := e.asked.filterV (fun _ key => key % 2 ^ 55 / 2 ^ 45 != q + 1) })
  let gone := ((e.asked.filterV (fun _ key => key % 2 ^ 55 / 2 ^ 45 = q + 1)).map (fun (x : Nat × Nat) => x.2 / 2 ^ 56)).eraseDups
  let s3 := gone.foldl (fun s k => wakeEngine s c k) s2
  let s4 := s3.modCore c (fun x => { x with fetches := x.fetches.filter (fun key => key / 2 ^ 50 != q + 1) })
  wakeFetch ((s4.core c).warps.foldl (fun s (w : Nat × Warp) => w.2.lanes.foldl (fun s (l : Nat × Lane) =>
    match l.2.wait.fetching with | some va => noteFetch s c w.1 va | none => s) s) s4) c

/-- Forwarded multicast packets: the lost package's copies count as acknowledged (R122). -/
def loseForwards (q : Nat) (s : State) : State :=
  s.fab.owedAcks.foldl (fun (s : State) (e : Nat × OwedAck) =>
    if e.2.up = q then { s with fab := { s.fab with owedAcks := s.fab.owedAcks.del e.1 } }
    else if ackDrop e.2.awaits q = e.2.awaits then s
    else oweLess s e.1 e.2 (ackDrop e.2.awaits q)) s

/-- A collective that includes the lost package ends with what has arrived, unless every contribution had (R122, R166). -/
def loseCollective (q : Nat) (x : Launch) : Launch :=
  if x.checked && x.flag 5 && x.members.contains q && x.reduce = 0 && 0 < x.counter then { x with reduceLost := true } else x

/-- DECLARES A PACKAGE LOST (R121 to R123): its live bit is cleared and logged, its packets here are discarded, a token on its way there
goes to the next live package, and everything that it owed completes. -/
def declareLost (s : State) (q : Nat) : State :=
  if q = s.fab.index || !pkgLive s q then s
  else
    let keep (l : List Packet) : List Packet := l.filter (fun p => pkDst p != q && pkSrc p != q)
    let waits := s.fab.stalled ++ s.fab.inputs.flatMap (fun (e : Nat × List Packet) => e.2) ++ s.fab.breakdown.map Prod.snd ++ s.fab.heldHere
    let s1 := { s with fab := { s.fab with
      live := s.fab.live &&& ~~~(1#16 <<< q)
      stalled := keep s.fab.stalled, inputs := s.fab.inputs.mapV (fun _ l => keep l)
      breakdown := s.fab.breakdown.filter (fun b => pkDst b.2 != q && pkSrc b.2 != q)
      heldHere := s.fab.heldHere.filter (fun p => pkSrc p != q)
      raised := s.fab.raised.filter (fun e => e.1 != q) } }
    let s2 := (waits.filter (fun p => pkSrc p = q)).foldl discard (logEvent s1 10 ((portsTo s q).headD 0) q)
    let tokens := (s.fab.breakdown.map Prod.snd).filter (fun p => pkKind p = 8 && pkDst p = q)
    let s3 := settleInputs s (tokens.foldl (fun s p => passOnToken s (pkTag p)) s2)
    let s4 := if s3.rep.isOpen && s3.rep.members.getLsbD q then { s3 with rep := { s3.rep with memberLost := true } } else s3
    let s5 := s4.ops.foldl (fun s (e : Nat × MemOp) => loseOp q s e.1) s4
    let s6 := s5.cores.foldl (fun s (e : Nat × Core) =>
      loseEngine q ((List.range 4).foldl (fun s ch => loseCopy q s e.1 ch) s) e.1) s5
    let s7 := match s6.rep.opening.bind RunOpen.asked with
      | some (p, n) => if p = q then regionAnswer (loseForwards q s6) (List.replicate n 0) else loseForwards q s6
      | none => loseForwards q s6
    finalizeAll { s7 with
      jobs := s7.jobs.mapV (fun _ j => loseJob q j)
      launches := s7.launches.mapV (fun _ x => { loseCollective q x with asked := [], polls := [] }) }

/-- Sends a loss notice to every other live package; the packet of kind 9 carries the lost package in its tag (R121). -/
def sendNotices (s : State) (q : Nat) : State :=
  ((List.range 16).filter (fun d => d != s.fab.index && pkgLive s d)).foldl (fun s d =>
    sendOwn s { hdr := mkHdr 9 s.fab.index d 0 0 0 0 0 q, payload := [] }) s

/-- This package is the first to declare a loss. -/
def declareFirst (s : State) (q : Nat) : State :=
  if q = s.fab.index || !pkgLive s q then s else sendNotices (declareLost s q) q

/-- LOSS_NOTICE (R121): the packet of kind 9, which carries the lost package in its tag; one from a lost package is discarded and logged
(R123). -/
def execLossNotice (p : Packet) (s : State) : Result := .next (receive 9 p (fun s => declareLost s (pkTag p)) s)

/-- LOSS_TIMEOUT (R121): the interval of FXLOSS is timing (log 8). -/
def execLossTimeout (pkg : Nat) (s : State) : Result := .next (declareFirst s pkg)

/-- FATAL_ERROR_REPORT (R121). -/
def execFatalErrorReport (pkg : Nat) (s : State) : Result := .next (declareFirst s pkg)

/-! ## The group table (R118, R120, R124) -/

/-- Copies of multicast packets that wait here to be sent, without their breakdown bit (R119, R120). -/
def copiesWaiting (s : State) : List Packet :=
  ((s.fab.stalled ++ s.fab.breakdown.map Prod.snd).filter (fun p => (pkKind p = 6 || pkKind p = 7) && pkHops p != 0)).map
    (fun p => { p with hdr := p.hdr &&& ~~~(32#256) })

/-- FXMCDATA_WRITE: refused where a reserved bit or a port without a link is set, and ignored while busy. -/
def execFxmcdataWrite (v : DWord) (s : State) : Result :=
  let e : Word := v.setWidth 32
  let bad := e.extractLsb' 20 12 != 0 || (List.range 18).any (fun q => e.getLsbD q && !s.fab.linked.getLsbD q)
  .next (if s.fab.mcBusy || bad then { s with fab := { s.fab with mcErr := true } }
    else { s with fab := { s.fab with
      mcErr := false, mcBusy := true, groups := s.fab.groups.putD s.fab.mcIdx.toNat e 0
      mcOld := (copiesWaiting s).filter (fun p => pkGroup p = s.fab.mcIdx.toNat) } })

/-- MC_UPDATE_DONE (R120): every copy made under the old entry has been sent. -/
def execMcUpdateDone (s : State) : Result :=
  .next (if s.fab.mcOld.any (fun p => (copiesWaiting s).contains p) then s
    else { s with fab := { s.fab with mcBusy := false, mcOld := [] } })

end Sys2Proof.Machine
end

