-- ==== Sys2Proof/Machine/Xlate.lean ====
section
/-! DEFINITION. The end of a page walk (R33), invalidation (R30, R31), and the answers of the fault queue (R36, R38 to R40). -/

namespace Sys2Proof.Machine

/-! ## Walks (R33) -/

/-- Lanes of a warp that wait for a walk that a test names; a wait for an instruction line is another package's to end. -/
def walkers (s : State) (c k : Nat) (p : Nat → Bool) : List Nat :=
  waiting s c k (fun w => match w with | .walk va kind _ => kind != .ifetch && p va.toNat | _ => false)

/-- The lowest of the lanes' accesses: address, kind and whether it writes. -/
def walkOf (s : State) (c k : Nat) (ls : List Nat) : Nat × AccKind × Bool :=
  match ls with
  | l :: _ => match (s.lane c k l).wait with
    | .walk va kind w => (va.toNat, kind, w)
    | _ => (0, .load, false)
  | [] => (0, .load, false)

/-- A walk that ended in a fault: the lanes of a warp join its record, or take the precise trap (R35, R36). -/
def walkFails (s : State) (c k cause : Nat) (ls : List Nat) : State :=
  let a := walkOf s c k ls
  let va := BitVec.ofNat 64 a.1
  if replayable s a.2.1 cause then
    let j := joinFault s va (s.ctxOf c k) c cause a.2.1 a.2.2 (maskOf ls)
    parkAll j.1 c k ls (.fault j.2 a.2.1)
  else
    deliverKilled (parkAll s c k ls (.killed cause va)) c k

/-- A leaf grants every access of a context on a core that waits for a walk of the granule of an address (R32). -/
def walkGrants (s : State) (c ctx va : Nat) (e : Nat) : Bool :=
  !(s.core c).warps.anyV (fun k _ => s.ctxOf c k = ctx && (walkers s c k (fun a => a / 65536 = va / 65536)).any (fun l =>
    match (s.lane c k l).wait with
    | .walk a _ w => (leafFault s a.toNat e w false).isSome
    | _ => false))

/-- TRANSLATION_WALK_DONE (R33): the translation caches are filled and the accesses replay, or the fault is raised. -/
def execTranslationWalkDone (core ctx : Nat) (va : DWord) (s : State) : Result :=
  let r := translateNow s core ctx va.toNat (walkGrants s core ctx va.toNat)
  let ws := ((s.core core).warps.filterV (fun k _ => s.ctxOf core k = ctx)).map Prod.fst
  .next (match r.2 with
    | .leaf _ bits => ws.foldl (fun s k => wakeAll s core k (walkers s core k (fun a => a / 2 ^ bits = va.toNat / 2 ^ bits))) r.1
    | .fault f => ws.foldl (fun s k =>
        let ls := walkers s core k (fun a => a / 65536 = va.toNat / 65536)
        if ls = [] then s else walkFails s core k f ls) r.1)

/-! ## Invalidation (R30, R31) -/

/-- The fields of an XLINV command (R30). -/
def invKind (v : DWord) : Nat := bitsOf v.toNat 1 2
def invCtx (v : DWord) : Nat := bitsOf v.toNat 3 8
def invGranule (v : DWord) : Nat := bitsOf v.toNat 16 36

/-- A cached translation is one that a command names. -/
def invHits (v : DWord) (e : TlbEntry) : Bool :=
  match invKind v with
  | 0 => e.ctx = invCtx v && e.page = invGranule v * 65536 / 2 ^ e.bits
  | 1 => e.ctx = invCtx v
  | _ => true

/-- A walk-cache entry is one that a command names; kind 00 names every entry that covers its granule (R30). -/
def invHitsWalk (v : DWord) (e : WalkEntry) : Bool :=
  match invKind v with
  | 0 => e.ctx = invCtx v && e.page = invGranule v * 65536 / 2 ^ e.bits
  | 1 => e.ctx = invCtx v
  | _ => true

/-- Drops every entry that a command names. -/
def invDrop (s : State) (v : DWord) : State :=
  { s with
    xl := { s.xl with
      dieTlb := s.xl.dieTlb.mapV (fun _ t => t.filter (fun e => !invHits v e))
      walks := s.xl.walks.mapV (fun _ t => t.filter (fun e => !invHitsWalk v e)) }
    cores := s.cores.mapV (fun _ x => { x with tlb := x.tlb.filter (fun e => !invHits v e) }) }

/-- A write of XLINV of the given kind, or of the reserved kind (R30). A write with go 0 is ignored without error even while busy (DESIGN
CHOICE, log 107: the go row says ignored, the last sentence of R30 says error). -/
def xlinv (kind : Nat) (v : DWord) (s : State) : State :=
  let bad := { s with xl := { s.xl with invErr := true } }
  if invKind v != kind && invKind v != 3 then s
  else if !v.getLsbD 0 then s
  else if s.xl.invBusy || invKind v = 3 || bitsOf v.toNat 52 12 != 0 || bitsOf v.toNat 11 5 != 0 then bad
  else invDrop { s with xl := { s.xl with invErr := false, invBusy := true, invCmd := some v } } v

/-- XLINV_GRANULE (R30). -/
def execXlinvGranule (cmd : DWord) (s : State) : Result := .next (xlinv 0 cmd s)

/-- XLINV_CONTEXT (R30). -/
def execXlinvContext (cmd : DWord) (s : State) : Result := .next (xlinv 1 cmd s)

/-- XLINV_ALL (R30). -/
def execXlinvAll (cmd : DWord) (s : State) : Result := .next (xlinv 2 cmd s)

/-- The context of an operation in flight. -/
def ownerCtx (s : State) (o : Owner) : Nat :=
  let of (id : Nat) : Nat := match s.launches.at? id with | some x => x.ctx | none => 0
  match o with
  | .warp c k => s.ctxOf c k
  | .control c => s.ctxOf c ctrlSlot
  | .stream c k => match (s.core c).streams.at? k with | some t => of t.launch | none => 0
  | .saved g _ _ _ => match s.wgs.at? g with | some x => of x.launch | none => 0
  | .savedStream g _ _ => match s.wgs.at? g with | some x => of x.launch | none => 0

/-- A wait for an instruction line, or a tile line, of a peer package. -/
def Wait.asksLine : Wait → Bool
  | .walk _ kind _ => kind == .ifetch
  | _ => false

/-- A core's engines and fetches have accesses in flight in a context that a test names: chunks of copy commands, tile lines asked for,
write-backs that await acknowledgements, and instruction lines asked for (R31). -/
def coreAsks (s : State) (y : Core) (hit : Nat → Bool) : Bool :=
  let mine : Bool := match y.launch with
    | some id => match s.launches.at? id with | some x => hit x.ctx | none => true
    | none => true
  y.chans.anyV (fun _ z => match z.cmd with | some x => x.flight.isSome && hit x.ctx | none => false) ||
    (mine && (!y.engine.asked.isEmpty || y.engine.pending.any (fun m => m.acks != 0) ||
      y.warps.anyV (fun _ w => w.lanes.anyV (fun _ l => l.wait.asksLine)) || y.streams.anyV (fun _ t => t.wait.asksLine))) ||
    (hit y.ctrl.ctx && y.ctrl.wait.asksLine)

/-- Every access that was translated in the command's context has been performed: those of collectives, of the dispatcher's polls, of the
population controller and of a run being opened among them (R31). -/
def invQuiet (s : State) (v : DWord) : Bool :=
  let hit (ctx : Nat) : Bool := invKind v = 2 || ctx = invCtx v
  !s.ops.anyV (fun _ o => hit (ownerCtx s o.owner) &&
      o.lanes.any (fun a => match a.place with | .debug _ _ => false | _ => true)) &&
    !s.cores.anyV (fun _ y => coreAsks s y hit) && !s.launches.anyV (fun _ x => hit x.ctx && (x.asked != [] || x.polls != [])) &&
    !s.jobs.anyV (fun _ j => hit j.ctx && j.asked.isSome) && !s.rep.opening.any (fun o => o.asked.isSome)

/-- XLINV_COMPLETE (R31): a walk ends in the step that starts it, so none is under way. -/
def execXlinvComplete (s : State) : Result :=
  .next (match s.xl.invCmd with
    | none => s
    | some v =>
      if !invQuiet s v then s
      else
        let s1 := invDrop s v
        { s1 with xl := { s1.xl with invBusy := false, invCmd := none } })

/-! ## Answers (R38, R39, R358) -/

/-- The outstanding record in a slot of the ring. -/
def recordAt (s : State) (idx : Nat) : Option FaultRec := s.xl.faults.find? (fun r => r.slot = some idx)

/-- The record is answered: its slot is free, and faults that wait in their die may be written (R36, R38). -/
def answered (s : State) (id : Nat) : State :=
  let s1 := { s with xl := { s.xl with faults := s.xl.faults.filter (fun r => r.id != id) } }
  writeFaults s1 s1.xl.faults.length

/-- The wait is for the answer to a record. -/
def Wait.onRecord (id : Nat) : Wait → Bool
  | .fault n _ => n = id
  | _ => false

/-- A stream parked on the record whose workgroup has ended goes with its answer (R358). -/
def endOrphans (s : State) (id : Nat) : State :=
  let gone (x : Stream) : Bool := x.wait.onRecord id && (s.wgs.at? x.wg).isNone
  let cs := (s.cores.filterV (fun _ y => y.streams.anyV (fun _ t => gone t))).map Prod.fst
  cs.foldl (fun s c => freeCore (s.modCore c (fun y => { y with streams := y.streams.filterV (fun _ t => !gone t) })) c) s

/-- Lanes parked on a record, by core and slot. -/
def parkedOn (s : State) (id : Nat) : List (Nat × Nat × List Nat) :=
  s.cores.flatMap (fun (e : Nat × Core) => e.2.warps.filterMap (fun (w : Nat × Warp) =>
    let ls := waiting s e.1 w.1 (Wait.onRecord id)
    if ls = [] then none else some (e.1, w.1, ls)))

/-- Streams parked on a record, by core and slot. -/
def streamsOn (s : State) (id : Nat) : List (Nat × Nat) :=
  s.cores.flatMap (fun (e : Nat × Core) => (e.2.streams.filterV (fun _ t => t.wait.onRecord id)).map (fun (t : Nat × Stream) => (e.1, t.1)))

/-- Copy channels parked on a record. -/
def copiesOn (s : State) (id : Nat) : List (Nat × Nat × CopyCmd) :=
  s.cores.flatMap (fun (e : Nat × Core) => e.2.chans.filterMap (fun (y : Nat × Chan) => match y.2.cmd with
    | some x => if x.parked = some id then some (e.1, y.1, x) else none
    | none => none))

/-- Saved warps and streams parked on a record go on when they are restored. -/
def wakeSaved (s : State) (id : Nat) : State :=
  let go (w : Wait) : Wait := if w.onRecord id then .run else w
  { s with wgs := s.wgs.mapV (fun _ g => { g with saved := g.saved.map (fun v => { v with
      warps := v.warps.map (fun (w : Warp) => { w with lanes := w.lanes.mapV (fun _ l => { l with wait := go l.wait }) })
      stream := v.stream.map (fun t => { t with wait := go t.wait }) }) }) }

/-- FQRESUME_RESUME (R38): every waiter on the record replays from its point. -/
def execFqresumeResume (idx : BitVec 12) (s : State) : Result :=
  .next (match recordAt s idx.toNat with
    | none => s
    | some r =>
      let s1 := endOrphans (answered s r.id) r.id
      let s2 := (parkedOn s1 r.id).foldl (fun s e => wakeAll s e.1 e.2.1 e.2.2) s1
      let s3 := (streamsOn s2 r.id).foldl (fun s e => s.modStream e.1 e.2 (fun t => { t with wait := .run })) s2
      let s4 := (copiesOn s3 r.id).foldl (fun s e => s.modCmd e.1 e.2.1 (fun x => { x with parked := none })) s3
      wakeSaved s4 r.id)

/-- An access of the engine that an instruction commands, as which a parked instruction replays: a matrix instruction's fetch or write-back,
or a copy command's destination at its acceptance (R35, R39). -/
def AccKind.ofEngine : AccKind → Bool
  | .tileFetch | .writeBack | .copy => true
  | _ => false

/-- The access kind that a lane parked on a record replays as. -/
def Wait.faultKind : Wait → AccKind
  | .fault _ kind => kind
  | _ => .load

/-- A parked warp takes the fatal translation trap with the record's cause, or owes it while it stands stopped; an engine's command is
killed, and its warp goes on behind it (R38, R39). Which address of the granule the waiter named is log 67. -/
def killWarp (r : FaultRec) (s : State) (c k : Nat) (ls : List Nat) : State :=
  let kind := (s.lane c k (ls.headD 0)).wait.faultKind
  if kind.ofEngine then
    let s1 := (passOn (freeKept s c k) c k ls).modWarp c k (fun w =>
      { w with owed := w.owed ++ [(Cause.translation, r.cause + 16 * agentCode kind, r.va)] })
    deliverOwed s1 c k
  else deliverKilled (parkAll s c k ls (.killed r.cause r.va)) c k

/-- What a kill does to a saved warp: its trap is kept for its restore, with LANES and DONE 0 behind a matrix instruction, whose command
is killed; a warp that stands stopped already owes the trap (R39, R331, R332). -/
def killSavedWarp (r : FaultRec) (wg : Nat) (queue : Nat) (w : Warp) : Warp × List (Nat × TrapRec) :=
  let hit := w.present.filter (fun l => (w.lanes.atD l Lane.never).wait.onRecord r.id)
  match hit with
  | [] => (w, [])
  | l :: _ =>
    let x := w.lanes.atD l Lane.never
    let kind := x.wait.faultKind
    let stop (w : Warp) (pc : DWord) (done lanes : Word) (detail : Nat) : Warp × List (Nat × TrapRec) :=
      ({ w with trapped := true, cause := Cause.translation, trapPc := pc, dmask := done, stepping := none },
        [(w.warpid, { pc := pc, cause := Cause.translation, slot := 0, done := done, lanes := lanes, wg := wg, warp := w.warpid,
                      queue := queue, detail := detail, imm := 0, addr := r.va, seq := 0 })])
    if kind.ofEngine then
      let detail := r.cause + 16 * agentCode kind
      let w1 : Warp := { w with
        row := 0, keeps := none
        lanes := hit.foldl (fun ls m => ls.upd m (fun y => { y with pc := nextPc y.pc, wait := .run })) w.lanes }
      if w.trapped then ({ w1 with owed := w.owed ++ [(Cause.translation, detail, r.va)] }, [])
      else stop w1 (w1.lanes.atD (w1.present.headD 0) Lane.never).pc 0 0 detail
    else
      let same := hit.filter (fun m => (w.lanes.atD m Lane.never).pc = x.pc)
      let w1 : Warp := { w with lanes := hit.foldl (fun ls m => ls.upd m (fun y =>
        { y with wait := if !w.trapped && same.contains m then .run else .killed r.cause r.va })) w.lanes }
      if w.trapped then (w1, []) else stop w1 x.pc w.doneMask (maskOf same) r.cause

/-- A saved stream keeps its trap likewise, or owes it while it stands stopped (R325, R332). -/
def killSavedStream (r : FaultRec) (wg : Nat) (queue : Nat) (t : Stream) : Stream × List (Nat × TrapRec) :=
  if !t.wait.onRecord r.id then (t, [])
  else if t.stopped then ({ t with wait := .run, owed := t.owed ++ [(r.cause + 16 * agentCode .affine, r.va)] }, [])
  else
    ({ t with stopped := true, cause := Cause.translation, stepping := false, wait := .run },
      [(0xFFFF, { pc := t.pc, cause := Cause.translation, slot := 48, done := 0, lanes := 1, wg := wg, warp := 0xFFFF, queue := queue,
                  detail := r.cause + 16 * agentCode .affine, imm := 0, addr := r.va, seq := 0 })])

/-- Saved warps and streams parked on a record keep their traps in their save records (R39). -/
def killSaved (r : FaultRec) (s : State) : State :=
  let q (g : Wg) : Nat := match s.launches.at? g.launch with | some x => x.queue | none => 0
  let kept := s.wgs.flatMap (fun (e : Nat × Wg) => match e.2.saved with
    | some v => v.warps.filterMap (fun w =>
        if w.present.any (fun l => (w.lanes.atD l Lane.never).wait.onRecord r.id) then w.keeps else none)
    | none => [])
  let s1 := kept.foldl killMat s
  { s1 with wgs := s1.wgs.mapV (fun _ g => match g.saved with
    | none => g
    | some v =>
      let ws := v.warps.map (killSavedWarp r g.g (q g))
      let st := v.stream.map (killSavedStream r g.g (q g))
      { g with saved := some { v with
        warps := ws.map Prod.fst, stream := st.map Prod.fst
        traps := v.traps ++ ws.flatMap Prod.snd ++ (match st with | some y => y.2 | none => []) } }) }

/-- FQRESUME_KILL (R38, R39): every waiter on the record takes the fatal translation trap. -/
def execFqresumeKill (idx : BitVec 12) (s : State) : Result :=
  .next (match recordAt s idx.toNat with
    | none => s
    | some r =>
      let s1 := endOrphans (answered s r.id) r.id
      let s2 := (parkedOn s1 r.id).foldl (fun s e => killWarp r s e.1 e.2.1 e.2.2) s1
      let s3 := (streamsOn s2 r.id).foldl (fun s e => killStream s e.1 e.2 (r.cause + 16 * agentCode .affine) r.va) s2
      let s4 := (copiesOn s3 r.id).foldl (fun s e =>
        let x := e.2.2
        engineTrap (killCopy s e.1 e.2.1) e.1 x.launch x.wg x.warpid Cause.translation (r.cause + 16 * agentCode .copy) r.va) s3
      wakeSaved (killSaved r s4) r.id)

/-- FQTAIL_WRITE (R38). -/
def execFqtailWrite (v : DWord) (s : State) : Result :=
  let t := v.toNat % 8192
  let n := (s.xl.fqHead + 8192 - t) % 8192
  .next (if 4096 < n || ringCount s.xl < n then s
    else
      let s1 := { s with xl := { s.xl with fqTail := t } }
      writeFaults s1 s1.xl.faults.length)

/-- FQBASE_WRITE (R29, R40). -/
def execFqbaseWrite (v : DWord) (s : State) : Result :=
  let b := v &&& 0x000FFFFFFFFFF000
  .next (if b = s.xl.fqBase then s
    else if ringCount s.xl != 0 || s.xl.faults != [] then { s with xl := { s.xl with invErr := true } }
    else { s with xl := { s.xl with fqBase := b, fqHead := 0, fqTail := 0 } })

end Sys2Proof.Machine
end

