-- ==== Sys2Proof/Machine/Preempt.lean ====
section
/-! DEFINITION. Pre-emption (R155, R330 to R332): halting, saving or discarding, and restoring. -/

namespace Sys2Proof.Machine

/-- A launch of a queue that the last pre-empt stopped. -/
def stoppedLaunch (s : State) (x : Launch) : Bool := x.checked && s.pre.active.getLsbD x.queue

/-- Every clause of a halted launch ends at the present instruction boundary (R330). -/
def haltClauses (s : State) : State :=
  { s with clauses := s.clauses.filter (fun z => match (s.core z.core).launch, z.picker with
      | _, .control => true
      | some id, _ => !haltedLaunch s id
      | none, _ => true) }

/-- A write of PRCMD with bits that are not zero, or while busy, is ignored and sets error (R330). -/
def prError (s : State) : State := { s with pre := { s.pre with err := true } }

/-- 20 µs at 1.4 GHz, scaled to the effective clock (R4, R369). -/
def haltBound (s : State) : Nat := 20 * 14 / (match s.pow.eff with | 0 => 14 | 1 => 12 | 2 => 10 | _ => 7)

/-- PREEMPT (R4, R330): the time that the halt takes, within its bound, is the free value that PRSTAT shows (log 68). An accepted go clears
PRSTAT's error (DESIGN CHOICE, log 89). -/
def execPreempt (v : DWord) (s : State) : Result :=
  .next (if s.pre.busy || bitsOf v.toNat 2 62 != 0 then prError s
    else if !v.getLsbD 0 || v.getLsbD 1 then s
    else haltClauses { s with pre := { s.pre with
      active := s.pre.active ||| s.pre.mask, busy := true, err := false, halted := true
      micros := BitVec.ofNat 32 ((Config.freeBits s.tick).toNat % (haltBound s + 1)) } })

/-- Discards a resident workgroup of a restartable launch, which is to be dispatched again from its entry (R155). -/
def discardWg (s : State) (wg : Nat) : State :=
  match s.wgs.at? wg with
  | none => s
  | some g =>
    let s1 := s.modLaunch g.launch (fun x => { x with redo := x.redo ++ [g.g] })
    (wgWarps s1 wg).foldl (fun s e =>
      let s2 := dropStopped s e.1 e.2.1
      exitLanes s2 e.1 e.2.1 e.2.2.present) s1

/-- What a pre-empt does with one workgroup of a stopped launch (R155, R330). -/
def preemptWg (s : State) (wg : Nat) : State :=
  match s.wgs.at? wg with
  | none => s
  | some g => match s.launches.at? g.launch with
    | none => s
    | some x =>
      if !stoppedLaunch s x || x.killed || wgWarps s wg = [] then s
      else if x.flag 2 then discardWg s wg
      else if x.saveArea = 0 then s
      else
        let s1 := saveWg s wg (recAddr x g.g)
        { s1 with pre := { s1.pre with order := s1.pre.order.filter (· != wg) ++ [wg] } }

/-- PREEMPT_SAVE_COMPLETE (R330, R331). -/
def execPreemptSaveComplete (s : State) : Result :=
  .next (if !s.pre.busy then s
    else
      let s1 := s.wgs.foldl (fun s (e : Nat × Wg) => preemptWg s e.1) s
      { s1 with pre := { s1.pre with busy := false } })

/-- Workgroups that still wait for their restore. -/
def stillSaved (s : State) (order : List Nat) : List Nat :=
  order.filter (fun wg => match s.wgs.at? wg with | some g => g.saved.isSome | none => false)

/-- Once every saved context is restored, dispatch continues (R330). -/
def resumeEnds (s : State) (order : List Nat) : State :=
  { s with pre := { s.pre with order := order, active := if order = [] then 0 else s.pre.active } }

/-- RESUME (R330). -/
def execResume (v : DWord) (s : State) : Result :=
  .next (if s.pre.busy || bitsOf v.toNat 2 62 != 0 then prError s
    else if !v.getLsbD 0 || !v.getLsbD 1 then s
    else resumeEnds { s with pre := { s.pre with err := false, halted := false } } (stillSaved s s.pre.order))

/-- CONTEXT_RESTORE (R330, R332): the workgroup saved first, once cores accept it. -/
def execContextRestore (wg : Nat) (s : State) : Result :=
  .next (if s.pre.halted || s.pre.order.head? != some wg then s
    else match restoreWg s wg with
      | some t => resumeEnds t (stillSaved t s.pre.order)
      | none => resumeEnds s (stillSaved s s.pre.order))

end Sys2Proof.Machine
end

