-- ==== Sys2Proof/Machine/Repro.lean ====
section
/-! DEFINITION. Reproducible runs: opening one, closing and committing courses, the manifest, and the measurements (R337 to R346). -/

namespace Sys2Proof.Machine

/-- A write of a course register is ignored and sets error (R337). -/
def rpError (s : State) : State := { s with rep := { s.rep with err := true } }

/-- FXLIVE (R124). -/
def fxlive (s : State) : Nat := s.fab.live.toNat + 2 ^ 16 * s.fab.index + 2 ^ 20 * s.fab.size

/-- The configuration digest: FXLIVE, then the pool table where one is configured (R344, log 69). -/
def configDigest (s : State) : BitVec 256 :=
  sha256 (leBytes 8 (fxlive s) ++ (if s.bpBase = 0 then []
    else (List.range 256).flatMap (fun p => leBytes 32 (s.rdDev (s.bpBase.toNat + 32 * p) 32))))

/-! ## Opening a run (R338) -/

/-- n bytes at an offset of a run descriptor, as a number. -/
def descFld (d : List Byte) (off n : Nat) : Nat := leNat ((d.drop off).take n)

/-- The descriptor's fields are in range (R338). -/
def descOk (s : State) (d : List Byte) : Bool :=
  let first := descFld d 0 4
  let m := descFld d 6 2
  first != 0 && first ≤ 0xFFFFFFFE && descFld d 4 2 ≤ 64 && m.testBit s.fab.index && m &&& s.fab.live.toNat = m &&
    descFld d 0x68 24 = 0 &&
    (List.range (descFld d 4 2)).all (fun i =>
      let o := 0x80 + 32 * i
      (descFld d o 1 = 1 || descFld d o 1 = 2) && descFld d (o + 2) 6 = 0 && descFld d (o + 24) 8 = 0)

/-- The context, address and length of a region of a descriptor. -/
def regionAt (d : List Byte) (i : Nat) : Nat × Nat × Nat :=
  let o := 0x80 + 32 * i
  (descFld d (o + 1) 1, descFld d (o + 8) 8, descFld d (o + 16) 8)

/-- RPRUN (R337, R338): with its fields in range, the regions are to be hashed, and busy is set. -/
def execRprun (v : DWord) (s : State) : Result :=
  let a := v.toNat / 128 * 128
  let n := 0x80 + 32 * Mem.rd s.mem (a + 4) 2
  let d := Mem.bytes s.mem a n
  .next (if s.rep.isOpen || s.rep.busy || v.toNat / 2 ^ 52 != 0 || bitsOf v.toNat 1 6 != 0 then rpError s
    else if !v.getLsbD 0 then s
    else if Config.memTop < a + n || !descOk s d then rpError s
    else { s with rep := { s.rep with
      busy := true, err := false, opening := some { desc := d, hashes := [], bytes := [], asked := none } } })

/-- The run opens once every region has been hashed (steps 3 to 5 of R338); a member that has been lost meanwhile is lost to it (R122,
R340). -/
def openRun (s : State) (o : RunOpen) : State :=
  let m := descFld o.desc 6 2
  let before := BitVec.ofNat 32 (descFld o.desc 0 4 - 1)
  { s with rep := { s.rep with
    isOpen := true, busy := false, patched := false, memberLost := m &&& s.fab.live.toNat != m, first := before + 1, committed := before, closed := before
    members := BitVec.ofNat 16 m, desc := o.desc, hashes := o.hashes, launches := [], runs := s.rep.runs + 1
    cfgHash := configDigest s, logOpen := s.rel.hash, subst := false, writers := [], snap := none, opening := none } }

/-- Hashes the regions of a run being opened, in the order of the descriptor, and line by line through each region's context; a line of a
peer package is asked for, and a read that faults opens no run (step 2 of R338). -/
def hashRegions : Nat → State → RunOpen → State
  | 0, s, o => { s with rep := { s.rep with opening := some o } }
  | n + 1, s, o =>
    let r := regionAt o.desc o.hashes.length
    if descFld o.desc 4 2 ≤ o.hashes.length then openRun s o
    else if r.2.2 ≤ o.bytes.length then hashRegions n s { o with hashes := o.hashes ++ [sha256 o.bytes], bytes := [] }
    else
      let va := r.2.1 + o.bytes.length
      let k := Nat.min (128 - va % 128) (r.2.2 - o.bytes.length)
      match readSource s r.1 va k with
      | .here bs => hashRegions n s { o with bytes := o.bytes ++ bs }
      | .ask q pa =>
        let s1 := sendPacket s { hdr := mkHdr 0 s.fab.index q 0 0 k pa 0 regionTag, payload := [] }
        { s1 with rep := { s1.rep with opening := some { o with asked := some (q, k) } } }
      | .fault => { s with rep := { s.rep with busy := false, err := true, opening := none } }

/-- A run being opened goes on, from the step behind its RPRUN on. -/
def driveRun (old s : State) : State :=
  match old.rep.opening, s.rep.opening with
  | some _, some o => if o.asked.isSome then s else hashRegions 65536 s o
  | _, _ => s

/-! ## Courses (R337, R340) -/

/-- RPCLOSE (R337). -/
def execRpclose (v : DWord) (s : State) : Result :=
  .next (if s.rep.busy || v.toNat != s.rep.closed.toNat + 1 then rpError s
    else { s with rep := { s.rep with closed := v.setWidth 32, err := false } })

/-- A reproducible launch of a course has been taken and has not written its done word. -/
def courseRuns (s : State) (c : Nat) : Bool := s.launches.anyV (fun _ x => x.checked && x.repro && x.course = c)

/-- The implicit snapshot of a commit is complete (R340). -/
def snapPassed (s : State) : Bool :=
  match s.rep.snap with
  | none => false
  | some id => match s.track.snaps.find? (fun x => x.id = id) with
    | none => true
    | some x => x.warps.all (fun p => !(sectionWarps s).contains p)

/-- Lanes that wait in `cwait` for a course of at most c go on, with an acquire at span scope (R97, R253, R340). -/
def wakeCourse (s : State) (c : Nat) : State :=
  let due (w : Wait) : Bool := match w with | .cwait n => n ≤ c | _ => false
  let ws := s.cores.flatMap (fun (e : Nat × Core) => (e.2.warps.filterV (fun _ w => w.lanes.anyV (fun _ l => due l.wait))).map
    (fun (w : Nat × Warp) => (e.1, w.1, w.2.wg)))
  ws.foldl (fun s e => passOn (acquire s e.1 (some e.2.2) .span) e.1 e.2.1 (waiting s e.1 e.2.1 due)) s

/-- COURSE_COMMIT (R340): the event says that every other member has closed the course, committed the one before and finished its
launches. The first one takes the implicit snapshot, unless it is complete at once. -/
def execCourseCommit (s : State) : Result :=
  let c := s.rep.committed.toNat + 1
  let s1 := if s.rep.snap.isSome then s else
    let t := takeSnapshot s true
    { t with rep := { t.rep with snap := some s.fresh } }
  .next (if !s.rep.isOpen || s.rep.closed.toNat < c || s.rep.memberLost || courseRuns s c then s
    else if !snapPassed s1 then s1
    else
      let s2 := { s1 with track := { s1.track with snaps := s1.track.snaps.filter (fun x => some x.id != s1.rep.snap) } }
      let s3 := dfReleaseAll s2 (fun e => e.repro && e.course.toNat = c)
      wakeCourse { s3 with rep := { s3.rep with committed := BitVec.ofNat 32 c, writers := [], snap := none } } c)

/-! ## The manifest (R344) -/

/-- Inserts a launch entry by course and queue, behind its equals. -/
def insertEntry (x : RunLaunch) : List RunLaunch → List RunLaunch
  | [] => [x]
  | y :: t =>
    if x.course.toNat * 64 + x.queue < y.course.toNat * 64 + y.queue then x :: y :: t else y :: insertEntry x t

def sortEntries (l : List RunLaunch) : List RunLaunch := l.foldl (fun r x => insertEntry x r) []

/-- The 48 bytes of a launch entry. -/
def entryBytes (x : RunLaunch) : List Byte :=
  leBytes 4 x.course.toNat ++ leBytes 1 x.queue ++ leBytes 3 0 ++ leBytes 8 x.key.toNat ++ leBytes 32 x.hash.toNat

/-- The manifest without its signature. -/
def manifestBody (s : State) : List Byte :=
  let r := s.rep
  leBytes 4 0x464D5A43 ++ leBytes 2 1 ++ leBytes 1 3 ++
    leBytes 1 ((if r.patched then 1 else 0) + (if r.memberLost then 2 else 0) + (if r.subst then 4 else 0)) ++
    leBytes 8 r.runs ++ leBytes 4 r.first.toNat ++ leBytes 4 r.committed.toNat ++
    leBytes 2 r.members.toNat ++ leBytes 1 s.fab.index ++ leBytes 1 s.fab.size ++ leBytes 4 r.launches.length ++
    leBytes 32 Config.appFirmwareHash.toNat ++ leBytes 32 Config.ctlFirmwareHash.toNat ++ leBytes 32 r.cfgHash.toNat ++
    (r.desc.drop 8).take 64 ++ (r.desc.drop 0x48).take 32 ++ leBytes 32 r.logOpen.toNat ++ leBytes 32 s.rel.hash.toNat ++
    leBytes 8 r.hashes.length ++
    ((List.range r.hashes.length).flatMap (fun i =>
      (r.desc.drop (0x80 + 32 * i)).take 32 ++ leBytes 32 (r.hashes.getD i 0).toNat)) ++
    (sortEntries r.launches).flatMap entryBytes

/-- A record with flag 3 waits in a queue's ring. -/
def reproQueued (s : State) : Bool :=
  s.lqs.anyV (fun _ y => (List.range y.held).any (fun i =>
    (s.rdDev (y.base.toNat + 256 * ((y.head + i) % y.slots) + 0x28) 4).testBit 3))

/-- RPEND (R337, R344); a manifest that would not lie in local memory is refused (log 69). -/
def execRpend (v : DWord) (s : State) : Result :=
  let a := v.toNat / 4096 * 4096
  .next (if s.rep.busy || !s.rep.isOpen || s.rep.closed != s.rep.committed || s.launches.anyV (fun _ x => x.repro) || reproQueued s ||
      v.toNat / 2 ^ 52 != 0 || bitsOf v.toNat 1 11 != 0 then rpError s
    else if !v.getLsbD 0 then s
    else
      let body := manifestBody s
      let full := body ++ leBytes 64 (Config.sign s.tick (sha256 body)).toNat
      if Config.memTop < a + full.length then rpError s
      else { s with
        mem := Mem.splice s.mem a full
        rep := { s.rep with isOpen := false, err := false, manifest := sha256 full } })

/-! ## Measurements (R346) -/

/-- A measurement block's digest. -/
def measurement (s : State) (i : Nat) : Option (BitVec 256) :=
  match i with
  | 0x01 => some Config.appFirmwareHash
  | 0x02 => some Config.ctlFirmwareHash
  | 0x03 => some (if s.rep.runs = 0 then configDigest s else s.rep.cfgHash)
  | 0x40 => some s.rep.manifest
  | _ => none

/-- GET_MEASUREMENTS (R346): the blocks asked for, each as its index and digest, signed on request; 0xFF asks for every block. The
framing of SPDM 1.3 is outside the manual (log 70). -/
def execGetMeasurements (block : BitVec 8) (signed : Bool) (s : State) : Result :=
  let ids := if block = 0xFF then [0x01, 0x02, 0x03, 0x40] else [block.toNat]
  let body := ids.flatMap (fun i => match measurement s i with
    | some h => leBytes 1 i ++ leBytes 32 h.toNat
    | none => [])
  .next { s with host := { s.host with
    spdm := s.host.spdm ++ [body ++ (if signed then leBytes 64 (Config.sign s.tick (sha256 body)).toNat else [])] } }

end Sys2Proof.Machine
end

