-- ==== Sys2Proof/Machine/Reliability.lean ====
section
/-! DEFINITION. Reliability: corrected errors and data loss (R361 to R363), link lanes (R105), substitution (R364, R365) and the error
log's registers (R367, R368). -/

namespace Sys2Proof.Machine

/-! ## Units (R3, R54, R62, R363) -/

/-- The key of a unit: its kind and number. -/
def unitKey : ErrUnit → Nat
  | .core i => 0x10000 + i
  | .slice i => 0x20000 + i
  | .channel i => 0x30000 + i
  | .port i => 0x40000 + i
  | .appCore i => 0x50000 + i

/-- The die, stack or port that a log entry names as its source (R366). -/
def unitSource : ErrUnit → Nat
  | .core i => dieOf i
  | .slice i => i / 80
  | .channel i => i / 32
  | .port i => i
  | .appCore _ => 0

/-- The threshold of a unit in one hour; a port has one only while its spare lane is in use, and an application core has none
(R363). -/
def unitThreshold (s : State) : ErrUnit → Option Nat
  | .core _ => some 64
  | .slice _ => some 64
  | .channel _ => some 1024
  | .port i => if s.fab.spare.getLsbD i then some 256 else none
  | .appCore _ => none

/-- A unit is recommended for substitution, once (R363). -/
def recommend (s : State) (u : ErrUnit) : State :=
  let s1 := logEvent s 4 (unitSource u) (unitKey u)
  if s1.rel.recs.contains (unitKey u) then s1 else { s1 with rel := { s1.rel with recs := s1.rel.recs ++ [unitKey u] } }

/-- The whole hour of `%time` since the reset (R363). -/
def hourOf (s : State) : Nat := s.now / 3600000000000

/-- The counts start again where a whole hour of `%time` has ended since they were begun (R363). -/
def thisHour (s : State) : State :=
  if hourOf s = s.rel.hour then s else { s with rel := { s.rel with counts := [], hour := hourOf s } }

/-- Counts a corrected error in the present hour; the count that reaches the threshold recommends the unit (R363, log 71). -/
def countError (s0 : State) (u : ErrUnit) : State :=
  let s := thisHour s0
  let n := s.rel.counts.atD (unitKey u) 0 + 1
  let s1 := { s with rel := { s.rel with counts := s.rel.counts.put (unitKey u) n } }
  if unitThreshold s u = some n then recommend s1 u else s1

/-- A line with a clean copy below it is dropped, to be fetched again: of a core's level 1, or of level 2 (R361). A pinned line, which level 2
keeps, is fetched again in its place. -/
def dropClean (s : State) (u : ErrUnit) (addr : Nat) : State :=
  match u with
  | .core c => s.modCore c (fun y => { y with l1 := y.l1.filter (fun l => !(l.line = localKey addr && l.written = 0)) })
  | .slice _ => { s with l2 := s.l2.filter (fun l => !(l.line = addr / 128 && l.written = 0 && l.pins = 0)) }
  | _ => s

/-- A substitution or retrain is noted for the manifest of an open run (R344). -/
def noteSubst (s : State) : State := if s.rep.isOpen then { s with rep := { s.rep with subst := true } } else s

/-- An application core fails its boot self-test: one of the two spares replaces it while one is left (R2, R361). -/
def replaceAppCore (s : State) (u : ErrUnit) (d : Nat) : State :=
  let used := s.rel.spares.atD 0x50 0
  let active := match u with | .appCore i => decide (i < Config.appCores) | _ => true
  if used < Config.appSpares && active then
    noteSubst (logEvent { s with rel := { s.rel with spares := s.rel.spares.put 0x50 (used + 1) } } 5 (unitSource u) d)
  else s

/-- CORRECTED_ERROR (R361, R362): what is corrected is logged and counted; a line with a clean copy below it is dropped and fetched
again; data with no clean copy retires its frame. -/
def execCorrectedError (unit : ErrUnit) (kind : ErrKind) (addr : DWord) (s : State) : Result :=
  let d := addr.toNat + 2 ^ 64 * unitKey unit
  .next (match kind with
    | .corrected => countError (logEvent s 1 (unitSource unit) d) unit
    | .refetched => countError (dropClean (logEvent s 2 (unitSource unit) d) unit addr.toNat) unit
    | .row => countError (noteSubst (logEvent s 5 (unitSource unit) d)) unit
    | .appCore => replaceAppCore s unit d
    | .lost =>
      let s1 := logEvent s 3 (unitSource unit) d
      let g := addr.toNat / 65536
      if s1.rel.badLines.contains g then s1 else { s1 with rel := { s1.rel with badLines := s1.rel.badLines ++ [g] } })

/-- ERROR_COUNT_HOUR (R363): once a whole hour of `%time` has ended. -/
def execErrorCountHour (s : State) : Result := .next (thisHour s)

/-! ## Link lanes (R105, R361, R363) -/

/-- LANE_FAILURE (R105): the spare lane is switched in and the retrain logged; with the spare in use, the link goes down and the port
is recommended for service. -/
def execLaneFailure (port : Nat) (s : State) : Result :=
  .next (if s.fab.spare.getLsbD port then
      recommend { s with fab := { s.fab with up := s.fab.up &&& ~~~(1#18 <<< port) } } (.port port)
    else
      noteSubst (logEvent { s with fab := { s.fab with spare := s.fab.spare ||| (1#18 <<< port) } } 6 port port))

/-- FLIT_CRC_FAIL (R105, R363): the flit is replayed from the retry buffer, and counts as a corrected flit of its port. -/
def execFlitCrcFail (port : Nat) (s : State) : Result := .next (countError s (.port port))

/-! ## Substitution (R364, R365) -/

/-- SUBCMD's fields. -/
def subDie (v : DWord) : Nat := bitsOf v.toNat 8 4
def subUnit (v : DWord) : Nat := bitsOf v.toNat 16 16

/-- Dies or stacks of a kind, units on each, and spares on each; a stack has one spare channel (R3, R54, R62, R365). -/
def subDims (kind : Nat) : Nat × Nat × Nat :=
  match kind with
  | 1 => (4, 92, 4)
  | 2 => (4, 80, 4)
  | _ => (8, 32, 1)

/-- The package runs no launch, or is halted with every queue in PRMASK (R365). -/
def subAllowed (s : State) : Bool := !s.launches.anyV (fun _ x => x.checked) || (s.pre.halted && s.pre.mask = BitVec.allOnes 64)

/-- A write of SUBCMD with the given kind, or with one that is refused (R364, R365). -/
def subcmd (kind : Nat) (v : DWord) (s : State) : State :=
  let k := bitsOf v.toNat 0 4
  let n := subDims kind
  let bad := { s with rel := { s.rel with subErr := true } }
  let known := k = 1 || k = 2 || k = 3
  if k != kind && known then s
  else if !v.getLsbD 63 then s
  else if !known || s.rel.subBusy || !subAllowed s || n.1 ≤ subDie v || n.2.1 ≤ subUnit v ||
      n.2.2 ≤ s.rel.spares.atD (16 * kind + subDie v) 0 then bad
  else
    let s1 := { s with rel := { s.rel with
      subErr := false, subBusy := true, sub := some { kind := kind - 1, die := subDie v, unit := subUnit v } } }
    if kind = 2 then { s1 with l2 := s1.l2.filter (fun l => homeSlice (128 * l.line) != 80 * subDie v + subUnit v) } else s1

/-- SUBCMD_CORE (R365). -/
def execSubcmdCore (v : DWord) (s : State) : Result := .next (subcmd 1 v s)

/-- SUBCMD_SLICE (R365): the bytes of its lines are memory's already (log 4), so that writing back and invalidating drops the lines. -/
def execSubcmdSlice (v : DWord) (s : State) : Result := .next (subcmd 2 v s)

/-- SUBCMD_CHANNEL (R365): the copy onto the spare channel leaves every address its bytes. -/
def execSubcmdChannel (v : DWord) (s : State) : Result := .next (subcmd 3 v s)

/-- The key of the unit being replaced. -/
def substKey (x : Subst) : Nat := 0x10000 * (x.kind + 1) + (subDims (x.kind + 1)).2.1 * x.die + x.unit

/-- A replaced core starts with its caches empty; what level 1 had written goes home first. -/
def freshCore (s : State) (c : Nat) : State :=
  (dropLines s c (fun _ => true)).modCore c (fun y => { y with tlb := [], icache := [], swatch := [] })

/-- SUBSTITUTION_DONE (R365): a core's waits until the core holds no context. -/
def execSubstitutionDone (s : State) : Result :=
  .next (match s.rel.sub with
    | none => s
    | some x =>
      let c := 92 * x.die + x.unit
      if x.kind = 0 && !((s.core c).warps.isEmpty && (s.core c).streams.isEmpty && engineIdle (s.core c)) then s
      else
        let s1 := if x.kind = 0 then freshCore s c else s
        let s2 := noteSubst (logEvent s1 5 x.die (substKey x))
        let key := 16 * (x.kind + 1) + x.die
        { s2 with rel := { s2.rel with
          subBusy := false, sub := none, spares := s2.rel.spares.put key (s2.rel.spares.atD key 0 + 1)
          recs := s2.rel.recs.filter (· != substKey x), counts := s2.rel.counts.del (substKey x) } })

/-! ## The log's registers (R364, R367, R368) -/

/-- ELREAD_WRITE (R364, R367): space freed lets the overflow entry be appended, with the count of the events missed. -/
def execElreadWrite (v : DWord) (s : State) : Result :=
  .next (if v.toNat < s.rel.read || s.rel.head < v.toNat then s
    else
      let s1 := { s with rel := { s.rel with read := v.toNat } }
      if s1.rel.lost != 0 && s1.rel.head - s1.rel.read < logSlots then
        logEvent { s1 with rel := { s1.rel with lost := 0 } } 14 0 (s1.rel.lost % 2 ^ 96)
      else s1)

/-- ELCKPT (R364, R368). -/
def execElckpt (v : DWord) (s : State) : Result := .next (if v.getLsbD 0 && v.toNat < 2 then checkpoint s else s)

end Sys2Proof.Machine
end

