-- ==== Sys2Proof/Machine/Power.lean ====
section
/-! DEFINITION. Power (R369, R370), bring-up (R371 to R373), and the reload of a control core's firmware (R326). -/

namespace Sys2Proof.Machine

/-! ## Clock, gates and refresh (R369, R370) -/

/-- A write while busy sets error (R369). -/
def pwError (s : State) : State := { s with pow := { s.pow with err := true } }

/-- PWCLK_WRITE (R369, R370): in the trip state only the stored value changes. -/
def execPwclkWrite (v : DWord) (s : State) : Result :=
  .next (if s.pow.busy then pwError s
    else { s with pow := { s.pow with clk := v.toNat % 4, err := false, busy := !s.pow.trip } })

/-- CLOCK_CHANGE_EFFECTIVE (R369): within 10 µs, which is timing (log 8). -/
def execClockChangeEffective (s : State) : Result :=
  .next (if !s.pow.busy then s
    else { s with pow := { s.pow with busy := false, eff := if s.pow.trip then s.pow.eff else s.pow.clk } })

/-- A compute die holds a warp or engine work (R369). -/
def dieBusy (s : State) (d : Nat) : Bool :=
  s.cores.anyV (fun c y => dieOf c = d && !(y.warps.isEmpty && y.streams.isEmpty && y.launch.isNone && engineIdle y))

/-- PWGATE_WRITE (R369). -/
def execPwgateWrite (v : DWord) (s : State) : Result :=
  let g : BitVec 4 := v.setWidth 4
  .next (if s.pow.busy || (List.range 4).any (fun d => g.getLsbD d && !s.pow.gate.getLsbD d && dieBusy s d) then pwError s
    else { s with pow := { s.pow with gate := g, err := false } })

/-- PWREF_WRITE (R369, R370). -/
def execPwrefWrite (v : DWord) (s : State) : Result :=
  .next (if s.pow.busy then pwError s
    else { s with pow := { s.pow with ref := v.getLsbD 0, err := false, effRef := if s.pow.trip then s.pow.effRef else v.getLsbD 0 } })

/-- The hottest die's temperature (R369). -/
def hottest (s : State) : Nat := s.pow.temps.foldl (fun n (e : Nat × Nat) => Nat.max n e.2) 0

/-- PWTRIPCLR (R369, R370): the stored values take effect again, the clock as any clock change does. -/
def execPwtripclr (v : DWord) (s : State) : Result :=
  .next (if s.pow.busy then pwError s
    else if !v.getLsbD 0 || !s.pow.trip then s
    else if 95 ≤ hottest s then pwError s
    else { s with pow := { s.pow with trip := false, err := false, busy := true, effRef := s.pow.ref } })

/-- THERMAL_TRIP (R370): a die's temperature is read, and at 105 °C the device trips. -/
def execThermalTrip (die temp : Nat) (s : State) : Result :=
  let s1 := { s with pow := { s.pow with temps := s.pow.temps.put die temp } }
  .next (if temp < 105 then s1
    else logEvent { s1 with pow := { s1.pow with trip := true, busy := false, eff := 3, effRef := true } } 9 die temp)

/-- HOST_COMMANDED_POWER_DOWN (R368): a checkpoint, then nothing happens but a reset. -/
def execHostCommandedPowerDown (s : State) : Result :=
  .next (if s.pow.off then s else let s1 := checkpoint s; { s1 with pow := { s1.pow with off := true } })

/-! ## Control-core firmware (R326) -/

/-- A control core as its firmware is loaded: where it starts is the firmware's (log 32). -/
def loadedControl (ctx : Nat) (pc : DWord) : Control := { Control.reset with loaded := true, ctx := ctx, pc := pc }

/-- Dispatch is enabled once every core's control-core firmware is loaded (R371 steps 5 and 7). -/
def enableDispatch (s : State) : State :=
  { s with ready := s.ready || decide (Config.cores ≤ (s.cores.filterV (fun _ y => y.ctrl.loaded)).length) }

/-- CONTROL_CORE_FIRMWARE_RELOAD (R326, R371 step 5): of a control core that has halted or has no firmware yet. -/
def execControlCoreFirmwareReload (core ctx : Nat) (pc : DWord) (s : State) : Result :=
  let y := (s.core core).ctrl
  .next (if y.loaded && !y.halted then s
    else
      { s with
        clauses := s.clauses.filter (fun z => !(z.core = core && z.picker == Picker.control))
        ops := s.ops.filterV (fun _ o => !(o.owner == Owner.control core)) }.modCore core (fun x =>
          { x with ctrl := loadedControl ctx pc, pmcOn := Config.pmcSelect s.tick }) |> enableDispatch)

/-! ## Bring-up (R371 to R373) -/

/-- The boot entry (step 4 of R371): it follows the head held in flash, or starts the chain on first boot. -/
def bootEntry (old s : State) : State :=
  let first := old.rel.flashHash = 0
  let seq := if first then 0 else old.rel.flashSeq + 1
  let s1 := { s with rel := { s.rel with
    head := seq, hash := old.rel.flashHash, flashSeq := old.rel.flashSeq, flashHash := old.rel.flashHash
    spares := old.rel.spares } }
  let e := leBytes 8 seq ++ leBytes 8 0 ++ leBytes 2 15 ++ leBytes 2 0 ++
    leBytes 12 (old.rel.flashSeq % 2 ^ 64 + (if old.rel.orderly then 0 else 2 ^ 64)) ++ leBytes 32 old.rel.flashHash.toNat
  let s2 := { s1 with
    mem := Mem.wrBytes s1.mem (logBase + 64 * (seq % logSlots)) e
    rel := { s1.rel with head := seq + 1, hash := sha256 e, orderly := false } }
  if (seq + 1) % 65536 = 0 then checkpoint s2 else s2

/-- A board joins the packages of a span of n: each ordered pair by floor(18 / (n − 1)) links, and no port beyond them; a span of one has
no link, and its package has index 0 (R1, R104). -/
def boardOk (b : Nat × Nat × List Nat) : Bool :=
  let n := b.2.1
  1 ≤ n && n ≤ 16 && b.1 < n && b.2.2.length = (n - 1) * (18 / (n - 1)) &&
    (List.range n).all (fun p => (b.2.2.filter (fun q => q = p)).length = if p = b.1 then 0 else 18 / (n - 1))

/-- The fabric with the wiring that training discovers (R104): a free value, or the board as it was (log 34). -/
def wired (tick : Nat) (f : Fabric) : Fabric :=
  match Config.board tick with
  | some b => if boardOk b then
      { f with index := b.1, size := b.2.1, reach := (List.range b.2.2.length).zip b.2.2, linked := BitVec.ofNat 18 (2 ^ b.2.2.length - 1) }
    else f
  | none => f

/-- The fabric as step 6 of R371 trains it: every linked package of the span is live, but that a package lost before is readmitted by a reset
of every package of the span alone (R123, R372). -/
def trained (tick : Nat) (all : Bool) (old : Fabric) : Fabric :=
  let f := wired tick old
  let lost (p : Nat) : Bool := !all && old.reach.anyV (fun _ q => q = p) && !old.live.getLsbD p
  { Fabric.reset with
    index := f.index, size := f.size, reach := f.reach, linked := f.linked, up := f.linked, spare := f.spare
    live := f.reach.foldl (fun (m : BitVec 16) (e : Nat × Nat) => if lost e.2 then m else m ||| (1#16 <<< e.2)) (1#16 <<< f.index) }

/-- The package before a reset: a reset that is asked for checkpoints first unless the power is off, and any other leaves the reset without
its checkpoint (R368, R371). -/
def beforeReset (asked : Bool) (s : State) : State :=
  if s.pow.off then s else if asked then checkpoint s else { s with rel := { s.rel with orderly := false } }

/-- What this RESET is: the first of those the outside has named, or else one of this package alone that is asked for and whose firmware
verifies (log 88). -/
def resetKind (s : State) : ResetKind := s.host.resets.headD { all := false, asked := true, verified := true }

/-- RESET (R368, R371 to R373): where step 1 fails, nothing follows but another reset, and what board flash holds stays; memory, which lists
nothing after a reset, is log 1. -/
def execReset (s : State) : Result :=
  let how := resetKind s
  let old := beforeReset how.asked s
  let s1 := { State.reset with tick := s.tick, agenda := s.agenda, fresh := s.fresh, host := { s.host with resets := s.host.resets.tail } }
  .next (if how.verified then
      bootEntry old { s1 with fab := trained s.tick how.all s.fab, pow := { Power.reset with temps := s.pow.temps } }
    else { s1 with
      fab := s.fab, pow := { Power.reset with temps := s.pow.temps, off := true }
      rel := { Reliability.reset with
        flashSeq := old.rel.flashSeq, flashHash := old.rel.flashHash, orderly := old.rel.orderly, spares := old.rel.spares } })

end Sys2Proof.Machine
end

