-- ==== Sys2Proof/Machine/Registers.lean ====
section
/-! DEFINITION. The registers that the application cores reach (R29, R124, R142, R169, R256, R311, R330, R337, R364, R369), and their
accesses to local memory (R27, R83). -/

namespace Sys2Proof.Machine

/-- A bit of a register. -/
def bit (b : Bool) (i : Nat) : Nat := if b then 2 ^ i else 0

/-! ## Reading -/

/-- Translation registers (R29). -/
def readXl (s : State) (off : Nat) : Option Nat :=
  match off with
  | 0x000 => some s.xl.ctxBase.toNat
  | 0x008 => some 0
  | 0x010 => some (bit s.xl.invBusy 0 + bit s.xl.invErr 1)
  | 0x018 => some s.xl.fqBase.toNat
  | 0x020 => some s.xl.fqHead
  | 0x028 => some s.xl.fqTail
  | 0x030 => some 0
  | _ => none

/-- The package that a port reaches, 0xF for a port with no link (R124). -/
def portField (s : State) (q : Nat) : Nat := if s.fab.linked.getLsbD q then s.fab.reach.atD q 0xF else 0xF

/-- Fabric registers (R124). -/
def readFx (s : State) (off : Nat) : Option Nat :=
  match off with
  | 0x000 => some s.fab.timeout
  | 0x008 => some s.fab.loss
  | 0x010 => some (fxlive s)
  | 0x018 => some (((List.range 16).map (fun q => portField s q * 16 ^ q)).foldl (· + ·) 0)
  | 0x020 => some (portField s 16 + 16 * portField s 17 + 2 ^ 8 * s.fab.up.toNat + 2 ^ 26 * s.fab.linked.toNat)
  | 0x028 => some 0
  | 0x030 => some (s.fab.groups.atD s.fab.mcIdx.toNat 0).toNat
  | 0x038 => some (bit s.fab.mcBusy 0 + bit s.fab.mcErr 1)
  | 0x040 => some (s.fab.drained % 2 ^ 32 + 2 ^ 32 * s.fab.epoch.toNat)
  | _ => none

/-- Launch-queue registers (R142); E reads back as it is used. -/
def readLq (s : State) (off : Nat) : Option Nat :=
  let q := off / 0x40
  let y := s.lq q
  if Config.queues ≤ q then none
  else match off % 0x40 with
    | 0x00 => some y.base.toNat
    | 0x08 =>
      some (y.ctx + 2 ^ 8 * y.level + 2 ^ 10 * ringSize y.size + bit y.enable 16 + bit y.dev 17)
    | 0x10 => some y.tail
    | 0x18 => some y.head
    | 0x20 => some (bit (y.enable || queueTaken s q) 0 + bit y.err 1 + 2 ^ 8 * y.status.toNat + 2 ^ 32 * y.finished.toNat)
    | _ => none

/-- Area registers (R169, R256, R311). -/
def readArea (s : State) (off : Nat) : Option Nat :=
  match off with
  | 0x00 => some s.dfqBase.toNat
  | 0x08 => some s.bpBase.toNat
  | 0x10 => some s.popBase.toNat
  | 0x18 => some s.popSize.toNat
  | _ => none

/-- Pre-emption registers (R330). -/
def readPr (s : State) (off : Nat) : Option Nat :=
  match off with
  | 0x00 => some s.pre.mask.toNat
  | 0x08 => some 0
  | 0x10 => some (bit s.pre.busy 0 + bit s.pre.err 1 + bit s.pre.halted 2 + 2 ^ 32 * s.pre.micros.toNat)
  | _ => none

/-- Course registers (R337). -/
def readRp (s : State) (off : Nat) : Option Nat :=
  match off with
  | 0x00 => some 0
  | 0x08 => some 0
  | 0x10 => some 0
  | 0x18 => some (s.rep.committed.toNat + bit s.rep.isOpen 32 + bit s.rep.busy 33 + bit s.rep.err 34 + bit s.rep.patched 35 +
      bit s.rep.memberLost 36 + 2 ^ 48 * (s.rep.launches.length % 8192))
  | 0x20 => some s.rep.closed.toNat
  | _ => none

/-- Reliability registers (R364). -/
def readEl (s : State) (off : Nat) : Option Nat :=
  match off with
  | 0x00 => some s.rel.head
  | 0x08 => some s.rel.read
  | 0x10 => some s.rel.lost
  | 0x18 => some 0
  | 0x20 => some (bitsOf s.rel.hash.toNat 0 64)
  | 0x28 => some (bitsOf s.rel.hash.toNat 64 64)
  | 0x30 => some (bitsOf s.rel.hash.toNat 128 64)
  | 0x38 => some (bitsOf s.rel.hash.toNat 192 64)
  | 0x40 => some 0
  | 0x48 => some (bit s.rel.subBusy 0 + bit s.rel.subErr 1 + 2 ^ 8 * (s.rel.recs.length % 256))
  | _ => none

/-- Power registers (R369). -/
def readPw (s : State) (off : Nat) : Option Nat :=
  match off with
  | 0x00 => some s.pow.clk
  | 0x08 => some s.pow.gate.toNat
  | 0x10 => some (bit s.pow.ref 0)
  | 0x18 => some (s.pow.eff + bit s.pow.trip 2 + bit s.pow.busy 3 + bit s.pow.err 4 + 2 ^ 8 * (hottest s % 256))
  | 0x20 => some 0
  | _ => none

/-- READS A REGISTER at a physical address; a write-only one reads zero (log 72). -/
def regRead (s : State) (a : Nat) : Option Nat :=
  let off := a % 0x10000
  match a / 0x10000 with
  | 0x600001 => readXl s off
  | 0x600002 => readFx s off
  | 0x600003 => readLq s off
  | 0x600004 => readArea s off
  | 0x600005 => readPr s off
  | 0x600006 => readRp s off
  | 0x600007 => readEl s off
  | 0x600008 => readPw s off
  | _ => none

/-! ## Writing -/

/-- A write of a register that has an operation of its own is that operation; a read-only one keeps its value. -/
def writeXl (off : Nat) (v : DWord) (s : State) : Result :=
  match off with
  | 0x000 => .next { s with xl := { s.xl with ctxBase := v &&& 0x000FFFFFFFFFF000 } }
  | 0x008 => .next (xlinv (invKind v) v s)
  | 0x018 => execFqbaseWrite v s
  | 0x028 => execFqtailWrite v s
  | 0x030 => if v.getLsbD 12 then execFqresumeKill (v.setWidth 12) s else execFqresumeResume (v.setWidth 12) s
  | _ => .next s

/-- The fabric registers (R124). What FXLOSS uses in place of 0 reads back too, as for FXTIMEOUT (DESIGN CHOICE, log 120). -/
def writeFx (off : Nat) (v : DWord) (s : State) : Result :=
  match off with
  | 0x000 => .next { s with fab := { s.fab with timeout := Nat.max 1000 (v.toNat % 2 ^ 20) } }
  | 0x008 => .next { s with fab := { s.fab with loss := Nat.max 1 (v.toNat % 2 ^ 24) } }
  | 0x028 => .next { s with fab := { s.fab with mcIdx := v.setWidth 16 } }
  | 0x030 => execFxmcdataWrite v s
  | _ => .next s

def writeLq (off : Nat) (v : DWord) (s : State) : Result :=
  match off % 0x40 with
  | 0x00 => execLqbaseWrite (off / 0x40) v s
  | 0x08 => execLqcfgWrite (off / 0x40) v s
  | 0x10 => execLaunchRegister (off / 0x40) v s
  | _ => .next s

def writeArea (off : Nat) (v : DWord) (s : State) : Result :=
  match off with
  | 0x00 => .next { s with dfqBase := v &&& 0x000FFFFFFFE00000 }
  | 0x08 => .next { s with bpBase := v &&& 0x000FFFFFFFFFF000 }
  | 0x10 => .next { s with popBase := v &&& 0x000FFFFFFFE00000 }
  | 0x18 => .next { s with popSize := v.setWidth 32 }
  | _ => .next s

def writePr (off : Nat) (v : DWord) (s : State) : Result :=
  match off with
  | 0x00 => .next (if s.pre.busy then prError s else { s with pre := { s.pre with mask := v } })
  | 0x08 => if v.getLsbD 1 then execResume v s else execPreempt v s
  | _ => .next s

def writeRp (off : Nat) (v : DWord) (s : State) : Result :=
  match off with
  | 0x00 => execRprun v s
  | 0x08 => execRpclose v s
  | 0x10 => execRpend v s
  | _ => .next s

def writeEl (off : Nat) (v : DWord) (s : State) : Result :=
  match off with
  | 0x08 => execElreadWrite v s
  | 0x18 => execElckpt v s
  | 0x40 => .next (subcmd (bitsOf v.toNat 0 4) v s)
  | _ => .next s

def writePw (off : Nat) (v : DWord) (s : State) : Result :=
  match off with
  | 0x00 => execPwclkWrite v s
  | 0x08 => execPwgateWrite v s
  | 0x10 => execPwrefWrite v s
  | 0x20 => execPwtripclr v s
  | _ => .next s

/-- WRITES A REGISTER at a physical address. -/
def regWrite (a : Nat) (v : DWord) (s : State) : Result :=
  let off := a % 0x10000
  match a / 0x10000 with
  | 0x600001 => writeXl off v s
  | 0x600002 => writeFx off v s
  | 0x600003 => writeLq off v s
  | 0x600004 => writeArea off v s
  | 0x600005 => writePr off v s
  | 0x600006 => writeRp off v s
  | 0x600007 => writeEl off v s
  | 0x600008 => writePw off v s
  | _ => .next s

/-- REGISTER_WRITE (R373): no table lists a register at any other address, and there the model stops. -/
def execRegisterWrite (addr : DWord) (v : DWord) (s : State) : Result :=
  match regRead s addr.toNat with
  | some _ => regWrite addr.toNat v s
  | none => .refused (.noSuchRegister addr.toNat)

/-! ## Memory (R27, R83, R366) -/

/-- A store of an application core, or of the PCIe endpoint, to local memory: at level 2, with its sectors on the package board for
later acquires; the error-log region takes none (R366, log 73). -/
def appStore (s : State) (a : Nat) (bs : List Byte) : State :=
  let k := Nat.min bs.length (Config.memTop - a)
  publishPkg { s with mem := Mem.splice s.mem a (bs.take k) } (signature (sectorsOf a k))

/-- APPLICATION_CORE_MEMORY_ACCESS (R27, R83): local memory, the error-log region for loads, and the registers. -/
def execApplicationCoreMemoryAccess (acc : AppAccess) (s : State) : Result :=
  let answer (bs : List Byte) : Result := .next { s with host := { s.host with reads := s.host.reads ++ [bs] } }
  match acc with
  | .load a n =>
    if a.toNat + n ≤ Config.memEnd then answer (Mem.bytes s.mem a.toNat n)
    else match regRead s a.toNat with
      | some v => answer (leBytes n v)
      | none => .fault (.noSuchMemory a.toNat)
  | .store a bs =>
    if a.toNat + bs.length ≤ Config.memEnd then .next (if a.toNat < Config.memTop then appStore s a.toNat bs else s)
    else match regRead s a.toNat with
      | some _ => regWrite a.toNat (BitVec.ofNat 64 (leNat bs)) s
      | none => .fault (.noSuchMemory a.toNat)

end Sys2Proof.Machine
end

