-- ==== Sys2Proof/Machine/Stream.lean ====
section
/-! DEFINITION. Group 0xF: the access stream of a workgroup (R187, R265 to R268, R325, R358). -/

namespace Sys2Proof.Machine

/-! ## Issue -/

/-- Where the stream stands behind an instruction. -/
inductive After where
  | next
  /-- At the instruction: it waits, has trapped or tries again. -/
  | stay
  | goto (pc : DWord)
  deriving DecidableEq, Repr

/-- What a stream form does. -/
abbrev StreamStep := Clause → State → Nat → Stream → State × After

/-- The stream's clause ends. -/
def endStreamClause (s : State) : State := { s with clauses := s.clauses.tail }

/-- A stream waits at its instruction. -/
def streamWait (s : State) (c k : Nat) (w : Wait) : State × After :=
  (s.modStream c k (fun t => { t with wait := w }), .stay)

/-- A stream traps (R325). -/
def streamTrap (x : Clause) (s : State) (k cause detail : Nat) (addr : Nat) : State × After :=
  (raiseStreamTrap s x.core k cause x.pc { lanes := 1, detail := detail, addr := BitVec.ofNat 64 addr }, .stay)

/-- The stream's launch is reproducible (R334). -/
def streamRepro (s : State) (t : Stream) : Bool := match s.launches.at? t.launch with | some y => y.repro | none => false

/-- Issues a stream form for the clause at the head (R170, R176). A timing source in a reproducible launch traps (R336). -/
def stream (i : Instr) (f : StreamStep) (s : State) : State :=
  match s.clauses with
  | [] => s
  | x :: _ =>
    match x.picker with
    | .stream k =>
      match (s.core x.core).streams.at? k with
      | none => endStreamClause s
      | some t =>
        if x.guard.neg then streamNext x s k
        else
          let r := if streamRepro s t && i.operands.any isTiming then streamTrap x s k Cause.nondet 0 0 else f x s k t
          match r.2 with
          | .next => streamNext x r.1 k
          | .stay => endStreamClause r.1
          | .goto pc =>
            let s1 := endStreamClause (r.1.modStream x.core k (fun t => { t with pc := pc, buf := [] }))
            if t.stepping then raiseStreamTrap s1 x.core k Cause.singleStep pc { lanes := 1 } else s1
    | _ => s

/-! ## Operands (R177 to R179, R265) -/

/-- A special register as a stream reads it: as warp 0 of its workgroup would (R178). -/
def streamSpecial (s : State) (c : Nat) (t : Stream) (code : Nat) : Nat :=
  let g (f : Wg → Nat) : Nat := match s.wgs.at? t.wg with | some g => f g | none => 0
  let x (f : Launch → Nat) : Nat := match s.launches.at? t.launch with | some x => f x | none => 0
  match code with
  | 0x02 => g Wg.x
  | 0x03 => g Wg.y
  | 0x04 => g Wg.z
  | 0x05 => x Launch.gridX
  | 0x06 => x Launch.gridY
  | 0x07 => x Launch.gridZ
  | 0x08 => x Launch.threads
  | 0x0A => c % 4
  | 0x0B => s.fab.index
  | 0x0C => x Launch.course
  | 0x20 => s.now % 2 ^ 64
  | 0x21 => s.now / 2 ^ 32 % 2 ^ 32
  | _ => 0

/-- Reads an operand of a stream form. -/
def streamRead (s : State) (c : Nat) (t : Stream) (ty : Ty) (p : Pos) (o : Operand) : Nat :=
  match o with
  | .main r => words p (fun i => t.regs.atD (r.toNat + i) 0)
  | .imm v => immVal ty p v
  | .special code => if p == .w64 then streamSpecial s c t code.toNat else streamSpecial s c t code.toNat % 2 ^ 32
  | _ => 0

/-- Writes an access register or pair. -/
def streamWrite (s : State) (c k : Nat) (p : Pos) (d : Operand) (v : Nat) : State :=
  s.modStream c k (fun t => t.take 0 p d v)

/-! ## Arithmetic and loops (R187, R266) -/

/-- An arithmetic form: its result from the operands. -/
def streamArith (f : FmtA) (g : Nat → Nat → Nat → Nat) : StreamStep := fun x s k t =>
  let r (o : Operand) : Nat := streamRead s x.core t f.ty f.ty.pos o
  (streamWrite s x.core k f.ty.pos f.d (g (r f.a) (r f.b) (r f.c) % 2 ^ f.ty.bits), .next)

/-- `aadd` (R266). -/
def execAadd (f : FmtA) (s : State) : Result := .next (stream (.aadd f) (streamArith f (fun a b _ => a + b)) s)

/-- `asub` (R266). -/
def execAsub (f : FmtA) (s : State) : Result :=
  .next (stream (.asub f) (streamArith f (fun a b _ => a + (2 ^ f.ty.bits - b % 2 ^ f.ty.bits))) s)

/-- `amad` (R266). -/
def execAmad (f : FmtA) (s : State) : Result := .next (stream (.amad f) (streamArith f (fun a b c => a * b + c)) s)

/-- `amovi` (R266). -/
def execAmovi (f : FmtI) (s : State) : Result :=
  .next (stream (.amovi f) (fun x s k _ => (streamWrite s x.core k f.ty.pos f.d f.imm.toNat, .next)) s)

/-- `amin` (R266). -/
def execAmin (f : FmtA) (s : State) : Result := .next (stream (.amin f) (streamArith f (fun a b _ => Nat.min a b)) s)

/-- `aand` (R266). -/
def execAand (f : FmtA) (s : State) : Result := .next (stream (.aand f) (streamArith f (fun a b _ => a &&& b)) s)

/-- `ashr` (R266). -/
def execAshr (f : FmtA) (s : State) : Result :=
  .next (stream (.ashr f) (streamArith f (fun a b _ => if f.ty.bits ≤ b then 0 else a / 2 ^ b)) s)

/-- A fault of the stream (R35, R39, R358): it parks alone, or takes the fatal trap. -/
def streamFault (x : Clause) (s : State) (k : Nat) (t : Stream) (kind : AccKind) (write : Bool) (cause va : Nat) : State × After :=
  let ctx := match s.launches.at? t.launch with | some y => y.ctx | none => 0
  if replayable s kind cause then
    let j := joinFault s (BitVec.ofNat 64 va) ctx x.core cause kind write 0
    streamWait j.1 x.core k (.fault j.2 kind)
  else streamTrap x s k Cause.translation (cause + 16 * agentCode kind) va

/-- Context of a stream's accesses. -/
def streamCtx (s : State) (t : Stream) : Nat := match s.launches.at? t.launch with | some y => y.ctx | none => 0

/-- The instruction at a loop's target is `aend` (R187). -/
def isAend (l : Line) (slot : Nat) : Bool :=
  lineKind l = 1 && (match decodeSlot l slot with | .ok i => i == .aend | .error _ => false)

/-- `aloop` (R187). -/
def aloopStep (f : FmtB) : StreamStep := fun x s k t =>
  let tgt := targetB f x.addr
  let var := match f.d with | .main r => r.toNat | _ => 0
  if !pcOk tgt then streamTrap x s k Cause.controlTransfer 0 0
  else match fetchLine s x.core (streamCtx s t) tgt with
    | (s1, .fault cause) => streamFault x s1 k t .affine false cause (tgt.toNat / 64 * 64)
    | (s1, .remote) => streamWait s1 x.core k (.walk (tgt &&& ~~~63) .ifetch false)
    | (s1, .parity) => streamTrap x s1 k Cause.controlTransfer 0 0
    | (s1, .line l) =>
      let n := streamRead s1 x.core t .n32 .w32 f.a
      if !isAend l (tgt.toNat % 8) then streamTrap x s1 k Cause.controlTransfer 0 0
      else if n = 0 then (s1, .goto (nextPc tgt))
      else if 4 ≤ t.loops.length then streamTrap x s1 k Cause.controlTransfer 0 0
      else
        let e : LoopEntry := { start := nextPc x.pc, fin := tgt, var := var, count := BitVec.ofNat 32 n }
        (s1.modStream x.core k (fun t => { t with loops := e :: t.loops, regs := t.regs.putD var 0 0 }), .next)

/-- `aloop` (R187). -/
def execAloop (f : FmtB) (s : State) : Result := .next (stream (.aloop f) (aloopStep f) s)

/-- `aend` (R187). -/
def execAend (s : State) : Result :=
  .next (stream .aend (fun x s k t =>
    match t.loops with
    | [] => streamTrap x s k Cause.controlTransfer 0 0
    | e :: rest =>
      if e.fin != x.pc then streamTrap x s k Cause.controlTransfer 0 0
      else
        let v := t.regs.atD e.var 0 + 1
        let s1 := s.modStream x.core k (fun t => { t with regs := t.regs.putD e.var v 0 })
        if v < e.count then (s1, .goto e.start)
        else (s1.modStream x.core k (fun t => { t with loops := rest }), .next)) s)

/-! ## Addresses and rows (R266, R267) -/

/-- Log2 of the scale of a stream access: MMOD[3:0] (R266). -/
def scaleOf (f : FmtM) : Nat := 2 ^ bitsOf f.mmod.toNat 0 4

/-- pair + index × S + sext24(OFFSET) (R266). -/
def streamAddr (s : State) (c : Nat) (t : Stream) (f : FmtM) (index : Nat) : Nat :=
  truncN 64 ((streamRead s c t .n64 .w64 f.addr : Int) + (index * scaleOf f : Nat) + f.off.toInt)

/-- What the stream is to the address decoder. -/
def streamWho (s : State) (c : Nat) (t : Stream) : Who :=
  { core := c, ctx := streamCtx s t, wg := some t.wg, regs := none, dbg := false }

/-- The window an address lies in, as a row may not leave it (R267). -/
def windowClass (va : Nat) : Region :=
  match regionOf va with
  | .self _ => .self 0
  | .scratch _ _ => .scratch 0 0
  | .debug _ => .debug 0
  | r => r

def Place.plus (p : Place) (n : Nat) : Place :=
  match p with
  | .mem a => .mem (a + n)
  | .side a => .side (a + n)
  | .store c a => .store c (a + n)
  | .peer q a => .peer q (a + n)
  | .debug c a => .debug c (a + n)

/-- What a row's translation finds: the place and hint of each of its 32 words, or a cause and the address it names. -/
abbrev Row := Except (Nat × Nat) (List (Place × Nat))

/-- Translates a row as its two parts (R267). -/
def rowPlaces (s : State) (c : Nat) (t : Stream) (va : Nat) (write : Bool) : State × Row :=
  let n1 := Nat.min 128 (65536 - va % 65536)
  let va2 := (va + n1) % 2 ^ 64
  let acc (n : Nat) : Access := { kind := .affine, write := write, odd := false, width := n }
  let part (p : Place) (leaf n : Nat) : List (Place × Nat) := (List.range (n / 4)).map (fun j => (p.plus (4 * j), leaf))
  if n1 < 128 && windowClass va != windowClass va2 then (s, .error (XCause.window, va))
  else match resolveNow s (streamWho s c t) (acc n1) va with
    | (s1, .fault f) => (s1, .error (f, va))
    | (s1, .miss) => (s1, .error (XCause.notPresent, va))
    | (s1, .ok p1 leaf1) =>
      if n1 = 128 then (s1, .ok (part p1 leaf1 128))
      else match resolveNow s1 (streamWho s1 c t) (acc (128 - n1)) va2 with
        | (s2, .fault f) => (s2, .error (f, va2))
        | (s2, .miss) => (s2, .error (XCause.notPresent, va2))
        | (s2, .ok p2 leaf2) => (s2, .ok (part p1 leaf1 n1 ++ part p2 leaf2 (128 - n1)))

/-- Reads the words of a row that lie in this package, and those that peers have sent. -/
def rowRead (s : State) (h : Hint) (t : Stream) (ps : List (Place × Nat)) : State × List (Option Word) :=
  let w (s : State) (j : Nat) (p : Place) : Option Word := match p with
    | .mem pa | .side pa => some (BitVec.ofNat 32 (Mem.rd s.mem pa 4))
    | .store d off => some (BitVec.ofNat 32 (Mem.rd (s.core d).store off 4))
    | _ => t.buf.at? j
  let s1 := ps.foldl (fun s p => match p.1 with | .mem pa => l2Touch s pa (effHint h p.2) | _ => s) s
  (s1, (ps.zip (List.range 32)).map (fun e => w s e.2 e.1.1))

/-- Some access of the stream that satisfies a test is in flight. -/
def streamBusy (s : State) (c k : Nat) (p : MemOp → Bool) : Bool := s.ops.anyV (fun _ o => o.owner == .stream c k && p o)

/-- Puts an operation of the stream in flight; the environment performs its lanes (R236). -/
def streamOp (s : State) (c k : Nat) (o : MemOp) : State × Nat :=
  (raiseStreamFlag { s.bump with ops := s.ops.put s.fresh o } c k o.flag, s.fresh)

/-- Asks the peers for the words of a row that are missing, and waits for them (R107, R267). -/
def rowAsk (s : State) (c k : Nat) (h : Hint) (ps : List (Place × Nat)) (have_ : List (Option Word)) : State × After :=
  if streamBusy s c k (fun o => match o.body with | .load (.queue _ _) _ _ => true | _ => false) then streamWait s c k .drain
  else
    let lanes : List LaneAcc := ((ps.zip have_).zip (List.range 32)).filterMap (fun e => match e.1.2 with
      | some _ => none
      | none => some { lane := e.2, place := e.1.1.1, data := 0, hint := h, sw := false, ms := pteMS e.1.1.2, sent := false })
    let o : MemOp := { owner := .stream c k, body := .load (.queue 0 false) .b32 false, ty := .b32, width := 4, hint := h, scope := .wp,
                       order := .plain, lanes := lanes, more := false, flag := none }
    let r := streamOp s c k o
    let s1 := performMask r.1 r.2 (BitVec.allOnes 32)
    if (s1.ops.at? r.2).isNone then (s1, .stay) else streamWait s1 c k .drain

/-- Reads one row and pushes it: the stream's push is a release of its earlier accesses (R17, R262, R266, R358). -/
def rowPush (x : Clause) (f : FmtM) (q : Nat) (va : Nat) (s : State) (k : Nat) (t : Stream) : State × After :=
  let c := x.core
  if va % 4 != 0 then streamTrap x s k Cause.misaligned 0 va
  else match rowPlaces s c t va false with
    | (s1, .error (cause, at_)) => streamFault x s1 k t .affine false cause at_
    | (s1, .ok ps) =>
      if ps.any (fun p => frameLost s1 p.1) then streamTrap x s1 k Cause.dataLoss (16 * agentCode .affine) va
      else
        let r := rowRead s1 f.hint t ps
        let ws := r.2.filterMap id
        if ws.length < 32 then rowAsk r.1 c k f.hint ps r.2
        else match queueRoom r.1 t.wg q with
          | .unconfigured => streamTrap x r.1 k Cause.contract 0 0
          | .blocked => streamWait r.1 c k (.push q)
          | .ready _ =>
            if streamBusy r.1 c k (fun _ => true) then streamWait r.1 c k .drain
            else ((queueAdd r.1 t.wg q ws).modStream c k (fun t => { t with buf := [] }), .next)

/-- The queue an operand names. -/
def queueOf (o : Operand) : Nat := match o with | .queue q _ => q.toNat | _ => 0

/-- The queue is configured in the stream's workgroup (R261). -/
def queueKnown (s : State) (wg q : Nat) : Bool :=
  match s.wgs.at? wg with | some g => (g.queues.at? q).isSome | none => false

/-- An acquiring load of the stream is in flight, which its later accesses follow (R84). -/
def streamAcquiring (s : State) (c k : Nat) : Bool := streamBusy s c k (fun o => o.order.acquires)

/-- A form on queues and memory: the queues it names must be configured (R261), and an acquire before it must have acted. -/
def streamMem (qs : List Nat) (f : StreamStep) : StreamStep := fun x s k t =>
  if qs.any (fun q => !queueKnown s t.wg q) then streamTrap x s k Cause.contract 0 0
  else if streamAcquiring s x.core k then streamWait s x.core k .drain
  else f x s k t

/-- `ald` (R266). -/
def execAld (f : FmtM) (s : State) : Result :=
  .next (stream (.ald f) (streamMem [] (fun x s k t =>
    let c := x.core
    let n := tyBytes f.ty
    let va := streamAddr s c t f (streamRead s c t .n32 .w32 f.index)
    if va % n != 0 then streamTrap x s k Cause.misaligned 0 va
    else match resolveNow s (streamWho s c t) { kind := .affine, write := false, odd := false, width := n } va with
      | (s1, .fault cause) => streamFault x s1 k t .affine false cause va
      | (s1, .miss) => streamFault x s1 k t .affine false XCause.notPresent va
      | (s1, .ok p leaf) =>
        if frameLost s1 p then streamTrap x s1 k Cause.dataLoss (16 * agentCode .affine) va
        else
          let h := effHint f.hint leaf
          let o : MemOp := { owner := .stream c k, body := .load f.data f.ty false, ty := f.ty, width := n, hint := h, scope := f.scope
                             order := f.order
                             lanes := [{ lane := 0, place := p, data := 0, hint := h, sw := false, ms := p.isPeer && pteMS leaf, sent := false }]
                             more := false, flag := flagOf x.line f.fs }
          ((streamOp s1 c k o).1, .next))) s)

/-- `apush` (R17, R266, R267). -/
def execApush (f : FmtM) (s : State) : Result :=
  .next (stream (.apush f) (streamMem [queueOf f.data] (fun x s k t =>
    rowPush x f (queueOf f.data) (streamAddr s x.core t f (streamRead s x.core t .n32 .w32 f.index)) s k t)) s)

/-- The rows of an `agath` from the one it stands at (R268). -/
def gatherRows (x : Clause) (f : FmtM) (k : Nat) : Nat → State → State × After
  | 0, s => (s, .stay)
  | n + 1, s =>
    match (s.core x.core).streams.at? k with
    | none => (s, .stay)
    | some t =>
      match t.gath with
      | none => (s, .stay)
      | some ws =>
        let va := streamAddr s x.core t f (ws.getD t.row 0).toNat
        match rowPush x f (queueOf f.data) va s k t with
        | (s1, .next) =>
          if t.row = bitsOf f.mmod.toNat 4 5 then (s1.modStream x.core k (fun t => { t with gath := none, row := 0 }), .next)
          else gatherRows x f k n (s1.modStream x.core k (fun t => { t with row := t.row + 1 }))
        | r => r

/-- `agath` (R268): the index entry is popped once, and each row is pushed once. -/
def execAgath (f : FmtM) (s : State) : Result :=
  .next (stream (.agath f) (streamMem [queueOf f.data, queueOf f.index] (fun x s k t =>
    match t.gath with
    | some _ => gatherRows x f k 33 s
    | none => match queueHead s t.wg (queueOf f.index) with
      | .ready ws =>
        -- The pop is an acquire: what the pushing warp stored must be home, where the stream reads it (R86, R262).
        if wbHeld s x.core then streamWait s x.core k .drain
        else gatherRows x f k 33 ((queueDrop (writeBackAll s x.core) t.wg (queueOf f.index)).modStream x.core k (fun t =>
          { t with gath := some ws, row := 0 }))
      | .blocked => streamWait s x.core k (.pop (queueOf f.index))
      | .unconfigured => streamTrap x s k Cause.contract 0 0)) s)

/-- Writes the words of a row that lie in this package (R70, R71). -/
def rowWrite (s : State) (h : Hint) (ps : List (Place × Nat)) (ws : List Word) : State :=
  (ps.zip ws).foldl (fun s e => match e.1.1 with
    | .mem pa => l2Write (s.wrMem pa 4 e.2.toNat) pa 4 (effHint h e.1.2)
    | .side pa => s.wrMem pa 4 e.2.toNat
    | .store d off => s.wrStore d off 4 e.2.toNat
    | _ => s) s

/-- An access of the stream to bytes of a row is still in flight, which the row's write follows (R81, R265). -/
def rowClash (s : State) (c k : Nat) (ps : List (Place × Nat)) : Bool :=
  streamBusy s c k (fun o =>
    let words : MemOp := { o with width := 4 }
    o.lanes.any (fun a => ps.any (fun p => overlaps (accRange o a) (accRange words { a with place := p.1 }))))

/-- `ast` (R266, R267): translation comes before the pop; ownership, the write and its publication follow R67, R70 and R77. -/
def astStep (f : FmtM) : StreamStep := fun x s k t =>
  let c := x.core
  let q := queueOf f.data
  let va := streamAddr s c t f (streamRead s c t .n32 .w32 f.index)
  if va % 4 != 0 then streamTrap x s k Cause.misaligned 0 va
  else match rowPlaces s c t va true with
    | (s1, .error (cause, at_)) => streamFault x s1 k t .affine true cause at_
    | (s1, .ok ps) =>
      if ps.any (fun p => frameLost s1 p.1) then streamTrap x s1 k Cause.dataLoss (16 * agentCode .affine) va
      else
      let local_ := ps.filterMap (fun p => match p.1 with | .mem pa => some pa | _ => none)
      let lines := (local_.map (fun pa => pa / 128)).eraseDups
      match queueHead s1 t.wg q with
      | .unconfigured => streamTrap x s1 k Cause.contract 0 0
      | .blocked => streamWait s1 c k (.pop q)
      | .ready ws =>
        if !recordsFree s1 (granulesOf lines) || wbHeld s1 c || rowClash s1 c k ps then streamWait s1 c k .drain
        else
          let eng : EngineRef := .stream c k
          let s2 := freeOwnership (rowWrite (engineStart (queueDrop s1 t.wg q) c eng true lines) f.hint ps ws) eng
          let wrote := ps.filterMap (fun p => match p.1 with | .mem pa | .side pa => some (pa / 32) | _ => none)
          let s3 := if wrote = [] then s2 else enginePublish s2 (some t.wg) wrote.eraseDups
          let lanes : List LaneAcc := ((ps.zip ws).zip (List.range 32)).filterMap (fun e => match e.1.1.1 with
            | .peer _ _ => some { lane := e.2, place := e.1.1.1, data := e.1.2.setWidth 256, hint := f.hint, sw := false, ms := pteMS e.1.1.2, sent := false }
            | _ => none)
          if lanes = [] then (s3, .next)
          else
            let o : MemOp := { owner := .stream c k, body := .store, ty := .b32, width := 4, hint := f.hint, scope := .wp, order := .plain,
                               lanes := lanes, more := false, flag := flagOf x.line f.fs }
            let r := streamOp s3 c k o
            (performMask r.1 r.2 (BitVec.allOnes 32), .next)

/-- `ast` (R266, R267). -/
def execAst (f : FmtM) (s : State) : Result := .next (stream (.ast f) (streamMem [queueOf f.data] (astStep f)) s)

/-- `apf` (R243, R266, R267): a part that would fault, or meets data loss, is dropped, and what an engine owns is held (R71, R362). -/
def execApf (f : FmtM) (s : State) : Result :=
  .next (stream (.apf f) (fun x s _ t =>
    let c := x.core
    let va := streamAddr s c t f (streamRead s c t .n32 .w32 f.index)
    let n1 := Nat.min 128 (65536 - va % 65536)
    let fetch (s : State) (va n : Nat) : State :=
      if n = 0 then s
      else match resolveNow s (streamWho s c t) { kind := .prefetch, write := false, odd := false, width := n } va with
        | (s1, .ok (.mem pa) leaf) =>
          if frameLost s1 (.mem pa) then s1
          else (linesOf pa n).foldl (fun s l => fillFor s { core := c, pa := 128 * l, hint := effHint f.hint leaf, level1 := false }) s1
        | (s1, _) => s1
    (fetch (fetch s va n1) ((va + n1) % 2 ^ 64) (128 - n1), .next)) s)

/-- `afence` (R76, R84, R266): a release waits for every access of the stream, an acquire for its loads, and at span scope a release
for the core's peer stores. The stream reads at the home slices, so its acquire sends home what the core's warps have stored (R86, R265). -/
def execAfence (f : FmtS) (s : State) : Result :=
  let o := fenceOrder f
  let sc := fenceScope f
  .next (stream (.afence f) (fun x s k t =>
    let c := x.core
    let wait := (o.releases && (streamBusy s c k (fun _ => true) || (sc == .span && peerOwed s c))) ||
      (o.acquires && streamBusy s c k (fun p => match p.body with | .load _ _ _ => true | _ => false)) || (sc != .wp && wbHeld s c)
    if wait then streamWait s c k .drain
    else (fenceNow (if o.acquires && sc != .wp then writeBackAll s c else s) c (some t.wg) o sc, .next)) s)

/-- `astop` (R266): the stream ends once its accesses have completed. -/
def execAstop (s : State) : Result :=
  .next (stream .astop (fun x s k _ =>
    if streamBusy s x.core k (fun _ => true) then streamWait s x.core k .drain
    else (s.modStream x.core k (fun t => { t with ended := true }), .stay)) s)

end Sys2Proof.Machine
end

