-- ==== Sys2Proof/Machine/Schedule.lean ====
section
/-! DEFINITION. The start of a clause: the picker's choice and the bundle (R128 to R131, R158, R170 to R175, R265, R326), the
instruction that a clause in flight issues next, and which hardware step comes when none is prescribed (log 3). -/

namespace Sys2Proof.Machine

/-! ## Candidates (R129, R158) -/

/-- A clause in flight holds the lane. -/
def inClause (s : State) (c k l : Nat) : Bool :=
  s.clauses.any (fun x => x.core = c && x.lanes.any (fun r => r.slot = k && r.lane = l))

/-- A lane may be taken into a bundle, but for the flags its line waits on (R129): it does not wait, its warp is not stopped by a
trap or a halt (R131, R330) nor parked on a fault (R36), under `tstep` it has not run yet (R328), and where its warp holds a stopped
instruction it is one of those that are to run it still (R237). -/
def laneReady (s : State) (c k : Nat) (w : Warp) (l : Nat) : Bool :=
  let x := w.lanes.atD l Lane.never
  (x.kind == .launched || x.kind == .helper) && x.wait == .run && !w.trapped && !haltedLaunch s w.launch && !inClause s c k l &&
    !w.lanes.anyV (fun _ y => y.wait.parksWarp) && (match w.stepping with | some m => maskHas m l | none => true) &&
    (match w.stopped with | some y => x.pc = y.pc && maskHas y.set l && !maskHas y.done l | none => true)

/-- A candidate of a picker: a workgroup, a program counter and the eligible lanes, those of the oldest warp first (R158). -/
structure Cand where
  wg : Nat
  pc : DWord
  lanes : List LaneRef
  level : Nat
  demoted : Bool
  /-- The step since which it has been eligible. -/
  since : Nat

/-- Warps of a partition, oldest first (R129). -/
def partWarps (s : State) (c p : Nat) : List (Nat × Warp) :=
  let ws := (s.core c).warps.filterV (fun _ w => w.part = p)
  (sortBy (fun k => match ws.at? k with | some w => w.age | none => 0) (ws.map Prod.fst)).filterMap (fun k =>
    (ws.at? k).map (fun w => (k, w)))

/-- What the line at a program counter lets a warp do: every flag it waits on is zero, and no flag would pass 63 (R129, R130). A
line that cannot be read, or of another kind, is met on entry (R174, R175). -/
def lineOpen (s : State) (c ctx : Nat) (flags : NMap Nat) (pc : DWord) : Bool :=
  match (fetchLine s c ctx pc).2 with
  | .line l => lineKind l != 0 || (flagsClear flags (lineWait l) && flagsFit flags l)
  | _ => true

/-- Eligible lanes of a partition: workgroup, program counter and lane, those of the oldest warp first (R129). -/
def eligible (s : State) (c p : Nat) : List (Nat × DWord × LaneRef) :=
  (partWarps s c p).flatMap (fun e =>
    let pcOf (l : Nat) : DWord := (e.2.lanes.atD l Lane.never).pc
    let ready := lanes32.filter (laneReady s c e.1 e.2)
    let open_ := ((ready.map pcOf).eraseDups).filter (lineOpen s c (s.ctxOf c e.1) e.2.flags)
    (ready.filter (fun l => open_.contains (pcOf l))).map (fun l => (e.2.wg, pcOf l, ({ slot := e.1, lane := l } : LaneRef))))

/-- Priority class of a launch: lowered to its queue's level when it names a higher one (R147). -/
def classOf (s : State) (id : Nat) : Nat :=
  match s.launches.at? id with
  | some x => Nat.min (bitsOf (x.fld 0x28 4) 8 2) (s.lq x.queue).level
  | none => 0

/-- The step since which a pair of workgroup and program counter has been a candidate (R158). -/
def sinceOf (s : State) (c p wg : Nat) (pc : DWord) : Nat :=
  match (s.core c).cands.find? (fun y => y.part = p && y.wg = wg && y.pc = pc) with | some y => y.since | none => s.tick

/-- Keeps, for each core, the candidates of its pickers with the step since which each has been one (R158). -/
def ageCands (s : State) : State :=
  { s with cores := s.cores.mapV (fun c x => { x with
      cands := (List.range 4).flatMap (fun p =>
        (((eligible s c p).map (fun e => (e.1, e.2.1))).eraseDups).map (fun e =>
          { part := p, wg := e.1, pc := e.2, since := sinceOf s c p e.1 e.2 })) }) }

/-- The candidate of a workgroup and program counter. -/
def candOf (s : State) (c p : Nat) (es : List (Nat × DWord × LaneRef)) (wg : Nat) (pc : DWord) : Cand :=
  let ls := (es.filter (fun e => e.1 = wg && e.2.1 = pc)).map (fun e => e.2.2)
  let ws := ls.filterMap (fun r => s.warp? c r.slot)
  { wg := wg, pc := pc, lanes := ls, level := match ws with | w :: _ => classOf s w.launch | [] => 0
    demoted := ws.all (fun w => w.demoted), since := sinceOf s c p wg pc }

/-- A candidate has waited out its bound, each step counting as one cycle (R158, log 8). -/
def Cand.aged (now : Nat) (x : Cand) : Bool := x.since + (if x.demoted then 15360 else 768) ≤ now

/-- The issue order of R158: a goes before b. -/
def Cand.before (now : Nat) (a b : Cand) : Bool :=
  if a.aged now || b.aged now then a.aged now && (!b.aged now || a.since < b.since)
  else if a.level != b.level then b.level < a.level
  else if a.demoted != b.demoted then b.demoted
  else a.since < b.since

/-- The candidate that a partition's picker chooses (R158). -/
def pick (s : State) (c p : Nat) : Option Cand :=
  let es := eligible s c p
  es.foldl (fun (b : Option Cand) e =>
    let x := candOf s c p es e.1 e.2.1
    match b with
    | none => some x
    | some y => if x.before s.tick y then some x else some y) none

/-! ## Forming a bundle (R129, R132, R174) -/

/-- Lanes of a slot among those given. -/
def lanesIn (ls : List LaneRef) (k : Nat) : List Nat := (ls.filter (fun r => r.slot = k)).map LaneRef.lane

/-- Slots among the lanes given, ascending (R322). -/
def slotsIn (ls : List LaneRef) : List Nat := (List.range 48).filter (fun k => ls.any (fun r => r.slot = k))

/-- A line that holds a warp-collective instruction is started by one warp only (R132). -/
def collectiveLine (s : State) (c k : Nat) (l : Line) : Bool :=
  (List.range 5).any (fun i => match decodeSlot l i with | .ok j => collectiveIn s c k j | .error _ => false)

/-- For each lane number, the lane of the oldest warp (R129). -/
def bundle (ls : List LaneRef) : List LaneRef := lanes32.filterMap (fun l => ls.find? (fun r => r.lane = l))

/-- Every warp with lanes in the candidate takes a trap at the entry (R171, R172, R174). -/
def entryTrap (s : State) (c : Nat) (x : Cand) (cause detail : Nat) (addr : DWord) : State :=
  (slotsIn x.lanes).foldl (fun s k =>
    raiseTrap s c k cause x.pc { lanes := maskOf (lanesIn x.lanes k), detail := detail, addr := addr }) s

/-- The line cannot be translated: the lanes park on the record of the fault, or their warps trap (R35, R174). -/
def entryFault (s : State) (c : Nat) (x : Cand) (cause : Nat) : State :=
  let va := x.pc &&& ~~~63
  if replayable s .ifetch cause then
    (slotsIn x.lanes).foldl (fun s k =>
      let j := joinFault s va (s.ctxOf c k) c cause .ifetch false (maskOf (lanesIn x.lanes k))
      parkAll j.1 c k (lanesIn x.lanes k) (.fault j.2 .ifetch)) s
  else entryTrap s c x Cause.translation cause va

/-- Lanes enter a clause: latches of an earlier line are theirs no longer (R50, R129). -/
def enterLanes (s : State) (c : Nat) (pc : DWord) (ls : List LaneRef) : State :=
  (slotsIn ls).foldl (fun s k => s.modWarp c k (fun w => { w with
    entered := true
    lat := if pc.toNat % 8 = 0 then w.lat.filterV (fun i _ => !(lanesIn ls k).contains (i % 32)) else w.lat })) s

/-- Puts a clause in flight, to be issued next. -/
def fly (s : State) (c : Nat) (p : Picker) (pc : DWord) (l : Line) (ls : List LaneRef) : State :=
  { s with clauses :=
      { core := c, picker := p, addr := pc &&& ~~~63, line := l, entry := pc.toNat % 8, slot := pc.toNat % 8,
        guard := { neg := false, pred := 7 }, lanes := ls } :: s.clauses }

/-- The line has come: the checks of entry, and the bundle (R129, R171, R174). -/
def startLine (s : State) (c p : Nat) (x : Cand) (l : Line) : State :=
  let first (k : Nat) : Bool := match s.warp? c k with | some w => !w.entered | none => false
  let fresh := x.lanes.filter (fun r => first r.slot)
  if lineKind l = 3 then entryTrap s c x Cause.illegalEncoding 0 0
  else if fresh != [] && (lineKind l != 0 || !lineTgt l 0) then
    entryTrap s c { x with lanes := fresh } Cause.controlTransfer 0 0
  else if lineKind l != 0 then entryTrap s c x Cause.controlTransfer 0 0
  else
    let k := match x.lanes with | r :: _ => r.slot | [] => 0
    let ls := bundle (if collectiveLine s c k l then x.lanes.filter (fun r => r.slot = k) else x.lanes)
    fly (enterLanes s c x.pc ls) c (.part p) x.pc l ls

/-- A partition's picker starts a clause. -/
def partClause (s : State) (c p : Nat) : State :=
  match pick s c p with
  | none => s
  | some x =>
    let k := match x.lanes with | r :: _ => r.slot | [] => 0
    match fetchLine s c (s.ctxOf c k) x.pc with
    | (s1, .line l) => startLine ((slotsIn x.lanes).foldl (fun s k => noteFetch s c k x.pc) s1) c p x l
    | (s1, .fault f) => entryFault s1 c x f
    | (s1, .parity) => entryTrap s1 c x Cause.fetchError 0 0
    | (s1, .remote) => (slotsIn x.lanes).foldl (fun s k =>
        parkAll s c k (lanesIn x.lanes k) (.walk (x.pc &&& ~~~63) .ifetch false)) s1

/-- An access stream may issue (R265, R325). -/
def streamReady (s : State) (t : Stream) : Bool :=
  t.started && !t.stopped && !t.ended && t.wait == .run && !haltedLaunch s t.launch

/-- An access stream starts a clause, on its own flags (R174, R175, R265). -/
def streamClause (s : State) (c k : Nat) : State :=
  match (s.core c).streams.at? k with
  | none => s
  | some t =>
    if !streamReady s t then s
    else
      let trap (s : State) (cause : Nat) : State := raiseStreamTrap s c k cause t.pc { lanes := 1 }
      match fetchLine s c (streamCtx s t) t.pc with
      | (s1, .line l) =>
        if lineKind l = 3 then trap s1 Cause.illegalEncoding
        else if !t.entered && (lineKind l != 1 || !lineTgt l 0) then trap s1 Cause.controlTransfer
        else if lineKind l != 1 then trap s1 Cause.controlTransfer
        else if !flagsClear t.flags (lineWait l) || !flagsFit t.flags l then s
        else fly (s1.modStream c k (fun t => { t with entered := true })) c (.stream k) t.pc l []
      | (s1, .fault f) =>
        let x : Clause := { core := c, picker := .stream k, addr := t.pc &&& ~~~63, line := 0, entry := t.pc.toNat % 8,
                            slot := t.pc.toNat % 8, guard := { neg := false, pred := 7 }, lanes := [] }
        (streamFault x s1 k t .ifetch false f (t.pc.toNat / 64 * 64)).1
      | (s1, .parity) => trap s1 Cause.fetchError
      | (s1, .remote) => s1.modStream c k (fun t => { t with wait := .walk (t.pc &&& ~~~63) .ifetch false })

/-- The control core starts a clause; it has no trap, and halts where a warp would take one (R326). -/
def controlClause (s : State) (c : Nat) : State :=
  let y := (s.core c).ctrl
  if !y.loaded || y.halted || y.wait != .run then s
  else match fetchLine s c y.ctx y.pc with
    | (s1, .line l) =>
      if lineKind l != 0 then haltControl s1 c else fly s1 c .control y.pc l [{ slot := ctrlSlot, lane := 0 }]
    | (s1, .remote) => s1.modCtrl c (fun y => { y with wait := .walk (y.pc &&& ~~~63) .ifetch false })
    | (s1, _) => haltControl s1 c

/-- CLAUSE_START (R129): a picker that has a clause in flight goes on with it; another forms a bundle. -/
def execClauseStart (core : Nat) (picker : Picker) (s : State) : Result :=
  let mine (x : Clause) : Bool := x.core = core && x.picker == picker
  .next (if s.clauses.any mine then
      { s with clauses := s.clauses.filter mine ++ s.clauses.filter (fun x => !mine x) }
    else match picker with
      | .part p => partClause s core p
      | .stream k => streamClause s core k
      | .control => controlClause s core)

/-! ## The instruction that a clause issues (R170, R190) -/

/-- The opcodes of the forms that only the control core executes (R327). -/
def ctrlOpcode (w : IWord) : Bool :=
  let o := fld w 86 10
  (decide (0x383 ≤ o) && decide (o ≤ 0x38F)) || o == 0x393

/-- The present slot of a clause holds no instruction: its warps, its stream or its control core take the trap (R190, R325, R326).
A warp that meets a form of the control core takes illegal-opcode, which comes before illegal-encoding (R190, R327). -/
def undecoded (s : State) (x : Clause) (e : DecodeError) : State :=
  let s1 := match x.picker with
    | .part _ =>
      let cause := match e with
        | .illegalOpcode => Cause.illegalOpcode
        | .illegalEncoding =>
          if ctrlOpcode (slotWord x.line x.slot) && decide (lineKind x.line < 2) then Cause.illegalOpcode else Cause.illegalEncoding
      x.slots.foldl (fun s k => raiseTrap s x.core k cause x.pc { lanes := maskOf (x.lanesOf k) }) s
    | .stream k =>
      raiseStreamTrap s x.core k (match e with | .illegalOpcode => Cause.illegalOpcode | .illegalEncoding => Cause.illegalEncoding)
        x.pc { lanes := 1 }
    | .control => haltControl s x.core
  { s1 with clauses := s1.clauses.tail }

/-- The state in which the head clause issues its present slot: the clause with that slot's guard (R176). -/
def aimed (s : State) (x : Clause) : State :=
  { s with clauses := { x with guard := guardOf (slotWord x.line x.slot) } :: s.clauses.tail }

/-! ## Hardware steps of the model's own order (log 3) -/

/-- A hardware step that comes about by itself. -/
inductive Auto where
  | memDone (op : Nat)
  | pushUnblock (wg q : Nat)
  | popUnblock (wg q : Nat)
  | barrier (wg b : Nat)
  | grid (launch : Nat)
  | collective (core slot : Nat)
  | rejoin (core slot bar : Nat)
  | pause (core slot lane : Nat)
  | waitwp (core slot lane : Nat)
  | token (launch : Nat)
  | grace (snap : Nat)
  | copyAccept (core ch : Nat)
  | copyLine (core ch : Nat)
  | copyDone (core ch : Nat)
  | matrixDone (core : Nat)
  | lease (core : Nat)
  | tileGrant (core : Nat)
  | regrowGrant (core : Nat)
  | walkDone (core ctx : Nat) (va : DWord)
  | xlinvDone
  | arrival (pop particle : Nat)
  | popClose (pop : Nat)
  | commit
  | reduceStart (launch : Nat)
  | reduceDone (launch : Nat)
  | doneWord (launch : Nat)
  | dispatch
  | substituted
  | clockDone
  | saveDone
  | restore (wg : Nat)
  | mcDone
  | clause (core : Nat) (p : Picker)
  | recheck (core slot lane : Nat)
  | stuck (core slot : Nat)
  | barDead (wg : Nat)
  | tileTimeout (core : Nat)
  | regrowTimeout (core : Nat)
  | internalGrace (span : Bool)
  | swap (launch : Nat)
  | deadline (pop : Nat)
  | evict (core : Nat)
  deriving DecidableEq, Repr

/-- The pause of a lane ends, and with it that of the other lanes of its warp with the same cycles left (R259). -/
def pauseOver (s : State) (c k l : Nat) : State :=
  let w := (s.lane c k l).wait
  (waiting s c k (fun y => y == w)).foldl (fun s m => match execPauseExpiry c k m s with | .next t => t | _ => s) s

/-- What a hardware step does. -/
def Auto.run (a : Auto) (s : State) : Result :=
  match a with
  | .memDone op => execMemoryAccessDone op 0xFFFFFFFF s
  | .pushUnblock wg q => execQueuePushUnblock wg q s
  | .popUnblock wg q => execQueuePopUnblock wg q s
  | .barrier wg b => execBarrierPhaseComplete wg b s
  | .grid l => execGridbarComplete l s
  | .collective c k => execCollectiveIssue c k s
  | .rejoin c k b => execRejoinRelease c k b s
  | .pause c k l => .next (pauseOver s c k l)
  | .waitwp c k l => execWaitwpWake c k l s
  | .token l => execTokenArrives l s
  | .grace n => execGraceComplete n s
  | .copyAccept c ch => execCopyAccept c ch s
  | .copyLine c ch => execCopyLineDelivered c ch s
  | .copyDone c ch => execCopyDone c ch s
  | .matrixDone c => execMatrixOpComplete c s
  | .lease c => execLeaseHandoff c s
  | .tileGrant c => execTileBindGrant c s
  | .regrowGrant c => execRegrowGrant c s
  | .walkDone c x va => execTranslationWalkDone c x va s
  | .xlinvDone => execXlinvComplete s
  | .arrival p i => execArrivalReport p i none 0 s
  | .popClose p => execPopBarrierClose p s
  | .commit => execCourseCommit s
  | .reduceStart l => execReduceBlockDispatch l s
  | .reduceDone l => execReduceBlockDone l s
  | .doneWord l => execDoneWordWrite l s
  | .dispatch => execDispatchWorkgroup s
  | .substituted => execSubstitutionDone s
  | .clockDone => execClockChangeEffective s
  | .saveDone => execPreemptSaveComplete s
  | .restore wg => execContextRestore wg s
  | .mcDone => execMcUpdateDone s
  | .clause c p => execClauseStart c p s
  | .recheck c k l => execWaitaRecheck c k l s
  | .stuck c k => execConvergenceTimeout c k s
  | .barDead wg => execBarrierDeadlock wg s
  | .tileTimeout c => execTileBindTimeout c s
  | .regrowTimeout c => execRegrowFailTimeout c s
  | .internalGrace b => execInternalGrace b s
  | .swap l => execSwapOut l s
  | .deadline p => execStragglerDeadline p s
  | .evict c => .next (evictOne s c)

/-- Lanes of a core that wait: slot, lane and wait. -/
def waitLanes (y : Core) : List (Nat × Nat × Wait) :=
  y.warps.flatMap (fun (e : Nat × Warp) => (e.2.lanes.filterV (fun _ l => l.wait != .run)).map (fun (l : Nat × Lane) =>
    (e.1, l.1, l.2.wait)))

/-- Steps that the lanes of a core wait for. -/
def laneAutos (s : State) (c : Nat) (y : Core) : List Auto :=
  (waitLanes y).filterMap (fun e => match e.2.2 with
    | .waitwp _ _ _ => some (.waitwp c e.1 e.2.1)
    | .rejoin b => some (.rejoin c e.1 b)
    | .collective _ => some (.collective c e.1)
    | .walk va kind _ => if kind == .ifetch then none else some (.walkDone c (s.ctxOf c e.1) va)
    | _ => none)

/-- Steps of a core's engines and pickers of space. -/
def coreAutos (s : State) (c : Nat) (y : Core) : List Auto :=
  laneAutos s c y ++
    y.chans.flatMap (fun (e : Nat × Chan) => [.copyDone c e.1, .copyLine c e.1, .copyAccept c e.1]) ++
    [.matrixDone c, .lease c, .tileGrant c, .regrowGrant c]

/-- Steps of a workgroup. -/
def wgAutos (g : Nat) (x : Wg) : List Auto :=
  x.queues.flatMap (fun (e : Nat × Queue) => [.popUnblock g e.1, .pushUnblock g e.1]) ++ x.bars.map (fun e => .barrier g e.1)

/-- Steps of a launch. The token comes from another member only by the environment's event (R341). -/
def launchAutos (s : State) (id : Nat) (x : Launch) : List Auto :=
  (if x.token.isNone && severalMembers s then [] else [.token id]) ++ [.grid id, .reduceStart id, .reduceDone id, .doneWord id]

/-- Grace periods: one of span scope, where other members are live, ends by the environment's event, which brings their reports (R168,
log 79). -/
def graceAutos (s : State) : List Auto :=
  let alone := decide (((List.range 16).filter (pkgLive s)).length ≤ 1)
  (s.track.snaps.filter (fun x => !x.span || alone)).map (fun x => Auto.grace x.id)

/-- Commits: in a run of several members the environment's event says that the others are ready (R340, log 91). -/
def commitAutos (s : State) : List Auto := if severalMembers s then [] else [.commit]

/-- A list from the place that a free value names, with what stands before it behind (log 3). -/
def turned (s : State) (l : List Auto) : List Auto :=
  let n := (Config.freeBits s.tick).toNat % (l.length + 1)
  l.drop n ++ l.take n

/-- Steps of a population: the reports of its slots here, and the barrier. -/
def popAutos (p : Nat) (x : Population) : List Auto :=
  (x.parts.filterV (fun i _ => (x.reports.at? i).isNone)).map (fun (e : Nat × Particle) => Auto.arrival p e.1) ++ [.popClose p]

/-- Clause starts of every picker. -/
def clauseAutos (s : State) : List Auto :=
  s.cores.flatMap (fun (e : Nat × Core) =>
    (List.range 4).map (fun p => Auto.clause e.1 (.part p)) ++
      e.2.streams.map (fun (t : Nat × Stream) => Auto.clause e.1 (.stream t.1)) ++ [Auto.clause e.1 .control])

/-- This package coordinates a population's barrier: it is the lowest-indexed live member (R314). At the other members the deadline is
the coordinator's, which the environment tells. -/
def coordinates (s : State) (q : Population) : Bool := (q.packages.filter (fun p => pkgLive s p)).head? == some s.fab.index

/-- What only the passing of time brings about: the end of a pause, a parked `waita`'s next look, the time-outs, and evictions. -/
def timeouts (s : State) : List Auto :=
  s.cores.flatMap (fun (e : Nat × Core) =>
    (waitLanes e.2).filterMap (fun q => match q.2.2 with
      | .pause _ => some (Auto.pause e.1 q.1 q.2.1)
      | .waita _ => some (Auto.recheck e.1 q.1 q.2.1)
      | .collective _ | .rejoin _ => some (Auto.stuck e.1 q.1)
      | _ => none) ++ [.tileTimeout e.1, .regrowTimeout e.1, .evict e.1]) ++
    s.wgs.map (fun (e : Nat × Wg) => Auto.barDead e.1) ++
    s.launches.map (fun (e : Nat × Launch) => Auto.swap e.1) ++
    (if s.dfq.isEmpty then [] else [.internalGrace true, .internalGrace false]) ++
    (s.pops.filterV (fun _ q => coordinates s q)).map (fun (e : Nat × Population) => Auto.deadline e.1)

/-- Hardware steps that may be due, in the order in which they are tried: completions first; among clause starts and what time
brings about, the order is a free value. -/
def autos (s : State) : List Auto :=
  s.ops.map (fun e => Auto.memDone e.1) ++
    s.cores.flatMap (fun (e : Nat × Core) => coreAutos s e.1 e.2) ++
    s.wgs.flatMap (fun (e : Nat × Wg) => wgAutos e.1 e.2) ++
    s.launches.flatMap (fun (e : Nat × Launch) => launchAutos s e.1 e.2) ++
    graceAutos s ++
    s.pops.flatMap (fun (e : Nat × Population) => popAutos e.1 e.2) ++
    [.xlinvDone, .saveDone] ++ commitAutos s ++ [.substituted, .clockDone, .mcDone] ++
    (s.pre.order.take 1).map Auto.restore ++ [.dispatch] ++ turned s (clauseAutos s ++ timeouts s)

/-- The first of the steps that changes anything; none changes the state where all are spent. -/
def firstAuto (s : State) : List Auto → State
  | [] => s
  | a :: t => match a.run s with
    | .next u => if u = s then firstAuto s t else u
    | _ => firstAuto s t

/-! ## What a step does (R373, log 3) -/

/-- A hardware step or event, which no word encodes. -/
def Instr.isEvent (i : Instr) : Bool := (encode { neg := false, pred := 7 } i).isNone

/-- The step is a reset. -/
def Instr.isReset (i : Instr) : Bool := match i with | .reset => true | _ => false

/-- What the next step is: an instruction or hardware step to execute in a state, or the state that is left already. -/
inductive Todo where
  | run (i : Instr) (s : State)
  | done (s : State)

/-- The next step. What the environment has prescribed comes first; else the clause at the head issues its slot; else the hardware
does what is due (log 3). With the power off only a reset acts (R368). -/
def todo (s : State) : Todo :=
  match s.agenda, s.clauses with
  | i :: t, _ =>
    if Instr.isEvent i && (!s.pow.off || Instr.isReset i) then .run i { s with agenda := t } else .done { s with agenda := t }
  | [], x :: _ =>
    if s.pow.off then .done s
    else match decodeSlot x.line x.slot with
      | .ok i => .run i (aimed s x)
      | .error e => .done (undecoded s x e)
  | [], [] => .done (if s.pow.off then s else firstAuto s (autos s))

/-- A lane waits for records, pins or held write-backs (R61, R69, R71). -/
def Wait.onRecords : Wait → Bool
  | .record | .drain => true
  | _ => false

/-- Engine ownership or pins have ended: what waits for records or for held write-backs tries again (R61, R69, R71). -/
def wakeRecords (old new : State) : State :=
  if old.own.all (fun r => new.own.contains r) && old.l2.all (fun l => l.pins = 0 || new.l2.any (fun m => m.line = l.line && l.pins ≤ m.pins)) &&
      old.heldWb.length ≤ new.heldWb.length then new
  else
    let s1 := wakeWait new Wait.onRecords
    { s1 with cores := s1.cores.mapV (fun _ x => { x with
        streams := x.streams.mapV (fun _ t => if t.wait == .drain then { t with wait := .run } else t) }) }

/-- What follows every step: what an engine's ownership or a chunk's source held back goes on, lanes under `tstep` that have completed
stop, root jobs, an opening run and the router's inputs go on, saved records are kept in step, the candidates of the pickers are noted,
and time passes (R71, R114, R158, R165, R178, R317, R328, R333, R338). -/
def afterStep (old new : State) : State :=
  let u := ageCands (syncRecord old (stepSettle old (settleInputs old (driveRun old (driveJobs (wakeRecords old (serveHeld (serveHome
    (flushDue new)))))))))
  { u with tick := u.tick + 1, now := u.now + Config.stepTime u.tick }

/-! ## Placing an instruction (log 80) -/

/-- A launch record for the placed instruction: one workgroup of 32 threads with 1024 registers each. -/
def placedRecord : BitVec 2048 :=
  BitVec.ofNat 2048 (1 * 2 ^ (8 * 0x18) + 1 * 2 ^ (8 * 0x1C) + 1 * 2 ^ (8 * 0x1E) + 32 * 2 ^ (8 * 0x20) + 1024 * 2 ^ (8 * 0x22) +
    (8 + 16 * 2 ^ 6 + 12 * 2 ^ 12 + 12 * 2 ^ 18) * 2 ^ (8 * 0x24))

/-- Core 0 holds one workgroup of one warp in slot 0, its access stream, and a loaded control core. -/
def placedCore (s : State) : State :=
  let id := s.fresh
  let x : Launch := { newLaunch s 0 with record := placedRecord, slotAddr := 0, ctx := 0, checked := true, waits := 0xF, next := 1 }
  let g : Wg := { launch := id, g := 0, x := 0, y := 0, z := 0, cores := [0], live := 1, bars := [], queues := [],
                  board := Board.reset, saved := none }
  let w : Warp := { startWarp x id (id + 1) 0 0 (s.core 0).ages 0 with entered := true }
  let t : Stream := { startStreamState x id (id + 1) with started := true, entered := true }
  { s with fresh := id + 2, launches := s.launches.put id x, wgs := s.wgs.put (id + 1) g }.modCore 0 (fun y => { y with
    part := x.part, launch := some id, warps := y.warps.put 0 w, ages := y.ages + 1, streams := y.streams.put 0 t
    ctrl := { y.ctrl with loaded := true, halted := false, wait := .run } })

/-- The issuer of a placed word: the stream for group 0xF, the control core for its own forms, else the warp. -/
def placedPicker (w : IWord) : Picker :=
  if isStreamWord w then .stream 0
  else match decode false w with
    | .ok i => if ctrlOnly i then .control else .part 0
    | .error _ => .part 0

/-- A state in which the next step issues the word, from slot 0 of a clause in flight on core 0. -/
def placeWord (s : State) (w : IWord) : State :=
  let p := placedPicker w
  let ls : List LaneRef := match p with
    | .part _ => lanes32.map (fun l => { slot := 0, lane := l })
    | .stream _ => []
    | .control => [{ slot := ctrlSlot, lane := 0 }]
  let s1 := placedCore { s with agenda := [], pow := { s.pow with off := false } }
  fly s1 0 p 0 (lineOfWord w) ls

end Sys2Proof.Machine
end

