-- ==== Sys2Proof/Machine/Special.lean ====
section
/-! DEFINITION. Group 0x6: special functions of FP32, correctly rounded (R229) and approximate (R230 to R235). The correctly
rounded variants evaluate a series to 320 bits, which decides every rounding that is not an exact case. -/

namespace Sys2Proof.Machine

/-! ## Real functions to 320 bits -/

/-- Bits below the point of the fixed-point values here. -/
def fxBits : Nat := 320
def fxOne : Nat := 2 ^ 320

/-- Σ r^k / k! from the term `t` on. -/
def expGo (r : Nat) : Nat → Nat → Nat → Nat
  | 0, _, _ => 0
  | n + 1, k, t => t + expGo r n (k + 1) (t * r / fxOne / (k + 1))
/-- e^r for r in [0, 1). -/
def expFx (r : Nat) : Nat := expGo r 90 0 fxOne

/-- Σ z^(2k+1) / (2k+1), z² being z2. -/
def atanhGo (z2 : Nat) : Nat → Nat → Nat → Nat
  | 0, _, _ => 0
  | n + 1, k, t => t / (2 * k + 1) + atanhGo z2 n (k + 1) (t * z2 / fxOne)
/-- ln m for m in [1, 2]. -/
def lnFx (m : Nat) : Nat :=
  let z := (m - fxOne) * fxOne / (m + fxOne)
  2 * atanhGo (z * z / fxOne) 120 0 z
def ln2Fx : Nat := lnFx (2 * fxOne)
/-- log2 e. -/
def log2eFx : Nat := fxOne * fxOne / ln2Fx

/-- Σ (−1)^k t / (2k+1) with t falling by the square of d. -/
def atanGo (d2 : Nat) : Nat → Nat → Nat → Int
  | 0, _, _ => 0
  | n + 1, k, t => (t / (2 * k + 1) : Nat) - atanGo d2 n (k + 1) (t / d2)
/-- π, by 16 atan(1/5) − 4 atan(1/239), with guard bits dropped at the end. -/
def piFx : Nat :=
  let g := fxOne * 2 ^ 16
  ((16 * atanGo 25 80 0 (g / 5) - 4 * atanGo 57121 30 0 (g / 239)) / (2 ^ 16 : Nat)).toNat

/-- Σ (−1)^i t^i / ((2i+o)!/o!) as a fixed-point number: the series of sin x / x (o = 1) and cos x (o = 0) in t = x². -/
def trigGo (o t : Nat) : Nat → Nat → Nat → Int
  | 0, _, _ => 0
  | n + 1, i, w => (w : Int) - trigGo o t n (i + 1) (w * t / fxOne / ((2 * i + 1 + o) * (2 * i + 2 + o)))

/-- An approximation from below, with a sticky bit, rounded to nearest (R229). -/
def stickyCode (neg : Bool) (num : Nat) (exp : Int) : Nat := Flt.f32.roundQ .rne 0 false neg (2 * num + 1) 1 (exp - 1)

/-- 2^(y / 2^320) as m × 2^(n − 320), m in [1, 2). -/
def pow2Fx (y : Int) : Nat × Int := (expFx ((y % (fxOne : Int)).toNat * ln2Fx / fxOne), y / (fxOne : Int))

/-- ±a × 2^e as a fixed-point number toward −∞. -/
def toFx (neg : Bool) (a : Nat) (e : Int) : Int := FVal.floor (.fin neg a (e + fxBits))

/-- The value x × log2 e as a fixed-point number, for |x| below 256. -/
def timesLog2e (x : Int) : Int := x * log2eFx / (fxOne : Int)

/-- log2 of a × 2^e as a fixed-point number; exact for a power of two. -/
def log2Fx (a : Nat) (e : Int) : Int :=
  let k := Nat.log2 a
  (e + k) * (fxOne : Int) + lnFx (a * fxOne / 2 ^ k) * fxOne / ln2Fx

/-- The residue of R235: k and f = a − k/2, exact. -/
def halfTurns (neg : Bool) (a : Nat) (e : Int) : Int × FVal :=
  let k := roundInt .rne 0 neg a (e + 1)
  (k, .sum .rne [.fin neg a e, (FVal.fin (decide (k < 0)) k.natAbs (-1)).negate])

/-- sin(πf) and cos(πf) rounded, for f in [−1/4, 1/4]. -/
def sinCr (f : FVal) : Nat :=
  match f with
  | .fin n a e =>
    if a = 0 then 0
    else
      let t := (FVal.floor (.fin false (a * a * (piFx * piFx / fxOne)) (2 * e))).toNat
      stickyCode n (piFx * a * (trigGo 1 t 60 0 fxOne).toNat) (e - 2 * fxBits)
  | _ => Flt.f32.nan
def cosCr (f : FVal) : Nat :=
  match f with
  | .fin _ a e =>
    if a = 0 then 0x3F800000
    else
      let t := (FVal.floor (.fin false (a * a * (piFx * piFx / fxOne)) (2 * e))).toNat
      stickyCode false (trigGo 0 t 60 0 fxOne).toNat (-(fxBits : Int))
  | _ => Flt.f32.nan

def negCode (x : Nat) : Nat := (x + 0x80000000) % 0x100000000
def absCode (x : Nat) : Nat := x % 0x80000000

/-- The quadrants of R235 for sin (o = 0) and cos (o = 1), with the zero-sign rule of R228. -/
def quadrant (o : Nat) (neg : Bool) (k : Int) (sn cs : Nat) : Nat :=
  let q := ((k + o) % 4).toNat
  let r := match q with | 0 => sn | 1 => cs | 2 => negCode sn | _ => negCode cs
  if absCode r = 0 then (if o = 0 && neg then 0x80000000 else 0) else r

/-! ## The `.cr` variants (R229): a finite nonzero operand ±a × 2^e -/

def sinpiCr (o : Nat) (neg : Bool) (a : Nat) (e : Int) : Nat :=
  let h := halfTurns neg a e
  quadrant o neg h.1 (sinCr h.2) (cosCr h.2)

def rcpCr (neg : Bool) (a : Nat) (e : Int) : Nat := Flt.f32.roundQ .rne 0 false neg 1 a (-e)

def rsqrtCr (a : Nat) (e : Int) : Nat :=
  let r := rootSticky 1 a (-e) 160
  Flt.f32.roundQ .rne 0 false false r.1 1 r.2

/-- Keeps an exponent within what rounding can tell apart. -/
def clampExp (n : Int) : Int := if n < -400 then -400 else if 400 < n then 400 else n

def exp2Cr (neg : Bool) (a : Nat) (e : Int) : Nat :=
  let x := FVal.fin neg a e
  let n := x.floor
  if (FVal.sum .rne [x, (intF n).negate]).isZero then Flt.f32.roundQ .rne 0 false false 1 1 (clampExp n)
  else
    let r := pow2Fx (toFx neg a e)
    stickyCode false r.1 (clampExp r.2 - fxBits)

/-- |x| is at least 256. -/
def big256 (a : Nat) (e : Int) : Bool := 8 ≤ (Nat.log2 a : Int) + e

def expCr (neg : Bool) (a : Nat) (e : Int) : Nat :=
  if big256 a e then Flt.f32.roundQ .rne 0 false false 1 1 (if neg then -400 else 400)
  else
    let r := pow2Fx (timesLog2e (toFx neg a e))
    stickyCode false r.1 (r.2 - fxBits)

def log2Cr (a : Nat) (e : Int) : Nat :=
  if a = 2 ^ Nat.log2 a then Flt.f32.enc .rne (intF (e + Nat.log2 a))
  else
    let y := log2Fx a e
    stickyCode (decide (y < 0)) y.natAbs (-(fxBits : Int))

def logCr (a : Nat) (e : Int) : Nat :=
  let k := Nat.log2 a
  let y : Int := (e + k) * (ln2Fx : Int) + lnFx (a * fxOne / 2 ^ k)
  if y = 0 then 0 else stickyCode (decide (y < 0)) y.natAbs (-(fxBits : Int))

/-- e^−x as a fixed-point number, for x = a × 2^e below 256. -/
def expNegFx (a : Nat) (e : Int) : Nat :=
  let r := pow2Fx (timesLog2e (toFx true a e))
  (FVal.floor (.fin false r.1 r.2)).toNat

/-- tanh: below 2^−30 the cubic term is too small to matter, above 64 the value rounds to 1. -/
def tanhCr (neg : Bool) (a : Nat) (e : Int) : Nat :=
  let t := (Nat.log2 a : Int) + e
  if t < -30 then Flt.f32.enc .rne (.fin neg a e)
  else if 6 ≤ t then (if neg then 0xBF800000 else 0x3F800000)
  else
    let u := expNegFx a (e + 1)
    stickyCode neg ((fxOne - u) * fxOne / (fxOne + u)) (-(fxBits : Int))

/-- logistic: above 64 the value rounds to 1, below −256 to 0. -/
def logisticCr (neg : Bool) (a : Nat) (e : Int) : Nat :=
  if big256 a e then (if neg then 0 else 0x3F800000)
  else if neg then
    let r := pow2Fx (timesLog2e (toFx true a e))
    let u := (FVal.floor (.fin false r.1 r.2)).toNat
    stickyCode false (r.1 * fxOne / (fxOne + u)) (r.2 - fxBits)
  else
    stickyCode false (fxOne * fxOne / (fxOne + expNegFx a e)) (-(fxBits : Int))

/-! ## Tables and coefficients of the `.ap` variants (R230), as FP32 codes -/

def rnMul (a b : Nat) : Nat := Flt.f32.mul .rne a b
def rnAdd (a b : Nat) : Nat := Flt.f32.add .rne a b
def rnSub (a b : Nat) : Nat := Flt.f32.sub .rne a b
def fmn (a b c : Nat) : Nat := Flt.f32.fma .rne false a b c
def ratCode (neg : Bool) (n d : Nat) : Nat := Flt.f32.roundQ .rne 0 false neg n d 0
def scaleCode (x : Nat) (k : Int) : Nat := Flt.f32.enc .rne ((Flt.f32.dec x).scale k)
def one32 : Nat := 0x3F800000

def tabYC (j : Nat) : Nat := ratCode false 256 (256 + 2 * j + 1)
def tabYS (j : Nat) : Nat :=
  let r := rootSticky 128 (128 + 2 * (j % 64) + 1) (-(j / 64 : Nat)) 160
  Flt.f32.roundQ .rne 0 false false r.1 1 r.2
def tabTX (j : Nat) : Nat :=
  if j = 0 then one32 else stickyCode false (pow2Fx (j * 2 ^ 314 : Nat)).1 (-(fxBits : Int))
def tabYL (j : Nat) : Nat := ratCode false 128 (128 + j)
def tabZL (j : Nat) : Nat :=
  if j = 0 then 0
  else match Flt.f32.dec (tabYL j) with
    | .fin _ a e => stickyCode false (log2Fx a e).natAbs (-(fxBits : Int))
    | _ => 0

def powFx (x : Nat) : Nat → Nat
  | 0 => fxOne
  | n + 1 => powFx x n * x / fxOne
def factorial : Nat → Nat
  | 0 => 1
  | n + 1 => (n + 1) * factorial n
def fxCode (neg : Bool) (x : Nat) : Nat := stickyCode neg x (-(fxBits : Int))

def coefE (i : Nat) : Nat := fxCode false (powFx ln2Fx i / factorial i)
def coefG (i : Nat) : Nat := fxCode (i % 2 = 0) (log2eFx / i)
def coefS (i : Nat) : Nat := fxCode ((i - 1) / 2 % 2 = 1) (powFx piFx i / factorial i)
def coefC (i : Nat) : Nat := fxCode (i / 2 % 2 = 1) (powFx piFx i / factorial i)
def coefH (i : Nat) : Nat :=
  match i with
  | 3 => ratCode true 1 3
  | 5 => ratCode false 2 15
  | 7 => ratCode true 17 315
  | 9 => ratCode false 62 2835
  | _ => ratCode true 1382 155925
def coefL2E : Nat := 0x3FB8AA3B
def coefL2L : Nat :=
  let y : Int := (log2eFx : Int) - toFx false (bitsOf coefL2E 0 23 + 2 ^ 23) (-23)
  fxCode (decide (y < 0)) y.natAbs
def coefLN2 : Nat := 0x3F317218

/-- The split of R230: the code of m in [1, 2), its fraction M, and e. -/
def split (a : Nat) (e : Int) : Nat × Nat × Int :=
  let k := Nat.log2 a
  let M := a * 2 ^ (23 - k) - 2 ^ 23
  (one32 + M, M, e + k)

/-! ## The `.ap` variants (R231 to R235) -/

def rcpcore (m M : Nat) : Nat :=
  let step (y : Nat) : Nat := let t := fmn (negCode m) y one32; fmn y t y
  step (step (tabYC (M / 2 ^ 16)))

def rcpAp (neg : Bool) (a : Nat) (e : Int) : Nat :=
  let x := split a e
  let r := scaleCode (rcpcore x.1 x.2.1) (-x.2.2)
  if neg then negCode r else r

/-- `fdiv.ap` of a finite nonzero a by a finite nonzero b (R231). -/
def fdivAp (acode : Nat) (bneg : Bool) (b : Nat) (f : Int) : Nat :=
  let x := split b f
  let r := scaleCode (rnMul acode (rcpcore x.1 x.2.1)) (-x.2.2)
  if bneg then negCode r else r

def rsqrtAp (a : Nat) (e : Int) : Nat :=
  let x := split a e
  let odd := (x.2.2 % 2).toNat
  let k := x.2.2 / 2
  let u := scaleCode x.1 odd
  let step (y : Nat) : Nat :=
    let t := rnMul y y
    let g := fmn (negCode u) t one32
    fmn (rnMul 0x3F000000 y) g y
  scaleCode (step (step (tabYS (64 * odd + x.2.1 / 2 ^ 17)))) (-k)

def sqrtAp (acode a : Nat) (e : Int) : Nat := rnMul acode (rsqrtAp a e)

/-- `excore` (R233). -/
def excore (h l : Nat) : Nat :=
  if Flt.f32.cmp 5 h 0x43000000 then Flt.f32.infCode
  else if Flt.f32.cmp 2 h 0xC3160000 then 0
  else
    let v := Flt.f32.dec h
    let n := v.floor
    let f := FVal.sum .rne [v, (intF n).negate]
    let j := ((f.scale 6).floor).toNat
    let g := Flt.f32.enc .rne (.sum .rne [f, .fin true j (-6), Flt.f32.dec l])
    let p := rnMul (fmn (fmn (coefE 3) g (coefE 2)) g (coefE 1)) g
    scaleCode (fmn (tabTX j) p (tabTX j)) n

def exp2Ap (a : Nat) : Nat := excore a 0
def expAp (a : Nat) : Nat :=
  let h := rnMul a coefL2E
  excore h (fmn a coefL2L (fmn a coefL2E (negCode h)))

def log2Ap (a : Nat) (e : Int) : Nat :=
  let x := split a e
  let j := x.2.1 / 2 ^ 16
  let t := fmn x.1 (tabYL j) 0xBF800000
  let p := fmn (fmn (fmn (fmn (coefG 5) t (coefG 4)) t (coefG 3)) t (coefG 2)) t (coefG 1)
  rnAdd (rnAdd (Flt.f32.enc .rne (intF x.2.2)) (tabZL j)) (rnMul p t)

def logAp (a : Nat) (e : Int) : Nat := rnMul (log2Ap a e) coefLN2

def sinpiAp (o : Nat) (neg : Bool) (a : Nat) (e : Int) : Nat :=
  let h := halfTurns neg a e
  let f := Flt.f32.enc .rne h.2
  let v := rnMul f f
  let S := rnMul (fmn (fmn (fmn (fmn (coefS 9) v (coefS 7)) v (coefS 5)) v (coefS 3)) v (coefS 1)) f
  let C := fmn (fmn (fmn (fmn (fmn (coefC 10) v (coefC 8)) v (coefC 6)) v (coefC 4)) v (coefC 2)) v one32
  quadrant o neg h.1 S C

/-- `rcp.ap` of a code that is finite and nonzero, or ±0 and ±∞ by R228. -/
def rcpApCode (x : Nat) : Nat :=
  match Flt.f32.dec x with
  | .nan => Flt.f32.nan
  | .inf n => if n then 0x80000000 else 0
  | .fin n a e => if a = 0 then Flt.f32.enc .rne (.inf n) else rcpAp n a e

def tanhAp (acode : Nat) (neg : Bool) : Nat :=
  let b := absCode acode
  let sg (x : Nat) : Nat := if neg then negCode x else x
  if Flt.f32.cmp 2 b 0x39800000 then acode
  else if Flt.f32.cmp 5 b 0x41100000 then sg one32
  else if Flt.f32.cmp 2 b 0x3E800000 then
    let v := rnMul b b
    let z := fmn (fmn (fmn (fmn (coefH 11) v (coefH 9)) v (coefH 7)) v (coefH 5)) v (coefH 3)
    sg (fmn (rnMul z v) b b)
  else
    let u := expAp (negCode (scaleCode b 1))
    sg (rnMul (rnSub one32 u) (rcpApCode (rnAdd one32 u)))

def logisticAp (acode : Nat) : Nat :=
  if Flt.f32.cmp 2 acode 0xC1C00000 then expAp acode else rcpApCode (rnAdd one32 (expAp (negCode acode)))

/-! ## The instructions -/

/-- A function with the fixed results of R228: at −∞, at a negative finite value if it has one, at −0, +0 and +∞; elsewhere
the `.cr` or `.ap` value. -/
def special (x : Nat) (minf : Nat) (below : Option Nat) (mzero pzero pinf : Nat) (g : Bool → Nat → Int → Nat) : Nat :=
  match Flt.f32.dec x with
  | .nan => Flt.f32.nan
  | .inf n => if n then minf else pinf
  | .fin n a e =>
    if a = 0 then (if n then mzero else pzero)
    else match below with
      | some r => if n then r else g n a e
      | none => g n a e

/-- A one-operand special function (R227). -/
def Arith.sfu (f : FmtA) (g : Bool → Nat → Nat) : Arith :=
  { srcs := [(f.a, .w32, .f32)], dst := some (f.d, .w32), pw := none, f := fun _ v => (g (f.opm.getLsbD 0) (nth v 0), false) }


/-- The function of `rcp` on FP32 codes (R228 to R235). -/
def rcpFn (ap : Bool) (x : Nat) : Nat :=
  special x 0x80000000 none 0xFF800000 0x7F800000 0 fun n a e => if ap then rcpAp n a e else rcpCr n a e

/-- `rcp` (R227). -/
def execRcp (f : FmtA) (s : State) : Result := .next (arith (.rcp f) (.sfu f rcpFn) f.pw s)

/-- The function of `sqrt` on FP32 codes (R228 to R235). -/
def sqrtFn (ap : Bool) (x : Nat) : Nat :=
  special x 0x7FC00000 (some 0x7FC00000) 0x80000000 0 0x7F800000 fun n a e => if ap then sqrtAp x a e else Flt.f32.sqrt .rne (.fin n a e)

/-- `sqrt` (R227). -/
def execSqrt (f : FmtA) (s : State) : Result := .next (arith (.sqrt f) (.sfu f sqrtFn) f.pw s)

/-- The function of `rsqrt` on FP32 codes (R228 to R235). -/
def rsqrtFn (ap : Bool) (x : Nat) : Nat :=
  special x 0x7FC00000 (some 0x7FC00000) 0xFF800000 0x7F800000 0 fun _ a e => if ap then rsqrtAp a e else rsqrtCr a e

/-- `rsqrt` (R227). -/
def execRsqrt (f : FmtA) (s : State) : Result := .next (arith (.rsqrt f) (.sfu f rsqrtFn) f.pw s)

/-- The function of `exp2` on FP32 codes (R228 to R235). -/
def exp2Fn (ap : Bool) (x : Nat) : Nat :=
  special x 0 none 0x3F800000 0x3F800000 0x7F800000 fun n a e => if ap then exp2Ap x else exp2Cr n a e

/-- `exp2` (R227). -/
def execExp2 (f : FmtA) (s : State) : Result := .next (arith (.exp2 f) (.sfu f exp2Fn) f.pw s)

/-- The function of `log2` on FP32 codes (R228 to R235). -/
def log2Fn (ap : Bool) (x : Nat) : Nat :=
  special x 0x7FC00000 (some 0x7FC00000) 0xFF800000 0xFF800000 0x7F800000 fun _ a e => if x = one32 then 0 else if ap then log2Ap a e else log2Cr a e

/-- `log2` (R227). -/
def execLog2 (f : FmtA) (s : State) : Result := .next (arith (.log2 f) (.sfu f log2Fn) f.pw s)

/-- The function of `exp` on FP32 codes (R228 to R235). -/
def expFn (ap : Bool) (x : Nat) : Nat :=
  special x 0 none 0x3F800000 0x3F800000 0x7F800000 fun n a e => if ap then expAp x else expCr n a e

/-- `exp` (R227). -/
def execExp (f : FmtA) (s : State) : Result := .next (arith (.exp f) (.sfu f expFn) f.pw s)

/-- The function of `log` on FP32 codes (R228 to R235). -/
def logFn (ap : Bool) (x : Nat) : Nat :=
  special x 0x7FC00000 (some 0x7FC00000) 0xFF800000 0xFF800000 0x7F800000 fun _ a e => if x = one32 then 0 else if ap then logAp a e else logCr a e

/-- `log` (R227). -/
def execLog (f : FmtA) (s : State) : Result := .next (arith (.log f) (.sfu f logFn) f.pw s)

/-- The function of `sinpi` on FP32 codes (R228 to R235). -/
def sinpiFn (ap : Bool) (x : Nat) : Nat :=
  special x 0x7FC00000 none 0x80000000 0 0x7FC00000 fun n a e => if ap then sinpiAp 0 n a e else sinpiCr 0 n a e

/-- `sinpi` (R227). -/
def execSinpi (f : FmtA) (s : State) : Result := .next (arith (.sinpi f) (.sfu f sinpiFn) f.pw s)

/-- The function of `cospi` on FP32 codes (R228 to R235). -/
def cospiFn (ap : Bool) (x : Nat) : Nat :=
  special x 0x7FC00000 none 0x3F800000 0x3F800000 0x7FC00000 fun n a e => if ap then sinpiAp 1 n a e else sinpiCr 1 n a e

/-- `cospi` (R227). -/
def execCospi (f : FmtA) (s : State) : Result := .next (arith (.cospi f) (.sfu f cospiFn) f.pw s)

/-- The function of `tanh` on FP32 codes (R228 to R235). -/
def tanhFn (ap : Bool) (x : Nat) : Nat :=
  special x 0xBF800000 none 0x80000000 0 0x3F800000 fun n a e => if ap then tanhAp x n else tanhCr n a e

/-- `tanh` (R227). -/
def execTanh (f : FmtA) (s : State) : Result := .next (arith (.tanh f) (.sfu f tanhFn) f.pw s)

/-- The function of `logistic` on FP32 codes (R228 to R235). -/
def logisticFn (ap : Bool) (x : Nat) : Nat :=
  special x 0 none 0x3F000000 0x3F000000 0x3F800000 fun n a e => if ap then logisticAp x else logisticCr n a e

/-- `logistic` (R227). -/
def execLogistic (f : FmtA) (s : State) : Result := .next (arith (.logistic f) (.sfu f logisticFn) f.pw s)

/-- The function of `fdiv` on FP32 codes (R228, R231). -/
def fdivFn (ap : Bool) (x y : Nat) : Nat :=
  match Flt.f32.dec x, Flt.f32.dec y with
  | .fin n a e, .fin m b f =>
    if ap && a != 0 && b != 0 then fdivAp x m b f else Flt.f32.div .rne (.fin n a e) (.fin m b f)
  | a, b => Flt.f32.div .rne a b

/-- `fdiv` (R227). -/
def execFdivF32 (f : FmtA) (s : State) : Result :=
  .next (arith (.fdivF32 f)
    { srcs := [(f.a, .w32, .f32), (f.b, .w32, .f32)], dst := some (f.d, .w32), pw := none,
      f := fun _ v => (fdivFn (f.opm.getLsbD 0) (nth v 0) (nth v 1), false) }
    f.pw s)

end Sys2Proof.Machine
end

