-- ==== Sys2Proof/Machine/Dispatch.lean ====
section
/-! DEFINITION. One arm per constructor of `Instr`, each one call of its meaning. -/

namespace Sys2Proof.Machine

/-- The meaning of an instruction or hardware step in a state. -/
def exec (i : Instr) (s : State) : Host.Outcome State Fault Refusal :=
  match i with
  | .bra f => Sys2Proof.Machine.execBra f s
  | .brt f => Sys2Proof.Machine.execBrt f s
  | .brx f => Sys2Proof.Machine.execBrx f s
  | .call f => Sys2Proof.Machine.execCall f s
  | .callx f => Sys2Proof.Machine.execCallx f s
  | .enrol f => Sys2Proof.Machine.execEnrol f s
  | .rejoin f => Sys2Proof.Machine.execRejoin f s
  | .bclr f => Sys2Proof.Machine.execBclr f s
  | .bread f => Sys2Proof.Machine.execBread f s
  | .add f => Sys2Proof.Machine.execAdd f s
  | .sub f => Sys2Proof.Machine.execSub f s
  | .mul f => Sys2Proof.Machine.execMul f s
  | .mulhi f => Sys2Proof.Machine.execMulhi f s
  | .mad f => Sys2Proof.Machine.execMad f s
  | .div f => Sys2Proof.Machine.execDiv f s
  | .rem f => Sys2Proof.Machine.execRem f s
  | .min f => Sys2Proof.Machine.execMin f s
  | .max f => Sys2Proof.Machine.execMax f s
  | .abs f => Sys2Proof.Machine.execAbs f s
  | .neg f => Sys2Proof.Machine.execNeg f s
  | .and f => Sys2Proof.Machine.execAnd f s
  | .or f => Sys2Proof.Machine.execOr f s
  | .xor f => Sys2Proof.Machine.execXor f s
  | .not f => Sys2Proof.Machine.execNot f s
  | .shl f => Sys2Proof.Machine.execShl f s
  | .shr f => Sys2Proof.Machine.execShr f s
  | .rot f => Sys2Proof.Machine.execRot f s
  | .popc f => Sys2Proof.Machine.execPopc f s
  | .clz f => Sys2Proof.Machine.execClz f s
  | .ctz f => Sys2Proof.Machine.execCtz f s
  | .brev f => Sys2Proof.Machine.execBrev f s
  | .bfx f => Sys2Proof.Machine.execBfx f s
  | .bfi f => Sys2Proof.Machine.execBfi f s
  | .cmp f => Sys2Proof.Machine.execCmp f s
  | .sel f => Sys2Proof.Machine.execSel f s
  | .mov f => Sys2Proof.Machine.execMov f s
  | .movi f => Sys2Proof.Machine.execMovi f s
  | .lut3 f => Sys2Proof.Machine.execLut3 f s
  | .plut3 f => Sys2Proof.Machine.execPlut3 f s
  | .ppack f => Sys2Proof.Machine.execPpack f s
  | .punpack f => Sys2Proof.Machine.execPunpack f s
  | .lea f => Sys2Proof.Machine.execLea f s
  | .addc f => Sys2Proof.Machine.execAddc f s
  | .subc f => Sys2Proof.Machine.execSubc f s
  | .mulw f => Sys2Proof.Machine.execMulw f s
  | .madw f => Sys2Proof.Machine.execMadw f s
  | .pack f => Sys2Proof.Machine.execPack f s
  | .regaddr f => Sys2Proof.Machine.execRegaddr f s
  | .peeraddr f => Sys2Proof.Machine.execPeeraddr f s
  | .spaddr f => Sys2Proof.Machine.execSpaddr f s
  | .alignup f => Sys2Proof.Machine.execAlignup f s
  | .inrange f => Sys2Proof.Machine.execInrange f s
  | .lpc f => Sys2Proof.Machine.execLpc f s
  | .fadd f => Sys2Proof.Machine.execFadd f s
  | .fsub f => Sys2Proof.Machine.execFsub f s
  | .fmul f => Sys2Proof.Machine.execFmul f s
  | .fma f => Sys2Proof.Machine.execFma f s
  | .fadd2 f => Sys2Proof.Machine.execFadd2 f s
  | .fdot2 f => Sys2Proof.Machine.execFdot2 f s
  | .fmin f => Sys2Proof.Machine.execFmin f s
  | .fmax f => Sys2Proof.Machine.execFmax f s
  | .fminp f => Sys2Proof.Machine.execFminp f s
  | .fmaxp f => Sys2Proof.Machine.execFmaxp f s
  | .fclamp f => Sys2Proof.Machine.execFclamp f s
  | .fabs f => Sys2Proof.Machine.execFabs f s
  | .fneg f => Sys2Proof.Machine.execFneg f s
  | .fcopysign f => Sys2Proof.Machine.execFcopysign f s
  | .fsign f => Sys2Proof.Machine.execFsign f s
  | .fabsdiff f => Sys2Proof.Machine.execFabsdiff f s
  | .fcmp f => Sys2Proof.Machine.execFcmp f s
  | .fclass f => Sys2Proof.Machine.execFclass f s
  | .frnd f => Sys2Proof.Machine.execFrnd f s
  | .ffract f => Sys2Proof.Machine.execFfract f s
  | .fscale f => Sys2Proof.Machine.execFscale f s
  | .fgetexp f => Sys2Proof.Machine.execFgetexp f s
  | .fgetman f => Sys2Proof.Machine.execFgetman f s
  | .fhsel f => Sys2Proof.Machine.execFhsel f s
  | .faddF64 f => Sys2Proof.Machine.execFaddF64 f s
  | .fsubF64 f => Sys2Proof.Machine.execFsubF64 f s
  | .fmulF64 f => Sys2Proof.Machine.execFmulF64 f s
  | .fmaF64 f => Sys2Proof.Machine.execFmaF64 f s
  | .fadd2F64 f => Sys2Proof.Machine.execFadd2F64 f s
  | .fminF64 f => Sys2Proof.Machine.execFminF64 f s
  | .fmaxF64 f => Sys2Proof.Machine.execFmaxF64 f s
  | .fcmpF64 f => Sys2Proof.Machine.execFcmpF64 f s
  | .frndF64 f => Sys2Proof.Machine.execFrndF64 f s
  | .fdivF64 f => Sys2Proof.Machine.execFdivF64 f s
  | .fsqrtF64 f => Sys2Proof.Machine.execFsqrtF64 f s
  | .fclassF64 f => Sys2Proof.Machine.execFclassF64 f s
  | .cvt f => Sys2Proof.Machine.execCvt f s
  | .cvtF2i f => Sys2Proof.Machine.execCvtF2i f s
  | .cvtI2f f => Sys2Proof.Machine.execCvtI2f f s
  | .cvtI2i f => Sys2Proof.Machine.execCvtI2i f s
  | .cvtPk2 f => Sys2Proof.Machine.execCvtPk2 f s
  | .cvtPk4 f => Sys2Proof.Machine.execCvtPk4 f s
  | .cvtUnpk2 f => Sys2Proof.Machine.execCvtUnpk2 f s
  | .cvtUnpk4 f => Sys2Proof.Machine.execCvtUnpk4 f s
  | .cvtsc f => Sys2Proof.Machine.execCvtsc f s
  | .cvtscPk4 f => Sys2Proof.Machine.execCvtscPk4 f s
  | .cvtQ4 f => Sys2Proof.Machine.execCvtQ4 f s
  | .cvtF32Q4 f => Sys2Proof.Machine.execCvtF32Q4 f s
  | .rcp f => Sys2Proof.Machine.execRcp f s
  | .sqrt f => Sys2Proof.Machine.execSqrt f s
  | .rsqrt f => Sys2Proof.Machine.execRsqrt f s
  | .fdivF32 f => Sys2Proof.Machine.execFdivF32 f s
  | .exp2 f => Sys2Proof.Machine.execExp2 f s
  | .log2 f => Sys2Proof.Machine.execLog2 f s
  | .exp f => Sys2Proof.Machine.execExp f s
  | .log f => Sys2Proof.Machine.execLog f s
  | .sinpi f => Sys2Proof.Machine.execSinpi f s
  | .cospi f => Sys2Proof.Machine.execCospi f s
  | .tanh f => Sys2Proof.Machine.execTanh f s
  | .logistic f => Sys2Proof.Machine.execLogistic f s
  | .ld f => Sys2Proof.Machine.execLd f s
  | .st f => Sys2Proof.Machine.execSt f s
  | .ld4 f => Sys2Proof.Machine.execLd4 f s
  | .st4 f => Sys2Proof.Machine.execSt4 f s
  | .lds f => Sys2Proof.Machine.execLds f s
  | .sts f => Sys2Proof.Machine.execSts f s
  | .lds4 f => Sys2Proof.Machine.execLds4 f s
  | .sts4 f => Sys2Proof.Machine.execSts4 f s
  | .stmc f => Sys2Proof.Machine.execStmc f s
  | .pf f => Sys2Proof.Machine.execPf f s
  | .ldu f => Sys2Proof.Machine.execLdu f s
  | .ldl f => Sys2Proof.Machine.execLdl f s
  | .stl f => Sys2Proof.Machine.execStl f s
  | .zline f => Sys2Proof.Machine.execZline f s
  | .cwb f => Sys2Proof.Machine.execCwb f s
  | .cinv f => Sys2Proof.Machine.execCinv f s
  | .atom f => Sys2Proof.Machine.execAtom f s
  | .cas f => Sys2Proof.Machine.execCas f s
  | .red f => Sys2Proof.Machine.execRed f s
  | .fatom f => Sys2Proof.Machine.execFatom f s
  | .fred f => Sys2Proof.Machine.execFred f s
  | .atominc f => Sys2Proof.Machine.execAtominc f s
  | .atomdec f => Sys2Proof.Machine.execAtomdec f s
  | .atoms f => Sys2Proof.Machine.execAtoms f s
  | .cass f => Sys2Proof.Machine.execCass f s
  | .reds f => Sys2Proof.Machine.execReds f s
  | .fatoms f => Sys2Proof.Machine.execFatoms f s
  | .freds f => Sys2Proof.Machine.execFreds f s
  | .fence f => Sys2Proof.Machine.execFence f s
  | .waita f => Sys2Proof.Machine.execWaita f s
  | .bar f => Sys2Proof.Machine.execBar f s
  | .barArrive f => Sys2Proof.Machine.execBarArrive f s
  | .barWait f => Sys2Proof.Machine.execBarWait f s
  | .cwait f => Sys2Proof.Machine.execCwait f s
  | .rowhold f => Sys2Proof.Machine.execRowhold f s
  | .rsecBegin f => Sys2Proof.Machine.execRsecBegin f s
  | .rsdepth f => Sys2Proof.Machine.execRsdepth f s
  | .grace f => Sys2Proof.Machine.execGrace f s
  | .dfree f => Sys2Proof.Machine.execDfree f s
  | .balloc f => Sys2Proof.Machine.execBalloc f s
  | .bfree f => Sys2Proof.Machine.execBfree f s
  | .bpstat f => Sys2Proof.Machine.execBpstat f s
  | .pause f => Sys2Proof.Machine.execPause f s
  | .push f => Sys2Proof.Machine.execPush f s
  | .pop f => Sys2Proof.Machine.execPop f s
  | .qpeek f => Sys2Proof.Machine.execQpeek f s
  | .qcfg f => Sys2Proof.Machine.execQcfg f s
  | .qstat f => Sys2Proof.Machine.execQstat f s
  | .cpy f => Sys2Proof.Machine.execCpy f s
  | .cpy2d f => Sys2Proof.Machine.execCpy2d f s
  | .cpymc f => Sys2Proof.Machine.execCpymc f s
  | .cpfill f => Sys2Proof.Machine.execCpfill f s
  | .ldwp f => Sys2Proof.Machine.execLdwp f s
  | .waitwp f => Sys2Proof.Machine.execWaitwp f s
  | .cpkill f => Sys2Proof.Machine.execCpkill f s
  | .xlAt f => Sys2Proof.Machine.execXlAt f s
  | .xlBelow f => Sys2Proof.Machine.execXlBelow f s
  | .xlAbove f => Sys2Proof.Machine.execXlAbove f s
  | .xlXor f => Sys2Proof.Machine.execXlXor f s
  | .quadx f => Sys2Proof.Machine.execQuadx f s
  | .quadb f => Sys2Proof.Machine.execQuadb f s
  | .vote f => Sys2Proof.Machine.execVote f s
  | .ballot f => Sys2Proof.Machine.execBallot f s
  | .lred f => Sys2Proof.Machine.execLred f s
  | .flred f => Sys2Proof.Machine.execFlred f s
  | .scan f => Sys2Proof.Machine.execScan f s
  | .fscan f => Sys2Proof.Machine.execFscan f s
  | .peers f => Sys2Proof.Machine.execPeers f s
  | .same f => Sys2Proof.Machine.execSame f s
  | .present f => Sys2Proof.Machine.execPresent f s
  | .first f => Sys2Proof.Machine.execFirst f s
  | .rndCg10 f => Sys2Proof.Machine.execRndCg10 f s
  | .rnd4Cg10 f => Sys2Proof.Machine.execRnd4Cg10 f s
  | .rndkCg10 f => Sys2Proof.Machine.execRndkCg10 f s
  | .unif f => Sys2Proof.Machine.execUnif f s
  | .rkey f => Sys2Proof.Machine.execRkey f s
  | .addlw f => Sys2Proof.Machine.execAddlw f s
  | .lwcvt f => Sys2Proof.Machine.execLwcvt f s
  | .pwadd f => Sys2Proof.Machine.execPwadd f s
  | .rsb f => Sys2Proof.Machine.execRsb f s
  | .psetroot f => Sys2Proof.Machine.execPsetroot f s
  | .lwf f => Sys2Proof.Machine.execLwf f s
  | .lwe f => Sys2Proof.Machine.execLwe f s
  | .mma f => Sys2Proof.Machine.execMma f s
  | .mmas f => Sys2Proof.Machine.execMmas f s
  | .tzero f => Sys2Proof.Machine.execTzero f s
  | .tld f => Sys2Proof.Machine.execTld f s
  | .tst f => Sys2Proof.Machine.execTst f s
  | .trd f => Sys2Proof.Machine.execTrd f s
  | .twr f => Sys2Proof.Machine.execTwr f s
  | .tscl f => Sys2Proof.Machine.execTscl f s
  | .trel f => Sys2Proof.Machine.execTrel f s
  | .qsm f => Sys2Proof.Machine.execQsm f s
  | .swinv f => Sys2Proof.Machine.execSwinv f s
  | .spgen f => Sys2Proof.Machine.execSpgen f s
  | .trap f => Sys2Proof.Machine.execTrap f s
  | .rdarch f => Sys2Proof.Machine.execRdarch f s
  | .tnext f => Sys2Proof.Machine.execTnext f s
  | .tres f => Sys2Proof.Machine.execTres f s
  | .tskip f => Sys2Proof.Machine.execTskip f s
  | .tstep f => Sys2Proof.Machine.execTstep f s
  | .tkill f => Sys2Proof.Machine.execTkill f s
  | .tstop f => Sys2Proof.Machine.execTstop f s
  | .csave f => Sys2Proof.Machine.execCsave f s
  | .cload f => Sys2Proof.Machine.execCload f s
  | .crd f => Sys2Proof.Machine.execCrd f s
  | .cwr f => Sys2Proof.Machine.execCwr f s
  | .hnotify f => Sys2Proof.Machine.execHnotify f s
  | .regrow f => Sys2Proof.Machine.execRegrow f s
  | .regshrink f => Sys2Proof.Machine.execRegshrink f s
  | .launch f => Sys2Proof.Machine.execLaunch f s
  | .aloop f => Sys2Proof.Machine.execAloop f s
  | .aadd f => Sys2Proof.Machine.execAadd f s
  | .asub f => Sys2Proof.Machine.execAsub f s
  | .amad f => Sys2Proof.Machine.execAmad f s
  | .amovi f => Sys2Proof.Machine.execAmovi f s
  | .amin f => Sys2Proof.Machine.execAmin f s
  | .aand f => Sys2Proof.Machine.execAand f s
  | .ashr f => Sys2Proof.Machine.execAshr f s
  | .ald f => Sys2Proof.Machine.execAld f s
  | .apush f => Sys2Proof.Machine.execApush f s
  | .agath f => Sys2Proof.Machine.execAgath f s
  | .ast f => Sys2Proof.Machine.execAst f s
  | .apf f => Sys2Proof.Machine.execApf f s
  | .afence f => Sys2Proof.Machine.execAfence f s
  | .memoryAccessDone op mask => Sys2Proof.Machine.execMemoryAccessDone op mask s
  | .clauseStart core picker => Sys2Proof.Machine.execClauseStart core picker s
  | .launchRegister q v => Sys2Proof.Machine.execLaunchRegister q v s
  | .lqcfgWrite q v => Sys2Proof.Machine.execLqcfgWrite q v s
  | .lqbaseWrite q v => Sys2Proof.Machine.execLqbaseWrite q v s
  | .registerWrite addr v => Sys2Proof.Machine.execRegisterWrite addr v s
  | .applicationCoreMemoryAccess acc => Sys2Proof.Machine.execApplicationCoreMemoryAccess acc s
  | .waitaRecheck core slot lane => Sys2Proof.Machine.execWaitaRecheck core slot lane s
  | .barrierPhaseComplete wg bar => Sys2Proof.Machine.execBarrierPhaseComplete wg bar s
  | .barrierDeadlock wg => Sys2Proof.Machine.execBarrierDeadlock wg s
  | .gridbarComplete launch => Sys2Proof.Machine.execGridbarComplete launch s
  | .tokenArrives launch => Sys2Proof.Machine.execTokenArrives launch s
  | .graceComplete snap => Sys2Proof.Machine.execGraceComplete snap s
  | .internalGrace span => Sys2Proof.Machine.execInternalGrace span s
  | .pauseExpiry core slot lane => Sys2Proof.Machine.execPauseExpiry core slot lane s
  | .queuePushUnblock wg q => Sys2Proof.Machine.execQueuePushUnblock wg q s
  | .queuePopUnblock wg q => Sys2Proof.Machine.execQueuePopUnblock wg q s
  | .copyAccept core ch => Sys2Proof.Machine.execCopyAccept core ch s
  | .copyDone core ch => Sys2Proof.Machine.execCopyDone core ch s
  | .waitwpWake core slot lane => Sys2Proof.Machine.execWaitwpWake core slot lane s
  | .collectiveIssue core slot => Sys2Proof.Machine.execCollectiveIssue core slot s
  | .rejoinRelease core slot bar => Sys2Proof.Machine.execRejoinRelease core slot bar s
  | .convergenceTimeout core slot => Sys2Proof.Machine.execConvergenceTimeout core slot s
  | .popBarrierClose pop => Sys2Proof.Machine.execPopBarrierClose pop s
  | .stragglerDeadline pop => Sys2Proof.Machine.execStragglerDeadline pop s
  | .arrivalReport pop particle weight root => Sys2Proof.Machine.execArrivalReport pop particle weight root s
  | .matrixOpComplete core => Sys2Proof.Machine.execMatrixOpComplete core s
  | .leaseHandoff core => Sys2Proof.Machine.execLeaseHandoff core s
  | .tileBindGrant core => Sys2Proof.Machine.execTileBindGrant core s
  | .tileBindTimeout core => Sys2Proof.Machine.execTileBindTimeout core s
  | .regrowGrant core => Sys2Proof.Machine.execRegrowGrant core s
  | .regrowFailTimeout core => Sys2Proof.Machine.execRegrowFailTimeout core s
  | .translationWalkDone core ctx va => Sys2Proof.Machine.execTranslationWalkDone core ctx va s
  | .xlinvGranule cmd => Sys2Proof.Machine.execXlinvGranule cmd s
  | .xlinvContext cmd => Sys2Proof.Machine.execXlinvContext cmd s
  | .xlinvAll cmd => Sys2Proof.Machine.execXlinvAll cmd s
  | .fqresumeResume idx => Sys2Proof.Machine.execFqresumeResume idx s
  | .fqresumeKill idx => Sys2Proof.Machine.execFqresumeKill idx s
  | .fqtailWrite v => Sys2Proof.Machine.execFqtailWrite v s
  | .fqbaseWrite v => Sys2Proof.Machine.execFqbaseWrite v s
  | .doneWordWrite launch => Sys2Proof.Machine.execDoneWordWrite launch s
  | .swapOut launch => Sys2Proof.Machine.execSwapOut launch s
  | .reduceBlockDispatch launch => Sys2Proof.Machine.execReduceBlockDispatch launch s
  | .collectiveTimeout launch => Sys2Proof.Machine.execCollectiveTimeout launch s
  | .reduceBlockDone launch => Sys2Proof.Machine.execReduceBlockDone launch s
  | .loadRequest p => Sys2Proof.Machine.execLoadRequest p s
  | .store p => Sys2Proof.Machine.execStore p s
  | .atomic p => Sys2Proof.Machine.execAtomic p s
  | .combinedAtomic p => Sys2Proof.Machine.execCombinedAtomic p s
  | .loadReply p => Sys2Proof.Machine.execLoadReply p s
  | .acknowledgement p => Sys2Proof.Machine.execAcknowledgement p s
  | .multicastStore p => Sys2Proof.Machine.execMulticastStore p s
  | .copyWrite p => Sys2Proof.Machine.execCopyWrite p s
  | .recoveryToken p => Sys2Proof.Machine.execRecoveryToken p s
  | .lossNotice p => Sys2Proof.Machine.execLossNotice p s
  | .invalidPacket p => Sys2Proof.Machine.execInvalidPacket p s
  | .fatalErrorReport pkg => Sys2Proof.Machine.execFatalErrorReport pkg s
  | .routerHoldTimeout input => Sys2Proof.Machine.execRouterHoldTimeout input s
  | .lossTimeout pkg => Sys2Proof.Machine.execLossTimeout pkg s
  | .flitCrcFail port => Sys2Proof.Machine.execFlitCrcFail port s
  | .laneFailure port => Sys2Proof.Machine.execLaneFailure port s
  | .linkDown port => Sys2Proof.Machine.execLinkDown port s
  | .linkUp port => Sys2Proof.Machine.execLinkUp port s
  | .fxmcdataWrite v => Sys2Proof.Machine.execFxmcdataWrite v s
  | .preempt v => Sys2Proof.Machine.execPreempt v s
  | .resume v => Sys2Proof.Machine.execResume v s
  | .contextRestore wg => Sys2Proof.Machine.execContextRestore wg s
  | .rprun v => Sys2Proof.Machine.execRprun v s
  | .rpclose v => Sys2Proof.Machine.execRpclose v s
  | .rpend v => Sys2Proof.Machine.execRpend v s
  | .getMeasurements block signed => Sys2Proof.Machine.execGetMeasurements block signed s
  | .elreadWrite v => Sys2Proof.Machine.execElreadWrite v s
  | .elckpt v => Sys2Proof.Machine.execElckpt v s
  | .subcmdCore v => Sys2Proof.Machine.execSubcmdCore v s
  | .subcmdSlice v => Sys2Proof.Machine.execSubcmdSlice v s
  | .subcmdChannel v => Sys2Proof.Machine.execSubcmdChannel v s
  | .pwclkWrite v => Sys2Proof.Machine.execPwclkWrite v s
  | .pwgateWrite v => Sys2Proof.Machine.execPwgateWrite v s
  | .pwrefWrite v => Sys2Proof.Machine.execPwrefWrite v s
  | .pwtripclr v => Sys2Proof.Machine.execPwtripclr v s
  | .thermalTrip die temp => Sys2Proof.Machine.execThermalTrip die temp s
  | .correctedError unit kind addr => Sys2Proof.Machine.execCorrectedError unit kind addr s
  | .copyLineDelivered core ch => Sys2Proof.Machine.execCopyLineDelivered core ch s
  | .relayedPacket p => Sys2Proof.Machine.execRelayedPacket p s
  | .controlCoreFirmwareReload core ctx pc => Sys2Proof.Machine.execControlCoreFirmwareReload core ctx pc s
  | .nop => Sys2Proof.Machine.execNop s
  | .ret => Sys2Proof.Machine.execRet s
  | .exit => Sys2Proof.Machine.execExit s
  | .gridbar => Sys2Proof.Machine.execGridbar s
  | .rowait => Sys2Proof.Machine.execRowait s
  | .ropass => Sys2Proof.Machine.execRopass s
  | .mile => Sys2Proof.Machine.execMile s
  | .rsecEnd => Sys2Proof.Machine.execRsecEnd s
  | .macq => Sys2Proof.Machine.execMacq s
  | .mrel => Sys2Proof.Machine.execMrel s
  | .brk => Sys2Proof.Machine.execBrk s
  | .tdone => Sys2Proof.Machine.execTdone s
  | .iflush => Sys2Proof.Machine.execIflush s
  | .dwsync => Sys2Proof.Machine.execDwsync s
  | .aend => Sys2Proof.Machine.execAend s
  | .astop => Sys2Proof.Machine.execAstop s
  | .xlinvComplete => Sys2Proof.Machine.execXlinvComplete s
  | .dependencePoll => Sys2Proof.Machine.execDependencePoll s
  | .dispatchWorkgroup => Sys2Proof.Machine.execDispatchWorkgroup s
  | .tokenReissue => Sys2Proof.Machine.execTokenReissue s
  | .mcUpdateDone => Sys2Proof.Machine.execMcUpdateDone s
  | .preemptSaveComplete => Sys2Proof.Machine.execPreemptSaveComplete s
  | .courseCommit => Sys2Proof.Machine.execCourseCommit s
  | .substitutionDone => Sys2Proof.Machine.execSubstitutionDone s
  | .errorCountHour => Sys2Proof.Machine.execErrorCountHour s
  | .reset => Sys2Proof.Machine.execReset s
  | .clockChangeEffective => Sys2Proof.Machine.execClockChangeEffective s
  | .hostCommandedPowerDown => Sys2Proof.Machine.execHostCommandedPowerDown s

end Sys2Proof.Machine
end

