-- ==== Sys2Proof/Machine/Step.lean ====
section
/-! DEFINITION. One step of the package, and the placing of an instruction where a step issues it next. -/

namespace Sys2Proof.Machine

/-- One step: the next hardware step or instruction, and what follows it (log 3). -/
def step (s : State) : Host.Outcome State Fault Refusal :=
  match todo s with
  | .done t => .next (afterStep s t)
  | .run i t =>
    match exec i t with
    | .next u => .next (afterStep s u)
    | .fault f => .fault f
    | .refused r => .refused r

/-- The state with a 12-byte instruction, bit 0 of its first byte in bit 0 of `w`, where the next step issues it (log 80). -/
def State.withFetchWord (s : State) (nbits w : Nat) : State := placeWord s (BitVec.ofNat 96 (w % 2 ^ nbits))

end Sys2Proof.Machine
end

