-- ==== Sys2Proof/Safety.lean ====
section
/-! DEFINITION. The terms in which claims are stated: when a clause issues, what an instruction may change besides its own effect,
and what counts as the effect of an arithmetic form. -/

namespace Sys2Proof.Machine

/-! ## When an instruction issues -/

/-- The clause x is next to issue, for lanes of warp slot k alone, all of them lanes of the warp w in that slot, which is not being
single-stepped (R129, R131, R328). -/
structure Issues (s : State) (x : Clause) (k : Nat) (w : Warp) : Prop where
  head : s.clauses.head? = some x
  picker : x.picker ≠ .control ∧ ∀ n, x.picker ≠ .stream n
  slots : x.slots = [k]
  slot : k < Config.warpSlots
  lanes : ∀ r ∈ x.lanes, r.slot = k ∧ r.lane < 32 ∧ (w.lanes.at? r.lane).isSome
  warp : s.warp? x.core k = some w
  going : w.stepping = none

/-- No check before the issue turns an instruction away: its main-file fields lie in the warp's allocation (R46), it reads no timing
register in a reproducible launch (R336), and it needs no arrival of other lanes (R133). `ops` are its main-file fields with
their widths. -/
structure Ready (i : Instr) (ops : List (Operand × Pos)) (s : State) (x : Clause) (k : Nat) (w : Warp) : Prop where
  range : rangeOk w.regs ops = true
  timing : s.repro x.core k = false ∨ i.operands.any isTiming = false
  single : collectiveIn s x.core k i = false ∨ replaying s x.core k x.pc = true

/-- As `Ready`, for a warp-collective instruction whose members have all arrived (R132, R133). -/
structure Arrived (i : Instr) (ops : List (Operand × Pos)) (s : State) (x : Clause) (k : Nat) (w : Warp) : Prop where
  range : rangeOk w.regs ops = true
  timing : s.repro x.core k = false ∨ i.operands.any isTiming = false
  collective : collectiveIn s x.core k i = true
  fresh : replaying s x.core k x.pc = false
  whole : Instr.needsAll32 i = true → w.present.length = 32
  members : (membersOf w i).all (fun l => (x.lanesOf k).contains l) = true

/-- The lanes that take part in a warp-collective instruction. -/
def Clause.members (x : Clause) (k : Nat) (w : Warp) (i : Instr) : List Nat :=
  (x.lanesOf k).filter (fun l => (membersOf w i).contains l)

/-- The lanes that execute: those of the clause whose guard is true (R176). -/
def Clause.executing (s : State) (x : Clause) (k : Nat) : List Nat := guardLanes s x k (x.lanesOf k)

/-- The lanes that execute a warp-collective instruction together: the members that arrived with a true guard (R269). -/
def Clause.together (s : State) (x : Clause) (k : Nat) (w : Warp) (i : Instr) : List Nat := guardLanes s x k (x.members k w i)

/-- THE INSTRUCTION GOES: for the lanes `ls` of the clause, of which `ex` execute it. A form that needs no arrival of others issues in
every lane of the clause; a warp-collective one, by its form or by a warp-uniform operand, in its members (R132, R203). -/
def Goes (i : Instr) (ops : List (Operand × Pos)) (s : State) (x : Clause) (k : Nat) (w : Warp) (ls ex : List Nat) : Prop :=
  (Ready i ops s x k w ∧ ls = x.lanesOf k ∧ ex = x.executing s k) ∨
  (Arrived i ops s x k w ∧ ls = x.members k w i ∧ ex = x.together s k w i)

/-- THE CONTROL CORE ISSUES i: its clause x, of its one lane, is at the head, the guard is true, and every field of the instruction is
one that the control core has (R326). -/
structure CtrlIssues (i : Instr) (ops : List (Operand × Pos)) (s : State) (x : Clause) : Prop where
  head : s.clauses.head? = some x
  picker : ∀ n, x.picker ≠ .stream n
  slots : x.slots = [ctrlSlot]
  lanes : x.lanesOf ctrlSlot = [0]
  guard : guardLanes s x ctrlSlot [0] = [0]
  levels : i.operands.all ctrlOperand = true
  range : rangeOk 256 ops = true

/-- THE ACCESS STREAM t in slot k ISSUES i: its clause x is at the head, its guard is not false (R265), and it reads no timing register in
a reproducible launch (R336). -/
structure StreamIssues (i : Instr) (s : State) (x : Clause) (k : Nat) (t : Stream) : Prop where
  head : s.clauses.head? = some x
  picker : x.picker = .stream k
  stream : (s.core x.core).streams.at? k = some t
  guard : x.guard.neg = false
  timing : streamRepro s t = false ∨ i.operands.any isTiming = false

/-! ## What issuing changes besides the effect -/

/-- A warp without what every issue may change: program counters, latches, the spin detector, the step of its last issue; and
without what an arithmetic form writes: predicates, stack pointers and the operand file. -/
def Warp.bare (w : Warp) : Warp :=
  { w with
    lanes := w.lanes.mapV (fun _ y => { y with pc := 0, preds := 0, sp := 0 })
    opf := [], wreg := [], lat := [], spin := Spin.reset, lastIssue := 0 }

/-- A core without its store, and with the bare form of one warp. -/
def Core.bare (y : Core) (k : Nat) : Core := { y with store := [], warps := y.warps.upd k Warp.bare }

/-- Apart from the clauses in flight, the core store of core c, and what `Warp.bare` leaves out of the warp in slot k of it, the
two states agree. -/
structure SameBut (s t : State) (c k : Nat) : Prop where
  rest : { t with cores := [], clauses := [] } = { s with cores := [], clauses := [] }
  cores : ∀ b, b ≠ c → t.core b = s.core b
  core : (t.core c).bare k = (s.core c).bare k

/-- What follows the clause at the head once its slot has issued (R170, R207). -/
def Clause.behind (x : Clause) (rest : List Clause) : List Clause :=
  if x.slot = 4 then rest else { x with slot := x.slot + 1 } :: rest

/-- The core-store bytes of the registers that a destination covers in the given lanes (R45). -/
def dstByte (w : Warp) (d : Option (Operand × Pos)) (ls : List Nat) (a : Nat) : Prop :=
  ∃ r p, d = some (.main r, p) ∧ ∃ l ∈ ls, ∃ i, i < posSpan p ∧
    State.regOff w (r.toNat + i) l ≤ a ∧ a < State.regOff w (r.toNat + i) l + 4

/-- The operand-file word is one of the destination. -/
def dstOpf (d : Option (Operand × Pos)) (r : Nat) : Prop := ∃ q p, d = some (.opf q, p) ∧ q.toNat ≤ r ∧ r < q.toNat + posSpan p

/-- The destination is a register, of each lane or of the warp, or none: all but a queue. -/
def regDst : Option (Operand × Pos) → Bool
  | none => true
  | some (.main _, _) => true
  | some (.opf _, _) => true
  | some (.wreg _, p) => p != .w128
  | some (.special c, p) => c = 0x18 && p = .w64
  | _ => false

/-- The written predicate of an instruction of format A or I (R181, R182); p7 of any other. -/
def Instr.pwField : Instr → BitVec 3
  | .add f | .sub f | .mul f | .mulhi f | .mad f | .div f | .rem f | .min f | .max f | .abs f | .neg f | .and f | .or f
  | .xor f | .not f | .shl f | .shr f | .rot f | .popc f | .clz f | .ctz f | .brev f | .bfx f | .bfi f | .cmp f | .sel f
  | .mov f | .lut3 f | .plut3 f | .ppack f | .punpack f | .lea f | .addc f | .subc f | .mulw f | .madw f | .pack f
  | .regaddr f | .peeraddr f | .spaddr f | .alignup f | .inrange f | .fadd f | .fsub f | .fmul f | .fma f | .fadd2 f
  | .fdot2 f | .fmin f | .fmax f | .fminp f | .fmaxp f | .fclamp f | .fabs f | .fneg f | .fcopysign f | .fsign f
  | .fabsdiff f | .fcmp f | .fclass f | .frnd f | .ffract f | .fscale f | .fgetexp f | .fgetman f | .fhsel f | .faddF64 f
  | .fsubF64 f | .fmulF64 f | .fmaF64 f | .fadd2F64 f | .fminF64 f | .fmaxF64 f | .fcmpF64 f | .frndF64 f | .fdivF64 f
  | .fsqrtF64 f | .fclassF64 f | .cvt f | .cvtF2i f | .cvtI2f f | .cvtI2i f | .cvtPk2 f | .cvtPk4 f | .cvtUnpk2 f
  | .cvtUnpk4 f | .cvtsc f | .cvtscPk4 f | .cvtQ4 f | .cvtF32Q4 f | .rcp f | .sqrt f | .rsqrt f | .fdivF32 f | .exp2 f
  | .log2 f | .exp f | .log f | .sinpi f | .cospi f | .tanh f | .logistic f | .rsdepth f | .balloc f | .bpstat f | .push f
  | .pop f | .qpeek f | .qstat f | .ldwp f | .waitwp f | .xlAt f | .xlBelow f | .xlAbove f | .xlXor f | .quadx f | .quadb f
  | .vote f | .ballot f | .lred f | .flred f | .scan f | .fscan f | .peers f | .same f | .present f | .first f | .rndCg10 f
  | .rnd4Cg10 f | .rndkCg10 f | .unif f | .rkey f | .addlw f | .lwcvt f | .pwadd f | .rsb f | .psetroot f | .lwf f | .lwe f
  | .rdarch f | .tnext f | .crd f | .aadd f | .asub f | .amad f | .amin f | .aand f | .ashr f => f.pw
  | .movi f | .amovi f => f.pw
  | _ => 7

/-- The warp-uniform registers once the results of lanes have been written to the destination d: the lowest lane's stands there (R180). -/
def wregAfter (old : Nat → Word) (d : Option (Operand × Pos)) (rs : List (Nat × Nat)) (j : Nat) : Word :=
  match d, rs with
  | some (.wreg n, q), e :: _ =>
    if n.toNat ≤ j ∧ j < n.toNat + posSpan q then BitVec.ofNat 32 (e.2 / 2 ^ (32 * (j - n.toNat))) else old j
  | _, _ => old j

/-- THE EFFECT OF AN ARITHMETIC FORM from s to t (R15, R176, R180, R203): in each of the executing lanes `ex` of the warp w in slot k the
destination `d` and the predicate `p` hold the result `r l`, and a warp-uniform destination holds the result of the lowest of them;
every other register, predicate and stack pointer, and all memory, is as before; the lanes of the clause go to the next slot. -/
structure Computes (s t : State) (x : Clause) (k : Nat) (w : Warp) (ex : List Nat) (d : Option (Operand × Pos)) (p : Option (BitVec 3))
    (r : Nat → Nat × Bool) : Prop where
  result : ∀ o q, d = some (o, q) → o.isWreg = false → ∀ l ∈ ex, readPlace t x.core k l q o = (r l).1 % 2 ^ (32 * posSpan q)
  pred : ∀ l j, (t.lane x.core k l).pred j =
    if p.map BitVec.toNat = some j ∧ j ≠ 7 ∧ l ∈ ex then (r l).2 else (s.lane x.core k l).pred j
  store : ∀ a, ¬ dstByte w d (ex) a → Mem.byte (t.core x.core).store a = Mem.byte (s.core x.core).store a
  opf : ∀ j l, l < 32 → ¬ (dstOpf d j ∧ l ∈ ex) → t.opfWord x.core k l j = s.opfWord x.core k l j
  wregs : ∀ j, t.wreg x.core k j = wregAfter (s.wreg x.core k) d (ex.map (fun l => (l, (r l).1))) j
  sp : ∀ l, (∀ c q, d ≠ some (.special c, q)) ∨ l ∉ ex → (t.lane x.core k l).sp = (s.lane x.core k l).sp
  pc : ∀ l, (t.lane x.core k l).pc = if l ∈ x.lanesOf k then nextPc x.pc else (s.lane x.core k l).pc
  clauses : t.clauses = x.behind s.clauses.tail
  mem : ∀ a, Mem.byte t.mem a = Mem.byte s.mem a
  rest : SameBut s t x.core k

/-- The instruction issues from s to t and writes no register: every register, stack pointer and all memory is as before, and the lanes
of the clause go to the next slot. What it says of predicates stands beside it. -/
structure Issued (s t : State) (x : Clause) (k : Nat) : Prop where
  store : ∀ a, Mem.byte (t.core x.core).store a = Mem.byte (s.core x.core).store a
  opf : ∀ j l, t.opfWord x.core k l j = s.opfWord x.core k l j
  wregs : ∀ j, t.wreg x.core k j = s.wreg x.core k j
  sp : ∀ l, (t.lane x.core k l).sp = (s.lane x.core k l).sp
  pc : ∀ l, (t.lane x.core k l).pc = if l ∈ x.lanesOf k then nextPc x.pc else (s.lane x.core k l).pc
  clauses : t.clauses = x.behind s.clauses.tail
  mem : ∀ a, Mem.byte t.mem a = Mem.byte s.mem a
  rest : SameBut s t x.core k

/-- The fields of a form with the widths at which they are read and written. -/
def fieldsOf (srcs : List (Operand × Pos × Ty)) (d : Option (Operand × Pos)) : List (Operand × Pos) :=
  srcs.map (fun e => (e.1, e.2.1)) ++ (match d with | some d => [d] | none => [])

/-- The values of sources in a lane, each at its position and type (R179). -/
def sources (s : State) (x : Clause) (k l : Nat) (srcs : List (Operand × Pos × Ty)) : List Nat :=
  srcs.map (fun q => readOp s (x.env k) l q.2.2 q.2.1 q.1)

/-- A push sets its latch in the lanes that execute it to their results (R15, R50). -/
def pushLatches (s : State) (c k slot : Nat) (d : Option (Operand × Pos)) (rs : List (Nat × Nat)) : State :=
  match d with
  | some (.queue _ _, _) =>
    s.modWarp c k (fun w => { w with lat := rs.foldl (fun m e => m.put (32 * slot + e.1) (BitVec.ofNat 64 e.2)) w.lat })
  | _ => s

/-- THE INSTRUCTION COMPLETES AS AN ARITHMETIC FORM with the given sources, destination and predicate, whose result in a lane is `g`
of the state, the lane's predicates and its source values, where `may` and `fine` say that no check of the form itself turns it
away (`fine` is told the words of a popped entry). Whenever it issues with sources other than queues and a register as its destination, there is
a next state, which has that effect and no other. A form that pops or pushes a queue entry acts where the queue has an entry, or
room; with `.nb` it tells so by the written predicate; else it waits, in every lane that is to arrive again, or with `.nb` goes on
with a false predicate; what it writes goes by the spin detector (R159); a queue that is not configured is a launch-contract trap (R17, R180, R262). -/
def ArithmeticWhen (i : Instr) (srcs : List (Operand × Pos × Ty)) (d : Option (Operand × Pos)) (p : Option (BitVec 3))
    (may : State → Clause → Nat → Prop) (fine : State → Clause → Nat → List Nat → List Word → Prop)
    (g : State → Clause → Nat → BitVec 8 → List Nat → Nat × Bool) : Prop :=
  (∀ s x k w ls ex, Issues s x k w → Goes i (fieldsOf srcs d) s x k w ls ex → srcs.all (fun e => !e.1.isQueue) = true →
    regDst d = true → may s x k → fine s x k ex [] → ∃ t, exec i s = .next t ∧
      Computes s t x k w ex d p (fun l => g s x k (s.lane x.core k l).preds8 (sources s x k l srcs))) ∧
  ∀ s x k w ls ex, Issues s x k w → Goes i (fieldsOf srcs d) s x k w ls ex → may s x k →
    let c := x.core
    let ends (ls : List Nat) (u : State) : Result := .next (endIssue x (setLatches u c k x.slot ls d))
    let does (u : State) (words : List Word) (nb : Bool) : State :=
      let rs := ex.map (fun l => (l, g u x k (u.lane c k l).preds8
        (srcs.map (fun q => readOp u { x.env k with pop := words } l q.2.2 q.2.1 q.1))))
      let u1 := pushLatches (writeResults u c k d (rs.map (fun e => (e.1, e.2.1)))) c k x.slot d (rs.map (fun e => (e.1, e.2.1)))
      let u2 := writePreds u1 c k p (rs.map (fun e => (e.1, e.2.2)))
      noteWrites (if nb then writePreds u2 c k (some (Instr.pwField i)) (ex.map (fun l => (l, true))) else u2) c k
        (spinValues d p.isSome rs ++ (if nb then ex.map (fun _ => 1) else []))
    let waits (nb : Bool) (y : Wait) : Result :=
      let again := if collectiveIn s c k i then ls else ex
      if nb then ends ls (putPreds s c k (some (Instr.pwField i)) (ex.map (fun l => (l, false))))
      else ends (ls.filter (fun l => !again.contains l)) (parkAll s c k again y)
    let trap : Result := .next (endIssue x (raiseTrap s c k Cause.contract x.pc { lanes := maskOf ex }))
    (∀ q nb, popOf (srcs.map Prod.fst) = some (q, nb) →
      (ex = [] → exec i s = ends ls s) ∧
      (ex ≠ [] →
        (∀ words, queueHead s w.wg q = .ready words → fine s x k ex words →
          exec i s = ends ls (does (acquire (queueDrop s w.wg q) c (some w.wg) .wg) words nb)) ∧
        (queueHead s w.wg q = .blocked → exec i s = waits nb (.pop q)) ∧ (queueHead s w.wg q = .unconfigured → exec i s = trap))) ∧
    (∀ q nb, popOf (srcs.map Prod.fst) = none → popOf (d.toList.map Prod.fst) = some (q, nb) →
      (ex = [] → exec i s = ends ls s) ∧
      (ex ≠ [] →
        (queueRoom s w.wg q = .ready [] → mustDrain s c k ex .rel .wg = false → fine s x k ex [] →
          exec i s = ends ls (does (release s c (some w.wg) .wg) [] nb)) ∧
        (queueRoom s w.wg q = .ready [] → mustDrain s c k ex .rel .wg = true → exec i s = .next (endIssue x (parkAll s c k ls .drain))) ∧
        (queueRoom s w.wg q = .blocked → exec i s = waits nb (.push q)) ∧ (queueRoom s w.wg q = .unconfigured → exec i s = trap)))

/-- The instruction completes as an arithmetic form that nothing but the checks of every form turns away. -/
def ArithmeticForm (i : Instr) (srcs : List (Operand × Pos × Ty)) (d : Option (Operand × Pos)) (p : Option (BitVec 3))
    (g : BitVec 8 → List Nat → Nat × Bool) : Prop :=
  ArithmeticWhen i srcs d p (fun _ _ _ => True) (fun _ _ _ _ _ => True) (fun _ _ _ => g)

/-- THE OPERANDS OF A FORM POP NOTHING, or the entry at the head of the queue that one of them names is popped, which acquires at
workgroup scope (R17, R180): from s, the state u and the popped words. -/
def Popped (os : List Operand) (s u : State) (x : Clause) (w : Warp) (ex : List Nat) (words : List Word) : Prop :=
  (popOf os = none ∧ u = s ∧ words = []) ∨
  ∃ q nb, popOf os = some (q, nb) ∧ ex ≠ [] ∧ queueHead s w.wg q = .ready words ∧
    u = acquire (queueDrop s w.wg q) x.core (some w.wg) .wg

/-- THE INSTRUCTION COMPLETES AS A CROSS-LANE FORM with the given main-file fields, destination and predicate: whenever all its members
have arrived and no check turns it away, there is a next state, in which each executing lane holds the result that `g` gives it
from the state before, with all executing lanes known; and nothing else is changed. -/
def CrossLaneForm (i : Instr) (ops : List (Operand × Pos)) (d : Option (Operand × Pos)) (p : Option (BitVec 3))
    (g : State → Env → List Nat → Nat → Nat × Bool) : Prop :=
  ∀ s x k w, Issues s x k w → Arrived i ops s x k w → regDst d = true →
    ∃ t, exec i s = .next t ∧
      Computes s t x k w (x.together s k w i) d p (g s (x.env k) (x.together s k w i))

/-- The tree of pairwise combinations over the 2^n lanes from `g` on (R274). -/
def pairwise (op : Nat) (leaf : Nat → Option Nat) : Nat → Nat → Option Nat
  | 0, g => leaf g
  | n + 1, g => comb op (pairwise op leaf n g) (pairwise op leaf n (g + 2 ^ n))

/-! ## Memory forms -/

/-- NOTHING TURNS A MEMORY FORM AWAY in the lanes `ex` of slot k: no stopped instruction is under way there, no earlier access of
them holds it back (R76, R84), every lane is launched, aligned, without watchpoint (R237, R329) and resolves to the place that
`place` gives under the leaf that `leaf` gives (R19 to R28), which holds no lost data (R362); the launch is not reproducible
(R100 has its own statements); and a release leaves nothing for another package (R76) or for the self window. The model's next number
is not in use. -/
structure Sendable (m : MemForm) (s : State) (x : Clause) (k : Nat) (ex : List Nat) (place : Nat → Place) (leaf : Nat → Nat) :
    Prop where
  idle : stoppedAt s x.core k x.pc = none
  free : mustDrain s x.core k ex m.order m.scope = false
  launched : ∀ l ∈ ex, (s.lane x.core k l).kind = .launched
  aligned : ∀ l ∈ ex, m.addr s (x.env k) l % (m.align : Int) = 0 ∧ m.bad s (x.env k) l = false
  unwatched : ∀ l ∈ ex, watchHit s x.core m.body
    (if m.scratch then truncN 64 (scratchBase x.core + m.addr s (x.env k) l)
      else if m.whole then truncN 64 (m.addr s (x.env k) l) / 128 * 128 else truncN 64 (m.addr s (x.env k) l)) m.width = false
  resolved : ∀ l ∈ ex, memResolve m s (x.env k) false l = (s, .ok (place l) (leaf l))
  clean : ∀ l ∈ ex, meetsLost m s (x.env k) l (place l) = false
  plain : s.repro x.core k = false
  near : m.order.releases = false ∨
    (m.body ≠ .multicast ∧ ∀ l ∈ ex, (∀ q pa, place l ≠ .peer q pa) ∧ selfLane m s (x.env k) l = false)
  number : s.ops.at? s.fresh = none

/-- The access of one lane, not yet performed; bit 254 of its data says that a warp-uniform destination is another lane's (R180). -/
def MemForm.acc (m : MemForm) (s : State) (x : Clause) (k : Nat) (ex : List Nat) (place : Nat → Place) (leaf : Nat → Nat) (l : Nat) :
    LaneAcc :=
  { lane := l, place := place l, hint := effHint m.hint (leaf l), sw := false, ms := (place l).isPeer && pteMS (leaf l), sent := false
    data := BitVec.ofNat 256 (m.data s (x.env k) l) ||| (match m.dst with
      | some (.wreg _, _) => if (maskLanes (maskOf ex)).head? = some l then 0 else 1#256 <<< 254
      | _ => 0) }

/-- The operation of a memory form in flight (R14, R236). -/
def MemForm.op (m : MemForm) (s : State) (x : Clause) (k : Nat) (ex : List Nat) (place : Nat → Place) (leaf : Nat → Nat) : MemOp :=
  { owner := .warp x.core k, body := m.body, ty := m.ty, width := m.width, hint := m.hint, scope := m.scope, order := m.order, more := false,
    flag := flagOf x.line m.fs,
    lanes := ex.map (m.acc s x k ex place leaf) }

/-- The state once a memory form has issued, before the instruction boundary: with no executing lane, as before; else the operation
is in flight and its completion flag is raised, and nothing is performed yet but what goes through the self window (R22). Lanes that
push or pop wait for their own access. The latch of the slot follows the destination (R50). -/
def MemForm.sends (m : MemForm) (s : State) (x : Clause) (k : Nat) (ls ex : List Nat) (place : Nat → Place) (leaf : Nat → Nat) : State :=
  let s1 := if ex = [] then s
    else
      let o := m.op s x k ex place leaf
      raiseFlag { s with fresh := s.fresh + 1, ops := s.ops.put s.fresh o } x.core k o.flag
  let s2 := selfNow (if m.body.sync then parkAll s1 x.core k ex .transfer else s1) s.fresh
    ((ex.map (m.acc s x k ex place leaf)).filter (fun a => selfLane m s (x.env k) a.lane))
  setLatches s2 x.core k x.slot ls m.dst

/-- THE INSTRUCTION COMPLETES AS A MEMORY FORM: where nothing turns it away it issues one access in each executing lane. -/
def MemoryForm (m : MemForm) : Prop :=
  ∀ s x k w ls ex place leaf, Issues s x k w → Goes m.instr m.ops s x k w ls ex → Sendable m s x k ex place leaf →
    exec m.instr s = .next (endIssue x (m.sends s x k ls ex place leaf))

/-- A MISALIGNED ACCESS OF THE FORM TRAPS (R14, R237): where an executing launched lane's address is no multiple of the alignment, or
its operands name what the form cannot reach, the misaligned-access trap is taken for those lanes with the address of the
lowest, and no lane's access is sent. With `one` only the lowest executing lane accesses. -/
def MisalignedForm (m : MemForm) (one : Bool) : Prop :=
  ∀ s x k w ls ex, Issues s x k w → Goes m.instr m.ops s x k w ls ex → stoppedAt s x.core k x.pc = none →
    let a (l : Nat) : Int := m.addr s (x.env k) l
    let off := (if one then ex.take 1 else ex).filter (fun l => (s.lane x.core k l).kind == .launched && (a l % (m.align : Int) != 0 || m.bad s (x.env k) l))
    off ≠ [] → exec m.instr s = .next (endIssue x (raiseTrap s x.core k Cause.misaligned x.pc
      { lanes := maskOf off, addr := BitVec.ofNat 64 (truncN 64 (a (off.headD 0))) }))

/-! ## The memory forms of format M (R239 to R245, R250) -/

section Forms
variable (f : FmtM)

/-- The bytes of the form's type. -/
def formBytes : Nat := f.ty.bits / 8

/-- The index of a lane. -/
def indexAt (s : State) (e : Env) (l : Nat) : Nat := readOp s e l .n32 .w32 f.index

/-- A register pair plus the index times a width plus the offset (R239). -/
def generalAt (w : Nat) (s : State) (e : Env) (l : Nat) : Int :=
  truncN 64 ((readOp s e l .b64 .w64 f.addr : Int) + indexAt f s e l * w + f.off.toInt)

/-- The stack pointer plus the index times a width plus the offset (R242). -/
def stackAt (w : Nat) (s : State) (e : Env) (l : Nat) : Int :=
  truncN 64 (((s.lane e.core e.slot l).sp.toNat : Int) + (indexAt f s e l * w + f.off.toInt))

/-- An offset into the scratchpad partition (R241). -/
def scratchAt (w : Nat) (s : State) (e : Env) (l : Nat) : Int := (indexAt f s e l : Int) * w + f.off.toInt

/-- A register pair plus the offset. -/
def pairAt (s : State) (e : Env) (l : Nat) : Int := truncN 64 ((readOp s e l .b64 .w64 f.addr : Int) + f.off.toInt)

/-- A load of w bytes at the address that `a` gives. -/
def loadOf (i : Instr) (w : Nat) (p : Pos) (ops : List (Operand × Pos)) (sp ro : Bool) (a : State → Env → Nat → Int) : MemForm :=
  { instr := i, ops := (f.data, p) :: ops, dst := some (f.data, p), kind := .load, write := false, odd := decide (8 < w), width := w,
    align := w, whole := false, addr := a, scratch := sp, data := fun _ _ _ => 0, bad := fun _ _ _ => false,
    body := .load f.data f.ty ro, ty := f.ty, hint := f.hint, scope := f.scope, order := f.order, fs := f.fs }

/-- A store of w bytes at the address that `a` gives. -/
def storeOf (i : Instr) (w : Nat) (p : Pos) (ops : List (Operand × Pos)) (sp : Bool) (a : State → Env → Nat → Int) : MemForm :=
  { instr := i, ops := (f.data, p) :: ops, dst := none, kind := .store, write := true, odd := decide (8 < w), width := w,
    align := w, whole := false, addr := a, scratch := sp, data := fun s e l => readOp s e l f.ty p f.data,
    bad := fun _ _ _ => false, body := .store, ty := f.ty, hint := f.hint, scope := f.scope, order := f.order, fs := f.fs }

/-- Loads and stores, through a register pair, the stack pointer or the scratchpad partition, and the multicast store, whose
group is its index. -/
def plainForms : List MemForm :=
  let n := formBytes f
  let fields : List (Operand × Pos) := [(f.addr, .w64), (f.index, .w32)]
  let ro := f.mmod.getLsbD 0
  [loadOf f (.ld f) n f.ty.pos fields false ro (generalAt f n),
   loadOf f (.ld4 f) 16 .w128 fields false ro (generalAt f 16),
   loadOf f (.lds f) n f.ty.pos [(f.index, .w32)] true false (scratchAt f n),
   loadOf f (.lds4 f) 16 .w128 [(f.index, .w32)] true false (scratchAt f 16),
   loadOf f (.ldl f) n f.ty.pos [(f.index, .w32)] false false (stackAt f n),
   storeOf f (.st f) n f.ty.pos fields false (generalAt f n),
   storeOf f (.st4 f) 16 .w128 fields false (generalAt f 16),
   storeOf f (.sts f) n f.ty.pos [(f.index, .w32)] true (scratchAt f n),
   storeOf f (.sts4 f) 16 .w128 [(f.index, .w32)] true (scratchAt f 16),
   storeOf f (.stl f) n f.ty.pos [(f.index, .w32)] false (stackAt f n),
   { storeOf f (.stmc f) n f.ty.pos fields false (pairAt f) with
     odd := true, body := .multicast, bad := fun s e l => decide (2 ^ 16 ≤ indexAt f s e l)
     data := fun s e l => readOp s e l f.ty f.ty.pos f.data % 2 ^ 64 + 2 ^ 64 * (indexAt f s e l % 2 ^ 16) }]

/-- The forms that act on the 128 bytes around their address, which are never misaligned. -/
def lineForms : List MemForm :=
  let line (i : Instr) (body : OpBody) (write : Bool) : MemForm :=
    { instr := i, ops := [(f.addr, .w64), (f.index, .w32)], dst := none, kind := if write then .store else .load, write := write, odd := true
      width := 128, align := 1, whole := true, addr := generalAt f 1, scratch := false, data := fun _ _ _ => 0, bad := fun _ _ _ => false,
      body := body, ty := f.ty, hint := f.hint, scope := f.scope, order := f.order, fs := f.fs }
  [line (.zline f) .zline true, line (.cwb f) .cwb false, line (.cinv f) .cinv false]

/-- `ldu`: one load for the warp, by its lowest executing lane (R240). -/
def sharedLoad : MemForm :=
  loadOf f (.ldu f) (formBytes f) f.ty.pos [(f.addr, .w64), (f.index, .w32)] false (f.mmod.getLsbD 0) (generalAt f (formBytes f))

/-- The loads that `waita` makes, of a comparand of the form's type (R250). -/
def awaitLoad : MemForm :=
  { loadOf f (.waita f) (formBytes f) f.ty.pos [(f.addr, .w64), (f.index, f.ty.pos)] false false (pairAt f) with odd := true }

/-- Atomics and reductions, at a register pair plus the offset or at an offset in the scratchpad partition (R244, R245): the operation
comes from MMOD, the operand of `cas` is a pair of values, and the reductions have no destination. -/
def atomicForms : List MemForm :=
  let n := formBytes f
  let value (v : Nat) : Nat := v % 2 ^ f.ty.bits
  let both (v : Nat) : Nat := v % 2 ^ f.ty.bits + 2 ^ 64 * (v / 2 ^ f.ty.bits % 2 ^ f.ty.bits)
  let cp : Pos := if f.ty.bits = 64 then .w128 else .w64
  let code := f.mmod.toNat % 16
  let int : AtomOp := [.add, .min, .max, .and, .or, .xor, .exch, .cas, .inc, .dec, .fadd, .fmin].getD code .fmax
  let flt : AtomOp := [.fadd, .fmin].getD code .fmax
  let form (i : Instr) (op : AtomOp) (b : Operand) (bp : Pos) (d : Option Operand) (sp : Bool) (v : Nat → Nat) : MemForm :=
    { instr := i
      ops := (if sp then [] else [(f.addr, .w64)]) ++ [(b, bp)] ++ (match d with | some d => [(d, f.ty.pos)] | none => [])
      dst := d.map (fun d => (d, f.ty.pos)), kind := .atomic, write := true, odd := true, width := n, align := n, whole := false
      addr := fun s e l => if sp then f.off.toInt else pairAt f s e l
      scratch := sp, data := fun s e l => v (readOp s e l f.ty bp b), bad := fun _ _ _ => false
      body := .atomic op f.ty d (f.mmod.extractLsb' 6 3), ty := f.ty, hint := f.hint, scope := f.scope, order := f.order, fs := f.fs }
  [form (.atom f) int f.index f.ty.pos (some f.data) false value,
   form (.cas f) .cas f.index cp (some f.data) false both,
   form (.red f) int f.data f.ty.pos none false value,
   form (.fatom f) flt f.index f.ty.pos (some f.data) false value,
   form (.fred f) flt f.data f.ty.pos none false value,
   form (.atominc f) .inc f.index f.ty.pos (some f.data) false value,
   form (.atomdec f) .dec (.imm 0) .w32 (some f.data) false (fun _ => 0),
   form (.atoms f) int f.index f.ty.pos (some f.data) true value,
   form (.cass f) .cas f.index cp (some f.data) true both,
   form (.reds f) int f.data f.ty.pos none true value,
   form (.fatoms f) flt f.index f.ty.pos (some f.data) true value,
   form (.freds f) flt f.data f.ty.pos none true value]

end Forms

/-- A push of a call at pc: 8 bytes below the stack pointer, with the target and the new stack pointer kept for the transfer (R207). -/
def pushOf (i : Instr) (pc : DWord) (target : Nat → DWord) : MemForm :=
  let new (s : State) (e : Env) (l : Nat) : Nat := ((s.lane e.core e.slot l).sp - 8).toNat
  { instr := i, ops := [], dst := none, kind := .store, write := true, odd := false, width := 8, align := 8, whole := false,
    addr := fun s e l => new s e l, scratch := false, bad := fun _ _ _ => false, body := .push, ty := .b64,
    hint := .dflt, scope := .wp, order := .plain, fs := .none
    data := fun s e l => (nextPc pc).toNat + 2 ^ 64 * (target l).toNat + 2 ^ 128 * new s e l }

/-- The pop of a return, at the stack pointer (R207). -/
def popOfRet : MemForm :=
  { instr := .ret, ops := [], dst := none, kind := .load, write := false, odd := false, width := 8, align := 8, whole := false,
    addr := fun s e l => (s.lane e.core e.slot l).sp.toNat, scratch := false, bad := fun _ _ _ => false, body := .pop, ty := .b64,
    hint := .dflt, scope := .wp, order := .plain, fs := .none
    data := fun s e l => 2 ^ 128 * (s.lane e.core e.slot l).sp.toNat }

/-! ## An invariant -/

/-- Memory and every core store have their canonical form (log 1). -/
def State.formed (s : State) : Prop := Mem.wf s.mem = true ∧ ∀ e ∈ s.cores, Mem.wf e.2.store = true

end Sys2Proof.Machine
end

