-- ==== Sys2Proof/Certificates/Slice0/Obligations.lean ====
section
/-! DEFINITION. The statements for the provers. -/

section
open Sys2Proof Sys2Proof.Machine

/-- Integer arithmetic (R197, R198, R199): in every executing lane the exact result, wrapped or saturated to T and extended to the
register, is in the destination, and nothing else changes. Division truncates toward zero; by zero the quotient is −1, or the
greatest unsigned value, and the remainder is the dividend. -/
def Obligations.IntegerArithmetic : Prop :=
  ∀ f : FmtA,
    let one := [(f.a, f.ty.pos, f.ty)]
    let two := one ++ [(f.b, f.ty.pos, f.ty)]
    let three := two ++ [(f.c, f.ty.pos, f.ty)]
    let form (i : Instr) (srcs : List (Operand × Pos × Ty)) (sat : Bool) (g : List Int → Int) : Prop :=
      ArithmeticForm i srcs (some (f.d, f.ty.pos)) none (fun _ v => (writeT f.ty sat (g (v.map (intVal f.ty))), false))
    form (.add f) two f.sat (fun | [a, b] => a + b | _ => 0) ∧
    form (.sub f) two f.sat (fun | [a, b] => a - b | _ => 0) ∧
    form (.mul f) two f.sat (fun | [a, b] => a * b | _ => 0) ∧
    form (.mulhi f) two false (fun | [a, b] => a * b / (2 ^ f.ty.bits : Nat) | _ => 0) ∧
    form (.mad f) three f.sat (fun | [a, b, c] => a * b + c | _ => 0) ∧
    form (.div f) two f.sat (fun
      | [a, b] => if b = 0 then (if f.ty.isI then -1 else (2 ^ f.ty.bits : Nat) - 1) else a.tdiv b
      | _ => 0) ∧
    form (.rem f) two false (fun | [a, b] => if b = 0 then a else a - a.tdiv b * b | _ => 0) ∧
    form (.min f) two false (fun | [a, b] => min a b | _ => 0) ∧
    form (.max f) two false (fun | [a, b] => max a b | _ => 0) ∧
    form (.abs f) one f.sat (fun | [a] => |a| | _ => 0) ∧
    form (.neg f) one f.sat (fun | [a] => -a | _ => 0)

/-- Bit operations and moves (R198, R200, R202), for every width of T, and what their functions are, bit by bit (R198, R200, R201):
reversal, table look-up, rotation, the counts of one bits, of leading and of trailing zeros, insertion and extraction of a
field. -/
def Obligations.BitOperations : Prop :=
  (∀ f : FmtA,
     let N := f.ty.bits
     let a := (f.a, f.ty.pos, f.ty)
     let b := (f.b, f.ty.pos, f.ty)
     let form (i : Instr) (srcs : List (Operand × Pos × Ty)) (g : List Nat → Nat) : Prop :=
       ArithmeticForm i srcs (some (f.d, f.ty.pos)) none (fun _ v => (extT f.ty (g v % 2 ^ N), false))
     let count (i : Instr) (g : Nat → Nat) : Prop :=
       ArithmeticForm i [a] (some (f.d, .w32)) none (fun _ v => (g (v.headD 0), false))
     form (.and f) [a, b] (fun | [x, y] => x &&& y | _ => 0) ∧
     form (.or f) [a, b] (fun | [x, y] => x ||| y | _ => 0) ∧
     form (.xor f) [a, b] (fun | [x, y] => x ^^^ y | _ => 0) ∧
     form (.not f) [a] (fun | [x] => 2 ^ N - 1 - x % 2 ^ N | _ => 0) ∧
     form (.shl f) [a, (f.b, .w32, .n32)] (fun | [x, n] => if n < N then x * 2 ^ n else 0 | _ => 0) ∧
     form (.shr f) [a, (f.b, .w32, .n32)] (fun
       | [x, n] => if n < N then truncN N (intVal f.ty x / (2 ^ n : Nat)) else if intVal f.ty x < 0 then 2 ^ N - 1 else 0
       | _ => 0) ∧
     form (.rot f) [a, (f.b, .w32, .n32)] (fun | [x, n] => rotT N x n | _ => 0) ∧
     form (.brev f) [a] (fun | [x] => brevN N x | _ => 0) ∧
     form (.bfx f) [a, (f.b, .w32, .n32), (f.c, .w32, .n32)] (fun | [x, n, m] => bfxT f.ty x (n % 256) (m % 256) | _ => 0) ∧
     form (.bfi f) [a, b, (f.c, .w32, .n32)] (fun | [x, y, n] => bfiT N x y (n % 256) (n / 256 % 256) | _ => 0) ∧
     form (.lut3 f) [a, b, (f.c, f.ty.pos, f.ty)] (fun | [x, y, z] => lut3N f.opm.toNat N x y z | _ => 0) ∧
     form (.mov f) [a] (fun | [x] => x | _ => 0) ∧
     count (.popc f) (popCount N) ∧ count (.clz f) (clzN N) ∧ count (.ctz f) (ctzN N) ∧
     ∀ g : FmtI, ArithmeticForm (.movi g) [] (some (g.d, g.ty.pos)) none
       (fun _ _ => (if g.ty = .i64 then truncN 64 (sextN 32 g.imm.toNat) else g.imm.toNat, false))) ∧
  (∀ n x i, (brevN n x).testBit i = (decide (i < n) && x.testBit (n - 1 - i))) ∧
  (∀ t n a b c i, (lut3N t n a b c).testBit i =
    (decide (i < n) && t.testBit ((a.testBit i).toNat + 2 * (b.testBit i).toNat + 4 * (c.testBit i).toNat))) ∧
  (∀ n a s i, i < n → (rotT n a s).testBit i = a.testBit ((i + (n - s % n)) % n)) ∧
  (∀ n x, popCount n x = ((List.range n).filter (fun i => x.testBit i)).length) ∧
  (∀ n x, clzN n x ≤ n ∧ (∀ i, n - clzN n x ≤ i → i < n → x.testBit i = false) ∧
    (clzN n x < n → x.testBit (n - 1 - clzN n x) = true)) ∧
  (∀ n x, ctzN n x ≤ n ∧ (∀ i, i < ctzN n x → x.testBit i = false) ∧ (ctzN n x < n → x.testBit (ctzN n x) = true)) ∧
  (∀ n a b pos len i, i < n → (bfiT n a b pos len).testBit i =
    if pos ≤ i ∧ i < pos + len then a.testBit (i - pos) else b.testBit i) ∧
  (∀ t a pos len i, t.isI = false → i < t.bits → (bfxT t a pos len).testBit i =
    (decide (i < len) && decide (pos + i < t.bits) && a.testBit (pos + i))) ∧
  -- For i types bits past the top read as the sign, and so do those past the field.
  ∀ t a pos len i, t.isI = true → i < t.bits → (bfxT t a pos len).testBit i =
    (decide (0 < len) && a.testBit (min (pos + min i (len - 1)) (t.bits - 1)))

/-- Comparison, selection and predicates (R181, R201): `cmp` and `plut3` write the predicate PW and no register; `sel` takes A where
the predicate is true; `ppack` gathers the predicates. `punpack` gives the predicates of the mask the bits of A in each executing
lane, p7 staying true, and nothing else changes. -/
def Obligations.ComparesAndPredicates : Prop :=
  (∀ f : FmtA,
     let a := (f.a, f.ty.pos, f.ty)
     let b := (f.b, f.ty.pos, f.ty)
     let bit (p : BitVec 8) (o : Operand) : Nat := (p.getLsbD (predIx o)).toNat
     ArithmeticForm (.cmp f) [a, b] none (some f.pw) (fun | _, [x, y] => (0, cmpCC f.opm.toNat (intVal f.ty x) (intVal f.ty y)) | _, _ => (0, false)) ∧
     ArithmeticForm (.sel f) [a, b] (some (f.d, f.ty.pos)) none (fun | p, [x, y] => (if bit p f.c = 1 then x else y, false) | _, _ => (0, false)) ∧
     ArithmeticForm (.plut3 f) [] none (some f.pw) (fun p _ => (0, f.opm.getLsbD (bit p f.a + 2 * bit p f.b + 4 * bit p f.c))) ∧
     ArithmeticForm (.ppack f) [] (some (f.d, .w32)) none (fun p _ => (p.toNat, false))) ∧
  (∀ f s x k w ls ex, Issues s x k w → Goes (.punpack f) [(f.a, .w32)] s x k w ls ex → f.a.isQueue = false →
     ∃ t, exec (.punpack f) s = .next t ∧ Issued s t x k ∧
       ∀ l j, (t.lane x.core k l).pred j =
         if l ∈ ex ∧ j < 7 ∧ f.opm.getLsbD j = true then (readOp s (x.env k) l .b32 .w32 f.a).testBit j
         else (s.lane x.core k l).pred j) ∧
  -- With A a queue, an entry is popped first; an empty queue makes it wait.
  (∀ f q s x k w ls ex, Issues s x k w → Goes (.punpack f) [(f.a, .w32)] s x k w ls ex → f.a = .queue q false → ex ≠ [] →
     (∀ words, queueHead s w.wg q.toNat = .ready words →
       let u := acquire (queueDrop s w.wg q.toNat) x.core (some w.wg) .wg
       let v (l : Nat) : Nat := (words.getD l 0).toNat
       let take (l : Nat) (y : Lane) : Lane :=
         (List.range 7).foldl (fun y p => if f.opm.getLsbD p then y.setPred p ((v l).testBit p) else y) y
       ∃ n, exec (.punpack f) s = .next (endIssue x (setLatches (noteWrites
         (if f.opm = 0 then u else ex.foldl (fun u l => u.modLane x.core k l (take l)) u) x.core k n) x.core k x.slot ls none))) ∧
     (queueHead s w.wg q.toNat = .blocked →
       let again := if collectiveIn s x.core k (.punpack f) then ls else ex
       exec (.punpack f) s = .next (endIssue x (setLatches (parkAll s x.core k again (.pop q.toNat)) x.core k x.slot
         (ls.filter (fun l => !again.contains l)) none))) ∧
     (queueHead s w.wg q.toNat = .unconfigured → exec (.punpack f) s = .next (endIssue x
       (raiseTrap s x.core k Cause.contract x.pc { lanes := maskOf ex }))))

/-- Address forms (R204, R205). The value that stands for an operand out of range has bit 52 set, so that an access through it takes the
non-canonical fault; `lpc` checks no target, and its other fields are zero. -/
def Obligations.AddressForms : Prop :=
  (∀ s who acc va, 2 ^ 52 ≤ va → resolveNow s who acc va = (s, .fault 5)) ∧
  (∀ g : FmtB, (Instr.lpc g).wf = true → g.bar = 0 ∧ g.a = .main 0) ∧
  ∀ f : FmtA,
    let pair (o : Operand) (t : Ty) : Operand × Pos × Ty := (o, .w64, t)
    let word (o : Operand) (t : Ty) : Operand × Pos × Ty := (o, .w32, t)
    let d := some (f.d, Pos.w64)
    let w : Ty := if f.ty.isI then .i64 else .n64
    ArithmeticForm (.lea f) [pair f.a .b64, word f.b f.ty, word f.c .i32] d none (fun
      | _, [a, b, c] => (truncN 64 (a + intVal f.ty b * (2 ^ f.opm.toNat : Nat) + sextN 32 c), false) | _, _ => (0, false)) ∧
    ArithmeticForm (.addc f) [word f.a .n32, word f.b .n32] (some (f.d, .w32)) (some f.pw) (fun
      | p, [a, b] => ((a + b + (p.getLsbD (predIx f.c)).toNat) % 2 ^ 32, decide (2 ^ 32 ≤ a + b + (p.getLsbD (predIx f.c)).toNat))
      | _, _ => (0, false)) ∧
    ArithmeticForm (.subc f) [word f.a .n32, word f.b .n32] (some (f.d, .w32)) (some f.pw) (fun
      | p, [a, b] => (truncN 32 (a - b - (p.getLsbD (predIx f.c)).toNat), decide ((a : Int) - b - (p.getLsbD (predIx f.c)).toNat < 0))
      | _, _ => (0, false)) ∧
    ArithmeticForm (.mulw f) [word f.a f.ty, word f.b f.ty] d none (fun
      | _, [a, b] => (truncN 64 (intVal f.ty a * intVal f.ty b), false) | _, _ => (0, false)) ∧
    ArithmeticForm (.madw f) [word f.a f.ty, word f.b f.ty, pair f.c w] d none (fun
      | _, [a, b, c] => (writeT w f.sat (intVal f.ty a * intVal f.ty b + intVal w c), false) | _, _ => (0, false)) ∧
    ArithmeticForm (.pack f) [word f.a .b32, word f.b .b32] d none (fun | _, [a, b] => (a + 2 ^ 32 * b, false) | _, _ => (0, false)) ∧
    (∀ r, f.a = .main r → ArithmeticForm (.regaddr f) [word (.special 0x0E) .n32, word (.special 0x00) .n32, word f.a .n32] d none (fun
      | _, base :: lane :: _ => (0xF000000000000 + base + (r.toNat * 32 + lane) * 4, false) | _, _ => (0, false))) ∧
    ArithmeticForm (.peeraddr f) [pair f.a .b64, word f.b .n32] d none (fun
      | _, [a, b] => (if 16 ≤ b then 2 ^ 52 else 0xE000000000000 + b * 2 ^ 44 + a % 2 ^ 44, false) | _, _ => (0, false)) ∧
    ArithmeticForm (.spaddr f) [word f.a .n32, word f.b .n32] d none (fun
      | _, [a, b] => (if 4 ≤ b ∨ 2 ^ 20 ≤ a then 2 ^ 52 else 0xF000001000000 + b * 2 ^ 20 + a, false) | _, _ => (0, false)) ∧
    ArithmeticForm (.alignup f) [pair f.a .n64, word f.b .n32] d none (fun
      | _, [a, b] => (if 51 < b then 2 ^ 52 else (a + 2 ^ b - 1) / 2 ^ b * 2 ^ b % 2 ^ 64, false) | _, _ => (0, false)) ∧
    ArithmeticForm (.inrange f) [pair f.a .n64, pair f.b .n64, pair f.c .n64] none (some f.pw) (fun
      | _, [a, b, c] => (0, decide (b ≤ a ∧ a - b < c)) | _, _ => (0, false)) ∧
    ∀ g : FmtB, ∀ s x k w ls ex, Issues s x k w → Goes (.lpc g) (fieldsOf [] (some (g.d, .w64))) s x k w ls ex →
      regDst (some (g.d, .w64)) = true → ∃ t, exec (.lpc g) s = .next t ∧ Computes s t x k w ex (some (g.d, .w64)) none
        (fun _ => ((x.addr + (g.off.signExtend 64 <<< 6) + g.slot.setWidth 64).toNat, false))

/-- FP32, FP16 and BF16 (R217, R218, R219, R220): the packed types act on both elements, and an immediate stands for both. -/
def Obligations.FloatForms : Prop :=
  ∀ f : FmtA,
    let F := Flt.ofTy f.ty
    let src (o : Operand) : Operand × Pos × Ty := (o, f.ty.pos, f.ty)
    let packed (i : Instr) (os : List Operand) (g : List Nat → Nat) : Prop :=
      ArithmeticForm i (os.map src) (some (f.d, f.ty.pos)) none (fun _ v =>
        (if f.ty = .f16 ∨ f.ty = .bf16 then
          g (((os.zip v).map (fun e => halves e.1 e.2)).map Prod.fst) +
            2 ^ 16 * g (((os.zip v).map (fun e => halves e.1 e.2)).map Prod.snd)
        else g v, false))
    packed (.fadd f) [f.a, f.b] (fun | [x, y] => F.add f.rm x y | _ => 0) ∧
    packed (.fsub f) [f.a, f.b] (fun | [x, y] => F.sub f.rm x y | _ => 0) ∧
    packed (.fmul f) [f.a, f.b] (fun | [x, y] => F.mul f.rm x y | _ => 0) ∧
    packed (.fma f) [f.a, f.b, f.c] (fun | [x, y, z] => F.fma f.rm (f.opm.getLsbD 0) x y z | _ => 0) ∧
    packed (.fmin f) [f.a, f.b] (fun | [x, y] => F.pick false x y | _ => 0) ∧
    packed (.fmax f) [f.a, f.b] (fun | [x, y] => F.pick true x y | _ => 0) ∧
    packed (.fminp f) [f.a, f.b] (fun | [x, y] => F.pickP false x y | _ => 0) ∧
    packed (.fmaxp f) [f.a, f.b] (fun | [x, y] => F.pickP true x y | _ => 0) ∧
    packed (.fclamp f) [f.a, f.b, f.c] (fun | [x, y, z] => F.pick false (F.pick true x y) z | _ => 0) ∧
    packed (.fabs f) [f.a] (fun | [x] => x % F.signBit | _ => 0) ∧
    packed (.fneg f) [f.a] (fun | [x] => (x + F.signBit) % (2 * F.signBit) | _ => 0) ∧
    packed (.fcopysign f) [f.a, f.b] (fun | [x, y] => x % F.signBit + y / F.signBit % 2 * F.signBit | _ => 0) ∧
    packed (.fsign f) [f.a] (fun | [x] => F.sign x | _ => 0) ∧
    packed (.fabsdiff f) [f.a, f.b] (fun | [x, y] => F.absdiff f.rm x y | _ => 0) ∧
    packed (.frnd f) [f.a] (fun | [x] => F.rnd f.rm x | _ => 0) ∧
    packed (.ffract f) [f.a] (fun | [x] => F.fract x | _ => 0) ∧
    ArithmeticForm (.fscale f) [(f.a, .w32, f.ty), (f.b, .w32, .i32)] (some (f.d, .w32)) none (fun
      | _, [x, n] => (if f.ty = .f16 ∨ f.ty = .bf16 then
          F.scaleBy f.rm (halves f.a x).1 (sextN 32 n) + 2 ^ 16 * F.scaleBy f.rm (halves f.a x).2 (sextN 32 n)
        else F.scaleBy f.rm x (sextN 32 n), false)
      | _, _ => (0, false)) ∧
    ArithmeticForm (.fhsel f) [(f.a, .w32, f.ty), (f.b, .w32, f.ty)] (some (f.d, .w32)) none (fun
      | _, [x, y] => ((if f.opm.getLsbD 0 then (halves f.a x).2 else (halves f.a x).1) +
          2 ^ 16 * (if f.opm.getLsbD 1 then (halves f.b y).2 else (halves f.b y).1), false)
      | _, _ => (0, false)) ∧
    ArithmeticForm (.fadd2 f) [src f.a, src f.b] (some (f.d, .w64)) none (fun
      | _, [x, y] => ((F.add2 x y).1 + 2 ^ 32 * (F.add2 x y).2, false) | _, _ => (0, false)) ∧
    (∀ g, f.ty2 = some g → ArithmeticForm (.fdot2 f) [(f.a, .w32, g), (f.b, .w32, g), (f.c, .w32, .f32)] (some (f.d, .w32)) none (fun
      | _, [x, y, z] => (dot2 (Flt.ofTy g) f.rm (halves f.a x) (halves f.b y) z, false) | _, _ => (0, false))) ∧
    ArithmeticForm (.fcmp f) [src f.a, src f.b] none (some f.pw) (fun | _, [x, y] => (0, F.cmp f.opm.toNat x y) | _, _ => (0, false)) ∧
    ArithmeticForm (.fclass f) [src f.a] (some (f.d, .w32)) none (fun | _, [x] => (F.cls x, false) | _, _ => (0, false)) ∧
    ArithmeticForm (.fgetexp f) [src f.a] (some (f.d, .w32)) none (fun | _, [x] => (F.getexp x, false) | _, _ => (0, false)) ∧
    ArithmeticForm (.fgetman f) [src f.a] (some (f.d, .w32)) none (fun | _, [x] => (F.getman x, false) | _, _ => (0, false))

/-- FP64 (R221), on register pairs. -/
def Obligations.DoubleForms : Prop :=
  ∀ f : FmtA, f.ty = .f64 →
    let F := Flt.f64
    let src (o : Operand) : Operand × Pos × Ty := (o, .w64, .f64)
    let form (i : Instr) (os : List Operand) (g : List Nat → Nat) : Prop :=
      ArithmeticForm i (os.map src) (some (f.d, .w64)) none (fun _ v => (g v, false))
    form (.faddF64 f) [f.a, f.b] (fun | [x, y] => F.add f.rm x y | _ => 0) ∧
    form (.fsubF64 f) [f.a, f.b] (fun | [x, y] => F.sub f.rm x y | _ => 0) ∧
    form (.fmulF64 f) [f.a, f.b] (fun | [x, y] => F.mul f.rm x y | _ => 0) ∧
    form (.fmaF64 f) [f.a, f.b, f.c] (fun | [x, y, z] => F.fma f.rm (f.opm.getLsbD 0) x y z | _ => 0) ∧
    form (.fminF64 f) [f.a, f.b] (fun | [x, y] => F.pick false x y | _ => 0) ∧
    form (.fmaxF64 f) [f.a, f.b] (fun | [x, y] => F.pick true x y | _ => 0) ∧
    form (.frndF64 f) [f.a] (fun | [x] => F.rnd f.rm x | _ => 0) ∧
    form (.fdivF64 f) [f.a, f.b] (fun | [x, y] => F.div f.rm (F.dec x) (F.dec y) | _ => 0) ∧
    form (.fsqrtF64 f) [f.a] (fun | [x] => F.sqrt f.rm (F.dec x) | _ => 0) ∧
    ArithmeticForm (.fadd2F64 f) [src f.a, src f.b] (some (f.d, .w128)) none (fun
      | _, [x, y] => ((F.add2 x y).1 + 2 ^ 64 * (F.add2 x y).2, false) | _, _ => (0, false)) ∧
    ArithmeticForm (.fcmpF64 f) [src f.a, src f.b] none (some f.pw) (fun | _, [x, y] => (0, F.cmp f.opm.toNat x y) | _, _ => (0, false)) ∧
    ArithmeticForm (.fclassF64 f) [src f.a] (some (f.d, .w32)) none (fun | _, [x] => (F.cls x, false) | _, _ => (0, false))

/-- Exact values survive encoding (R213, R214, R215): in every format, every code that is no NaN is what its value is encoded to, in
every rounding mode. -/
def Obligations.FloatCodesExact : Prop :=
  ∀ F ∈ [Flt.f64, Flt.f32, Flt.f16, Flt.bf16, Flt.e4m3, Flt.e5m2], ∀ m x, x < 2 ^ F.width → F.dec x ≠ .nan →
    ∀ slice, F.enc m (F.dec x) slice = x

/-- Conversions (R222 to R226) and the 4-bit family (R293, R307, R308). -/
def Obligations.Conversions : Prop :=
  -- To an integer: rounded by the mode, then saturated; a NaN gives 0.
  (∀ (T : Ty) m s,
    let lo : Int := if T.isI then -(2 ^ (T.bits - 1) : Nat) else 0
    let hi : Int := if T.isI then (2 ^ (T.bits - 1) : Nat) - 1 else (2 ^ T.bits : Nat) - 1
    toIntT T m s .nan = 0 ∧ intVal T (toIntT T m s (.inf false)) = hi ∧ intVal T (toIntT T m s (.inf true)) = lo ∧
    ∀ neg a e, intVal T (toIntT T m s (.fin neg a e)) = max lo (min hi (roundInt m s neg a e))) ∧
  ∀ (f : FmtA) (G : Ty), f.ty2 = some G →
    let T := f.ty
    let V := Flt.ofTy T
    let a := (f.a, G.pos, G)
    let draw (o : Operand) : List (Operand × Pos × Ty) := if f.rm = .sr then [(o, .w128, .b32)] else []
    let cut (v : Nat) (k : Nat) : Nat := v / 2 ^ (16 * k) % 2 ^ 16
    let sf := f.opm.getLsbD 2
    let byte (x : FVal) (s : Nat) : Nat := if T.isF then V.enc f.rm x s sf else toIntT T f.rm s x % 256
    let bytes (q : Nat) (n : Int) (s : Nat) : Nat :=
      let one (i : Nat) : Nat := byte ((Flt.f32.dec (q / 2 ^ (32 * i) % 2 ^ 32)).scale n) (cut s (4 * (f.opm.toNat % 2) + i))
      one 0 + 2 ^ 8 * one 1 + 2 ^ 16 * one 2 + 2 ^ 24 * one 3
    let T1 := some (f.d, T.pos)
    ArithmeticForm (.cvt f) (a :: (if f.rm = .sr then [(f.b, .w128, .b32), (f.c, .w32, .n32)] else [])) T1 none (fun _ v =>
      (V.enc f.rm ((Flt.ofTy G).dec (v.getD 0 0)) (cut (v.getD 1 0) (v.getD 2 0 % 8)) sf, false)) ∧
    ArithmeticForm (.cvtF2i f) [a] T1 none (fun _ v => (extT T (toIntT T f.rm 0 ((Flt.ofTy G).dec (v.getD 0 0))), false)) ∧
    ArithmeticForm (.cvtI2f f) [a] T1 none (fun _ v => (V.enc f.rm (intF (intVal G (v.getD 0 0))), false)) ∧
    ArithmeticForm (.cvtI2i f) [a] T1 none (fun _ v => (writeT T f.sat (intVal G (v.getD 0 0)), false)) ∧
    ArithmeticForm (.cvtPk2 f) ([(f.a, .w32, .f32), (f.b, .w32, .f32)] ++ draw f.c) (some (f.d, .w32)) none (fun _ v =>
      (V.enc f.rm (Flt.f32.dec (v.getD 0 0)) (cut (v.getD 2 0) (2 * (f.opm.toNat % 4))) sf +
        2 ^ 16 * V.enc f.rm (Flt.f32.dec (v.getD 1 0)) (cut (v.getD 2 0) (2 * (f.opm.toNat % 4) + 1)) sf, false)) ∧
    ArithmeticForm (.cvtPk4 f) ((f.a, .w128, .f32) :: draw f.b) (some (f.d, .w32)) none (fun _ v =>
      (bytes (v.getD 0 0) 0 (v.getD 1 0), false)) ∧
    ArithmeticForm (.cvtUnpk2 f) [(f.a, .w32, G)] (some (f.d, .w64)) none (fun _ v =>
      (Flt.f32.enc .rne ((Flt.ofTy G).dec (v.getD 0 0 % 2 ^ 16)) +
        2 ^ 32 * Flt.f32.enc .rne ((Flt.ofTy G).dec (v.getD 0 0 / 2 ^ 16)), false)) ∧
    ArithmeticForm (.cvtUnpk4 f) [(f.a, .w32, G)] (some (f.d, .w128)) none (fun _ v =>
      let one (i : Nat) : Nat :=
        let x := v.getD 0 0 / 2 ^ (8 * i) % 2 ^ 8
        Flt.f32.enc .rne (if G.isF then (Flt.ofTy G).dec x else intF (intVal G x))
      (one 0 + 2 ^ 32 * one 1 + 2 ^ 64 * one 2 + 2 ^ 96 * one 3, false)) ∧
    ArithmeticForm (.cvtsc f) ([a, (f.b, .w32, .i32)] ++ draw f.c) T1 none (fun _ v =>
      (V.enc f.rm (((Flt.ofTy G).dec (v.getD 0 0)).scale (sextN 32 (v.getD 1 0))) (cut (v.getD 2 0) (f.opm.toNat % 4)) sf, false)) ∧
    ArithmeticForm (.cvtscPk4 f) ([(f.a, .w128, .f32), (f.b, .w32, .i32)] ++ draw f.c) (some (f.d, .w32)) none (fun _ v =>
      (bytes (v.getD 0 0) (sextN 32 (v.getD 1 0)) (v.getD 2 0), false)) ∧
    ArithmeticForm (.cvtQ4 f) [(f.a, .w32, .f32), (f.b, .w32, .n32)] (some (f.d, .w32)) none (fun _ v =>
      (q4Code (v.getD 1 0 % 256 / 64) ((Flt.f32.dec (v.getD 0 0)).scale (32 - (v.getD 1 0 % 64 : Nat))), false)) ∧
    ArithmeticForm (.cvtF32Q4 f) [(f.a, .w32, .b32), (f.b, .w32, .n32), (f.c, .w32, .n32)] (some (f.d, .w32)) none (fun _ v =>
      (Flt.f32.enc .rne (q4Dec (v.getD 1 0 % 256) (v.getD 0 0 / 2 ^ (4 * (v.getD 2 0 % 8)) % 2 ^ 4)), false))

/-- The special functions (R227 to R235): each form writes, in each executing lane, the code that the model's function of that name gives
for its operand and for `ap`, and changes nothing else; what those functions compute is not stated here. Population weights (R309): an exact
sum clamped to the finite codes with −∞ absorbing, the conversions of a score to a weight and of a weight to FP32 with one
rounding each, and the normalised weight; and the draw from a key in a register, and fractions of draw bits (R281, R282). Each is
computed in a lane by itself. -/
def Obligations.SpecialFunctions : Prop :=
  (∀ f : FmtA,
     let ap := f.opm.getLsbD 0
     let fn (i : Instr) (g : Bool → Nat → Nat) : Prop :=
       ArithmeticForm i [(f.a, .w32, .f32)] (some (f.d, .w32)) none (fun _ v => (g ap (v.headD 0), false))
     fn (.rcp f) rcpFn ∧ fn (.sqrt f) sqrtFn ∧ fn (.rsqrt f) rsqrtFn ∧ fn (.exp2 f) exp2Fn ∧ fn (.log2 f) log2Fn ∧
     fn (.exp f) expFn ∧ fn (.log f) logFn ∧ fn (.sinpi f) sinpiFn ∧ fn (.cospi f) cospiFn ∧ fn (.tanh f) tanhFn ∧
     fn (.logistic f) logisticFn ∧
     ArithmeticForm (.fdivF32 f) [(f.a, .w32, .f32), (f.b, .w32, .f32)] (some (f.d, .w32)) none (fun
       | _, [x, y] => (fdivFn ap x y, false) | _, _ => (0, false))) ∧
  (∀ f : FmtA,
     let none64 : Nat := 0x8000000000000000
     let val := sextN 64
     let clamp (v : Int) : Nat := truncN 64 (max (-0x7FFFFFFFFFFFFFFF) (min 0x7FFFFFFFFFFFFFFF v))
     let pair (o : Operand) : Operand × Pos × Ty := (o, .w64, .lw64)
     ArithmeticForm (.addlw f) [pair f.a, pair f.b] (some (f.d, .w64)) none (fun
       | _, [a, b] => (if a = none64 ∨ b = none64 then none64 else clamp (val a + val b), false)
       | _, _ => (none64, false)) ∧
     ArithmeticForm (.lwcvt f) [(f.a, .w32, .f32)] (some (f.d, .w64)) none (fun _ v =>
       (match Flt.f32.dec (v.headD 0) with
         | .nan => none64
         | .inf true => none64
         | .inf false => 0x7FFFFFFFFFFFFFFF
         | .fin neg n e => clamp (roundInt .rne 0 neg (n * 0x171547653) e), false)) ∧
     ArithmeticForm (.lwf f) [pair f.a] (some (f.d, .w32)) none (fun _ v =>
       let w := v.headD 0
       (if w = none64 then 0xFF800000 else Flt.f32.enc .rne (.fin (decide (val w < 0)) (val w).natAbs (-32)), false)) ∧
     ArithmeticForm (.lwe f) [pair f.a] (some (f.d, .w64)) none (fun _ v =>
       let w := v.headD 0
       (if w = none64 then 0 else if 0 < val w then 0xFFFFFFFFFFFFFFFF else lwE (val w).natAbs, false)) ∧
     ArithmeticForm (.unif f) [(f.a, .w32, .n32)] (some (f.d, .w32)) none (fun _ v =>
       (Flt.f32.enc .rne (.fin false (v.headD 0 / 2 ^ 8 + f.opm.toNat % 2) (-24)), false)) ∧
     ArithmeticForm (.rndkCg10 f) [(f.a, .w128, .b32), (f.b, .w64, .b64)] (some (f.d, .w128)) none (fun
       | _, [a, b] => (cg10 b a, false) | _, _ => (cg10 0 0, false)))

/-- Shuffles (R271): each executing lane takes A of the source lane where that lane executes the instruction too, and its own C
where it does not or lies outside the sub-group; all sources are read before any destination is written. -/
def Obligations.Shuffles : Prop :=
  ∀ f : FmtA,
    let p := f.ty.pos
    let form (i : Instr) (src : Nat → Nat → Nat → Option Nat) : Prop :=
      CrossLaneForm i [(f.a, p), (f.c, p), (f.d, p), (f.b, .w32)] (some (f.d, p)) none (fun s e ex l =>
        let W := 4 * 2 ^ (f.opm.toNat % 4)
        match (src W (readOp s e l .n32 .w32 f.b) l).filter (fun j => ex.contains j) with
        | some j => (readOp s e j f.ty p f.a, false)
        | none => (readOp s e l f.ty p f.c, false))
    form (.xlAt f) (fun W b l => some (l - l % W + b % W)) ∧
    form (.xlBelow f) (fun W b l => if b ≤ l % W then some (l - b) else none) ∧
    form (.xlAbove f) (fun W b l => if l % W + b < W then some (l + b) else none) ∧
    form (.xlXor f) (fun W b l => some (l - l % W + ((l % W) ^^^ (b % W)))) ∧
    form (.quadb f) (fun _ b l => some (l - l % 4 + b % 4)) ∧
    CrossLaneForm (.quadx f) [(f.a, p), (f.c, p), (f.d, p), (f.b, .w32)] (some (f.d, p)) none (fun s e ex l =>
      let j := l ^^^ (match f.b with | .imm v => v.toNat | _ => 0)
      (if j ∈ ex then readOp s e j f.ty p f.a else readOp s e l f.ty p f.c, false))

/-- Votes, ballots and masks (R269, R272, R275): over the launched executing lanes of the reader's sub-group. -/
def Obligations.VotesAndMasks : Prop :=
  ∀ f : FmtA,
    let W := 4 * 2 ^ (f.opm.toNat % 4)
    let K (s : State) (e : Env) (ex : List Nat) (l : Nat) : List Nat :=
      ex.filter (fun j => (s.lane e.core e.slot j).kind == .launched && j / W == l / W)
    let A (s : State) (e : Env) (l : Nat) : Nat := readOp s e l f.ty f.ty.pos f.a
    let P (s : State) (e : Env) (l : Nat) : Bool := (s.lane e.core e.slot l).pred (predIx f.a)
    let d := some (f.d, Pos.w32)
    CrossLaneForm (.vote f) [] none (some f.pw) (fun s e ex l =>
      (0, match f.b with
        | .imm 0 => (K s e ex l).all (P s e)
        | .imm 1 => (K s e ex l).any (P s e)
        | .imm _ => (K s e ex l).all (P s e) || (K s e ex l).all (fun j => !P s e j)
        | _ => (K s e ex l).all (P s e))) ∧
    CrossLaneForm (.ballot f) [(f.d, .w32)] d none (fun s e ex l => ((maskOf ((K s e ex l).filter (P s e))).toNat, false)) ∧
    CrossLaneForm (.present f) [(f.d, .w32)] d none (fun _ _ ex _ => ((maskOf ex).toNat, false)) ∧
    CrossLaneForm (.first f) [] none (some f.pw) (fun _ _ ex l => (0, decide ((ex.filter (fun j => j / W = l / W)).head? = some l))) ∧
    CrossLaneForm (.peers f) [(f.a, f.ty.pos), (f.d, .w32)] d none (fun s e ex l =>
      ((maskOf ((K s e ex l).filter (fun j => A s e j == A s e l))).toNat, false)) ∧
    CrossLaneForm (.same f) [(f.a, f.ty.pos), (f.d, .w32)] d (some f.pw) (fun s e ex l =>
      let ok := (K s e ex l).all (fun i => (K s e ex l).all (fun j => A s e i == A s e j))
      (if ok then (maskOf (K s e ex l)).toNat else 0, ok)) ∧
    ∀ ls : List Nat, ∀ j, j < 32 → (maskOf ls).getLsbD j = ls.contains j

/-- Reductions and scans (R273, R274): integer folds from the identity over the contributing lanes in ascending order; the floating
reduction is the tree of pairwise combinations over the sub-group, the floating scan a chain, and a NaN result is canonical (R216). -/
def Obligations.ReductionsAndScans : Prop :=
  -- The operations, and the identities of the folds.
  (∀ (t : Ty) x y, redOp t 0 x y = (x + y) % 2 ^ t.bits ∧ intVal t (redOp t 1 x y) = min (intVal t x) (intVal t y) ∧
    intVal t (redOp t 2 x y) = max (intVal t x) (intVal t y) ∧ redOp t 3 x y = x &&& y ∧ redOp t 4 x y = x ||| y ∧ redOp t 5 x y = x ^^^ y) ∧
  (∀ t : Ty, redId t 0 = 0 ∧ redId t 3 = 2 ^ t.bits - 1 ∧ redId t 4 = 0 ∧ redId t 5 = 0 ∧
    ∀ v, intVal t v ≤ intVal t (redId t 1) ∧ intVal t (redId t 2) ≤ intVal t v) ∧
  (∀ op x y, comb op x none = x ∧ comb op none y = y) ∧
  (∀ x y, comb 0 (some x) (some y) = some (Flt.f32.add .rne x y) ∧ comb 1 (some x) (some y) = some (Flt.f32.pick false x y) ∧
    comb 2 (some x) (some y) = some (Flt.f32.pick true x y)) ∧
  (fredId 0 = 0 ∧ fredId 1 = 0x7F800000 ∧ fredId 2 = 0xFF800000) ∧
  ∀ f : FmtA,
    let n := f.opm.toNat % 4 + 2
    let W := 2 ^ n
    let K (s : State) (e : Env) (ex : List Nat) (l : Nat) : List Nat :=
      ex.filter (fun j => (s.lane e.core e.slot j).kind == .launched && j / W == l / W)
    let A (s : State) (e : Env) (l : Nat) : Nat := readOp s e l f.ty f.ty.pos f.a
    let code := match f.b with | .imm v => v.toNat | _ => 0
    let upto (l : Nat) (ls : List Nat) : List Nat := ls.filter (fun j => if 8 ≤ code then j < l else j ≤ l)
    let fold (op : Nat) (vs : List Nat) : Nat := vs.foldl (redOp f.ty op) (redId f.ty op)
    let canon (v : Nat) : Nat := if Flt.f32.dec v = .nan then 0x7FC00000 else v
    let d := some (f.d, f.ty.pos)
    CrossLaneForm (.lred f) [(f.a, f.ty.pos), (f.d, f.ty.pos)] d none (fun s e ex l =>
      (fold code ((K s e ex l).map (fun j => A s e j % 2 ^ f.ty.bits)), false)) ∧
    CrossLaneForm (.scan f) [(f.a, f.ty.pos), (f.d, f.ty.pos)] d none (fun s e ex l =>
      (fold (code % 8) ((upto l (K s e ex l)).map (fun j => A s e j % 2 ^ f.ty.bits)), false)) ∧
    (f.ty = .f32 → CrossLaneForm (.flred f) [(f.a, .w32), (f.d, .w32)] (some (f.d, .w32)) none (fun s e ex l =>
      (canon ((pairwise code (fun j => if j ∈ K s e ex l then some (A s e j) else none) n (l - l % W)).getD (fredId code)), false))) ∧
    (f.ty = .f32 → CrossLaneForm (.fscan f) [(f.a, .w32), (f.d, .w32)] (some (f.d, .w32)) none (fun s e ex l =>
      (canon (((upto l (K s e ex l)).foldl (fun cur j => comb (code % 8) cur (some (A s e j))) none).getD (fredId (code % 8))), false)))

/-- Draws of a lane from the key of its launch (R277 to R280). -/
def Obligations.Draws : Prop :=
  ∀ f : FmtA,
    let word (s : State) (e : Env) (l : Nat) (o : Operand) : Nat := readOp s e l .b32 .w32 o
    CrossLaneForm (.rndCg10 f) [(f.a, .w32), (f.b, .w32), (f.c, .w32), (f.d, .w128)] (some (f.d, .w128)) none (fun s e _ l =>
      (cg10 (warpKey s e.core e.slot) (word s e l f.a + 2 ^ 32 * word s e l f.b + 2 ^ 64 * word s e l f.c), false)) ∧
    CrossLaneForm (.rnd4Cg10 f) [(f.a, .w128), (f.d, .w128)] (some (f.d, .w128)) none (fun s e _ l =>
      (cg10 (warpKey s e.core e.slot) (readOp s e l .b32 .w128 f.a), false)) ∧
    CrossLaneForm (.rkey f) [(f.d, .w64)] (some (f.d, .w64)) none (fun s e _ _ => (warpKey s e.core e.slot, false)) ∧
    ∀ s c k x, s.launchOf c k = some x → warpKey s c k = x.fld 0x38 8

/-! ## Control -/

/-- The instruction boundary (R129, R170, R174, R207): behind an effect u that leaves the clause, the lanes and the stepping of the warp
as they were, every lane of the clause goes to the next slot, the clause ends behind slot 4 and goes to its next slot before
that, and nothing else of u changes. Lanes that transfer stand at their targets and have left the clause, the other lanes of the
clause fall through to the next slot, and memory, core stores and registers are as before. -/
def Obligations.InstructionBoundary : Prop :=
  (∀ s u x k w v, Issues s x k w → u.clauses = s.clauses → u.warp? x.core k = some v → v.stepping = none →
     (∀ l, (v.lanes.at? l).isSome = (w.lanes.at? l).isSome) →
     (∀ l, (endIssue x u).lane x.core k l =
       if l ∈ x.lanesOf k then { u.lane x.core k l with pc := nextPc x.pc } else u.lane x.core k l) ∧
     (endIssue x u).clauses = (if x.slot = 4 then s.clauses.tail else { x with slot := x.slot + 1 } :: s.clauses.tail) ∧
     ((endIssue x u).core x.core).store = (u.core x.core).store ∧ (endIssue x u).mem = u.mem ∧
     SameBut u (endIssue x u) x.core k) ∧
  (∀ s x k w (ts : List (Nat × DWord)), Issues s x k w → (ts.map Prod.fst).Nodup → (∀ e ∈ ts, e.1 ∈ x.lanesOf k) →
     let t := endIssue x (ts.foldl (fun s e => jump s x.core k e.1 e.2) s)
     let left := x.lanes.filter (fun r => !(ts.map Prod.fst).contains r.lane)
     (∀ e ∈ ts, (t.lane x.core k e.1).pc = e.2) ∧
     (∀ l, l ∉ ts.map Prod.fst → (t.lane x.core k l).pc = if l ∈ x.lanesOf k then nextPc x.pc else (s.lane x.core k l).pc) ∧
     (∀ l, (t.lane x.core k l).preds = (s.lane x.core k l).preds ∧ (t.lane x.core k l).sp = (s.lane x.core k l).sp ∧
       (t.lane x.core k l).kind = (s.lane x.core k l).kind) ∧
     t.clauses = (if x.slot = 4 ∨ left = [] then s.clauses.tail else { x with lanes := left, slot := x.slot + 1 } :: s.clauses.tail) ∧
     t.mem = s.mem ∧ (∀ c, (t.core c).store = (s.core c).store) ∧ (∀ j, t.wreg x.core k j = s.wreg x.core k j) ∧
     (∀ j l, t.opfWord x.core k l j = s.opfWord x.core k l j))

/-- Branches (R207): the executing lanes transfer to the line at the encoded distance (`bra`), to the entry of a table of lines at
that distance where the index is below the bound (`brt`), or to the address in a register pair (`brx`), each target being a
target slot of a line of the kind (R174). The spin detector sees each, with the target of the lowest lane that goes back, else of the
lowest that takes it (R159; which target stands for a branch of several is the model's choice, log 16). -/
def Obligations.Branches : Prop :=
  ∀ s x k w, Issues s x k w → stoppedAt s x.core k x.pc = none →
    let go (s : State) (ts : List (Nat × DWord)) : State := endIssue x (ts.foldl (fun s e => jump s x.core k e.1 e.2) s)
    let fine (s : State) (t : DWord) : Prop := checkTarget s x.core (s.ctxOf x.core k) (lineKind x.line) t = (s, .ok)
    let seen (ts : List DWord) : State :=
      spinBranch s x.core k x.pc ((ts.find? (fun t => decide (t.toNat / 64 ≤ x.pc.toNat / 64))).or ts.head?)
    (∀ f, Ready (.bra f) [] s x k w →
      let ex := x.executing s k
      let T := x.addr + (f.off.signExtend 64 <<< 6) + f.slot.setWidth 64
      let s0 := spinBranch s x.core k x.pc (if ex = [] then none else some T)
      ex = [] ∨ fine s0 T → exec (.bra f) s = .next (go s0 (ex.map (fun l => (l, T))))) ∧
    (∀ f ls ex, Goes (.brt f) [(f.a, .w32), (f.d, .w32)] s x k w ls ex →
      let idx (l : Nat) : Nat := readOp s (x.env k) l .n32 .w32 f.a
      let T (l : Nat) : DWord := x.addr + ((f.off.signExtend 64 + BitVec.ofNat 64 (idx l)) <<< 6) + f.slot.setWidth 64
      let takes := ex.filter (fun l => decide (idx l < readOp s (x.env k) l .n32 .w32 f.d))
      let s0 := seen (takes.map T)
      (∀ l ∈ takes, fine s0 (T l)) → exec (.brt f) s = .next (go s0 (takes.map (fun l => (l, T l))))) ∧
    (∀ f ls ex, Goes (.brx f) [(f.a, .w64)] s x k w ls ex →
      let T (l : Nat) : DWord := BitVec.ofNat 64 (readOp s (x.env k) l .b64 .w64 f.a)
      let s0 := seen (ex.map T)
      (∀ l ∈ ex, fine s0 (T l)) → exec (.brx f) s = .next (go s0 (ex.map (fun l => (l, T l)))))

/-- Calls and returns (R207 to R209): a call of launched lanes stores each lane's return address 8 bytes below its stack pointer, and
a return loads it from the stack pointer; the lanes wait for the access, which then transfers them. -/
def Obligations.CallsAndReturns : Prop :=
  ∀ s x k w ls ex place leaf, Issues s x k w →
    let called (i : Instr) (ops : List (Operand × Pos)) (target : Nat → DWord) : Prop :=
      let push := pushOf i x.pc target
      Goes i ops s x k w ls ex → ex ≠ [] → Sendable push s x k ex place leaf →
      (∀ l ∈ ex, checkTarget s x.core (s.ctxOf x.core k) (lineKind x.line) (target l) = (s, .ok)) →
      exec i s = .next (endIssue x (push.sends s x k ex ex place leaf))
    (∀ f, called (.call f) [] (fun _ => x.addr + (f.off.signExtend 64 <<< 6) + f.slot.setWidth 64)) ∧
    (∀ f, called (.callx f) [(f.a, .w64)] (fun l => BitVec.ofNat 64 (readOp s (x.env k) l .b64 .w64 f.a))) ∧
    (Goes .ret [] s x k w ls ex → ex ≠ [] → Sendable popOfRet s x k ex place leaf →
      exec .ret s = .next (endIssue x (popOfRet.sends s x k ls ex place leaf)))

/-- Divergence barriers (R135, R136, R211): `enrol` adds the executing lanes to the mask, `bclr` takes them out, `rejoin` makes those
of the mask wait, `bread` reads the mask. Once every lane of a mask waits at its `rejoin` or has exited, those that wait go
on behind it and the mask is 0; no lane goes on before. `nop` does nothing (R189). -/
def Obligations.DivergenceBarriers : Prop :=
  let mask (s : State) (c k b : Nat) : Word := match s.warp? c k with | some w => w.bars.atD b 0 | none => 0
  let set (s : State) (c k b : Nat) (m : Word) : State := s.modWarp c k (fun w => { w with bars := w.bars.putD b m 0 })
  let here (s : State) (c k b l : Nat) : Bool := (s.lane c k l).wait == .rejoin b
  let test (s : State) (c k b : Nat) : State :=
    if mask s c k b ≠ 0 ∧ ∀ l ∈ maskLanes (mask s c k b), here s c k b l = true ∨ (s.lane c k l).kind = .exited then
      set (passOn s c k ((maskLanes (mask s c k b)).filter (here s c k b))) c k b 0
    else s
  (∀ s c k b, exec (.rejoinRelease c k b) s = .next (test s c k b)) ∧
  ∀ f s x k w, Issues s x k w →
    let b := f.bar.toNat
    let ex := x.executing s k
    let m := mask s x.core k b
    (Ready (.enrol f) [] s x k w → exec (.enrol f) s = .next (endIssue x (set s x.core k b (m ||| maskOf ex)))) ∧
    (Ready (.rejoin f) [] s x k w → exec (.rejoin f) s = .next (endIssue x (test (parkAll s x.core k
      (ex.filter (fun l => m.getLsbD l)) (.rejoin b)) x.core k b))) ∧
    (Ready (.bclr f) [] s x k w → exec (.bclr f) s = .next (endIssue x (test (set s x.core k b (m &&& ~~~(maskOf ex))) x.core k b))) ∧
    (∀ ls ex, Goes (.bread f) [(f.d, .w32)] s x k w ls ex → regDst (some (f.d, .w32)) = true → ∃ t, exec (.bread f) s = .next t ∧
      Computes s t x k w ex (some (f.d, .w32)) none (fun _ => (m.toNat, false))) ∧
    (Ready .nop [] s x k w → exec .nop s = .next (endIssue x s))

/-- The end of a lane (R97, R127, R136, R210, R342). `exit` completes in every state in which it issues: an executing lane becomes exited and
leaves the clause, with the release test of every divergence barrier behind it; while other launched lanes remain, the rest of the
warp is as it was. Where the warp's last launched lanes exit while the right-of-way token stands at it, a release at span scope comes first,
for which the lanes wait while the core owes any of it. -/
def Obligations.Exit : Prop :=
  ∀ s x k w, Issues s x k w → Ready .exit [] s x k w →
    let ex := x.executing s k
    let token : Prop := tokenAt s w = true ∧ ∀ l ∈ w.launchedLanes, l ∈ ex
    let gone (u : State) : Result :=
      .next (endIssue x ((List.range 16).foldl (fun s b => releaseRejoin s x.core k b) (exitLanes u x.core k ex)))
    (ex = [] → exec .exit s = .next (endIssue x s)) ∧
    (ex ≠ [] → ¬token → exec .exit s = gone s) ∧
    (ex ≠ [] → token → mustDrain s x.core k lanes32 .rel .span = false → exec .exit s = gone (release s x.core (some w.wg) .span)) ∧
    (ex ≠ [] → token → mustDrain s x.core k lanes32 .rel .span = true →
      exec .exit s = .next (endIssue x (parkAll s x.core k ex .drain))) ∧
    (∀ j, j < 32 → (s.lane x.core k j).kind = .launched → j ∉ ex → ∀ l,
      ((exitLanes s x.core k ex).lane x.core k l).kind = if l ∈ ex then .exited else (s.lane x.core k l).kind)

/-! ## Memory -/

/-- Loads, stores and the line forms (R13, R239, R241, R242, R243): each sends one access for each executing lane, of the width, at
the address and with the data that the form names. The address is a register pair plus an index times the width plus the
offset; the stack forms start at the stack pointer, the scratchpad forms at the partition; the line forms act on the
128 bytes around their address; `stmc` names its group by the index. `ldu` is warp-collective: one
access for the warp, by its lowest executing lane (R240). `pf` brings each launched executing lane's line to level 2, and to
level 1 unless the form says otherwise, drops what would fault (R35), and changes no core store and no warp: a prefetch writes
no register (R243). -/
def Obligations.MemoryForms : Prop :=
  (∀ f : FmtM, ∀ m ∈ plainForms f ++ lineForms f, MemoryForm m) ∧
  (∀ (f : FmtM) s x k w place leaf,
     let m := sharedLoad f
     let ex := (x.together s k w m.instr).take 1
     Issues s x k w → Arrived m.instr m.ops s x k w → Sendable m s x k ex place leaf →
       exec (.ldu f) s = .next (endIssue x (m.sends s x k (x.members k w m.instr) ex place leaf))) ∧
  (∀ (f : FmtM) s x k w ls ex, Issues s x k w → Goes (.pf f) [(f.addr, .w64), (f.index, .w32)] s x k w ls ex →
     let lanes := ex.filter (fun l => (s.lane x.core k l).kind == .launched)
     let one (s : State) (l : Nat) : State :=
       prefetch s (whoOf s x.core k) (generalAt f 1 s (x.env k) l).toNat f.hint (!f.mmod.getLsbD 0)
     exec (.pf f) s = .next (endIssue x (lanes.foldl one s)) ∧
     ∀ b, ((lanes.foldl one s).core b).store = (s.core b).store ∧ ((lanes.foldl one s).core b).warps = (s.core b).warps)

/-- Atomics and reductions (R244, R245): each sends one read-modify-write for each executing lane, at the pair plus the offset or, for
the scratchpad forms, at the offset in the partition; the operation comes from MMOD, the operand of `cas` is a pair of
values, and the reductions have no destination. -/
def Obligations.AtomicForms : Prop := ∀ f : FmtM, ∀ m ∈ atomicForms f, MemoryForm m

/-- Misaligned accesses (R14, R207, R237, R242, R266): when an executing launched lane's address is no multiple of the width, the
misaligned-access trap is taken for those lanes, before any lane's access is sent: in the loads and stores of memory, the
stack and the scratchpad, the multicast store (whose group may also not fit its field), `ldu` by its one lane, `waita`, the
atomics and reductions, the pushes of calls, once their targets have been checked, and the pops of returns. A load, row push, gather or
row store of an access stream traps the stream there, and translates nothing. -/
def Obligations.Misaligned : Prop :=
  (∀ f : FmtM, (∀ m ∈ plainForms f ++ atomicForms f, MisalignedForm m false) ∧ MisalignedForm (awaitLoad f) false ∧
     MisalignedForm (sharedLoad f) true) ∧
  MisalignedForm popOfRet false ∧
  (∀ s x k w ls ex, Issues s x k w → stoppedAt s x.core k x.pc = none →
     let off := ex.filter (fun l => (s.lane x.core k l).kind == .launched && decide ((s.lane x.core k l).sp.toNat % 8 ≠ 0))
     let traps (i : Instr) (ops : List (Operand × Pos)) (target : Nat → DWord) : Prop :=
       Goes i ops s x k w ls ex → off ≠ [] →
       (∀ l ∈ ex, checkTarget s x.core (s.ctxOf x.core k) (lineKind x.line) (target l) = (s, .ok)) →
       exec i s = .next (endIssue x (raiseTrap s x.core k Cause.misaligned x.pc
         { lanes := maskOf off, addr := (s.lane x.core k (off.headD 0)).sp - 8 }))
     (∀ f, traps (.call f) [] (fun _ => x.addr + (f.off.signExtend 64 <<< 6) + f.slot.setWidth 64)) ∧
     (∀ f, traps (.callx f) [(f.a, .w64)] (fun l => BitVec.ofNat 64 (readOp s (x.env k) l .b64 .w64 f.a)))) ∧
  (∀ (f : FmtM) s x k t,
     let c := x.core
     let rd (ty : Ty) (p : Pos) (o : Operand) : Nat := streamRead s c t ty p o
     let addr (i : Nat) : Nat := truncN 64 ((rd .n64 .w64 f.addr : Int) + (i * 2 ^ (f.mmod.toNat % 16) : Nat) + f.off.toInt)
     let va := addr (rd .n32 .w32 f.index)
     let trap (va : Nat) : Result := .next (endStreamClause (raiseStreamTrap s c k Cause.misaligned x.pc
       { lanes := 1, addr := BitVec.ofNat 64 va }))
     let free := streamBusy s c k (fun o => o.order.acquires) = false
     let known (o : Operand) : Prop := ∃ q nb g, o = .queue q nb ∧ s.wgs.at? t.wg = some g ∧ (g.queues.at? q.toNat).isSome
     (StreamIssues (.ald f) s x k t → free → va % (f.ty.bits / 8) ≠ 0 → exec (.ald f) s = trap va) ∧
     (StreamIssues (.apush f) s x k t → free → known f.data → va % 4 ≠ 0 → exec (.apush f) s = trap va) ∧
     (∀ ws, StreamIssues (.agath f) s x k t → free → known f.data → known f.index → t.gath = some ws →
       addr (ws.getD t.row 0).toNat % 4 ≠ 0 → exec (.agath f) s = trap (addr (ws.getD t.row 0).toNat)) ∧
     (StreamIssues (.ast f) s x k t → free → known f.data → va % 4 ≠ 0 → exec (.ast f) s = trap va))

/-! ## Synchronisation -/

/-- Fences and waits on memory (R76, R84, R249, R250, R259). A fence whose earlier accesses are done releases, then acquires, at its
scope. `waita` raises its completion flag once for the lanes it issues for, and loads each lane's value at the point of coherence: a
lane whose value meets the condition has it written and goes on, with the acquire; another parks until WAITA_RECHECK lets it
load again. `pause` makes a lane wait, and PAUSE_EXPIRY ends that. -/
def Obligations.FencesAndWaits : Prop :=
  (∀ f s x k w, Issues s x k w → Ready (.fence f) [] s x k w →
    let order := decodeOrder (f.s7.extractLsb' 0 2)
    let scope := decodeScope (f.s7.extractLsb' 2 2)
    let act := (x.executing s k).filter (fun l => (s.lane x.core k l).kind == .launched)
    act ≠ [] → fenceWaits s x.core k act order scope = false →
    let s1 := if order.releases then release s x.core (some w.wg) scope else s
    exec (.fence f) s = .next (endIssue x (if order.acquires then acquire s1 x.core (some w.wg) scope else s1))) ∧
  (∀ f s x k w ls ex place leaf, Issues s x k w →
    Goes (.waita f) (awaitLoad f).ops s x k w ls ex → Sendable (awaitLoad f) s x k ex place leaf →
    exec (.waita f) s = .next (endIssue x (ex.foldl (fun u l =>
      waitTry f x k u l (place l) (readOp u (x.env k) l f.ty f.ty.pos f.index))
      (waitIssue s x.core k ex f.data f.ty (formBytes f) (flagOf x.line f.fs))))) ∧
  (∀ s c k ls d ty n flag, ls ≠ [] → (∀ l ∈ ls, waitOp s c k l = none) →
    let u := waitIssue s c k ls d ty n flag
    u.cores = (raiseFlag s c k flag).cores ∧
    ∃ o, u.ops.at? s.fresh = some o ∧ o.owner = .warp c k ∧ o.flag = flag ∧ o.more = false ∧ o.lanes.map LaneAcc.lane = ls) ∧
  (∀ f (x : Clause) k s l d off b,
    let v := Mem.rd (s.core d).store off (formBytes f)
    let await := waitData (b % 2 ^ f.ty.bits) (f.mmod.toNat % 8) f.order.acquires f.scope (waitOther s x.core k l)
    let a : LaneAcc := { lane := l, place := .store d off, data := await, hint := .bypass, sw := false, ms := false, sent := true }
    ownWrites s x.core k (1 + d, off, formBytes f) a = false →
    waitTry f x k s l (.store d off) b =
      if waitCC (f.mmod.toNat % 8) (intVal f.ty v) (intVal f.ty (b % 2 ^ f.ty.bits)) then waitDone s x.core k l f.data f.ty await v
      else waitPark s x.core k l await 0) ∧
  (∀ c k l s n, (s.lane c k l).wait = .waita n → waitAsks s c k l = false →
    exec (.waitaRecheck c k l) s = .next (s.modLane c k l (fun y => { y with wait := .run }))) ∧
  (∀ f s x k w ls ex, Issues s x k w → Goes (.pause f) [(f.a, .w32)] s x k w ls ex →
    exec (.pause f) s = .next (endIssue x (ex.foldl (fun s l =>
      let n := min 65535 (readOp s (x.env k) l .n32 .w32 f.a)
      if n = 0 then s else park s x.core k l (.pause n)) s))) ∧
  (∀ c k l s n, (s.lane c k l).wait = .pause n →
    exec (.pauseExpiry c k l) s = .next (s.modLane c k l (fun y => { y with pc := nextPc y.pc, wait := .run })))

/-- Workgroup and grid barriers (R251, R252): launched executing lanes arrive, with a release and an acquire at the barrier's scope,
and wait while the phase is open; the phase completes once every launched lane that has not exited has arrived, and then
those that wait go on. A lane that arrives twice takes the convergence trap. Warp 0's arrival at barrier 0, which starts the access
stream, needs that no written bytes of the core are held back (R71, R265). -/
def Obligations.Barriers : Prop :=
  let act (s : State) (x : Clause) (k : Nat) : List Nat := (x.executing s k).filter (fun l => (s.lane x.core k l).kind == .launched)
  let arrived (s : State) (g b : Nat) : List Nat := match s.wgs.at? g with | some y => y.bars.atD b [] | none => []
  let phase (s : State) (g b : Nat) : State := match s.wgs.at? g with
    | none => s
    | some y =>
      if y.bars.atD b [] ≠ [] ∧ ∀ i ∈ wgLaunched s g, i ∈ y.bars.atD b [] then
        wgPassOn (y.cores.foldl (fun s c => acquire s c (some g) .wg) (s.modWg g (fun y => { y with bars := y.bars.del b }))) g
          (fun w => w == .bar b || w == .barWait b)
      else s
  let arrive (s : State) (x : Clause) (k : Nat) (w : Warp) (b : Nat) (waits : Bool) : State :=
    let c := x.core
    let s1 := acquire (release (tokenAtBarrier s c k waits) c (some w.wg) .wg) c (some w.wg) .wg
    let s2 := s1.modWg w.wg (fun y =>
      { y with bars := y.bars.put b (arrived s w.wg b ++ (act s x k).map (fun l => w.warpid * 32 + l)) })
    phase (if b = 0 ∧ w.warpid = 0 then startStream s2 c k else s2) w.wg b
  let grid (s : State) (id : Nat) : State := match s.launches.at? id with
    | none => s
    | some y =>
      if y.gridArr ≠ [] ∧ y.total ≤ y.next ∧ ∀ i ∈ gridLanes s id y, i ∈ y.gridArr then
        let s1 := s.modLaunch id (fun y => { y with gridArr := [] })
        let s2 := ((s1.cores.filterV (fun _ z => z.launch = some id)).map Prod.fst).foldl (fun s c =>
          acquire s c (((s.core c).warps.head?).map (fun (w : Nat × Warp) => w.2.wg)) .pkg) s1
        (launchWgs s2 id).foldl (fun s (e : Nat × Wg) => wgPassOn s e.1 (fun w => w == .gridbar)) s2
      else s
  (∀ g b s, exec (.barrierPhaseComplete g b) s = .next (phase s g b)) ∧
  (∀ id s, exec (.gridbarComplete id) s = .next (grid s id)) ∧
  (∀ f s x k w, Issues s x k w → act s x k ≠ [] →
    let b := (f.s7.extractLsb' 0 2).toNat
    let twice := (act s x k).filter (fun l => (arrived s w.wg b).contains (w.warpid * 32 + l))
    let goes := twice = [] ∧ fenceWaits s x.core k (act s x k) .ar .wg = false ∧ (b = 0 ∧ w.warpid = 0 → wbHeld s x.core = false)
    (Ready (.bar f) [] s x k w → goes →
      exec (.bar f) s = .next (endIssue x (
        if arrived (arrive s x k w b true) w.wg b = [] then arrive s x k w b true
        else parkAll (arrive s x k w b true) x.core k (act s x k) (.bar b)))) ∧
    (Ready (.barArrive f) [] s x k w → goes → exec (.barArrive f) s = .next (endIssue x (arrive s x k w b false))) ∧
    (Ready (.bar f) [] s x k w → twice ≠ [] →
      exec (.bar f) s = .next (endIssue x (raiseTrap s x.core k Cause.convergence x.pc { lanes := maskOf twice }))) ∧
    (Ready (.barWait f) [] s x k w → exec (.barWait f) s = .next (endIssue x (parkAll s x.core k twice (.barWait b))))) ∧
  (∀ s x k w y g, Issues s x k w → Ready .gridbar [] s x k w → s.launchOf x.core k = some y → s.wgOf x.core k = some g →
    act s x k ≠ [] →
    (y.flag 7 = false → exec .gridbar s = .next (endIssue x
      (raiseTrap s x.core k Cause.contract x.pc { lanes := maskOf (x.executing s k) }))) ∧
    (y.flag 7 = true → fenceWaits s x.core k (act s x k) .ar .pkg = false →
      let s1 := acquire (release (tokenAtBarrier s x.core k true) x.core (some w.wg) .pkg) x.core (some w.wg) .pkg
      let s3 := grid (s1.modLaunch w.launch (fun y => { y with
        gridArr := y.gridArr ++ (act s x k).map (fun l => (g.g * y.warps + w.warpid) * 32 + l) })) w.launch
      exec .gridbar s = .next (endIssue x (match s3.launches.at? w.launch with
        | some y => if y.gridArr = [] then s3 else parkAll s3 x.core k (act s x k) .gridbar
        | none => s3))))

/-- The hardware steps behind waits (R133, R134, R251): COLLECTIVE_ISSUE makes one bundle of the members of a collective that have all
arrived, where the partition issues no clause, the warp holds no other instruction stopped and is parked on no fault, and its
launch is not halted (R330); a warp whose waits can never end takes the convergence trap, alone
(CONVERGENCE_TIMEOUT) or with its workgroup (BARRIER_DEADLOCK). -/
def Obligations.EndOfWaits : Prop :=
  (∀ c k s w, s.warp? c k = some w → w.trapped = true ∨ haltedLaunch s w.launch = true → exec (.collectiveIssue c k) s = .next s) ∧
  (∀ c k s w l line i, s.warp? c k = some w → w.trapped = false → haltedLaunch s w.launch = false →
    (∀ x ∈ s.clauses, ¬(x.core = c ∧ x.picker = .part w.part)) → w.lanes.anyV (fun _ y => y.wait.parksWarp) = false →
    let ready (l : Nat) : Bool := match (w.lanes.atD l Lane.never).wait with
      | .collective line => match instrAt line (w.lanes.atD l Lane.never).pc with
        | some i => collectiveReady w (w.lanes.atD l Lane.never).pc i
        | none => false
      | _ => false
    w.present.find? ready = some l → (w.lanes.atD l Lane.never).wait = .collective line →
    instrAt line (w.lanes.atD l Lane.never).pc = some i →
    let pc := (w.lanes.atD l Lane.never).pc
    (∀ z, w.stopped = some z → z.pc = pc) →
    let mine := w.present.filter (fun m => (w.lanes.atD m Lane.never).pc = pc && (w.lanes.atD m Lane.never).wait == .collective line)
    let u := wakeAll s c k mine
    exec (.collectiveIssue c k) s = .next { u with
      clauses := { core := c, picker := .part w.part, addr := pc &&& ~~~63, line := line, entry := pc.toNat % 8, slot := pc.toNat % 8,
                   guard := guardOf (slotWord line (pc.toNat % 8)), lanes := mine.map (fun m => { slot := k, lane := m }) } :: u.clauses }) ∧
  (∀ c k s w l t, s.warp? c k = some w → w.present = l :: t → warpStuck s c k w w.present = true →
    (∀ l ∈ w.present, (∃ line, (w.lanes.atD l Lane.never).wait = .collective line) ∨ (∃ b, (w.lanes.atD l Lane.never).wait = .rejoin b)) →
    exec (.convergenceTimeout c k) s = .next (raiseTrap s c k Cause.convergence (w.lanes.atD l Lane.never).pc
      { lanes := maskOf w.present })) ∧
  (∀ g s y, s.wgs.at? g = some y → y.saved = none → wgLaunched s g ≠ [] →
    (∀ e ∈ wgWarps s g, warpStuck s e.1 e.2.1 e.2.2 e.2.2.launchedLanes = true ∧
      ∀ l ∈ e.2.2.launchedLanes, (e.2.2.lanes.atD l Lane.never).wait.blocks = true) →
    (∀ b, b < 4 → y.bars.atD b [] = [] ∨ ∃ i ∈ wgLaunched s g, i ∉ y.bars.atD b []) →
    exec (.barrierDeadlock g) s = .next ((wgWarps s g).foldl (fun s e => match e.2.2.present.head? with
      | some l => raiseTrap s e.1 e.2.1 Cause.convergence (e.2.2.lanes.atD l Lane.never).pc { lanes := maskOf e.2.2.present }
      | none => s) s))

/-- Course and token waits (R253, R341, R342), all in a reproducible launch; elsewhere they take the contract trap. `cwait` passes
the lanes whose course is committed and holds the others; `rowait` takes the token where it stands and waits elsewhere;
`ropass` passes it on, with a release at span scope; `rowhold` tells whether the warp holds it. That the token, when it comes, is given to
the lowest position that still lives is the model's reading (log 39). -/
def Obligations.CourseAndToken : Prop :=
  (∀ f s x k w ls ex, Issues s x k w → Goes (.cwait f) [(f.a, .w32)] s x k w ls ex → ex ≠ [] →
    (s.repro x.core k = false → exec (.cwait f) s = .next (endIssue x
      (raiseTrap s x.core k Cause.contract x.pc { lanes := maskOf ex }))) ∧
    (s.repro x.core k = true →
      let need (l : Nat) : Nat := readOp s (x.env k) l .n32 .w32 f.a
      let go := ex.filter (fun l => decide (need l ≤ s.rep.committed.toNat))
      let s1 := tokenAtBarrier s x.core k (decide (go.length ≠ ex.length))
      exec (.cwait f) s = .next (endIssue x ((ex.filter (fun l => decide (s.rep.committed.toNat < need l))).foldl
        (fun s l => park s x.core k l (.cwait (need l))) (if go = [] then s1 else acquire s1 x.core (some w.wg) .span))))) ∧
  (∀ s x k w, Issues s x k w → s.repro x.core k = true →
    (Arrived .rowait [] s x k w → x.together s k w .rowait ≠ [] → exec .rowait s = .next (endIssue x (
      if holdsToken s w then s
      else if tokenAt s w then acquire (s.modLaunch w.launch (fun y => { y with held := true })) x.core (some w.wg) .span
      else parkAll s x.core k (x.members k w .rowait) .rowait))) ∧
    (Arrived .ropass [] s x k w → x.together s k w .ropass ≠ [] → (holdsToken s w = true → mustDrain s x.core k lanes32 .rel .span = false) →
      exec .ropass s = .next (endIssue x (if holdsToken s w then passToken (release s x.core (some w.wg) .span) w.launch false else s))) ∧
    (∀ f, Arrived (.rowhold f) [] s x k w → x.together s k w (.rowhold f) ≠ [] → exec (.rowhold f) s = .next (endIssue x
      (putPreds s x.core k (some f.pw) ((x.together s k w (.rowhold f)).map (fun l => (l, holdsToken s w))))))) ∧
  (∀ id s y, s.launches.at? id = some y → y.repro = true →
    (y.token = none → exec (.tokenArrives id) s = .next (s.modLaunch id (fun y =>
      { y with token := minOf (livePositions s id y), held := false }))) ∧
    (∀ p c k w, y.token = some p → y.held = false → parkedAt s id y p = false → tokenWarp s id = some (c, k, w) →
      waiting s c k (fun z => z == .rowait) ≠ [] → exec (.tokenArrives id) s = .next (passOn
        (acquire (s.modLaunch w.launch (fun y => { y with held := true })) c (some w.wg) .span) c k
        (waiting s c k (fun z => z == .rowait)))))

/-- Read sections and grace periods (R98, R167, R168, R169, R254): `rsec.begin` and `rsec.end` keep the depth, the outermost acquiring
and passing a milestone; `mile` passes a milestone; `rsdepth` reads the depth; `grace` releases, takes a snapshot and waits
until GRACE_COMPLETE, which ends the wait once every warp of the snapshot has left its section, and returns the older deferred
frees of its scope; INTERNAL_GRACE takes a snapshot for deferred frees that wait. That a snapshot of several members ends on this
package's part of it alone is the model's choice (log 79). -/
def Obligations.ReadSections : Prop :=
  let span (f : FmtS) : Bool := f.s7.extractLsb' 2 2 == 3
  let once (i : Instr) (s : State) (x : Clause) (k : Nat) (w : Warp) : Prop :=
    Issues s x k w ∧ Arrived i [] s x k w ∧ x.together s k w i ≠ []
  (∀ f s x k w, once (.rsecBegin f) s x k w → w.depth < 255 →
    -- Until it begins a section, every instruction of the warp has been a milestone (R167).
    let u := s.modWarp x.core k (fun w => { w with
      stamp := if w.depth = 0 then s.track.takenPkg % 2 ^ 32 else w.stamp, depth := w.depth + 1, secSpan := span f || (w.depth != 0 && w.secSpan) })
    exec (.rsecBegin f) s = .next (endIssue x (
      if w.depth = 0 then acquire u x.core (some w.wg) (if span f then .span else .pkg) else u))) ∧
  (∀ f s x k w, once (.rsecBegin f) s x k w → w.depth = 255 → exec (.rsecBegin f) s = .next (endIssue x (raiseTrap s x.core k Cause.contract x.pc
    { lanes := maskOf (x.together s k w (.rsecBegin f)) }))) ∧
  (∀ s x k w, once .rsecEnd s x k w →
    let u := s.modWarp x.core k (fun w => { w with depth := w.depth - 1 })
    (w.depth = 0 → exec .rsecEnd s = .next (endIssue x (raiseTrap s x.core k Cause.contract x.pc
      { lanes := maskOf (x.together s k w .rsecEnd) }))) ∧
    (1 < w.depth → exec .rsecEnd s = .next (endIssue x u)) ∧
    (w.depth = 1 → loadsOut s x.core k = false → exec .rsecEnd s = .next (endIssue x (registerPass u x.core k)))) ∧
  (∀ s x k w, once .mile s x k w → w.depth = 0 ∨ loadsOut s x.core k = false →
    exec .mile s = .next (endIssue x (if w.depth = 0 then registerPass s x.core k
      else acquire (registerPass s x.core k) x.core (some w.wg) (if w.secSpan then .span else .pkg)))) ∧
  (∀ f, ArithmeticWhen (.rsdepth f) [] (some (f.d, .w32)) none (fun _ _ _ => True) (fun _ _ _ _ _ => True) (fun s x k _ _ =>
    (match s.warp? x.core k with | some w => w.depth | none => 0, false))) ∧
  (∀ f s x k w, once (.grace f) s x k w → w.depth ≠ 0 → exec (.grace f) s = .next (endIssue x (raiseTrap s x.core k Cause.contract x.pc
    { lanes := maskOf (x.together s k w (.grace f)) }))) ∧
  (∀ f s x k w, once (.grace f) s x k w → w.depth = 0 →
    -- In a span of one package span scope is package scope (R104).
    let wide := span f && decide (1 < s.fab.size)
    let scope : Scope := if wide then .span else .pkg
    mustDrain s x.core k lanes32 .rel scope = false → (s.track.snaps.filter (fun y => y.span = wide)).length < 16 →
    exec (.grace f) s = .next (endIssue x (parkAll (takeSnapshot (release s x.core (some w.wg) scope) wide) x.core k
      (x.members k w (.grace f)) (.grace s.fresh)))) ∧
  (∀ n s y, s.track.snaps.find? (fun z => z.id = n) = some y → (∀ p ∈ y.warps, p ∉ sectionWarps s) →
    exec (.graceComplete n) s = .next (dfReleaseAll (wakeWait (passAllOn
      { s with track := { s.track with snaps := s.track.snaps.filter (fun z => z.id != n) } } (fun w => w == .grace n))
      (fun w => w == .graceSlot)) (fun e => e.span = y.span && decide (e.stamp < y.number) && !e.repro))) ∧
  (∀ b s, (∃ e ∈ s.dfq, e.span = b ∧ e.repro = false) → (s.track.snaps.filter (fun y => y.span = b)).length < 16 →
    exec (.internalGrace b) s = .next (takeSnapshot s b))

/-- Block pools (R255 to R258): `balloc` takes the block at the head of a pool for each launched executing lane in ascending order,
and answers 0 and a false predicate where the pool is empty; `bfree` gives blocks back at once, `dfree` after a grace
period; `bpstat` reads the count, in every executing lane, each of which must name a pool of its own context. The descriptors lie from
BPBASE on, below the error-log region, in which the pool logic neither reads nor writes (R366); what it reads there is the model's choice
(log 130). In a reproducible launch a
warp without the token traps at `balloc` and `bpstat`, whatever lanes execute them (R258). A helper lane's `balloc` takes no block
and answers 0 and a false predicate: the model's choice (log 61). -/
def Obligations.BlockPools : Prop :=
  let field (s : State) (p off n : Nat) : Nat := s.rdDev (s.bpBase.toNat + 32 * p + off) n
  let fine (s : State) (x : Clause) (k p : Nat) : Prop := poolOk s p = true ∧ field s p 13 1 = s.ctxOf x.core k
  let turn (s : State) (x : Clause) (k : Nat) (w : Warp) : Prop := s.repro x.core k = false ∨ holdsToken s w = true
  (∀ f s u0 x k w ls ex words t, Issues s x k w → Goes (.balloc f) [(f.d, .w64), (f.c, .w32)] s x k w ls ex → turn s x k w →
    Popped [f.c] s u0 x w ex words → (∀ q, f.c ≠ .queue q true) →
    let pool (l : Nat) : Nat := readOp s { x.env k with pop := words } l .n32 .w32 f.c
    let put (u : State) (l v : Nat) (ok : Bool) : Option State :=
      some (putPreds (putResults u x.core k (some (laneDest f.d ex l, .w64)) [(l, v)]) x.core k (some f.pw) [(l, ok)])
    let one (u : State) (l : Nat) : Option State :=
      if (s.lane x.core k l).kind = .launched then
        match poolTake u x.core (pool l) l (s.repro x.core k) with
        | (u1, .empty) => put u1 l 0 false
        | (u1, .block a) => put u1 l a true
        | _ => none
      else put u l 0 false
    (∀ l ∈ ex, (s.lane x.core k l).kind = .launched → fine s x k (pool l)) →
    ex.foldlM one u0 = some t →
    exec (.balloc f) s = .next (endIssue x (setLatches t x.core k x.slot ls (some (f.d, .w64))))) ∧
  (∀ (s : State) a n, s.rdDev a n = if a + n ≤ 0x5FF0000000 then Mem.rd s.mem a n else 0) ∧
  (∀ (s : State) a bs, s.wrDev a bs = if a + bs.length ≤ 0x5FF0000000 then { s with mem := Mem.wrBytes s.mem a bs } else s) ∧
  (∀ s c p l r, field s p 0 8 = 0 → poolTake s c p l r = (s, .empty)) ∧
  (∀ s c p l r u pa, field s p 0 8 ≠ 0 → linkPa s c (field s p 13 1) (field s p 0 8) true = (u, .ok pa) →
    -- The head moves to the block's link, the count falls, and the link word of the block is left open (in a reproducible launch by a value
    -- that no timing changes, R334).
    poolTake s c p l r = ((u.wrDev (s.bpBase.toNat + 32 * p)
      (leBytes 8 (Mem.rd u.mem pa 8) ++ leBytes 4 (field s p 8 4 + 2 ^ 32 - 1))).wrMem pa 8 (Config.freeBits (if r then field s p 0 8 else s.tick * 64 + l)).toNat,
      .block (field s p 0 8))) ∧
  (∀ f s x k w ls ex t, Issues s x k w → Goes (.bfree f) [(f.a, .w64), (f.b, .w32), (f.c, .w32)] s x k w ls ex → turn s x k w →
    let act := ex.filter (fun l => (s.lane x.core k l).kind == .launched)
    let addr (l : Nat) : Nat := readOp s (x.env k) l .b64 .w64 f.a
    let size (l : Nat) : Nat := readOp s (x.env k) l .n32 .w32 f.b
    let pool (l : Nat) : Nat := readOp s (x.env k) l .n32 .w32 f.c
    (∀ l ∈ act, fine s x k (pool l) ∧ poolFate s (addr l) (size l) (pool l) = none) →
    act.foldlM (fun u l => match poolFree u x.core (pool l) (addr l) (size l) with | (u1, none) => some u1 | _ => none) s = some t →
    exec (.bfree f) s = .next (endIssue x t)) ∧
  (∀ f, ArithmeticWhen (.bpstat f) [(f.c, .w32, .n32)] (some (f.d, .w32)) none (fun _ _ _ => True) (fun s x k ex words =>
    (∃ w, s.warp? x.core k = some w ∧ turn s x k w) ∧
      ∀ l ∈ ex, fine s x k (readOp s { x.env k with pop := words } l .n32 .w32 f.c))
    (fun u _ _ _ v => (field u (v.headD 0) 8 4, false))) ∧
  (∀ f s x k w ls ex, Issues s x k w → f.c.isQueue = false → f.d.isQueue = false → ex ≠ [] →
    let trap (cause : Nat) (on : List Nat) : Result := .next (endIssue x (raiseTrap s x.core k cause x.pc { lanes := maskOf on }))
    (Goes (.balloc f) [(f.d, .w64), (f.c, .w32)] s x k w ls ex → ¬ turn s x k w → exec (.balloc f) s = trap Cause.rightOfWay ex) ∧
    (Goes (.bpstat f) [(f.d, .w32), (f.c, .w32)] s x k w ls ex → ¬ turn s x k w → exec (.bpstat f) s = trap Cause.rightOfWay ex) ∧
    (Goes (.bpstat f) [(f.d, .w32), (f.c, .w32)] s x k w ls ex → turn s x k w →
      let pool (l : Nat) : Nat := readOp s (x.env k) l .n32 .w32 f.c
      let off := ex.filter (fun l => !(poolOk s (pool l) && field s (pool l) 13 1 == s.ctxOf x.core k))
      off ≠ [] → exec (.bpstat f) s = trap Cause.contract off)) ∧
  (∀ f s x k w ls ex, Issues s x k w → Goes (.dfree f) [(f.a, .w64), (f.b, .w32), (f.c, .w32)] s x k w ls ex → s.dfqBase ≠ 0 →
    let act := ex.filter (fun l => (s.lane x.core k l).kind == .launched)
    let addr (l : Nat) : Nat := readOp s (x.env k) l .b64 .w64 f.a
    let size (l : Nat) : Nat := readOp s (x.env k) l .n32 .w32 f.b
    let pool (l : Nat) : Nat := readOp s (x.env k) l .n32 .w32 f.c
    let wide := f.s7.extractLsb' 2 2 == 3 && decide (1 < s.fab.size)
    (∀ l ∈ act, fine s x k (pool l) ∧ poolFate s (addr l) (size l) (pool l) = none) → s.dfq.length + act.length ≤ 65536 →
    ∀ y, s.launchOf x.core k = some y →
    exec (.dfree f) s = .next (endIssue x { s with dfq := s.dfq ++ act.map (fun l =>
      { addr := BitVec.ofNat 64 (addr l), size := size l, pool := pool l, span := wide,
        stamp := if wide then s.track.takenSpan else s.track.takenPkg, queue := y.queue, course := BitVec.ofNat 32 y.course,
        launch := w.launch, repro := s.repro x.core k }) }))

/-- Queues (R17, R180, R260 to R262): `push` releases at workgroup scope and adds an entry in which the launched executing lanes have
their values and the others 0; `pop` removes the oldest entry and acquires; each waits, or with `.nb` goes on with a false
predicate, where it can do nothing; `qpeek` reads without removing, `qcfg` makes a queue, `qstat` reads its counts; a waiter
tries again once there is an entry, or room. -/
def Obligations.Queues : Prop :=
  let latched (x : Clause) (k : Nat) (ls : List Nat) (d : Operand) (u : State) : State :=
    endIssue x (setLatches u x.core k x.slot ls (some (d, .w32)))
  let ends (u : State) (x : Clause) (k : Nat) (p : BitVec 3) (nb : Bool) (ex vs : List Nat) : State :=
    noteWrites (if nb then writePreds u x.core k (some p) (ex.map (fun l => (l, true))) else u) x.core k
      (vs ++ (if nb then ex.map (fun _ => 1) else []))
  let moved (u : State) (x : Clause) (k : Nat) (ls : List Nat) (d : Operand) (p : BitVec 3) (nb : Bool) (rs : List (Nat × Nat)) : State :=
    latched x k ls d (ends (writeResults u x.core k (some (d, .w32)) rs) x k p nb (rs.map Prod.fst)
      (spinValues (some (d, .w32)) false (rs.map (fun e => (e.1, e.2, false)))))
  let rest (i : Instr) (s : State) (x : Clause) (k : Nat) (ls ex : List Nat) (d : Operand) (y : Wait) : State :=
    let again := if collectiveIn s x.core k i then ls else ex
    latched x k (ls.filter (fun l => !again.contains l)) d (parkAll s x.core k again y)
  (∀ f q nb s x k w ls ex, Issues s x k w → Goes (.push f) [(f.a, .w32), (f.d, .w32)] s x k w ls ex → f.d = .queue q nb → f.a.isQueue = false →
    ex ≠ [] →
    (queueRoom s w.wg q.toNat = .ready [] → mustDrain s x.core k ex .rel .wg = false →
      let u := release s x.core (some w.wg) .wg
      let v (l : Nat) : Nat := readOp u (x.env k) l f.ty .w32 f.a
      let entry : List Word := (List.range 32).map (fun j =>
        if ex.contains j ∧ (u.lane x.core k j).kind = .launched then BitVec.ofNat 32 (v j) else 0)
      exec (.push f) s = .next (latched x k ls f.d (ends (pushLatches (queueAdd u w.wg q.toNat entry) x.core k x.slot (some (f.d, .w32))
        (ex.map (fun l => (l, v l)))) x k f.pw nb ex []))) ∧
    (queueRoom s w.wg q.toNat = .blocked → exec (.push f) s = .next (if nb then latched x k ls f.d (putPreds s x.core k (some f.pw) (ex.map (fun l => (l, false))))
      else rest (.push f) s x k ls ex f.d (.push q.toNat))) ∧
    (queueRoom s w.wg q.toNat = .unconfigured → exec (.push f) s = .next (endIssue x
      (raiseTrap s x.core k Cause.contract x.pc { lanes := maskOf ex })))) ∧
  (∀ f q nb s x k w ls ex, Issues s x k w → Goes (.pop f) [(f.a, .w32), (f.d, .w32)] s x k w ls ex → f.a = .queue q nb → regDst (some (f.d, .w32)) = true →
    ex ≠ [] →
    (∀ words, queueHead s w.wg q.toNat = .ready words →
      let u := acquire (queueDrop s w.wg q.toNat) x.core (some w.wg) .wg
      let v (l : Nat) : Nat := (words.getD l 0).toNat
      exec (.pop f) s = .next (moved u x k ls f.d f.pw nb (ex.map (fun l => (l, v l))))) ∧
    (queueHead s w.wg q.toNat = .blocked → exec (.pop f) s = .next (if nb then latched x k ls f.d (putPreds s x.core k (some f.pw) (ex.map (fun l => (l, false))))
      else rest (.pop f) s x k ls ex f.d (.pop q.toNat)))) ∧
  (∀ f q nb s x k w ls ex, Issues s x k w → Goes (.qpeek f) [(f.d, .w32)] s x k w ls ex → f.a = .queue q nb → regDst (some (f.d, .w32)) = true →
    ex ≠ [] →
    (∀ words, queueHead s w.wg q.toNat = .ready words →
      let u := acquire s x.core (some w.wg) .wg
      let v (l : Nat) : Nat := (words.getD l 0).toNat
      exec (.qpeek f) s = .next (moved u x k ls f.d f.pw nb (ex.map (fun l => (l, v l))))) ∧
    (queueHead s w.wg q.toNat = .blocked → exec (.qpeek f) s = .next (if nb then latched x k ls f.d (putPreds s x.core k (some f.pw) (ex.map (fun l => (l, false))))
      else rest (.qpeek f) s x k ls ex f.d (.pop q.toNat)))) ∧
  (∀ f s x k w g, Issues s x k w → Arrived (.qcfg f) [(f.b, .w32)] s x k w → x.together s k w (.qcfg f) ≠ [] → s.wgs.at? w.wg = some g →
    let first := (x.together s k w (.qcfg f)).headD 0
    let off := readOp s (x.env k) first .n32 .w32 f.a
    let n := readOp s (x.env k) first .n32 .w32 f.b
    let q := f.s7.toNat % 64
    off % 128 = 0 → 0 < n → n ≤ 256 → off + 128 * n ≤ spSize (s.core (g.cores.headD 0)).part →
    (∀ y, g.queues.at? q = some y → y.count = 0) → queueWaited s w.wg q = false →
    exec (.qcfg f) s = .next (endIssue x (s.modWg w.wg (fun g =>
      { g with queues := g.queues.put q { off := off, cap := n, head := 0, count := 0 } })))) ∧
  (∀ f n, f.a = .imm n →
    let found (s : State) (x : Clause) (k : Nat) : Option Queue := (s.wgOf x.core k).bind (fun g => g.queues.at? n.toNat)
    ArithmeticWhen (.qstat f) [] (some (f.d, .w32)) none (fun s x k => (found s x k).isSome = true) (fun _ _ _ _ _ => True)
      (fun u x k _ _ => (match found u x k with | some y => y.count + 2 ^ 16 * (y.cap - y.count) | none => 0, false))) ∧
  (∀ g q s, queueRoom s g q = .ready [] → exec (.queuePushUnblock g q) s = .next (queueWake s g (.push q))) ∧
  (∀ g q s words, queueHead s g q = .ready words → exec (.queuePopUnblock g q) s = .next (queueWake s g (.pop q)))

/-- A queue gives its entries back in order (R17, R261): an entry added to a queue with room is counted, it is the head of a queue
that was empty, and it leaves the head of any other as it was; taking the head away makes the next entry the head. -/
def Obligations.QueuesInOrder : Prop :=
  ∀ s g q y ws, (s.wgs.at? g).bind (fun z => z.queues.at? q) = some y → y.count < y.cap → y.head < y.cap → ws.length = 32 →
    ((queueAdd s g q ws).wgs.at? g).bind (fun z => z.queues.at? q) = some { y with count := y.count + 1 } ∧
    queueHead (queueAdd s g q ws) g q = (if y.count = 0 then .ready ws else queueHead s g q) ∧
    (y.count = 1 → queueHead (queueDrop (queueAdd s g q ws) g q) g q = .ready ws)

/-- Copy commands (R64, R69, R72, R260, R263, R264): a command whose operands are multiples of 4 and whose warp has no access in flight
is accepted by a free channel, once no written bytes of the core are held back (R71): its ownership is taken, SEQ rises, DONE is 0, and
its flag is up unless it is empty. On a busy channel it waits its turn, and the oldest one is accepted later. `cpkill` ends the
current command; `ldwp` reads the write pointer; `waitwp` waits for it. A copy on its way (R65, R67, R72, R77, R263): COPY_ACCEPT
gives a free channel the oldest waiting command, whose warp goes on; COPY_LINE_DELIVERED copies the next bytes from source to
destination, from a scratchpad to another by way of the core stores, and to memory where the command owns the line, whose sectors
it notes; COPY_DONE publishes the noted sectors, shows the length in DONE and frees what the command owned. The model's choices (log
45): the bytes are delivered in order, at most one line at a time, where R65 lets several be on their way; and a destination granule
that is not present is met at acceptance, where the instruction parks on its fault. -/
def Obligations.CopyCommands : Prop :=
  (let commanding (s : State) (x : Clause) (k : Nat) (w : Warp) (i : Instr) : List Nat :=
     (x.together s k w i).filter (fun l => (s.lane x.core k l).kind == .launched)
   let start (s : State) (x : Clause) (ch : Nat) (m : CopyCmd) : State :=
     let u := (engineStart s x.core (.copy x.core ch) true (m.lines s x.core)).modChan x.core ch (fun y =>
       { y with seq := y.seq + 1, done := 0, cmd := some m })
     if m.len = 0 then freeOwnership u (.copy x.core ch) else raiseFlag u x.core m.slot m.flag
   let form (i : Instr) (f : FmtS) (body : (Operand → Pos → Nat) → CopyForm × Nat × Nat) (bad : (Operand → Pos → Nat) → Bool) : Prop :=
     ∀ s x k w, Issues s x k w → Arrived i [] s x k w → commanding s x k w i ≠ [] →
       let rd (o : Operand) (p : Pos) : Nat := readOp s (x.env k) ((commanding s x k w i).headD 0) (if p = .w64 then .n64 else .n32) p o
       let ch := (f.s7.extractLsb' 0 2).toNat
       let b := body rd
       let m : CopyCmd :=
         { dst := BitVec.ofNat 64 (rd f.a .w64), src := BitVec.ofNat 64 b.2.1, len := b.2.2, form := b.1,
           hint := decodeHint (f.s7.extractLsb' 2 2), slot := k, launch := w.launch, wg := w.wg, ctx := s.ctxOf x.core k,
           flag := flagOf x.line f.fs, parked := none, seen := false, warpid := w.warpid, killed := false, prog := 0, wrote := [], flight := none }
       rd f.a .w64 % 4 = 0 → b.2.1 % 4 = 0 → b.2.2 % 4 = 0 → bad rd = false → inFlight s x.core k lanes32 (fun _ => true) = false →
       ((s.chan x.core ch).free = true → (s.chan x.core ch).queue = [] → (m.granules s x.core).length ≤ 256 →
         (m.missing s x.core = none → wbHeld s x.core = false →
           recordsFree s (granulesOf (m.lines s x.core)) = true → exec i s = .next (endIssue x (start s x ch m))) ∧
         (∀ e va, m.missing s x.core = some (e, va) →
           let j := joinFault s (BitVec.ofNat 64 va) m.ctx x.core e .copy true 0
           exec i s = .next (endIssue x (parkAll j.1 x.core k (x.members k w i) (.fault j.2 .copy))))) ∧
       ((s.chan x.core ch).free = false → exec i s = .next (endIssue x (parkAll
         (s.modChan x.core ch (fun y => { y with queue := y.queue ++ [m] })) x.core k (x.members k w i) (.copy ch))))
   (∀ f, form (.cpy f) f (fun rd => (.linear, rd f.b .w64, rd f.c .w32)) (fun _ => false)) ∧
   (∀ f, form (.cpy2d f) f (fun rd => (.rows (rd f.c .w64 % 2 ^ 32) (rd f.c .w64 / 2 ^ 32) (16 * (f.imm.toNat / 2 ^ 16))
     (16 * (f.imm.toNat % 2 ^ 16)), rd f.b .w64, (rd f.c .w64 % 2 ^ 32) * (rd f.c .w64 / 2 ^ 32)))
     (fun rd => decide (rd f.c .w64 % 2 ^ 32 % 16 ≠ 0))) ∧
   (∀ f, form (.cpymc f) f (fun rd => (.multicast (f.imm.extractLsb' 0 16), rd f.b .w64, rd f.c .w32)) (fun _ => false)) ∧
   (∀ f, form (.cpfill f) f (fun rd => (.fill (BitVec.ofNat 32 (rd f.b .w32)), 0, rd f.c .w32)) (fun _ => false)) ∧
   (∀ f s x k w, Issues s x k w → Arrived (.cpkill f) [] s x k w → commanding s x k w (.cpkill f) ≠ [] →
     exec (.cpkill f) s = .next (endIssue x (killCopy s x.core (f.s7.extractLsb' 0 2).toNat))) ∧
   (∀ c ch s m, (s.chan c ch).cmd = some m → (s.chan c ch).free = false →
     killCopy s c ch = endCopy (s.modCmd c ch (fun m => { m with killed := true, parked := none, flight := none })) c ch m) ∧
   (∀ f n s x k w ls ex, f.a = .imm n → Issues s x k w → Goes (.ldwp f) [(f.d, .w64)] s x k w ls ex → regDst (some (f.d, .w64)) = true →
     ex ≠ [] →
     let u := readChan s x.core (n.toNat % 4)
     let value := ((u.chan x.core (n.toNat % 4)).seq.toNat * 2 ^ 48 + (u.chan x.core (n.toNat % 4)).done % 2 ^ 48)
     exec (.ldwp f) s = .next (endIssue x (setLatches (putResults u x.core k (some (f.d, .w64)) (ex.map (fun l => (l, value))))
       x.core k x.slot ls (some (f.d, .w64))))) ∧
   (∀ f n s x k w ls ex, f.a = .imm n → Issues s x k w → Goes (.waitwp f) [(f.d, .w64), (f.b, .w64)] s x k w ls ex →
     let c := x.core
     let ch := n.toNat % 4
     let b (l : Nat) : Nat := readOp s (x.env k) l .b64 .w64 f.b
     let value := (s.chan c ch).value
     let go := ex.filter (fun l => decide (b l ≤ value ∨ value / 2 ^ 48 ≠ b l / 2 ^ 48))
     let off := ex.filter (fun l => !go.contains l)
     let u := if go = [] then s else readChan s c ch
     exec (.waitwp f) s = .next (endIssue x (setLatches (off.foldl (fun s l => park s c k l (.waitwp ch (BitVec.ofNat 64 (b l)) (laneDest f.d ex l)))
       (go.foldl (fun v l => putResults v c k (some (laneDest f.d ex l, .w64)) [(l, (u.chan c ch).value)]) u)) c k x.slot
       (ls.filter (fun l => !off.contains l)) (some (f.d, .w64))))) ∧
   (∀ c k l s ch b d, (s.lane c k l).wait = .waitwp ch b d → wpReady (s.chan c ch) b.toNat = true →
     let u := readChan s c ch
     exec (.waitwpWake c k l) s = .next (passOn (putResults u c k (some (d, .w64)) [(l, (u.chan c ch).value)]) c k [l]))) ∧
  ((∀ c ch s m t w, (s.chan c ch).queue = m :: t → (s.chan c ch).free = true → s.warp? c m.slot = some w → w.trapped = false →
     w.wg = m.wg → w.warpid = m.warpid →
     let ls := waiting s c m.slot (fun y => y == .copy ch)
     let u := s.modChan c ch (fun y => { y with queue := t })
     ls ≠ [] → (m.granules u c).length ≤ 256 → m.missing u c = none → wbHeld s c = false → recordsFree u (granulesOf (m.lines u c)) = true →
     let v := (engineStart u c (.copy c ch) true (m.lines u c)).modChan c ch (fun y => { y with seq := y.seq + 1, done := 0, cmd := some m })
     exec (.copyAccept c ch) s = .next (passOn (if m.len = 0 then freeOwnership v (.copy c ch) else raiseFlag v c m.slot m.flag)
       c m.slot ls)) ∧
   (∀ c ch s m so sd eo ed ls ld, (s.chan c ch).cmd = some m → m.killed = false → m.parked = none → m.flight = none → m.form = .linear →
     m.prog < m.len → peerRequests s c < 256 →
     let dst := (m.dst.toNat + m.prog) % 2 ^ 64
     let src := (m.src.toNat + m.prog) % 2 ^ 64
     let n := min (min (m.len - m.prog) (128 - dst % 128)) (128 - src % 128)
     let who := copyWho c m
     resolveNow s who { kind := .copy, write := false, odd := true, width := 4 } src = (s, .ok (.store so eo) ls) →
     resolveNow s who { kind := .copy, write := true, odd := true, width := 4 } dst = (s, .ok (.store sd ed) ld) →
     exec (.copyLineDelivered c ch) s = .next (copyAdvance (s.wrStore sd ed n (Mem.rd (s.core so).store eo n)) c ch)) ∧
   (∀ c ch s m so eo pa ls ld, (s.chan c ch).cmd = some m → m.killed = false → m.parked = none → m.flight = none → m.form = .linear →
     m.prog < m.len → peerRequests s c < 256 →
     let dst := (m.dst.toNat + m.prog) % 2 ^ 64
     let src := (m.src.toNat + m.prog) % 2 ^ 64
     let n := min (min (m.len - m.prog) (128 - dst % 128)) (128 - src % 128)
     let who := copyWho c m
     resolveNow s who { kind := .copy, write := false, odd := true, width := 4 } src = (s, .ok (.store so eo) ls) →
     resolveNow s who { kind := .copy, write := true, odd := true, width := 4 } dst = (s, .ok (.mem pa) ld) →
     frameLost s (.mem pa) = false →
     (∃ r ∈ s.own, r.engine = .copy c ch ∧ r.granule = pa / 65536 ∧ r.mask.getLsbD (pa / 128 % 512) = true) →
     let u := s.modCmd c ch (fun m => { m with wrote := addSectors m.wrote (sectorsOf pa n) })
     exec (.copyLineDelivered c ch) s = .next (copyAdvance
       (l2Write (u.wrMem pa n (Mem.rd (s.core so).store eo n)) pa n (effHint m.hint ld)) c ch)) ∧
   (∀ c ch s m, (s.chan c ch).cmd = some m → m.killed = false → m.len ≤ m.prog → (s.chan c ch).done < m.len →
     exec (.copyDone c ch) s = .next (endCopy ((enginePublish s (some m.wg) m.wrote).modChan c ch (fun y =>
       { y with done := m.len })) c ch m)))

/-! ## Populations -/

/-- Weights, roots and arrivals of a population (R312 to R316, R318). The model's choices: that `psetroot` waits for the counts of an old
root to be lowered (log 77), and that each member closes the barrier for itself on the reports it has, those of its own slots being
taken from its grains (log 79). -/
def Obligations.Populations : Prop :=
  let flagged (s : State) (x : Clause) (k : Nat) : Prop := ∃ y, s.launchOf x.core k = some y ∧ y.flag 6 = true
  let launched (s : State) (x : Clause) (k : Nat) (ls : List Nat) : List Nat := ls.filter (fun l => (s.lane x.core k l).kind == .launched)
  -- `pwadd`: each launched executing lane adds its operand to its particle's accumulator, a retired grain's being discarded.
  (∀ f s x k w ls ex t, Issues s x k w → Goes (.pwadd f) [(f.a, .w64)] s x k w ls ex → ex ≠ [] → flagged s x k →
    let one (u : State) (l : Nat) : Option State :=
      match particleOf s x.core k l with
      | none => some u
      | some (p, i) => match s.particle p i, u.particle p i with
        | some y, some z =>
          if y.old.isSome then some u
          else if 2 ^ 32 ≤ z.updates + 1 then none
          else some (u.modParticle p i (fun z =>
            { z with acc := lwAdd z.acc (lwVal (readOp u (x.env k) l .lw64 .w64 f.a)), updates := z.updates + 1 }))
        | _, _ => some u
    (launched s x k ex).foldlM one s = some t → exec (.pwadd f) s = .next (endIssue x t)) ∧
  (∀ f s x k w ls ex, Issues s x k w → Goes (.pwadd f) [(f.a, .w64)] s x k w ls ex → ex ≠ [] → ¬ flagged s x k →
    exec (.pwadd f) s = .next (endIssue x (raiseTrap s x.core k Cause.contract x.pc { lanes := maskOf ex }))) ∧
  -- `psetroot`: a release at span scope, then the root of each lane's particle, or under warp and workgroup grain of the grain's; where
  -- counts of an old root are still to be lowered, the lanes wait for that (R351).
  (∀ f s x k w, Issues s x k w → flagged s x k →
    let root (u v : State) (l : Nat) : State := match particleOf v x.core k l with
      | some (p, i) => setRoot v w.launch p i (BitVec.ofNat 64 (readOp u (x.env k) l .b64 .w64 f.a))
      | none => v
    let u := release s x.core (some w.wg) .span
    let busy (v : State) (ls : List Nat) : Bool := ls.any (fun l => match particleOf v x.core k l with
      | some (p, i) => v.jobs.anyV (fun _ j => j.pop = p && j.slot = some i)
      | none => false)
    let ends (v : State) (ls ex act : List Nat) : Result := .next (endIssue x (
      if busy v act then parkAll v x.core k (if collectiveIn v x.core k (.psetroot f) then ls else ex) .drain else v))
    (∀ ls ex, Goes (.psetroot f) [(f.a, .w64)] s x k w ls ex → grainOf s x.core k = some 0 → launched s x k ex ≠ [] →
      mustDrain s x.core k (launched s x k ex) .rel .span = false → busy s (launched s x k ex) = false →
      exec (.psetroot f) s = ends ((launched s x k ex).foldl (root u) u) ls ex (launched s x k ex)) ∧
    (∀ n, Arrived (.psetroot f) [(f.a, .w64)] s x k w → grainOf s x.core k = some (n + 1) → x.together s k w (.psetroot f) ≠ [] →
      mustDrain s x.core k lanes32 .rel .span = false → busy s (x.together s k w (.psetroot f)) = false →
      exec (.psetroot f) s = ends (root u u ((x.together s k w (.psetroot f)).headD 0)) (x.members k w (.psetroot f))
        (x.together s k w (.psetroot f)) (x.together s k w (.psetroot f)))) ∧
  -- `rsb`: a release at span scope; the grain arrives, and its lanes wait for the barrier.
  (∀ f s x k w y p q, Issues s x k w → Arrived (.rsb f) [(f.d, .w32)] s x k w → s.launchOf x.core k = some y → y.flag 6 = true →
    popOfLaunch s w.launch = some (p, q) → mustDrain s x.core k lanes32 .rel .span = false →
    let c := x.core
    let ex := x.together s k w (.rsb f)
    let u := release (tokenAtBarrier s c k true) c (some w.wg) .span
    let slot (l : Nat) : Nat := match particleOf u c k l with | some (_, i) => i | none => 0
    let waits (u : State) : State := ex.foldl (fun s l => park s c k l (.rsb (laneDest f.d ex l) f.pw)) u
    ex ≠ [] →
    (q.grain ≠ 0 → exec (.rsb f) s = .next (endIssue x (lateGrain (waits (u.modPop p (fun q =>
      { q with rsbWarps := q.rsbWarps ++ [(w.wg, w.warpid)] }))) w.launch p (slot (ex.headD 0))))) ∧
    (q.grain = 0 → (∀ l ∈ ex, ∀ z, u.particle p (slot l) = some z → z.old = none) → launched u x k ex ≠ [] →
      exec (.rsb f) s = .next (endIssue x (waits ((launched u x k ex).foldl (fun u l =>
        u.modParticle p (slot l) (fun z => { z with arrived := true })) u))))) ∧
  -- The reports of a step, and its close: by the last report, or at the deadline.
  (∀ p i v r s q y, s.pops.at? p = some q → s.launches.at? q.launch = some y → i < q.n → q.reports.at? i = none →
    let put (w : Option Int) (r : DWord) : State := s.modPop p (fun q => { q with opened := true, reports := q.reports.put i (w, r) })
    (q.parts.at? i = none → exec (.arrivalReport p i v r) s = .next (put v r)) ∧
    (∀ z w, q.parts.at? i = some z → arrival s q.launch y q i = some w → exec (.arrivalReport p i v r) s = .next (put w z.root))) ∧
  (∀ p s q, s.pops.at? p = some q → (∀ i, i < q.n → (q.reports.at? i).isSome = true) →
    exec (.popBarrierClose p) s = .next (closePop s p)) ∧
  (∀ p s q, s.pops.at? p = some q → q.opened = true → q.deadline ≠ BitVec.allOnes 64 →
    exec (.stragglerDeadline p) s = .next (closePop s p))

/-- Resampling (R315): the offspring of the slots are as many as the slots, no slot of weight 0 has any, and the clones go to slots that
have none, each once, from slots that have more than one. -/
def Obligations.Resampling : Prop :=
  ∀ (ns : List Nat) (u : Nat), u < 2 ^ 32 → 0 < ns.sum → ns ≠ [] →
    let n := ns.length
    let os := popOffspring ns u n
    os.length = n ∧ os.sum = n ∧ (∀ i, i < n → ns.getD i 0 = 0 → os.getD i 0 = 0) ∧
    ∀ pkgs : List (List Nat), pkgs.flatten = List.range n →
      let cs := popClones os pkgs
      (cs.map Prod.fst).Nodup ∧ (∀ i, i < n → (os.getD i 0 = 0 ↔ i ∈ cs.map Prod.fst)) ∧
      ∀ j, j < n → 1 ≤ os.getD j 0 → (cs.filter (fun e => e.2 = j)).length = os.getD j 0 - 1

/-! ## The matrix engine -/

/-- Accumulator tiles and the engine's arbiter (R162, R163, R297, R299, R301, R305): the moves between a bound tile and registers, the
binding of a tile to a free granule, zero, the waits for one, and who owns the engine. `swinv` drops entries, and what is under way
for them from peer packages serves no fetch after it. The model's choices: a free granule goes to the oldest warp that waits for
one (log 82), and the engine's DETAIL is 2 (log 75). -/
def Obligations.MatrixTiles : Prop :=
  let tile (i : Instr) (ops : List (Operand × Pos)) (n : Nat) (u : State → Clause → Nat → List Nat → List Nat → Nat → State) : Prop :=
    ∀ s x k w g, Issues s x k w → Arrived i ops s x k w → x.together s k w i ≠ [] → 0 < accG (s.core x.core).part →
      tileAt s x.core k n = some g →
      exec i s = .next (endIssue x (u s x k (x.members k w i) (x.together s k w i) g))
  let row (f : FmtX) (s : State) (x : Clause) (k : Nat) (ex : List Nat) : Nat := readOp s (x.env k) (ex.headD 0) .n32 .w32 f.ca
  (∀ f, tile (.tzero f) [] f.tile.toNat (fun s x _ _ _ g => setTile s x.core g (fun _ _ => 0))) ∧
  (∀ f s x k w g, Issues s x k w → Arrived (.tzero f) [] s x k w → x.together s k w (.tzero f) ≠ [] → 0 < accG (s.core x.core).part →
    tileAt s x.core k f.tile.toNat = none → freeGranule s x.core = some g →
    exec (.tzero f) s = .next (endIssue x (setTile (bindTile s x.core k f.tile.toNat g) x.core g (fun _ _ => 0)))) ∧
  (∀ f s x k w, Issues s x k w → Arrived (.tzero f) [] s x k w → x.together s k w (.tzero f) ≠ [] → 0 < accG (s.core x.core).part →
    tileAt s x.core k f.tile.toNat = none → freeGranule s x.core = none →
    exec (.tzero f) s = .next (endIssue x (parkAll s x.core k (x.members k w (.tzero f)) .tile))) ∧
  (∀ f, tile (.trd f) [(f.cc, .w64)] f.tile.toNat (fun s x k ls ex g =>
    let r := row f s x k ex
    if 64 ≤ r then matTrap x s k ex Cause.engine 2
    else setLatches (putResults s x.core k (some (f.cc, .w64)) (ex.map (fun l =>
      (l, tileWord s x.core g r (2 * l) + 2 ^ 32 * tileWord s x.core g r (2 * l + 1))))) x.core k x.slot ls (some (f.cc, .w64)))) ∧
  (∀ f, tile (.twr f) [(f.cc, .w64)] f.tile.toNat (fun s x k _ ex g =>
    let r := row f s x k ex
    if 64 ≤ r then matTrap x s k ex Cause.engine 2
    else ex.foldl (fun u l =>
      let v := readOp u (x.env k) l .b64 .w64 f.cc
      setTileWord (setTileWord u x.core g r (2 * l) v) x.core g r (2 * l + 1) (v / 2 ^ 32)) s)) ∧
  (∀ f, tile (.tscl f) [(f.cc, .w64)] f.tile.toNat (fun s x k _ ex g => setTile s x.core g (fun r q =>
    if r / 2 ∈ ex then Flt.f32.mul .rne (tileWord s x.core g r q)
      (readOp s (x.env k) (r / 2) .b64 .w64 f.cc / 2 ^ (32 * (r % 2)) % 2 ^ 32)
    else tileWord s x.core g r q))) ∧
  (∀ f, tile (.trel f) [] f.tile.toNat (fun s x k _ _ g => (s.modCore x.core (fun y => { y with granules := y.granules.del g })).modWarp
    x.core k (fun w => { w with tiles := w.tiles.del f.tile.toNat }))) ∧
  -- A row of 64 or more is an engine-command trap; what the warp's stopped command held is let go.
  (∀ x s k ex, matTrap x s k ex Cause.engine 2 = raiseTrap (dropFetched (freeKept s x.core k) x.core k) x.core k Cause.engine x.pc
    { lanes := maskOf ex, detail := 2 }) ∧
  (∀ s c g f r q, r < 64 → q < 64 → tileWord (setTile s c g f) c g r q = f r q % 2 ^ 32) ∧
  (∀ f s x k w, Issues s x k w → Arrived (.swinv f) [] s x k w → x.together s k w (.swinv f) ≠ [] →
    exec (.swinv f) s = .next (endIssue x (s.modCore x.core (fun y =>
      { y with
        swatch := if f.xmod.getLsbD 0 then [] else y.swatch.del f.swa.toNat
        engine := { y.engine with lines := [], asked := y.engine.asked.mapV (fun _ key => if key.testBit 55 then key else key + 2 ^ 55) } })))) ∧
  (∀ s x k w, Issues s x k w →
    let e := (s.core x.core).engine
    (Arrived .macq [] s x k w → e.owner = none → e.ownerQ = [] → leaseOver s x.core = true →
      exec .macq s = .next (endIssue x (s.modEngine x.core (fun e => { e with owner := some k, holder := none })))) ∧
    (Arrived .macq [] s x k w → (∃ j, j ≠ k ∧ e.owner = some j) → k ∉ e.ownerQ →
      exec .macq s = .next (endIssue x (parkAll (s.modEngine x.core (fun e => { e with ownerQ := e.ownerQ ++ [k] })) x.core k
        (x.members k w .macq) .macq))) ∧
    (Arrived .mrel [] s x k w → exec .mrel s = .next (endIssue x (
      if e.owner = some k then s.modEngine x.core (fun e => { e with owner := none }) else s)))) ∧
  (∀ c s, (s.core c).engine.owner = none → leaseOver s c = true →
    (∀ k t, (s.core c).engine.ownerQ = k :: t →
      let u := s.modEngine c (fun e => { e with owner := some k, ownerQ := t, holder := none })
      let v := passOn u c k (waiting u c k (fun w => w == .macq))
      exec (.leaseHandoff c) s = .next (wakeAll v c k (waiting v c k (fun w => w == .engine)))) ∧
    (∀ k t, (s.core c).engine.ownerQ = [] → (s.core c).engine.leaseQ = k :: t →
      let u := s.modEngine c (fun e => { e with holder := some k, used := 0, leaseQ := t })
      exec (.leaseHandoff c) s = .next (wakeAll u c k (waiting u c k (fun w => w == .engine))))) ∧
  (∀ c s e,
    let ws := (s.core c).warps.filterV (fun _ w => w.lanes.anyV (fun _ l => l.wait == .tile))
    (freeGranule s c ≠ none → ws.find? (fun (e : Nat × Warp) => ws.all (fun (d : Nat × Warp) => e.2.age ≤ d.2.age)) = some e →
      exec (.tileBindGrant c) s = .next (wakeAll s c e.1 (waiting s c e.1 (fun w => w == .tile)))) ∧
    (allWait s c Wait.allocates = true → ws.find? (fun (e : Nat × Warp) => ws.all (fun (d : Nat × Warp) => d.2.age ≤ e.2.age)) = some e →
      let ls := waiting s c e.1 (fun w => w == .tile)
      exec (.tileBindTimeout c) s = .next (raiseTrap (wakeAll s c e.1 ls) c e.1 Cause.contract (s.lane c e.1 (ls.headD 0)).pc
        { lanes := maskOf ls })))

/-- The engine's operations (R61, R67, R77, R295 to R298, R301 to R307). A multiply adds to each element of its tile the exact sum of the
products over the k positions of its class, wrapped or saturated for integers and rounded once for reals; `tld` fills a tile
from an entry; each is then under way until MATRIX_OP_COMPLETE publishes, lets its lines go and lowers its flag; `tst` does
so for the rows it writes. `qsm` quantises a block, `spgen` writes pattern indices. -/
def Obligations.MatrixOperations : Prop :=
  let entry (s : State) (x : Clause) (id : Nat) (e : BitVec 512) : Prop := (s.core x.core).swatch.at? id = some e ∧ swatchBad e = none
  let by_ (s : State) (x : Clause) (k : Nat) (w : Warp) (i : Instr) : List Nat :=
    (x.together s k w i).filter (fun l => (s.lane x.core k l).kind == .launched)
  let here (i : Instr) (s : State) (x : Clause) (k : Nat) (w : Warp) (t g : Nat) : Prop :=
    by_ s x k w i ≠ [] ∧ inFlight s x.core k lanes32 (fun _ => true) = false ∧ 0 < accG (s.core x.core).part ∧
      tileAt s x.core k t = some g ∧ (s.core x.core).engine.owner = some k
  -- What `need` names is fetched, under the operation's records and pins: from s to the state u, with the lines m.
  let fetched (s u : State) (x : Clause) (k id : Nat) (need : List (Hint × List Nat)) (m : NMap (BitVec 1024)) (pins : List Nat) : Prop :=
    let own := (need.flatMap (fun e => fetchedLines s x.core k e.1 e.2)).foldl
      (fun (l : List (Nat × Hint)) e => if l.any (fun d => d.1 = e.1) then l else l ++ [e]) []
    tooMany (own.map Prod.fst) = false ∧
    ∃ s1 s2, matOwn s x.core k false (own.map Prod.fst) = some (s1, id) ∧
      fetchLines s1 x.core k (need.flatMap (fun e => e.2)).eraseDups = (s2, .ok m) ∧
      pinsFit s2 ((own.filter (fun e => e.2 != .bypass)).map Prod.fst) = true ∧ pinLines s2 own = (u, pins)
  let multiply (i : Instr) (f : FmtX) (sparse : Bool) : Prop :=
    ∀ s x k w g ea eb k1 u id m pins, Issues s x k w → Arrived i [] s x k w → here i s x k w f.tile.toNat g →
      entry s x f.swa.toNat ea → entry s x f.swb.toNat eb →
      let c := x.core
      let ya := swatchOf ea
      let yb := swatchOf eb
      let at_ (o : Operand) : Nat := readOp s (x.env k) ((by_ s x k w i).headD 0) .n32 .w32 o
      let clr := f.xmod.getLsbD 0
      let int := f.xmod.getLsbD 1
      let sat := f.xmod.getLsbD 2
      let K := if sparse then 2 * k1 else k1
      let ps := List.range K
      let ch (p : Nat) : Nat := K * at_ f.cc + p
      let stored (q p : Nat) : Option Nat := storedRow yb sparse K (at_ f.cc) (at_ f.cb) q p
      let smooth := !int && yb.smooth != 0xFFFFFFFF
      let needA := ((List.range 64).flatMap (fun r => ps.flatMap (fun p => ya.lines (!int) (64 * at_ f.ca + r) (ch p)))).eraseDups
      let needB := ((List.range 64).flatMap (fun q => ps.flatMap (fun p => match stored q p with
        | some b => yb.lines (!int) b (64 * at_ f.cb + q)
        | none => []))).eraseDups
      classK ya.fmt yb.fmt int = some k1 → (sat = true → int = true) → (sparse = true → ya.sparse = false) → yb.sparse = sparse →
      ¬(ya.fmt = 0x20 ∧ (ya.trans = true ∨ yb.trans = false)) →
      (smooth = true → ∀ p ∈ ps, (smoothAt s c yb.smooth (ch p)).isSome = true) →
      fetched s u x k id [(ya.hint, needA), (yb.hint, needB)] m pins →
      let scale (p : Nat) : FVal := if smooth then Flt.f32.dec ((smoothAt u c yb.smooth (ch p)).getD 0 % 2 ^ 32) else .fin false 1 0
      let element (r q : Nat) : Nat :=
        let old := if clr then 0 else tileWord u c g r q
        if int then
          let sum := sextN 32 old + (ps.map (fun p => match stored q p with
            | some b => ya.intOf m (64 * at_ f.ca + r) (ch p) * yb.intOf m b (64 * at_ f.cb + q)
            | none => 0)).sum
          truncN 32 (if sat then max (-2 ^ 31) (min (2 ^ 31 - 1) sum) else sum)
        else mmaSum (Flt.f32.dec old :: ps.map (fun p =>
          ((ya.val m (64 * at_ f.ca + r) (ch p)).mul (match stored q p with
            | some b => yb.val m b (64 * at_ f.cb + q)
            | none => .fin false 0 0)).mul (scale p)))
      exec i s = .next (endIssue x (pend (setTile u c g element) x k id f.fs [] pins 0))
  (∀ f, multiply (.mma f) f false) ∧ (∀ f, multiply (.mmas f) f true) ∧
  (∀ f s x k w g e u id m pins, Issues s x k w → Arrived (.tld f) [] s x k w →
    here (.tld f) s x k w f.tile.toNat g → entry s x f.swc.toNat e →
    let c := x.core
    let y := swatchOf e
    let at_ (o : Operand) : Nat := readOp s (x.env k) ((by_ s x k w (.tld f)).headD 0) .n32 .w32 o
    let need := ((List.range 64).flatMap (fun r => (List.range 64).flatMap (fun q =>
      y.lines false (64 * at_ f.ca + r) (64 * at_ f.cb + q)))).eraseDups
    y.fmt = 0x0E ∨ y.fmt = 0x06 → fetched s u x k id [(y.hint, need)] m pins →
    exec (.tld f) s = .next (endIssue x (pend (setTile u c g (fun r q => y.code m (64 * at_ f.ca + r) (64 * at_ f.cb + q)))
      x k id f.fs [] pins 0))) ∧
  (∀ f s x k w g e u id r, Issues s x k w → Arrived (.tst f) [] s x k w → here (.tst f) s x k w f.tile.toNat g →
    entry s x f.swc.toNat e →
    let c := x.core
    let y := swatchOf e
    let at_ (o : Operand) : Nat := readOp s (x.env k) ((by_ s x k w (.tst f)).headD 0) .n32 .w32 o
    let n := fmtBytes y.fmt
    -- A replay goes on with the first row that is not written (R35).
    y.fmt = 0x0E ∨ y.fmt = 0x06 ∨ y.fmt = 0x0C ∨ y.fmt = 0x0D →
    let lines := tstLines s c k g n (at_ f.ca) (at_ f.cb) y w.row
    tooMany lines = false → matOwn s c k true lines = some (u, id) →
    tstRows c k g n id (at_ f.ca) (at_ f.cb) y (64 - w.row) (openMat u x k id f.fs) w.row = (r, none) →
    exec (.tst f) s = .next (endIssue x (closeMat (freeOwnership r (.tile id)) c k id))) ∧
  -- A write-back is under way, with its flag up, from its first issue; it completes only once its last row has been written.
  (∀ s x k id fs w, s.warp? x.core k = some w → (∀ e ∈ s.cores, ∀ m ∈ e.2.engine.pending, m.id ≠ id) →
    openMat s x k id fs = raiseFlag (s.modEngine x.core (fun e => { e with pending := e.pending ++
      [{ id := id, more := true, slot := k, wg := w.wg, warpid := w.warpid, flag := flagOf x.line fs, wrote := [], pins := [], acks := 0 }] }))
      x.core k (flagOf x.line fs)) ∧
  (∀ s c k id b, ∀ m ∈ ((closeMat s c k id).core b).engine.pending, m.id = id → m.more = false) ∧
  -- More than 256 granules are refused (R69).
  (∀ ls, tooMany ls = true ↔ 256 < (granulesOf ls).length) ∧
  -- The first issue of an operation takes a number and its records, with the steps of R70.
  (∀ s c k wr lines w, s.warp? c k = some w → w.keeps = none → recordsFree s (granulesOf lines) = true → wbHeld s c = false →
    s.own.all (fun r => !(r.engine == .tile s.fresh)) = true →
    matOwn s c k wr lines = some (engineStart ({ s with fresh := s.fresh + 1 }.modWarp c k (fun w => { w with keeps := some s.fresh })) c
      (.tile s.fresh) wr lines, s.fresh)) ∧
  (∀ c s m, (s.core c).engine.pending.find? (fun m => m.acks = 0 && !m.more) = some m →
    let s1 := if m.wrote = [] then s else enginePublish s (some m.wg) m.wrote
    let s2 := s1.modEngine c (fun e => { e with pending := e.pending.filter (fun y => y.id != m.id) })
    let s3 := { s2 with l2 := s2.l2.map (fun l => if m.pins.contains l.line then { l with pins := l.pins - 1 } else l) }
    exec (.matrixOpComplete c) s = .next (settleOps (lowerFlagOf (freeOwnership s3 (.tile m.id)) m.wg m.warpid m.flag) c)) ∧
  (∀ f s x k w, Issues s x k w → Arrived (.qsm f) [(.main (f.xmod.extractLsb' 3 10), .w32), (f.cc, .w32)] s x k w →
    f.xmod.getLsbD 0 = false →
    let ex := x.together s k w (.qsm f)
    let type := f.xmod.toNat / 2 % 4
    let y (l : Nat) : FVal := Flt.f32.dec (readOp s (x.env k) l .f32 .w32 (.main (f.xmod.extractLsb' 3 10)))
    let finite := (ex.map y).filter (fun v => !(v.isNan || v.isInf true || v.isInf false))
    let e := ((List.range 64).find? (fun e => finite.all (fun v => magLe v (q4Max type) e))).getD 63
    let code (l : Nat) : Nat := if l ∈ ex then q4Code type ((y l).scale (32 - (e : Int))) else 0
    let val (l : Nat) : Nat :=
      if l < 4 then ((List.range 8).map (fun i => code (8 * l + i) * 16 ^ i)).sum else if l = 4 then type * 64 + e else 0
    exec (.qsm f) s = .next (endIssue x (setLatches (putResults (dropFetched s x.core k) x.core k (some (f.cc, .w32))
      (ex.map (fun l => (l, val l)))) x.core k x.slot (x.members k w (.qsm f)) (some (f.cc, .w32))))) ∧
  (∀ f s x k w e, Issues s x k w → Arrived (.spgen f) [(f.cc, .w32)] s x k w → x.together s k w (.spgen f) ≠ [] → entry s x f.swb.toNat e →
    (swatchOf e).sparse = true →
    let ex := x.together s k w (.spgen f)
    let at_ (o : Operand) : Nat := readOp s (x.env k) (ex.headD 0) .n32 .w32 o
    let h := f.xmod.toNat % 16
    let hi := f.xmod.toNat / 16 % 2
    let index (l i : Nat) : Nat := sparseM (swatchOf e).seed (at_ f.ca) (at_ f.cb) (l + 32 * hi) (8 * h + i)
    exec (.spgen f) s = .next (endIssue x (setLatches (putResults (dropFetched s x.core k) x.core k (some (f.cc, .w32)) (ex.map (fun l =>
      (l, ((List.range 8).map (fun i => index l i * 16 ^ i)).sum)))) x.core k x.slot (x.members k w (.spgen f)) (some (f.cc, .w32)))))

/-! ## Traps, the control core, register enlargement, launches -/

/-- A trap (R131, R320, R321, R322): the warp's lanes stop and leave every clause; the record has its program counter, cause, lanes and
details and enters the queue of the core with the next number, or is held back while 64 are unconsumed; a control core
that waits for one goes on; the done mask of an instruction that stood stopped goes with it (R237). A warp that has trapped raises no
second trap. Records held back before enter first (R322). -/
def Obligations.TrapTaken : Prop :=
  ∀ s c k cause pc (i : TrapInfo) w, s.warp? c k = some w → k < Config.warpSlots →
    let t := raiseTrap s c k cause pc i
    let y := s.core c
    let done := i.done ||| (match w.stopped with | some y => y.done | none => 0)
    let r : TrapRec :=
      { pc := pc, cause := cause, slot := k, done := done, lanes := i.lanes, warp := w.warpid, detail := i.detail, imm := i.imm
        addr := i.addr, seq := 0
        wg := match s.wgs.at? w.wg with | some x => x.g | none => 0
        queue := match s.launches.at? w.launch with | some x => x.queue | none => 0 }
    (w.trapped = true → t = s) ∧
    (w.trapped = false →
      t.warp? c k = some { w with trapped := true, cause := cause, trapPc := pc, dmask := done, stepping := none } ∧
      t.clauses = s.clauses.map (fun x => if x.core = c then { x with lanes := x.lanes.filter (fun r => r.slot != k) } else x) ∧
      (y.tqHead - y.tqTail + y.tqHeld.length < 64 → (t.core c).tqHeld = [] ∧ (t.core c).tqHead = y.tqHead + y.tqHeld.length + 1 ∧
        (t.core c).trapq.at? ((y.tqHead + y.tqHeld.length) % 64) = some { r with seq := y.tseq + y.tqHeld.length }) ∧
      (y.tqHead - y.tqTail < 64 → y.tqHeld = [] → (t.core c).trapq = y.trapq.put (y.tqHead % 64) { r with seq := y.tseq } ∧
        (t.core c).tqHead = y.tqHead + 1 ∧ (t.core c).tqTail = y.tqTail ∧ (t.core c).tseq = y.tseq + 1 ∧ (t.core c).tqHeld = y.tqHeld) ∧
      (64 ≤ y.tqHead - y.tqTail → (t.core c).tqHeld = y.tqHeld ++ [r] ∧ (t.core c).trapq = y.trapq ∧ (t.core c).tqHead = y.tqHead) ∧
      (t.core c).ctrl = (if y.ctrl.wait = .trapQueue then { y.ctrl with wait := .run } else y.ctrl) ∧
      (t.core c).store = y.store ∧ t.mem = s.mem ∧ (∀ j, j ≠ k → t.warp? c j = s.warp? c j) ∧ ∀ b, b ≠ c → t.core b = s.core b)

/-- The return from a trap (R324, R328), for a warp whose lanes stand at slots 0 to 4 once what the control core has written to its block
has taken effect: it is no longer stopped, its done mask is 0, every
lane whose done bit is set, and with `tskip` every lane, that stands at the stopped instruction goes on behind it, and a lane
that stands elsewhere stays there; with `tstep` each lane stops again after one instruction. No lane has a kill to answer (R38). -/
def Obligations.ReturnFromTrap : Prop :=
  ∀ s c k w0 m, s.warp? c k = some w0 → let w := w0.applyPatch
    w.owed = [] → (∀ l ∈ w.present, pcOk (w.lanes.atD l Lane.never).pc = true) →
    (∀ l ∈ w.present, l < 32 ∧ (w.lanes.at? l).isSome = true ∧ (w.lanes.atD l Lane.never).wait ≠ .transfer ∧
      (w.lanes.atD l Lane.never).wait.killedBy = none) → k < Config.warpSlots →
    let at_ := match w.stopped with | some y => y.pc | none => w.trapPc
    let done := match w.stopped with | some y => y.done | none => w.dmask
    ∃ v, (resumeWarp s c k m).warp? c k = some v ∧ v.trapped = false ∧ v.dmask = 0 ∧
      v.stepping = (if m = .step then some (maskOf w.present) else none) ∧
      (∀ l ∈ w.present, (v.lanes.atD l Lane.never).pc =
        if (w.lanes.atD l Lane.never).pc = at_ ∧ (maskHas done l = true ∨ m = .skip) then nextPc at_
        else (w.lanes.atD l Lane.never).pc) ∧
      (∀ l ∈ w.present, (w.lanes.atD l Lane.never).wait = .held → (v.lanes.atD l Lane.never).wait = .run)

/-- Group 0xE in a warp (R139 to R141, R153, R154, R327): `trap` and `brk` take their traps; `rdarch` reads edition 3; `regrow` moves
the warp to a larger allocation where one is free, fails above the partition, waits otherwise; REGROW_GRANT ends such waits,
oldest warp first, REGROW_FAIL_TIMEOUT the youngest's; `regshrink` gives registers back; `launch` submits a record for each
executing lane, and tells each whether the queue took it. -/
def Obligations.SystemForms : Prop :=
  (∀ f, ArithmeticForm (.rdarch f) [] (some (f.d, .w32)) none (fun _ _ => (3, false))) ∧
  (∀ s x k w, Issues s x k w → x.executing s k ≠ [] →
    (∀ f, Ready (.trap f) [] s x k w → exec (.trap f) s = .next (endIssue x (raiseTrap s x.core k 0x0D x.pc
      { lanes := maskOf (x.executing s k), detail := f.imm.toNat % 256, imm := f.imm }))) ∧
    (Ready .brk [] s x k w → exec .brk s = .next (endIssue x (raiseTrap s x.core k 0x0E x.pc { lanes := maskOf (x.executing s k) })))) ∧
  (∀ s x k w, Issues s x k w → regsBusy s x.core k = false →
    let c := x.core
    let all (u : State) (p : BitVec 3) (ok : Bool) : State := putPreds u c k (some p) (w.present.map (fun l => (l, ok)))
    (∀ f, Arrived (.regrow f) [] s x k w →
      let n := 8 * (f.s7.toNat + 1)
      (regG (s.core c).part * 0x4000 < 128 * n → exec (.regrow f) s = .next (endIssue x (all s f.pw false))) ∧
      (128 * n ≤ regG (s.core c).part * 0x4000 → n ≤ w.regs → exec (.regrow f) s = .next (endIssue x (all s f.pw true))) ∧
      (128 * n ≤ regG (s.core c).part * 0x4000 → w.regs < n →
        (∀ b, fitBase s c (some k) n = some b → exec (.regrow f) s = .next (endIssue x (all (growRegs s c k n b) f.pw true))) ∧
        (fitBase s c (some k) n = none → exec (.regrow f) s = .next (endIssue x
          (parkAll s c k (x.members k w (.regrow f)) (.regrow n)))))) ∧
    (∀ f, Arrived (.regshrink f) [] s x k w → exec (.regshrink f) s = .next (endIssue x (s.modWarp c k (fun w =>
      { w with regs := min w.regs (8 * (f.s7.toNat + 1)) }))))) ∧
  -- The new allocation: the old registers, then zeros.
  (∀ s c k n b w, s.warp? c k = some w → k < Config.warpSlots → w.regs ≤ n →
    (∃ v, (growRegs s c k n b).warp? c k = some v ∧ v.base = b ∧ v.regs = n ∧ v.lanes = w.lanes) ∧
    (∀ a, a < 128 * n → Mem.byte ((growRegs s c k n b).core c).store (b + a) =
      if a < 128 * w.regs then Mem.byte (s.core c).store (w.base + a) else 0)) ∧
  (∀ c s, (blockedRegrows s c).Pairwise (fun a b => a.2.1.age ≤ b.2.1.age) ∧
    exec (.regrowGrant c) s = .next ((blockedRegrows s c).foldl (fun u e =>
      let ls := waiting u c e.1 (fun y => match y with | .regrow _ => true | _ => false)
      if e.2.1.trapped then u
      else match fitBase u c (some e.1) e.2.2.1, e.2.2.2 with
        | some b, some p => passOn (regrowEnds (growRegs u c e.1 e.2.2.1 b) c e.1 p true) c e.1 ls
        | some _, none => wakeAll u c e.1 ls
        | none, _ => u) s) ∧
    (∀ k v n p, allWait s c (fun y => match y with | .regrow _ => true | _ => false) = true → (blockedRegrows s c).getLast? = some (k, v, n, some p) →
      let ls := waiting s c k (fun y => match y with | .regrow _ => true | _ => false)
      exec (.regrowFailTimeout c) s = .next (passOn (regrowEnds s c k p false) c k ls))) ∧
  (∀ f s x k w ls ex t, Issues s x k w → Goes (.launch f) [(f.a, .w64)] s x k w ls ex → stoppedAt s x.core k x.pc = none → ex ≠ [] →
    let c := x.core
    let addr (l : Nat) : Nat := readOp s (x.env k) l .n64 .w64 f.a
    let act := ex.filter (fun l => (s.lane c k l).kind == .launched)
    let who := if f.a.isWreg then (if act = [] then ex.take 1 else act.take 1) else ex
    let tell (u : State) (l : Nat) (b : Bool) : State := putPreds u c k (some f.pw) [(l, b)]
    let one (u : State) (l : Nat) : Option State :=
      if (u.lane c k l).kind = .helper ∨ (u.lq f.s7.toNat).takesDev = false then some (tell u l false)
      else match readRecord u c k (addr l) with
        | (u1, .bytes bs) => some (tell (submit u1 f.s7.toNat bs).1 l (submit u1 f.s7.toNat bs).2)
        | _ => none
    (act ≠ [] → mustDrain s c k act .rel .pkg = false) →
    (∀ l ∈ who, addr l % 256 = 0 ∧ (regionOf (addr l) = .general ∨ (∃ p, regionOf (addr l) = .peer p) ∨ regionOf (addr l) = .nonCanonical)) →
    -- A record that is read meets no watchpoint for reads (R329).
    (∀ l ∈ who, (s.lane c k l).kind = .launched → (s.lq f.s7.toNat).takesDev = true → watchHit s c .pop (addr l) 256 = false) →
    who.foldlM one (if act = [] then s else release s c (some w.wg) .pkg) = some t →
    let u := dropFetched t c k
    exec (.launch f) s = .next (endIssue x (if f.a.isWreg then putPreds u c k (some f.pw) (ex.map (fun l =>
      (l, (u.lane c k (who.headD 0)).preds.getLsbD f.pw.toNat))) else u))) ∧
  -- The record of a submission stands at the tail of the ring; nothing is written to the error-log region (R366).
  (∀ s q bs, let y := s.lq q
    submit s q bs = if y.enable = true ∧ y.dev = true ∧ (y.tail + y.slots - y.head % y.slots) % y.slots < y.slots - 1 then
      ((s.wrDev (y.base.toNat + 256 * y.tail) bs).modLq q (fun y => { y with tail := (y.tail + 1) % y.slots }), true)
    else (s, false))

/-- The control core's forms (R322, R326 to R329, R331, R332, R345, R366). A form on a slot acts and writes true, or does nothing and
writes false where no stopped warp or stream stands there. -/
def Obligations.ControlCoreForms : Prop :=
  ∀ s x, let c := x.core
    let val (o : Operand) : Nat := readOp s (x.env ctrlSlot) 0 .n32 .w32 o
    let put (o : Operand) (v : Nat) : Result := .next (endIssue x (noteWrites (writeDst s c ctrlSlot 0 .w32 o v) c ctrlSlot
      (spinValues (some (o, .w32)) false [(0, v, false)])))
    let tell (f : FmtS) (u : Option State) : Result := .next (endIssue x (match u with
      | some u => u.modLane c ctrlSlot 0 (fun y => y.setPred f.pw.toNat true)
      | none => s.modLane c ctrlSlot 0 (fun y => y.setPred f.pw.toNat false)))
    let warp (v : Nat) : Option Warp := if v < 48 then (s.warp? c v).bind (fun w => if w.trapped then some w else none) else none
    let stream (v : Nat) : Option Stream :=
      if 48 ≤ v ∧ v < 96 then ((s.core c).streams.at? (v - 48)).bind (fun y => if y.stopped then some y else none) else none
    let wake (v : Nat) (m : ResumeKind) (u : State) : Option State :=
      -- A warp whose last launched lane the control core has marked as exited ends (R127, R324).
      if (warp v).isSome then some (exitLanes (resumeWarp u c v m) c v [])
      else if (stream v).isSome then some (resumeStream s c (v - 48) m) else none
    let synced := debugOwed s c ctrlSlot [0] = false
    let entry (v cause launch wg : Nat) : State :=
      logEvent s 17 (dieOf c) (c + 2 ^ 16 * v + 2 ^ 24 * cause +
        2 ^ 32 * (match s.wgs.at? wg with | some y => y.g | none => 0) +
        2 ^ 64 * (match s.launches.at? launch with | some y => y.queue | none => 0))
    (∀ f, CtrlIssues (.tnext f) [(f.d, .w32)] s x →
      ((s.core c).tqHead = (s.core c).tqTail → exec (.tnext f) s = .next (endIssue x (parkAll s c ctrlSlot [0] .trapQueue))) ∧
      ((s.core c).tqHead ≠ (s.core c).tqTail → exec (.tnext f) s = put f.d ((s.core c).tqTail % 64))) ∧
    (∀ f, CtrlIssues (.tres f) [(f.a, .w32)] s x → synced → exec (.tres f) s = tell f (wake (val f.a) .res s)) ∧
    (∀ f, CtrlIssues (.tstep f) [(f.a, .w32)] s x → synced → exec (.tstep f) s = tell f (wake (val f.a) .step s)) ∧
    (∀ f, CtrlIssues (.tskip f) [(f.a, .w32)] s x → synced → exec (.tskip f) s = tell f (wake (val f.a) .skip
      (match (warp (val f.a)).bind (fun w => s.launches.at? w.launch) with
        | some y => if y.repro && s.rep.isOpen then { s with rep := { s.rep with patched := true } } else s
        | none => s))) ∧
    (∀ f, CtrlIssues (.tkill f) [(f.a, .w32)] s x → exec (.tkill f) s = tell f (match warp (val f.a), stream (val f.a) with
      | some w, _ => some (killLaunch (entry (val f.a) w.cause w.launch w.wg) w.launch)
      | none, some y => some (killLaunch (entry (val f.a) y.cause y.launch y.wg) y.launch)
      | none, none => none)) ∧
    (∀ f, CtrlIssues (.tstop f) [(f.a, .w32)] s x →
      (∀ w, val f.a < 48 → s.warp? c (val f.a) = some w → exec (.tstop f) s = .next (endIssue x
        (raiseTrap s c (val f.a) 0x10 (w.lanes.atD (w.present.headD 0) Lane.never).pc { lanes := maskOf w.present }))) ∧
      (val f.a < 48 → s.warp? c (val f.a) = none → exec (.tstop f) s = .next (endIssue x s)) ∧
      (∀ y, 48 ≤ val f.a → (s.core c).streams.at? (val f.a - 48) = some y → y.started = true →
        let t := raiseStreamTrap s c (val f.a - 48) 0x10 y.pc { lanes := 1 }
        exec (.tstop f) s = .next (endIssue x (if y.stopped then s else
          { t with clauses := t.clauses.filter (fun z => !(z.core = c && z.picker == .stream (val f.a - 48))) })))) ∧
    (∀ f, CtrlIssues (.csave f) [(f.a, .w32), (f.b, .w64)] s x → exec (.csave f) s = tell f (if (warp (val f.a)).isSome then
      some (saveWarp s c (val f.a) (BitVec.ofNat 64 (readOp s (x.env ctrlSlot) 0 .n64 .w64 f.b))) else none)) ∧
    (∀ f, CtrlIssues (.cload f) [(f.a, .w32), (f.b, .w64)] s x →
      exec (.cload f) s = tell f (loadSlot s c (val f.a) (readOp s (x.env ctrlSlot) 0 .n64 .w64 f.b))) ∧
    (∀ f sel, CtrlIssues (.crd f) [(f.d, .w32)] s x → f.b = .imm sel → exec (.crd f) s = put f.d (ctrlReg s c sel.toNat)) ∧
    (∀ f, CtrlIssues (.cwr f) [(f.a, .w32)] s x → exec (.cwr f) s = .next (endIssue x (
      if f.s7 = 0x10 ∨ f.s7 = 0x11 ∨ f.s7 = 0x12 ∨ f.s7 = 0x13 then
        s.modCore c (fun y => { y with watch := y.watch.putD f.s7.toNat (BitVec.ofNat 32 (val f.a)) 0 })
      else if f.s7 = 0x14 ∨ f.s7 = 0x15 then
        s.modCore c (fun y => { y with watch := y.watch.putD f.s7.toNat (BitVec.ofNat 32 (val f.a % 256)) 0 })
      else s))) ∧
    (CtrlIssues .tdone [] s x →
      ((s.core c).tqHead = (s.core c).tqTail → exec .tdone s = .next (endIssue x s)) ∧
      ((s.core c).tqHead ≠ (s.core c).tqTail → (s.core c).tqHeld = [] →
        exec .tdone s = .next (endIssue x (s.modCore c (fun y => { y with tqTail := y.tqTail + 1 }))))) ∧
    (CtrlIssues .iflush [] s x → exec .iflush s = .next (endIssue x (s.modCore c (fun y => { y with icache := [] })))) ∧
    (CtrlIssues .dwsync [] s x → exec .dwsync s = .next (endIssue x (
      if debugOwed s c ctrlSlot [0] then parkAll s c ctrlSlot [0] .drain else s))) ∧
    (∀ f, CtrlIssues (.hnotify f) [(f.a, .w32)] s x → exec (.hnotify f) s = .next (endIssue x
      { s with host := { s.host with notes := s.host.notes ++ [(c, BitVec.ofNat 32 (val f.a))] } })) ∧
    -- The control registers.
    (∀ v, ctrlReg s c 0 = c ∧ (22 ≤ v → ctrlReg s c v = 0) ∧ (16 ≤ v → v ≤ 21 → ctrlReg s c v = ((s.core c).watch.atD v 0).toNat) ∧
      (v < 32 → ((ctrlReg s c 3).testBit v = true ↔ (warp v).isSome)) ∧ (v < 16 → ((ctrlReg s c 4).testBit v = true ↔ (warp (32 + v)).isSome)))

/-! ## Access streams -/

/-- Access streams, group 0xF (R17, R187, R265 to R268): arithmetic on access registers modulo the width; zero-trip and counted loops;
loads; rows of 32 words pushed to queues and stored from them; the rows an index entry names, the entry popped once; prefetches,
fences, and the end. A stream form acts once, and the stream goes on behind it. -/
def Obligations.Streams : Prop :=
  ∀ s x k t, let c := x.core
    let done (u : State) : Result := .next (streamNext x u k)
    let rd (ty : Ty) (p : Pos) (o : Operand) : Nat := streamRead s c t ty p o
    let set (d : BitVec 10) (p : Pos) (v : Nat) (y : Stream) : Stream :=
      let r := y.regs.putD d.toNat (BitVec.ofNat 32 v) 0
      { y with regs := if p = .w64 then r.putD (d.toNat + 1) (BitVec.ofNat 32 (v / 2 ^ 32)) 0 else r }
    let arith (i : Instr) (f : FmtA) (g : Nat → Nat → Nat → Int) : Prop :=
      ∀ d, f.d = .main d → StreamIssues i s x k t → exec i s = done (s.modStream c k (set d f.ty.pos
        (truncN f.ty.bits (g (rd f.ty f.ty.pos f.a) (rd f.ty f.ty.pos f.b) (rd f.ty f.ty.pos f.c)))))
    let addr (f : FmtM) (i : Nat) : Nat := truncN 64 ((rd .n64 .w64 f.addr : Int) + (i * 2 ^ (f.mmod.toNat % 16) : Nat) + f.off.toInt)
    let free := streamBusy s c k (fun o => o.order.acquires) = false
    let q (o : Operand) : Nat := match o with | .queue q _ => q.toNat | _ => 0
    let known (n : Nat) : Prop := ∃ g, s.wgs.at? t.wg = some g ∧ (g.queues.at? n).isSome
    let local_ (p : Place) : Bool := match p with | .peer _ _ => false | .debug _ _ => false | _ => true
    let lost (u : State) (ps : List (Place × Nat)) : Bool := ps.any (fun e => frameLost u e.1)
    -- One row, read and pushed as an entry.
    let row (u : State) (f : FmtM) (va : Nat) : Option State :=
      match rowPlaces u c t va false with
      | (v, .ok ps) =>
        let r := rowRead v f.hint t ps
        if va % 4 = 0 ∧ ps.length = 32 ∧ ps.all (fun e => local_ e.1) = true ∧ lost v ps = false ∧
            queueRoom r.1 t.wg (q f.data) = .ready [] ∧ streamBusy r.1 c k (fun _ => true) = false then
          some ((queueAdd r.1 t.wg (q f.data) (r.2.filterMap id)).modStream c k (fun y => { y with buf := [] }))
        else none
      | _ => none
    (∀ f, arith (.aadd f) f (fun a b _ => a + b)) ∧ (∀ f, arith (.asub f) f (fun a b _ => a - b)) ∧
    (∀ f, arith (.amad f) f (fun a b e => a * b + e)) ∧ (∀ f, arith (.amin f) f (fun a b _ => min a b)) ∧
    (∀ f, arith (.aand f) f (fun a b _ => (a &&& b : Nat))) ∧ (∀ f, arith (.ashr f) f (fun a b _ => (if b < f.ty.bits then a / 2 ^ b else 0 : Nat))) ∧
    (∀ f d, f.d = .main d → StreamIssues (.amovi f) s x k t →
      exec (.amovi f) s = done (s.modStream c k (set d f.ty.pos f.imm.toNat))) ∧
    (∀ f d u l, f.d = .main d → StreamIssues (.aloop f) s x k t →
      let target := x.addr + (f.off.signExtend 64 <<< 6) + f.slot.setWidth 64
      let n := streamRead u c t .n32 .w32 f.a
      pcOk target = true → fetchLine s c (streamCtx s t) target = (u, .line l) → lineKind l = 1 →
      decodeSlot l (target.toNat % 8) = .ok .aend →
      (n ≠ 0 → t.loops.length < 4 → exec (.aloop f) s = done (u.modStream c k (fun y =>
        { y with regs := y.regs.putD d.toNat 0 0
                 loops := { start := nextPc x.pc, fin := target, var := d.toNat, count := BitVec.ofNat 32 n } :: y.loops }))) ∧
      (n = 0 → t.stepping = false → exec (.aloop f) s = .next (endStreamClause (u.modStream c k (fun y =>
        { y with pc := nextPc target, buf := [] }))))) ∧
    (∀ e rest, StreamIssues .aend s x k t → t.loops = e :: rest → e.fin = x.pc →
      let v := t.regs.atD e.var 0 + 1
      let u := s.modStream c k (fun y => { y with regs := y.regs.putD e.var v 0 })
      (v < e.count → t.stepping = false → exec .aend s = .next (endStreamClause (u.modStream c k (fun y =>
        { y with pc := e.start, buf := [] })))) ∧
      (¬ v < e.count → exec .aend s = done (u.modStream c k (fun y => { y with loops := rest })))) ∧
    (∀ f u p leaf, StreamIssues (.ald f) s x k t → free →
      let n := f.ty.bits / 8
      let va := addr f (rd .n32 .w32 f.index)
      va % n = 0 → resolveNow s (streamWho s c t) { kind := .affine, write := false, odd := false, width := n } va = (u, .ok p leaf) →
      frameLost u p = false →
      exec (.ald f) s = done (raiseStreamFlag { u with
        fresh := u.fresh + 1
        ops := u.ops.put u.fresh { owner := .stream c k, body := .load f.data f.ty false, ty := f.ty, width := n, hint := effHint f.hint leaf
                                   scope := f.scope, order := f.order, more := false, flag := flagOf x.line f.fs,
                                   lanes := [{ lane := 0, place := p, data := 0, hint := effHint f.hint leaf, sw := false
                                               ms := p.isPeer && pteMS leaf, sent := false }] } }
        c k (flagOf x.line f.fs))) ∧
    (∀ f u, StreamIssues (.apush f) s x k t → free → known (q f.data) → row s f (addr f (rd .n32 .w32 f.index)) = some u →
      exec (.apush f) s = done u) ∧
    (∀ f ws u, StreamIssues (.agath f) s x k t → free → known (q f.data) → t.gath = none → t.buf = [] →
      queueHead s t.wg (q f.index) = .ready ws → wbHeld s c = false →
      (List.range (f.mmod.toNat / 16 % 32 + 1)).foldlM (fun u i => (row u f (addr f (ws.getD i 0).toNat)).map (fun v =>
        v.modStream c k (fun y => { y with row := i + 1 })))
        ((queueDrop (writeBackAll s c) t.wg (q f.index)).modStream c k (fun y => { y with gath := some ws, row := 0 })) = some u →
      exec (.agath f) s = done (u.modStream c k (fun y => { y with gath := none, row := 0 }))) ∧
    (∀ f u (ps : List (Place × Nat)) (ws : List Word), StreamIssues (.ast f) s x k t → free → known (q f.data) →
      let va := addr f (rd .n32 .w32 f.index)
      let pas : List Nat := ps.filterMap (fun e => match e.1 with | .mem pa => some pa | _ => none)
      let lines := (pas.map (fun pa => pa / 128)).eraseDups
      va % 4 = 0 → rowPlaces s c t va true = (u, .ok ps) → ps.all (fun e => local_ e.1) = true → lost u ps = false → queueHead u t.wg (q f.data) = .ready ws →
      recordsFree u (granulesOf lines) = true → wbHeld u c = false → rowClash u c k ps = false →
      let v := (ps.zip ws).foldl (fun s e => match e.1.1 with
        | .mem pa => l2Write (s.wrMem pa 4 e.2.toNat) pa 4 (effHint f.hint e.1.2)
        | .side pa => s.wrMem pa 4 e.2.toNat
        | .store d off => s.wrStore d off 4 e.2.toNat
        | _ => s) (engineStart (queueDrop u t.wg (q f.data)) c (.stream c k) true lines)
      -- What it has written here is published, on general and on memory-side pages (R77).
      let wrote : List Nat := ps.filterMap (fun e => match e.1 with | .mem pa | .side pa => some (pa / 32) | _ => none)
      exec (.ast f) s = done (if wrote = [] then freeOwnership v (.stream c k)
        else enginePublish (freeOwnership v (.stream c k)) (some t.wg) wrote.eraseDups)) ∧
    (∀ f, StreamIssues (.apf f) s x k t →
      let va := addr f (rd .n32 .w32 f.index)
      let n := min 128 (65536 - va % 65536)
      let fetch (s : State) (va n : Nat) : State := if n = 0 then s else
        match resolveNow s (streamWho s c t) { kind := .prefetch, write := false, odd := false, width := n } va with
        | (u, .ok (.mem pa) leaf) => if frameLost u (.mem pa) then u
          else (linesOf pa n).foldl (fun s l => fillFor s { core := c, pa := 128 * l, hint := effHint f.hint leaf, level1 := false }) u
        | (u, _) => u
      exec (.apf f) s = done (fetch (fetch s va n) ((va + n) % 2 ^ 64) (128 - n))) ∧
    (∀ f, StreamIssues (.afence f) s x k t →
      let order := decodeOrder (f.s7.extractLsb' 0 2)
      let scope := decodeScope (f.s7.extractLsb' 2 2)
      (order.releases = true → streamBusy s c k (fun _ => true) = false ∧ (scope = .span → peerOwed s c = false)) →
      (order.acquires = true → streamBusy s c k (fun o => match o.body with | .load _ _ _ => true | _ => false) = false) →
      (scope ≠ .wp → wbHeld s c = false) →
      let home := if order.acquires = true ∧ scope ≠ .wp then writeBackAll s c else s
      let u := if order.releases then release home c (some t.wg) scope else home
      exec (.afence f) s = done (if order.acquires then acquire u c (some t.wg) scope else u)) ∧
    (StreamIssues .astop s x k t →
      (streamBusy s c k (fun _ => true) = false → exec .astop s = .next (endStreamClause (s.modStream c k (fun y => { y with ended := true })))) ∧
      (streamBusy s c k (fun _ => true) = true → exec .astop s = .next (endStreamClause (s.modStream c k (fun y => { y with wait := .drain })))))

/-- An access in flight is performed, MEMORY_ACCESS_DONE (R14, R79, R88, R111, R130, R207, R236, R243, R245): a load writes its
destination, a store its bytes, an atomic both, reading and writing the word at once; a copy in the issuing core's level 1
serves a load that it covers; an operation with no lane left lowers its completion flag. -/
def Obligations.AccessesPerformed : Prop :=
  (∀ s id o a, s.ops.at? id = some o → o.lanes.find? (fun b => b.lane = a.lane) = some a → a.lane < 32 → accReady s id o a = true →
    a.sent = false → a.sw = false → o.order.releases = false →
    let step := exec (.memoryAccessDone id (1#32 <<< a.lane)) s
    let n := o.width
    let c := o.owner.core
    let b := a.data.toNat % 2 ^ 64
    let fresh := a.data.toNat / 2 ^ 64 % 2 ^ 64
    let done (u : State) : Result := .next (settleOps u c)
    let rd (m : Mem) (p : Nat) : Nat := Mem.rd m p n
    (∀ d t ro, o.body = .load d t ro →
      (∀ e off, a.place = .store e off → step = done (finishLoad s id o a (rd (s.core e).store off))) ∧
      (∀ pa, a.place = .side pa → step = done (finishLoad s id o a (rd s.mem pa))) ∧
      (∀ pa, a.place = .mem pa → step = done (finishLoad (loadAt s o a).1 id o a (loadAt s o a).2) ∧
        (l1Find s c (localKey pa) = none → (loadAt s o a).2 = rd s.mem pa) ∧
        (∀ l, l1Find s c (localKey pa) = some l → l1Sets (s.core c) ≠ 0 → byEngine o = false → atHome s o = false →
          l.valid &&& byteMask (pa % 128) n = byteMask (pa % 128) n → (loadAt s o a).2 = lineNat l.data (pa % 128) n))) ∧
    (o.body = .store →
      (∀ e off, a.place = .store e off → step = done (finishStore (s.wrStore e off n a.data.toNat) id o a)) ∧
      (∀ pa, a.place = .side pa → step = done (finishStore (s.wrMem pa n a.data.toNat) id o a)) ∧
      (∀ pa, a.place = .mem pa → step = done (finishStore (storeAt s o a n a.data.toNat) id o a) ∧
        (byEngine o = true ∨ atHome s o = true ∨ l1Sets (s.core c) = 0 ∨ a.hint = .bypass →
          (storeAt s o a n a.data.toNat).mem = (s.wrMem pa n a.data.toNat).mem))) ∧
    (o.body = .push → ∀ pa, a.place = .side pa → step = done (finishPush (s.wrMem pa n a.data.toNat) id o a)) ∧
    (o.body = .pop → ∀ pa, a.place = .side pa → step = done (finalizePops (popReturned s id a.lane (rd s.mem pa)) id)) ∧
    (o.body = .zline → ∀ pa, a.place = .side pa → step = done (finishStore (s.wrMem pa 128 0) id o a)) ∧
    (o.body = .cwb → ∀ pa, a.place = .mem pa → step = done (finishStore (writeBackLine s c (localKey pa)) id o a)) ∧
    (o.body = .cinv → ∀ pa, a.place = .mem pa → step = done (finishStore (dropLines s c (fun l => l.line = localKey pa)) id o a)) ∧
    (∀ op t d p, o.body = .atomic op t d p →
      (∀ e off, a.place = .store e off → let r := atomNew op t (rd (s.core e).store off) b fresh
        step = done (finishAtomic (s.wrStore e off n r.1) id o a (rd (s.core e).store off) r.2)) ∧
      (∀ pa, a.place = .side pa → let r := atomNew op t (rd s.mem pa) b fresh
        step = done (finishAtomic (s.wrMem pa n r.1) id o a (rd s.mem pa) r.2)) ∧
      -- Of a general page whose line level 1 does not hold, and which is not its place: the word at the home slice.
      (∀ pa, a.place = .mem pa → l1Find s c (localKey pa) = none → atomL1 s o a = false → let r := atomNew op t (rd s.mem pa) b fresh
        ∃ u, step = done (finishAtomic u id o a (rd s.mem pa) r.2) ∧ u.mem = (s.wrMem pa n r.1).mem))) ∧
  -- What the atomics compute (R111).
  (∀ t old b fresh, t = .n32 ∨ t = .i32 ∨ t = .n64 ∨ t = .i64 → old < 2 ^ t.bits → b < 2 ^ t.bits → fresh < 2 ^ t.bits →
    let f (op : AtomOp) : Nat × Bool := atomNew op t old b fresh
    f .add = ((old + b) % 2 ^ t.bits, true) ∧ intVal t (f .min).1 = min (intVal t old) (intVal t b) ∧
    intVal t (f .max).1 = max (intVal t old) (intVal t b) ∧ f .and = (old &&& b, true) ∧ f .or = (old ||| b, true) ∧
    f .xor = (old ^^^ b, true) ∧ f .exch = (b, true) ∧ f .cas = (if old = b then fresh else old, true) ∧
    f .inc = (min (old + 1) (max old b), decide (old < b)) ∧ f .dec = (old - 1, decide (old ≠ 0))) ∧
  -- What a finished lane writes.
  (∀ s id o a c k r t ro v, o.owner = .warp c k → o.body = .load (.main r) t ro → o.order.acquires = false → o.width = t.bits / 8 →
    o.width ≠ 16 → finishLoad s id o a v = dropAcc (noteWrites (writeDst s c k a.lane t.pos (.main r) (extT t v)) c k [extT t v]) id a.lane) ∧
  -- A warp-uniform destination is written by the lowest of the lanes that issued together (R180), and the spin detector sees none of it
  -- (R159).
  (∀ s id o a c k r t ro v, o.owner = .warp c k → o.body = .load (.wreg r) t ro → o.order.acquires = false → o.width = t.bits / 8 →
    o.width ≠ 16 → finishLoad s id o a v = dropAcc (noteWrites
      (if a.data.getLsbD 254 then s else writeWreg s c k t.pos r.toNat (extT t v)) c k []) id a.lane) ∧
  (∀ s id o a c k, o.owner = .warp c k → finishStore s id o a = dropAcc s id a.lane) ∧
  (∀ s id o a c k w, o.owner = .warp c k → k < Config.warpSlots → s.warp? c k = some w → (w.lanes.at? a.lane).isSome = true →
    let u := finishPush s id o a
    (u.lane c k a.lane).pc = a.data.extractLsb' 64 64 ∧ (u.lane c k a.lane).sp = a.data.extractLsb' 128 64 ∧
    (u.lane c k a.lane).wait = .run) ∧
  ∀ s id o c k w n, s.ops = [(id, o)] → o.lanes = [] → o.more = false → o.owner = .warp c k → o.flag = some n → s.warp? c k = some w →
    (sweepOps s).ops = [] ∧ ∃ v, (sweepOps s).warp? c k = some v ∧ v.flags.atD n 0 = w.flags.atD n 0 - 1

/-! ## Clauses and steps -/

/-- CLAUSE_START completes for every picker (R128, R129, R131, R132, R170, R174, R265, R326): a picker with a clause in flight goes on
with it. Else the lanes of one workgroup that stand at one program counter and may issue form a bundle, one for each lane number, of the oldest warp; where
the line holds a warp-collective instruction they are of one warp. A lane that waits, a stopped warp's, or one in another clause
is in no bundle. A stream and the control core start clauses alike. -/
def Obligations.ClauseStart : Prop :=
  let mine (c : Nat) (pk : Picker) (x : Clause) : Bool := x.core = c && x.picker == pk
  let idle (s : State) (c : Nat) (pk : Picker) : Prop := ∀ x ∈ s.clauses, mine c pk x = false
  (∀ c pk s, (∃ x ∈ s.clauses, mine c pk x = true) → exec (.clauseStart c pk) s =
    .next { s with clauses := s.clauses.filter (mine c pk) ++ s.clauses.filter (fun x => !mine c pk x) }) ∧
  (∀ c p s y u l r rs, idle s c (.part p) → pick s c p = some y → y.lanes = r :: rs →
    fetchLine s c (s.ctxOf c r.slot) y.pc = (u, .line l) → lineKind l = 0 →
    let z := (slotsIn y.lanes).foldl (fun s k => noteFetch s c k y.pc) u
    (lineTgt l 0 = true ∨ ∀ q ∈ y.lanes, ∃ w, z.warp? c q.slot = some w ∧ w.entered = true) →
    let ls := bundle (if collectiveLine z c r.slot l then y.lanes.filter (fun q => q.slot = r.slot) else y.lanes)
    let v := enterLanes z c y.pc ls
    exec (.clauseStart c (.part p)) s = .next { v with clauses :=
      { core := c, picker := .part p, addr := y.pc &&& ~~~63, line := l, entry := y.pc.toNat % 8, slot := y.pc.toNat % 8,
        guard := { neg := false, pred := 7 }, lanes := ls } :: v.clauses }) ∧
  -- A warp alone on its core, none of whose lanes waits and whose live lanes stand at one program counter: they all enter the line, whose
  -- flags are clear.
  (∀ c p s k w pc u l, idle s c (.part p) → (∀ x ∈ s.clauses, x.core ≠ c) → (s.core c).warps = [(k, w)] → k < 48 → w.part = p →
    w.trapped = false → haltedLaunch s w.launch = false → w.stopped = none → w.stepping = none → (∀ e ∈ w.lanes, e.2.wait = .run) →
    let live := lanes32.filter (fun i => (w.lanes.atD i Lane.never).kind == .launched || (w.lanes.atD i Lane.never).kind == .helper)
    live ≠ [] → (∀ i ∈ live, (w.lanes.atD i Lane.never).pc = pc ∧ (w.lanes.atD i Lane.never).wait = .run) →
    fetchLine s c (s.ctxOf c k) pc = (u, .line l) → lineKind l = 0 → flagsClear w.flags (lineWait l) = true → flagsFit w.flags l = true →
    let z := noteFetch u c k pc
    (lineTgt l 0 = true ∨ ∃ v, z.warp? c k = some v ∧ v.entered = true) →
    let ls := live.map (fun i => ({ slot := k, lane := i } : LaneRef))
    let v := enterLanes z c pc ls
    exec (.clauseStart c (.part p)) s = .next { v with clauses :=
      { core := c, picker := .part p, addr := pc &&& ~~~63, line := l, entry := pc.toNat % 8, slot := pc.toNat % 8,
        guard := { neg := false, pred := 7 }, lanes := ls } :: v.clauses }) ∧
  (∀ c p s y, ((s.core c).warps.map Prod.fst).Nodup → pick s c p = some y → y.lanes ≠ [] ∧ ∀ r ∈ y.lanes, ∃ w,
    s.warp? c r.slot = some w ∧ w.part = p ∧ w.wg = y.wg ∧ w.trapped = false ∧ r.lane < 32 ∧
    (w.lanes.atD r.lane Lane.never).pc = y.pc ∧ (w.lanes.atD r.lane Lane.never).wait = .run ∧
    ((w.lanes.atD r.lane Lane.never).kind = .launched ∨ (w.lanes.atD r.lane Lane.never).kind = .helper) ∧
    ∀ x ∈ s.clauses, x.core = c → r ∉ x.lanes) ∧
  (∀ ls : List LaneRef, ((bundle ls).map LaneRef.lane).Nodup ∧ ∀ r ∈ bundle ls, ls.find? (fun q => q.lane = r.lane) = some r) ∧
  (∀ c s u l, idle s c .control → let y := (s.core c).ctrl
    y.loaded = true → y.halted = false → y.wait = .run → fetchLine s c y.ctx y.pc = (u, .line l) →
    exec (.clauseStart c .control) s = .next (if lineKind l = 0 then fly u c .control y.pc l [{ slot := ctrlSlot, lane := 0 }]
      else haltControl u c)) ∧
  (∀ c k s t u l, idle s c (.stream k) → (s.core c).streams.at? k = some t → t.started = true → t.stopped = false → t.ended = false →
    t.wait = .run → haltedLaunch s t.launch = false → fetchLine s c (streamCtx s t) t.pc = (u, .line l) → lineKind l = 1 →
    (t.entered = true ∨ lineTgt l 0 = true) →
    flagsClear t.flags (lineWait l) = true → flagsFit t.flags l = true →
    exec (.clauseStart c (.stream k)) s = .next (fly (u.modStream c k (fun t => { t with entered := true })) c (.stream k) t.pc l []))

/-- A STEP RUNS THE DECODED INSTRUCTION (R170, R176): with nothing prescribed and the power on, the clause at the head issues its
present slot: the instruction that the slot decodes to, under the guard that the slot encodes; what engines held back goes on
behind it, and time passes. That one slot of the clause at the head is one step (log 100), and that what the environment prescribes
comes first (log 3), are the model's choices. -/
def Obligations.StepRunsDecoded : Prop :=
  ∀ s x t i, s.agenda = [] → s.pow.off = false → s.clauses = x :: t → decodeSlot x.line x.slot = .ok i →
    step s = match exec i { s with clauses := { x with guard := guardOf (slotWord x.line x.slot) } :: t } with
      | .next u => .next (afterStep s u)
      | .fault f => .fault f
      | .refused r => .refused r

/-- A step takes what the environment prescribes: a hardware step or event at the head of the agenda; with the power off only a
reset acts. With nothing prescribed and no clause in flight, a step is the first hardware step that changes anything. After each
step the tick has risen by one. The spec gives the steps and events themselves; the agenda and the order in which they come (log 3), and
that nothing but a reset acts with the power off (log 88), are the model's choices. -/
def Obligations.StepTakesHardware : Prop :=
  (∀ s i t, s.agenda = i :: t → Instr.isEvent i = true → (s.pow.off = false ∨ i = .reset) →
    step s = match exec i { s with agenda := t } with
      | .next u => .next (afterStep s u)
      | .fault f => .fault f
      | .refused r => .refused r) ∧
  (∀ s i t, s.agenda = i :: t → s.pow.off = true → i ≠ .reset → step s = .next (afterStep s { s with agenda := t })) ∧
  (∀ s, s.agenda = [] → s.clauses = [] → s.pow.off = false → step s = .next (afterStep s (firstAuto s (autos s)))) ∧
  (∀ s a l, firstAuto s (a :: l) = match a.run s with
    | .next u => if u = s then firstAuto s l else u
    | _ => firstAuto s l) ∧
  ∀ s u,
    let v := syncRecord s (stepSettle s (settleInputs s (driveRun s (driveJobs (wakeRecords s (serveHeld (serveHome (flushDue u))))))))
    (afterStep s u).agenda = v.agenda ∧ (afterStep s u).tick = v.tick + 1

/-- MEMORY KEEPS ITS FORM (the model's, log 1): whatever a step does, the list that is the memory of the package and the list of each core
store stay in canonical form, addresses strictly rising and no byte of 0 listed, so that equal memories are equal data. -/
def Obligations.MemoryStaysFormed : Prop := ∀ s t, s.formed → step s = .next t → t.formed

/-- Words that are no instruction (R46, R186, R189, R190): the warps at the slot take the illegal-opcode or the illegal-encoding trap
with the lanes of the clause, and the clause ends; and a register field outside the allocation takes the register-range trap. -/
def Obligations.WordsRefused : Prop :=
  (∀ s x t e, s.agenda = [] → s.pow.off = false → s.clauses = x :: t → (∃ p, x.picker = .part p) → ctrlOpcode (slotWord x.line x.slot) = false →
    decodeSlot x.line x.slot = .error e →
    let u := x.slots.foldl (fun s k => raiseTrap s x.core k (match e with | .illegalOpcode => 0x01 | .illegalEncoding => 0x02) x.pc
      { lanes := maskOf (x.lanesOf k) }) s
    step s = .next (afterStep s { u with clauses := u.clauses.tail })) ∧
  (∀ i ops f s x k w, Issues s x k w → ctrlOnly i = false → rangeOk w.regs ops = false →
    issue i ops f s = endIssue x (raiseTrap s x.core k 0x05 x.pc { lanes := maskOf (x.lanesOf k) })) ∧
  (∀ n r p, rangeOk n [(.main r, p)] = decide (r.toNat + (match p with | .w32 => 1 | .w64 => 2 | .w128 => 4) ≤ n))

/-! ## Launches -/

/-- The registers of the application cores. A launch queue's (R142, R143, R145): a tail that would overfill the ring, or one of a queue
that programs submit to, sets the error bit and nothing else; so does a change of an enabled queue's configuration or base; with
the queue disabled and no launch taken, a new base, size or context discards its records. REGISTER_WRITE at a listed address is
that register's operation, or gives the plain register its fields (R29, R124, R169, R256, R311, R330, R337, R364, R369), and at an
address that no table lists the model stops. An application core's load reads memory or the register at its address, and its store
writes memory with its sectors published, the register at its address, or, in the error-log region, nothing (R27, R366). Of this
are the model's choices: how the application cores' accesses reach memory and the registers (logs 72, 73), that a new configuration
drops also the record at the head and the launches not yet checked (log 117), the least loss count of 1 (log 120), and the stop at an
address that no table lists (log 102). -/
def Obligations.Registers : Prop :=
  (∀ q v s, let y := s.lq q
     let n := v.toNat
     let used (e : Nat) : Nat := if e = 0 then 1 else if 12 < e then 12 else e
     let bad := Host.Outcome.next (s.modLq q (fun y => { y with err := true }))
     let taken : Prop := ∃ e ∈ s.launches, e.2.queue = q ∧ e.2.checked = true
     let dropped (u : State) : State := { u.modLq q (fun y => { y with head := 0, tail := 0, current := none }) with
       launches := s.launches.filterV (fun _ x => x.checked || x.queue != q) }
     (y.dev = false → n < y.slots →
       (y.tail + y.slots - y.head % y.slots) % y.slots + (n + y.slots - y.tail % y.slots) % y.slots ≤ y.slots - 1 →
       exec (.launchRegister q v) s = .next (s.modLq q (fun y => { y with tail := n, err := false }))) ∧
     (y.dev = true ∨ y.slots ≤ n ∨
       y.slots - 1 < (y.tail + y.slots - y.head % y.slots) % y.slots + (n + y.slots - y.tail % y.slots) % y.slots →
       exec (.launchRegister q v) s = bad) ∧
     (y.enable = true → ¬(n % 256 = y.ctx ∧ n / 256 % 4 = y.level ∧ used (n / 1024 % 16) = used y.size ∧ v.getLsbD 17 = y.dev) →
       exec (.lqcfgWrite q v) s = bad) ∧
     (y.enable = false ∨ (n % 256 = y.ctx ∧ n / 256 % 4 = y.level ∧ used (n / 1024 % 16) = used y.size ∧ v.getLsbD 17 = y.dev) →
       let u := s.modLq q (fun y =>
         { y with ctx := n % 256, level := n / 256 % 4, size := n / 1024 % 16, enable := v.getLsbD 16, dev := v.getLsbD 17, err := false })
       (y.enable = false → ¬ taken → used (n / 1024 % 16) ≠ used y.size ∨ n % 256 ≠ y.ctx → exec (.lqcfgWrite q v) s = .next (dropped u)) ∧
       (y.enable = true ∨ taken ∨ (used (n / 1024 % 16) = used y.size ∧ n % 256 = y.ctx) → exec (.lqcfgWrite q v) s = .next u)) ∧
     (y.enable = true → exec (.lqbaseWrite q v) s = bad) ∧
     (y.enable = false →
       let u := s.modLq q (fun y => { y with base := v &&& 0x000FFFFFFFFFFF00, err := false })
       (taken → exec (.lqbaseWrite q v) s = .next u) ∧ (¬ taken → exec (.lqbaseWrite q v) s = .next (dropped u)))) ∧
  (∀ s (v : DWord) q, q < 64 →
    let wr (a : Nat) : Result := exec (.registerWrite (BitVec.ofNat 64 (0x6000000000 + a)) v) s
    let b1 := v.getLsbD 1
    wr 0x10000 = .next { s with xl := { s.xl with ctxBase := v &&& 0x000FFFFFFFFFF000 } } ∧
    wr 0x10008 = (if v.getLsbD 2 then exec (.xlinvAll v) s else if b1 then exec (.xlinvContext v) s else exec (.xlinvGranule v) s) ∧
    wr 0x10018 = exec (.fqbaseWrite v) s ∧ wr 0x10028 = exec (.fqtailWrite v) s ∧
    wr 0x10030 = (if v.getLsbD 12 then exec (.fqresumeKill (v.setWidth 12)) s else exec (.fqresumeResume (v.setWidth 12)) s) ∧
    wr 0x20000 = .next { s with fab := { s.fab with timeout := max 1000 (v.toNat % 2 ^ 20) } } ∧
    wr 0x20008 = .next { s with fab := { s.fab with loss := max 1 (v.toNat % 2 ^ 24) } } ∧
    wr 0x20028 = .next { s with fab := { s.fab with mcIdx := v.setWidth 16 } } ∧ wr 0x20030 = exec (.fxmcdataWrite v) s ∧
    wr (0x30000 + 0x40 * q) = exec (.lqbaseWrite q v) s ∧ wr (0x30008 + 0x40 * q) = exec (.lqcfgWrite q v) s ∧
    wr (0x30010 + 0x40 * q) = exec (.launchRegister q v) s ∧
    wr 0x40000 = .next { s with dfqBase := v &&& 0x000FFFFFFFE00000 } ∧ wr 0x40008 = .next { s with bpBase := v &&& 0x000FFFFFFFFFF000 } ∧
    wr 0x40010 = .next { s with popBase := v &&& 0x000FFFFFFFE00000 } ∧ wr 0x40018 = .next { s with popSize := v.setWidth 32 } ∧
    (s.pre.busy = false → wr 0x50000 = .next { s with pre := { s.pre with mask := v } }) ∧
    wr 0x50008 = (if b1 then exec (.resume v) s else exec (.preempt v) s) ∧
    wr 0x60000 = exec (.rprun v) s ∧ wr 0x60008 = exec (.rpclose v) s ∧ wr 0x60010 = exec (.rpend v) s ∧
    wr 0x70008 = exec (.elreadWrite v) s ∧ wr 0x70018 = exec (.elckpt v) s ∧
    (bitsOf v.toNat 0 4 = 1 → wr 0x70040 = exec (.subcmdCore v) s) ∧ (bitsOf v.toNat 0 4 = 2 → wr 0x70040 = exec (.subcmdSlice v) s) ∧
    (bitsOf v.toNat 0 4 = 3 → wr 0x70040 = exec (.subcmdChannel v) s) ∧
    wr 0x80000 = exec (.pwclkWrite v) s ∧ wr 0x80008 = exec (.pwgateWrite v) s ∧ wr 0x80010 = exec (.pwrefWrite v) s ∧
    wr 0x80020 = exec (.pwtripclr v) s) ∧
  (∀ s a v, regRead s a.toNat = none → exec (.registerWrite a v) s = .refused (.noSuchRegister a.toNat)) ∧
  (∀ s (a : DWord) n,
    let answer (bs : List Byte) : Result := .next { s with host := { s.host with reads := s.host.reads ++ [bs] } }
    (a.toNat + n ≤ 0x6000000000 → exec (.applicationCoreMemoryAccess (.load a n)) s = answer (Mem.bytes s.mem a.toNat n)) ∧
    (0x6000000000 < a.toNat + n → ∀ v, regRead s a.toNat = some v →
      exec (.applicationCoreMemoryAccess (.load a n)) s = answer (leBytes n v))) ∧
  ∀ s (a : DWord) bs,
    (a.toNat + bs.length ≤ 0x5FF0000000 → bs ≠ [] → exec (.applicationCoreMemoryAccess (.store a bs)) s =
      .next (publishPkg { s with mem := Mem.splice s.mem a.toNat bs } (signature (sectorsOf a.toNat bs.length)))) ∧
    (0x5FF0000000 ≤ a.toNat → a.toNat + bs.length ≤ 0x6000000000 → exec (.applicationCoreMemoryAccess (.store a bs)) s = .next s) ∧
    (0x6000000000 < a.toNat + bs.length → (regRead s a.toNat).isSome = true → exec (.applicationCoreMemoryAccess (.store a bs)) s =
      exec (.registerWrite a (BitVec.ofNat 64 (leNat bs))) s)

/-- Reading and checking a launch record (R142, R144, R147 to R151, R157, R164, R310, R339): the head of an enabled queue is read, its
context and done address are checked, its wait words are polled, and once all are satisfied the lowest failing check rejects
it, with its done word and the queue's count, while a valid record is taken. DEPENDENCE_POLL does the first two for every queue, once
dispatch is enabled (R371). -/
def Obligations.LaunchRecords : Prop :=
  (∀ s, exec .dependencePoll s = .next (if s.ready then (List.range 64).foldl (fun u q => pollHead (takeHead u q) q) s else s)) ∧
  (∀ s q, let y := s.lq q
    y.enable = true → s.pre.active.getLsbD q = false → y.current = none → (y.tail + y.slots - y.head % y.slots) % y.slots ≠ 0 →
    (ctxUsable s y.ctx = false → takeHead s q = reject s q 0x16 none) ∧
    (ctxUsable s y.ctx = true → donePlace s y.ctx ((newLaunch s q).fld 0x58 8) = none → takeHead s q = reject s q 0x10 none) ∧
    (∀ pa, ctxUsable s y.ctx = true → donePlace s y.ctx ((newLaunch s q).fld 0x58 8) = some pa →
      takeHead s q = { s with fresh := s.fresh + 1, launches := s.launches.put s.fresh { newLaunch s q with donePa := pa } }.modLq q
        (fun y => { y with current := some s.fresh }))) ∧
  (∀ s q id x, (s.lq q).current = some id → s.launches.at? id = some x → x.checked = false → (s.lq q).enable = true →
    s.pre.active.getLsbD q = false →
    ((∃ i, i < 4 ∧ x.waits.getLsbD i = false ∧ readWait s x i = .bad) → pollHead s q = reject s q 0x10 (some x)) ∧
    (x.waits = 0 → (∀ i, i < 4 → readWait s x i = .yes) → ∃ y, (pollHead s q).launches.at? id = some y ∧ y.waits = 0xF) ∧
    (x.waits = 0xF → pollHead s q = s) ∧
    (x.waits = 0xF →
      (∀ n, checkStatus s x = some n → checkHead s q = reject s q n (some x)) ∧
      (checkStatus s x = none → checkHead s q = takeRecord s id x ∧ ∃ y, (checkHead s q).launches.at? id = some y ∧ y.checked = true))) ∧
  (∀ s x, checkStatus s x = [(recordInvalid s x, 0x10), (partitionInvalid x, 0x11), (tooLarge x, 0x12),
      ((x.flag 7 || x.repro) && decide (x.capacity < x.total) && !(x.flag 0 && x.flag 1), 0x13), (x.flag 5 && collectiveInvalid s x, 0x14),
      (x.flag 6 && populationInvalid s x, 0x15)].findSome? (fun e => if e.1 then some e.2 else none)) ∧
  (∀ s q n x, n < 256 → let t := reject s q n (some x)
    t.mem = Mem.wr s.mem x.donePa 8 (n + 2 ^ 32 * x.course) ∧ (t.lq q).status = BitVec.ofNat 8 n ∧
    (t.lq q).finished = (s.lq q).finished + 1 ∧ (t.lq q).head = ((s.lq q).head + 1) % (s.lq q).slots ∧ (t.lq q).current = none) ∧
  ∀ s x i, x.waitAddr i ≠ 0 → x.waitAddr i % 4 = 0 → ∀ e bits pa, regionOf (x.waitAddr i) = .general → walk s x.ctx (x.waitAddr i) = .leaf e bits →
    leafFault s (x.waitAddr i) e false false = none → leafPlace (x.waitAddr i) e bits = .mem pa →
    readWait s x i = if x.waitMin i ≤ Mem.rd s.mem (leafPa (x.waitAddr i) e bits) 4 then .yes else .no

/-- Placing workgroups (R44, R137, R146, R155, R157): a workgroup goes to as many cores of one cluster as it needs, each of which accepts
it; every warp is resident, with its number and its registers. A gang record is placed whole or not at all. DISPATCH_WORKGROUP
serves the highest level in which a queue's head can be placed, and does nothing before dispatch is enabled (R371). -/
def Obligations.Placement : Prop :=
  (∀ s idle id x g t, placeWg s idle id x g = some t → ∃ cores cl, cores.length = x.cpw ∧ cores.Nodup ∧
    (∀ c ∈ cores, c / 4 = cl ∧ accepts s idle id x c = true) ∧
    (∃ y, t.wgs.at? s.fresh = some y ∧ y.launch = id ∧ y.g = g ∧ y.cores = cores ∧ y.live = x.warps ∧
      y.x = g % x.gridX ∧ y.y = g / x.gridX % x.gridY ∧ y.z = g / x.gridX / x.gridY) ∧
    ∀ p, p < x.warps → ∃ c ∈ cores, ∃ k w, k < 48 ∧ t.warp? c k = some w ∧ w.launch = id ∧ w.wg = s.fresh ∧ w.warpid = p ∧ w.regs = x.regs) ∧
  (∀ idle id x n s g, placeAll idle id x n s g = (List.range n).foldlM (fun u i => placeWg u idle id x (g + i)) s) ∧
  (∀ s, s.ready = false → exec .dispatchWorkgroup s = .next s) ∧
  ∀ s, s.ready = true → (List.range 64).foldl (fun u q => checkHead (pollHead (takeHead u q) q) q) s = s → (∀ e ∈ s.launches, e.2.redo = []) →
    exec .dispatchWorkgroup s = .next (([3, 2, 1, 0].findSome? (serve s)).getD s) ∧
    (∀ level t, serve s level = some t → ∃ q, q < 64 ∧ (s.lq q).level = level ∧ ∃ u, placeHead s (idleFor s level) q = some u ∧
      t = { u with dispLast := u.dispLast.put level q }) ∧
    ∀ q id x, (s.lq q).current = some id → s.launches.at? id = some x → x.checked = true → x.killed = false → s.pre.active.getLsbD q = false →
      x.repro = false → ∀ idle, placeHead s idle q =
        if x.flag 7 && !(x.flag 0 && x.flag 1) then (placeAll idle id x x.total s 0).map (fun u => placed u id q x.total)
        else (placeWg s idle id x x.next).map (fun u => placed u id q 1)

/-- The end of a launch (R71, R130, R144, R149). DONE_WORD_WRITE completes: once every workgroup of the launch has been placed and has
ended, no chunk is due, no stream of it stands, its reduce block has written its flags, and no engine keeps what its cores wrote
from going home, it publishes that, stores the status and the course, and lets the launch, its population and its queue slot go. SWAP_OUT
completes (R160, R161): of a running swappable launch it saves the workgroup that has not issued for longest, and in its place it
restores the one swapped out earliest, or else seats the next that was never placed. Where the freed cores cannot hold that one (R43, R44),
it goes where the dispatcher finds room, which is the model's choice (log 128). -/
def Obligations.LaunchEnds : Prop :=
  (∀ id s x, s.launches.at? id = some x → x.checked = true → x.total ≤ x.next → x.redo = [] → x.total ≤ x.ended → x.due = [] →
    (∀ e ∈ s.wgs, e.2.launch ≠ id) → (∀ e ∈ s.cores, ∀ y ∈ e.2.streams, y.2.launch ≠ id) →
    (x.killed = true ∨ x.flag 5 = false ∨ chunksHere s x = [] ∨ x.reduce = 1) → (∀ c ∈ x.ran, wbHeld s c = false) →
    ∃ t, exec (.doneWordWrite id) s = .next t ∧
    Mem.rd t.mem x.donePa 8 = (if x.killed then 3 else if x.lost || x.reduceLost then 2 else 1) + 2 ^ 32 * x.course ∧
    t.launches.at? id = none ∧ (∀ e ∈ t.pops, e.2.launch ≠ id) ∧ (t.lq x.queue).finished = (s.lq x.queue).finished + 1) ∧
  (∀ id s x g y, s.launches.at? id = some x → x.swaps = true → x.checked = true → x.killed = false → s.pre.active.getLsbD x.queue = false →
    let mine := (launchWgs s id).map Prod.fst
    leastBy (wgIssue s) (mine.filter (fun g => wgWarps s g != [])) = some g → s.wgs.at? g = some y →
    let u := saveWg s g (recAddr x y.g)
    let out := mine.filter (fun g => match s.wgs.at? g with | some y => y.saved.isSome && wgWarps s g = [] | none => false)
    (∀ h v, leastBy (fun g => match s.wgs.at? g with
        | some y => (match y.saved with | some v => v.tick | none => 0)
        | none => 0) out = some h → (u.wgs.at? h).bind Wg.saved = some v →
      (∀ t, canHold u id h x y.cores = true → restoreOn u h id x v y.cores = some t → exec (.swapOut id) s = .next t) ∧
      (canHold u id h x y.cores = false ∨ restoreOn u h id x v y.cores = none →
        exec (.swapOut id) s = .next ((restoreWg u h).getD u))) ∧
    (out = [] → x.next < x.total → ∀ z, u.launches.at? id = some z → z.next < z.total →
      (∀ t, canHold u id u.fresh z y.cores = true → seatWg u id z z.next y.cores = some t →
        exec (.swapOut id) s = .next (placed t id z.queue 1)) ∧
      (canHold u id u.fresh z y.cores = false ∨ seatWg u id z z.next y.cores = none →
        exec (.swapOut id) s = .next (((placeWg u (idleFor u (u.lq z.queue).level) id z z.next).map (fun v => placed v id z.queue 1)).getD u)))) ∧
  (∀ s id wg x l, canHold s id wg x l = true ↔ ∀ c ∈ l, coreUp s c = true ∧ mayHold s c id wg x = true) ∧
  -- Nothing waits to come in: nothing goes out.
  (∀ id s x, s.launches.at? id = some x → x.total ≤ x.next → (∀ e ∈ launchWgs s id, e.2.saved = none) → exec (.swapOut id) s = .next s) ∧
  ∀ (key : Nat → Nat) l a, leastBy key l = some a → a ∈ l ∧ ∀ b ∈ l, key a ≤ key b

/-- Collectives (R67, R70, R77, R165, R166): a receiver of a chunk is the member whose rank is the chunk modulo the members, or with a
group every member; once every contribution has landed, or the wait for them has ended, an idle core takes the reduce block,
which owns the lines of the results; it combines the landed contributions of each chunk in member order, element by element,
publishes, and writes each chunk's flag: the low half of the course, and status 1, or 3 where contributions were lost. A fault on the
way fails the launch (R35). Two parts of this are the model's choices: results that a command of 256 granules cannot cover are written by
passes, each owning its own lines, with one publication at the end (log 115), and when the wait for contributions ends (log 8). -/
def Obligations.Collectives : Prop :=
  (∀ s x c, receives s x c = (x.coll 4 2 != 0 || c % (membersIn (x.coll 2 2)).length == rankIn (x.coll 2 2) s.fab.index)) ∧
  (∀ id s x c, s.launches.at? id = some x → x.checked = true → x.flag 5 = true → x.reduce = 0 → x.counter = 0 ∨ x.reduceLost = true →
    x.killed = false → reduceCore s = some c → let lines := passLines s x
    recordsFree s (granulesOf lines) = true →
    let u := (engineStart s c (.reduce id) true lines).modCore c (fun y => { y with launch := some id })
    exec (.reduceBlockDispatch id) s = .next (u.modLaunch id (fun x => { x with reduce := c + 2 }))) ∧
  (∀ s c, reduceCore s = some c → c < 368 ∧ (s.core c).launch = none ∧ (s.core c).warps = [] ∧ (s.core c).streams = []) ∧
  (∀ id s x, s.launches.at? id = some x → x.checked = true → x.flag 5 = true → x.reduce = 0 → x.counter ≠ 0 →
    ((x.repro = false ∧ x.total ≤ x.next ∧ x.redo = [] ∧ x.total ≤ x.ended) ∨ ∃ p ∈ membersIn (x.coll 2 2), pkgLive s p = false) →
    exec (.collectiveTimeout id) s = .next (s.modLaunch id (fun x => { x with reduceLost := true }))) ∧
  -- A pass takes its records (R69); a later pass waits while a home slice lacks them.
  (∀ s id x, s.own.any (fun r => r.engine == EngineRef.reduce id) = true → reduceOwn s id x = some s) ∧
  (∀ s id x, passLines s x ≠ [] → s.own.any (fun r => r.engine == EngineRef.reduce id) = false →
    (recordsFree s (granulesOf (passLines s x)) = true →
      reduceOwn s id x = some (engineStart s (x.reduce - 2) (.reduce id) true (passLines s x))) ∧
    (recordsFree s (granulesOf (passLines s x)) = false → reduceOwn s id x = none)) ∧
  (∀ s x, ((passParts s x).map (fun p => p.2.1 / 65536)).eraseDups.length ≤ 256 ∧ passParts s x <+: (resultParts s x).drop x.pass) ∧
  (∀ id s x, s.launches.at? id = some x → 2 ≤ x.reduce →
    let leave (s : State) : State := (freeOwnership s (.reduce id)).modCore (x.reduce - 2) (fun y => { y with launch := none })
    (reduceOwn s id x = none → exec (.reduceBlockDone id) s = .next s) ∧
    ∀ s0, reduceOwn s id x = some s0 →
    (∀ u sec, reducePass s0 x = some (u, sec) →
      let n := x.pass + (passParts s x).length
      let v := enginePublish u none sec
      let flags := (chunksHere v x).foldlM (fun s c => (reduceWrite s x.ctx (x.coll 0x28 8 + 4 * c)
        (leBytes 4 (x.course % 2 ^ 16 * 2 ^ 16 + if x.reduceLost then 3 else 1))).map Prod.fst) v
      let done (w : State) : State := (leave w).modLaunch id (fun x => { x with reduce := 1, lost := x.lost || x.reduceLost })
      exec (.reduceBlockDone id) s = .next (
        if n < (resultParts s x).length then (freeOwnership u (.reduce id)).modLaunch id (fun x => { x with pass := n, wrote := sec })
        else match flags with
          | some w => done w
          | none => killLaunch (done v) id)) ∧
    (reducePass s0 x = none →
      exec (.reduceBlockDone id) s = .next (killLaunch ((leave s0).modLaunch id (fun x => { x with reduce := 1 })) id))) ∧
  (∀ s x c p ps, arrivedIn x c = p :: ps → reduceChunk s x c = ps.foldlM (fun acc q =>
    (vaBytes s x.ctx (x.coll 0x18 8 + (16 * c + q) * x.coll 8 4) (x.coll 8 4)).map (reduceBytes (x.coll 0 1) acc))
    =<< vaBytes s x.ctx (x.coll 0x18 8 + (16 * c + p) * x.coll 8 4) (x.coll 8 4)) ∧
  (∀ x c, arrivedIn x c = (membersIn (x.coll 2 2)).filter (fun p => x.landed.atD (16 * c + p) 0 = x.coll 8 4)) ∧
  (∀ a b c d : Nat, a < 2 ^ 32 → b < 2 ^ 32 → c < 2 ^ 64 → d < 2 ^ 64 →
    leNat (reduceBytes 1 (leBytes 4 a) (leBytes 4 b)) = Flt.f32.add .rne a b ∧ leNat (reduceBytes 2 (leBytes 4 a) (leBytes 4 b)) = (a + b) % 2 ^ 32 ∧
    leNat (reduceBytes 3 (leBytes 4 a) (leBytes 4 b)) = Flt.f32.pickP true a b ∧
    leNat (reduceBytes 4 (leBytes 8 c) (leBytes 8 d)) = Flt.f64.add .rne c d) ∧
  ∀ s id c p n x, s.launches.at? id = some x → ∃ y, (landed s id c p n).launches.at? id = some y ∧
    y.landed.atD (16 * c + p) 0 = min (x.coll 8 4) (x.landed.atD (16 * c + p) 0 + n) ∧
    y.counter = if x.landed.atD (16 * c + p) 0 < x.coll 8 4 ∧ x.coll 8 4 ≤ x.landed.atD (16 * c + p) 0 + n then x.counter - 1 else x.counter

/-! ## Addresses, the fault queue, and the environment -/

/-- Addresses (R20, R22 to R27): the regions of the address space; the self window shows a warp its own registers and the scratchpad
window its workgroup's partition; and a walk of four valid levels gives the page of the last entry, an entry without its valid
bit the not-present cause. -/
def Obligations.Addresses : Prop :=
  (∀ va, regionOf va =
    if va < 0xE000000000000 then .general
    else if va < 0xF000000000000 then .peer ((va - 0xE000000000000) / 2 ^ 44)
    else if va < 0xF0000000C0000 then .self (va - 0xF000000000000)
    else if 0xF000001000000 ≤ va ∧ va < 0xF000001400000 then .scratch ((va - 0xF000001000000) / 2 ^ 20) (va % 2 ^ 20)
    else if 0xF000010000000 ≤ va ∧ va < 0xF000011000000 then .debug (va - 0xF000010000000)
    else if va < 2 ^ 52 then .reserved else .nonCanonical) ∧
  (∀ s c k w x n write, k < Config.warpSlots → s.warp? c k = some w → x < 0xC0000 → n ≤ 8 →
    let kind : AccKind := if write then .store else .load
    resolveNow s (whoOf s c k) { kind := kind, write := write, odd := false, width := n } (0xF000000000000 + x) =
      (s, if w.base ≤ x ∧ x + n ≤ w.base + 128 * w.regs then .ok (.store c x) 0 else .fault 4)) ∧
  (∀ s c k w g q y n, k < Config.warpSlots → s.warp? c k = some w → s.wgs.at? w.wg = some g → q < 4 → y < 2 ^ 20 →
    let t := c / 4 * 4 + q
    resolveNow s (whoOf s c k) { kind := .load, write := false, odd := false, width := n } (0xF000001000000 + q * 2 ^ 20 + y) =
      (s, if t ∈ g.cores ∧ y + n ≤ spSize (s.core t).part then .ok (.store t (spBase (s.core t).part + y)) 0 else .fault 4)) ∧
  (∀ (s : State) (ctx va w0 e0 e1 e2 e3 : Nat), s.xl.ctxBase ≠ 0 → s.xl.ctxBase.toNat + 16 * ctx + 16 ≤ Config.memTop →
    let field (e lo n : Nat) : Nat := e / 2 ^ lo % 2 ^ n
    let table (e size : Nat) : Prop := field e 0 2 = 1 ∧ field e 52 12 = 0 ∧ field e 2 6 = 0 ∧ field e 8 44 * 256 % size = 0 ∧
      field e 8 44 * 256 + size ≤ Config.memTop
    let at_ (tab lo n : Nat) : Nat := tab + 8 * field va lo n
    Mem.rd s.mem (s.xl.ctxBase.toNat + 16 * ctx) 8 = w0 → Mem.rd s.mem (s.xl.ctxBase.toNat + 16 * ctx + 8) 8 = 0 →
    field w0 0 1 = 1 → field w0 1 15 = 0 → field w0 52 12 = 0 → field w0 16 36 * 65536 + 65536 ≤ Config.memTop →
    Mem.rd s.mem (at_ (field w0 16 36 * 65536) 39 13) 8 = e0 → table e0 4096 →
    Mem.rd s.mem (at_ (field e0 8 44 * 256) 30 9) 8 = e1 → table e1 4096 → Mem.rd s.mem (at_ (field e1 8 44 * 256) 21 9) 8 = e2 → table e2 256 →
    Mem.rd s.mem (at_ (field e2 8 44 * 256) 16 5) 8 = e3 →
    (field e3 0 1 = 0 → walk s ctx va = .fault 0) ∧
    (field e3 0 2 = 3 → field e3 57 7 = 0 → field e3 8 44 * 256 % 65536 = 0 → field e3 8 44 * 256 + 65536 ≤ Config.memTop →
      field e3 5 1 = 1 ∨ field e3 52 4 = 0 → walk s ctx va = .leaf e3 16)) ∧
  (∀ va e bits, leafPlace va e bits = (let pa := e / 2 ^ 8 % 2 ^ 44 * 256 + va % 2 ^ bits
    if e.testBit 5 then .peer (e / 2 ^ 52 % 16) pa else if e.testBit 3 then .side pa else .mem pa))

/-- Walks, invalidation and the fault queue (R29 to R33, R35, R36, R38): TRANSLATION_WALK_DONE fills the caches and lets the accesses
that waited go on, or has them join a record or trap; XLINV drops what its command names and is busy until the accesses
translated before are performed; an answer lets every waiter of a record go on, or gives each the fatal trap; FQTAIL frees
records, FQBASE moves the ring while it is empty. That XLINV drops the entries already when the command is accepted (log 85), and which
of its addresses a killed waiter's trap names (log 67), are the model's choices. -/
def Obligations.Translation : Prop :=
  let walkers (s : State) (c k : Nat) (p : Nat → Bool) : List Nat :=
    waiting s c k (fun w => match w with | .walk va kind _ => kind != .ifetch && p va.toNat | _ => false)
  let slots (s : State) (c ctx : Nat) : List Nat := ((s.core c).warps.filterV (fun k _ => s.ctxOf c k = ctx)).map Prod.fst
  (∀ c ctx va s u e bits, translateNow s c ctx va.toNat (walkGrants s c ctx va.toNat) = (u, .leaf e bits) → exec (.translationWalkDone c ctx va) s =
    .next ((slots s c ctx).foldl (fun s k => wakeAll s c k (walkers s c k (fun a => a / 2 ^ bits = va.toNat / 2 ^ bits))) u)) ∧
  (∀ c ctx va s u f, translateNow s c ctx va.toNat (walkGrants s c ctx va.toNat) = (u, .fault f) → exec (.translationWalkDone c ctx va) s =
    .next ((slots s c ctx).foldl (fun s k =>
      let ls := walkers s c k (fun a => a / 65536 = va.toNat / 65536)
      if ls = [] then s else walkFails s c k f ls) u)) ∧
  (∀ s v, let n := v.toNat
    let ctx := n / 2 ^ 3 % 2 ^ 8
    let hits (kind : Nat) (e : TlbEntry) : Bool :=
      if kind = 0 then e.ctx = ctx && e.page = n / 2 ^ 16 % 2 ^ 36 * 65536 / 2 ^ e.bits else if kind = 1 then e.ctx = ctx else true
    let form (i : Instr) (kind : Nat) : Prop := n % 2 = 1 → n / 2 % 4 = kind → n / 2 ^ 52 = 0 → n / 2 ^ 11 % 2 ^ 5 = 0 →
      (s.xl.invBusy = false → ∃ t, exec i s = .next t ∧ t.xl.invBusy = true ∧ t.xl.invErr = false ∧ t.xl.invCmd = some v ∧ t.mem = s.mem ∧
        (∀ c y, s.cores.at? c = some y → (t.core c).tlb = y.tlb.filter (fun e => !hits kind e)) ∧
        (∀ d, t.xl.dieTlb.atD d [] = (s.xl.dieTlb.atD d []).filter (fun e => !hits kind e)) ∧
        ∀ d, t.xl.walks.atD d [] = (s.xl.walks.atD d []).filter (fun e =>
          !(if kind = 0 then e.ctx = ctx && e.page = n / 2 ^ 16 % 2 ^ 36 * 65536 / 2 ^ e.bits else if kind = 1 then e.ctx = ctx else true))) ∧
      (s.xl.invBusy = true → exec i s = .next { s with xl := { s.xl with invErr := true } })
    form (.xlinvGranule v) 0 ∧ form (.xlinvContext v) 1 ∧ form (.xlinvAll v) 2) ∧
  (∀ s v, s.xl.invCmd = some v → (∀ e ∈ s.ops, ∀ a ∈ e.2.lanes, ∃ c off, a.place = .debug c off) →
    (∀ e ∈ s.cores, coreAsks s e.2 (fun _ => true) = false) → (∀ e ∈ s.launches, e.2.asked = [] ∧ e.2.polls = []) →
    (∀ e ∈ s.jobs, e.2.asked = none) → (∀ o, s.rep.opening = some o → o.asked = none) →
    ∃ t, exec .xlinvComplete s = .next t ∧ t.xl.invBusy = false ∧ t.xl.invCmd = none) ∧
  (∀ i s r, recordAt s i.toNat = some r →
    let s1 := endOrphans (answered s r.id) r.id
    let resumed (s : State) : State := (parkedOn s r.id).foldl (fun s e => wakeAll s e.1 e.2.1 e.2.2) s
    (∀ x ∈ (answered s r.id).xl.faults, x.id ≠ r.id) ∧
    exec (.fqresumeResume i) s = .next (
      let s3 := (streamsOn (resumed s1) r.id).foldl (fun s e => s.modStream e.1 e.2 (fun t => { t with wait := .run })) (resumed s1)
      wakeSaved ((copiesOn s3 r.id).foldl (fun s e => s.modCmd e.1 e.2.1 (fun x => { x with parked := none })) s3) r.id) ∧
    (streamsOn s1 r.id = [] → copiesOn s1 r.id = [] → (∀ e ∈ s1.wgs, e.2.saved = none) → ∀ c k ls, parkedOn s1 r.id = [(c, k, ls)] →
      (∀ l ∈ ls, (s1.lane c k l).wait.faultKind.ofEngine = false) → k ≠ ctrlSlot → ∃ t, exec (.fqresumeKill i) s = .next t ∧
        ∀ w, s1.warp? c k = some w → w.trapped = false → (∀ l, (w.lanes.atD l Lane.never).wait.killedBy = none) →
          ∃ v, t.warp? c k = some v ∧ v.trapped = true ∧ v.cause = 0x07 ∧ v.trapPc = (s1.lane c k (ls.headD 0)).pc)) ∧
  (∀ i s, recordAt s i.toNat = none → exec (.fqresumeResume i) s = .next s ∧ exec (.fqresumeKill i) s = .next s) ∧
  (∀ s v, let t := v.toNat % 8192
    let n := (s.xl.fqHead + 8192 - t) % 8192
    (n ≤ 4096 → n ≤ ringCount s.xl → exec (.fqtailWrite v) s =
      .next (writeFaults { s with xl := { s.xl with fqTail := t } } s.xl.faults.length)) ∧
    (4096 < n ∨ ringCount s.xl < n → exec (.fqtailWrite v) s = .next s)) ∧
  ∀ s v, let b := v &&& 0x000FFFFFFFFFF000
    (b = s.xl.fqBase → exec (.fqbaseWrite v) s = .next s) ∧
    (b ≠ s.xl.fqBase → s.xl.fqHead = s.xl.fqTail → s.xl.faults = [] →
      exec (.fqbaseWrite v) s = .next { s with xl := { s.xl with fqBase := b, fqHead := 0, fqTail := 0 } }) ∧
    (b ≠ s.xl.fqBase → s.xl.faults ≠ [] → exec (.fqbaseWrite v) s = .next { s with xl := { s.xl with invErr := true } })

/-- Packets at their owner (R71, R94, R100, R106 to R112, R119, R123, R165): a malformed packet, and one of a lost source, is discarded and
logged. A load request is answered with the bytes; a store writes the bytes of its mask and is acknowledged once they are
published; an atomic, or several combined, act in one read and one write and answer the old value. An access to a line that an
engine owns is held. A multicast delivers here and goes on by the group's ports; a copy write counts toward its landing area. On a
memory-side page level 2 holds no line and no engine owns one (R28, R68). The tags, bit 8 of an atomic's length, the mark of a memory-side
page and the note of a count raised for a clone (log 54), the detail that a discarded packet's event carries (log 74), and the hint default
for what a packet writes here (log 126) are the model's choices. -/
def Obligations.PacketsServed : Prop :=
  (∀ p s, pkOk p = false ∨ pkgLive s (pkSrc p) = false → let t := discard s p
    exec (.loadRequest p) s = .next t ∧ exec (.store p) s = .next t ∧ exec (.atomic p) s = .next t ∧
    exec (.combinedAtomic p) s = .next t ∧ exec (.loadReply p) s = .next t ∧ exec (.acknowledgement p) s = .next t ∧
    exec (.multicastStore p) s = .next t ∧ exec (.copyWrite p) s = .next t) ∧
  (∀ p s, exec (.invalidPacket p) s = .next (if pkOk p then s
    else logEvent s 11 ((portsTo s (pkSrc p)).headD 0) (p.hdr.toNat % 2 ^ 96))) ∧
  (∀ p s, pkOk p = true → pkgLive s (pkSrc p) = true →
    let a := pkAddr p
    let q := pkSrc p
    let reply (u : State) (bs : List Byte) : Result := .next (answer u p 4 a bs)
    let ack (u : State) : Result := .next (answer u p 5 a [])
    -- In a run, the package's warp is noted as a writer of the line (R100).
    let noted := notePeer s p
    let side : Prop := pkGroup p ≠ 0
    let mask := BitVec.ofNat 128 (leNat (p.payload.take 16))
    let n := (pkTy p).bits / 8
    let op (old : Nat) (v nv : Nat) : Nat := (atomNew (pkAtomOp p) (pkTy p) old v nv).1
    let old := Mem.rd s.mem a n
    let atom (v : Nat) : Result :=
      let raised : Prop := s.pops ≠ [] ∧ pkKind p = 2 ∧ side ∧ pkTag p / 2 ^ 56 = 3 ∧ pkAtomOp p = .add ∧ leNat (p.payload.take 8) = 1
      let w := if raised then { noted with fab := { s.fab with raised := s.fab.raised ++ [(q, a)] } } else noted
      let u := publishPkg (if side then w.wrMem a n v else l2Write (w.wrMem a n v) a n .dflt) (signature [a / 32])
      if (pkLen p).testBit 8 then reply u (leBytes n old) else ack u
    (pkKind p = 0 → a + pkLen p ≤ Config.memTop → side ∨ lineHeld s a false = false →
      exec (.loadRequest p) s = reply (if side then s else l2Touch s a .dflt) (Mem.bytes s.mem a (pkLen p))) ∧
    (pkKind p = 1 → a + (128 - a % 128) ≤ Config.memTop → side ∨ lineHeld s a true = false →
      let w := writePayload noted a p.payload
      exec (.store p) s = ack (publishPkg (if side then w.1 else l2Access w.1 (a / 128) .dflt mask mask) (signature w.2))) ∧
    (pkKind p = 2 → a + n ≤ Config.memTop → side ∨ lineHeld s a true = false →
      exec (.atomic p) s = atom (op old (leNat (p.payload.take 8)) (leNat ((p.payload.drop 8).take 8)))) ∧
    (pkKind p = 3 → a + n ≤ Config.memTop → side ∨ lineHeld s a true = false →
      exec (.combinedAtomic p) s = atom ((pkVals p).foldl (fun x v => op x v 0) old)) ∧
    (pkKind p = 0 → a + pkLen p ≤ Config.memTop → ¬ side → lineHeld s a false = true →
      exec (.loadRequest p) s = .next { s with fab := { s.fab with heldHere := s.fab.heldHere ++ [p] } }) ∧
    (pkKind p = 6 → let e := groupEntry s (pkGroup p)
      (e.getLsbD 18 = true → a + 128 ≤ Config.memTop ∧ lineHeld s a true = false) →
      let u := { s with fresh := s.fresh + 1 }
      let r := multicastHere (if e.getLsbD 18 && e.getLsbD 19 then notePeer u p else u) p (fwdTag s.fresh) .dflt
      let y : OwedAck := { up := q, tag := pkTag p, drained := pkBreakdown p, awaits := r.2 }
      exec (.multicastStore p) s = .next (if r.2 = 0 then sendReplyTo r.1 p 5 (pkTag p) 0 []
        else { r.1 with fab := { r.1.fab with owedAcks := r.1.fab.owedAcks.put s.fresh y } })) ∧
    (pkKind p = 7 → pkGroup p = 0 → pkHops p = 0 → a + (128 - a % 128) ≤ Config.memTop →
      exec (.copyWrite p) s = .next (let w := copyWriteHere s q a p.payload
        sendReplyTo (publishPkg w.1 (signature w.2)) p 5 (pkTag p) 0 [])) ∧
    (pkKind p = 4 → ∀ o l d t pa, s.ops.at? (tagOp (pkTag p)) = some o → pkTag p < 2 ^ 56 → o.lanes = [l] → l.lane = tagLane (pkTag p) →
      l.sent = true → l.place = .peer q pa → o.body = .load d t false → o.width ≠ 128 → isWaitAcc l = false →
      exec (.loadReply p) s = .next (settleOps (finishLoad s (tagOp (pkTag p)) o l (leNat (p.payload.take o.width))) o.owner.core)) ∧
    (pkKind p = 5 → ∀ o l pa, s.ops.at? (tagOp (pkTag p)) = some o → pkTag p < 2 ^ 56 → o.lanes = [l] → l.lane = tagLane (pkTag p) →
      l.sent = true → l.place = .peer q pa → o.body = .store →
      exec (.acknowledgement p) s = .next (settleOps (finishStore s (tagOp (pkTag p)) o l) o.owner.core))) ∧
  -- A group with no valid entry takes nothing; with only the local delivery the bytes are written and published here.
  (∀ s p t h, (groupEntry s (pkGroup p)).getLsbD 19 = false → multicastHere s p t h = (logEvent s 11 0 (pkGroup p), 0)) ∧
  (∀ s p t h, groupEntry s (pkGroup p) = 0xC0000#32 → pkHops p < 3 → let w := writePayload s (pkAddr p) p.payload
    let mask := BitVec.ofNat 128 (leNat (p.payload.take 16))
    multicastHere s p t h = (publishPkg (l2Access w.1 (pkAddr p / 128) h mask mask) (signature w.2), 0)) ∧
  -- The payload of a store: the mask, then the bytes from the lowest to the highest masked one.
  (∀ s a pl i, i < 128 → let m := BitVec.ofNat 128 (leNat (pl.take 16))
    let lo := ((List.range 128).filter (fun i => m.getLsbD i)).headD 0
    Mem.byte (writePayload s a pl).1.mem (a / 128 * 128 + i) =
      if m.getLsbD i then (pl.drop 16).getD (i - lo) 0 else Mem.byte s.mem (a / 128 * 128 + i)) ∧
  (∀ s id o a q pa, o.body = .store → pkgLive s q = true → a.place = .peer q pa → a.sw = false →
    performLane s id o a = sendStore s id o a q pa) ∧
  -- Routing at the source (R112): by the shortest direct queue, unless that holds more than 24 flits and a detour's is shorter; with no
  -- direct link up, by a detour; with neither, the packet waits.
  (∀ s p, sendPacket s p = match route s (pkDst p) with
    | some q => { s with fab := { s.fab with sent := (q, p) :: s.fab.sent } }
    | none => { s with fab := { s.fab with stalled := s.fab.stalled ++ [p] } }) ∧
  (∀ s d, route s d = none ↔ portsTo s d = [] ∧ detours s d = []) ∧
  ∀ s d q, route s d = some q →
    (q ∈ portsTo s d → ∀ r ∈ portsTo s d, portQueue s q ≤ portQueue s r) ∧
    (q ∉ portsTo s d → (∃ r ∈ detours s d, q ∈ portsTo s r) ∧ ∀ r ∈ portsTo s d, 24 < portQueue s r ∧ portQueue s q < portQueue s r)

/-- Links, relays, recovery and lost members (R104, R105, R112 to R116, R118, R120 to R124): a link goes down or up, and what waits for a
route tries again; a relayed packet goes on by a direct link, or waits at the port it came in by; a held input becomes suspect, and the
recovery token drains it into the breakdown lane and passes on; a member declared lost is no longer live, and the first to declare it
tells the others; a group entry is written while the table is not busy. When the table is done with the old entry (log 91), that only a
port with a link comes up (log 34), what the event of a lost or discarded packet names (log 74), and where a token and a notice carry
their epoch and package (log 54) are the model's choices. -/
def Obligations.FabricEvents : Prop :=
  let fab (s : State) (f : Fabric → Fabric) : State := { s with fab := f s.fab }
  let pass (s : State) (epoch : Word) (t : State) : Prop :=
    let u := (inputsByAge s).foldl (fun s i => if s.fab.suspect.getLsbD i then drainInput s i else s) (fab s (fun y => { y with epoch := epoch }))
    ∀ q p ps, nextLive u = some q → portsTo u q = p :: ps →
      t = fab u (fun y => { y with sent := (p, { hdr := mkHdr 8 u.fab.index q 0 0 0 0 0 epoch.toNat, payload := [] }) :: y.sent })
  (∀ q s, exec (.linkDown q) s = .next (fab s (fun y => { y with up := y.up &&& ~~~(1#18 <<< q) }))) ∧
  (∀ q s, s.fab.linked.getLsbD q = true → exec (.linkUp q) s =
    .next (retryWaiting (fab s (fun y => { y with up := y.up ||| (1#18 <<< q) })))) ∧
  (∀ s p q, s.fab.stalled = [p] → s.fab.inputs = [] → s.fab.breakdown = [] → route s (pkDst p) = some q →
    retryWaiting s = fab s (fun y => { y with
      stalled := [], sent := (q, p) :: y.sent, suspect := y.suspect &&& ~~~(1#19 <<< 18), since := y.since.put 18 s.tick })) ∧
  -- The inputs of a suspect router, the one that has held its head longest first (R115).
  (∀ s, (inputsByAge s).Perm (List.range 19) ∧ (inputsByAge s).Pairwise (fun i j => s.fab.since.atD i 0 ≤ s.fab.since.atD j 0)) ∧
  (∀ i p s, pkOk p = true → pkgLive s (pkSrc p) = true → pkDst p ≠ s.fab.index → s.fab.index < 16 → pkgLive s (pkDst p) = true →
    (∀ q ps, portsTo s (pkDst p) = q :: ps → ∃ t, exec (.relayedPacket { port := i, packet := p }) s = .next (fab s (fun y => { y with sent := (q, t) :: y.sent })) ∧
      t.payload = p.payload ∧ pkRelayed t = true ∧ pkRelay t = s.fab.index ∧ pkDst t = pkDst p ∧ pkAddr t = pkAddr p) ∧
    (portsTo s (pkDst p) = [] → exec (.relayedPacket { port := i, packet := p }) s =
      .next (fab s (fun y => { y with inputs := y.inputs.put i (y.inputs.atD i [] ++ [p]) })))) ∧
  (∀ i p s, pkOk p = false ∨ pkgLive s (pkSrc p) = false → exec (.relayedPacket { port := i, packet := p }) s = .next (discard s p) ∧
    exec (.recoveryToken p) s = .next (discard s p) ∧ exec (.lossNotice p) s = .next (discard s p)) ∧
  (∀ i s, i < 18 → s.fab.inputs.atD i [] ≠ [] → exec (.routerHoldTimeout i) s =
    .next (fab s (fun y => { y with suspect := y.suspect ||| (1#19 <<< i) }))) ∧
  (∀ s, s.fab.stalled ≠ [] → exec (.routerHoldTimeout 18) s = .next (fab s (fun y => { y with suspect := y.suspect ||| (1#19 <<< 18) }))) ∧
  (∀ s i p t q ps, i < 18 → s.fab.inputs.atD i [] = p :: t → portsTo s (pkDst p) = q :: ps →
    drainInput s i = fab s (fun y => { y with suspect := y.suspect &&& ~~~(1#19 <<< i), drained := (y.drained + 1) % 2 ^ 32
                                              inputs := y.inputs.put i t, sent := (q, { p with hdr := (relayed s p).hdr ||| 32 }) :: y.sent })) ∧
  -- Without a link the packet takes the input's reserved buffer, one for requests and one for replies, where that is free (R116).
  (∀ s i p t, i < 18 → s.fab.inputs.atD i [] = p :: t → portsTo s (pkDst p) = [] →
    (bufferFree s i p = false → drainInput s i = s) ∧
    (bufferFree s i p = true → drainInput s i = fab s (fun y => { y with
      suspect := y.suspect &&& ~~~(1#19 <<< i), drained := (y.drained + 1) % 2 ^ 32, inputs := y.inputs.put i t
      breakdown := y.breakdown ++ [(i, { p with hdr := (relayed s p).hdr ||| 32 })] }))) ∧
  (∀ p s, pkOk p = true → pkgLive s (pkSrc p) = true → pkKind p = 8 → let epoch : Word := BitVec.ofNat 32 (pkTag p)
    (s.fab.epoch.toNat ≤ epoch.toNat → 1 < s.fab.size → ∃ t, exec (.recoveryToken p) s = .next t ∧ pass s epoch t) ∧
    (epoch.toNat < s.fab.epoch.toNat → exec (.recoveryToken p) s = .next s)) ∧
  (∀ s, 1 < s.fab.size → (membersIn s.fab.live.toNat).head? = some s.fab.index →
      ∃ t, exec .tokenReissue s = .next t ∧ pass s (s.fab.epoch + 1) t) ∧
  (∀ p s, pkOk p = true → pkgLive s (pkSrc p) = true → pkKind p = 9 → exec (.lossNotice p) s = .next (declareLost s (pkTag p))) ∧
  (∀ q s, q ≠ s.fab.index → pkgLive s q = true → exec (.lossTimeout q) s = .next (sendNotices (declareLost s q) q) ∧
    exec (.fatalErrorReport q) s = .next (sendNotices (declareLost s q) q)) ∧
  (∀ q s, q = s.fab.index ∨ pkgLive s q = false → declareLost s q = s ∧ exec (.lossTimeout q) s = .next s ∧
    exec (.fatalErrorReport q) s = .next s) ∧
  (∀ q s, q ≠ s.fab.index → pkgLive s q = true → s.ops = [] → s.cores = [] → s.launches = [] → s.jobs = [] → s.fab.owedAcks = [] →
    s.rep.opening = none → s.rep.isOpen = false → (∀ b ∈ s.fab.breakdown, ¬(pkKind b.2 = 8 ∧ pkDst b.2 = q)) →
    let keep (p : Packet) : Bool := pkDst p != q && pkSrc p != q
    let t := declareLost s q
    -- Its packets here go, those on their way to it too; nothing else changes but the log.
    (t.fab.live = s.fab.live &&& ~~~(1#16 <<< q) ∧ t.fab.stalled = s.fab.stalled.filter keep ∧
      t.fab.inputs = s.fab.inputs.mapV (fun _ l => l.filter keep) ∧ t.fab.breakdown = s.fab.breakdown.filter (fun b => keep b.2) ∧
      t.fab.heldHere = s.fab.heldHere.filter (fun p => pkSrc p != q) ∧ t.fab.sent = s.fab.sent ∧
      t.fab.raised = s.fab.raised.filter (fun e => e.1 != q)) ∧
    (s.fab.stalled = [] → s.fab.inputs = [] → s.fab.breakdown = [] → s.fab.heldHere = [] → s.fab.raised = [] →
      t = logEvent (fab s (fun y => { y with live := y.live &&& ~~~(1#16 <<< q) })) 10 ((portsTo s q).headD 0) q)) ∧
  -- A token on its way to the lost package goes to the next live one (R115).
  (∀ q s, q ≠ s.fab.index → pkgLive s q = true → s.ops = [] → s.cores = [] → s.launches = [] → s.jobs = [] → s.fab.owedAcks = [] →
    s.rep.opening = none → s.rep.isOpen = false → s.fab.stalled = [] → s.fab.inputs = [] → s.fab.heldHere = [] →
    s.fab.raised = [] → ∀ p, s.fab.breakdown = [(19, p)] → pkKind p = 8 → pkDst p = q → pkSrc p ≠ q →
      declareLost s q = passOnToken (logEvent (fab s (fun y => { y with live := y.live &&& ~~~(1#16 <<< q), breakdown := [] }))
        10 ((portsTo s q).headD 0) q) (pkTag p)) ∧
  (∀ v s, let bad := 2 ^ 20 ≤ v.toNat % 2 ^ 32 ∨ ∃ q, q < 18 ∧ v.getLsbD q = true ∧ s.fab.linked.getLsbD q = false
    (s.fab.mcBusy = true ∨ bad → exec (.fxmcdataWrite v) s = .next (fab s (fun y => { y with mcErr := true }))) ∧
    (s.fab.mcBusy = false → ¬ bad → exec (.fxmcdataWrite v) s = .next (fab s (fun y => { y with
      mcErr := false, mcBusy := true, groups := y.groups.putD y.mcIdx.toNat (v.setWidth 32) 0
      mcOld := (copiesWaiting s).filter (fun p => pkGroup p = y.mcIdx.toNat) })))) ∧
  -- The update is done once every copy made under the old entry has been sent.
  ∀ s, ((∀ p ∈ s.fab.mcOld, p ∉ copiesWaiting s) → exec .mcUpdateDone s = .next (fab s (fun y => { y with mcBusy := false, mcOld := [] }))) ∧
    ((∃ p ∈ s.fab.mcOld, p ∈ copiesWaiting s) → exec .mcUpdateDone s = .next s)

/-! ## Reliability, power and reset -/

/-- Corrected errors, lanes, substitution and the error log (R105, R361 to R368): a corrected error changes nothing that a program can
see, is logged and is counted in the present hour of `%time`, and the count that reaches the threshold of its unit recommends it once; a
line with a clean copy below it is dropped, to be fetched again; an entry names its sequence number, the time, its kind, source and
detail and the hash of the entry before; a full ring counts the event. An accepted SUBCMD makes the unit busy until SUBSTITUTION_DONE maps
it onto a spare. A power-down that the host commands checkpoints first, and so does a reset that is asked for. A halted control core's
firmware is loaded anew, and dispatch is enabled once every core's is (R326, R371). The reset brings every register to its default, with
the boot entry behind the head in flash (R371, R373), and a package lost before stays lost unless every package is reset (R123, R372).
Of this are the model's choices: which count crosses (log 71), the numbering of units by die (log 92), where firmware starts (log 32), what a
reset is, and that a power-down or a firmware that fails to verify leaves only a reset (log 88), that a hash of 0 in flash is the first
boot (log 35), and what survives a reset besides (log 1). -/
def Obligations.Reliability : Prop :=
  (∀ s u k a, ∃ t, exec (.correctedError u k a) s = .next t ∧ (k ≠ .refetched → t.cores = s.cores ∧ t.l2 = s.l2) ∧
    (k = .refetched →
      (∀ c, u = .core c → t.l2 = s.l2 ∧ (t.core c).l1 = (s.core c).l1.filter (fun l => !(l.line = localKey a.toNat && l.written = 0))) ∧
      (∀ d, u = .slice d → t.cores = s.cores ∧ t.l2 = s.l2.filter (fun l => !(l.line = a.toNat / 128 && l.written = 0 && l.pins = 0)))) ∧
    t.wgs = s.wgs ∧ t.launches = s.launches ∧
    t.ops = s.ops ∧ t.clauses = s.clauses ∧ (∀ b, b < 0x5FF0000000 → Mem.byte t.mem b = Mem.byte s.mem b) ∧
    (∀ q, t.lqs.at? q = s.lqs.at? q) ∧ (k ≠ .appCore → s.rel.head - s.rel.read < 3932160 → s.rel.head < t.rel.head) ∧
    -- One of the two spare application cores takes the place of an active one, while one is left (R2, R361).
    (k = .appCore → (s.rel.spares.atD 0x50 0 < 2 → (∀ i, u = .appCore i → i < 16) →
        t.rel.spares.atD 0x50 0 = s.rel.spares.atD 0x50 0 + 1 ∧ (s.rel.head - s.rel.read < 3932160 → s.rel.head < t.rel.head)) ∧
      (2 ≤ s.rel.spares.atD 0x50 0 → t = s)) ∧
    (k ≠ .appCore → k ≠ .lost → let counts := if s.now / 3600000000000 = s.rel.hour then s.rel.counts else []
      let n := counts.atD (unitKey u) 0 + 1
      t.rel.counts = counts.put (unitKey u) n ∧ t.rel.hour = s.now / 3600000000000 ∧
      (unitThreshold s u = some n → unitKey u ∈ t.rel.recs) ∧ (unitThreshold s u ≠ some n → t.rel.recs = s.rel.recs)) ∧
    (k = .lost → a.toNat / 65536 ∈ t.rel.badLines)) ∧
  (∀ s kind source detail, s.rel.head - s.rel.read < 3932160 → (s.rel.head + 1) % 65536 ≠ 0 →
    let e := leBytes 8 s.rel.head ++ leBytes 8 s.now ++ leBytes 2 kind ++ leBytes 2 source ++ leBytes 12 detail ++ leBytes 32 s.rel.hash.toNat
    let t := logEvent s kind source detail
    (∀ i, i < 64 → Mem.byte t.mem (0x5FF0000000 + 64 * (s.rel.head % 3932160) + i) = e.getD i 0) ∧
    t.rel.head = s.rel.head + 1 ∧ t.rel.hash = sha256 e) ∧
  (∀ s kind source detail, 3932160 ≤ s.rel.head - s.rel.read →
    logEvent s kind source detail = { s with rel := { s.rel with lost := s.rel.lost + 1 } }) ∧
  (∀ s, (s.now / 3600000000000 = s.rel.hour → exec .errorCountHour s = .next s) ∧
    (s.now / 3600000000000 ≠ s.rel.hour →
      exec .errorCountHour s = .next { s with rel := { s.rel with counts := [], hour := s.now / 3600000000000 } })) ∧
  (∀ s p, exec (.flitCrcFail p) s = .next (countError s (.port p))) ∧
  (∀ s p, s.fab.spare.getLsbD p = true → s.rel.head - s.rel.read < 3932160 → ∃ t, exec (.laneFailure p) s = .next t ∧
    t.fab = { s.fab with up := s.fab.up &&& ~~~(1#18 <<< p) } ∧ 0x40000 + p ∈ t.rel.recs) ∧
  (∀ s p, s.fab.spare.getLsbD p = false → ∃ t, exec (.laneFailure p) s = .next t ∧
    t.fab = { s.fab with spare := s.fab.spare ||| (1#18 <<< p) } ∧ t.cores = s.cores) ∧
  (∀ s (v : DWord), v.getLsbD 63 = true → s.rel.subBusy = false →
    ((∀ e ∈ s.launches, e.2.checked = false) ∨ (s.pre.halted = true ∧ s.pre.mask = BitVec.allOnes 64)) →
    let die := bitsOf v.toNat 8 4
    let unit := bitsOf v.toNat 16 16
    let go (k : Nat) : State := { s with rel := { s.rel with subErr := false, subBusy := true, sub := some { kind := k, die := die, unit := unit } } }
    (bitsOf v.toNat 0 4 = 1 → die < 4 → unit < 92 → s.rel.spares.atD (16 + die) 0 < 4 → exec (.subcmdCore v) s = .next (go 0)) ∧
    (bitsOf v.toNat 0 4 = 2 → die < 4 → unit < 80 → s.rel.spares.atD (32 + die) 0 < 4 → exec (.subcmdSlice v) s =
      .next { go 1 with l2 := s.l2.filter (fun l => homeSlice (128 * l.line) != 80 * die + unit) }) ∧
    (bitsOf v.toNat 0 4 = 3 → die < 8 → unit < 32 → s.rel.spares.atD (48 + die) 0 < 1 → exec (.subcmdChannel v) s = .next (go 2))) ∧
  (∀ s (v : DWord), v.getLsbD 63 = true → (∃ e ∈ s.launches, e.2.checked = true) → s.pre.halted = false → bitsOf v.toNat 0 4 = 1 →
    exec (.subcmdCore v) s = .next { s with rel := { s.rel with subErr := true } }) ∧
  (∀ s x, s.rel.sub = some x → x.kind ≠ 0 → ∃ t, exec .substitutionDone s = .next t ∧ t.rel.subBusy = false ∧ t.rel.sub = none ∧
    substKey x ∉ t.rel.recs ∧ t.cores = s.cores ∧ t.rel.spares.atD (16 * (x.kind + 1) + x.die) 0 =
      s.rel.spares.atD (16 * (x.kind + 1) + x.die) 0 + 1) ∧
  (∀ s x, s.rel.sub = some x → x.kind = 0 → (s.core (92 * x.die + x.unit)).warps = [] → (s.core (92 * x.die + x.unit)).streams = [] →
    engineIdle (s.core (92 * x.die + x.unit)) = true →
    ∃ t, exec .substitutionDone s = .next t ∧ t.rel.subBusy = false ∧ t.rel.sub = none ∧ (t.core (92 * x.die + x.unit)).tlb = []) ∧
  (∀ s (v : DWord), (v.toNat < s.rel.read ∨ s.rel.head < v.toNat → exec (.elreadWrite v) s = .next s) ∧
    (s.rel.read ≤ v.toNat → v.toNat ≤ s.rel.head → s.rel.lost = 0 →
      exec (.elreadWrite v) s = .next { s with rel := { s.rel with read := v.toNat } }) ∧
    (s.rel.read ≤ v.toNat → v.toNat ≤ s.rel.head → s.rel.lost ≠ 0 → s.rel.head - v.toNat < 3932160 →
      exec (.elreadWrite v) s = .next (logEvent { s with rel := { s.rel with read := v.toNat, lost := 0 } } 14 0 (s.rel.lost % 2 ^ 96)))) ∧
  (∀ s, exec (.elckpt 1) s = .next (checkpoint s) ∧ (checkpoint s).rel.flashHash = s.rel.hash ∧ (checkpoint s).rel.flashSeq = s.rel.head - 1 ∧
    ∀ b, b < 0x5FFF000000 → Mem.byte (checkpoint s).mem b = Mem.byte s.mem b) ∧
  (∀ s, s.pow.off = false → exec .hostCommandedPowerDown s =
    .next { checkpoint s with pow := { s.pow with off := true } }) ∧
  (∀ s c ctx pc, (s.core c).ctrl.loaded = false ∨ (s.core c).ctrl.halted = true →
    ∃ t, exec (.controlCoreFirmwareReload c ctx pc) s = .next t ∧ t.mem = s.mem ∧ (t.core c).warps = (s.core c).warps ∧
      (t.core c).ctrl = { Control.reset with loaded := true, ctx := ctx, pc := pc } ∧
      t.ready = (s.ready || decide (368 ≤ (t.cores.filterV (fun _ y => y.ctrl.loaded)).length)) ∧
      ∀ z ∈ t.clauses, ¬(z.core = c ∧ z.picker = .control)) ∧
  (∀ tick f p, (∃ e ∈ f.reach, e.2 = p) → f.live.getLsbD p = false → p ≠ (wired tick f).index →
    (trained tick false f).live.getLsbD p = false) ∧
  ∀ s, let how := s.host.resets.headD { all := false, asked := true, verified := true }
    ∃ t, exec .reset s = .next t ∧ t.cores = [] ∧ t.launches = [] ∧ t.wgs = [] ∧ t.ops = [] ∧ t.lqs = [] ∧ t.xl = State.reset.xl ∧
    t.dfqBase = 0 ∧ t.bpBase = 0 ∧ t.popBase = 0 ∧ t.popSize = 0 ∧ t.rep.isOpen = false ∧ t.pre.halted = false ∧ t.ready = false ∧
    t.pow.clk = 0 ∧ t.pow.ref = false ∧ t.pow.gate = 0 ∧ t.rel.read = 0 ∧ t.host.resets = s.host.resets.tail ∧
    (how.verified = false → t.pow.off = true ∧ t.mem = [] ∧ t.fab = s.fab) ∧
    (how.verified = true → t.pow.off = false ∧ t.fab = trained s.tick how.all s.fab ∧ t.fab.timeout = 16000 ∧ t.fab.loss = 1000 ∧
      (s.pow.off = false → how.asked = true → t.rel.head = (if s.rel.hash = 0 then 0 else s.rel.head - 1 + 1) + 1) ∧
      (s.pow.off = true ∨ how.asked = false → t.rel.head = (if s.rel.flashHash = 0 then 0 else s.rel.flashSeq + 1) + 1))

/-- Power (R369, R370): a clock point, gate or refresh written while idle takes effect as the rule says, a write while busy sets error,
a die at 105 °C trips to clock point 3 and doubled refresh, in the trip state a write changes only what is stored, and the trip
state is left below 95 °C, the stored values taking effect again. A trip changes nothing else but the log. That PWTRIPCLR on a hot die
sets the error bit, and that an accepted write clears it, are the model's choices (log 89). -/
def Obligations.Power : Prop :=
  (∀ s (v : DWord), s.pow.busy = true → let bad := { s with pow := { s.pow with err := true } }
    exec (.pwclkWrite v) s = .next bad ∧ exec (.pwgateWrite v) s = .next bad ∧ exec (.pwrefWrite v) s = .next bad ∧
    exec (.pwtripclr v) s = .next bad) ∧
  (∀ s (v : DWord), s.pow.busy = false →
    exec (.pwclkWrite v) s = .next { s with pow := { s.pow with clk := v.toNat % 4, err := false, busy := !s.pow.trip } } ∧
    (s.pow.trip = false →
      exec (.pwrefWrite v) s = .next { s with pow := { s.pow with ref := v.getLsbD 0, err := false, effRef := v.getLsbD 0 } }) ∧
    (s.pow.trip = true → exec (.pwrefWrite v) s = .next { s with pow := { s.pow with ref := v.getLsbD 0, err := false } }) ∧
    ((∀ d, d < 4 → v.getLsbD d = true → dieBusy s d = false) →
      exec (.pwgateWrite v) s = .next { s with pow := { s.pow with gate := v.setWidth 4, err := false } }) ∧
    ((∃ d, d < 4 ∧ v.getLsbD d = true ∧ s.pow.gate.getLsbD d = false ∧ dieBusy s d = true) →
      exec (.pwgateWrite v) s = .next { s with pow := { s.pow with err := true } })) ∧
  (∀ s, s.pow.busy = true → s.pow.trip = false →
    exec .clockChangeEffective s = .next { s with pow := { s.pow with busy := false, eff := s.pow.clk } }) ∧
  (∀ s (v : DWord), v.getLsbD 0 = true → s.pow.trip = true → s.pow.busy = false →
    ((∀ e ∈ s.pow.temps, e.2 < 95) →
      exec (.pwtripclr v) s = .next { s with pow := { s.pow with trip := false, err := false, busy := true, effRef := s.pow.ref } }) ∧
    ((∃ e ∈ s.pow.temps, 95 ≤ e.2) → exec (.pwtripclr v) s = .next { s with pow := { s.pow with err := true } })) ∧
  (∀ s die temp, let p := { s.pow with temps := s.pow.temps.put die temp }
    (temp < 105 → exec (.thermalTrip die temp) s = .next { s with pow := p }) ∧
    (105 ≤ temp → exec (.thermalTrip die temp) s =
      .next (logEvent { s with pow := { p with trip := true, busy := false, eff := 3, effRef := true } } 9 die temp)))

/-! ## Pre-emption and runs -/

/-- Pre-emption (R155, R330 to R332) and reproducible runs (R337, R338, R340, R344, R346): what each command is accepted for and does,
and what it is refused for. How long the halt took is the model's free value (log 68); that a manifest which would not lie in local
memory is refused (log 69), how GET_MEASUREMENTS frames its answer (log 70), that an accepted command clears PRSTAT's error (log 89), and
that a course commits in the step COURSE_COMMIT (log 91), are the model's choices. -/
def Obligations.PreemptionAndRuns : Prop :=
  let badPr (s : State) : Result := .next { s with pre := { s.pre with err := true } }
  let badRp (s : State) : Result := .next { s with rep := { s.rep with err := true } }
  (∀ s (v : DWord), (s.pre.busy = true → exec (.preempt v) s = badPr s ∧ exec (.resume v) s = badPr s) ∧
    (v.toNat / 4 ≠ 0 → exec (.preempt v) s = badPr s ∧ exec (.resume v) s = badPr s) ∧
    (s.pre.busy = false → ∃ t, exec (.preempt 1) s = .next t ∧ t.pre.active = s.pre.active ||| s.pre.mask ∧ t.pre.busy = true ∧
      t.pre.halted = true ∧ t.pre.err = false ∧ t.pre.micros.toNat ≤ [20, 23, 28].getD s.pow.eff 40 ∧ t.cores = s.cores ∧ t.mem = s.mem ∧
      (∀ z ∈ t.clauses, z ∈ s.clauses ∧ (z.picker ≠ .control → ∀ id x, (s.core z.core).launch = some id → s.launches.at? id = some x →
        (s.pre.active ||| s.pre.mask).getLsbD x.queue = false))) ∧
    (s.pre.busy = false → s.pre.order = [] → exec (.resume 3) s =
      .next { s with pre := { s.pre with err := false, halted := false, active := 0 } })) ∧
  (∀ s, s.pre.busy = true → exec .preemptSaveComplete s =
    .next (let u := s.wgs.foldl (fun s (e : Nat × Wg) => preemptWg s e.1) s; { u with pre := { u.pre with busy := false } })) ∧
  (∀ s g z x, s.wgs.at? g = some z → s.launches.at? z.launch = some x → wgWarps s g ≠ [] →
    (stoppedLaunch s x = false → preemptWg s g = s) ∧
    (stoppedLaunch s x = true → x.killed = false → x.flag 2 = true → preemptWg s g = discardWg s g) ∧
    (stoppedLaunch s x = true → x.killed = false → x.flag 2 = false → x.saveArea ≠ 0 → let u := saveWg s g (recAddr x z.g)
      preemptWg s g = { u with pre := { u.pre with order := u.pre.order.filter (· != g) ++ [g] } })) ∧
  (∀ s g rest t, s.pre.halted = false → s.pre.order = g :: rest → restoreWg s g = some t →
    exec (.contextRestore g) s = .next { t with pre := { t.pre with
      order := stillSaved t (g :: rest), active := if stillSaved t (g :: rest) = [] then 0 else t.pre.active } }) ∧
  (∀ s (v : DWord), (s.rep.isOpen = true ∨ s.rep.busy = true → exec (.rprun v) s = badRp s)) ∧
  (∀ s (v : DWord), let a := v.toNat / 128 * 128
    let n := 0x80 + 32 * Mem.rd s.mem (a + 4) 2
    let d := Mem.bytes s.mem a n
    s.rep.isOpen = false → s.rep.busy = false → v.toNat < 2 ^ 52 → v.toNat % 128 = 1 →
      (a + n ≤ 0x5FF0000000 → descOk s d = true → exec (.rprun v) s = .next { s with rep := { s.rep with
        busy := true, err := false, opening := some { desc := d, hashes := [], bytes := [], asked := none } } }) ∧
      (0x5FF0000000 < a + n ∨ descOk s d = false → exec (.rprun v) s = badRp s)) ∧
  -- The opening of a run: each region is hashed line by line, whichever package holds the line; a fault opens no run; the run is open
  -- once every region has its digest.
  (∀ n s (o : RunOpen), let region := regionAt o.desc o.hashes.length
    let va := region.2.1 + o.bytes.length
    let k := min (128 - va % 128) (region.2.2 - o.bytes.length)
    (o.hashes.length < descFld o.desc 4 2 → region.2.2 ≤ o.bytes.length →
      hashRegions (n + 1) s o = hashRegions n s { o with hashes := o.hashes ++ [sha256 o.bytes], bytes := [] }) ∧
    (o.hashes.length < descFld o.desc 4 2 → o.bytes.length < region.2.2 →
      (∀ bs, readSource s region.1 va k = .here bs → hashRegions (n + 1) s o = hashRegions n s { o with bytes := o.bytes ++ bs }) ∧
      (∀ q pa, readSource s region.1 va k = .ask q pa → (hashRegions (n + 1) s o).rep.opening = some { o with asked := some (q, k) }) ∧
      (readSource s region.1 va k = .fault → hashRegions (n + 1) s o =
        { s with rep := { s.rep with busy := false, err := true, opening := none } })) ∧
    (descFld o.desc 4 2 ≤ o.hashes.length → ∀ old, old.rep.opening.isSome = true → s.rep.opening = some o → o.asked = none →
      driveRun old s = { s with rep := { s.rep with
        isOpen := true, busy := false, patched := false, first := BitVec.ofNat 32 (descFld o.desc 0 4 - 1) + 1
        committed := BitVec.ofNat 32 (descFld o.desc 0 4 - 1), closed := BitVec.ofNat 32 (descFld o.desc 0 4 - 1)
        memberLost := descFld o.desc 6 2 &&& s.fab.live.toNat != descFld o.desc 6 2
        members := BitVec.ofNat 16 (descFld o.desc 6 2), desc := o.desc, hashes := o.hashes, launches := [], runs := s.rep.runs + 1
        cfgHash := configDigest s, logOpen := s.rel.hash, subst := false, writers := [], snap := none, opening := none } })) ∧
  (∀ s (v : DWord), (s.rep.busy = false → v.toNat = s.rep.closed.toNat + 1 →
      exec (.rpclose v) s = .next { s with rep := { s.rep with closed := v.setWidth 32, err := false } }) ∧
    (v.toNat ≠ s.rep.closed.toNat + 1 → exec (.rpclose v) s = badRp s)) ∧
  (∀ s, (s.rep.isOpen = false ∨ s.rep.closed.toNat ≤ s.rep.committed.toNat ∨ s.rep.memberLost = true ∨ courseRuns s (s.rep.committed.toNat + 1) = true →
      exec .courseCommit s = .next s) ∧
    (∀ id, s.rep.isOpen = true → s.rep.committed.toNat < s.rep.closed.toNat → s.rep.memberLost = false → courseRuns s (s.rep.committed.toNat + 1) = false →
      s.rep.snap = some id → (∀ y ∈ s.track.snaps, y.id ≠ id) → let n := s.rep.committed.toNat + 1
      let u := { s with track := { s.track with snaps := s.track.snaps.filter (fun y => some y.id != some id) } }
      let v := dfReleaseAll u (fun e => e.repro && e.course.toNat = n)
      exec .courseCommit s = .next (wakeCourse { v with rep := { v.rep with
        committed := BitVec.ofNat 32 n, writers := [], snap := none } } n))) ∧
  (∀ s (v : DWord), (s.rep.isOpen = false ∨ s.rep.closed ≠ s.rep.committed ∨ (∃ e ∈ s.launches, e.2.repro = true) ∨ reproQueued s = true →
      exec (.rpend v) s = badRp s) ∧
    (s.rep.busy = false → s.rep.isOpen = true → s.rep.closed = s.rep.committed → (∀ e ∈ s.launches, e.2.repro = false) →
      reproQueued s = false → v.toNat < 2 ^ 52 → v.toNat % 4096 = 1 →
      let full := manifestBody s ++ leBytes 64 (Config.sign s.tick (sha256 (manifestBody s))).toNat
      exec (.rpend v) s = if 0x5FF0000000 < v.toNat / 4096 * 4096 + full.length then badRp s else .next { s with
        mem := Mem.splice s.mem (v.toNat / 4096 * 4096) full
        rep := { s.rep with isOpen := false, err := false, manifest := sha256 full } })) ∧
  ∀ s b signed, ∃ bs, exec (.getMeasurements b signed) s =
    .next { s with host := { s.host with spdm := s.host.spdm ++ [bs] } } ∧
    (b = 0x40 → signed = false → bs = leBytes 1 0x40 ++ leBytes 32 s.rep.manifest.toNat)

/-! ## Words, encodings and reset -/

/-- Decode and encode agree (R175 to R189): every well-formed instruction with a guard that its form allows is decoded back from its
word, with every field at every value and the guard with it; and a word that decodes is the word of what it decodes to, so that no
bit of an encoding is dropped. -/
def Obligations.DecodeAndEncodeAgree : Prop :=
  (∀ g i w, i.wf = true → i.guardOk g = true → encode g i = some w → decode (isStreamWord w) w = .ok i ∧ guardOf w = g) ∧
  ∀ access w i, decode access w = .ok i → encode (guardOf w) i = some w ∧ i.wf = true ∧ i.guardOk (guardOf w) = true

/-- Words written out field by field from the tables of R176 to R188 decode to their instructions: the two words of the manual's own
example, and one of each other format. -/
def Obligations.SampleWords : Prop :=
  let none12 : BitVec 12 := 0
  decode false 0x101C01000800C00018038000#96 =
    .ok (.add { d := .main 4, a := .main 2, b := .main 3, c := .main 0, rm := .rne, ty := .i32, opm := 0, pw := 7 }) ∧
  decode false 0x705E003C2340000000105000#96 = .ok (.st { data := .latch 0, addr := .wreg 8, index := .special 0, off := 0
                                                          hint := .dflt, scope := .wp, order := .plain, ty := .n32, fs := .none, mmod := 0 }) ∧
  decode false (0x001#10 ++ (7#4 ++ (0xFFFFFF#24 ++ (2#3 ++ (0#4 ++ (none12 ++ (none12 ++ 0#27))))))) =
    .ok (.bra { off := 0xFFFFFF, slot := 2, bar := 0, a := .main 0, d := .main 0 }) ∧
  decode false (0x05B#10 ++ (0xA#4 ++ (0x002#12 ++ (none12 ++ (0#3 ++ (0x0A#5 ++ (0#8 ++ (7#3 ++ (0#7 ++ 0xDEADBEEF#32))))))))) =
    .ok (.movi { d := .main 2, a := .main 0, rm := .rne, ty := .n32, opm := 0, pw := 7, imm := 0xDEADBEEF }) ∧
  decode false (0x28B#10 ++ (7#4 ++ (7#3 ++ (2#7 ++ (none12 ++ (none12 ++ (none12 ++ (0#2 ++ (0#2 ++ 0#32))))))))) =
    .ok (.cpkill { pw := 7, s7 := 2, a := .main 0, b := .main 0, c := .main 0, fs := .none, imm := 0 }) ∧
  decode false (0x342#10 ++ (7#4 ++ (3#3 ++ (0#8 ++ (0#8 ++ (0#8 ++ (none12 ++ (none12 ++ (none12 ++ (0#16 ++ (0#2 ++ 0#1))))))))))) =
    .ok (.tzero { tile := 3, swa := 0, swb := 0, swc := 0, ca := .main 0, cb := .main 0, cc := .main 0, xmod := 0, fs := .none }) ∧
  decode true (0x3C1#10 ++ (7#4 ++ (7#3 ++ 0#79))) = .ok .aend

/-- The machine after reset (R40, R142, R373): every register reads zero but LQCFG's E, which reads 1, FXTIMEOUT, FXLOSS and what the
span's training leaves; no queue is enabled, no run is open, the fault queue is disabled, no area is configured, no core holds a
context, dispatch is not enabled (R371), and memory, which then reads zero everywhere (log 1), has its canonical form. The model's choices
in what the registers read are LQCFG's 0x400 (log 101), ELHEAD's 0 before the boot entry (log 35), the temperature 0 (log 36), and 0 from a
register that the spec calls write-only (log 72). -/
def Obligations.ResetState : Prop :=
  let s := State.reset
  (∀ r ∈ [0x600001, 0x600004, 0x600005, 0x600006, 0x600007, 0x600008], ∀ off, off < 0x10000 → ∀ v,
    regRead s (r * 0x10000 + off) = some v → v = 0) ∧
  (∀ q, q < 64 → (∀ off ∈ [0x00, 0x10, 0x18, 0x20], regRead s (0x6000030000 + 0x40 * q + off) = some 0) ∧
    regRead s (0x6000030008 + 0x40 * q) = some 0x400 ∧ (s.lq q).enable = false) ∧
  regRead s 0x6000020000 = some 16000 ∧ regRead s 0x6000020008 = some 1000 ∧ s.xl.fqBase = 0 ∧ s.rep.isOpen = false ∧
  s.cores = [] ∧ s.launches = [] ∧ s.clauses = [] ∧ s.ops = [] ∧ s.ready = false ∧ Mem.wf s.mem = true ∧ ∀ a, Mem.byte s.mem a = 0

end
end

