-- ==== Sys2Proof/Laws/Mem.lean ====
section
/-! SUPPORT. Byte memory: every operation keeps the canonical form (log 1), a read after a write to the same place gives the
value written, and a write leaves every other place alone. The reading laws hold of any list, canonical or not. -/

namespace Sys2Proof.Machine.Mem

/-! ## Reading after writing -/

theorem byte_insert (m : Mem) (a b : Nat) (v : Byte) : Mem.byte (Mem.insert m a v) b = if b = a then v else Mem.byte m b := by
  induction m with
  | nil => by_cases h : a = b <;> simp [Mem.insert, Mem.byte, h, @eq_comm _ b a]
  | cons e m ih =>
    obtain ⟨c, w⟩ := e
    simp only [Mem.insert]
    split
    · simp only [Mem.byte]; by_cases h : a = b <;> simp [h, eq_comm]
    · split
      · rename_i h1 h2; subst h2; by_cases h : a = b <;> simp [Mem.byte, h, eq_comm]
      · rename_i h1 h2
        simp only [Mem.byte, ih]
        by_cases h : c = b
        · subst h; simp [Ne.symm h2]
        · simp [h]

theorem byte_filter (m : Mem) (p : Nat → Bool) (b : Nat) :
    Mem.byte (m.filter (fun c => p c.1)) b = if p b then Mem.byte m b else 0 := by
  induction m with
  | nil => simp [Mem.byte]
  | cons e m ih =>
    obtain ⟨c, w⟩ := e
    by_cases hc : p c
    · simp only [List.filter, hc, Mem.byte, ih]
      by_cases h : c = b
      · subst h; simp [hc]
      · simp [h]
    · simp only [List.filter, hc, Mem.byte, ih]
      by_cases h : c = b
      · subst h; simp [hc]
      · simp [h]

/-- A read after a write of one byte. -/
theorem byte_setByte (m : Mem) (a b : Nat) (v : Byte) : Mem.byte (Mem.setByte m a v) b = if b = a then v else Mem.byte m b := by
  unfold Mem.setByte
  split
  · rename_i h
    rw [byte_filter m (fun c => c != a)]
    by_cases h2 : b = a <;> simp [h, h2]
  · exact byte_insert m a b v

/-- A number written little-endian leaves every byte outside its n bytes alone. -/
theorem byte_wr_of_not_mem (m : Mem) (a n v b : Nat) (h : b < a ∨ a + n ≤ b) : Mem.byte (Mem.wr m a n v) b = Mem.byte m b := by
  induction n generalizing m a v with
  | zero => rfl
  | succ n ih =>
    rw [Mem.wr, ih _ _ _ (by omega), byte_setByte]
    simp [show b ≠ a by omega]

/-- The bytes of a number written little-endian. -/
theorem byte_wr (m : Mem) (a n v b : Nat) (h1 : a ≤ b) (h2 : b < a + n) :
    Mem.byte (Mem.wr m a n v) b = BitVec.ofNat 8 (v / 256 ^ (b - a)) := by
  induction n generalizing m a v with
  | zero => omega
  | succ n ih =>
    rw [Mem.wr]
    by_cases h : b = a
    · subst h
      rw [byte_wr_of_not_mem _ _ _ _ _ (by omega), byte_setByte]; simp
    · rw [ih _ _ _ (by omega) (by omega), Nat.div_div_eq_div_mul]
      congr 2
      rw [show b - a = (b - (a + 1)) + 1 by omega, Nat.pow_succ, Nat.mul_comm]

theorem rd_congr (m m' : Mem) (a n : Nat) (h : ∀ b, a ≤ b → b < a + n → Mem.byte m b = Mem.byte m' b) :
    Mem.rd m a n = Mem.rd m' a n := by
  induction n generalizing a with
  | zero => rfl
  | succ n ih =>
    simp only [Mem.rd]
    rw [h a (by omega) (by omega), ih (a + 1) (fun b h1 h2 => h b (by omega) (by omega))]

/-- A read of other bytes than those written. -/
theorem rd_wr_disjoint (m : Mem) (a n v b k : Nat) (h : b + k ≤ a ∨ a + n ≤ b) : Mem.rd (Mem.wr m a n v) b k = Mem.rd m b k :=
  rd_congr _ _ _ _ (fun c h1 h2 => byte_wr_of_not_mem m a n v c (by omega))

/-- A read after a write to the same place gives the value written. -/
theorem rd_wr_self (m : Mem) (a n v : Nat) : Mem.rd (Mem.wr m a n v) a n = v % 256 ^ n := by
  induction n generalizing m a v with
  | zero => simp [Mem.rd, Nat.mod_one]
  | succ n ih =>
    simp only [Mem.rd, Mem.wr]
    rw [ih, byte_wr_of_not_mem _ _ _ _ _ (by omega), byte_setByte]
    simp only [if_true, BitVec.toNat_ofNat]
    rw [show (256 : Nat) ^ (n + 1) = 256 * 256 ^ n from Nat.pow_succ', Nat.mod_mul]

theorem byte_wrBytes_of_not_mem (m : Mem) (a : Nat) (l : List Byte) (b : Nat) (h : b < a ∨ a + l.length ≤ b) :
    Mem.byte (Mem.wrBytes m a l) b = Mem.byte m b := by
  induction l generalizing m a with
  | nil => rfl
  | cons v l ih =>
    simp only [List.length_cons] at h
    rw [Mem.wrBytes, ih _ _ (by omega), byte_setByte]
    simp [show b ≠ a by omega]

theorem byte_wrBytes (m : Mem) (a : Nat) (l : List Byte) (i : Nat) (h : i < l.length) :
    Mem.byte (Mem.wrBytes m a l) (a + i) = l[i] := by
  induction l generalizing m a i with
  | nil => simp at h
  | cons v l ih =>
    rw [Mem.wrBytes]
    cases i with
    | zero => rw [byte_wrBytes_of_not_mem _ _ _ _ (by omega), byte_setByte]; simp
    | succ i =>
      rw [show a + (i + 1) = a + 1 + i by omega, ih _ _ _ (by simpa using h)]; simp

/-! ## The canonical form -/

/-- `wf` says of the tail what it says of the list, and that the tail's keys lie above. -/
theorem wf_cons (a : Nat) (v : Byte) (m : Mem) :
    Mem.wf ((a, v) :: m) = true ↔ v ≠ 0 ∧ (∀ c ∈ m, a < c.1) ∧ Mem.wf m = true := by
  induction m generalizing a v with
  | nil => simp [Mem.wf]
  | cons e m ih =>
    obtain ⟨b, w⟩ := e
    simp only [Mem.wf, Bool.and_eq_true, bne_iff_ne, decide_eq_true_eq, List.mem_cons, forall_eq_or_imp]
    constructor
    · rintro ⟨⟨h1, h2⟩, h3⟩
      exact ⟨h1, ⟨h2, fun c hc => Nat.lt_trans h2 (((ih b w).1 h3).2.1 c hc)⟩, h3⟩
    · rintro ⟨h1, ⟨h2, _⟩, h3⟩
      exact ⟨⟨h1, h2⟩, h3⟩

theorem wf_filter (m : Mem) (p : Host.Cell → Bool) (h : Mem.wf m = true) : Mem.wf (m.filter p) = true := by
  induction m with
  | nil => rfl
  | cons e m ih =>
    obtain ⟨a, v⟩ := e
    obtain ⟨h1, h2, h3⟩ := (wf_cons a v m).1 h
    by_cases hp : p (a, v)
    · rw [List.filter_cons_of_pos hp, wf_cons]
      exact ⟨h1, fun c hc => h2 c (List.mem_filter.1 hc).1, ih h3⟩
    · rw [List.filter_cons_of_neg hp]; exact ih h3

theorem mem_insert (m : Mem) (a : Nat) (v : Byte) (c : Host.Cell) (h : c ∈ Mem.insert m a v) : c = (a, v) ∨ c ∈ m := by
  induction m with
  | nil => simpa [Mem.insert] using h
  | cons e m ih =>
    obtain ⟨b, w⟩ := e
    simp only [Mem.insert] at h
    split at h
    · simpa using h
    · split at h
      · rcases List.mem_cons.1 h with h | h
        · exact .inl h
        · exact .inr (List.mem_cons_of_mem _ h)
      · rcases List.mem_cons.1 h with h | h
        · exact .inr (h ▸ List.mem_cons_self)
        · rcases ih h with h | h
          · exact .inl h
          · exact .inr (List.mem_cons_of_mem _ h)

theorem wf_insert (m : Mem) (a : Nat) (v : Byte) (hv : v ≠ 0) (h : Mem.wf m = true) : Mem.wf (Mem.insert m a v) = true := by
  induction m with
  | nil => simpa [Mem.insert, Mem.wf] using hv
  | cons e m ih =>
    obtain ⟨b, w⟩ := e
    obtain ⟨h1, h2, h3⟩ := (wf_cons b w m).1 h
    simp only [Mem.insert]
    split
    · rename_i hb
      rw [wf_cons]
      refine ⟨hv, fun c hc => ?_, h⟩
      rcases List.mem_cons.1 hc with rfl | hc
      · exact hb
      · exact Nat.lt_trans hb (h2 c hc)
    · split
      · rename_i hb; subst hb; rw [wf_cons]; exact ⟨hv, h2, h3⟩
      · rw [wf_cons]
        refine ⟨h1, fun c hc => ?_, ih h3⟩
        rcases mem_insert m a v c hc with rfl | hc
        · show b < a; omega
        · exact h2 c hc

theorem wf_setByte (m : Mem) (a : Nat) (v : Byte) (h : Mem.wf m = true) : Mem.wf (Mem.setByte m a v) = true := by
  unfold Mem.setByte
  split
  · exact wf_filter m _ h
  · exact wf_insert m a v ‹_› h

theorem wf_wr (m : Mem) (a n v : Nat) (h : Mem.wf m = true) : Mem.wf (Mem.wr m a n v) = true := by
  induction n generalizing m a v with
  | zero => exact h
  | succ n ih => exact ih _ _ _ (wf_setByte m a _ h)

theorem wf_wrBytes (m : Mem) (a : Nat) (l : List Byte) (h : Mem.wf m = true) : Mem.wf (Mem.wrBytes m a l) = true := by
  induction l generalizing m a with
  | nil => exact h
  | cons v l ih => exact ih _ _ (wf_setByte m a v h)

theorem wf_clear (m : Mem) (a n : Nat) (h : Mem.wf m = true) : Mem.wf (Mem.clear m a n) = true := wf_filter m _ h

theorem cells_range (a : Nat) (l : List Byte) : ∀ c ∈ Mem.cells a l, a ≤ c.1 ∧ c.1 < a + l.length := by
  induction l generalizing a with
  | nil => simp [Mem.cells]
  | cons v l ih =>
    intro c hc
    simp only [Mem.cells] at hc
    simp only [List.length_cons]
    split at hc
    · have := ih (a + 1) c hc; omega
    · rcases List.mem_cons.1 hc with rfl | hc
      · simp
      · have := ih (a + 1) c hc; omega

theorem wf_cells (a : Nat) (l : List Byte) : Mem.wf (Mem.cells a l) = true := by
  induction l generalizing a with
  | nil => rfl
  | cons v l ih =>
    simp only [Mem.cells]
    split
    · exact ih _
    · rw [wf_cons]
      exact ⟨‹_›, fun c hc => by have := cells_range (a + 1) l c hc; omega, ih _⟩

theorem wf_append (m n : Mem) (hm : Mem.wf m = true) (hn : Mem.wf n = true) (h : ∀ c ∈ m, ∀ d ∈ n, c.1 < d.1) :
    Mem.wf (m ++ n) = true := by
  induction m with
  | nil => exact hn
  | cons e m ih =>
    obtain ⟨a, v⟩ := e
    obtain ⟨h1, h2, h3⟩ := (wf_cons a v m).1 hm
    rw [List.cons_append, wf_cons]
    refine ⟨h1, fun c hc => ?_, ih h3 (fun c hc => h c (List.mem_cons_of_mem _ hc))⟩
    rcases List.mem_append.1 hc with hc | hc
    · exact h2 c hc
    · exact h (a, v) List.mem_cons_self c hc

theorem wf_splice (m : Mem) (a : Nat) (l : List Byte) (h : Mem.wf m = true) : Mem.wf (Mem.splice m a l) = true := by
  unfold Mem.splice
  apply wf_append
  · apply wf_append
    · exact wf_filter _ _ h
    · exact wf_cells a l
    · intro c hc d hd
      have h1 : c.1 < a := by simpa using (List.mem_filter.1 hc).2
      have h2 := cells_range a l d hd
      omega
  · exact wf_filter _ _ h
  · intro c hc d hd
    have h1 : a + l.length ≤ d.1 := by simpa using (List.mem_filter.1 hd).2
    rcases List.mem_append.1 hc with hc | hc
    · have h2 : c.1 < a := by simpa using (List.mem_filter.1 hc).2
      omega
    · have := cells_range a l c hc; omega

/-- Equal memories are equal data: two canonical lists that read the same at every address are the same list. -/
theorem ext_of_wf (m n : Mem) (hm : Mem.wf m = true) (hn : Mem.wf n = true) (h : ∀ a, Mem.byte m a = Mem.byte n a) : m = n := by
  have low : ∀ (m : Mem) (b : Nat), (∀ c ∈ m, b < c.1) → Mem.byte m b = 0 := by
    intro m b hb
    induction m with
    | nil => rfl
    | cons e m ih =>
      obtain ⟨a, v⟩ := e
      have := hb (a, v) List.mem_cons_self
      simp only [Mem.byte]
      rw [if_neg (by simp at this; omega), ih (fun c hc => hb c (List.mem_cons_of_mem _ hc))]
  induction m generalizing n with
  | nil =>
    cases n with
    | nil => rfl
    | cons e n =>
      obtain ⟨a, v⟩ := e
      exact absurd (by simpa [Mem.byte] using (h a).symm) ((wf_cons a v n).1 hn).1
  | cons e m ih =>
    obtain ⟨a, v⟩ := e
    obtain ⟨v0, vm, wm⟩ := (wf_cons a v m).1 hm
    cases n with
    | nil => exact absurd (by simpa [Mem.byte] using h a) v0
    | cons e2 n =>
      obtain ⟨b, w⟩ := e2
      obtain ⟨w0, vn, wn⟩ := (wf_cons b w n).1 hn
      have hab : a = b := by
        rcases Nat.lt_trichotomy a b with hl | hl | hl
        · have := h a
          simp only [Mem.byte, if_true] at this
          rw [if_neg (by omega), low n a (fun c hc => by have := vn c hc; omega)] at this
          exact absurd this v0
        · exact hl
        · have := h b
          simp only [Mem.byte, if_true] at this
          rw [if_neg (by omega), low m b (fun c hc => by have := vm c hc; omega)] at this
          exact absurd this.symm w0
      subst hab
      have hv : v = w := by have := h a; simpa [Mem.byte] using this
      subst hv
      rw [ih n wm wn (fun c => by
        by_cases hc : a = c
        · subst hc; rw [low m a vm, low n a vn]
        · have := h c; simpa [Mem.byte, hc] using this)]

end Sys2Proof.Machine.Mem
end

