-- ==== Sys2Proof/Laws/Map.lean ====
section
/-! SUPPORT. What the finite maps do: reading after setting, changing, removing. No law needs the keys to be in order. -/

namespace Sys2Proof.Machine.NMap

variable {α : Type}

@[simp] theorem at?_nil (k : Nat) : NMap.at? ([] : NMap α) k = none := rfl

theorem at?_cons (j : Nat) (v : α) (m : NMap α) (k : Nat) :
    NMap.at? ((j, v) :: m) k = if j = k then some v else NMap.at? m k := rfl

@[simp] theorem at?_put_self (m : NMap α) (k : Nat) (v : α) : (NMap.put m k v).at? k = some v := by
  induction m with
  | nil => simp [NMap.put, NMap.at?]
  | cons e m ih =>
    obtain ⟨j, w⟩ := e
    simp only [NMap.put]
    split
    · simp [NMap.at?]
    · split
      · simp [NMap.at?]
      · simp [NMap.at?, *]

theorem at?_put_ne (m : NMap α) (k j : Nat) (v : α) (h : j ≠ k) : (NMap.put m k v).at? j = NMap.at? m j := by
  induction m with
  | nil => simp [NMap.put, NMap.at?, Ne.symm h]
  | cons e m ih =>
    obtain ⟨i, w⟩ := e
    simp only [NMap.put]
    split
    · rename_i hi; subst hi; simp [NMap.at?, Ne.symm h]
    · split
      · simp [NMap.at?, Ne.symm h]
      · simp [NMap.at?, ih]

theorem at?_put (m : NMap α) (k j : Nat) (v : α) : (NMap.put m k v).at? j = if j = k then some v else NMap.at? m j := by
  split
  · rename_i h; subst h; simp
  · exact at?_put_ne m k j v ‹_›

theorem at?_del (m : NMap α) (k j : Nat) : (NMap.del m k).at? j = if j = k then none else NMap.at? m j := by
  induction m with
  | nil => simp [NMap.del, NMap.at?]
  | cons e m ih =>
    obtain ⟨i, w⟩ := e
    simp only [NMap.del, List.filter] at ih ⊢
    by_cases hi : i = k
    · subst hi
      by_cases hj : j = i
      · subst hj; simp [ih]
      · simp [ih, NMap.at?, hj, Ne.symm hj]
    · have : (i != k) = true := by simp [hi]
      simp only [this, NMap.at?]
      by_cases hj : i = j
      · subst hj; simp [hi]
      · simp [hj, ih]

theorem at?_upd (m : NMap α) (k j : Nat) (f : α → α) :
    (NMap.upd m k f).at? j = if j = k then (NMap.at? m k).map f else NMap.at? m j := by
  induction m with
  | nil => simp [NMap.upd, NMap.at?]
  | cons e m ih =>
    obtain ⟨i, w⟩ := e
    simp only [NMap.upd, List.map] at ih ⊢
    by_cases hi : i = k
    · subst hi
      by_cases hj : j = i
      · subst hj; simp [NMap.at?]
      · simp [NMap.at?, hj, Ne.symm hj] at ih ⊢; exact ih
    · by_cases hj : j = k
      · subst hj; simp [NMap.at?, hi] at ih ⊢; exact ih
      · simp [NMap.at?, hi, hj] at ih ⊢; rw [ih]

@[simp] theorem at?_upd_self (m : NMap α) (k : Nat) (f : α → α) : (NMap.upd m k f).at? k = (NMap.at? m k).map f := by
  simp [at?_upd]

theorem at?_putD [DecidableEq α] (m : NMap α) (k j : Nat) (v d : α) :
    (NMap.putD m k v d).at? j = if j = k then (if v = d then none else some v) else NMap.at? m j := by
  unfold NMap.putD
  split
  · rw [at?_del]
  · rw [at?_put]

@[simp] theorem atD_put_self (m : NMap α) (k : Nat) (v d : α) : (NMap.put m k v).atD k d = v := by simp [NMap.atD]

theorem atD_put (m : NMap α) (k j : Nat) (v d : α) : (NMap.put m k v).atD j d = if j = k then v else NMap.atD m j d := by
  simp only [NMap.atD, at?_put]; split <;> rfl

theorem atD_putD [DecidableEq α] (m : NMap α) (k j : Nat) (v d : α) :
    (NMap.putD m k v d).atD j d = if j = k then v else NMap.atD m j d := by
  simp only [NMap.atD, at?_putD]
  split
  · split <;> simp [*]
  · rfl

@[simp] theorem put_put (m : NMap α) (k : Nat) (v w : α) : (NMap.put m k v).put k w = NMap.put m k w := by
  induction m with
  | nil => simp [NMap.put]
  | cons e m ih =>
    obtain ⟨j, u⟩ := e
    simp only [NMap.put]
    split
    · simp [NMap.put]
    · split
      · simp [NMap.put]
      · simp [NMap.put, *]

@[simp] theorem upd_upd (m : NMap α) (k : Nat) (f g : α → α) : (NMap.upd m k f).upd k g = NMap.upd m k (fun x => g (f x)) := by
  simp only [NMap.upd, List.map_map]
  apply List.map_congr_left
  intro e _
  by_cases h : e.1 = k <;> simp [h]

end Sys2Proof.Machine.NMap
end

