-- ==== Sys2Proof/Laws/State.lean ====
section
/-! SUPPORT. What each named update of the state leaves alone: one lemma per update and field, and how the cores and warps read
after one. -/

namespace Sys2Proof.Machine.State

variable (s : State)

/-! ## `setCore` -/

@[simp] theorem setCore_tick (c : Nat) (x : Core) : (s.setCore c x).tick = s.tick := rfl
@[simp] theorem setCore_now (c : Nat) (x : Core) : (s.setCore c x).now = s.now := rfl
@[simp] theorem setCore_agenda (c : Nat) (x : Core) : (s.setCore c x).agenda = s.agenda := rfl
@[simp] theorem setCore_clauses (c : Nat) (x : Core) : (s.setCore c x).clauses = s.clauses := rfl
@[simp] theorem setCore_mem (c : Nat) (x : Core) : (s.setCore c x).mem = s.mem := rfl
@[simp] theorem setCore_xl (c : Nat) (x : Core) : (s.setCore c x).xl = s.xl := rfl
@[simp] theorem setCore_lqs (c : Nat) (x : Core) : (s.setCore c x).lqs = s.lqs := rfl
@[simp] theorem setCore_dispLast (c : Nat) (x : Core) : (s.setCore c x).dispLast = s.dispLast := rfl
@[simp] theorem setCore_launches (c : Nat) (x : Core) : (s.setCore c x).launches = s.launches := rfl
@[simp] theorem setCore_late (c : Nat) (x : Core) : (s.setCore c x).late = s.late := rfl
@[simp] theorem setCore_wgs (c : Nat) (x : Core) : (s.setCore c x).wgs = s.wgs := rfl
@[simp] theorem setCore_ops (c : Nat) (x : Core) : (s.setCore c x).ops = s.ops := rfl
@[simp] theorem setCore_fresh (c : Nat) (x : Core) : (s.setCore c x).fresh = s.fresh := rfl
@[simp] theorem setCore_own (c : Nat) (x : Core) : (s.setCore c x).own = s.own := rfl
@[simp] theorem setCore_heldWb (c : Nat) (x : Core) : (s.setCore c x).heldWb = s.heldWb := rfl
@[simp] theorem setCore_heldPf (c : Nat) (x : Core) : (s.setCore c x).heldPf = s.heldPf := rfl
@[simp] theorem setCore_l2 (c : Nat) (x : Core) : (s.setCore c x).l2 = s.l2 := rfl
@[simp] theorem setCore_board (c : Nat) (x : Core) : (s.setCore c x).board = s.board := rfl
@[simp] theorem setCore_track (c : Nat) (x : Core) : (s.setCore c x).track = s.track := rfl
@[simp] theorem setCore_dfq (c : Nat) (x : Core) : (s.setCore c x).dfq = s.dfq := rfl
@[simp] theorem setCore_dfqBase (c : Nat) (x : Core) : (s.setCore c x).dfqBase = s.dfqBase := rfl
@[simp] theorem setCore_bpBase (c : Nat) (x : Core) : (s.setCore c x).bpBase = s.bpBase := rfl
@[simp] theorem setCore_popBase (c : Nat) (x : Core) : (s.setCore c x).popBase = s.popBase := rfl
@[simp] theorem setCore_popSize (c : Nat) (x : Core) : (s.setCore c x).popSize = s.popSize := rfl
@[simp] theorem setCore_pops (c : Nat) (x : Core) : (s.setCore c x).pops = s.pops := rfl
@[simp] theorem setCore_jobs (c : Nat) (x : Core) : (s.setCore c x).jobs = s.jobs := rfl
@[simp] theorem setCore_fab (c : Nat) (x : Core) : (s.setCore c x).fab = s.fab := rfl
@[simp] theorem setCore_rep (c : Nat) (x : Core) : (s.setCore c x).rep = s.rep := rfl
@[simp] theorem setCore_pre (c : Nat) (x : Core) : (s.setCore c x).pre = s.pre := rfl
@[simp] theorem setCore_rel (c : Nat) (x : Core) : (s.setCore c x).rel = s.rel := rfl
@[simp] theorem setCore_pow (c : Nat) (x : Core) : (s.setCore c x).pow = s.pow := rfl
@[simp] theorem setCore_host (c : Nat) (x : Core) : (s.setCore c x).host = s.host := rfl
@[simp] theorem setCore_ready (c : Nat) (x : Core) : (s.setCore c x).ready = s.ready := rfl

/-! ## `modCore` -/

@[simp] theorem modCore_tick (c : Nat) (f : Core → Core) : (s.modCore c f).tick = s.tick := rfl
@[simp] theorem modCore_now (c : Nat) (f : Core → Core) : (s.modCore c f).now = s.now := rfl
@[simp] theorem modCore_agenda (c : Nat) (f : Core → Core) : (s.modCore c f).agenda = s.agenda := rfl
@[simp] theorem modCore_clauses (c : Nat) (f : Core → Core) : (s.modCore c f).clauses = s.clauses := rfl
@[simp] theorem modCore_mem (c : Nat) (f : Core → Core) : (s.modCore c f).mem = s.mem := rfl
@[simp] theorem modCore_xl (c : Nat) (f : Core → Core) : (s.modCore c f).xl = s.xl := rfl
@[simp] theorem modCore_lqs (c : Nat) (f : Core → Core) : (s.modCore c f).lqs = s.lqs := rfl
@[simp] theorem modCore_dispLast (c : Nat) (f : Core → Core) : (s.modCore c f).dispLast = s.dispLast := rfl
@[simp] theorem modCore_launches (c : Nat) (f : Core → Core) : (s.modCore c f).launches = s.launches := rfl
@[simp] theorem modCore_late (c : Nat) (f : Core → Core) : (s.modCore c f).late = s.late := rfl
@[simp] theorem modCore_wgs (c : Nat) (f : Core → Core) : (s.modCore c f).wgs = s.wgs := rfl
@[simp] theorem modCore_ops (c : Nat) (f : Core → Core) : (s.modCore c f).ops = s.ops := rfl
@[simp] theorem modCore_fresh (c : Nat) (f : Core → Core) : (s.modCore c f).fresh = s.fresh := rfl
@[simp] theorem modCore_own (c : Nat) (f : Core → Core) : (s.modCore c f).own = s.own := rfl
@[simp] theorem modCore_heldWb (c : Nat) (f : Core → Core) : (s.modCore c f).heldWb = s.heldWb := rfl
@[simp] theorem modCore_heldPf (c : Nat) (f : Core → Core) : (s.modCore c f).heldPf = s.heldPf := rfl
@[simp] theorem modCore_l2 (c : Nat) (f : Core → Core) : (s.modCore c f).l2 = s.l2 := rfl
@[simp] theorem modCore_board (c : Nat) (f : Core → Core) : (s.modCore c f).board = s.board := rfl
@[simp] theorem modCore_track (c : Nat) (f : Core → Core) : (s.modCore c f).track = s.track := rfl
@[simp] theorem modCore_dfq (c : Nat) (f : Core → Core) : (s.modCore c f).dfq = s.dfq := rfl
@[simp] theorem modCore_dfqBase (c : Nat) (f : Core → Core) : (s.modCore c f).dfqBase = s.dfqBase := rfl
@[simp] theorem modCore_bpBase (c : Nat) (f : Core → Core) : (s.modCore c f).bpBase = s.bpBase := rfl
@[simp] theorem modCore_popBase (c : Nat) (f : Core → Core) : (s.modCore c f).popBase = s.popBase := rfl
@[simp] theorem modCore_popSize (c : Nat) (f : Core → Core) : (s.modCore c f).popSize = s.popSize := rfl
@[simp] theorem modCore_pops (c : Nat) (f : Core → Core) : (s.modCore c f).pops = s.pops := rfl
@[simp] theorem modCore_jobs (c : Nat) (f : Core → Core) : (s.modCore c f).jobs = s.jobs := rfl
@[simp] theorem modCore_fab (c : Nat) (f : Core → Core) : (s.modCore c f).fab = s.fab := rfl
@[simp] theorem modCore_rep (c : Nat) (f : Core → Core) : (s.modCore c f).rep = s.rep := rfl
@[simp] theorem modCore_pre (c : Nat) (f : Core → Core) : (s.modCore c f).pre = s.pre := rfl
@[simp] theorem modCore_rel (c : Nat) (f : Core → Core) : (s.modCore c f).rel = s.rel := rfl
@[simp] theorem modCore_pow (c : Nat) (f : Core → Core) : (s.modCore c f).pow = s.pow := rfl
@[simp] theorem modCore_host (c : Nat) (f : Core → Core) : (s.modCore c f).host = s.host := rfl
@[simp] theorem modCore_ready (c : Nat) (f : Core → Core) : (s.modCore c f).ready = s.ready := rfl

/-! ## `modWarp` -/

@[simp] theorem modWarp_tick (c k : Nat) (f : Warp → Warp) : (s.modWarp c k f).tick = s.tick := rfl
@[simp] theorem modWarp_now (c k : Nat) (f : Warp → Warp) : (s.modWarp c k f).now = s.now := rfl
@[simp] theorem modWarp_agenda (c k : Nat) (f : Warp → Warp) : (s.modWarp c k f).agenda = s.agenda := rfl
@[simp] theorem modWarp_clauses (c k : Nat) (f : Warp → Warp) : (s.modWarp c k f).clauses = s.clauses := rfl
@[simp] theorem modWarp_mem (c k : Nat) (f : Warp → Warp) : (s.modWarp c k f).mem = s.mem := rfl
@[simp] theorem modWarp_xl (c k : Nat) (f : Warp → Warp) : (s.modWarp c k f).xl = s.xl := rfl
@[simp] theorem modWarp_lqs (c k : Nat) (f : Warp → Warp) : (s.modWarp c k f).lqs = s.lqs := rfl
@[simp] theorem modWarp_dispLast (c k : Nat) (f : Warp → Warp) : (s.modWarp c k f).dispLast = s.dispLast := rfl
@[simp] theorem modWarp_launches (c k : Nat) (f : Warp → Warp) : (s.modWarp c k f).launches = s.launches := rfl
@[simp] theorem modWarp_late (c k : Nat) (f : Warp → Warp) : (s.modWarp c k f).late = s.late := rfl
@[simp] theorem modWarp_wgs (c k : Nat) (f : Warp → Warp) : (s.modWarp c k f).wgs = s.wgs := rfl
@[simp] theorem modWarp_ops (c k : Nat) (f : Warp → Warp) : (s.modWarp c k f).ops = s.ops := rfl
@[simp] theorem modWarp_fresh (c k : Nat) (f : Warp → Warp) : (s.modWarp c k f).fresh = s.fresh := rfl
@[simp] theorem modWarp_own (c k : Nat) (f : Warp → Warp) : (s.modWarp c k f).own = s.own := rfl
@[simp] theorem modWarp_heldWb (c k : Nat) (f : Warp → Warp) : (s.modWarp c k f).heldWb = s.heldWb := rfl
@[simp] theorem modWarp_heldPf (c k : Nat) (f : Warp → Warp) : (s.modWarp c k f).heldPf = s.heldPf := rfl
@[simp] theorem modWarp_l2 (c k : Nat) (f : Warp → Warp) : (s.modWarp c k f).l2 = s.l2 := rfl
@[simp] theorem modWarp_board (c k : Nat) (f : Warp → Warp) : (s.modWarp c k f).board = s.board := rfl
@[simp] theorem modWarp_track (c k : Nat) (f : Warp → Warp) : (s.modWarp c k f).track = s.track := rfl
@[simp] theorem modWarp_dfq (c k : Nat) (f : Warp → Warp) : (s.modWarp c k f).dfq = s.dfq := rfl
@[simp] theorem modWarp_dfqBase (c k : Nat) (f : Warp → Warp) : (s.modWarp c k f).dfqBase = s.dfqBase := rfl
@[simp] theorem modWarp_bpBase (c k : Nat) (f : Warp → Warp) : (s.modWarp c k f).bpBase = s.bpBase := rfl
@[simp] theorem modWarp_popBase (c k : Nat) (f : Warp → Warp) : (s.modWarp c k f).popBase = s.popBase := rfl
@[simp] theorem modWarp_popSize (c k : Nat) (f : Warp → Warp) : (s.modWarp c k f).popSize = s.popSize := rfl
@[simp] theorem modWarp_pops (c k : Nat) (f : Warp → Warp) : (s.modWarp c k f).pops = s.pops := rfl
@[simp] theorem modWarp_jobs (c k : Nat) (f : Warp → Warp) : (s.modWarp c k f).jobs = s.jobs := rfl
@[simp] theorem modWarp_fab (c k : Nat) (f : Warp → Warp) : (s.modWarp c k f).fab = s.fab := rfl
@[simp] theorem modWarp_rep (c k : Nat) (f : Warp → Warp) : (s.modWarp c k f).rep = s.rep := rfl
@[simp] theorem modWarp_pre (c k : Nat) (f : Warp → Warp) : (s.modWarp c k f).pre = s.pre := rfl
@[simp] theorem modWarp_rel (c k : Nat) (f : Warp → Warp) : (s.modWarp c k f).rel = s.rel := rfl
@[simp] theorem modWarp_pow (c k : Nat) (f : Warp → Warp) : (s.modWarp c k f).pow = s.pow := rfl
@[simp] theorem modWarp_host (c k : Nat) (f : Warp → Warp) : (s.modWarp c k f).host = s.host := rfl
@[simp] theorem modWarp_ready (c k : Nat) (f : Warp → Warp) : (s.modWarp c k f).ready = s.ready := rfl

/-! ## `modStream` -/

@[simp] theorem modStream_tick (c k : Nat) (f : Stream → Stream) : (s.modStream c k f).tick = s.tick := rfl
@[simp] theorem modStream_now (c k : Nat) (f : Stream → Stream) : (s.modStream c k f).now = s.now := rfl
@[simp] theorem modStream_agenda (c k : Nat) (f : Stream → Stream) : (s.modStream c k f).agenda = s.agenda := rfl
@[simp] theorem modStream_clauses (c k : Nat) (f : Stream → Stream) : (s.modStream c k f).clauses = s.clauses := rfl
@[simp] theorem modStream_mem (c k : Nat) (f : Stream → Stream) : (s.modStream c k f).mem = s.mem := rfl
@[simp] theorem modStream_xl (c k : Nat) (f : Stream → Stream) : (s.modStream c k f).xl = s.xl := rfl
@[simp] theorem modStream_lqs (c k : Nat) (f : Stream → Stream) : (s.modStream c k f).lqs = s.lqs := rfl
@[simp] theorem modStream_dispLast (c k : Nat) (f : Stream → Stream) : (s.modStream c k f).dispLast = s.dispLast := rfl
@[simp] theorem modStream_launches (c k : Nat) (f : Stream → Stream) : (s.modStream c k f).launches = s.launches := rfl
@[simp] theorem modStream_late (c k : Nat) (f : Stream → Stream) : (s.modStream c k f).late = s.late := rfl
@[simp] theorem modStream_wgs (c k : Nat) (f : Stream → Stream) : (s.modStream c k f).wgs = s.wgs := rfl
@[simp] theorem modStream_ops (c k : Nat) (f : Stream → Stream) : (s.modStream c k f).ops = s.ops := rfl
@[simp] theorem modStream_fresh (c k : Nat) (f : Stream → Stream) : (s.modStream c k f).fresh = s.fresh := rfl
@[simp] theorem modStream_own (c k : Nat) (f : Stream → Stream) : (s.modStream c k f).own = s.own := rfl
@[simp] theorem modStream_heldWb (c k : Nat) (f : Stream → Stream) : (s.modStream c k f).heldWb = s.heldWb := rfl
@[simp] theorem modStream_heldPf (c k : Nat) (f : Stream → Stream) : (s.modStream c k f).heldPf = s.heldPf := rfl
@[simp] theorem modStream_l2 (c k : Nat) (f : Stream → Stream) : (s.modStream c k f).l2 = s.l2 := rfl
@[simp] theorem modStream_board (c k : Nat) (f : Stream → Stream) : (s.modStream c k f).board = s.board := rfl
@[simp] theorem modStream_track (c k : Nat) (f : Stream → Stream) : (s.modStream c k f).track = s.track := rfl
@[simp] theorem modStream_dfq (c k : Nat) (f : Stream → Stream) : (s.modStream c k f).dfq = s.dfq := rfl
@[simp] theorem modStream_dfqBase (c k : Nat) (f : Stream → Stream) : (s.modStream c k f).dfqBase = s.dfqBase := rfl
@[simp] theorem modStream_bpBase (c k : Nat) (f : Stream → Stream) : (s.modStream c k f).bpBase = s.bpBase := rfl
@[simp] theorem modStream_popBase (c k : Nat) (f : Stream → Stream) : (s.modStream c k f).popBase = s.popBase := rfl
@[simp] theorem modStream_popSize (c k : Nat) (f : Stream → Stream) : (s.modStream c k f).popSize = s.popSize := rfl
@[simp] theorem modStream_pops (c k : Nat) (f : Stream → Stream) : (s.modStream c k f).pops = s.pops := rfl
@[simp] theorem modStream_jobs (c k : Nat) (f : Stream → Stream) : (s.modStream c k f).jobs = s.jobs := rfl
@[simp] theorem modStream_fab (c k : Nat) (f : Stream → Stream) : (s.modStream c k f).fab = s.fab := rfl
@[simp] theorem modStream_rep (c k : Nat) (f : Stream → Stream) : (s.modStream c k f).rep = s.rep := rfl
@[simp] theorem modStream_pre (c k : Nat) (f : Stream → Stream) : (s.modStream c k f).pre = s.pre := rfl
@[simp] theorem modStream_rel (c k : Nat) (f : Stream → Stream) : (s.modStream c k f).rel = s.rel := rfl
@[simp] theorem modStream_pow (c k : Nat) (f : Stream → Stream) : (s.modStream c k f).pow = s.pow := rfl
@[simp] theorem modStream_host (c k : Nat) (f : Stream → Stream) : (s.modStream c k f).host = s.host := rfl
@[simp] theorem modStream_ready (c k : Nat) (f : Stream → Stream) : (s.modStream c k f).ready = s.ready := rfl

/-! ## `modCtrl` -/

@[simp] theorem modCtrl_tick (c : Nat) (f : Control → Control) : (s.modCtrl c f).tick = s.tick := rfl
@[simp] theorem modCtrl_now (c : Nat) (f : Control → Control) : (s.modCtrl c f).now = s.now := rfl
@[simp] theorem modCtrl_agenda (c : Nat) (f : Control → Control) : (s.modCtrl c f).agenda = s.agenda := rfl
@[simp] theorem modCtrl_clauses (c : Nat) (f : Control → Control) : (s.modCtrl c f).clauses = s.clauses := rfl
@[simp] theorem modCtrl_mem (c : Nat) (f : Control → Control) : (s.modCtrl c f).mem = s.mem := rfl
@[simp] theorem modCtrl_xl (c : Nat) (f : Control → Control) : (s.modCtrl c f).xl = s.xl := rfl
@[simp] theorem modCtrl_lqs (c : Nat) (f : Control → Control) : (s.modCtrl c f).lqs = s.lqs := rfl
@[simp] theorem modCtrl_dispLast (c : Nat) (f : Control → Control) : (s.modCtrl c f).dispLast = s.dispLast := rfl
@[simp] theorem modCtrl_launches (c : Nat) (f : Control → Control) : (s.modCtrl c f).launches = s.launches := rfl
@[simp] theorem modCtrl_late (c : Nat) (f : Control → Control) : (s.modCtrl c f).late = s.late := rfl
@[simp] theorem modCtrl_wgs (c : Nat) (f : Control → Control) : (s.modCtrl c f).wgs = s.wgs := rfl
@[simp] theorem modCtrl_ops (c : Nat) (f : Control → Control) : (s.modCtrl c f).ops = s.ops := rfl
@[simp] theorem modCtrl_fresh (c : Nat) (f : Control → Control) : (s.modCtrl c f).fresh = s.fresh := rfl
@[simp] theorem modCtrl_own (c : Nat) (f : Control → Control) : (s.modCtrl c f).own = s.own := rfl
@[simp] theorem modCtrl_heldWb (c : Nat) (f : Control → Control) : (s.modCtrl c f).heldWb = s.heldWb := rfl
@[simp] theorem modCtrl_heldPf (c : Nat) (f : Control → Control) : (s.modCtrl c f).heldPf = s.heldPf := rfl
@[simp] theorem modCtrl_l2 (c : Nat) (f : Control → Control) : (s.modCtrl c f).l2 = s.l2 := rfl
@[simp] theorem modCtrl_board (c : Nat) (f : Control → Control) : (s.modCtrl c f).board = s.board := rfl
@[simp] theorem modCtrl_track (c : Nat) (f : Control → Control) : (s.modCtrl c f).track = s.track := rfl
@[simp] theorem modCtrl_dfq (c : Nat) (f : Control → Control) : (s.modCtrl c f).dfq = s.dfq := rfl
@[simp] theorem modCtrl_dfqBase (c : Nat) (f : Control → Control) : (s.modCtrl c f).dfqBase = s.dfqBase := rfl
@[simp] theorem modCtrl_bpBase (c : Nat) (f : Control → Control) : (s.modCtrl c f).bpBase = s.bpBase := rfl
@[simp] theorem modCtrl_popBase (c : Nat) (f : Control → Control) : (s.modCtrl c f).popBase = s.popBase := rfl
@[simp] theorem modCtrl_popSize (c : Nat) (f : Control → Control) : (s.modCtrl c f).popSize = s.popSize := rfl
@[simp] theorem modCtrl_pops (c : Nat) (f : Control → Control) : (s.modCtrl c f).pops = s.pops := rfl
@[simp] theorem modCtrl_jobs (c : Nat) (f : Control → Control) : (s.modCtrl c f).jobs = s.jobs := rfl
@[simp] theorem modCtrl_fab (c : Nat) (f : Control → Control) : (s.modCtrl c f).fab = s.fab := rfl
@[simp] theorem modCtrl_rep (c : Nat) (f : Control → Control) : (s.modCtrl c f).rep = s.rep := rfl
@[simp] theorem modCtrl_pre (c : Nat) (f : Control → Control) : (s.modCtrl c f).pre = s.pre := rfl
@[simp] theorem modCtrl_rel (c : Nat) (f : Control → Control) : (s.modCtrl c f).rel = s.rel := rfl
@[simp] theorem modCtrl_pow (c : Nat) (f : Control → Control) : (s.modCtrl c f).pow = s.pow := rfl
@[simp] theorem modCtrl_host (c : Nat) (f : Control → Control) : (s.modCtrl c f).host = s.host := rfl
@[simp] theorem modCtrl_ready (c : Nat) (f : Control → Control) : (s.modCtrl c f).ready = s.ready := rfl

/-! ## `wrStore` -/

@[simp] theorem wrStore_tick (c a n v : Nat) : (s.wrStore c a n v).tick = s.tick := rfl
@[simp] theorem wrStore_now (c a n v : Nat) : (s.wrStore c a n v).now = s.now := rfl
@[simp] theorem wrStore_agenda (c a n v : Nat) : (s.wrStore c a n v).agenda = s.agenda := rfl
@[simp] theorem wrStore_clauses (c a n v : Nat) : (s.wrStore c a n v).clauses = s.clauses := rfl
@[simp] theorem wrStore_mem (c a n v : Nat) : (s.wrStore c a n v).mem = s.mem := rfl
@[simp] theorem wrStore_xl (c a n v : Nat) : (s.wrStore c a n v).xl = s.xl := rfl
@[simp] theorem wrStore_lqs (c a n v : Nat) : (s.wrStore c a n v).lqs = s.lqs := rfl
@[simp] theorem wrStore_dispLast (c a n v : Nat) : (s.wrStore c a n v).dispLast = s.dispLast := rfl
@[simp] theorem wrStore_launches (c a n v : Nat) : (s.wrStore c a n v).launches = s.launches := rfl
@[simp] theorem wrStore_late (c a n v : Nat) : (s.wrStore c a n v).late = s.late := rfl
@[simp] theorem wrStore_wgs (c a n v : Nat) : (s.wrStore c a n v).wgs = s.wgs := rfl
@[simp] theorem wrStore_ops (c a n v : Nat) : (s.wrStore c a n v).ops = s.ops := rfl
@[simp] theorem wrStore_fresh (c a n v : Nat) : (s.wrStore c a n v).fresh = s.fresh := rfl
@[simp] theorem wrStore_own (c a n v : Nat) : (s.wrStore c a n v).own = s.own := rfl
@[simp] theorem wrStore_heldWb (c a n v : Nat) : (s.wrStore c a n v).heldWb = s.heldWb := rfl
@[simp] theorem wrStore_heldPf (c a n v : Nat) : (s.wrStore c a n v).heldPf = s.heldPf := rfl
@[simp] theorem wrStore_l2 (c a n v : Nat) : (s.wrStore c a n v).l2 = s.l2 := rfl
@[simp] theorem wrStore_board (c a n v : Nat) : (s.wrStore c a n v).board = s.board := rfl
@[simp] theorem wrStore_track (c a n v : Nat) : (s.wrStore c a n v).track = s.track := rfl
@[simp] theorem wrStore_dfq (c a n v : Nat) : (s.wrStore c a n v).dfq = s.dfq := rfl
@[simp] theorem wrStore_dfqBase (c a n v : Nat) : (s.wrStore c a n v).dfqBase = s.dfqBase := rfl
@[simp] theorem wrStore_bpBase (c a n v : Nat) : (s.wrStore c a n v).bpBase = s.bpBase := rfl
@[simp] theorem wrStore_popBase (c a n v : Nat) : (s.wrStore c a n v).popBase = s.popBase := rfl
@[simp] theorem wrStore_popSize (c a n v : Nat) : (s.wrStore c a n v).popSize = s.popSize := rfl
@[simp] theorem wrStore_pops (c a n v : Nat) : (s.wrStore c a n v).pops = s.pops := rfl
@[simp] theorem wrStore_jobs (c a n v : Nat) : (s.wrStore c a n v).jobs = s.jobs := rfl
@[simp] theorem wrStore_fab (c a n v : Nat) : (s.wrStore c a n v).fab = s.fab := rfl
@[simp] theorem wrStore_rep (c a n v : Nat) : (s.wrStore c a n v).rep = s.rep := rfl
@[simp] theorem wrStore_pre (c a n v : Nat) : (s.wrStore c a n v).pre = s.pre := rfl
@[simp] theorem wrStore_rel (c a n v : Nat) : (s.wrStore c a n v).rel = s.rel := rfl
@[simp] theorem wrStore_pow (c a n v : Nat) : (s.wrStore c a n v).pow = s.pow := rfl
@[simp] theorem wrStore_host (c a n v : Nat) : (s.wrStore c a n v).host = s.host := rfl
@[simp] theorem wrStore_ready (c a n v : Nat) : (s.wrStore c a n v).ready = s.ready := rfl

/-! ## `modLaunch` -/

@[simp] theorem modLaunch_tick (n : Nat) (f : Launch → Launch) : (s.modLaunch n f).tick = s.tick := rfl
@[simp] theorem modLaunch_now (n : Nat) (f : Launch → Launch) : (s.modLaunch n f).now = s.now := rfl
@[simp] theorem modLaunch_agenda (n : Nat) (f : Launch → Launch) : (s.modLaunch n f).agenda = s.agenda := rfl
@[simp] theorem modLaunch_clauses (n : Nat) (f : Launch → Launch) : (s.modLaunch n f).clauses = s.clauses := rfl
@[simp] theorem modLaunch_mem (n : Nat) (f : Launch → Launch) : (s.modLaunch n f).mem = s.mem := rfl
@[simp] theorem modLaunch_xl (n : Nat) (f : Launch → Launch) : (s.modLaunch n f).xl = s.xl := rfl
@[simp] theorem modLaunch_lqs (n : Nat) (f : Launch → Launch) : (s.modLaunch n f).lqs = s.lqs := rfl
@[simp] theorem modLaunch_dispLast (n : Nat) (f : Launch → Launch) : (s.modLaunch n f).dispLast = s.dispLast := rfl
@[simp] theorem modLaunch_late (n : Nat) (f : Launch → Launch) : (s.modLaunch n f).late = s.late := rfl
@[simp] theorem modLaunch_wgs (n : Nat) (f : Launch → Launch) : (s.modLaunch n f).wgs = s.wgs := rfl
@[simp] theorem modLaunch_cores (n : Nat) (f : Launch → Launch) : (s.modLaunch n f).cores = s.cores := rfl
@[simp] theorem modLaunch_ops (n : Nat) (f : Launch → Launch) : (s.modLaunch n f).ops = s.ops := rfl
@[simp] theorem modLaunch_fresh (n : Nat) (f : Launch → Launch) : (s.modLaunch n f).fresh = s.fresh := rfl
@[simp] theorem modLaunch_own (n : Nat) (f : Launch → Launch) : (s.modLaunch n f).own = s.own := rfl
@[simp] theorem modLaunch_heldWb (n : Nat) (f : Launch → Launch) : (s.modLaunch n f).heldWb = s.heldWb := rfl
@[simp] theorem modLaunch_heldPf (n : Nat) (f : Launch → Launch) : (s.modLaunch n f).heldPf = s.heldPf := rfl
@[simp] theorem modLaunch_l2 (n : Nat) (f : Launch → Launch) : (s.modLaunch n f).l2 = s.l2 := rfl
@[simp] theorem modLaunch_board (n : Nat) (f : Launch → Launch) : (s.modLaunch n f).board = s.board := rfl
@[simp] theorem modLaunch_track (n : Nat) (f : Launch → Launch) : (s.modLaunch n f).track = s.track := rfl
@[simp] theorem modLaunch_dfq (n : Nat) (f : Launch → Launch) : (s.modLaunch n f).dfq = s.dfq := rfl
@[simp] theorem modLaunch_dfqBase (n : Nat) (f : Launch → Launch) : (s.modLaunch n f).dfqBase = s.dfqBase := rfl
@[simp] theorem modLaunch_bpBase (n : Nat) (f : Launch → Launch) : (s.modLaunch n f).bpBase = s.bpBase := rfl
@[simp] theorem modLaunch_popBase (n : Nat) (f : Launch → Launch) : (s.modLaunch n f).popBase = s.popBase := rfl
@[simp] theorem modLaunch_popSize (n : Nat) (f : Launch → Launch) : (s.modLaunch n f).popSize = s.popSize := rfl
@[simp] theorem modLaunch_pops (n : Nat) (f : Launch → Launch) : (s.modLaunch n f).pops = s.pops := rfl
@[simp] theorem modLaunch_jobs (n : Nat) (f : Launch → Launch) : (s.modLaunch n f).jobs = s.jobs := rfl
@[simp] theorem modLaunch_fab (n : Nat) (f : Launch → Launch) : (s.modLaunch n f).fab = s.fab := rfl
@[simp] theorem modLaunch_rep (n : Nat) (f : Launch → Launch) : (s.modLaunch n f).rep = s.rep := rfl
@[simp] theorem modLaunch_pre (n : Nat) (f : Launch → Launch) : (s.modLaunch n f).pre = s.pre := rfl
@[simp] theorem modLaunch_rel (n : Nat) (f : Launch → Launch) : (s.modLaunch n f).rel = s.rel := rfl
@[simp] theorem modLaunch_pow (n : Nat) (f : Launch → Launch) : (s.modLaunch n f).pow = s.pow := rfl
@[simp] theorem modLaunch_host (n : Nat) (f : Launch → Launch) : (s.modLaunch n f).host = s.host := rfl
@[simp] theorem modLaunch_ready (n : Nat) (f : Launch → Launch) : (s.modLaunch n f).ready = s.ready := rfl

/-! ## `modWg` -/

@[simp] theorem modWg_tick (n : Nat) (f : Wg → Wg) : (s.modWg n f).tick = s.tick := rfl
@[simp] theorem modWg_now (n : Nat) (f : Wg → Wg) : (s.modWg n f).now = s.now := rfl
@[simp] theorem modWg_agenda (n : Nat) (f : Wg → Wg) : (s.modWg n f).agenda = s.agenda := rfl
@[simp] theorem modWg_clauses (n : Nat) (f : Wg → Wg) : (s.modWg n f).clauses = s.clauses := rfl
@[simp] theorem modWg_mem (n : Nat) (f : Wg → Wg) : (s.modWg n f).mem = s.mem := rfl
@[simp] theorem modWg_xl (n : Nat) (f : Wg → Wg) : (s.modWg n f).xl = s.xl := rfl
@[simp] theorem modWg_lqs (n : Nat) (f : Wg → Wg) : (s.modWg n f).lqs = s.lqs := rfl
@[simp] theorem modWg_dispLast (n : Nat) (f : Wg → Wg) : (s.modWg n f).dispLast = s.dispLast := rfl
@[simp] theorem modWg_launches (n : Nat) (f : Wg → Wg) : (s.modWg n f).launches = s.launches := rfl
@[simp] theorem modWg_late (n : Nat) (f : Wg → Wg) : (s.modWg n f).late = s.late := rfl
@[simp] theorem modWg_cores (n : Nat) (f : Wg → Wg) : (s.modWg n f).cores = s.cores := rfl
@[simp] theorem modWg_ops (n : Nat) (f : Wg → Wg) : (s.modWg n f).ops = s.ops := rfl
@[simp] theorem modWg_fresh (n : Nat) (f : Wg → Wg) : (s.modWg n f).fresh = s.fresh := rfl
@[simp] theorem modWg_own (n : Nat) (f : Wg → Wg) : (s.modWg n f).own = s.own := rfl
@[simp] theorem modWg_heldWb (n : Nat) (f : Wg → Wg) : (s.modWg n f).heldWb = s.heldWb := rfl
@[simp] theorem modWg_heldPf (n : Nat) (f : Wg → Wg) : (s.modWg n f).heldPf = s.heldPf := rfl
@[simp] theorem modWg_l2 (n : Nat) (f : Wg → Wg) : (s.modWg n f).l2 = s.l2 := rfl
@[simp] theorem modWg_board (n : Nat) (f : Wg → Wg) : (s.modWg n f).board = s.board := rfl
@[simp] theorem modWg_track (n : Nat) (f : Wg → Wg) : (s.modWg n f).track = s.track := rfl
@[simp] theorem modWg_dfq (n : Nat) (f : Wg → Wg) : (s.modWg n f).dfq = s.dfq := rfl
@[simp] theorem modWg_dfqBase (n : Nat) (f : Wg → Wg) : (s.modWg n f).dfqBase = s.dfqBase := rfl
@[simp] theorem modWg_bpBase (n : Nat) (f : Wg → Wg) : (s.modWg n f).bpBase = s.bpBase := rfl
@[simp] theorem modWg_popBase (n : Nat) (f : Wg → Wg) : (s.modWg n f).popBase = s.popBase := rfl
@[simp] theorem modWg_popSize (n : Nat) (f : Wg → Wg) : (s.modWg n f).popSize = s.popSize := rfl
@[simp] theorem modWg_pops (n : Nat) (f : Wg → Wg) : (s.modWg n f).pops = s.pops := rfl
@[simp] theorem modWg_jobs (n : Nat) (f : Wg → Wg) : (s.modWg n f).jobs = s.jobs := rfl
@[simp] theorem modWg_fab (n : Nat) (f : Wg → Wg) : (s.modWg n f).fab = s.fab := rfl
@[simp] theorem modWg_rep (n : Nat) (f : Wg → Wg) : (s.modWg n f).rep = s.rep := rfl
@[simp] theorem modWg_pre (n : Nat) (f : Wg → Wg) : (s.modWg n f).pre = s.pre := rfl
@[simp] theorem modWg_rel (n : Nat) (f : Wg → Wg) : (s.modWg n f).rel = s.rel := rfl
@[simp] theorem modWg_pow (n : Nat) (f : Wg → Wg) : (s.modWg n f).pow = s.pow := rfl
@[simp] theorem modWg_host (n : Nat) (f : Wg → Wg) : (s.modWg n f).host = s.host := rfl
@[simp] theorem modWg_ready (n : Nat) (f : Wg → Wg) : (s.modWg n f).ready = s.ready := rfl

/-! ## `modOp` -/

@[simp] theorem modOp_tick (n : Nat) (f : MemOp → MemOp) : (s.modOp n f).tick = s.tick := rfl
@[simp] theorem modOp_now (n : Nat) (f : MemOp → MemOp) : (s.modOp n f).now = s.now := rfl
@[simp] theorem modOp_agenda (n : Nat) (f : MemOp → MemOp) : (s.modOp n f).agenda = s.agenda := rfl
@[simp] theorem modOp_clauses (n : Nat) (f : MemOp → MemOp) : (s.modOp n f).clauses = s.clauses := rfl
@[simp] theorem modOp_mem (n : Nat) (f : MemOp → MemOp) : (s.modOp n f).mem = s.mem := rfl
@[simp] theorem modOp_xl (n : Nat) (f : MemOp → MemOp) : (s.modOp n f).xl = s.xl := rfl
@[simp] theorem modOp_lqs (n : Nat) (f : MemOp → MemOp) : (s.modOp n f).lqs = s.lqs := rfl
@[simp] theorem modOp_dispLast (n : Nat) (f : MemOp → MemOp) : (s.modOp n f).dispLast = s.dispLast := rfl
@[simp] theorem modOp_launches (n : Nat) (f : MemOp → MemOp) : (s.modOp n f).launches = s.launches := rfl
@[simp] theorem modOp_late (n : Nat) (f : MemOp → MemOp) : (s.modOp n f).late = s.late := rfl
@[simp] theorem modOp_wgs (n : Nat) (f : MemOp → MemOp) : (s.modOp n f).wgs = s.wgs := rfl
@[simp] theorem modOp_cores (n : Nat) (f : MemOp → MemOp) : (s.modOp n f).cores = s.cores := rfl
@[simp] theorem modOp_fresh (n : Nat) (f : MemOp → MemOp) : (s.modOp n f).fresh = s.fresh := rfl
@[simp] theorem modOp_own (n : Nat) (f : MemOp → MemOp) : (s.modOp n f).own = s.own := rfl
@[simp] theorem modOp_heldWb (n : Nat) (f : MemOp → MemOp) : (s.modOp n f).heldWb = s.heldWb := rfl
@[simp] theorem modOp_heldPf (n : Nat) (f : MemOp → MemOp) : (s.modOp n f).heldPf = s.heldPf := rfl
@[simp] theorem modOp_l2 (n : Nat) (f : MemOp → MemOp) : (s.modOp n f).l2 = s.l2 := rfl
@[simp] theorem modOp_board (n : Nat) (f : MemOp → MemOp) : (s.modOp n f).board = s.board := rfl
@[simp] theorem modOp_track (n : Nat) (f : MemOp → MemOp) : (s.modOp n f).track = s.track := rfl
@[simp] theorem modOp_dfq (n : Nat) (f : MemOp → MemOp) : (s.modOp n f).dfq = s.dfq := rfl
@[simp] theorem modOp_dfqBase (n : Nat) (f : MemOp → MemOp) : (s.modOp n f).dfqBase = s.dfqBase := rfl
@[simp] theorem modOp_bpBase (n : Nat) (f : MemOp → MemOp) : (s.modOp n f).bpBase = s.bpBase := rfl
@[simp] theorem modOp_popBase (n : Nat) (f : MemOp → MemOp) : (s.modOp n f).popBase = s.popBase := rfl
@[simp] theorem modOp_popSize (n : Nat) (f : MemOp → MemOp) : (s.modOp n f).popSize = s.popSize := rfl
@[simp] theorem modOp_pops (n : Nat) (f : MemOp → MemOp) : (s.modOp n f).pops = s.pops := rfl
@[simp] theorem modOp_jobs (n : Nat) (f : MemOp → MemOp) : (s.modOp n f).jobs = s.jobs := rfl
@[simp] theorem modOp_fab (n : Nat) (f : MemOp → MemOp) : (s.modOp n f).fab = s.fab := rfl
@[simp] theorem modOp_rep (n : Nat) (f : MemOp → MemOp) : (s.modOp n f).rep = s.rep := rfl
@[simp] theorem modOp_pre (n : Nat) (f : MemOp → MemOp) : (s.modOp n f).pre = s.pre := rfl
@[simp] theorem modOp_rel (n : Nat) (f : MemOp → MemOp) : (s.modOp n f).rel = s.rel := rfl
@[simp] theorem modOp_pow (n : Nat) (f : MemOp → MemOp) : (s.modOp n f).pow = s.pow := rfl
@[simp] theorem modOp_host (n : Nat) (f : MemOp → MemOp) : (s.modOp n f).host = s.host := rfl
@[simp] theorem modOp_ready (n : Nat) (f : MemOp → MemOp) : (s.modOp n f).ready = s.ready := rfl

/-! ## `wrMem` -/

@[simp] theorem wrMem_tick (a n v : Nat) : (s.wrMem a n v).tick = s.tick := rfl
@[simp] theorem wrMem_now (a n v : Nat) : (s.wrMem a n v).now = s.now := rfl
@[simp] theorem wrMem_agenda (a n v : Nat) : (s.wrMem a n v).agenda = s.agenda := rfl
@[simp] theorem wrMem_clauses (a n v : Nat) : (s.wrMem a n v).clauses = s.clauses := rfl
@[simp] theorem wrMem_xl (a n v : Nat) : (s.wrMem a n v).xl = s.xl := rfl
@[simp] theorem wrMem_lqs (a n v : Nat) : (s.wrMem a n v).lqs = s.lqs := rfl
@[simp] theorem wrMem_dispLast (a n v : Nat) : (s.wrMem a n v).dispLast = s.dispLast := rfl
@[simp] theorem wrMem_launches (a n v : Nat) : (s.wrMem a n v).launches = s.launches := rfl
@[simp] theorem wrMem_late (a n v : Nat) : (s.wrMem a n v).late = s.late := rfl
@[simp] theorem wrMem_wgs (a n v : Nat) : (s.wrMem a n v).wgs = s.wgs := rfl
@[simp] theorem wrMem_cores (a n v : Nat) : (s.wrMem a n v).cores = s.cores := rfl
@[simp] theorem wrMem_ops (a n v : Nat) : (s.wrMem a n v).ops = s.ops := rfl
@[simp] theorem wrMem_fresh (a n v : Nat) : (s.wrMem a n v).fresh = s.fresh := rfl
@[simp] theorem wrMem_own (a n v : Nat) : (s.wrMem a n v).own = s.own := rfl
@[simp] theorem wrMem_heldWb (a n v : Nat) : (s.wrMem a n v).heldWb = s.heldWb := rfl
@[simp] theorem wrMem_heldPf (a n v : Nat) : (s.wrMem a n v).heldPf = s.heldPf := rfl
@[simp] theorem wrMem_l2 (a n v : Nat) : (s.wrMem a n v).l2 = s.l2 := rfl
@[simp] theorem wrMem_board (a n v : Nat) : (s.wrMem a n v).board = s.board := rfl
@[simp] theorem wrMem_track (a n v : Nat) : (s.wrMem a n v).track = s.track := rfl
@[simp] theorem wrMem_dfq (a n v : Nat) : (s.wrMem a n v).dfq = s.dfq := rfl
@[simp] theorem wrMem_dfqBase (a n v : Nat) : (s.wrMem a n v).dfqBase = s.dfqBase := rfl
@[simp] theorem wrMem_bpBase (a n v : Nat) : (s.wrMem a n v).bpBase = s.bpBase := rfl
@[simp] theorem wrMem_popBase (a n v : Nat) : (s.wrMem a n v).popBase = s.popBase := rfl
@[simp] theorem wrMem_popSize (a n v : Nat) : (s.wrMem a n v).popSize = s.popSize := rfl
@[simp] theorem wrMem_pops (a n v : Nat) : (s.wrMem a n v).pops = s.pops := rfl
@[simp] theorem wrMem_jobs (a n v : Nat) : (s.wrMem a n v).jobs = s.jobs := rfl
@[simp] theorem wrMem_fab (a n v : Nat) : (s.wrMem a n v).fab = s.fab := rfl
@[simp] theorem wrMem_rep (a n v : Nat) : (s.wrMem a n v).rep = s.rep := rfl
@[simp] theorem wrMem_pre (a n v : Nat) : (s.wrMem a n v).pre = s.pre := rfl
@[simp] theorem wrMem_rel (a n v : Nat) : (s.wrMem a n v).rel = s.rel := rfl
@[simp] theorem wrMem_pow (a n v : Nat) : (s.wrMem a n v).pow = s.pow := rfl
@[simp] theorem wrMem_host (a n v : Nat) : (s.wrMem a n v).host = s.host := rfl
@[simp] theorem wrMem_ready (a n v : Nat) : (s.wrMem a n v).ready = s.ready := rfl

/-! ## `dropWarp` -/

@[simp] theorem dropWarp_tick (c k : Nat) : (s.dropWarp c k).tick = s.tick := rfl
@[simp] theorem dropWarp_now (c k : Nat) : (s.dropWarp c k).now = s.now := rfl
@[simp] theorem dropWarp_agenda (c k : Nat) : (s.dropWarp c k).agenda = s.agenda := rfl
@[simp] theorem dropWarp_mem (c k : Nat) : (s.dropWarp c k).mem = s.mem := rfl
@[simp] theorem dropWarp_xl (c k : Nat) : (s.dropWarp c k).xl = s.xl := rfl
@[simp] theorem dropWarp_lqs (c k : Nat) : (s.dropWarp c k).lqs = s.lqs := rfl
@[simp] theorem dropWarp_dispLast (c k : Nat) : (s.dropWarp c k).dispLast = s.dispLast := rfl
@[simp] theorem dropWarp_launches (c k : Nat) : (s.dropWarp c k).launches = s.launches := rfl
@[simp] theorem dropWarp_late (c k : Nat) : (s.dropWarp c k).late = s.late := rfl
@[simp] theorem dropWarp_wgs (c k : Nat) : (s.dropWarp c k).wgs = s.wgs := rfl
@[simp] theorem dropWarp_cores (c k : Nat) : (s.dropWarp c k).cores = s.cores := rfl
@[simp] theorem dropWarp_ops (c k : Nat) : (s.dropWarp c k).ops = s.ops := rfl
@[simp] theorem dropWarp_fresh (c k : Nat) : (s.dropWarp c k).fresh = s.fresh := rfl
@[simp] theorem dropWarp_own (c k : Nat) : (s.dropWarp c k).own = s.own := rfl
@[simp] theorem dropWarp_heldWb (c k : Nat) : (s.dropWarp c k).heldWb = s.heldWb := rfl
@[simp] theorem dropWarp_heldPf (c k : Nat) : (s.dropWarp c k).heldPf = s.heldPf := rfl
@[simp] theorem dropWarp_l2 (c k : Nat) : (s.dropWarp c k).l2 = s.l2 := rfl
@[simp] theorem dropWarp_board (c k : Nat) : (s.dropWarp c k).board = s.board := rfl
@[simp] theorem dropWarp_track (c k : Nat) : (s.dropWarp c k).track = s.track := rfl
@[simp] theorem dropWarp_dfq (c k : Nat) : (s.dropWarp c k).dfq = s.dfq := rfl
@[simp] theorem dropWarp_dfqBase (c k : Nat) : (s.dropWarp c k).dfqBase = s.dfqBase := rfl
@[simp] theorem dropWarp_bpBase (c k : Nat) : (s.dropWarp c k).bpBase = s.bpBase := rfl
@[simp] theorem dropWarp_popBase (c k : Nat) : (s.dropWarp c k).popBase = s.popBase := rfl
@[simp] theorem dropWarp_popSize (c k : Nat) : (s.dropWarp c k).popSize = s.popSize := rfl
@[simp] theorem dropWarp_pops (c k : Nat) : (s.dropWarp c k).pops = s.pops := rfl
@[simp] theorem dropWarp_jobs (c k : Nat) : (s.dropWarp c k).jobs = s.jobs := rfl
@[simp] theorem dropWarp_fab (c k : Nat) : (s.dropWarp c k).fab = s.fab := rfl
@[simp] theorem dropWarp_rep (c k : Nat) : (s.dropWarp c k).rep = s.rep := rfl
@[simp] theorem dropWarp_pre (c k : Nat) : (s.dropWarp c k).pre = s.pre := rfl
@[simp] theorem dropWarp_rel (c k : Nat) : (s.dropWarp c k).rel = s.rel := rfl
@[simp] theorem dropWarp_pow (c k : Nat) : (s.dropWarp c k).pow = s.pow := rfl
@[simp] theorem dropWarp_host (c k : Nat) : (s.dropWarp c k).host = s.host := rfl
@[simp] theorem dropWarp_ready (c k : Nat) : (s.dropWarp c k).ready = s.ready := rfl

/-! ## `bump` -/

@[simp] theorem bump_tick  : (s.bump).tick = s.tick := rfl
@[simp] theorem bump_now  : (s.bump).now = s.now := rfl
@[simp] theorem bump_agenda  : (s.bump).agenda = s.agenda := rfl
@[simp] theorem bump_clauses  : (s.bump).clauses = s.clauses := rfl
@[simp] theorem bump_mem  : (s.bump).mem = s.mem := rfl
@[simp] theorem bump_xl  : (s.bump).xl = s.xl := rfl
@[simp] theorem bump_lqs  : (s.bump).lqs = s.lqs := rfl
@[simp] theorem bump_dispLast  : (s.bump).dispLast = s.dispLast := rfl
@[simp] theorem bump_launches  : (s.bump).launches = s.launches := rfl
@[simp] theorem bump_late  : (s.bump).late = s.late := rfl
@[simp] theorem bump_wgs  : (s.bump).wgs = s.wgs := rfl
@[simp] theorem bump_cores  : (s.bump).cores = s.cores := rfl
@[simp] theorem bump_ops  : (s.bump).ops = s.ops := rfl
@[simp] theorem bump_own  : (s.bump).own = s.own := rfl
@[simp] theorem bump_heldWb  : (s.bump).heldWb = s.heldWb := rfl
@[simp] theorem bump_heldPf  : (s.bump).heldPf = s.heldPf := rfl
@[simp] theorem bump_l2  : (s.bump).l2 = s.l2 := rfl
@[simp] theorem bump_board  : (s.bump).board = s.board := rfl
@[simp] theorem bump_track  : (s.bump).track = s.track := rfl
@[simp] theorem bump_dfq  : (s.bump).dfq = s.dfq := rfl
@[simp] theorem bump_dfqBase  : (s.bump).dfqBase = s.dfqBase := rfl
@[simp] theorem bump_bpBase  : (s.bump).bpBase = s.bpBase := rfl
@[simp] theorem bump_popBase  : (s.bump).popBase = s.popBase := rfl
@[simp] theorem bump_popSize  : (s.bump).popSize = s.popSize := rfl
@[simp] theorem bump_pops  : (s.bump).pops = s.pops := rfl
@[simp] theorem bump_jobs  : (s.bump).jobs = s.jobs := rfl
@[simp] theorem bump_fab  : (s.bump).fab = s.fab := rfl
@[simp] theorem bump_rep  : (s.bump).rep = s.rep := rfl
@[simp] theorem bump_pre  : (s.bump).pre = s.pre := rfl
@[simp] theorem bump_rel  : (s.bump).rel = s.rel := rfl
@[simp] theorem bump_pow  : (s.bump).pow = s.pow := rfl
@[simp] theorem bump_host  : (s.bump).host = s.host := rfl
@[simp] theorem bump_ready  : (s.bump).ready = s.ready := rfl

/-! ## `modLane` -/

@[simp] theorem modLane_tick (c k l : Nat) (f : Lane → Lane) : (s.modLane c k l f).tick = s.tick := by unfold State.modLane; split <;> rfl
@[simp] theorem modLane_now (c k l : Nat) (f : Lane → Lane) : (s.modLane c k l f).now = s.now := by unfold State.modLane; split <;> rfl
@[simp] theorem modLane_agenda (c k l : Nat) (f : Lane → Lane) : (s.modLane c k l f).agenda = s.agenda := by unfold State.modLane; split <;> rfl
@[simp] theorem modLane_clauses (c k l : Nat) (f : Lane → Lane) : (s.modLane c k l f).clauses = s.clauses := by unfold State.modLane; split <;> rfl
@[simp] theorem modLane_mem (c k l : Nat) (f : Lane → Lane) : (s.modLane c k l f).mem = s.mem := by unfold State.modLane; split <;> rfl
@[simp] theorem modLane_xl (c k l : Nat) (f : Lane → Lane) : (s.modLane c k l f).xl = s.xl := by unfold State.modLane; split <;> rfl
@[simp] theorem modLane_lqs (c k l : Nat) (f : Lane → Lane) : (s.modLane c k l f).lqs = s.lqs := by unfold State.modLane; split <;> rfl
@[simp] theorem modLane_dispLast (c k l : Nat) (f : Lane → Lane) : (s.modLane c k l f).dispLast = s.dispLast := by unfold State.modLane; split <;> rfl
@[simp] theorem modLane_launches (c k l : Nat) (f : Lane → Lane) : (s.modLane c k l f).launches = s.launches := by unfold State.modLane; split <;> rfl
@[simp] theorem modLane_late (c k l : Nat) (f : Lane → Lane) : (s.modLane c k l f).late = s.late := by unfold State.modLane; split <;> rfl
@[simp] theorem modLane_wgs (c k l : Nat) (f : Lane → Lane) : (s.modLane c k l f).wgs = s.wgs := by unfold State.modLane; split <;> rfl
@[simp] theorem modLane_ops (c k l : Nat) (f : Lane → Lane) : (s.modLane c k l f).ops = s.ops := by unfold State.modLane; split <;> rfl
@[simp] theorem modLane_fresh (c k l : Nat) (f : Lane → Lane) : (s.modLane c k l f).fresh = s.fresh := by unfold State.modLane; split <;> rfl
@[simp] theorem modLane_own (c k l : Nat) (f : Lane → Lane) : (s.modLane c k l f).own = s.own := by unfold State.modLane; split <;> rfl
@[simp] theorem modLane_heldWb (c k l : Nat) (f : Lane → Lane) : (s.modLane c k l f).heldWb = s.heldWb := by unfold State.modLane; split <;> rfl
@[simp] theorem modLane_heldPf (c k l : Nat) (f : Lane → Lane) : (s.modLane c k l f).heldPf = s.heldPf := by unfold State.modLane; split <;> rfl
@[simp] theorem modLane_l2 (c k l : Nat) (f : Lane → Lane) : (s.modLane c k l f).l2 = s.l2 := by unfold State.modLane; split <;> rfl
@[simp] theorem modLane_board (c k l : Nat) (f : Lane → Lane) : (s.modLane c k l f).board = s.board := by unfold State.modLane; split <;> rfl
@[simp] theorem modLane_track (c k l : Nat) (f : Lane → Lane) : (s.modLane c k l f).track = s.track := by unfold State.modLane; split <;> rfl
@[simp] theorem modLane_dfq (c k l : Nat) (f : Lane → Lane) : (s.modLane c k l f).dfq = s.dfq := by unfold State.modLane; split <;> rfl
@[simp] theorem modLane_dfqBase (c k l : Nat) (f : Lane → Lane) : (s.modLane c k l f).dfqBase = s.dfqBase := by unfold State.modLane; split <;> rfl
@[simp] theorem modLane_bpBase (c k l : Nat) (f : Lane → Lane) : (s.modLane c k l f).bpBase = s.bpBase := by unfold State.modLane; split <;> rfl
@[simp] theorem modLane_popBase (c k l : Nat) (f : Lane → Lane) : (s.modLane c k l f).popBase = s.popBase := by unfold State.modLane; split <;> rfl
@[simp] theorem modLane_popSize (c k l : Nat) (f : Lane → Lane) : (s.modLane c k l f).popSize = s.popSize := by unfold State.modLane; split <;> rfl
@[simp] theorem modLane_pops (c k l : Nat) (f : Lane → Lane) : (s.modLane c k l f).pops = s.pops := by unfold State.modLane; split <;> rfl
@[simp] theorem modLane_jobs (c k l : Nat) (f : Lane → Lane) : (s.modLane c k l f).jobs = s.jobs := by unfold State.modLane; split <;> rfl
@[simp] theorem modLane_fab (c k l : Nat) (f : Lane → Lane) : (s.modLane c k l f).fab = s.fab := by unfold State.modLane; split <;> rfl
@[simp] theorem modLane_rep (c k l : Nat) (f : Lane → Lane) : (s.modLane c k l f).rep = s.rep := by unfold State.modLane; split <;> rfl
@[simp] theorem modLane_pre (c k l : Nat) (f : Lane → Lane) : (s.modLane c k l f).pre = s.pre := by unfold State.modLane; split <;> rfl
@[simp] theorem modLane_rel (c k l : Nat) (f : Lane → Lane) : (s.modLane c k l f).rel = s.rel := by unfold State.modLane; split <;> rfl
@[simp] theorem modLane_pow (c k l : Nat) (f : Lane → Lane) : (s.modLane c k l f).pow = s.pow := by unfold State.modLane; split <;> rfl
@[simp] theorem modLane_host (c k l : Nat) (f : Lane → Lane) : (s.modLane c k l f).host = s.host := by unfold State.modLane; split <;> rfl
@[simp] theorem modLane_ready (c k l : Nat) (f : Lane → Lane) : (s.modLane c k l f).ready = s.ready := by unfold State.modLane; split <;> rfl

/-! ## `wrReg` -/

@[simp] theorem wrReg_tick (c k l r : Nat) (v : Word) : (s.wrReg c k l r v).tick = s.tick := by unfold State.wrReg; (split <;> try split) <;> rfl
@[simp] theorem wrReg_now (c k l r : Nat) (v : Word) : (s.wrReg c k l r v).now = s.now := by unfold State.wrReg; (split <;> try split) <;> rfl
@[simp] theorem wrReg_agenda (c k l r : Nat) (v : Word) : (s.wrReg c k l r v).agenda = s.agenda := by unfold State.wrReg; (split <;> try split) <;> rfl
@[simp] theorem wrReg_clauses (c k l r : Nat) (v : Word) : (s.wrReg c k l r v).clauses = s.clauses := by unfold State.wrReg; (split <;> try split) <;> rfl
@[simp] theorem wrReg_mem (c k l r : Nat) (v : Word) : (s.wrReg c k l r v).mem = s.mem := by unfold State.wrReg; (split <;> try split) <;> rfl
@[simp] theorem wrReg_xl (c k l r : Nat) (v : Word) : (s.wrReg c k l r v).xl = s.xl := by unfold State.wrReg; (split <;> try split) <;> rfl
@[simp] theorem wrReg_lqs (c k l r : Nat) (v : Word) : (s.wrReg c k l r v).lqs = s.lqs := by unfold State.wrReg; (split <;> try split) <;> rfl
@[simp] theorem wrReg_dispLast (c k l r : Nat) (v : Word) : (s.wrReg c k l r v).dispLast = s.dispLast := by unfold State.wrReg; (split <;> try split) <;> rfl
@[simp] theorem wrReg_launches (c k l r : Nat) (v : Word) : (s.wrReg c k l r v).launches = s.launches := by unfold State.wrReg; (split <;> try split) <;> rfl
@[simp] theorem wrReg_late (c k l r : Nat) (v : Word) : (s.wrReg c k l r v).late = s.late := by unfold State.wrReg; (split <;> try split) <;> rfl
@[simp] theorem wrReg_wgs (c k l r : Nat) (v : Word) : (s.wrReg c k l r v).wgs = s.wgs := by unfold State.wrReg; (split <;> try split) <;> rfl
@[simp] theorem wrReg_ops (c k l r : Nat) (v : Word) : (s.wrReg c k l r v).ops = s.ops := by unfold State.wrReg; (split <;> try split) <;> rfl
@[simp] theorem wrReg_fresh (c k l r : Nat) (v : Word) : (s.wrReg c k l r v).fresh = s.fresh := by unfold State.wrReg; (split <;> try split) <;> rfl
@[simp] theorem wrReg_own (c k l r : Nat) (v : Word) : (s.wrReg c k l r v).own = s.own := by unfold State.wrReg; (split <;> try split) <;> rfl
@[simp] theorem wrReg_heldWb (c k l r : Nat) (v : Word) : (s.wrReg c k l r v).heldWb = s.heldWb := by unfold State.wrReg; (split <;> try split) <;> rfl
@[simp] theorem wrReg_heldPf (c k l r : Nat) (v : Word) : (s.wrReg c k l r v).heldPf = s.heldPf := by unfold State.wrReg; (split <;> try split) <;> rfl
@[simp] theorem wrReg_l2 (c k l r : Nat) (v : Word) : (s.wrReg c k l r v).l2 = s.l2 := by unfold State.wrReg; (split <;> try split) <;> rfl
@[simp] theorem wrReg_board (c k l r : Nat) (v : Word) : (s.wrReg c k l r v).board = s.board := by unfold State.wrReg; (split <;> try split) <;> rfl
@[simp] theorem wrReg_track (c k l r : Nat) (v : Word) : (s.wrReg c k l r v).track = s.track := by unfold State.wrReg; (split <;> try split) <;> rfl
@[simp] theorem wrReg_dfq (c k l r : Nat) (v : Word) : (s.wrReg c k l r v).dfq = s.dfq := by unfold State.wrReg; (split <;> try split) <;> rfl
@[simp] theorem wrReg_dfqBase (c k l r : Nat) (v : Word) : (s.wrReg c k l r v).dfqBase = s.dfqBase := by unfold State.wrReg; (split <;> try split) <;> rfl
@[simp] theorem wrReg_bpBase (c k l r : Nat) (v : Word) : (s.wrReg c k l r v).bpBase = s.bpBase := by unfold State.wrReg; (split <;> try split) <;> rfl
@[simp] theorem wrReg_popBase (c k l r : Nat) (v : Word) : (s.wrReg c k l r v).popBase = s.popBase := by unfold State.wrReg; (split <;> try split) <;> rfl
@[simp] theorem wrReg_popSize (c k l r : Nat) (v : Word) : (s.wrReg c k l r v).popSize = s.popSize := by unfold State.wrReg; (split <;> try split) <;> rfl
@[simp] theorem wrReg_pops (c k l r : Nat) (v : Word) : (s.wrReg c k l r v).pops = s.pops := by unfold State.wrReg; (split <;> try split) <;> rfl
@[simp] theorem wrReg_jobs (c k l r : Nat) (v : Word) : (s.wrReg c k l r v).jobs = s.jobs := by unfold State.wrReg; (split <;> try split) <;> rfl
@[simp] theorem wrReg_fab (c k l r : Nat) (v : Word) : (s.wrReg c k l r v).fab = s.fab := by unfold State.wrReg; (split <;> try split) <;> rfl
@[simp] theorem wrReg_rep (c k l r : Nat) (v : Word) : (s.wrReg c k l r v).rep = s.rep := by unfold State.wrReg; (split <;> try split) <;> rfl
@[simp] theorem wrReg_pre (c k l r : Nat) (v : Word) : (s.wrReg c k l r v).pre = s.pre := by unfold State.wrReg; (split <;> try split) <;> rfl
@[simp] theorem wrReg_rel (c k l r : Nat) (v : Word) : (s.wrReg c k l r v).rel = s.rel := by unfold State.wrReg; (split <;> try split) <;> rfl
@[simp] theorem wrReg_pow (c k l r : Nat) (v : Word) : (s.wrReg c k l r v).pow = s.pow := by unfold State.wrReg; (split <;> try split) <;> rfl
@[simp] theorem wrReg_host (c k l r : Nat) (v : Word) : (s.wrReg c k l r v).host = s.host := by unfold State.wrReg; (split <;> try split) <;> rfl
@[simp] theorem wrReg_ready (c k l r : Nat) (v : Word) : (s.wrReg c k l r v).ready = s.ready := by unfold State.wrReg; (split <;> try split) <;> rfl

/-! ## `leave` -/

@[simp] theorem leave_tick (k l : Nat) : (s.leave k l).tick = s.tick := by unfold State.leave; split <;> rfl
@[simp] theorem leave_now (k l : Nat) : (s.leave k l).now = s.now := by unfold State.leave; split <;> rfl
@[simp] theorem leave_agenda (k l : Nat) : (s.leave k l).agenda = s.agenda := by unfold State.leave; split <;> rfl
@[simp] theorem leave_mem (k l : Nat) : (s.leave k l).mem = s.mem := by unfold State.leave; split <;> rfl
@[simp] theorem leave_xl (k l : Nat) : (s.leave k l).xl = s.xl := by unfold State.leave; split <;> rfl
@[simp] theorem leave_lqs (k l : Nat) : (s.leave k l).lqs = s.lqs := by unfold State.leave; split <;> rfl
@[simp] theorem leave_dispLast (k l : Nat) : (s.leave k l).dispLast = s.dispLast := by unfold State.leave; split <;> rfl
@[simp] theorem leave_launches (k l : Nat) : (s.leave k l).launches = s.launches := by unfold State.leave; split <;> rfl
@[simp] theorem leave_late (k l : Nat) : (s.leave k l).late = s.late := by unfold State.leave; split <;> rfl
@[simp] theorem leave_wgs (k l : Nat) : (s.leave k l).wgs = s.wgs := by unfold State.leave; split <;> rfl
@[simp] theorem leave_cores (k l : Nat) : (s.leave k l).cores = s.cores := by unfold State.leave; split <;> rfl
@[simp] theorem leave_ops (k l : Nat) : (s.leave k l).ops = s.ops := by unfold State.leave; split <;> rfl
@[simp] theorem leave_fresh (k l : Nat) : (s.leave k l).fresh = s.fresh := by unfold State.leave; split <;> rfl
@[simp] theorem leave_own (k l : Nat) : (s.leave k l).own = s.own := by unfold State.leave; split <;> rfl
@[simp] theorem leave_heldWb (k l : Nat) : (s.leave k l).heldWb = s.heldWb := by unfold State.leave; split <;> rfl
@[simp] theorem leave_heldPf (k l : Nat) : (s.leave k l).heldPf = s.heldPf := by unfold State.leave; split <;> rfl
@[simp] theorem leave_l2 (k l : Nat) : (s.leave k l).l2 = s.l2 := by unfold State.leave; split <;> rfl
@[simp] theorem leave_board (k l : Nat) : (s.leave k l).board = s.board := by unfold State.leave; split <;> rfl
@[simp] theorem leave_track (k l : Nat) : (s.leave k l).track = s.track := by unfold State.leave; split <;> rfl
@[simp] theorem leave_dfq (k l : Nat) : (s.leave k l).dfq = s.dfq := by unfold State.leave; split <;> rfl
@[simp] theorem leave_dfqBase (k l : Nat) : (s.leave k l).dfqBase = s.dfqBase := by unfold State.leave; split <;> rfl
@[simp] theorem leave_bpBase (k l : Nat) : (s.leave k l).bpBase = s.bpBase := by unfold State.leave; split <;> rfl
@[simp] theorem leave_popBase (k l : Nat) : (s.leave k l).popBase = s.popBase := by unfold State.leave; split <;> rfl
@[simp] theorem leave_popSize (k l : Nat) : (s.leave k l).popSize = s.popSize := by unfold State.leave; split <;> rfl
@[simp] theorem leave_pops (k l : Nat) : (s.leave k l).pops = s.pops := by unfold State.leave; split <;> rfl
@[simp] theorem leave_jobs (k l : Nat) : (s.leave k l).jobs = s.jobs := by unfold State.leave; split <;> rfl
@[simp] theorem leave_fab (k l : Nat) : (s.leave k l).fab = s.fab := by unfold State.leave; split <;> rfl
@[simp] theorem leave_rep (k l : Nat) : (s.leave k l).rep = s.rep := by unfold State.leave; split <;> rfl
@[simp] theorem leave_pre (k l : Nat) : (s.leave k l).pre = s.pre := by unfold State.leave; split <;> rfl
@[simp] theorem leave_rel (k l : Nat) : (s.leave k l).rel = s.rel := by unfold State.leave; split <;> rfl
@[simp] theorem leave_pow (k l : Nat) : (s.leave k l).pow = s.pow := by unfold State.leave; split <;> rfl
@[simp] theorem leave_host (k l : Nat) : (s.leave k l).host = s.host := by unfold State.leave; split <;> rfl
@[simp] theorem leave_ready (k l : Nat) : (s.leave k l).ready = s.ready := by unfold State.leave; split <;> rfl

/-! ## Cores, warps and lanes after an update -/

theorem core_eq (t : State) (h : t.cores = s.cores) (c : Nat) : t.core c = s.core c := by simp [State.core, h]

theorem core_setCore (c b : Nat) (x : Core) : (s.setCore c x).core b = if b = c then x else s.core b := by
  simp [State.core, State.setCore, NMap.atD_put]

theorem core_modCore (c b : Nat) (f : Core → Core) : (s.modCore c f).core b = if b = c then f (s.core c) else s.core b :=
  core_setCore s c b _

@[simp] theorem core_modCore_self (c : Nat) (f : Core → Core) : (s.modCore c f).core c = f (s.core c) := by
  simp [core_modCore]

theorem core_modWarp (c k b : Nat) (f : Warp → Warp) :
    (s.modWarp c k f).core b = if b = c then { s.core c with warps := (s.core c).warps.upd k f } else s.core b :=
  core_modCore s c b _

@[simp] theorem core_modWarp_store (c k b : Nat) (f : Warp → Warp) : ((s.modWarp c k f).core b).store = (s.core b).store := by
  rw [core_modWarp]; split
  · rename_i h; subst h; rfl
  · rfl

theorem warp?_modWarp (c k b j : Nat) (f : Warp → Warp) :
    (s.modWarp c k f).warp? b j = if b = c ∧ j = k then (s.warp? c k).map f else s.warp? b j := by
  unfold State.warp?
  rw [core_modWarp]
  by_cases hb : b = c
  · subst hb
    simp only [if_true, true_and, NMap.at?_upd]
  · simp [hb]

@[simp] theorem warp?_modWarp_self (c k : Nat) (f : Warp → Warp) : (s.modWarp c k f).warp? c k = (s.warp? c k).map f := by
  simp [warp?_modWarp]

@[simp] theorem warp?_wrStore (c a n v b j : Nat) : (s.wrStore c a n v).warp? b j = s.warp? b j := by
  unfold State.warp? State.wrStore
  rw [core_modCore]; split
  · rename_i h; subst h; rfl
  · rfl

theorem core_wrStore_store (c a n v b : Nat) :
    ((s.wrStore c a n v).core b).store = if b = c then Mem.wr (s.core c).store a n v else (s.core b).store := by
  unfold State.wrStore
  rw [core_modCore]; split <;> rfl

end Sys2Proof.Machine.State
end

