-- ==== Sys2Proof/Laws/Issue.lean ====
section
/-! SUPPORT. What issuing does once no check turns the instruction away, and what the instruction boundary changes: the two
lemmas that every claim about an instruction cites instead of unfolding the issue. -/

namespace Sys2Proof.Machine

/-! ## Lanes of a warp -/

theorem lane_of_warp {s : State} {c k : Nat} {w : Warp} (hk : k < Config.warpSlots) (h : s.warp? c k = some w) (l : Nat) :
    s.lane c k l = w.lanes.atD l Lane.never := by
  have : k ≠ ctrlSlot := by unfold ctrlSlot; unfold Config.warpSlots at hk; omega
  simp [State.lane, this, h]

theorem modLane_eq {s : State} {c k : Nat} (hk : k < Config.warpSlots) (l : Nat) (f : Lane → Lane) :
    s.modLane c k l f = s.modWarp c k (fun w => { w with lanes := w.lanes.upd l f }) := by
  have : k ≠ ctrlSlot := by unfold ctrlSlot; unfold Config.warpSlots at hk; omega
  simp [State.modLane, this]

theorem atD_upd (m : NMap Lane) (l j : Nat) (f : Lane → Lane) (h : (m.at? l).isSome) :
    (m.upd l f).atD j Lane.never = if j = l then f (m.atD l Lane.never) else m.atD j Lane.never := by
  simp only [NMap.atD, NMap.at?_upd]
  split
  · obtain ⟨y, hy⟩ := Option.isSome_iff_exists.1 h; simp [hy]
  · rfl

/-! ## States that agree but for one warp -/

theorem SameBut.refl (s : State) (c k : Nat) : SameBut s s c k := ⟨rfl, fun _ _ => rfl, rfl⟩

theorem SameBut.trans {s t u : State} {c k : Nat} (h : SameBut s t c k) (g : SameBut t u c k) : SameBut s u c k :=
  ⟨g.rest.trans h.rest, fun b hb => (g.cores b hb).trans (h.cores b hb), g.core.trans h.core⟩

theorem sameBut_modWarp (s : State) (c k : Nat) (f : Warp → Warp) (h : ∀ w, (f w).bare = w.bare) :
    SameBut s (s.modWarp c k f) c k := by
  refine ⟨rfl, fun b hb => ?_, ?_⟩
  · rw [State.core_modWarp]; simp [hb]
  · rw [State.core_modWarp]
    simp only [if_true, Core.bare, NMap.upd_upd]
    congr 2
    funext w; exact h w

theorem sameBut_wrStore (s : State) (c k a n v : Nat) : SameBut s (s.wrStore c a n v) c k := by
  refine ⟨rfl, fun b hb => ?_, ?_⟩
  · unfold State.wrStore; rw [State.core_modCore]; simp [hb]
  · unfold State.wrStore; rw [State.core_modCore]; simp [Core.bare]

theorem sameBut_clauses (s : State) (cs : List Clause) (c k : Nat) : SameBut s { s with clauses := cs } c k :=
  ⟨rfl, fun _ _ => rfl, rfl⟩

theorem bare_lanes (w : Warp) (l : Nat) (f : Lane → Lane)
    (h : ∀ y, (f y).kind = y.kind ∧ (f y).wait = y.wait) :
    ({ w with lanes := w.lanes.upd l f } : Warp).bare = w.bare := by
  simp only [Warp.bare, NMap.mapV, NMap.upd, List.map_map]
  congr 1
  apply List.map_congr_left
  intro e _
  simp only [Function.comp]
  split
  · simp [h]
  · rfl

/-! ## Issuing -/

/-- A non-collective instruction that no check turns away issues in every lane of its warp (R129, R130). -/
theorem issue_ready {i : Instr} {ops : List (Operand × Pos)} {f : WarpStep} {s : State} {x : Clause} {k : Nat} {w : Warp}
    (h : Issues s x k w) (hr : Ready i ops s x k w) (hc : ctrlOnly i = false) :
    issue i ops f s = endIssue x (f x s k (x.lanesOf k)) := by
  have hk : k ≠ ctrlSlot := by have := h.slot; unfold ctrlSlot; unfold Config.warpSlots at this; omega
  obtain ⟨t, ht⟩ : ∃ t, s.clauses = x :: t := by
    have := h.head
    cases hs : s.clauses with
    | nil => simp [hs] at this
    | cons y t => exact ⟨t, by simp [hs] at this; rw [this]⟩
  have ha : s.alloc x.core k = w.regs := by simp [State.alloc, hk, h.warp]
  unfold issue
  rw [ht]
  have hp := h.picker
  have : issueWarp i ops f x s k = f x s k (x.lanesOf k) := by
    have h1 : (s.repro x.core k && i.operands.any isTiming && guardLanes s x k (x.lanesOf k) != []) = false := by
      rcases hr.timing with h1 | h1 <;> simp [h1]
    have h2 : (collectiveIn s x.core k i && !replaying s x.core k x.pc) = false := by
      rcases hr.single with h1 | h1 <;> simp [h1]
    unfold issueWarp
    simp [hk, hc, ha, hr.range, h1, h2]
  cases hx : x.picker with
  | stream n => exact absurd hx (hp.2 n)
  | control => exact absurd hx hp.1
  | part p => simp only [hx, h.slots, List.foldl_cons, List.foldl_nil, this]

/-- A warp-collective instruction whose members have all arrived issues in them together (R132, R133). -/
theorem issue_arrived {i : Instr} {ops : List (Operand × Pos)} {f : WarpStep} {s : State} {x : Clause} {k : Nat} {w : Warp}
    (h : Issues s x k w) (hr : Arrived i ops s x k w) (hc : ctrlOnly i = false) :
    issue i ops f s = endIssue x (f x s k (x.members k w i)) := by
  have hk : k ≠ ctrlSlot := by have := h.slot; unfold ctrlSlot; unfold Config.warpSlots at this; omega
  obtain ⟨t, ht⟩ : ∃ t, s.clauses = x :: t := by
    have := h.head
    cases hs : s.clauses with
    | nil => simp [hs] at this
    | cons y t => exact ⟨t, by simp [hs] at this; rw [this]⟩
  have ha : s.alloc x.core k = w.regs := by simp [State.alloc, hk, h.warp]
  unfold issue
  rw [ht]
  have hp := h.picker
  have : issueWarp i ops f x s k = f x s k (x.members k w i) := by
    have h1 : (s.repro x.core k && i.operands.any isTiming && guardLanes s x k (x.lanesOf k) != []) = false := by
      rcases hr.timing with h1 | h1 <;> simp [h1]
    have h3 : (Instr.needsAll32 i && w.present.length != 32) = false := by
      cases hn : Instr.needsAll32 i
      · rfl
      · simp [hr.whole hn]
    unfold issueWarp
    simp only [hk, if_false, hc, Bool.false_eq_true, ha, hr.range, h1, hr.collective, hr.fresh, h.warp, h3, hr.members,
      Bool.not_true, Bool.not_false, Bool.and_true, if_true]
    rfl
  cases hx : x.picker with
  | stream n => exact absurd hx (hp.2 n)
  | control => exact absurd hx hp.1
  | part p => simp only [hx, h.slots, List.foldl_cons, List.foldl_nil, this]

/-- An instruction that goes has its effect in the lanes it goes for. -/
theorem issue_goes {i : Instr} {ops : List (Operand × Pos)} {f : WarpStep} {s : State} {x : Clause} {k : Nat} {w : Warp}
    {ls ex : List Nat} (h : Issues s x k w) (hr : Goes i ops s x k w ls ex) (hc : ctrlOnly i = false) :
    issue i ops f s = endIssue x (f x s k ls) := by
  rcases hr with ⟨h1, rfl, rfl⟩ | ⟨h1, rfl, rfl⟩
  · exact issue_ready h h1 hc
  · exact issue_arrived h h1 hc

theorem Goes.guard {i : Instr} {ops : List (Operand × Pos)} {s : State} {x : Clause} {k : Nat} {w : Warp} {ls ex : List Nat}
    (h : Goes i ops s x k w ls ex) : guardLanes s x k ls = ex := by
  rcases h with ⟨_, rfl, rfl⟩ | ⟨_, rfl, rfl⟩ <;> rfl

theorem Goes.sub {i : Instr} {ops : List (Operand × Pos)} {s : State} {x : Clause} {k : Nat} {w : Warp} {ls ex : List Nat}
    (h : Goes i ops s x k w ls ex) : ls.Sublist (x.lanesOf k) := by
  rcases h with ⟨_, rfl, _⟩ | ⟨_, rfl, _⟩
  · exact List.Sublist.refl _
  · exact List.filter_sublist

/-! ## The instruction boundary -/

/-- A fold of changes to one warp. -/
theorem foldl_modWarp {α : Type} (g : α → Warp → Warp) (c k : Nat) (L : List α) (s : State) (w : Warp)
    (h : s.warp? c k = some w) (hb : ∀ e w, (g e w).bare = w.bare) :
    (L.foldl (fun s e => s.modWarp c k (g e)) s).warp? c k = some (L.foldl (fun w e => g e w) w) ∧
    ((L.foldl (fun s e => s.modWarp c k (g e)) s).core c).store = (s.core c).store ∧
    (L.foldl (fun s e => s.modWarp c k (g e)) s).clauses = s.clauses ∧
    SameBut s (L.foldl (fun s e => s.modWarp c k (g e)) s) c k := by
  induction L generalizing s w with
  | nil => exact ⟨h, rfl, rfl, SameBut.refl _ _ _⟩
  | cons e L ih =>
    obtain ⟨h1, h2, h3, h4⟩ := ih (s.modWarp c k (g e)) (g e w) (by simp [h])
    refine ⟨h1, ?_, ?_, (sameBut_modWarp s c k (g e) (hb e)).trans h4⟩
    · simp only [List.foldl_cons, h2, State.core_modWarp_store]
    · simp only [List.foldl_cons, h3, State.modWarp_clauses]

/-- A fold of changes to lanes, read at one lane. -/
theorem foldl_upd_atD {α : Type} (g : α → Lane → Lane) (n : α → Nat) (L : List α) (m : NMap Lane) (j : Nat)
    (h : ∀ e ∈ L, (m.at? (n e)).isSome) :
    (L.foldl (fun m e => m.upd (n e) (g e)) m).atD j Lane.never =
      (L.filter (fun e => n e = j)).foldl (fun y e => g e y) (m.atD j Lane.never) := by
  induction L generalizing m with
  | nil => rfl
  | cons e L ih =>
    have he := h e List.mem_cons_self
    rw [List.foldl_cons, ih]
    · rw [atD_upd m (n e) j (g e) he]
      by_cases hj : n e = j
      · subst hj; simp
      · simp [hj, Ne.symm hj]
    · intro e2 h2
      have := h e2 (List.mem_cons_of_mem _ h2)
      rw [NMap.at?_upd]
      split
      · simp [he]
      · exact this

/-- What the instruction boundary leaves of a state u in which the clause still stands at the head with its lanes (R170, R207). -/
theorem endIssue_spec {s u : State} {x : Clause} {k : Nat} {w v : Warp} (h : Issues s x k w) (hu : u.clauses = s.clauses)
    (hv : u.warp? x.core k = some v) (hl : ∀ l, (v.lanes.at? l).isSome = (w.lanes.at? l).isSome) (hs : v.stepping = none)
    (hne : x.lanes ≠ []) :
    ∃ v', (endIssue x u).warp? x.core k = some v' ∧
      v' = { v with lastIssue := v'.lastIssue, lanes := v'.lanes } ∧
      (∀ l, (v'.lanes.at? l).isSome = (v.lanes.at? l).isSome) ∧
      (∀ l, v'.lanes.atD l Lane.never = if l ∈ x.lanesOf k then { v.lanes.atD l Lane.never with pc := nextPc x.pc }
        else v.lanes.atD l Lane.never) ∧
      ((endIssue x u).core x.core).store = (u.core x.core).store ∧
      (endIssue x u).clauses = x.behind s.clauses.tail ∧
      SameBut u (endIssue x u) x.core k := by
  obtain ⟨t, ht⟩ : ∃ t, s.clauses = x :: t := by
    have := h.head
    cases hs : s.clauses with
    | nil => simp [hs] at this
    | cons y t => exact ⟨t, by simp [hs] at this; rw [this]⟩
  have huc : u.clauses = x :: t := by rw [hu, ht]
  have e1 : x.lanes.foldl (fun s r => s.modLane x.core r.slot r.lane (fun z => { z with pc := nextPc x.pc })) u =
      x.lanes.foldl (fun s r => s.modWarp x.core k (fun w => { w with lanes := w.lanes.upd r.lane (fun z => { z with pc := nextPc x.pc }) })) u := by
    have : ∀ (L : List LaneRef) (s : State), (∀ r ∈ L, r.slot = k) →
        L.foldl (fun s r => s.modLane x.core r.slot r.lane (fun z => { z with pc := nextPc x.pc })) s =
        L.foldl (fun s r => s.modWarp x.core k (fun w => { w with lanes := w.lanes.upd r.lane (fun z => { z with pc := nextPc x.pc }) })) s := by
      intro L
      induction L with
      | nil => intros; rfl
      | cons r L ih =>
        intro s hL
        simp only [List.foldl_cons]
        rw [hL r List.mem_cons_self, modLane_eq h.slot, ih _ (fun r hr => hL r (List.mem_cons_of_mem _ hr))]
    exact this _ _ (fun r hr => (h.lanes r hr).1)
  obtain ⟨a1, a2, a3, a4⟩ := foldl_modWarp (fun (r : LaneRef) (w : Warp) =>
    { w with lanes := w.lanes.upd r.lane (fun z => { z with pc := nextPc x.pc }) }) x.core k x.lanes u v hv
    (fun r w => bare_lanes w _ _ (fun _ => ⟨rfl, rfl⟩))
  generalize hu1 : x.lanes.foldl (fun s r => s.modWarp x.core k (fun w =>
    { w with lanes := w.lanes.upd r.lane (fun z => { z with pc := nextPc x.pc }) })) u = u1 at *
  have vl : x.lanes.foldl (fun (w : Warp) (r : LaneRef) => { w with lanes := w.lanes.upd r.lane (fun z => { z with pc := nextPc x.pc }) }) v =
      { v with lanes := x.lanes.foldl (fun m r => m.upd r.lane (fun z => { z with pc := nextPc x.pc })) v.lanes } := by
    clear hl hv a1 a2 a3 a4 hu1 e1
    generalize x.lanes = L
    induction L generalizing v with
    | nil => rfl
    | cons r L ih => simp only [List.foldl_cons]; rw [ih (by exact hs)]
  rw [vl] at a1
  have st : stepStops x u1 k = u1 := by
    unfold stepStops; rw [a1]; simp [hs]
  refine ⟨{ v with lanes := x.lanes.foldl (fun m r => m.upd r.lane (fun z => { z with pc := nextPc x.pc })) v.lanes,
                   lastIssue := u1.tick }, ?_⟩
  have key : endIssue x u = { u1.modWarp x.core k (fun w => { w with lastIssue := u1.tick }) with
      clauses := x.behind t } := by
    unfold endIssue
    rw [huc]
    simp only [e1, h.slots, List.foldl_cons, List.foldl_nil, st]
    rw [State.modWarp_clauses, a3, huc]
    simp only [Clause.behind]
    by_cases h4 : x.slot = 4
    · simp [h4]
    · simp [h4, hne]
  rw [key]
  have some_ : ∀ (L : List LaneRef) (m : NMap Lane) (l : Nat),
      ((L.foldl (fun m r => m.upd r.lane (fun z => { z with pc := nextPc x.pc })) m).at? l).isSome = (m.at? l).isSome := by
    intro L
    induction L with
    | nil => intros; rfl
    | cons r L ih =>
      intro m l
      rw [List.foldl_cons, ih, NMap.at?_upd]
      split
      · rename_i hl; subst hl; simp
      · rfl
  refine ⟨?_, rfl, fun l => some_ _ _ _, ?_, ?_, ?_, ?_⟩
  · show (u1.modWarp x.core k _).warp? x.core k = _
    rw [State.warp?_modWarp_self, a1]; rfl
  · intro l
    show (x.lanes.foldl (fun m r => m.upd r.lane (fun z => { z with pc := nextPc x.pc })) v.lanes).atD l Lane.never = _
    rw [foldl_upd_atD (fun (_ : LaneRef) (z : Lane) => { z with pc := nextPc x.pc }) (fun r => r.lane)]
    · have lem : ∀ (L : List LaneRef) (y : Lane), L.foldl (fun (y : Lane) (_ : LaneRef) => { y with pc := nextPc x.pc }) y =
          if L = [] then y else { y with pc := nextPc x.pc } := by
        intro L
        induction L with
        | nil => intro y; rfl
        | cons r L ih => intro y; simp only [List.foldl_cons, ih]; split <;> simp
      rw [lem]
      by_cases hm : l ∈ x.lanesOf k
      · rw [if_pos hm, if_neg]
        intro hnil
        obtain ⟨r, hr, hr2⟩ : ∃ r ∈ x.lanes, r.lane = l := by
          simp only [Clause.lanesOf, List.mem_filter, List.any_eq_true] at hm
          obtain ⟨_, r, hr, hr2⟩ := hm
          exact ⟨r, hr, by simpa using (by simpa using hr2 : r.slot = k ∧ r.lane = l).2⟩
        have : r ∈ x.lanes.filter (fun e => e.lane = l) := List.mem_filter.2 ⟨hr, by simpa using hr2⟩
        rw [hnil] at this; exact absurd this (by simp)
      · rw [if_neg hm, if_pos]
        apply List.filter_eq_nil_iff.2
        intro r hr hr2
        apply hm
        have hr2 : r.lane = l := by simpa using hr2
        simp only [Clause.lanesOf, List.mem_filter, List.any_eq_true]
        refine ⟨?_, r, hr, by simp [(h.lanes r hr).1, hr2]⟩
        unfold lanes32; rw [List.mem_range]; rw [← hr2]; exact (h.lanes r hr).2.1
    · intro r hr; rw [hl]; exact (h.lanes r hr).2.2
  · show ((u1.modWarp x.core k _).core x.core).store = _
    rw [State.core_modWarp_store, a2]
  · rw [ht]; rfl
  · exact a4.trans ((sameBut_modWarp u1 x.core k (fun w => { w with lastIssue := u1.tick }) (fun _ => rfl)).trans (sameBut_clauses _ _ _ _))

end Sys2Proof.Machine
end

