-- ==== Sys2Proof/Laws/Arith.lean ====
section
/-! SUPPORT. Writing results to registers, predicates and latches, and from them the effect of every arithmetic form (R15, R180,
R181): the lemma that claims about arithmetic cite. -/

namespace Sys2Proof.Machine

/-! ## A fold of writes to cells -/

/-- Writes to distinct cells, read back. -/
theorem foldl_write {S K V : Type} (wr : S → K → V → S) (rd : S → K → V) (P : S → Prop) (ok : K → Prop)
    (hP : ∀ s k v, P s → P (wr s k v)) (hs : ∀ s k v, P s → ok k → rd (wr s k v) k = v)
    (hn : ∀ s k j v, P s → ok k → ok j → j ≠ k → rd (wr s k v) j = rd s j)
    (L : List (K × V)) (s : S) (h : P s) (hL : ∀ e ∈ L, ok e.1) :
    P (L.foldl (fun s e => wr s e.1 e.2) s) ∧
    (∀ j, ok j → j ∉ L.map Prod.fst → rd (L.foldl (fun s e => wr s e.1 e.2) s) j = rd s j) ∧
    ((L.map Prod.fst).Nodup → ∀ e ∈ L, rd (L.foldl (fun s e => wr s e.1 e.2) s) e.1 = e.2) := by
  induction L generalizing s with
  | nil => exact ⟨h, fun _ _ _ => rfl, fun _ e he => absurd he (by simp)⟩
  | cons a L ih =>
    have oka := hL a List.mem_cons_self
    obtain ⟨i1, i2, i3⟩ := ih (wr s a.1 a.2) (hP _ _ _ h) (fun e he => hL e (List.mem_cons_of_mem _ he))
    refine ⟨i1, fun j oj hj => ?_, fun hd e he => ?_⟩
    · simp only [List.map_cons, List.mem_cons, not_or] at hj
      rw [List.foldl_cons, i2 j oj hj.2, hn _ _ _ _ h oka oj hj.1]
    · simp only [List.map_cons, List.nodup_cons] at hd
      rcases List.mem_cons.1 he with rfl | he
      · rw [List.foldl_cons, i2 _ oka hd.1, hs _ _ _ h oka]
      · exact i3 hd.2 e he

/-! ## Words of a value -/

theorem words_ofNat (p : Pos) (v : Nat) : words p (fun i => BitVec.ofNat 32 (v / 2 ^ (32 * i))) = v % 2 ^ (32 * posSpan p) := by
  cases p <;> simp [words, posSpan] <;> omega

theorem words_congr (p : Pos) (f g : Nat → Word) (h : ∀ i, i < posSpan p → f i = g i) : words p f = words p g := by
  cases p <;> simp only [words, posSpan] at h ⊢
  · rw [h 0 (by omega)]
  · rw [h 0 (by omega), h 1 (by omega)]
  · rw [h 0 (by omega), h 1 (by omega), h 2 (by omega), h 3 (by omega)]

theorem readPlace_main (s : State) (c k l : Nat) (p : Pos) (r : BitVec 10) :
    readPlace s c k l p (.main r) = words p (fun i => s.rdReg c k l (r.toNat + i)) := rfl

theorem readPlace_opf (s : State) (c k l : Nat) (p : Pos) (r : BitVec 4) :
    readPlace s c k l p (.opf r) = words p (fun i => s.opfWord c k l (r.toNat + i)) := rfl

theorem readPlace_wreg (s : State) (c k l : Nat) (p : Pos) (r : BitVec 6) :
    readPlace s c k l p (.wreg r) = words p (fun i => s.wreg c k (r.toNat + i)) := rfl

/-! ## Main-file registers -/

theorem rdReg_of_warp {s : State} {c k : Nat} {w : Warp} (hk : k < Config.warpSlots) (h : s.warp? c k = some w) (l r : Nat) :
    s.rdReg c k l r = BitVec.ofNat 32 (Mem.rd (s.core c).store (State.regOff w r l) 4) := by
  have : k ≠ ctrlSlot := by unfold ctrlSlot; unfold Config.warpSlots at hk; omega
  simp [State.rdReg, this, h]

theorem wrReg_of_warp {s : State} {c k : Nat} {w : Warp} (hk : k < Config.warpSlots) (h : s.warp? c k = some w) (l r : Nat)
    (v : Word) : s.wrReg c k l r v = s.wrStore c (State.regOff w r l) 4 v.toNat := by
  have : k ≠ ctrlSlot := by unfold ctrlSlot; unfold Config.warpSlots at hk; omega
  simp [State.wrReg, this, h]

theorem regOff_disjoint (w : Warp) (r l q j : Nat) (hl : l < 32) (hj : j < 32) (h : (r, l) ≠ (q, j)) :
    State.regOff w r l + 4 ≤ State.regOff w q j ∨ State.regOff w q j + 4 ≤ State.regOff w r l := by
  unfold State.regOff
  have : r * 32 + l ≠ q * 32 + j := fun e => h (by
    have h1 : r = q := by omega
    have h2 : l = j := by omega
    rw [h1, h2])
  omega

/-- The registers that a list of register writes leaves: those named read the values, every other byte of the store is as
before. -/
theorem foldl_wrReg {c k : Nat} {w : Warp} (hk : k < Config.warpSlots) (L : List ((Nat × Nat) × Word)) (s : State)
    (h : s.warp? c k = some w) (hL : ∀ e ∈ L, e.1.2 < 32) :
    (L.foldl (fun s e => s.wrReg c k e.1.2 e.1.1 e.2) s).warp? c k = some w ∧
    (L.foldl (fun s e => s.wrReg c k e.1.2 e.1.1 e.2) s).clauses = s.clauses ∧
    SameBut s (L.foldl (fun s e => s.wrReg c k e.1.2 e.1.1 e.2) s) c k ∧
    (∀ a, (∀ e ∈ L, a < State.regOff w e.1.1 e.1.2 ∨ State.regOff w e.1.1 e.1.2 + 4 ≤ a) →
      Mem.byte ((L.foldl (fun s e => s.wrReg c k e.1.2 e.1.1 e.2) s).core c).store a = Mem.byte (s.core c).store a) ∧
    ((L.map Prod.fst).Nodup → ∀ e ∈ L, (L.foldl (fun s e => s.wrReg c k e.1.2 e.1.1 e.2) s).rdReg c k e.1.2 e.1.1 = e.2) := by
  have main := foldl_write (S := State) (K := Nat × Nat) (V := Word) (fun s q v => s.wrReg c k q.2 q.1 v)
    (fun s q => s.rdReg c k q.2 q.1) (fun s => s.warp? c k = some w) (fun q => q.2 < 32)
    (fun s q v h => by rw [wrReg_of_warp hk h, State.warp?_wrStore]; exact h)
    (fun s q v h hq => by
      have h2 : (s.wrStore c (State.regOff w q.1 q.2) 4 v.toNat).warp? c k = some w := by rw [State.warp?_wrStore]; exact h
      show (s.wrReg c k q.2 q.1 v).rdReg c k q.2 q.1 = v
      rw [wrReg_of_warp hk h, rdReg_of_warp hk h2, State.core_wrStore_store]
      simp only [if_true, Mem.rd_wr_self]
      apply BitVec.eq_of_toNat_eq
      simp only [BitVec.toNat_ofNat]
      have := v.isLt
      omega)
    (fun s q j v h hq hj hne => by
      have h2 : (s.wrStore c (State.regOff w q.1 q.2) 4 v.toNat).warp? c k = some w := by rw [State.warp?_wrStore]; exact h
      show (s.wrReg c k q.2 q.1 v).rdReg c k j.2 j.1 = s.rdReg c k j.2 j.1
      rw [wrReg_of_warp hk h, rdReg_of_warp hk h2, rdReg_of_warp hk h, State.core_wrStore_store]
      simp only [if_true]
      rw [Mem.rd_wr_disjoint]
      have := regOff_disjoint w j.1 j.2 q.1 q.2 hj hq hne
      omega) L s h hL
  refine ⟨main.1, ?_, ?_, ?_, main.2.2⟩
  · clear main hL
    induction L generalizing s with
    | nil => rfl
    | cons e L ih =>
      rw [List.foldl_cons, ih _ (by rw [wrReg_of_warp hk h, State.warp?_wrStore]; exact h), State.wrReg_clauses]
  · clear main hL
    induction L generalizing s with
    | nil => exact SameBut.refl _ _ _
    | cons e L ih =>
      have hw := wrReg_of_warp hk h e.1.2 e.1.1 e.2
      rw [List.foldl_cons]
      refine SameBut.trans ?_ (ih _ (by rw [hw, State.warp?_wrStore]; exact h))
      rw [hw]; exact sameBut_wrStore _ _ _ _ _ _
  · clear main hL
    induction L generalizing s with
    | nil => intros; rfl
    | cons e L ih =>
      intro a ha
      have hw := wrReg_of_warp hk h e.1.2 e.1.1 e.2
      rw [List.foldl_cons, ih _ (by rw [hw, State.warp?_wrStore]; exact h) a (fun e he => ha e (List.mem_cons_of_mem _ he)), hw,
        State.core_wrStore_store]
      simp only [if_true]
      exact Mem.byte_wr_of_not_mem _ _ _ _ _ (by have := ha e List.mem_cons_self; omega)

/-! ## Destinations -/

/-- The cells that results go to: register and lane, with the word. -/
def dstCells (r : Nat) (p : Pos) (rs : List (Nat × Nat)) : List ((Nat × Nat) × Word) :=
  rs.flatMap (fun e => (List.range (posSpan p)).map (fun i => ((r + i, e.1), BitVec.ofNat 32 (e.2 / 2 ^ (32 * i)))))

theorem dstCells_nodup (r : Nat) (p : Pos) (rs : List (Nat × Nat)) (h : (rs.map Prod.fst).Nodup) :
    ((dstCells r p rs).map Prod.fst).Nodup := by
  induction rs with
  | nil => simp [dstCells]
  | cons e rs ih =>
    simp only [List.map_cons, List.nodup_cons] at h
    have := ih h.2
    unfold dstCells at this ⊢
    rw [List.flatMap_cons, List.map_append, List.nodup_append]
    refine ⟨?_, this, ?_⟩
    · rw [List.map_map]
      rw [List.nodup_iff_pairwise_ne, List.pairwise_map]
      exact (List.nodup_range).imp (fun {a b} hab => by simpa using hab)
    · intro a ha b hb hab
      subst hab
      simp only [List.mem_map, List.mem_flatMap, List.mem_range] at ha hb
      obtain ⟨_, ⟨i, _, rfl⟩, rfl⟩ := ha
      obtain ⟨_, ⟨e2, he2, j, _, rfl⟩, hj⟩ := hb
      have : e2.1 = e.1 := (Prod.mk.inj hj).2
      exact h.1 (List.mem_map.2 ⟨e2, he2, this⟩)

theorem writeDst_main (s : State) (c k : Nat) (p : Pos) (r : BitVec 10) (rs : List (Nat × Nat)) :
    rs.foldl (fun s e => writeDst s c k e.1 p (.main r) e.2) s =
      (dstCells r.toNat p rs).foldl (fun s e => s.wrReg c k e.1.2 e.1.1 e.2) s := by
  induction rs generalizing s with
  | nil => rfl
  | cons e rs ih =>
    rw [List.foldl_cons, ih]
    unfold dstCells
    rw [List.flatMap_cons, List.foldl_append, List.foldl_map]
    cases p <;> rfl

theorem writeDst_opf (s : State) (c k : Nat) (p : Pos) (r : BitVec 4) (rs : List (Nat × Nat)) :
    rs.foldl (fun s e => writeDst s c k e.1 p (.opf r) e.2) s =
      (dstCells r.toNat p rs).foldl (fun s e => s.modWarp c k (fun x => { x with opf := x.opf.putD (32 * e.1.1 + e.1.2) e.2 0 })) s := by
  induction rs generalizing s with
  | nil => rfl
  | cons e rs ih =>
    rw [List.foldl_cons, ih]
    unfold dstCells
    rw [List.flatMap_cons, List.foldl_append, List.foldl_map]
    cases p <;> rfl

/-! ## Following one warp through a sequence of changes -/

/-- From t to u the warp in slot k changes from v to v', its main file, operand file, warp-uniform registers and stack pointers
staying as they are. -/
structure Keeps (t u : State) (c k : Nat) (v v' : Warp) : Prop where
  warp : u.warp? c k = some v'
  same : v' = { v with lanes := v'.lanes, lat := v'.lat, spin := v'.spin, lastIssue := v'.lastIssue }
  lanes : ∀ l, (v'.lanes.at? l).isSome = (v.lanes.at? l).isSome
  sp : ∀ l, (v'.lanes.atD l Lane.never).sp = (v.lanes.atD l Lane.never).sp
  store : (u.core c).store = (t.core c).store
  rest : SameBut t u c k

theorem Keeps.trans {s t u : State} {c k : Nat} {v v' v'' : Warp} (h : Keeps s t c k v v') (g : Keeps t u c k v' v'') :
    Keeps s u c k v v'' := by
  refine ⟨g.warp, ?_, fun l => (g.lanes l).trans (h.lanes l), fun l => (g.sp l).trans (h.sp l), g.store.trans h.store,
    h.rest.trans g.rest⟩
  have h1 := h.same
  have h2 := g.same
  rw [h1] at h2
  exact h2

theorem Keeps.refl {t : State} {c k : Nat} {v : Warp} (h : t.warp? c k = some v) : Keeps t t c k v v :=
  ⟨h, rfl, fun _ => rfl, fun _ => rfl, rfl, SameBut.refl _ _ _⟩

/-- A change of the latches, the spin detector or the last issue of a warp. -/
theorem keeps_modWarp {t : State} {c k : Nat} {v : Warp} (h : t.warp? c k = some v) (f : Warp → Warp)
    (hf : ∀ w, f w = { w with lat := (f w).lat, spin := (f w).spin, lastIssue := (f w).lastIssue }) :
    Keeps t (t.modWarp c k f) c k v (f v) := by
  have hl : ∀ w, (f w).lanes = w.lanes := fun w => by rw [hf w]
  refine ⟨by simp [h], ?_, fun l => by rw [hl], fun l => by rw [hl], by simp, sameBut_modWarp _ _ _ _ ?_⟩
  · have h1 := hf v
    rw [hl v]; exact h1
  · intro w; rw [hf w]; rfl

/-- Lanes of a warp change their predicates or program counters. -/
theorem keeps_lanes {α : Type} {t : State} {c k : Nat} {v : Warp} (hk : k < Config.warpSlots) (h : t.warp? c k = some v)
    (L : List α) (n : α → Nat) (g : α → Lane → Lane)
    (hg : ∀ e y, (g e y).kind = y.kind ∧ (g e y).wait = y.wait ∧ (g e y).sp = y.sp) (hL : ∀ e ∈ L, (v.lanes.at? (n e)).isSome) :
    ∃ v', Keeps t (L.foldl (fun s e => s.modLane c k (n e) (g e)) t) c k v v' ∧
      (∀ l, v'.lanes.atD l Lane.never = (L.filter (fun e => n e = l)).foldl (fun y e => g e y) (v.lanes.atD l Lane.never)) ∧
      v'.lat = v.lat ∧ v'.spin = v.spin ∧ (L.foldl (fun s e => s.modLane c k (n e) (g e)) t).clauses = t.clauses := by
  have e1 : ∀ (L : List α) (t : State), L.foldl (fun s e => s.modLane c k (n e) (g e)) t =
      L.foldl (fun s e => s.modWarp c k (fun w => { w with lanes := w.lanes.upd (n e) (g e) })) t := by
    intro L
    induction L with
    | nil => intros; rfl
    | cons e L ih => intro t; simp only [List.foldl_cons]; rw [modLane_eq hk, ih]
  obtain ⟨a1, a2, a3, a4⟩ := foldl_modWarp (fun (e : α) (w : Warp) => { w with lanes := w.lanes.upd (n e) (g e) }) c k L t v h
    (fun e w => bare_lanes w _ _ (fun y => ⟨(hg e y).1, (hg e y).2.1⟩))
  have vl : ∀ (L : List α) (v : Warp), L.foldl (fun (w : Warp) e => { w with lanes := w.lanes.upd (n e) (g e) }) v =
      { v with lanes := L.foldl (fun m e => m.upd (n e) (g e)) v.lanes } := by
    intro L
    induction L with
    | nil => intros; rfl
    | cons e L ih => intro v; simp only [List.foldl_cons]; rw [ih]
  have some_ : ∀ (L : List α) (m : NMap Lane) (l : Nat), ((L.foldl (fun m e => m.upd (n e) (g e)) m).at? l).isSome = (m.at? l).isSome := by
    intro L
    induction L with
    | nil => intros; rfl
    | cons e L ih =>
      intro m l
      rw [List.foldl_cons, ih, NMap.at?_upd]
      split
      · rename_i hl; subst hl; simp
      · rfl
  rw [e1]
  rw [vl] at a1
  refine ⟨_, ⟨a1, rfl, fun l => some_ _ _ _, fun l => ?_, a2, a4⟩, fun l => foldl_upd_atD g n L v.lanes l hL, rfl, rfl, a3⟩
  rw [foldl_upd_atD g n L v.lanes l hL]
  generalize v.lanes.atD l Lane.never = y
  clear hL a1 a2 a3 a4
  induction L.filter (fun e => n e = l) generalizing y with
  | nil => rfl
  | cons e M ih => rw [List.foldl_cons, ih, (hg e y).2.2]

/-- Reading a register of each lane sees no such change. -/
theorem Keeps.readPlace {t u : State} {c k : Nat} {v v' : Warp} (hk : k < Config.warpSlots) (ht : t.warp? c k = some v)
    (h : Keeps t u c k v v') (l : Nat) (p : Pos) (o : Operand) (ho : regDst (some (o, p)) = true) :
    readPlace u c k l p o = readPlace t c k l p o := by
  cases o with
  | main r =>
    rw [readPlace_main, readPlace_main]
    refine words_congr p _ _ (fun i _ => ?_)
    rw [rdReg_of_warp hk h.warp, rdReg_of_warp hk ht, h.store]
    have : State.regOff v' (r.toNat + i) l = State.regOff v (r.toNat + i) l := by rw [h.same]; rfl
    rw [this]
  | opf r =>
    rw [readPlace_opf, readPlace_opf]
    refine words_congr p _ _ (fun i _ => ?_)
    have : v'.opf = v.opf := by rw [h.same]
    simp only [State.opfWord, h.warp, ht, this]
  | wreg r =>
    have : v'.wreg = v.wreg := by rw [h.same]
    rw [readPlace_wreg, readPlace_wreg]
    refine words_congr p _ _ (fun i _ => ?_)
    simp only [State.wreg, h.warp, ht, Warp.w32, this]
  | special code =>
    simp only [regDst, Bool.and_eq_true, decide_eq_true_eq] at ho
    obtain ⟨rfl, rfl⟩ := ho
    show (u.lane c k l).sp.toNat = (t.lane c k l).sp.toNat
    rw [lane_of_warp hk h.warp, lane_of_warp hk ht, h.sp]
  | _ => simp [regDst] at ho

/-- The lanes of a warp after `%sp` has been written in some of them. -/
theorem sp_fold (rs : List (Nat × Nat)) (l : Nat) (y : Lane) (hd : (rs.map Prod.fst).Nodup) :
    (rs.filter (fun e => e.1 = l)).foldl (fun (y : Lane) e => { y with sp := BitVec.ofNat 64 e.2 }) y =
      match rs.find? (fun e => e.1 = l) with | some e => { y with sp := BitVec.ofNat 64 e.2 } | none => y := by
  induction rs with
  | nil => rfl
  | cons e rs ih =>
    simp only [List.map_cons, List.nodup_cons] at hd
    by_cases h : e.1 = l
    · have : rs.filter (fun e => e.1 = l) = [] := by
        apply List.filter_eq_nil_iff.2
        intro a ha hal
        have hal : a.1 = l := by simpa using hal
        exact hd.1 (List.mem_map.2 ⟨a, ha, hal.trans h.symm⟩)
      rw [List.filter_cons_of_pos (by simpa using h), List.find?_cons_of_pos (by simpa using h), this]
      rfl
    · rw [List.filter_cons_of_neg (by simpa using h), List.find?_cons_of_neg (by simpa using h)]
      exact ih hd.2

/-- Results written to a register of each lane, or to none. -/
theorem writeResults_lane {s : State} {c k : Nat} {w : Warp} (hk : k < Config.warpSlots) (h : s.warp? c k = some w)
    (d : Option (Operand × Pos)) (hd : regDst d = true) (rs : List (Nat × Nat))
    (hl : ∀ e ∈ rs, e.1 < 32 ∧ (w.lanes.at? e.1).isSome) (hn : (rs.map Prod.fst).Nodup) :
    ∃ w', (writeResults s c k d rs).warp? c k = some w' ∧
      w' = { w with lanes := w'.lanes, opf := w'.opf, wreg := w'.wreg } ∧
      (∀ l, (w'.lanes.at? l).isSome = (w.lanes.at? l).isSome) ∧
      (∀ l, w'.lanes.atD l Lane.never = { w.lanes.atD l Lane.never with sp := (w'.lanes.atD l Lane.never).sp }) ∧
      (writeResults s c k d rs).clauses = s.clauses ∧
      SameBut s (writeResults s c k d rs) c k ∧
      (∀ o q, d = some (o, q) → o.isWreg = false → ∀ e ∈ rs, readPlace (writeResults s c k d rs) c k e.1 q o = e.2 % 2 ^ (32 * posSpan q)) ∧
      (∀ a, ¬ dstByte w d (rs.map Prod.fst) a →
        Mem.byte ((writeResults s c k d rs).core c).store a = Mem.byte (s.core c).store a) ∧
      (∀ j l, l < 32 → ¬ (dstOpf d j ∧ l ∈ rs.map Prod.fst) → w'.opf.atD (32 * j + l) 0 = w.opf.atD (32 * j + l) 0) ∧
      (∀ l, (∀ c q, d ≠ some (.special c, q)) ∨ l ∉ rs.map Prod.fst →
        (w'.lanes.atD l Lane.never).sp = (w.lanes.atD l Lane.never).sp) ∧
      (∀ j, w'.w32 j = wregAfter w.w32 d rs j) := by
  match d, hd with
  | none, _ =>
    exact ⟨w, h, rfl, fun _ => rfl, fun _ => rfl, rfl, SameBut.refl _ _ _, fun _ _ e => absurd e (by simp), fun _ _ => rfl,
      fun _ _ _ _ => rfl, fun _ _ => rfl, fun _ => rfl⟩
  | some (.main r, p), _ =>
    have e1 : writeResults s c k (some (.main r, p)) rs = (dstCells r.toNat p rs).foldl (fun s e => s.wrReg c k e.1.2 e.1.1 e.2) s :=
      writeDst_main s c k p r rs
    have cells : ∀ e ∈ dstCells r.toNat p rs, ∃ q ∈ rs, ∃ i, i < posSpan p ∧
        e = ((r.toNat + i, q.1), BitVec.ofNat 32 (q.2 / 2 ^ (32 * i))) := by
      intro e he
      simp only [dstCells, List.mem_flatMap, List.mem_map, List.mem_range] at he
      obtain ⟨q, hq, i, hi, rfl⟩ := he
      exact ⟨q, hq, i, hi, rfl⟩
    obtain ⟨a1, a2, a3, a4, a5⟩ := foldl_wrReg hk (dstCells r.toNat p rs) s h (fun e he => by
      obtain ⟨q, hq, i, _, rfl⟩ := cells e he
      exact (hl q hq).1)
    rw [e1]
    refine ⟨w, a1, rfl, fun _ => rfl, fun _ => rfl, a2, a3, ?_, ?_, fun _ _ _ _ => rfl, fun _ _ => rfl, fun _ => rfl⟩
    · intro o q hoq _ e he
      have hoq := Option.some.inj hoq
      have ho : o = .main r := (Prod.mk.inj hoq).1.symm
      have hq : q = p := (Prod.mk.inj hoq).2.symm
      subst ho; subst hq
      rw [← words_ofNat, readPlace_main]
      refine words_congr q _ _ (fun i hi => ?_)
      exact a5 (dstCells_nodup _ _ _ hn) ((r.toNat + i, e.1), BitVec.ofNat 32 (e.2 / 2 ^ (32 * i))) (by
        simp only [dstCells, List.mem_flatMap, List.mem_map, List.mem_range]
        exact ⟨e, he, i, hi, rfl⟩)
    · intro a ha
      apply a4
      intro e he
      obtain ⟨q, hq, i, hi, rfl⟩ := cells e he
      have : ¬ (State.regOff w (r.toNat + i) q.1 ≤ a ∧ a < State.regOff w (r.toNat + i) q.1 + 4) := fun hc =>
        ha ⟨r, p, rfl, q.1, List.mem_map.2 ⟨q, hq, rfl⟩, i, hi, hc.1, hc.2⟩
      show a < State.regOff w (r.toNat + i) q.1 ∨ State.regOff w (r.toNat + i) q.1 + 4 ≤ a
      omega
  | some (.opf r, p), _ =>
    have e1 : writeResults s c k (some (.opf r, p)) rs =
        (dstCells r.toNat p rs).foldl (fun s e => s.modWarp c k (fun x => { x with opf := x.opf.putD (32 * e.1.1 + e.1.2) e.2 0 })) s :=
      writeDst_opf s c k p r rs
    have cells : ∀ e ∈ dstCells r.toNat p rs, ∃ q ∈ rs, ∃ i, i < posSpan p ∧
        e = ((r.toNat + i, q.1), BitVec.ofNat 32 (q.2 / 2 ^ (32 * i))) := by
      intro e he
      simp only [dstCells, List.mem_flatMap, List.mem_map, List.mem_range] at he
      obtain ⟨q, hq, i, hi, rfl⟩ := he
      exact ⟨q, hq, i, hi, rfl⟩
    obtain ⟨a1, a2, a3, a4⟩ := foldl_modWarp (fun (e : (Nat × Nat) × Word) (x : Warp) =>
      { x with opf := x.opf.putD (32 * e.1.1 + e.1.2) e.2 0 }) c k (dstCells r.toNat p rs) s w h (fun _ _ => rfl)
    have vl : ∀ (L : List ((Nat × Nat) × Word)) (v : Warp),
        L.foldl (fun (x : Warp) e => { x with opf := x.opf.putD (32 * e.1.1 + e.1.2) e.2 0 }) v =
        { v with opf := L.foldl (fun m e => m.putD (32 * e.1.1 + e.1.2) e.2 0) v.opf } := by
      intro L
      induction L with
      | nil => intros; rfl
      | cons e L ih => intro v; simp only [List.foldl_cons]; rw [ih]
    rw [vl] at a1
    have main := foldl_write (S := NMap Word) (K := Nat × Nat) (V := Word) (fun m q v => m.putD (32 * q.1 + q.2) v 0)
      (fun m q => m.atD (32 * q.1 + q.2) 0) (fun _ => True) (fun q => q.2 < 32) (fun _ _ _ _ => trivial)
      (fun m q v _ _ => by simp [NMap.atD_putD])
      (fun m q j v _ hq hj hne => by
        show (m.putD (32 * q.1 + q.2) v 0).atD (32 * j.1 + j.2) 0 = m.atD (32 * j.1 + j.2) 0
        rw [NMap.atD_putD, if_neg]
        intro he
        exact hne (Prod.ext (by omega) (by omega)))
      (dstCells r.toNat p rs) w.opf trivial (fun e he => by
        obtain ⟨q, hq, i, _, rfl⟩ := cells e he
        exact (hl q hq).1)
    rw [e1]
    refine ⟨_, a1, rfl, fun _ => rfl, fun _ => rfl, a3, a4, ?_, fun a _ => by rw [a2], ?_, fun _ _ => rfl, fun _ => rfl⟩
    · intro o q hoq _ e he
      have hoq := Option.some.inj hoq
      have ho : o = .opf r := (Prod.mk.inj hoq).1.symm
      have hq : q = p := (Prod.mk.inj hoq).2.symm
      subst ho; subst hq
      rw [← words_ofNat, readPlace_opf]
      refine words_congr q _ _ (fun i hi => ?_)
      simp only [State.opfWord, a1]
      exact main.2.2 (dstCells_nodup _ _ _ hn) ((r.toNat + i, e.1), BitVec.ofNat 32 (e.2 / 2 ^ (32 * i))) (by
        simp only [dstCells, List.mem_flatMap, List.mem_map, List.mem_range]
        exact ⟨e, he, i, hi, rfl⟩)
    · intro j l hl32 hj
      refine main.2.1 (j, l) hl32 (fun hm => hj ?_)
      obtain ⟨e, he, hee⟩ := List.mem_map.1 hm
      obtain ⟨q, hq, i, hi, rfl⟩ := cells e he
      have h1 : r.toNat + i = j := (Prod.mk.inj hee).1
      have h2 : q.1 = l := (Prod.mk.inj hee).2
      exact ⟨⟨r, p, rfl, by omega, by omega⟩, List.mem_map.2 ⟨q, hq, h2⟩⟩
  | some (.special code, p), hd =>
    simp only [regDst, Bool.and_eq_true, decide_eq_true_eq] at hd
    obtain ⟨rfl, rfl⟩ := hd
    have e1 : ∀ (rs : List (Nat × Nat)) (s : State), writeResults s c k (some (.special 0x18, .w64)) rs =
        rs.foldl (fun s e => s.modWarp c k (fun x => { x with lanes := x.lanes.upd e.1 (fun y => { y with sp := BitVec.ofNat 64 e.2 }) })) s := by
      intro rs
      induction rs with
      | nil => intros; rfl
      | cons e rs ih =>
        intro s
        rw [List.foldl_cons, ← ih]
        show rs.foldl _ (writeDst s c k e.1 .w64 (.special 0x18) e.2) = _
        have : writeDst s c k e.1 .w64 (.special 0x18) e.2 =
            s.modWarp c k (fun x => { x with lanes := x.lanes.upd e.1 (fun y => { y with sp := BitVec.ofNat 64 e.2 }) }) := by
          show s.modLane c k e.1 _ = _
          rw [modLane_eq hk]
        rw [this]; rfl
    obtain ⟨a1, a2, a3, a4⟩ := foldl_modWarp (fun (e : Nat × Nat) (x : Warp) =>
      { x with lanes := x.lanes.upd e.1 (fun y => { y with sp := BitVec.ofNat 64 e.2 }) }) c k rs s w h
      (fun e x => bare_lanes x _ _ (fun _ => ⟨rfl, rfl⟩))
    have vl : ∀ (L : List (Nat × Nat)) (v : Warp),
        L.foldl (fun (x : Warp) e => { x with lanes := x.lanes.upd e.1 (fun y => { y with sp := BitVec.ofNat 64 e.2 }) }) v =
        { v with lanes := L.foldl (fun m e => m.upd e.1 (fun y => { y with sp := BitVec.ofNat 64 e.2 })) v.lanes } := by
      intro L
      induction L with
      | nil => intros; rfl
      | cons e L ih => intro v; simp only [List.foldl_cons]; rw [ih]
    have some_ : ∀ (L : List (Nat × Nat)) (m : NMap Lane) (l : Nat),
        ((L.foldl (fun m e => m.upd e.1 (fun y => { y with sp := BitVec.ofNat 64 e.2 })) m).at? l).isSome = (m.at? l).isSome := by
      intro L
      induction L with
      | nil => intros; rfl
      | cons e L ih =>
        intro m l
        rw [List.foldl_cons, ih, NMap.at?_upd]
        split
        · rename_i hl; subst hl; simp
        · rfl
    rw [vl] at a1
    have hat : ∀ l, (rs.foldl (fun m e => m.upd e.1 (fun y => { y with sp := BitVec.ofNat 64 e.2 })) w.lanes).atD l Lane.never =
        match rs.find? (fun e => e.1 = l) with
        | some e => { w.lanes.atD l Lane.never with sp := BitVec.ofNat 64 e.2 }
        | none => w.lanes.atD l Lane.never := by
      intro l
      rw [foldl_upd_atD (fun (e : Nat × Nat) (y : Lane) => { y with sp := BitVec.ofNat 64 e.2 }) (fun e => e.1) rs w.lanes l
        (fun e he => (hl e he).2)]
      exact sp_fold rs l _ hn
    rw [e1]
    refine ⟨_, a1, rfl, fun l => some_ _ _ _, fun l => ?_, a3, a4, ?_, fun a _ => by rw [a2], fun _ _ _ _ => rfl, ?_, fun _ => rfl⟩
    · dsimp only
      rw [hat l]; split <;> rfl
    · intro o q hoq _ e he
      have hoq := Option.some.inj hoq
      have ho : o = .special 0x18 := (Prod.mk.inj hoq).1.symm
      have hq : q = .w64 := (Prod.mk.inj hoq).2.symm
      subst ho; subst hq
      show (State.lane _ c k e.1).sp.toNat = _
      rw [lane_of_warp hk a1]
      dsimp only
      rw [hat e.1]
      have : rs.find? (fun a => a.1 = e.1) = some e := by
        clear a1 a2 a3 a4 hat hl e1
        induction rs with
        | nil => exact absurd he (by simp)
        | cons a rs ih =>
          simp only [List.map_cons, List.nodup_cons] at hn
          rcases List.mem_cons.1 he with rfl | he
          · simp
          · have : a.1 ≠ e.1 := fun hae => hn.1 (List.mem_map.2 ⟨e, he, hae.symm⟩)
            simp [this, ih hn.2 he]
      rw [this]
      simp [posSpan]
    · intro l hl2
      dsimp only
      rw [hat l]
      rcases hl2 with hl2 | hl2
      · exact absurd rfl (hl2 _ _)
      · have : rs.find? (fun e => e.1 = l) = none := by
          apply List.find?_eq_none.2
          intro e he hel
          exact hl2 (List.mem_map.2 ⟨e, he, by simpa using hel⟩)
        rw [this]
  | some (.wreg n, p), hd =>
    match rs with
    | [] =>
      exact ⟨w, h, rfl, fun _ => rfl, fun _ => rfl, rfl, SameBut.refl _ _ _, fun _ _ _ _ _ he => absurd he (by simp), fun _ _ => rfl,
        fun _ _ _ _ => rfl, fun _ _ => rfl, fun _ => rfl⟩
    | e :: rs =>
      have e1 : writeResults s c k (some (.wreg n, p)) (e :: rs) = writeWreg s c k p n.toNat e.2 := rfl
      have a1 : (writeWreg s c k p n.toNat e.2).warp? c k = some { w with wreg := (if p = .w64 then
          (w.wreg.putD n.toNat (BitVec.ofNat 32 e.2) 0).putD (n.toNat + 1) (BitVec.ofNat 32 (e.2 / 2 ^ 32)) 0
          else w.wreg.putD n.toNat (BitVec.ofNat 32 e.2) 0) } := by
        unfold writeWreg
        rw [State.warp?_modWarp_self, h]; rfl
      rw [e1]
      refine ⟨_, a1, rfl, fun _ => rfl, fun _ => rfl, rfl, sameBut_modWarp _ _ _ _ (fun _ => rfl), ?_,
        fun a _ => by simp [writeWreg], fun _ _ _ _ => rfl, fun _ _ => rfl, fun j => ?_⟩
      · intro o q hoq ho
        have hoq := (Prod.mk.inj (Option.some.inj hoq)).1
        subst hoq
        exact absurd ho (by simp [Operand.isWreg])
      · cases p with
        | w32 =>
          show (w.wreg.putD n.toNat (BitVec.ofNat 32 e.2) 0).atD j 0 =
            if n.toNat ≤ j ∧ j < n.toNat + posSpan .w32 then BitVec.ofNat 32 (e.2 / 2 ^ (32 * (j - n.toNat))) else w.w32 j
          rw [NMap.atD_putD]
          by_cases hj : j = n.toNat
          · subst hj
            rw [if_pos rfl, if_pos ⟨Nat.le_refl _, by show _ < _ + 1; omega⟩, Nat.sub_self]
            simp
          · rw [if_neg hj]
            symm
            exact if_neg (by show ¬ (_ ∧ _ < _ + 1); omega)
        | w64 =>
          show ((w.wreg.putD n.toNat (BitVec.ofNat 32 e.2) 0).putD (n.toNat + 1) (BitVec.ofNat 32 (e.2 / 2 ^ 32)) 0).atD j 0 =
            if n.toNat ≤ j ∧ j < n.toNat + posSpan .w64 then BitVec.ofNat 32 (e.2 / 2 ^ (32 * (j - n.toNat))) else w.w32 j
          rw [NMap.atD_putD, NMap.atD_putD]
          by_cases hj1 : j = n.toNat + 1
          · subst hj1
            rw [if_pos rfl, if_pos ⟨by omega, by show _ < _ + 2; omega⟩, Nat.add_sub_cancel_left]
          · rw [if_neg hj1]
            by_cases hj : j = n.toNat
            · subst hj
              rw [if_pos rfl, if_pos ⟨Nat.le_refl _, by show _ < _ + 2; omega⟩, Nat.sub_self]
              simp
            · rw [if_neg hj]
              symm
              exact if_neg (by show ¬ (_ ∧ _ < _ + 2); omega)
        | w128 => simp [regDst] at hd

/-! ## Predicates -/

theorem setPred_pred (y : Lane) (p j : Nat) (v : Bool) (hp : p < 8) :
    (y.setPred p v).pred j = if j = p ∧ j ≠ 7 then v else y.pred j := by
  unfold Lane.setPred Lane.pred setBit8
  by_cases h7 : p = 7
  · subst h7
    by_cases hj : j = 7
    · simp [hj]
    · have : (0x80#8).getLsbD j = false := by
        have h80 : 0x80#8 = BitVec.twoPow 8 7 := by decide
        rw [h80, BitVec.getLsbD_twoPow]
        simp [Ne.symm hj]
      simp [hj, BitVec.getLsbD_or, this]
  · have one : ∀ j, (1#8 <<< p).getLsbD j = decide (j = p) := by
      intro j
      rw [show 1#8 <<< p = BitVec.twoPow 8 p from (BitVec.twoPow_eq 8 p).symm, BitVec.getLsbD_twoPow]
      by_cases hj : j = p
      · subst hj; simp [hp]
      · simp [hj, Ne.symm hj]
    by_cases hj : j = 7
    · simp [hj]
    · cases v
      · simp only [h7, if_false, Bool.false_eq_true, BitVec.getLsbD_and, BitVec.getLsbD_not, one]
        by_cases hjp : j = p
        · subst hjp; simp [hj]
        · by_cases h8 : j < 8
          · simp [hj, hjp, h8]
          · have hz : y.preds.getLsbD j = false := BitVec.getLsbD_of_ge _ _ (by omega)
            simp [hj, hjp, hz]
      · simp only [h7, if_false, if_true, BitVec.getLsbD_or, one]
        by_cases hjp : j = p
        · subst hjp; simp [hj]
        · simp [hj, hjp]

theorem pred_fold (p j : Nat) (hp : p < 8) (rs : List (Nat × Bool)) (l : Nat) (y : Lane) (hd : (rs.map Prod.fst).Nodup) :
    ((rs.filter (fun e => e.1 = l)).foldl (fun (y : Lane) e => y.setPred p e.2) y).pred j =
      match rs.find? (fun e => e.1 = l) with
      | some e => if j = p ∧ j ≠ 7 then e.2 else y.pred j
      | none => y.pred j := by
  induction rs with
  | nil => rfl
  | cons e rs ih =>
    simp only [List.map_cons, List.nodup_cons] at hd
    by_cases h : e.1 = l
    · have : rs.filter (fun e => e.1 = l) = [] := by
        apply List.filter_eq_nil_iff.2
        intro a ha hal
        have hal : a.1 = l := by simpa using hal
        exact hd.1 (List.mem_map.2 ⟨a, ha, hal.trans h.symm⟩)
      rw [List.filter_cons_of_pos (by simpa using h), List.find?_cons_of_pos (by simpa using h), this]
      exact setPred_pred y p j e.2 hp
    · rw [List.filter_cons_of_neg (by simpa using h), List.find?_cons_of_neg (by simpa using h)]
      exact ih hd.2

theorem find_map (ls : List Nat) (f : Nat → Bool) (l : Nat) :
    (ls.map (fun l => (l, f l))).find? (fun e => e.1 = l) = if l ∈ ls then some (l, f l) else none := by
  induction ls with
  | nil => rfl
  | cons a ls ih =>
    by_cases h : a = l
    · subst h; simp
    · rw [List.map_cons, List.find?_cons_of_neg (by simpa using h), ih]
      simp [Ne.symm h]

/-- Predicates written in some lanes. -/
theorem writePreds_keeps {t : State} {c k : Nat} {v : Warp} (hk : k < Config.warpSlots) (h : t.warp? c k = some v)
    (p : Option (BitVec 3)) (ls : List Nat) (f : Nat → Bool) (hn : ls.Nodup) (hl : ∀ l ∈ ls, (v.lanes.at? l).isSome) :
    ∃ v', Keeps t (writePreds t c k p (ls.map (fun l => (l, f l)))) c k v v' ∧
      (∀ l, (v'.lanes.atD l Lane.never).pc = (v.lanes.atD l Lane.never).pc) ∧
      (∀ l j, (v'.lanes.atD l Lane.never).pred j =
        if p.map BitVec.toNat = some j ∧ j ≠ 7 ∧ l ∈ ls then f l else (v.lanes.atD l Lane.never).pred j) ∧
      v'.lat = v.lat ∧ v'.spin = v.spin ∧
      (writePreds t c k p (ls.map (fun l => (l, f l)))).clauses = t.clauses := by
  cases p with
  | none => exact ⟨v, Keeps.refl h, fun _ => rfl, fun l j => by simp, rfl, rfl, rfl⟩
  | some p =>
    obtain ⟨v', hv, hat, hlat, hspin, hcl⟩ := keeps_lanes hk h (ls.map (fun l => (l, f l))) (fun e => e.1)
      (fun e y => y.setPred p.toNat e.2) (fun _ _ => ⟨rfl, rfl, rfl⟩) (fun e he => by
        obtain ⟨l, hls, rfl⟩ := List.mem_map.1 he
        exact hl l hls)
    refine ⟨v', hv, fun l => ?_, fun l j => ?_, hlat, hspin, hcl⟩
    · rw [hat]
      generalize v.lanes.atD l Lane.never = y
      clear hat hv hcl
      induction List.filter _ _ generalizing y with
      | nil => rfl
      | cons e M ih => rw [List.foldl_cons, ih]; rfl
    · rw [hat, pred_fold p.toNat j p.isLt _ _ _ (by simpa [List.map_map, Function.comp_def] using hn), find_map]
      by_cases hm : l ∈ ls
      · simp only [hm, if_true, and_true, Option.map_some, Option.some.injEq, eq_comm]
      · simp [hm]

theorem noteWrites_keeps {t : State} {c k : Nat} {v : Warp} (h : t.warp? c k = some v) (vs : List Nat) :
    ∃ v', Keeps t (noteWrites t c k vs) c k v v' ∧ v'.lanes = v.lanes ∧ (noteWrites t c k vs).clauses = t.clauses :=
  ⟨_, keeps_modWarp h _ (fun _ => rfl), rfl, rfl⟩

theorem setLatches_keeps {t : State} {c k : Nat} {v : Warp} (h : t.warp? c k = some v) (n : Nat) (ls : List Nat)
    (d : Option (Operand × Pos)) :
    ∃ v', Keeps t (setLatches t c k n ls d) c k v v' ∧ v'.lanes = v.lanes ∧ (setLatches t c k n ls d).clauses = t.clauses := by
  unfold setLatches
  split
  · exact ⟨v, Keeps.refl h, rfl, rfl⟩
  · split
    · exact ⟨v, Keeps.refl h, rfl, rfl⟩
    · exact ⟨_, keeps_modWarp h _ (fun _ => rfl), rfl, rfl⟩
    · exact ⟨_, keeps_modWarp h _ (fun _ => rfl), rfl, rfl⟩

/-! ## The arithmetic forms -/

theorem lanesOf_nodup (x : Clause) (k : Nat) : (x.lanesOf k).Nodup := List.Nodup.sublist List.filter_sublist List.nodup_range

theorem executing_nodup (s : State) (x : Clause) (k : Nat) : (x.executing s k).Nodup :=
  List.Nodup.sublist List.filter_sublist (lanesOf_nodup x k)

theorem mem_lanesOf {s : State} {x : Clause} {k l : Nat} {w : Warp} (h : Issues s x k w) (hl : l ∈ x.lanesOf k) :
    l < 32 ∧ (w.lanes.at? l).isSome := by
  simp only [Clause.lanesOf, List.mem_filter, List.any_eq_true] at hl
  obtain ⟨h1, r, hr, h2⟩ := hl
  have h2 : r.slot = k ∧ r.lane = l := by simpa using h2
  rw [← h2.2]
  exact (h.lanes r hr).2

/-- What an arithmetic form reads: the values of its sources in a lane. -/
def Arith.values (a : Arith) (s : State) (x : Clause) (k l : Nat) : List Nat :=
  a.srcs.map (fun q => readOp s (x.env k) l q.2.2 q.2.1 q.1)

theorem Issues.lanes_ne {s : State} {x : Clause} {k : Nat} {w : Warp} (h : Issues s x k w) : x.lanes ≠ [] := by
  intro hnil
  have : k ∈ x.slots := by rw [h.slots]; exact List.mem_singleton.2 rfl
  simp [Clause.slots, hnil] at this

/-- THE LAW OF RESULTS: results written in some lanes of a clause, with the instruction boundary behind them, are the effect of an
arithmetic form. -/
theorem results_compute {s : State} {x : Clause} {k : Nat} {w : Warp} (h : Issues s x k w) (ex ls vs : List Nat)
    (d : Option (Operand × Pos)) (p : Option (BitVec 3)) (r : Nat → Nat × Bool) (hn : ex.Nodup) (hx : ∀ l ∈ ex, l ∈ x.lanesOf k)
    (hd : regDst d = true) :
    Computes s (endIssue x (setLatches (noteWrites (writePreds (writeResults s x.core k d (ex.map (fun l => (l, (r l).1)))) x.core k p
      (ex.map (fun l => (l, (r l).2)))) x.core k vs) x.core k x.slot ls d)) x k w ex d p r := by
  have hk := h.slot
  have hex : ∀ l ∈ ex, l < 32 ∧ (w.lanes.at? l).isSome := fun l hl => mem_lanesOf h (hx l hl)
  obtain ⟨w1, b1, b2, b3, b4, b5, b6, b7, b8, b9, b10, b11⟩ := writeResults_lane hk h.warp d hd
    (ex.map (fun l => (l, (r l).1))) (by
      intro e he
      obtain ⟨l, hl, rfl⟩ := List.mem_map.1 he
      exact hex l hl) (by simpa [List.map_map, Function.comp_def] using hn)
  have fst_eq : (ex.map (fun l => (l, (r l).1))).map Prod.fst = ex := by
    simp [List.map_map, Function.comp_def]
  rw [fst_eq] at b8 b9 b10
  generalize hs1 : writeResults s x.core k d (ex.map (fun l => (l, (r l).1))) = s1 at *
  obtain ⟨w2, c1, c2, c3, _, _, c4⟩ := writePreds_keeps hk b1 p ex (fun l => (r l).2) hn
    (fun l hl => by rw [b3]; exact (hex l hl).2)
  generalize hs2 : writePreds s1 x.core k p (ex.map (fun l => (l, (r l).2))) = s2 at *
  obtain ⟨w3, d1, d2, d3⟩ := noteWrites_keeps c1.warp vs
  obtain ⟨w4, e1, e2, e3⟩ := setLatches_keeps d1.warp x.slot ls d
  have ka := c1.trans (d1.trans e1)
  generalize setLatches (noteWrites s2 x.core k vs) x.core k x.slot ls d = u at *
  have ucl : u.clauses = s.clauses := by rw [e3, d3, c4, b5]
  have ustep : w4.stepping = none := by
    have h1 : w4.stepping = w1.stepping := by rw [ka.same]
    have h2 : w1.stepping = w.stepping := by rw [b2]
    rw [h1, h2, h.going]
  obtain ⟨w5, f1, f2, f0, f3, f4, f5, f6⟩ := endIssue_spec h ucl e1.warp (fun l => by rw [ka.lanes, b3]) ustep h.lanes_ne
  have kb : Keeps s1 (endIssue x u) x.core k w1 w5 := by
    refine ka.trans ⟨f1, ?_, f0, fun l => ?_, f4, f6⟩
    · rw [f2]
    · rw [f3 l]; split <;> rfl
  have h41 : ∀ l, (w4.lanes.atD l Lane.never).pred = (w2.lanes.atD l Lane.never).pred := fun l => by rw [e2, d2]
  have h5p : ∀ l, (w5.lanes.atD l Lane.never).pred = (w4.lanes.atD l Lane.never).pred := fun l => by rw [f3]; split <;> rfl
  have h1p : ∀ l, (w1.lanes.atD l Lane.never).pred = (w.lanes.atD l Lane.never).pred := fun l => by rw [b4]; rfl
  have hw5 : w5 = { w1 with lanes := w5.lanes, lat := w5.lat, spin := w5.spin, lastIssue := w5.lastIssue } := kb.same
  refine ⟨?_, ?_, ?_, ?_, ?_, ?_, ?_, f5, ?_, b6.trans kb.rest⟩
  · intro o q ho hw l hl
    rw [kb.readPlace hk b1 l q o (by rw [← ho]; exact hd)]
    exact b7 o q ho hw (l, (r l).1) (List.mem_map.2 ⟨l, hl, rfl⟩)
  · intro l j
    rw [lane_of_warp hk f1, h5p, h41, c3, h1p]
    simp only [lane_of_warp hk h.warp]
  · intro b hb
    rw [kb.store]; exact b8 b hb
  · intro j l hl hj
    have h1 : w5.opf = w1.opf := by rw [hw5]
    simp only [State.opfWord, f1, h.warp, h1]
    exact b9 j l hl hj
  · intro j
    have h1 : w5.w32 j = w1.w32 j := by rw [hw5]; rfl
    have h2 : ∀ (t : State) (v : Warp), t.warp? x.core k = some v → t.wreg x.core k j = v.w32 j := fun t v e => by
      unfold State.wreg; rw [e]
    rw [h2 _ _ f1, h1, b11 j]
    have h3 : s.wreg x.core k = w.w32 := funext fun i => by unfold State.wreg; rw [h.warp]
    rw [h3]
  · intro l hl
    rw [lane_of_warp hk f1, lane_of_warp hk h.warp, kb.sp]
    exact b10 l hl
  · intro l
    rw [lane_of_warp hk f1, lane_of_warp hk h.warp, f3]
    split
    · rfl
    · rw [e2, d2, c2, b4]
  · intro b
    have e := congrArg State.mem (b6.trans kb.rest).rest
    have : (endIssue x u).mem = s.mem := e
    rw [this]

/-- THE LAW OF ARITHMETIC: an arithmetic form that goes, with no queue operand and a destination in each lane, has its effect. -/
theorem arith_computes {i : Instr} {a : Arith} {nb : BitVec 3} {s : State} {x : Clause} {k : Nat} {w : Warp} {ls ex : List Nat}
    (h : Issues s x k w) (hr : Goes i a.ops s x k w ls ex) (hc : ctrlOnly i = false) (hp : a.popQ = none)
    (hd : regDst a.dst = true) (hm : a.pm = 0) :
    Computes s (arith i a nb s) x k w ex a.dst a.pw (fun l => a.f (s.lane x.core k l).preds8 (a.values s x k l)) := by
  have hpush : a.pushQ = none := by
    unfold Arith.pushQ
    cases hdst : a.dst with
    | none => rfl
    | some d =>
      obtain ⟨o, q⟩ := d
      rw [hdst] at hd
      cases o <;> first | rfl | simp [regDst] at hd
  let vs : Nat → Nat × Bool := fun l => a.f (s.lane x.core k l).preds8 (a.values s x k l)
  have hrs : a.results s { x.env k with pop := [] } ex = ex.map (fun l => (l, (vs l).1, (vs l).2)) := rfl
  have hls : ex.Sublist ls := by rw [← hr.guard]; exact List.filter_sublist
  have hcomp := results_compute h ex ls (spinValues a.dst a.pw.isSome (ex.map (fun l => (l, (vs l).1, (vs l).2))))
    a.dst a.pw vs ((lanesOf_nodup x k).sublist (hls.trans hr.sub)) (fun l hl => (hls.trans hr.sub).subset hl) hd
  have hrun : arith i a nb s = endIssue x (setLatches (noteWrites (writePreds (writeResults s x.core k a.dst
      (ex.map (fun l => (l, (vs l).1)))) x.core k a.pw (ex.map (fun l => (l, (vs l).2)))) x.core k
      (spinValues a.dst a.pw.isSome (ex.map (fun l => (l, (vs l).1, (vs l).2)))))
      x.core k x.slot ls a.dst) := by
    unfold arith
    rw [issue_goes h hr hc]
    unfold Arith.warp queueWarp
    rw [hp, hpush]
    simp only [hr.guard]
    show endIssue x (setLatches (a.apply x s k ex [] a.pw none) x.core k x.slot ls a.dst) = _
    unfold Arith.apply
    simp only [hrs, List.map_map, Function.comp_def, hm, hpush, if_true, writePreds, Option.isNone_none, Option.isSome_none,
      List.append_nil, Bool.false_eq_true, if_false]
  rw [hrun]
  exact hcomp

/-- An arithmetic form that goes, before its queue operands are looked at. -/
theorem arith_goes {i : Instr} {a : Arith} {nb : BitVec 3} {s : State} {x : Clause} {k : Nat} {w : Warp} {ls ex : List Nat}
    (h : Issues s x k w) (hr : Goes i a.ops s x k w ls ex) (hc : ctrlOnly i = false) :
    arith i a nb s = endIssue x (queueWarp i a.popQ a.pushQ nb ex (fun _ _ => none) (fun s ws nb => a.apply x s k ex ws a.pw nb)
      (fun s ls => setLatches s x.core k x.slot ls a.dst) x s k ls) := by
  unfold arith
  rw [issue_goes h hr hc]
  unfold Arith.warp
  simp only [hr.guard]

/-- What makes an instruction an arithmetic form in the sense of `ArithmeticForm`. -/
theorem arithmeticForm_of {i : Instr} {a : Arith} {srcs : List (Operand × Pos × Ty)} {d : Option (Operand × Pos)}
    {p : Option (BitVec 3)} {g : BitVec 8 → List Nat → Nat × Bool} (he : ∀ s, exec i s = .next (arith i a (Instr.pwField i) s))
    (hc : ctrlOnly i = false) (h1 : a.srcs = srcs) (h2 : a.dst = d) (h3 : a.pw = p) (h4 : a.pm = 0)
    (hg : ∀ ps (s : State) e l, a.f ps (srcs.map (fun q => readOp s e l q.2.2 q.2.1 q.1)) =
      g ps (srcs.map (fun q => readOp s e l q.2.2 q.2.1 q.1))) :
    ArithmeticForm i srcs d p g := by
  subst h1 h2 h3
  refine ⟨fun s x k w ls ex h hr hq hd _ _ => ⟨_, he s, ?_⟩, ?_⟩
  · have hp : a.popQ = none := by
      unfold Arith.popQ
      apply List.findSome?_eq_none_iff.2
      intro e he
      have := List.all_eq_true.1 hq e he
      cases h : e.1 <;> simp_all [Operand.isQueue]
    have hh := arith_computes (nb := Instr.pwField i) h (a := a) (i := i) (by unfold fieldsOf at hr; exact hr) hc hp hd h4
    have e : (fun l => g (s.lane x.core k l).preds8 (sources s x k l a.srcs)) =
        (fun l => a.f (s.lane x.core k l).preds8 (a.values s x k l)) := by
      funext l; exact (hg _ s (x.env k) l).symm
    rw [e]; exact hh
  · intro s x k w ls ex h hr _
    have hrun := arith_goes (nb := Instr.pwField i) h (a := a) (i := i) (by unfold fieldsOf at hr; exact hr) hc
    have hwg : wgIdOf s x.core k = some w.wg := by unfold wgIdOf; rw [h.warp]; rfl
    have hpop : popOf (a.srcs.map Prod.fst) = a.popQ := by
      unfold popOf Arith.popQ
      rw [List.findSome?_map]; rfl
    have hpush : popOf (a.dst.toList.map Prod.fst) = a.pushQ := by
      unfold popOf Arith.pushQ
      match a.dst with
      | none | some (.main _, _) | some (.opf _, _) | some (.latch _, _) | some (.queue _ _, _) | some (.special _, _)
      | some (.imm _, _) | some (.wreg _, _) => rfl
    have happly : ∀ (u : State) (ws : List Word) (nb : Option (BitVec 3)), a.apply x u k ex ws a.pw nb =
        (let rs := ex.map (fun l => (l, g (u.lane x.core k l).preds8
            (a.srcs.map (fun q => readOp u { x.env k with pop := ws } l q.2.2 q.2.1 q.1))))
          let u1 := pushLatches (writeResults u x.core k a.dst (rs.map (fun e => (e.1, e.2.1)))) x.core k x.slot a.dst
            (rs.map (fun e => (e.1, e.2.1)))
          let u2 := writePreds u1 x.core k a.pw (rs.map (fun e => (e.1, e.2.2)))
          noteWrites (writePreds u2 x.core k nb (ex.map (fun l => (l, true)))) x.core k
            (spinValues a.dst a.pw.isSome rs ++ (if nb.isSome then ex.map (fun _ => 1) else []))) := by
      intro u ws nb
      have hr : a.results u { x.env k with pop := ws } ex = ex.map (fun l => (l, g (u.lane x.core k l).preds8
          (a.srcs.map (fun q => readOp u { x.env k with pop := ws } l q.2.2 q.2.1 q.1)))) := by
        unfold Arith.results
        simp only [hg, Clause.env]
      have hp : ∀ (v : State) (rs : List (Nat × Nat × Bool)), (if a.pushQ.isNone = true then v else
          v.modWarp x.core k (fun w => { w with lat := rs.foldl (fun m r => m.put (32 * x.slot + r.1) (BitVec.ofNat 64 r.2.1)) w.lat })) =
          pushLatches v x.core k x.slot a.dst (rs.map (fun e => (e.1, e.2.1))) := by
        intro v rs
        unfold Arith.pushQ pushLatches
        match a.dst with
        | none | some (.main _, _) | some (.opf _, _) | some (.latch _, _) | some (.special _, _) | some (.imm _, _) | some (.wreg _, _) => rfl
        | some (.queue _ _, _) => simp [List.foldl_map]
      unfold Arith.apply
      simp only [hr, hp, h4, if_true, List.append_nil]
    dsimp only
    rw [hpop, hpush, he, hrun]
    refine ⟨fun q nb hq => ⟨fun hx => ?_, fun hx => ⟨fun ws hh _ => ?_, fun hh => ?_, fun hh => ?_⟩⟩,
      fun q nb hq hq2 => ⟨fun hx => ?_, fun hx => ⟨fun hh hd _ => ?_, fun hh hd => ?_, fun hh => ?_, fun hh => ?_⟩⟩⟩
    · simp only [queueWarp, hq, hx, if_true]
    · simp only [queueWarp, hq, hx, if_false, hwg, hh, happly]
      cases nb <;> simp [writePreds]
    · simp only [queueWarp, hq, hx, if_false, hwg, hh, retrying]
      cases nb <;> rfl
    · simp only [queueWarp, hq, hx, if_false, hwg, hh]
    · simp only [queueWarp, hq, hq2, hx, if_true]
    · simp only [queueWarp, hq, hq2, hx, if_false, hwg, hh, hd, happly]
      cases nb <;> simp [writePreds]
    · simp only [queueWarp, hq, hq2, hx, if_false, hwg, hh, hd, if_true]
    · simp only [queueWarp, hq, hq2, hx, if_false, hwg, hh, retrying]
      cases nb <;> rfl
    · simp only [queueWarp, hq, hq2, hx, if_false, hwg, hh]

end Sys2Proof.Machine
end

