-- ==== Sys2Proof/Laws/Cross.lean ====
section
/-! SUPPORT. The law of the cross-lane forms: results from the executing lanes of a bundle, all sources read first. -/

namespace Sys2Proof.Machine

theorem together_nodup (s : State) (x : Clause) (k : Nat) (w : Warp) (i : Instr) : (x.together s k w i).Nodup :=
  List.Nodup.sublist (List.filter_sublist.trans List.filter_sublist) (lanesOf_nodup x k)

theorem together_lanesOf {s : State} {x : Clause} {k : Nat} {w : Warp} {i : Instr} {l : Nat} (h : l ∈ x.together s k w i) :
    l ∈ x.lanesOf k := (List.mem_filter.1 (List.mem_filter.1 h).1).1

/-- A form that `cross` issues has its effect once all members have arrived. -/
theorem cross_computes {i : Instr} {ops : List (Operand × Pos)} {d : Option (Operand × Pos)} {p : Option (BitVec 3)}
    {g : State → Env → List Nat → Nat → Nat × Bool} {s : State} {x : Clause} {k : Nat} {w : Warp} (h : Issues s x k w)
    (hr : Arrived i ops s x k w) (hc : ctrlOnly i = false) (hd : regDst d = true) :
    Computes s (cross i ops d p g s) x k w (x.together s k w i) d p (g s (x.env k) (x.together s k w i)) := by
  have := results_compute h (x.together s k w i) (x.members k w i)
    (spinValues d p.isSome ((x.together s k w i).map (fun l => (l, g s (x.env k) (x.together s k w i) l)))) d p (g s (x.env k) (x.together s k w i))
    (together_nodup s x k w i) (fun l => together_lanesOf) hd
  unfold cross
  rw [issue_arrived h hr hc]
  unfold crossWarp
  simpa only [List.map_map, Function.comp_def, Clause.together] using this

/-- What makes an instruction a cross-lane form in the sense of `CrossLaneForm`. -/
theorem crossLaneForm_of {i : Instr} {ops : List (Operand × Pos)} {d : Option (Operand × Pos)} {p : Option (BitVec 3)}
    {g g2 : State → Env → List Nat → Nat → Nat × Bool} (he : ∀ s, exec i s = .next (cross i ops d p g s))
    (hc : ctrlOnly i = false) (hg : ∀ s e ex l, g s e ex l = g2 s e ex l) : CrossLaneForm i ops d p g2 := by
  intro s x k w h hr hd
  refine ⟨_, he s, ?_⟩
  have e : g = g2 := by funext s e ex l; exact hg s e ex l
  subst e
  exact cross_computes h hr hc hd

end Sys2Proof.Machine
end

