-- ==== Sys2Proof/Laws/Memory.lean ====
section
/-! SUPPORT. The law of the memory forms: where nothing turns a form away, it sends one access in each executing lane. -/

namespace Sys2Proof.Machine

theorem resolveAll_eq (m : MemForm) (s : State) (e : Env) (ex : List Nat) (place : Nat → Place) (leaf : Nat → Nat)
    (h : ∀ l ∈ ex, memResolve m s e false l = (s, .ok (place l) (leaf l))) :
    memResolveAll m e s (ex.map (fun l => (l, false))) = (s, ex.map (fun l => (l, .ok (place l) (leaf l)))) := by
  induction ex with
  | nil => rfl
  | cons l ex ih =>
    simp only [List.map_cons, memResolveAll, h l List.mem_cons_self]
    rw [ih (fun j hj => h j (List.mem_cons_of_mem _ hj))]

/-- The access of one lane before its destination is looked at. -/
def MemForm.bareAcc (m : MemForm) (s : State) (x : Clause) (k : Nat) (place : Nat → Place) (leaf : Nat → Nat) (l : Nat) : LaneAcc :=
  { lane := l, place := place l, data := BitVec.ofNat 256 (m.data s (x.env k) l), hint := effHint m.hint (leaf l), sw := false
    ms := (place l).isPeer && pteMS (leaf l), sent := false }

theorem maskOf_bit (ls : List Nat) (m : Word) (i : Nat) (h : ∀ l ∈ ls, l < 32) :
    (ls.foldl (fun m l => m ||| (1#32 <<< l)) m).getLsbD i = (m.getLsbD i || decide (i ∈ ls)) := by
  induction ls generalizing m with
  | nil => simp
  | cons a ls ih =>
    rw [List.foldl_cons, ih _ (fun l hl => h l (List.mem_cons_of_mem _ hl))]
    have ha := h a List.mem_cons_self
    have : (1#32 <<< a).getLsbD i = decide (i = a) := by
      rw [show 1#32 <<< a = BitVec.twoPow 32 a from (BitVec.twoPow_eq 32 a).symm, BitVec.getLsbD_twoPow]
      by_cases hi : i = a
      · subst hi; simp [ha]
      · simp [hi, Ne.symm hi]
    rw [BitVec.getLsbD_or, this, Bool.or_assoc]
    by_cases hi : i = a <;> simp [hi]

/-- A set of lanes in ascending order is that of its mask. -/
theorem maskLanes_maskOf {ls : List Nat} (h : ls.Sublist lanes32) : maskLanes (maskOf ls) = ls := by
  have hl : ∀ l ∈ ls, l < 32 := fun l hl => List.mem_range.1 (h.subset hl)
  have hm : ∀ i, maskHas (maskOf ls) i = decide (i ∈ ls) := fun i => by
    unfold maskHas maskOf
    rw [maskOf_bit ls 0 i hl]; simp
  unfold maskLanes
  have : lanes32.filter (maskHas (maskOf ls)) = lanes32.filter (fun i => decide (i ∈ ls)) :=
    List.filter_congr (fun i _ => hm i)
  rw [this]
  have hn : lanes32.Nodup := List.nodup_range
  clear this hm hl
  generalize lanes32 = L at h hn
  induction h with
  | slnil => rfl
  | @cons l1 l2 a h ih =>
    have ha : a ∉ l1 := fun ha => (List.nodup_cons.1 hn).1 (h.subset ha)
    rw [List.filter_cons_of_neg (by simpa using ha)]
    exact ih (List.nodup_cons.1 hn).2
  | @cons_cons l1 l2 a h ih =>
    rw [List.filter_cons_of_pos (by simp)]
    have ha : a ∉ l2 := (List.nodup_cons.1 hn).1
    congr 1
    rw [← ih (List.nodup_cons.1 hn).2]
    refine (List.filter_congr (fun i hi => ?_)).trans (congrArg _ rfl)
    have : i ≠ a := fun e => ha (e ▸ hi)
    rw [ih (List.nodup_cons.1 hn).2]
    simp [this]

/-- What `memWarp` does where nothing turns the form away; `ex` are the lanes it issues for. -/
theorem memWarp_sends {m : MemForm} {s : State} {x : Clause} {k : Nat} {ls ex : List Nat} {place : Nat → Place} {leaf : Nat → Nat}
    (hk : k ≠ ctrlSlot) (hex : ex.Sublist lanes32)
    (hx : accessing m.instr x s k ls = ex)
    (h : Sendable m s x k ex place leaf) : memWarp m x s k ls = m.sends s x k ls ex place leaf := by
  have hact : launchedOf s x.core k ex = ex := by
    unfold launchedOf
    apply List.filter_eq_self.2
    intro l hl; simp [h.launched l hl]
  have hcheck : memCheck m s (x.env k) ex ex = none := by
    unfold memCheck
    have h1 : ex.filter (fun l => m.addr s (x.env k) l % (m.align : Int) != 0 || m.bad s (x.env k) l) = [] := by
      apply List.filter_eq_nil_iff.2
      intro l hl; simp [h.aligned l hl]
    have h2 : ∀ r : Nat → Bool, (if (x.env k).slot = ctrlSlot then [] else (ex.filter r).filter (fun l =>
        let va := truncN 64 (m.addr s (x.env k) l)
        if m.scratch then watchHit s (x.env k).core m.body (truncN 64 (scratchBase (x.env k).core + m.addr s (x.env k) l)) m.width
        else watchHit s (x.env k).core m.body (if m.whole then va / 128 * 128 else va) m.width)) = [] := by
      intro r
      rw [if_neg (show ¬(x.env k).slot = ctrlSlot from hk)]
      apply List.filter_eq_nil_iff.2
      intro l hl
      have := h.unwatched l (List.mem_filter.1 hl).1
      show ¬(if m.scratch = true then watchHit s x.core m.body (truncN 64 (scratchBase x.core + m.addr s (x.env k) l)) m.width
        else watchHit s x.core m.body (if m.whole = true then truncN 64 (m.addr s (x.env k) l) / 128 * 128
          else truncN 64 (m.addr s (x.env k) l)) m.width) = true
      split <;> simp_all
    simp only [h1, h2]
    rfl
  have hlive : (ex.filter (fun l => m.addr s (x.env k) l % (m.align : Int) = 0)) = ex := by
    apply List.filter_eq_self.2
    intro l hl; simp [h.aligned l hl]
  have hmap : ex.map (fun l => (l, !ex.contains l || false || decide (k = ctrlSlot))) = ex.map (fun l => (l, false)) := by
    apply List.map_congr_left
    intro l hl; simp [hl, hk]
  have hres := resolveAll_eq m s (x.env k) ex place leaf h.resolved
  have hfate : (ex.map (fun l => (l, Res.ok (place l) (leaf l)))).map
        (fun r => (r.1, memFate m s (x.env k) (!ex.contains r.1) false r.1 r.2)) =
      ex.map (fun l => (l, Fate.sent (m.bareAcc s x k place leaf l))) := by
    rw [List.map_map]
    apply List.map_congr_left
    intro l hl
    simp [memFate, h.clean l hl, MemForm.bareAcc]
  have hmine : ∀ l ∈ ex, ex.contains l = true := fun l hl => by simpa using hl
  have hhelp : ex.filter (fun l => !ex.contains l) = [] := by
    apply List.filter_eq_nil_iff.2
    intro l hl; simp [hl]
  have hsent : ((ex.map (fun l => (l, Fate.sent (m.bareAcc s x k place leaf l)))).filterMap (fun f => f.2.sent?)).map
      (ownDest m (maskOf ex)) = (m.op s x k ex place leaf).lanes := by
    have e : ∀ l, ownDest m (maskOf ex) (m.bareAcc s x k place leaf l) = m.acc s x k ex place leaf l := by
      intro l
      unfold ownDest MemForm.acc MemForm.bareAcc
      rw [maskLanes_maskOf hex]
      match m.dst with
      | some (.wreg _, _) => dsimp only; split <;> simp
      | none | some (.main _, _) | some (.opf _, _) | some (.latch _, _) | some (.queue _ _, _) | some (.special _, _)
      | some (.imm _, _) => simp
    rw [List.filterMap_map]
    unfold MemForm.op
    have : ∀ L : List Nat, (L.filterMap ((fun f : Nat × Fate => f.2.sent?) ∘ fun l => (l, Fate.sent
        (m.bareAcc s x k place leaf l)))).map (ownDest m (maskOf ex)) = L.map (m.acc s x k ex place leaf) := by
      intro L
      induction L with
      | nil => rfl
      | cons l L ih =>
        rw [List.filterMap_cons]
        simp only [Function.comp, Fate.sent?, List.map_cons]
        rw [e l]
        exact congrArg _ ih
    exact this ex
  have hgo : (m.op s x k ex place leaf).lanes.map LaneAcc.lane = ex := by
    simp [MemForm.op, MemForm.acc, List.map_map, Function.comp_def]
  have haway : (m.order.releases && (m.body == .multicast || (m.op s x k ex place leaf).lanes.any (fun a => a.place.isPeer) ||
      (m.op s x k ex place leaf).lanes.filter (fun a => selfLane m s (x.env k) a.lane) != [])) = false := by
    rcases h.near with h1 | ⟨h1, h2⟩
    · simp [h1]
    · have hp : (m.op s x k ex place leaf).lanes.any (fun a => a.place.isPeer) = false := by
        apply List.any_eq_false.2
        intro a ha
        obtain ⟨l, hl, rfl⟩ := List.mem_map.1 ha
        have := (h2 l hl).1
        show (place l).isPeer ≠ true
        cases hp : place l <;> simp_all [Place.isPeer]
      have hself : (m.op s x k ex place leaf).lanes.filter (fun a => selfLane m s (x.env k) a.lane) = [] := by
        apply List.filter_eq_nil_iff.2
        intro a ha
        obtain ⟨l, hl, rfl⟩ := List.mem_map.1 ha
        simpa [MemForm.acc] using (h2 l hl).2
      simp [hp, h1, hself]
  have hmask : maskOf ex &&& ~~~(0 ||| maskOf ex) = 0 := by simp
  have hnw : (ex.map (fun l => (l, Fate.sent (m.bareAcc s x k place leaf l)))).filter (fun f => f.2.walks) = [] :=
    List.filter_eq_nil_iff.2 (fun a ha => by obtain ⟨l, _, rfl⟩ := List.mem_map.1 ha; simp [Fate.walks])
  have hnp : (ex.map (fun l => (l, Fate.sent (m.bareAcc s x k place leaf l)))).filterMap
      (fun f => f.2.parks.map (fun n => (f.1, truncN 64 (m.addr s (x.env k) f.1), n))) = [] :=
    List.filterMap_eq_nil_iff.2 (fun a ha => by obtain ⟨l, _, rfl⟩ := List.mem_map.1 ha; simp [Fate.parks])
  have hnf : (ex.map (fun l => (l, Fate.sent (m.bareAcc s x k place leaf l)))).filterMap
      (fun f => f.2.fatals.map (fun t => (f.1, t))) = [] :=
    List.filterMap_eq_nil_iff.2 (fun a ha => by obtain ⟨l, _, rfl⟩ := List.mem_map.1 ha; simp [Fate.fatals])
  have hover : ex.filter (fun l => !(ex.contains l || ([] : List Nat).contains l || ([] : List (Nat × Nat × Nat)).any (fun p => p.1 = l) ||
      ([] : List (Nat × Nat × Nat)).any (fun p => p.1 = l))) = [] :=
    List.filter_eq_nil_iff.2 (fun l hl => by simp [hl])
  unfold memWarp
  simp only [h.idle, hx, hact, hcheck, h.free, Bool.and_false, Bool.false_eq_true, if_false, ite_self, hlive, hmap, hres, h.plain,
    hfate, hhelp, List.map_nil, hsent, hnw, hnp, hnf, List.append_nil, hgo, hover, haway, hmask, List.foldl_nil, bne_self_eq_false,
    Bool.not_false, if_true, Bool.false_or, Option.isSome_none, h.number]
  unfold MemForm.sends
  by_cases he : ex = [] <;> by_cases hs : m.body.sync = true <;> simp [hk, he, hs] <;> rfl

/-- What makes an instruction a memory form in the sense of `MemoryForm`. -/
theorem memoryForm_of {m : MemForm} (he : ∀ s, exec m.instr s = .next (memory m s)) (hc : ctrlOnly m.instr = false)
    (hl : ∀ x s k ls, accessing m.instr x s k ls = issuingSet x s k ls) : MemoryForm m := by
  intro s x k w ls ex place leaf h hr hs
  have hk : k ≠ ctrlSlot := by have := h.slot; unfold ctrlSlot; unfold Config.warpSlots at this; omega
  rw [he]
  unfold memory
  rw [issue_goes h hr hc, memWarp_sends hk (hr.guard ▸ (List.filter_sublist.trans hr.sub).trans List.filter_sublist) _ hs]
  rw [hl]
  unfold issuingSet
  rw [hs.idle]
  exact hr.guard

end Sys2Proof.Machine
end

