-- ==== Sys2Proof/Tests/Slice0.lean ====
section
/-! SUPPORT. Tests of the model: words of the manual and what they decode to, terms the well-formedness checks refuse, a state and operands
meeting the hypotheses of every obligation, and a few values the manual prints. -/

namespace Sys2Proof.Tests

open Sys2Proof Sys2Proof.Machine

set_option Elab.async false

/-! ## Words: the values between the quotation marks of each test are the manual's own -/

/-- A word of format A, field by field (R181). -/
def wordA (opc : BitVec 10) (grd : BitVec 4) (d a b c : BitVec 12) (rm : BitVec 3) (ty : BitVec 5) (opm : BitVec 8) (pw : BitVec 3) : IWord :=
  opc ++ (grd ++ (d ++ (a ++ (b ++ (c ++ (rm ++ (ty ++ (opm ++ (pw ++ 0#15)))))))))

/-- A word of format I (R182). -/
def wordI (opc : BitVec 10) (grd : BitVec 4) (d a : BitVec 12) (rm : BitVec 3) (ty : BitVec 5) (opm : BitVec 8) (pw : BitVec 3) (imm : Word) : IWord :=
  opc ++ (grd ++ (d ++ (a ++ (rm ++ (ty ++ (opm ++ (pw ++ (0#7 ++ imm))))))))

/-- A word of format M (R183). -/
def wordM (opc : BitVec 10) (grd : BitVec 4) (data addr index : BitVec 12) (off : BitVec 24) (hint scope order : BitVec 2) (ty : BitVec 5)
    (fs : BitVec 2) (mmod : BitVec 9) : IWord :=
  opc ++ (grd ++ (data ++ (addr ++ (index ++ (off ++ (hint ++ (scope ++ (order ++ (ty ++ (fs ++ mmod))))))))))

/-- A word of format B (R184). -/
def wordB (opc : BitVec 10) (grd : BitVec 4) (off : BitVec 24) (slot : BitVec 3) (bar : BitVec 4) (a d : BitVec 12) : IWord :=
  opc ++ (grd ++ (off ++ (slot ++ (bar ++ (a ++ (d ++ 0#27))))))

/-- A word of format X (R185). -/
def wordX (opc : BitVec 10) (grd : BitVec 4) (tile : BitVec 3) (swa swb swc : BitVec 8) (ca cb cc : BitVec 12) (xmod : BitVec 16)
    (fs : BitVec 2) : IWord :=
  opc ++ (grd ++ (tile ++ (swa ++ (swb ++ (swc ++ (ca ++ (cb ++ (cc ++ (xmod ++ (fs ++ 0#1))))))))))

/-- A word of format S (R186). -/
def wordS (opc : BitVec 10) (grd : BitVec 4) (pw : BitVec 3) (s7 : BitVec 7) (a b c : BitVec 12) (fs : BitVec 2) (imm : Word) : IWord :=
  opc ++ (grd ++ (pw ++ (s7 ++ (a ++ (b ++ (c ++ (fs ++ (0#2 ++ imm))))))))

/-- Three 32-bit words, the highest first, as the manual prints them. -/
def word3 (h m l : Word) : IWord := h ++ (m ++ l)

/-- The 96-bit word is one instruction under a guard of the given bits. -/
abbrev Reads (access : Bool) (w : IWord) (grd : BitVec 4) (i : Instr) : Prop := decode access w = .ok i ∧ guardOf w = decodeGuard grd

/-- R187's example: `add.i32 v4, v2, v3` and `st.n32 [w8:w9, %laneid], ls0`. -/
theorem test_word_add : Reads false (word3 0x101C0100 0x0800C000 0x18038000) 7
    (.add { d := .main 4, a := .main 2, b := .main 3, c := .main 0, rm := .rne, ty := .i32, opm := 0, pw := 7 }) := by decide

theorem test_word_st : Reads false (word3 0x705E003C 0x23400000 0x00105000) 7
    (.st { data := .latch 0, addr := .wreg 8, index := .special 0, off := 0, hint := .dflt, scope := .wp, order := .plain, ty := .n32
           fs := .none, mmod := 0 }) := by decide

/-- Chapter 11's `cmp.lt.i32 p1, %laneid, 12`. -/
theorem test_word_cmp : Reads false (word3 0x161C0034 0x03830000 0x18088000) 7
    (.cmp { d := .main 0, a := .special 0, b := .imm 12, c := .main 0, rm := .rne, ty := .i32, opm := 2, pw := 1 }) := by decide

/-- R211's `enrol b0`, `rejoin b0` and `(!p1) bra big`. -/
theorem test_word_enrol : Reads false (word3 0x01DC0000 0 0) 7 (.enrol { off := 0, slot := 0, bar := 0, a := .main 0, d := .main 0 }) := by decide

theorem test_word_rejoin : Reads false (word3 0x021C0000 0x00180000 0) 7
    (.rejoin { off := 0, slot := 0, bar := 3, a := .main 0, d := .main 0 }) := by decide

theorem test_word_bra : Reads false (word3 0x00640000 0x04000000 0) 9
    (.bra { off := 1, slot := 0, bar := 0, a := .main 0, d := .main 0 }) := by decide

/-- Chapter 16's words. -/
theorem test_word_gridbar : Reads false (word3 0x915F8000 0 0) 7 .gridbar := by decide

theorem test_word_vote : Reads false (word3 0xB19C0000 0x07804000 0x080C8000) 7
    (.vote { d := .main 0, a := .main 1, b := .imm 1, c := .main 0, rm := .rne, ty := .b32, opm := 3, pw := 1 }) := by decide

theorem test_word_rndk : Reads false (word3 0xC09C0200 0x30078000 0x08038000) 7
    (.rndkCg10 { d := .main 8, a := .main 12, b := .main 30, c := .main 0, rm := .rne, ty := .b32, opm := 0, pw := 7 }) := by decide

theorem test_word_plut3 : Reads false (word3 0x175C0000 0x0C010018 0x0BA98000) 7
    (.plut3 { d := .main 0, a := .main 3, b := .main 4, c := .main 6, rm := .rne, ty := .b32, opm := 0xEA, pw := 3 }) := by decide

theorem test_word_red : Reads false (word3 0x809F8040 0x58000000 0x001A5000) 7
    (.red { data := .imm 1, addr := .main 22, index := .main 0, off := 0, hint := .dflt, scope := .pkg, order := .rel, ty := .n32
            fs := .none, mmod := 0 }) := by decide

/-- Chapter 17's words. -/
theorem test_word_spaddr : Reads false (word3 0x221C0700 0x6B428000 0x0C038000) 7
    (.spaddr { d := .main 28, a := .main 26, b := .special 0x0A, c := .main 0, rm := .rne, ty := .b64, opm := 0, pw := 7 }) := by decide

theorem test_word_fred : Reads false (word3 0x811006C0 0x70000000 0x00106A00) 4
    (.fred { data := .main 27, addr := .main 28, index := .main 0, off := 0, hint := .dflt, scope := .wp, order := .plain, ty := .bf16
             fs := .a, mmod := 0 }) := by decide

theorem test_word_lred : Reads false (word3 0xB21C0540 0x57808000 0x280F8000) 7
    (.lred { d := .main 21, a := .main 21, b := .imm 2, c := .main 0, rm := .rne, ty := .n32, opm := 3, pw := 7 }) := by decide

/-- Chapter 21's words. -/
theorem test_word_pwadd : Reads false (word3 0xC1DC0000 0x38000000 0x48038000) 7
    (.pwadd { d := .main 0, a := .main 14, b := .main 0, c := .main 0, rm := .rne, ty := .lw64, opm := 0, pw := 7 }) := by decide

theorem test_word_rsb : Reads false (word3 0xC21C0240 0 0x28020000) 7
    (.rsb { d := .main 9, a := .main 0, b := .main 0, c := .main 0, rm := .rne, ty := .n32, opm := 0, pw := 4 }) := by decide

theorem test_word_psetroot : Reads false (word3 0xC25C0000 0x20000000 0x0C038000) 7
    (.psetroot { d := .main 0, a := .main 8, b := .main 0, c := .main 0, rm := .rne, ty := .b64, opm := 0, pw := 7 }) := by decide

theorem test_word_balloc : Reads false (word3 0x940C0200 0x00000074 0x0C028000) 3
    (.balloc { d := .main 8, a := .main 0, b := .main 0, c := .main 29, rm := .rne, ty := .b64, opm := 0, pw := 5 }) := by decide

theorem test_word_cpy : Reads false (word3 0xA15F84F1 0x0F12F144 0) 7
    (.cpy { pw := 7, s7 := 4, a := .wreg 16, b := .wreg 18, c := .wreg 20, fs := .a, imm := 0 }) := by decide

theorem test_word_grace : Reads false (word3 0x939F8C00 0 0) 7
    (.grace { pw := 7, s7 := 12, a := .main 0, b := .main 0, c := .main 0, fs := .none, imm := 0 }) := by decide

/-- Chapter 22's words. -/
theorem test_word_apush : Reads true (word3 0xF29F0040 0x20048000 0x00101007) 7
    (.apush { data := .queue 1 false, addr := .main 8, index := .main 18, off := 0, hint := .dflt, scope := .wp, order := .plain, ty := .b32
              fs := .none, mmod := 7 }) := by decide

theorem test_word_trd : Reads false (word3 0xD15C0000 0x00786000 0x00200000) 7
    (.trd { tile := 0, swa := 0, swb := 0, swc := 0, ca := .wreg 12, cb := .main 0, cc := .main 4, xmod := 0, fs := .none }) := by decide

theorem test_word_pop : Reads false (word3 0xA05C00B1 0x04000000 0x08010000) 7
    (.pop { d := .main 2, a := .queue 1 true, b := .main 0, c := .main 0, rm := .rne, ty := .b32, opm := 0, pw := 2 }) := by decide

theorem test_word_qcfg : Reads false (word3 0xA0DF81F0 0xAE100000 0) 7
    (.qcfg { pw := 7, s7 := 1, a := .wreg 10, b := .imm 16, c := .main 0, fs := .none, imm := 0 }) := by decide

/-- Chapter 12's `cvt.bf16.f32.sr v12, v4, v8, 0` and `fma.f32.rne v4, v1, v2, v4`. -/
theorem test_word_cvt : Reads false (word3 0x501C0300 0x10023802 0x35C38000) 7
    (.cvt { d := .main 12, a := .main 4, b := .main 8, c := .imm 0, rm := .sr, ty := .bf16, opm := 0x70, pw := 7 }) := by decide

theorem test_word_fma : Reads false (word3 0x30DC0100 0x04008010 0x38038000) 7
    (.fma { d := .main 4, a := .main 1, b := .main 2, c := .main 4, rm := .rne, ty := .f32, opm := 0, pw := 7 }) := by decide

/-- Chapter 15's `fadd2.f32 v12:v13, v12, v16`. -/
theorem test_word_fadd2 : Reads false (word3 0x311C0300 0x30040000 0x38038000) 7
    (.fadd2 { d := .main 12, a := .main 12, b := .main 16, c := .main 0, rm := .rne, ty := .f32, opm := 0, pw := 7 }) := by decide

/-- Chapter 13's `ld.n32.sa v2, [w4:w5, %laneid]`. -/
theorem test_word_ld : Reads false (word3 0x701C00BC 0x13400000 0x00105200) 7
    (.ld { data := .main 2, addr := .wreg 4, index := .special 0, off := 0, hint := .dflt, scope := .wp, order := .plain, ty := .n32
           fs := .a, mmod := 0 }) := by decide

/-- Chapter 14's `xl.above.w32.mw10 v3, v2, 16, 0` and `rnd.cg10 v8, %laneid, v1, 0`. -/
theorem test_word_xlAbove : Reads false (word3 0xB09C00C0 0x0B843800 0x08BF8000) 7
    (.xlAbove { d := .main 3, a := .main 2, b := .imm 16, c := .imm 0, rm := .rne, ty := .b32, opm := 0x2F, pw := 7 }) := by decide

theorem test_word_rnd : Reads false (word3 0xC01C0234 0x00007800 0x08038000) 7
    (.rndCg10 { d := .main 8, a := .special 0, b := .main 1, c := .imm 0, rm := .rne, ty := .b32, opm := 0, pw := 7 }) := by decide

/-- Chapter 18's `mma t2, 1, 2, w4, w5, w6`. -/
theorem test_word_mma : Reads false (word3 0xD01D0081 0x00782782 0xF8300000) 7
    (.mma { tile := 2, swa := 1, swb := 2, swc := 0, ca := .wreg 4, cb := .wreg 5, cc := .wreg 6, xmod := 0, fs := .none }) := by decide

/-- Chapter 9's `launch p3, 5, v8:v9`, `macq` and `mrel`. -/
theorem test_word_launch : Reads false (word3 0xE49D8500 0x80000000 0) 7
    (.launch { pw := 3, s7 := 5, a := .main 8, b := .main 0, c := .main 0, fs := .none, imm := 0 }) := by decide

theorem test_word_macq : Reads false (word3 0xDF9F8000 0 0) 7 .macq := by decide

theorem test_word_mrel : Reads false (word3 0xDFDF8000 0 0) 7 .mrel := by decide

/-- Chapter 19's `trap 5` and `tres v1`. -/
theorem test_word_trap : Reads false (word3 0xE01F8000 0 5) 7
    (.trap { pw := 7, s7 := 0, a := .main 0, b := .main 0, c := .main 0, fs := .none, imm := 5 }) := by decide

theorem test_word_tres : Reads false (word3 0xE11F8000 0x10000000 0) 7
    (.tres { pw := 7, s7 := 0, a := .main 1, b := .main 0, c := .main 0, fs := .none, imm := 0 }) := by decide

/-- `fma.f64.rup v4:v5, v6:v7, v8:v9, v10:v11` (R217, R220) and `rsqrt.cr.f32 v1, v2` (R227) by their fields. -/
theorem test_word_fmaD : Reads false (wordA 0x103 7 4 6 8 10 3 0x0F 0 7) 7
    (.fmaF64 { d := .main 4, a := .main 6, b := .main 8, c := .main 10, rm := .rup, ty := .f64, opm := 0, pw := 7 }) := by decide

theorem test_word_rsqrt : Reads false (wordA 0x182 7 1 2 0 0 0 0x0E 0 7) 7
    (.rsqrt { d := .main 1, a := .main 2, b := .main 0, c := .main 0, rm := .rne, ty := .f32, opm := 0, pw := 7 }) := by decide

/-- `movi.n32 v2, 0xDEADBEEF` under !p2 (R202). -/
theorem test_word_movi : Reads false (wordI 0x05B 0xA 2 0 0 0x0A 0 7 0xDEADBEEF) 0xA
    (.movi { d := .main 2, a := .main 0, rm := .rne, ty := .n32, opm := 0, pw := 7, imm := 0xDEADBEEF }) := by decide

/-- Words the decoder refuses: an unassigned index (R189), a reserved field that is not zero (R181), an access-stream word in a compute
line and a compute word in an access line (R187). -/
theorem test_word_unassigned : decode false (wordB 0x00C 7 0 0 0 0 0) = .error .illegalOpcode := by decide

theorem test_word_reserved : decode false (word3 0x101C0100 0x0800C000 0x18038001) = .error .illegalEncoding := by decide

theorem test_word_stream_in_compute : decode false (word3 0xF29F0040 0x20048000 0x00101007) = .error .illegalOpcode := by decide

theorem test_word_compute_in_stream : decode true (word3 0x101C0100 0x0800C000 0x18038000) = .error .illegalOpcode := by decide

/-- The line of chapter 10's example: its line word without PAR and with it, PAR[0] = 0 and PAR[1] = 1 (R170, R172). -/
theorem test_line_word :
    let l : Line := 0x3fc00402000000000000000000000000000000000000000000000000000000000000000000000000705e003c2340000000105000101c01000800c00018038000#512
    lineWord l = 0x3FC00402 ∧ lineKind l = 0 ∧ lineSetB l = 15 ∧ lineSetA l = 15 ∧ lineWait l = 1 := by decide +kernel

theorem test_line_parity : parityOk 0x3fc00402000000000000000000000000000000000000000000000000000000000000000000000000705e003c2340000000105000101c01000800c00018038000#512 = true ∧ parityOk 0x3fc00400000000000000000000000000000000000000000000000000000000000000000000000000705e003c2340000000105000101c01000800c00018038000#512 = false := by decide +kernel

/-! ## Terms the well-formedness checks refuse -/

/-- Plain fields of each format. -/
def fmtA : FmtA := { d := .main 4, a := .main 2, b := .main 6, c := .main 0, rm := .rne, ty := .i32, opm := 0, pw := 7 }
def fmtM : FmtM := { data := .main 2, addr := .main 4, index := .main 6, off := 0, hint := .dflt, scope := .wp, order := .plain, ty := .n32
                     fs := .none, mmod := 0 }
def fmtB : FmtB := { off := 0, slot := 0, bar := 0, a := .main 0, d := .main 0 }
def fmtX : FmtX := { tile := 0, swa := 0, swb := 0, swc := 0, ca := .main 0, cb := .main 0, cc := .main 0, xmod := 0, fs := .none }
def fmtS : FmtS := { pw := 7, s7 := 0, a := .main 0, b := .main 0, c := .main 0, fs := .none, imm := 0 }

/-- The plain fields are accepted, so that each refusal below is of the one field it changes. -/
theorem test_wf_plain : (Instr.add fmtA).wf = true ∧ (Instr.ld fmtM).wf = true ∧ (Instr.bra fmtB).wf = true ∧ (Instr.tzero fmtX).wf = true ∧
    (Instr.cwait fmtS).wf = true := by decide

/-- Format A: an unassigned latch or special register, another family's type, a latch or an odd pair as destination, an odd pair and a 64-bit queue
as source, a field the form does not use, a modifier of no form, a rounding mode the form has not (R177 to R181, R198, R218). -/
theorem test_wf_a : [Instr.add { fmtA with a := .latch 5 }, .add { fmtA with b := .special 0x0F }, .add { fmtA with ty := .b32 },
    .add { fmtA with d := .latch 0 }, .add { fmtA with ty := .i64, d := .main 5 }, .add { fmtA with ty := .i64, a := .main 3 },
    .add { fmtA with ty := .i64, a := .queue 1 false }, .add { fmtA with ty := .i64, a := .special 0 }, .add { fmtA with d := .imm 1 },
    .add { fmtA with d := .special 0x18 }, .add { fmtA with c := .main 1 }, .abs fmtA, .add { fmtA with opm := 2 }, .add { fmtA with rm := .rtz },
    .fadd { fmtA with ty := .f32, rm := .sr }, .fmin { fmtA with ty := .f32, rm := .rtz }, .shl { fmtA with opm := 1 },
    .mulhi { fmtA with opm := 1 }, .and { fmtA with ty := .n32 }].all (fun i => !i.wf) = true := by decide

/-- Queues and PW: two queue operands, `.nb` where the predicate is the form's own, PW that nothing writes, a queue in a cross-lane or draw form
(R180, R181, R197, R269, R280). -/
theorem test_wf_queue : [Instr.add { fmtA with a := .queue 1 false, b := .queue 2 false }, .cmp { fmtA with d := .main 0, a := .queue 1 true, pw := 1 },
    .add { fmtA with pw := 3 }, .movi { d := .main 4, a := .main 0, rm := .rne, ty := .n32, opm := 0, pw := 3, imm := 0 },
    .movi { d := .main 4, a := .main 1, rm := .rne, ty := .n32, opm := 0, pw := 7, imm := 0 },
    .xlAt { fmtA with ty := .b32, a := .queue 1 false }, .unif { fmtA with ty := .f32, a := .queue 1 false, b := .main 0 }].all (fun i => !i.wf)
    = true := by decide

/-- Predicates and immediates in operand fields: p8 in a field, a third vote, a scan of `and` over n32, a fourth quad, a comparison of bits by order
(R199, R201, R272 to R274). -/
theorem test_wf_fields : [Instr.plut3 { fmtA with ty := .b32, d := .main 0, b := .main 8 }, .sel { fmtA with ty := .b32, c := .main 8 },
    .vote { fmtA with ty := .b32, d := .main 0, a := .main 1, b := .imm 3, opm := 3 }, .scan { fmtA with ty := .n32, b := .imm 3, opm := 3 },
    .quadx { fmtA with ty := .b32, b := .imm 4, opm := 3 }, .quadx { fmtA with ty := .b32, b := .imm 1, opm := 0 },
    .cmp { fmtA with ty := .b32, d := .main 0, opm := 2 }, .qstat { fmtA with ty := .n32, a := .imm 64, b := .main 0 }].all (fun i => !i.wf)
    = true := by decide

/-- Conversions: the same type twice, a reserved second type, an exact conversion that rounds, saturation from e4m3, a draw that is no quadruple, an
integer conversion that rounds by a draw (R222, R223, R225). -/
theorem test_wf_convert : [Instr.cvt { fmtA with ty := .f32, opm := 0x70, b := .main 0 }, .cvt { fmtA with ty := .f16, opm := 0xF8, b := .main 0 },
    .cvt { fmtA with ty := .f64, opm := 0x70, rm := .rup, b := .main 0 }, .cvt { fmtA with ty := .f16, opm := 0x84, b := .main 0 },
    .cvt { fmtA with ty := .bf16, opm := 0x70, rm := .sr, b := .main 6 }, .cvtF2i { fmtA with opm := 0x70, rm := .sr, b := .main 8 }].all
    (fun i => !i.wf) = true := by decide

/-- Format M: a queue, an odd pair, a special register as address, a scope on a plain access, a release on a load, an acquire on a store, a modifier of
no form, an operation outside the form's table or type, a hint on an atomic, a completion flag on `pf` (R183, R239, R243, R244). -/
theorem test_wf_m : [Instr.ld { fmtM with data := .queue 1 false }, .ld { fmtM with addr := .main 5 }, .ld { fmtM with addr := .special 0x12 },
    .ld { fmtM with scope := .pkg }, .ld { fmtM with order := .rel }, .st { fmtM with order := .acq }, .st { fmtM with mmod := 1 },
    .atom { fmtM with mmod := 7 }, .atom { fmtM with mmod := 3 }, .red { fmtM with index := .main 0, mmod := 6 }, .atom { fmtM with hint := .sticky },
    .fatom { fmtM with ty := .f64, mmod := 1 }, .lds fmtM, .ldu fmtM, .pf { fmtM with ty := .b8, data := .main 0, fs := .a },
    .atominc { fmtM with mmod := 16 }, .atom { fmtM with mmod := 64 }, .cas { fmtM with ty := .b64, index := .main 6 },
    .waita { fmtM with mmod := 6 }].all (fun i => !i.wf) = true := by decide

/-- Format B: a slot past the line's five, a target, a barrier or a field where the form has none (R184, R206). -/
theorem test_wf_b : [Instr.bra { fmtB with slot := 5 }, .enrol { fmtB with off := 1 }, .bra { fmtB with bar := 1 }, .bra { fmtB with a := .main 2 },
    .brx { fmtB with a := .main 3 }, .brt { fmtB with a := .queue 1 false }, .bread { fmtB with d := .wreg 1 }].all (fun i => !i.wf) = true := by
  decide

/-- Format S: PW, S7, FS or IMM where the form lists none, a count of no section, a channel past 3, an operand of no copy (R186, R248, R260, R263). -/
theorem test_wf_s : [Instr.cwait { fmtS with pw := 1 }, .cwait { fmtS with s7 := 1 }, .cwait { fmtS with fs := .a }, .cwait { fmtS with imm := 1 },
    .cwait { fmtS with b := .main 2 }, .cwait { fmtS with a := .queue 1 false }, .fence { fmtS with s7 := 4 }, .fence { fmtS with s7 := 17 },
    .grace fmtS, .bar { fmtS with s7 := 4 }, .cpkill { fmtS with s7 := 4 },
    .cpy { fmtS with a := .main 4, b := .wreg 2, c := .imm 1 }, .cpy { fmtS with a := .wreg 4, b := .wreg 3, c := .imm 1 },
    .cpy { fmtS with a := .wreg 4, b := .wreg 2, c := .main 4 }, .cpymc { fmtS with a := .wreg 4, b := .wreg 2, c := .imm 1, imm := 65536 },
    .launch { fmtS with a := .main 3 }, .trap { fmtS with a := .main 2 }].all (fun i => !i.wf) = true := by decide

/-- Format X: a field the form does not list, a coordinate of the main file, a fragment of no main pair (R185, R300). -/
theorem test_wf_x : [Instr.tzero { fmtX with swa := 1 }, .tzero { fmtX with xmod := 1 }, .tzero { fmtX with fs := .a },
    .trd { fmtX with ca := .main 2, cc := .main 4 }, .trd { fmtX with ca := .wreg 2, cc := .main 5 }, .trd { fmtX with ca := .wreg 2, cc := .wreg 4 },
    .mma { fmtX with swc := 1, ca := .imm 0, cb := .imm 0, cc := .imm 0 }, .qsm { fmtX with tile := 1, ca := .imm 0, cb := .imm 0 }].all
    (fun i => !i.wf) = true := by decide

/-- Stream forms: a register past a31, a 32-bit type of another family, a queue where none may stand, an index scale past 15, a warp-uniform register
(R187, R266, R192). -/
theorem test_wf_stream : [Instr.aadd { fmtA with ty := .n32, d := .main 32 }, .aadd fmtA, .aadd { fmtA with ty := .n32, a := .queue 1 false },
    .aadd { fmtA with ty := .n32, a := .wreg 1 }, .amad { fmtA with ty := .n32, c := .special 1 }, .ald { fmtM with mmod := 16 },
    .apush fmtM, .apush { fmtM with data := .queue 1 true }, .agath { fmtM with data := .queue 1 false },
    .aloop { fmtB with d := .main 32 }, .afence fmtS].all (fun i => !i.wf) = true := by decide

/-- Hardware steps that name what a package does not have (R3, R44, R64, R104). -/
theorem test_wf_events : [Instr.waitaRecheck 368 0 0, .waitaRecheck 0 48 0, .waitaRecheck 0 0 32, .queuePushUnblock 0 64, .copyAccept 0 4,
    .clauseStart 0 (.part 4), .popBarrierClose 64, .routerHoldTimeout 19, .linkDown 18, .launchRegister 64 0,
    .thermalTrip 4 0, .barrierPhaseComplete 0 4].all (fun i => !i.wf) = true := by decide

/-- Guards: `macq` under any but 0b0111, a stream form under p3 (R138, R163, R187). -/
theorem test_wf_guard : Instr.guardOk { neg := true, pred := 7 } .macq = false ∧ Instr.guardOk { neg := false, pred := 3 } (.ald fmtM) = false ∧
    Instr.guardOk { neg := true, pred := 3 } (.add fmtA) = true := by decide

/-! ## States in which an instruction issues -/

/-- The clause at the head, lanes 0 to 31 of warp slot 0. -/
def clauseOf (s : State) : Clause :=
  s.clauses.headD { core := 0, picker := .control, addr := 0, line := 0, entry := 0, slot := 0, guard := { neg := false, pred := 7 }, lanes := [] }

/-- The warp in slot 0 of core 0. -/
def warpOf (s : State) : Warp := (s.warp? 0 0).getD (startWarp (newLaunch s 0) 0 0 0 0 0 0)

/-- All that `Issues` asks, decided. -/
def issuesB (s : State) : Bool :=
  let x := clauseOf s
  decide (s.clauses.head? = some x) && (match x.picker with | .part _ => true | _ => false) && decide (x.core = 0) && decide (x.slots = [0]) &&
    x.lanes.all (fun r => r.slot = 0 && decide (r.lane < 32) && ((warpOf s).lanes.at? r.lane).isSome) &&
    decide (s.warp? 0 0 = some (warpOf s)) && decide ((warpOf s).stepping = none)

theorem issues_of {s : State} (h : issuesB s = true) : Issues s (clauseOf s) 0 (warpOf s) := by
  simp only [issuesB, Bool.and_eq_true, decide_eq_true_eq, List.all_eq_true] at h
  obtain ⟨⟨⟨⟨⟨⟨h1, h2⟩, hc⟩, h3⟩, h4⟩, h5⟩, h6⟩ := h
  refine ⟨h1, ?_, h3, by decide, ?_, by rw [hc]; exact h5, h6⟩
  · revert h2; cases (clauseOf s).picker <;> simp
  · intro r hr; simpa [and_assoc] using h4 r hr

/-- What `Ready` asks, decided. -/
def readyB (i : Instr) (ops : List (Operand × Pos)) (s : State) : Bool :=
  let x := clauseOf s
  rangeOk (warpOf s).regs ops && (!s.repro x.core 0 || !i.operands.any isTiming) && (!collectiveIn s x.core 0 i || replaying s x.core 0 x.pc)

/-- What `Arrived` asks, decided. -/
def arrivedB (i : Instr) (ops : List (Operand × Pos)) (s : State) : Bool :=
  let x := clauseOf s
  rangeOk (warpOf s).regs ops && (!s.repro x.core 0 || !i.operands.any isTiming) && collectiveIn s x.core 0 i && !replaying s x.core 0 x.pc &&
    (!Instr.needsAll32 i || decide ((warpOf s).present.length = 32)) && (membersOf (warpOf s) i).all (fun l => (x.lanesOf 0).contains l)

theorem ready_of {i : Instr} {ops : List (Operand × Pos)} {s : State} (h : readyB i ops s = true) : Ready i ops s (clauseOf s) 0 (warpOf s) := by
  simp only [readyB, Bool.and_eq_true, Bool.or_eq_true, Bool.not_eq_true'] at h
  exact ⟨h.1.1, h.1.2, h.2⟩

theorem arrived_of {i : Instr} {ops : List (Operand × Pos)} {s : State} (h : arrivedB i ops s = true) :
    Arrived i ops s (clauseOf s) 0 (warpOf s) := by
  simp only [arrivedB, Bool.and_eq_true, Bool.or_eq_true, Bool.not_eq_true', decide_eq_true_eq] at h
  obtain ⟨⟨⟨⟨⟨h1, h2⟩, h3⟩, h4⟩, h5⟩, h6⟩ := h
  exact ⟨h1, h2, h3, h4, fun h => h5.resolve_left (by simp [h]), h6⟩

/-- The lanes in which the instruction issues, and those of them that execute it. -/
def lsOf (i : Instr) (ops : List (Operand × Pos)) (s : State) : List Nat :=
  if readyB i ops s then (clauseOf s).lanesOf 0 else (clauseOf s).members 0 (warpOf s) i

def exOf (i : Instr) (ops : List (Operand × Pos)) (s : State) : List Nat :=
  if readyB i ops s then (clauseOf s).executing s 0 else (clauseOf s).together s 0 (warpOf s) i

theorem goes_of {i : Instr} {ops : List (Operand × Pos)} {s : State} (h : (readyB i ops s || arrivedB i ops s) = true) :
    Goes i ops s (clauseOf s) 0 (warpOf s) (lsOf i ops s) (exOf i ops s) := by
  by_cases hr : readyB i ops s = true
  · exact .inl ⟨ready_of hr, by simp [lsOf, hr], by simp [exOf, hr]⟩
  · exact .inr ⟨arrived_of (by simpa [hr] using h), by simp [lsOf, hr], by simp [exOf, hr]⟩

/-- The hypotheses of an arithmetic form that pops and pushes nothing, met in s in some executing lane. -/
def MeetsArith (s : State) (i : Instr) (srcs : List (Operand × Pos × Ty)) (d : Option (Operand × Pos)) : Prop :=
  Issues s (clauseOf s) 0 (warpOf s) ∧ Goes i (fieldsOf srcs d) s (clauseOf s) 0 (warpOf s) (lsOf i (fieldsOf srcs d) s) (exOf i (fieldsOf srcs d) s) ∧
    srcs.all (fun e => !e.1.isQueue) = true ∧ regDst d = true ∧ exOf i (fieldsOf srcs d) s ≠ []

def arithB (s : State) (e : Instr × List (Operand × Pos × Ty) × Option (Operand × Pos)) : Bool :=
  (readyB e.1 (fieldsOf e.2.1 e.2.2) s || arrivedB e.1 (fieldsOf e.2.1 e.2.2) s) && e.2.1.all (fun e => !e.1.isQueue) && regDst e.2.2 &&
    !(exOf e.1 (fieldsOf e.2.1 e.2.2) s).isEmpty

theorem meetsArith_of {s : State} {l : List (Instr × List (Operand × Pos × Ty) × Option (Operand × Pos))} (hs : issuesB s = true)
    (h : l.all (arithB s) = true) : ∀ e ∈ l, MeetsArith s e.1 e.2.1 e.2.2 := by
  intro e he
  have h := List.all_eq_true.mp h e he
  simp only [arithB, Bool.and_eq_true] at h
  exact ⟨issues_of hs, goes_of h.1.1.1, h.1.1.2, h.1.2, by intro hn; simp [hn] at h⟩

theorem goes_at {i : Instr} {ops : List (Operand × Pos)} {s : State} {ls ex : List Nat}
    (h : ((readyB i ops s || arrivedB i ops s) && decide (lsOf i ops s = ls) && decide (exOf i ops s = ex)) = true) :
    Goes i ops s (clauseOf s) 0 (warpOf s) ls ex := by
  simp only [Bool.and_eq_true, decide_eq_true_eq] at h
  obtain ⟨⟨h1, h2⟩, h3⟩ := h
  exact h2 ▸ h3 ▸ goes_of h1

/-- Right after reset a workgroup of one warp is placed, and its warp issues from slot 0 of a line of `nop`s (log 80). -/
def s0 : State := placeWord State.reset 0

theorem s0_issues : issuesB s0 = true := by decide +kernel

theorem test_meets_IntegerArithmetic :
    let f := fmtA
    let one := [(f.a, f.ty.pos, f.ty)]
    let two := one ++ [(f.b, f.ty.pos, f.ty)]
    let three := two ++ [(f.c, f.ty.pos, f.ty)]
    let d := some (f.d, f.ty.pos)
    ∀ e ∈ [(Instr.add f, two, d), (.sub f, two, d), (.mul f, two, d), (.mulhi f, two, d), (.mad f, three, d), (.div f, two, d), (.rem f, two, d),
      (.min f, two, d), (.max f, two, d), (.abs f, one, d), (.neg f, one, d)], MeetsArith s0 e.1 e.2.1 e.2.2 :=
  meetsArith_of s0_issues (by decide +kernel)
theorem test_meets_BitOperations :
    let f := { fmtA with ty := .b32 }
    let a := (f.a, Pos.w32, Ty.b32)
    let b := (f.b, Pos.w32, Ty.b32)
    let n := (f.b, Pos.w32, Ty.n32)
    let d := some (f.d, Pos.w32)
    ∀ e ∈ [(Instr.and f, [a, b], d), (.or f, [a, b], d), (.xor f, [a, b], d), (.not f, [a], d), (.shl f, [a, n], d), (.shr f, [a, n], d),
      (.rot f, [a, n], d), (.brev f, [a], d), (.bfx { f with ty := .n32 }, [(f.a, .w32, .n32), n, (f.c, .w32, .n32)], d), (.bfi f, [a, b, (f.c, .w32, .n32)], d),
      (.lut3 f, [a, b, (f.c, .w32, .b32)], d), (.mov f, [a], d), (.popc f, [a], d), (.clz f, [a], d), (.ctz f, [a], d),
      (.movi { d := .main 4, a := .main 0, rm := .rne, ty := .n32, opm := 0, pw := 7, imm := 5 }, [], d)], MeetsArith s0 e.1 e.2.1 e.2.2 :=
  meetsArith_of s0_issues (by decide +kernel)

theorem test_meets_ComparesAndPredicates :
    let f := { fmtA with ty := .b32, pw := 1 }
    let a := (f.a, Pos.w32, Ty.b32)
    let b := (f.b, Pos.w32, Ty.b32)
    (∀ e ∈ [(Instr.cmp f, [a, b], none), (.sel { f with pw := 7 }, [a, b], some (f.d, .w32)), (.plut3 f, [], none), (.ppack f, [], some (f.d, .w32))],
      MeetsArith s0 e.1 e.2.1 e.2.2) ∧
    Goes (.punpack f) [(f.a, .w32)] s0 (clauseOf s0) 0 (warpOf s0) lanes32 lanes32 ∧ f.a.isQueue = false :=
  ⟨meetsArith_of s0_issues (by decide +kernel), goes_at (by decide +kernel), rfl⟩

theorem test_meets_AddressForms_lpc : (Instr.lpc { fmtB with d := .main 4 }).wf = true ∧ Ty.i32.isI = true ∧ Ty.n32.isI = false := by decide

theorem test_meets_AddressForms :
    let f := { fmtA with ty := .n32, pw := 1 }
    let pair (o : Operand) (t : Ty) : Operand × Pos × Ty := (o, .w64, t)
    let word (o : Operand) (t : Ty) : Operand × Pos × Ty := (o, .w32, t)
    let d := some (f.d, Pos.w64)
    (∀ e ∈ [(Instr.lea f, [pair f.a .b64, word f.b .n32, word f.c .i32], d), (.addc f, [word f.a .n32, word f.b .n32], some (f.d, .w32)),
      (.subc f, [word f.a .n32, word f.b .n32], some (f.d, .w32)), (.mulw f, [word f.a .n32, word f.b .n32], d),
      (.madw f, [word f.a .n32, word f.b .n32, pair f.c .n64], d), (.pack f, [word f.a .b32, word f.b .b32], d),
      (.regaddr f, [word (.special 0x0E) .n32, word (.special 0x00) .n32, word f.a .n32], d), (.peeraddr f, [pair f.a .b64, word f.b .n32], d),
      (.spaddr f, [word f.a .n32, word f.b .n32], d), (.alignup f, [pair f.a .n64, word f.b .n32], d),
      (.inrange f, [pair f.a .n64, pair f.b .n64, pair f.c .n64], none)], MeetsArith s0 e.1 e.2.1 e.2.2) ∧
    Goes (.lpc { fmtB with d := .main 4 }) (fieldsOf [] d) s0 (clauseOf s0) 0 (warpOf s0) lanes32 lanes32 ∧ regDst d = true :=
  ⟨meetsArith_of s0_issues (by decide +kernel), goes_at (by decide +kernel), rfl⟩

theorem test_meets_FloatForms :
    let f := { fmtA with ty := .f32, pw := 7 }
    let h := { f with ty := .f16 }
    let w (o : Operand) : Operand × Pos × Ty := (o, .w32, .f32)
    let v (o : Operand) : Operand × Pos × Ty := (o, .w32, .f16)
    let d := some (f.d, Pos.w32)
    ∀ e ∈ [(Instr.fadd f, [w f.a, w f.b], d), (.fsub f, [w f.a, w f.b], d), (.fmul f, [w f.a, w f.b], d), (.fma f, [w f.a, w f.b, w f.c], d),
      (.fmin f, [w f.a, w f.b], d), (.fmax f, [w f.a, w f.b], d), (.fminp f, [w f.a, w f.b], d), (.fmaxp f, [w f.a, w f.b], d),
      (.fclamp h, [v f.a, v f.b, v f.c], d), (.fabs f, [w f.a], d), (.fneg h, [v f.a], d), (.fcopysign f, [w f.a, w f.b], d), (.fsign f, [w f.a], d),
      (.fabsdiff f, [w f.a, w f.b], d), (.frnd f, [w f.a], d), (.ffract f, [w f.a], d), (.fscale f, [w f.a, (f.b, .w32, .i32)], d),
      (.fhsel h, [v f.a, v f.b], d), (.fadd2 f, [w f.a, w f.b], some (f.d, .w64)), (.fdot2 { f with opm := 0x60 }, [v f.a, v f.b, w f.c], d),
      (.fcmp { f with pw := 1 }, [w f.a, w f.b], none), (.fclass f, [w f.a], d), (.fgetexp f, [w f.a], d), (.fgetman f, [w f.a], d)],
      MeetsArith s0 e.1 e.2.1 e.2.2 :=
  meetsArith_of s0_issues (by decide +kernel)

theorem test_meets_DoubleForms :
    let f := { fmtA with ty := .f64 }
    let w (o : Operand) : Operand × Pos × Ty := (o, .w64, .f64)
    let d := some (f.d, Pos.w64)
    f.ty = .f64 ∧ ∀ e ∈ [(Instr.faddF64 f, [w f.a, w f.b], d), (.fsubF64 f, [w f.a, w f.b], d), (.fmulF64 f, [w f.a, w f.b], d),
      (.fmaF64 f, [w f.a, w f.b, w f.c], d), (.fminF64 f, [w f.a, w f.b], d), (.fmaxF64 f, [w f.a, w f.b], d), (.frndF64 f, [w f.a], d),
      (.fdivF64 f, [w f.a, w f.b], d), (.fsqrtF64 f, [w f.a], d), (.fadd2F64 f, [w f.a, w f.b], some (f.d, .w128)),
      (.fcmpF64 { f with pw := 1 }, [w f.a, w f.b], none), (.fclassF64 f, [w f.a], some (f.d, .w32))], MeetsArith s0 e.1 e.2.1 e.2.2 :=
  ⟨rfl, meetsArith_of s0_issues (by decide +kernel)⟩

theorem test_meets_FloatCodesExact : Flt.e4m3 ∈ [Flt.f64, Flt.f32, Flt.f16, Flt.bf16, Flt.e4m3, Flt.e5m2] ∧ 0x7E < 2 ^ Flt.e4m3.width ∧
    Flt.e4m3.dec 0x7E ≠ .nan ∧ Flt.f32.dec 0xFF800000 ≠ .nan ∧ Flt.f64.dec 1 ≠ .nan := by decide +kernel

theorem test_meets_Conversions :
    let f := { fmtA with ty := .bf16, opm := 0x70, b := .main 8, rm := .sr }
    let i := { fmtA with ty := .i32, opm := 0x70 }
    let w (o : Operand) (t : Ty) : Operand × Pos × Ty := (o, .w32, t)
    let q (o : Operand) : Operand × Pos × Ty := (o, .w128, .b32)
    let d := some (f.d, Pos.w32)
    f.ty2 = some .f32 ∧ i.ty2 = some .f32 ∧ ∀ e ∈ [(Instr.cvt f, [w f.a .f32, q f.b, w f.c .n32], d), (.cvtF2i i, [w f.a .f32], d),
      (.cvtI2f { i with ty := .f32, opm := 0x30 }, [w f.a .i32], d), (.cvtI2i { i with opm := 0x28 }, [w f.a .i16], d),
      (.cvtPk2 { i with ty := .f16 }, [w f.a .f32, w f.b .f32], d), (.cvtPk4 { i with ty := .e4m3 }, [(.main 8, .w128, .f32)], d),
      (.cvtUnpk2 { i with ty := .f32, opm := 0x60 }, [w f.a .f16], some (f.d, .w64)),
      (.cvtUnpk4 { i with ty := .f32, opm := 0x80, d := .main 4 }, [w f.a .e4m3], some (f.d, .w128)), (.cvtsc i, [w f.a .f32, w f.b .i32], d),
      (.cvtscPk4 { i with ty := .n8 }, [(.main 8, .w128, .f32), w f.b .i32], d), (.cvtQ4 { i with ty := .f32 }, [w f.a .f32, w f.b .n32], d),
      (.cvtF32Q4 { i with ty := .f32 }, [w f.a .b32, w f.b .n32, w f.c .n32], d)], MeetsArith s0 e.1 e.2.1 e.2.2 :=
  ⟨by decide, by decide, meetsArith_of s0_issues (by decide +kernel)⟩

theorem test_meets_SpecialFunctions :
    let f := { fmtA with ty := .f32 }
    let l := { fmtA with ty := .lw64 }
    let w (o : Operand) : Operand × Pos × Ty := (o, .w32, .f32)
    let p (o : Operand) : Operand × Pos × Ty := (o, .w64, .lw64)
    let d := some (f.d, Pos.w32)
    let dd := some (f.d, Pos.w64)
    ∀ e ∈ [(Instr.rcp f, [w f.a], d), (.sqrt f, [w f.a], d), (.rsqrt f, [w f.a], d), (.exp2 f, [w f.a], d), (.log2 f, [w f.a], d), (.exp f, [w f.a], d),
      (.log f, [w f.a], d), (.sinpi f, [w f.a], d), (.cospi f, [w f.a], d), (.tanh f, [w f.a], d), (.logistic f, [w f.a], d),
      (.fdivF32 f, [w f.a, w f.b], d), (.addlw l, [p f.a, p f.b], dd), (.lwcvt l, [w f.a], dd), (.lwf f, [p f.a], d), (.lwe l, [p f.a], dd),
      (.unif f, [(f.a, .w32, .n32)], d), (.rndkCg10 { f with a := .main 8 }, [(.main 8, .w128, .b32), (f.b, .w64, .b64)], some (f.d, .w128))],
      MeetsArith s0 e.1 e.2.1 e.2.2 :=
  meetsArith_of s0_issues (by decide +kernel)

/-- The hypotheses of a cross-lane form, met in s with lanes that execute it. -/
def MeetsCross (s : State) (i : Instr) (ops : List (Operand × Pos)) (d : Option (Operand × Pos)) : Prop :=
  Issues s (clauseOf s) 0 (warpOf s) ∧ Arrived i ops s (clauseOf s) 0 (warpOf s) ∧ regDst d = true ∧
    (clauseOf s).together s 0 (warpOf s) i ≠ []

def crossB (s : State) (e : Instr × List (Operand × Pos) × Option (Operand × Pos)) : Bool :=
  arrivedB e.1 e.2.1 s && regDst e.2.2 && !((clauseOf s).together s 0 (warpOf s) e.1).isEmpty

theorem meetsCross_of {s : State} {l : List (Instr × List (Operand × Pos) × Option (Operand × Pos))} (hs : issuesB s = true)
    (h : l.all (crossB s) = true) : ∀ e ∈ l, MeetsCross s e.1 e.2.1 e.2.2 := by
  intro e he
  have h := List.all_eq_true.mp h e he
  simp only [crossB, Bool.and_eq_true] at h
  exact ⟨issues_of hs, arrived_of h.1.1, h.1.2, by intro hn; simp [hn] at h⟩

theorem test_meets_Shuffles :
    let f := { fmtA with ty := .b32, opm := 3 }
    let l := [(f.a, Pos.w32), (f.c, Pos.w32), (f.d, Pos.w32), (f.b, Pos.w32)]
    let d := some (f.d, Pos.w32)
    ∀ e ∈ [(Instr.xlAt f, l, d), (.xlBelow f, l, d), (.xlAbove f, l, d), (.xlXor f, l, d), (.quadb f, l, d),
      (.quadx { f with b := .imm 1 }, [(f.a, .w32), (f.c, .w32), (f.d, .w32), (.imm 1, .w32)], d)], MeetsCross s0 e.1 e.2.1 e.2.2 :=
  meetsCross_of s0_issues (by decide +kernel)

theorem test_meets_VotesAndMasks :
    let f := { fmtA with ty := .b32, opm := 3, a := .main 1, b := .imm 1 }
    let d := some (f.d, Pos.w32)
    ∀ e ∈ [(Instr.vote f, [], none), (.ballot f, [(f.d, Pos.w32)], d), (.present f, [(f.d, .w32)], d), (.first f, [], none),
      (.peers f, [(f.a, .w32), (f.d, .w32)], d), (.same f, [(f.a, .w32), (f.d, .w32)], d)], MeetsCross s0 e.1 e.2.1 e.2.2 :=
  meetsCross_of s0_issues (by decide +kernel)

theorem test_meets_ReductionsAndScans :
    let f := { fmtA with ty := .n32, opm := 3, b := .imm 1 }
    let l := [(f.a, Pos.w32), (f.d, Pos.w32)]
    let d := some (f.d, Pos.w32)
    ({ f with ty := .f32 } : FmtA).ty = .f32 ∧ ∀ e ∈ [(Instr.lred f, l, d), (.scan { f with b := .imm 9 }, l, d), (.flred { f with ty := .f32 }, l, d),
      (.fscan { f with ty := .f32 }, l, d)], MeetsCross s0 e.1 e.2.1 e.2.2 :=
  ⟨rfl, meetsCross_of s0_issues (by decide +kernel)⟩

theorem test_meets_Draws :
    let f := { fmtA with ty := .b32, a := .main 8, d := .main 12 }
    (∀ e ∈ [(Instr.rndCg10 f, [(f.a, Pos.w32), (f.b, .w32), (f.c, .w32), (f.d, .w128)], some (f.d, Pos.w128)),
      (.rnd4Cg10 f, [(f.a, .w128), (f.d, .w128)], some (f.d, .w128)), (.rkey f, [(f.d, .w64)], some (f.d, .w64))], MeetsCross s0 e.1 e.2.1 e.2.2) ∧
    (s0.launchOf 0 0).isSome = true :=
  ⟨meetsCross_of s0_issues (by decide +kernel), by decide +kernel⟩

/-- `s0` in whose workgroup queue 0 has room and is empty, queue 1 is full with an entry of zeros, and queue 2 is not configured. -/
def sQueue : State := s0.modWg (warpOf s0).wg (fun g => { g with queues := [(0, { off := 0, cap := 2, head := 0, count := 0 }),
  (1, { off := 256, cap := 1, head := 0, count := 1 }), (3, { off := 512, cap := 2, head := 1, count := 1 })] })

/-- A store of lane 0 that has not been performed. -/
def pending (ord : Order) : MemOp :=
  { owner := .warp 0 0, body := .store, ty := .n32, width := 4, hint := .dflt, scope := .wp, order := ord, more := false, flag := none,
    lanes := [{ lane := 0, place := .mem 0, hint := .dflt, sw := false, ms := false, sent := false, data := 0 }] }

/-- The same with an access of lane 0 still to be performed. -/
def sBusy : State := { sQueue with ops := [(0, pending .plain)] }

theorem sQueue_issues : issuesB sQueue = true := by decide +kernel
theorem sBusy_issues : issuesB sBusy = true := by decide +kernel

/-- Where an arithmetic form pops or pushes: an entry, none, no such queue; room, no room, accesses to wait for (the queue clauses of every
statement that rests on `ArithmeticForm`). -/
theorem test_meets_queue_operands :
    let add (a d : Operand) (p : BitVec 3) : Instr := .add { fmtA with a := a, d := d, pw := p }
    let goes (s : State) (i : Instr) (ops : List (Operand × Pos)) : Prop := Issues s (clauseOf s) 0 (warpOf s) ∧
      Goes i ops s (clauseOf s) 0 (warpOf s) lanes32 lanes32
    let src (q : BitVec 6) (nb : Bool) : List (Operand × Pos) := [(.queue q nb, .w32), (.main 6, .w32), (.main 4, .w32)]
    let dst (q : BitVec 6) (nb : Bool) : List (Operand × Pos) := [(.main 2, .w32), (.main 6, .w32), (.queue q nb, .w32)]
    let g := (warpOf sQueue).wg
    popOf [.queue 1 false, .main 6] = some (1, false) ∧ popOf [.main 2, .main 6] = none ∧ popOf [.queue 0 true] = some (0, true) ∧
    goes sQueue (add (.queue 1 false) (.main 4) 7) (src 1 false) ∧ queueHead sQueue g 1 = .ready (lanes32.map (fun _ => 0)) ∧
    goes sQueue (add (.queue 0 true) (.main 4) 1) (src 0 true) ∧ queueHead sQueue g 0 = .blocked ∧
    goes sQueue (add (.queue 2 false) (.main 4) 7) (src 2 false) ∧ queueHead sQueue g 2 = .unconfigured ∧
    goes sQueue (add (.main 2) (.queue 0 false) 7) (dst 0 false) ∧ queueRoom sQueue g 0 = .ready [] ∧
    mustDrain sQueue 0 0 lanes32 .rel .wg = false ∧ goes sBusy (add (.main 2) (.queue 0 false) 7) (dst 0 false) ∧
    queueRoom sBusy g 0 = .ready [] ∧ mustDrain sBusy 0 0 lanes32 .rel .wg = true ∧
    goes sQueue (add (.main 2) (.queue 1 true) 1) (dst 1 true) ∧ queueRoom sQueue g 1 = .blocked ∧
    goes sQueue (add (.main 2) (.queue 2 false) 7) (dst 2 false) ∧ queueRoom sQueue g 2 = .unconfigured :=
  ⟨by decide, by decide, by decide, ⟨issues_of sQueue_issues, goes_at (by decide +kernel)⟩, by decide +kernel,
    ⟨issues_of sQueue_issues, goes_at (by decide +kernel)⟩, by decide +kernel, ⟨issues_of sQueue_issues, goes_at (by decide +kernel)⟩, by decide +kernel,
    ⟨issues_of sQueue_issues, goes_at (by decide +kernel)⟩, by decide +kernel, by decide +kernel,
    ⟨issues_of sBusy_issues, goes_at (by decide +kernel)⟩, by decide +kernel, by decide +kernel,
    ⟨issues_of sQueue_issues, goes_at (by decide +kernel)⟩, by decide +kernel, ⟨issues_of sQueue_issues, goes_at (by decide +kernel)⟩, by decide +kernel⟩

/-! ### Control -/

theorem test_meets_InstructionBoundary :
    issuesB s0 = true ∧ s0.warp? (clauseOf s0).core 0 = some (warpOf s0) ∧ (warpOf s0).stepping = none ∧
    (([(3, 64), (5, 128)] : List (Nat × DWord)).map Prod.fst).Nodup ∧ ∀ e ∈ ([(3, 64), (5, 128)] : List (Nat × DWord)), e.1 ∈ (clauseOf s0).lanesOf 0 := by
  decide +kernel

/-- A line of `nop`s that may be entered at slot 0 (R174). -/
def tgtLine : Line := BitVec.ofNat 512 (2 ^ 485 + 2 ^ 481)

theorem test_tgtLine : parityOk tgtLine = true ∧ lineTgt tgtLine 0 = true ∧ lineKind tgtLine = 0 := by decide +kernel

/-- `s0` with a page of memory mapped at 0, the line at 64 at hand, the stack pointers of all lanes at 0x1000, and 64 in o0 of each. -/
def sMem : State :=
  (s0.modCore 0 (fun y => { y with tlb := [{ ctx := 0, page := 0, bits := 16, leaf := 0x0100000000000003 }], icache := [(1, tgtLine)] })).modWarp 0 0
    (fun w => { w with lanes := w.lanes.mapV (fun _ y => { y with sp := 0x1000 }), opf := (List.range 32).map (fun n => (n, 64)) })

theorem sMem_issues : issuesB sMem = true := by decide +kernel

/-- Taken branches, one with a target in range of its table and one past the table's end. -/
theorem test_meets_Branches :
    let x := clauseOf sMem
    let f := { fmtB with off := 1, a := .imm 0, d := .imm 1 }
    let g := { fmtB with a := .opf 0 }
    stoppedAt sMem 0 0 x.pc = none ∧ lineKind x.line = 0 ∧ x.executing sMem 0 = lanes32 ∧ x.addr = 0 ∧ sMem.ctxOf 0 0 = 0 ∧
    readyB (.bra { fmtB with off := 1 }) [] sMem = true ∧
    checkTarget (spinBranch sMem 0 0 x.pc (some 64)) 0 0 0 64 = (spinBranch sMem 0 0 x.pc (some 64), .ok) ∧
    readyB (.brt f) [(f.a, .w32), (f.d, .w32)] sMem = true ∧ (∀ l ∈ lanes32, readOp sMem (x.env 0) l .n32 .w32 f.a = 0) ∧
    readOp sMem (x.env 0) 0 .n32 .w32 f.d = 1 ∧ readOp sMem (x.env 0) 0 .n32 .w32 (.imm 0) = 0 ∧ checkTarget sMem 0 0 0 64 = (sMem, .ok) ∧
    readyB (.brx g) [(g.a, .w64)] sMem = true ∧ (∀ l ∈ lanes32, readOp sMem (x.env 0) l .b64 .w64 g.a = 64) := by decide +kernel

theorem memResolve_fst (m : MemForm) (s : State) (e : Env) (l : Nat) : (memResolve m s e false l).1 = s := by
  unfold memResolve
  simp only [Bool.false_eq_true, if_false]
  split
  · rfl
  · split <;> rfl

/-- Where the access of a lane resolves, and under which leaf. -/
def placeOf (m : MemForm) (s : State) (l : Nat) : Place :=
  match (memResolve m s ((clauseOf s).env 0) false l).2 with | .ok p _ => p | _ => .mem 0

def leafOf (m : MemForm) (s : State) (l : Nat) : Nat :=
  match (memResolve m s ((clauseOf s).env 0) false l).2 with | .ok _ e => e | _ => 0

/-- What `Sendable` asks, decided. -/
def sendableB (m : MemForm) (s : State) (ex : List Nat) : Bool :=
  let x := clauseOf s
  let e := x.env 0
  decide (stoppedAt s x.core 0 x.pc = none) && !mustDrain s x.core 0 ex m.order m.scope &&
  ex.all (fun l => (s.lane x.core 0 l).kind = .launched && m.addr s e l % (m.align : Int) = 0 && !m.bad s e l &&
    !watchHit s x.core m.body (if m.scratch then truncN 64 (scratchBase x.core + m.addr s e l)
      else if m.whole then truncN 64 (m.addr s e l) / 128 * 128 else truncN 64 (m.addr s e l)) m.width &&
    (match (memResolve m s e false l).2 with | .ok _ _ => true | _ => false) && !meetsLost m s e l (placeOf m s l) &&
    (!m.order.releases || ((match placeOf m s l with | .peer _ _ => false | _ => true) && !selfLane m s e l))) &&
  !s.repro x.core 0 && (!m.order.releases || decide (m.body ≠ .multicast)) && decide (s.ops.at? s.fresh = none)

theorem sendable_of {m : MemForm} {s : State} {ex : List Nat} (h : sendableB m s ex = true) :
    Sendable m s (clauseOf s) 0 ex (placeOf m s) (leafOf m s) := by
  simp only [sendableB, Bool.and_eq_true, List.all_eq_true, decide_eq_true_eq, Bool.not_eq_true', Bool.or_eq_true] at h
  obtain ⟨⟨⟨⟨⟨h1, h2⟩, h3⟩, h4⟩, h5⟩, h6⟩ := h
  refine ⟨h1, h2, fun l hl => (h3 l hl).1.1.1.1.1.1, fun l hl => ⟨(h3 l hl).1.1.1.1.1.2, (h3 l hl).1.1.1.1.2⟩, ?_, fun l hl => ?_,
    fun l hl => (h3 l hl).1.2, h4, ?_, h6⟩
  · exact fun l hl => (h3 l hl).1.1.1.2
  · have h := (h3 l hl).1.1.2
    refine Prod.ext (memResolve_fst ..) ?_
    unfold placeOf leafOf
    revert h
    cases (memResolve m s ((clauseOf s).env 0) false l).2 <;> simp
  · rcases h5 with h5 | h5
    · exact .inl h5
    · by_cases hr : m.order.releases = false
      · exact .inl hr
      · refine .inr ⟨h5, fun l hl => ?_⟩
        obtain ⟨h, hs⟩ := (h3 l hl).2.resolve_left hr
        exact ⟨fun q pa hp => by rw [hp] at h; exact Bool.noConfusion h, hs⟩

/-- The hypotheses of a memory form, met in s in lanes that execute it. -/
def MeetsMem (s : State) (m : MemForm) : Prop :=
  Issues s (clauseOf s) 0 (warpOf s) ∧
    Goes m.instr m.ops s (clauseOf s) 0 (warpOf s) (lsOf m.instr m.ops s) (exOf m.instr m.ops s) ∧
    Sendable m s (clauseOf s) 0 (exOf m.instr m.ops s) (placeOf m s) (leafOf m s) ∧ exOf m.instr m.ops s ≠ []

def memB (s : State) (m : MemForm) : Bool :=
  (readyB m.instr m.ops s || arrivedB m.instr m.ops s) && sendableB m s (exOf m.instr m.ops s) && !(exOf m.instr m.ops s).isEmpty

theorem meetsMem_of {s : State} {l : List MemForm} (hs : issuesB s = true) (h : l.all (memB s) = true) : ∀ m ∈ l, MeetsMem s m := by
  intro m hm
  have h := List.all_eq_true.mp h m hm
  simp only [memB, Bool.and_eq_true] at h
  exact ⟨issues_of hs, goes_of h.1.1, sendable_of h.1.2, by intro hn; simp [hn] at h⟩

/-- The stack access of `call` or `callx` to the line at 64. -/
def pushForm (i : Instr) (ops : List (Operand × Pos)) : MemForm := { pushOf i (clauseOf sMem).pc (fun _ => 64) with ops := ops }

theorem test_meets_CallsAndReturns :
    (∀ m ∈ [pushForm (.call { fmtB with off := 1 }) [], pushForm (.callx { fmtB with a := .opf 0 }) [(.opf 0, .w64)], popOfRet], MeetsMem sMem m) ∧
    checkTarget sMem 0 (sMem.ctxOf 0 0) (lineKind (clauseOf sMem).line) 64 = (sMem, .ok) ∧
    ∀ l ∈ lanes32, readOp sMem ((clauseOf sMem).env 0) l .b64 .w64 (.opf 0) = 64 :=
  ⟨meetsMem_of sMem_issues (by decide +kernel), by decide +kernel, by decide +kernel⟩

theorem test_meets_DivergenceBarriers :
    issuesB s0 = true ∧ [Instr.enrol fmtB, .rejoin fmtB, .bclr fmtB, .nop].all (fun i => readyB i [] s0) = true ∧
      readyB (.bread { fmtB with d := .main 4 }) [(.main 4, .w32)] s0 = true ∧ regDst (some (.main 4, .w32)) = true := by decide +kernel

/-- `s0` in a reproducible launch whose token is at the warp; and with a store of the warp on its way. -/
def sToken : State := s0.modLaunch (warpOf s0).launch (fun y => { y with
  record := y.record ||| BitVec.ofNat 2048 (2 ^ (8 * 0x28 + 3)), token := some 0 })
def sTokenStore : State := { sToken with ops := [(0, { owner := .warp 0 0, body := .store, ty := .n32, width := 4, hint := .dflt, scope := .wp, order := .plain
                                                       more := false, flag := none, lanes := [
  { lane := 3, place := .mem 0, hint := .dflt, sw := false, ms := false, sent := false, data := 0 }] })] }

theorem test_meets_Exit :
    (∀ s ∈ [s0, sToken, sTokenStore], issuesB s = true ∧ readyB .exit [] s = true ∧ (clauseOf s).executing s 0 = lanes32) ∧
    tokenAt s0 (warpOf s0) = false ∧ tokenAt sToken (warpOf sToken) = true ∧ tokenAt sTokenStore (warpOf sTokenStore) = true ∧
    (warpOf sToken).launchedLanes = lanes32 ∧ (warpOf sTokenStore).launchedLanes = lanes32 ∧
    mustDrain sToken 0 0 lanes32 .rel .span = false ∧ mustDrain sTokenStore 0 0 lanes32 .rel .span = true := by decide +kernel

/-! ### Memory -/

/-- Operands of the forms of format M: a pair of addresses in r8 and r9, and data of 32 bits, of 128, or for the whole warp. -/
def fmtA8 : FmtM := { fmtM with addr := .main 8 }
def fmtQ8 : FmtM := { fmtA8 with data := .main 12, ty := .b32 }
def fmtU8 : FmtM := { fmtA8 with data := .wreg 2 }

/-- The loads and stores under a change of the offset. -/
def plainAt (off : BitVec 24) : List MemForm :=
  (plainForms { fmtA8 with off := off }).filter (fun m => m.width = 4) ++ (plainForms { fmtQ8 with off := off }).filter (fun m => m.width = 16)

theorem test_meets_MemoryForms : (plainAt 0).length = 11 ∧ ∀ m ∈ plainAt 0 ++ lineForms fmtA8 ++ [sharedLoad fmtU8], MeetsMem sMem m :=
  ⟨by decide +kernel, meetsMem_of sMem_issues (by decide +kernel)⟩

theorem test_meets_prefetch : Goes (.pf { fmtM with data := .main 0, addr := .main 8, ty := .b8 }) [(.main 8, .w64), (.main 6, .w32)] sMem
    (clauseOf sMem) 0 (warpOf sMem) lanes32 lanes32 := goes_at (by decide +kernel)

/-- The atomics and reductions under a change of the offset. -/
def atomicAt (off : BitVec 24) : List MemForm :=
  let f := { fmtA8 with index := .main 12, off := off }
  (atomicForms f).filter (fun m => m.body != .atomic .cas f.ty (some f.data) 0) ++
    (atomicForms { f with ty := .b32 }).filter (fun m => m.body == .atomic .cas .b32 (some f.data) 0)

theorem test_meets_AtomicForms : (atomicAt 0).length = 12 ∧ ∀ m ∈ atomicAt 0, MeetsMem sMem m :=
  ⟨by decide +kernel, meetsMem_of sMem_issues (by decide +kernel)⟩

/-- The hypotheses of a form's misaligned-access trap, met in s. -/
def MeetsOdd (s : State) (one : Bool) (m : MemForm) : Prop :=
  let ex := exOf m.instr m.ops s
  let x := clauseOf s
  Issues s x 0 (warpOf s) ∧ Goes m.instr m.ops s x 0 (warpOf s) (lsOf m.instr m.ops s) ex ∧ stoppedAt s x.core 0 x.pc = none ∧
    (if one then ex.take 1 else ex).filter (fun l => (s.lane x.core 0 l).kind == .launched &&
      (m.addr s (x.env 0) l % (m.align : Int) != 0 || m.bad s (x.env 0) l)) ≠ []

def oddB (s : State) (one : Bool) (m : MemForm) : Bool :=
  let ex := exOf m.instr m.ops s
  let x := clauseOf s
  (readyB m.instr m.ops s || arrivedB m.instr m.ops s) && decide (stoppedAt s x.core 0 x.pc = none) &&
    !((if one then ex.take 1 else ex).filter (fun l => (s.lane x.core 0 l).kind == .launched &&
      (m.addr s (x.env 0) l % (m.align : Int) != 0 || m.bad s (x.env 0) l))).isEmpty

theorem meetsOdd_of {s : State} {one : Bool} {l : List MemForm} (hs : issuesB s = true) (h : l.all (oddB s one) = true) :
    ∀ m ∈ l, MeetsOdd s one m := by
  intro m hm
  have h := List.all_eq_true.mp h m hm
  simp only [oddB, Bool.and_eq_true, decide_eq_true_eq] at h
  exact ⟨issues_of hs, goes_of h.1.1, h.1.2, by intro hn; simp [hn] at h⟩

/-- The same with stack pointers that are no multiple of 8. -/
def sOdd : State := sMem.modWarp 0 0 (fun w => { w with lanes := w.lanes.mapV (fun _ y => { y with sp := 0x1004 }) })

theorem sOdd_issues : issuesB sOdd = true := by decide +kernel

theorem test_meets_Misaligned :
    (∀ m ∈ plainAt 2 ++ atomicAt 2 ++ [awaitLoad { fmtA8 with off := 2, index := .main 12 }], MeetsOdd sMem false m) ∧
    (∀ m ∈ [sharedLoad { fmtU8 with off := 2 }], MeetsOdd sMem true m) ∧
    (∀ m ∈ [popOfRet, pushForm (.call { fmtB with off := 1 }) [], pushForm (.callx { fmtB with a := .opf 0 }) [(.opf 0, .w64)]],
      MeetsOdd sOdd false m) ∧
    checkTarget sOdd 0 (sOdd.ctxOf 0 0) (lineKind (clauseOf sOdd).line) 64 = (sOdd, .ok) :=
  ⟨meetsOdd_of sMem_issues (by decide +kernel), meetsOdd_of sMem_issues (by decide +kernel), meetsOdd_of sOdd_issues (by decide +kernel),
    by decide +kernel⟩

/-- `s0` with the given wait in lane 1. -/
def sWait (w : Wait) : State := s0.modLane 0 0 1 (fun y => { y with wait := w })

theorem test_meets_FencesAndWaits :
    let f := { fmtM with addr := .main 8, index := .main 12 }
    let x := clauseOf s0
    (issuesB s0 = true ∧ readyB (.fence { fmtS with s7 := 7 }) [] s0 = true ∧ (x.executing s0 0).filter (fun l => (s0.lane 0 0 l).kind == .launched) ≠ [] ∧
      fenceWaits s0 0 0 lanes32 .ar .wg = false) ∧
    (MeetsMem sMem (awaitLoad f) ∧ ∀ l ∈ lanes32, waitOp sMem 0 0 l = none) ∧
    ownWrites s0 0 0 (1, 0, 4) { lane := 1, place := .store 0 0, data := 0, hint := .bypass, sw := false, ms := false, sent := true } = false ∧ waitCC 0 0 0 = true ∧ waitCC 0 0 1 = false ∧
    ((sWait (.waita 5)).lane 0 0 1).wait = .waita 5 ∧ waitAsks (sWait (.waita 5)) 0 0 1 = false ∧
    readyB (.pause { fmtS with a := .main 2 }) [(.main 2, .w32)] s0 = true ∧ ((sWait (.pause 3)).lane 0 0 1).wait = .pause 3 :=
  ⟨by decide +kernel, ⟨meetsMem_of (l := [_]) sMem_issues (by decide +kernel) _ (List.mem_singleton.mpr rfl), by decide +kernel⟩, by decide +kernel⟩

/-- `s0` with a bit of the flags of its launch record set (R147), and with what the warp in slot 0 is changed to. -/
def sFlag (n : Nat) : State := s0.modLaunch (warpOf s0).launch (fun y => { y with record := y.record ||| BitVec.ofNat 2048 (2 ^ (8 * 0x28 + n)) })

def sWarp (f : Warp → Warp) : State := s0.modWarp 0 0 f

/-- `s0` with two lanes arrived at barrier 0. -/
def sBars : State := s0.modWg (warpOf s0).wg (fun y => { y with bars := [(0, [0, 1])] })

theorem test_meets_Barriers :
    let act (s : State) : List Nat := ((clauseOf s).executing s 0).filter (fun l => (s.lane 0 0 l).kind == .launched)
    issuesB s0 = true ∧ act s0 ≠ [] ∧ readyB (.bar fmtS) [] s0 = true ∧ readyB (.barArrive fmtS) [] s0 = true ∧ readyB (.barWait fmtS) [] s0 = true ∧
    s0.wgs.at? (warpOf s0).wg ≠ none ∧ fenceWaits s0 0 0 (act s0) .ar .wg = false ∧
    issuesB sBars = true ∧ readyB (.bar fmtS) [] sBars = true ∧ (warpOf sBars).warpid = 0 ∧
    ((sBars.wgs.at? (warpOf sBars).wg).map (fun y => y.bars.atD 0 [])) = some [0, 1] ∧
    readyB .gridbar [] s0 = true ∧ ((s0.launchOf 0 0).map (fun y => y.flag 7)) = some false ∧ (s0.wgOf 0 0).isSome = true ∧
    issuesB (sFlag 7) = true ∧ readyB .gridbar [] (sFlag 7) = true ∧ (((sFlag 7).launchOf 0 0).map (fun y => y.flag 7)) = some true ∧
    ((sFlag 7).wgOf 0 0).isSome = true ∧ act (sFlag 7) ≠ [] ∧ fenceWaits (sFlag 7) 0 0 (act (sFlag 7)) .ar .pkg = false := by decide +kernel

/-- A line with the manual's `vote.any p1, p1` in slot 0. -/
def voteLine : Line := lineOfWord (word3 0xB19C0000 0x07804000 0x080C8000)

/-- No clause in flight; every lane of the warp has arrived at the vote. -/
def sColl : State := { sWarp (fun w => { w with lanes := w.lanes.mapV (fun _ y => { y with wait := .collective voteLine }) }) with clauses := [] }

/-- Lane 0 waits at the vote, and the others at a divergence barrier that waits for lane 0. -/
def sStuck : State := sWarp (fun w => { w with bars := [(0, 0xFFFFFFFF)], lanes := w.lanes.mapV (fun l y =>
  { y with wait := if l = 0 then .collective voteLine else .rejoin 0 }) })

theorem test_meets_EndOfWaits :
    (let w := warpOf sColl
     sColl.warp? 0 0 = some w ∧ w.trapped = false ∧ haltedLaunch sColl w.launch = false ∧ sColl.clauses = [] ∧
      w.lanes.anyV (fun _ y => y.wait.parksWarp) = false ∧ w.stopped = none ∧ (warpOf (sWarp (fun w => { w with trapped := true }))).trapped = true ∧
      w.present.find? (fun l => match (w.lanes.atD l Lane.never).wait with
        | .collective line => match instrAt line (w.lanes.atD l Lane.never).pc with
          | some i => collectiveReady w (w.lanes.atD l Lane.never).pc i
          | none => false
        | _ => false) = some 0 ∧
      (w.lanes.atD 0 Lane.never).wait = .collective voteLine ∧ (instrAt voteLine (w.lanes.atD 0 Lane.never).pc).isSome = true) ∧
    (let w := warpOf sStuck
     sStuck.warp? 0 0 = some w ∧ w.present.head? = some 0 ∧ warpStuck sStuck 0 0 w w.present = true ∧
      (w.present.all (fun l => (w.lanes.atD l Lane.never).wait == .collective voteLine || (w.lanes.atD l Lane.never).wait == .rejoin 0)) = true ∧
      (sStuck.wgs.at? w.wg).map (fun y => (y.saved, y.bars)) = some (none, []) ∧ wgLaunched sStuck w.wg ≠ [] ∧
      (wgWarps sStuck w.wg).all (fun e => warpStuck sStuck e.1 e.2.1 e.2.2 e.2.2.launchedLanes &&
        e.2.2.launchedLanes.all (fun l => (e.2.2.lanes.atD l Lane.never).wait.blocks)) = true) := by decide +kernel

/-- A reproducible launch: without the token, with the token at its warp, and with the warp waiting for it. -/
def sRep (token : Option Nat) (held : Bool) (w : Wait) : State :=
  ((sFlag 3).modLaunch (warpOf s0).launch (fun y => { y with token := token, held := held })).modLane 0 0 0 (fun y => { y with wait := w })

theorem test_meets_CourseAndToken :
    let s := sRep (some 0) true .run
    let q := sRep (some 0) false .rowait
    (∀ e ∈ [(Instr.rowait, ([] : List (Operand × Pos)), (none : Option (Operand × Pos))), (.ropass, [], none), (.rowhold { fmtS with pw := 1 }, [], none)],
      MeetsCross s e.1 e.2.1 e.2.2) ∧
    (readyB (.cwait { fmtS with a := .imm 1 }) [(.imm 1, .w32)] s0 = true ∧ s0.repro 0 0 = false ∧
     readyB (.cwait { fmtS with a := .imm 1 }) [(.imm 1, .w32)] s = true ∧ s.repro 0 0 = true ∧ holdsToken s (warpOf s) = true ∧
     mustDrain s 0 0 lanes32 .rel .span = false ∧ tokenAt (sRep none false .run) (warpOf s) = false) ∧
    ((sRep none false .run).launches.at? (warpOf s).launch).map (fun y => (y.repro, y.token)) = some (true, none) ∧
    (q.launches.at? (warpOf q).launch).map (fun y => (y.repro, y.token, y.held, parkedAt q (warpOf q).launch y 0)) = some (true, some 0, false, false) ∧
    tokenWarp q (warpOf q).launch = some (0, 0, warpOf q) ∧ waiting q 0 0 (fun z => z == .rowait) = [0] :=
  ⟨meetsCross_of (by decide +kernel) (by decide +kernel), by decide +kernel, by decide +kernel, by decide +kernel, by decide +kernel, by decide +kernel⟩

/-- A warp inside read sections. -/
def sDepth (n : Nat) : State := sWarp (fun w => { w with depth := n })

theorem test_meets_ReadSections :
    let f := { fmtS with s7 := 8 }
    let one (i : Instr) : Instr × List (Operand × Pos) × Option (Operand × Pos) := (i, [], none)
    (∀ e ∈ [one (.rsecBegin f), one .rsecEnd, one .mile, one (.grace f), one (.grace { f with s7 := 12 }),
      (.rsdepth { fmtA with ty := .n32, a := .main 0, b := .main 0 }, [(.main 4, .w32)], some (.main 4, .w32))], MeetsCross s0 e.1 e.2.1 e.2.2) ∧
    (warpOf s0).depth = 0 ∧ mustDrain s0 0 0 lanes32 .rel .span = false ∧ s0.track.snaps = [] ∧
    (∀ e ∈ [one .rsecEnd, one .mile], MeetsCross (sDepth 1) e.1 e.2.1 e.2.2) ∧ (warpOf (sDepth 1)).depth = 1 ∧ loadsOut (sDepth 1) 0 0 = false ∧
    (∀ e ∈ [one .rsecEnd, one (.rsecBegin f)], MeetsCross (sDepth 2) e.1 e.2.1 e.2.2) ∧ (warpOf (sDepth 2)).depth = 2 ∧
    (∀ e ∈ [one (.rsecBegin f)], MeetsCross (sDepth 254) e.1 e.2.1 e.2.2) ∧ (warpOf (sDepth 254)).depth = 254 :=
  ⟨meetsCross_of s0_issues (by decide +kernel), by decide +kernel, by decide +kernel, by decide +kernel,
    meetsCross_of (by decide +kernel) (by decide +kernel), by decide +kernel, by decide +kernel,
    meetsCross_of (by decide +kernel) (by decide +kernel), by decide +kernel, meetsCross_of (by decide +kernel) (by decide +kernel), by decide +kernel⟩

theorem test_meets_ReadSections_traps :
    let f := { fmtS with s7 := 8 }
    let one (i : Instr) : Instr × List (Operand × Pos) × Option (Operand × Pos) := (i, [], none)
    (∀ e ∈ [one (.rsecBegin f)], MeetsCross (sDepth 255) e.1 e.2.1 e.2.2) ∧ (warpOf (sDepth 255)).depth = 255 ∧
    (∀ e ∈ [one (.grace f)], MeetsCross (sDepth 1) e.1 e.2.1 e.2.2) ∧ (warpOf (sDepth 1)).depth ≠ 0 :=
  ⟨meetsCross_of (by decide +kernel) (by decide +kernel), by decide +kernel, meetsCross_of (by decide +kernel) (by decide +kernel), by decide +kernel⟩

/-- A snapshot whose warps have all passed, and a deferred free that waits for one. -/
def sGrace : State := { s0 with
  track := { snaps := [{ id := 5, span := false, number := 1, warps := [] }], takenPkg := 1, takenSpan := 0 }
  dfq := [{ addr := 0x2000, size := 64, pool := 0, span := false, stamp := 1, queue := 0, course := 0, launch := 0, repro := false }] }

theorem test_meets_graces :
    sGrace.track.snaps.find? (fun z => z.id = 5) = some { id := 5, span := false, number := 1, warps := [] } ∧
    sGrace.dfq.any (fun e => e.span == false && e.repro == false) = true ∧ (sGrace.track.snaps.filter (fun y => y.span = false)).length < 16 := by
  decide +kernel

/-- Lanes that execute a pool form out of turn, or name a pool that is not configured (R257, R258). -/
def oddPool (s : State) (i : Instr) (ops : List (Operand × Pos)) : Bool := readyB i ops s && decide ((clauseOf s).executing s 0 ≠ [])

/-- Lane 0 alone issues, with a pool of one block of 64 bytes at 0x2000 and an empty pool. -/
def sPool : State := { sMem with
  bpBase := 0x10000, dfqBase := 0x200000
  mem := Mem.wr (Mem.wr (Mem.wr (Mem.wr [] 0x10000 8 0x2000) 0x10008 4 1) 0x1000C 1 6) 0x1002C 1 6
  clauses := sMem.clauses.map (fun x => { x with lanes := x.lanes.take 1 }) }

theorem test_meets_BlockPools :
    let fld (p off n : Nat) : Nat := Mem.rd sPool.mem (0x10000 + 32 * p + off) n
    issuesB sPool = true ∧ sPool.repro 0 0 = false ∧ sPool.ctxOf 0 0 = 0 ∧ poolOk sPool 0 = true ∧ fld 0 13 1 = 0 ∧ poolOk sPool 1 = true ∧
    (∀ p ∈ [0, 1], readyB (.balloc { fmtA with ty := .b64, a := .main 0, b := .main 0, c := .imm p, pw := 1 }) [(.main 4, .w64), (.imm p, .w32)] sPool = true) ∧
    popOf [.imm 0] = none ∧ (clauseOf sPool).executing sPool 0 = [0] ∧ fld 0 0 8 = 0x2000 ∧ fld 1 0 8 = 0 ∧
    (match linkPa sPool 0 0 0x2000 true with | (_, .ok pa) => pa == 0x2000 | _ => false) = true ∧
    (match poolTake sPool 0 0 0 false with | (_, .block a) => a == 0x2000 | _ => false) = true ∧
    (match poolTake sPool 0 1 0 false with | (_, .empty) => true | _ => false) = true ∧
    (let f := { fmtS with a := .main 8, b := .imm 64, c := .imm 0 }
     readyB (.bfree f) [(f.a, .w64), (f.b, .w32), (f.c, .w32)] sPool = true ∧ readyB (.dfree { f with s7 := 8 }) [(f.a, .w64), (f.b, .w32), (f.c, .w32)] sPool = true) ∧
    poolFate sPool 0 64 0 = none ∧ (poolFree sPool 0 0 0 64).2 = none ∧ sPool.dfqBase ≠ 0 ∧ sPool.dfq.length + 1 ≤ 65536 ∧ (sPool.launchOf 0 0).isSome = true ∧
    readyB (.bpstat { fmtA with ty := .n32, a := .main 0, b := .main 0, c := .imm 0 }) [(.imm 0, .w32), (.main 4, .w32)] sPool = true := by decide +kernel

theorem test_meets_BlockPools_traps :
    let g := { fmtA with ty := .n32, a := .main 0, b := .main 0, c := .imm 2 }
    let r := sPool.modLaunch (warpOf s0).launch (fun y => { y with record := y.record ||| BitVec.ofNat 2048 (2 ^ (8 * 0x28 + 3)) })
    issuesB r = true ∧ r.repro 0 0 = true ∧ holdsToken r (warpOf r) = false ∧
    oddPool r (.balloc { g with ty := .b64, pw := 1 }) [(.main 4, .w64), (.imm 2, .w32)] = true ∧
    (∀ s ∈ [r, sPool], oddPool s (.bpstat g) [(.main 4, .w32), (.imm 2, .w32)] = true) ∧ poolOk sPool 2 = false ∧
    sPool.bpBase.toNat + 32 * 256 ≤ 0x5FF0000000 := by decide +kernel

theorem test_meets_Queues :
    let f := { fmtA with ty := .n32, b := .main 0 }
    let go (i : Instr) (ops : List (Operand × Pos)) : Bool := readyB i ops sQueue
    let g := (warpOf sQueue).wg
    (∀ q ∈ [(0 : BitVec 6), 1, 2], go (.push { f with d := .queue q false }) [(f.a, .w32), (.queue q false, .w32)] = true ∧
      go (.push { f with d := .queue q true, pw := 1 }) [(f.a, .w32), (.queue q true, .w32)] = true ∧
      go (.pop { f with a := .queue q false }) [(.queue q false, .w32), (f.d, .w32)] = true ∧
      go (.pop { f with a := .queue q true, pw := 1 }) [(.queue q true, .w32), (f.d, .w32)] = true ∧
      go (.qpeek { f with a := .queue q true, pw := 1 }) [(f.d, .w32)] = true) ∧
    queueRoom sQueue g 0 = .ready [] ∧ mustDrain sQueue 0 0 lanes32 .rel .wg = false ∧ queueRoom sQueue g 1 = .blocked ∧
    queueRoom sQueue g 2 = .unconfigured ∧ queueHead sQueue g 0 = .blocked ∧ queueHead sQueue g 1 = .ready (lanes32.map (fun _ => 0)) ∧
    (let f := { fmtS with s7 := 0, a := .wreg 10, b := .imm 2 }
     arrivedB (.qcfg f) [(f.b, .w32)] sQueue = true ∧ (clauseOf sQueue).together sQueue 0 (warpOf sQueue) (.qcfg f) = lanes32 ∧
      readOp sQueue ((clauseOf sQueue).env 0) 0 .n32 .w32 f.a = 0 ∧ readOp sQueue ((clauseOf sQueue).env 0) 0 .n32 .w32 f.b = 2 ∧
      256 ≤ spSize (sQueue.core 0).part ∧ queueWaited sQueue g 0 = false ∧ (sQueue.wgs.at? g).map (fun y => (y.cores, (y.queues.at? 0).map Queue.count)) = some ([0], some 0)) ∧
    go (.qstat { f with a := .imm 0 }) [(f.d, .w32)] = true ∧ ((sQueue.wgOf 0 0).bind (fun g => g.queues.at? 0)).isSome = true := by decide +kernel

theorem test_meets_QueuesInOrder :
    let at_ (q : Nat) : Option Queue := (sQueue.wgs.at? (warpOf sQueue).wg).bind (fun z => z.queues.at? q)
    at_ 0 = some { off := 0, cap := 2, head := 0, count := 0 } ∧ at_ 3 = some { off := 512, cap := 2, head := 1, count := 1 } ∧
      (List.replicate 32 (0 : Word)).length = 32 := by decide +kernel

/-- A copy of 128 bytes from scratchpad to scratchpad. -/
def copyOf (prog : Nat) : CopyCmd :=
  { dst := 0xF000001000000, src := 0xF000001000800, len := 128, form := .linear, hint := .dflt, slot := 0, launch := (warpOf s0).launch
    wg := (warpOf s0).wg, ctx := 0, flag := none, parked := none, seen := false, warpid := 0, killed := false, prog := prog, wrote := [], flight := none }

/-- `s0` with channel 0 running that copy, the given bytes delivered, and with the copy waiting for a free channel. -/
def sCopy (prog : Nat) : State := s0.modChan 0 0 (fun y => { y with cmd := some (copyOf prog) })
def sCopyWaits : State := (s0.modChan 0 0 (fun y => { y with queue := [copyOf 0] })).modLane 0 0 0 (fun y => { y with wait := .copy 0 })

/-- A channel copies to memory, as the owner of the line; and a copy's destination is not present (R35). -/
def sCopyMem : State :=
  let x := { copyOf 0 with dst := 0x1000 }
  let s := { sMem with own := [{ granule := 0, mask := 1 <<< 32, engine := .copy 0 0, write := true }] }
  s.modChan 0 0 (fun y => { y with cmd := some x })
def sMissing : State := { s0 with
  xl := { s0.xl with ctxBase := 0x100000, fqBase := 0x200000 }, mem := Mem.wr (Mem.wr [] 0x100000 8 0x10001) 0x10000 8 0 }

theorem test_meets_CopyCommands_memory :
    (let s := sCopyMem
     let x := { copyOf 0 with dst := 0x1000 }
     let who := copyWho 0 x
     (s.chan 0 0).cmd = some x ∧ peerRequests s 0 = 0 ∧
     (match resolveNow s who { kind := .copy, write := true, odd := true, width := 4 } 0x1000 with | (u, .ok p _) => decide (u = s) && decide (p = .mem 0x1000) | _ => false) = true ∧
     frameLost s (.mem 0x1000) = false ∧ (∃ r ∈ s.own, r.engine = .copy 0 0 ∧ r.granule = 0x1000 / 65536 ∧ r.mask.getLsbD (0x1000 / 128 % 512) = true)) ∧
    ({ copyOf 0 with dst := 0x1000 }.missing sMissing 0).isSome = true ∧ ({ copyOf 0 with dst := 0x1000 }.granules sMissing 0).length ≤ 256 ∧
    issuesB sMissing = true ∧ arrivedB (.cpy { fmtS with a := .wreg 4, b := .wreg 6, c := .imm 128, s7 := 4 }) [] sMissing = true ∧
    (sMissing.chan 0 0).free = true := by decide +kernel

theorem test_meets_CopyCommands :
    let f := { fmtS with a := .wreg 4, b := .wreg 6, c := .imm 128, s7 := 4 }
    let forms : List Instr := [.cpy f, .cpy2d { f with c := .imm 0 }, .cpymc f, .cpfill { f with b := .imm 7 }, .cpkill fmtS]
    (∀ i ∈ forms, arrivedB i [] s0 = true ∧ arrivedB i [] (sCopy 0) = true ∧ (clauseOf s0).together s0 0 (warpOf s0) i ≠ []) ∧
    (let e := (clauseOf s0).env 0
     readOp s0 e 0 .n64 .w64 f.a = 0 ∧ readOp s0 e 0 .n64 .w64 f.b = 0 ∧ readOp s0 e 0 .n32 .w32 f.c = 128 ∧ readOp s0 e 0 .n64 .w64 (.imm 0) = 0) ∧
    inFlight s0 0 0 lanes32 (fun _ => true) = false ∧ (s0.chan 0 0).free = true ∧ (s0.chan 0 0).queue = [] ∧ ((sCopy 0).chan 0 0).free = false ∧
    ((copyOf 0).granules s0 0).length ≤ 256 ∧ (copyOf 0).missing s0 0 = none ∧ wbHeld s0 0 = false ∧ peerRequests (sCopy 0) 0 = 0 ∧ recordsFree s0 (granulesOf ((copyOf 0).lines s0 0)) = true ∧
    ((sCopy 0).chan 0 0).cmd = some (copyOf 0) ∧
    (let g := { fmtA with ty := .b64, a := .imm 0, b := .main 6 }
     readyB (.ldwp g) [(g.d, .w64)] s0 = true ∧ readyB (.waitwp g) [(g.d, .w64), (g.b, .w64)] s0 = true) ∧
    ((sWait (.waitwp 0 0 (.main 4))).lane 0 0 1).wait = .waitwp 0 0 (.main 4) ∧ wpReady ((sWait (.waitwp 0 0 (.main 4))).chan 0 0) 0 = true := by
  decide +kernel

theorem test_meets_copies_on_their_way :
    (sCopyWaits.chan 0 0).queue = [copyOf 0] ∧ (sCopyWaits.chan 0 0).free = true ∧ sCopyWaits.warp? 0 0 = some (warpOf sCopyWaits) ∧
    (warpOf sCopyWaits).trapped = false ∧ (warpOf sCopyWaits).wg = (copyOf 0).wg ∧ (warpOf sCopyWaits).warpid = (copyOf 0).warpid ∧
    waiting sCopyWaits 0 0 (fun y => y == .copy 0) = [0] ∧
    (let s := sCopy 0
     let who := copyWho 0 (copyOf 0)
     resolveNow s who { kind := .copy, write := false, odd := true, width := 4 } 0xF000001000800 =
       (s, .ok (.store 0 (spBase (s.core 0).part + 0x800)) 0) ∧
     resolveNow s who { kind := .copy, write := true, odd := true, width := 4 } 0xF000001000000 = (s, .ok (.store 0 (spBase (s.core 0).part)) 0)) ∧
    ((sCopy 128).chan 0 0).cmd = some (copyOf 128) ∧ (copyOf 128).len ≤ (copyOf 128).prog ∧ ((sCopy 128).chan 0 0).done < (copyOf 128).len := by
  decide +kernel

/-! ### Populations -/

/-- A launch of a population of 32 particles, one of which is still to be reported by another member. -/
def sPops (grain : Nat) (arrived opened : Bool) (reports : NMap (Option Int × DWord)) : State :=
  { (sFlag 6).modLaunch (warpOf s0).launch (fun y => { y with population := some 0 }) with
    pops := [(0, { launch := (warpOf s0).launch, grain := grain, members := 1, n := 33, pool := 0, deadline := 5, first := 0, count := 32, step := 0
                   opened := opened, reports := reports, rsbWarps := [], closing := none
                   parts := (List.range 32).map (fun i => (i, { root := 0, parent := i, acc := some 0, pw := some 0, step := 0, arrived := arrived
                                                                updates := 0, old := none })) })] }

theorem test_meets_Populations :
    let pw := { fmtA with ty := .lw64, b := .main 0 }
    let ps := { fmtA with ty := .b64, b := .main 0 }
    let rs := { fmtA with ty := .n32, a := .main 0, b := .main 0, pw := 1 }
    let s := sPops 0 false false []
    let g := sPops 1 false false []
    (readyB (.pwadd pw) [(pw.a, .w64)] s0 = true ∧ (s0.launchOf 0 0).map (fun y => y.flag 6) = some false) ∧
    issuesB s = true ∧ issuesB g = true ∧ readyB (.pwadd pw) [(pw.a, .w64)] s = true ∧ (s.launchOf 0 0).map (fun y => y.flag 6) = some true ∧
    (g.launchOf 0 0).map (fun y => y.flag 6) = some true ∧
    (∀ l ∈ lanes32, particleOf s 0 0 l = some (0, l) ∧ (s.particle 0 l).map (fun y => (y.updates, y.old)) = some (0, none)) ∧
    readyB (.psetroot ps) [(ps.a, .w64)] s = true ∧ grainOf s 0 0 = some 0 ∧ arrivedB (.psetroot ps) [(ps.a, .w64)] g = true ∧ grainOf g 0 0 = some 1 ∧
    mustDrain s 0 0 lanes32 .rel .span = false ∧ mustDrain g 0 0 lanes32 .rel .span = false ∧
    (∀ u ∈ [s, g], arrivedB (.rsb rs) [(rs.d, .w32)] u = true ∧ (clauseOf u).together u 0 (warpOf u) (.rsb rs) = lanes32 ∧
      (popOfLaunch u (warpOf u).launch).isSome = true) ∧
    (clauseOf g).together g 0 (warpOf g) (.psetroot ps) = lanes32 := by decide +kernel

theorem test_meets_population_steps :
    let s := sPops 0 false false []
    ((s.pops.at? 0).map (fun q => (q.reports.at? 32, q.parts.at? 32, q.n))) = some (none, none, 33) ∧
    (let a := sPops 0 true true ((List.range 33).map (fun i => (i, (some 0, 0))))
     (a.pops.at? 0).map (fun q => (q.opened, q.deadline, (List.range q.n).all (fun i => (q.reports.at? i).isSome))) = some (true, 5, true)) ∧
    (let a := sPops 0 true false []
     (a.launches.at? (warpOf a).launch).bind (fun y => (a.pops.at? 0).bind (fun q => arrival a q.launch y q 3)) = some (some 0)) := by decide +kernel

theorem test_meets_Resampling : 0x80000000 < 2 ^ 32 ∧ 0 < [0, 3, 1].sum ∧ [0, 3, 1] ≠ ([] : List Nat) ∧ [[0], [1, 2]].flatten = List.range [0, 3, 1].length := by
  decide

/-! ### The matrix engine -/

/-- The engine belongs to the warp, whose tile 0 is granule 0; entry 1 is of an empty FP16 tensor, entry 2 of an empty sparse one, and entry 3 of
an empty FP32 one. -/
def sTile : State := (s0.modCore 0 (fun y => { y with
  granules := [(0, (0, 0))], engine := { y.engine with owner := some 0 },
  swatch := [(1, BitVec.ofNat 512 (0x0C + 0xFFFFFFFF * 2 ^ (8 * 0x2C))), (2, BitVec.ofNat 512 (0x20C + 0xFFFFFFFF * 2 ^ (8 * 0x2C))),
    (3, BitVec.ofNat 512 (0x0E + 0xFFFFFFFF * 2 ^ (8 * 0x2C)))] })).modWarp 0 0 (fun w => { w with tiles := [(0, 0)] })

/-- All granules belong to another warp, which owns the engine. -/
def sFull : State := s0.modCore 0 (fun y => { y with granules := (List.range (accG y.part)).map (fun g => (g, (1, g)))
                                                     engine := { y.engine with owner := some 1 } })

/-- The warp waits for a tile, for the engine, or as its owner to be. -/
def sTileWait : State := sWarp (fun w => { w with lanes := w.lanes.mapV (fun _ y => { y with wait := .tile }) })
def sLease (ownerQ leaseQ : List Nat) : State := s0.modCore 0 (fun y => { y with engine := { y.engine with ownerQ := ownerQ, leaseQ := leaseQ } })

theorem test_meets_MatrixTiles :
    let f := { fmtX with ca := .imm 0, cc := .main 4 }
    let forms : List (Instr × List (Operand × Pos)) := [(.tzero fmtX, []), (.trd f, [(f.cc, .w64)]), (.twr f, [(f.cc, .w64)]),
      (.tscl { f with ca := .main 0 }, [(f.cc, .w64)]), (.trel fmtX, []), (.swinv { fmtX with swa := 1 }, []), (.macq, []), (.mrel, [])]
    issuesB sTile = true ∧ issuesB sFull = true ∧ 0 < accG (sTile.core 0).part ∧ tileAt sTile 0 0 0 = some 0 ∧
    (∀ e ∈ forms, arrivedB e.1 e.2 sTile = true ∧ arrivedB e.1 e.2 s0 = true ∧ arrivedB e.1 e.2 sFull = true ∧
      (clauseOf s0).together s0 0 (warpOf s0) e.1 ≠ []) ∧
    readOp sTile ((clauseOf sTile).env 0) 0 .n32 .w32 (.imm 63) = 63 ∧ readOp sTile ((clauseOf sTile).env 0) 0 .n32 .w32 (.imm 64) = 64 ∧
    tileAt s0 0 0 0 = none ∧ freeGranule s0 0 = some 0 ∧ tileAt sFull 0 0 0 = none ∧ freeGranule sFull 0 = none ∧ 0 < accG (sFull.core 0).part ∧
    (s0.core 0).engine.owner = none ∧ (s0.core 0).engine.ownerQ = [] ∧ leaseOver s0 0 = true ∧ (sFull.core 0).engine.owner = some 1 ∧
    (sFull.core 0).engine.ownerQ = [] ∧ (sTile.core 0).engine.owner = some 0 ∧
    (∀ s ∈ [sLease [1] [], sLease [] [1]], (s.core 0).engine.owner = none ∧ leaseOver s 0 = true) ∧
    freeGranule sTileWait 0 ≠ none ∧ allWait sTileWait 0 Wait.allocates = true ∧
    ((sTileWait.core 0).warps.filterV (fun _ w => w.lanes.anyV (fun _ l => l.wait == .tile))).map Prod.fst = [0] := by decide +kernel

theorem test_meets_MatrixOperations :
    let f := { fmtX with swa := 1, swb := 1, ca := .imm 0, cb := .imm 0, cc := .imm 0 }
    let sw (id : Nat) : Option (Nat × Bool × Option Nat × Nat) :=
      ((sTile.core 0).swatch.at? id).map (fun e => ((swatchOf e).fmt, (swatchOf e).sparse, swatchBad e, (swatchOf e).smooth))
    let lines (id : Nat) (real : Bool) (r c : Nat) : List Nat := match (sTile.core 0).swatch.at? id with | some e => (swatchOf e).lines real r c | none => [0]
    let none_ : List Nat := []
    inFlight sTile 0 0 lanes32 (fun _ => true) = false ∧ 
    (∀ e ∈ [(Instr.mma f, ([] : List (Operand × Pos))), (.mmas { f with swb := 2 }, []), (.tld { fmtX with swc := 3, ca := .imm 0, cb := .imm 0 }, []),
      (.tst { fmtX with swc := 1, ca := .imm 0, cb := .imm 0 }, []), (.qsm { fmtX with cc := .main 4 }, [(.main 0, .w32), (.main 4, .w32)]),
      (.spgen { fmtX with swb := 2, ca := .imm 0, cb := .imm 0, cc := .main 4 }, [(.main 4, .w32)])],
      arrivedB e.1 e.2 sTile = true ∧ (clauseOf sTile).together sTile 0 (warpOf sTile) e.1 ≠ []) ∧
    sw 1 = some (0x0C, false, none, 0xFFFFFFFF) ∧ sw 2 = some (0x0C, true, none, 0xFFFFFFFF) ∧ sw 3 = some (0x0E, false, none, 0xFFFFFFFF) ∧
    classK 0x0C 0x0C false = some 32 ∧
    (∀ r ∈ List.range 64, ∀ p ∈ List.range 64, lines 1 true r p = none_ ∧ lines 2 true p r = none_ ∧ lines 3 false r p = none_) := by
  decide +kernel

theorem test_meets_fetched :
    ((sTile.core 0).swatch.at? 1).map (fun e => (swatchOf e).hint) = some Hint.stream ∧
    (warpOf sTile).row = 0 ∧ (warpOf sTile).keeps = none ∧ wbHeld sTile 0 = false ∧
    fetchedLines sTile 0 0 .stream [] = [] ∧ recordsFree sTile [] = true ∧ tooMany [] = false ∧ sTile.own = [] ∧
    (match matOwn sTile 0 0 false [] with
      | some (s1, _) => match fetchLines s1 0 0 [] with | (s2, .ok _) => decide ((pinLines s2 []).2 = []) && pinsFit s2 [] | _ => false
      | none => false) = true ∧
    (match matOwn sTile 0 0 true [] with | some (u, id) => decide (u.own = []) && decide (id = sTile.fresh) | none => false) = true ∧
    ((sTile.core 0).swatch.at? 1).map (fun e => (tstLines sTile 0 0 0 2 0 0 (swatchOf e) 0,
      (tstRows 0 0 0 2 0 0 0 (swatchOf e) 64 (openMat sTile (clauseOf sTile) 0 0 .none) 0).2.isNone)) = some ([], true) ∧
    (warpOf sTile).row = 0 ∧ sTile.cores.all (fun e => e.2.engine.pending.isEmpty) = true := by
  decide +kernel

/-- A finished operation of the engine. -/
def sPending : State := sTile.modCore 0 (fun y => { y with
  engine := { y.engine with pending := [{ id := 0, more := false, slot := 0, wg := (warpOf s0).wg, warpid := 0, flag := none, wrote := [], pins := [], acks := 0 }] } })

theorem test_meets_matrixOpComplete : ((sPending.core 0).engine.pending.find? (fun m => m.acks = 0 && !m.more)).isSome = true := by decide +kernel

/-! ### Traps, system forms, the control core -/

theorem test_meets_TrapTaken :
    s0.warp? 0 0 = some (warpOf s0) ∧ 0 < Config.warpSlots ∧ (warpOf s0).trapped = false ∧ (s0.core 0).tqHead - (s0.core 0).tqTail < 64 ∧
    (let s := s0.modCore 0 (fun y => { y with tqHead := 64 })
     s.warp? 0 0 = some (warpOf s) ∧ 64 ≤ (s.core 0).tqHead - (s.core 0).tqTail) ∧
    (warpOf (sWarp (fun w => { w with trapped := true }))).trapped = true := by decide +kernel

theorem test_meets_ReturnFromTrap :
    let s := sWarp (fun w => { w with trapped := true, dmask := 0xFFFF, lanes := w.lanes.mapV (fun l y => { y with wait := if l < 16 then .held else .run }) })
    let w := (warpOf s).applyPatch
    s.warp? 0 0 = some (warpOf s) ∧ w.owed = [] ∧ w.present = lanes32 ∧ (∀ l ∈ w.present, pcOk (w.lanes.atD l Lane.never).pc = true ∧ l < 32 ∧
      (w.lanes.at? l).isSome = true ∧ (w.lanes.atD l Lane.never).wait ≠ .transfer ∧ (w.lanes.atD l Lane.never).wait.killedBy = none) ∧ (w.lanes.atD 0 Lane.never).pc = w.trapPc ∧
      maskHas w.dmask 0 = true ∧ maskHas w.dmask 16 = false := by decide +kernel

/-- The warp has 32 registers, alone on its core or beside a warp that has the rest of them. -/
def sRegs (others : NMap Warp) : State := s0.modCore 0 (fun y => { y with warps := (y.warps.upd 0 (fun w => { w with regs := 32 })) ++ others })
def sRegsFull : State := sRegs [(1, { warpOf s0 with base := 0x1000, regs := 992 })]
def sRegrow (n : Nat) : State := sWarp (fun w => { w with regs := 32, lanes := w.lanes.mapV (fun _ y => { y with wait := .regrow n }) })

/-- A launch queue of two slots that programs submit to. -/
def sDev : State := { sPool with
  lqs := [(0, { (State.reset.lq 0) with base := 0x8000, size := 1, enable := true, dev := true })] }

theorem test_meets_SystemForms :
    let rg (n : BitVec 7) : FmtS := { fmtS with pw := 1, s7 := n }
    let la := { fmtS with a := .main 8, pw := 1 }
    issuesB s0 = true ∧ (clauseOf s0).executing s0 0 ≠ [] ∧ readyB (.trap fmtS) [] s0 = true ∧ readyB .brk [] s0 = true ∧
    readyB (.rdarch { fmtA with ty := .n32, a := .main 0, b := .main 0 }) [(.main 4, .w32)] s0 = true ∧ regsBusy s0 0 0 = false ∧
    (∀ s ∈ [s0, sRegs [], sRegsFull], issuesB s = true ∧ arrivedB (.regrow (rg 7)) [] s = true ∧ regsBusy s 0 0 = false ∧
      arrivedB (.regshrink { fmtS with s7 := 1 }) [] s = true) ∧
    (warpOf s0).regs = 1024 ∧ regG (s0.core 0).part = 8 ∧ (warpOf (sRegs [])).regs = 32 ∧ fitBase (sRegs []) 0 (some 0) 64 = some 0 ∧
    fitBase sRegsFull 0 (some 0) 64 = none ∧
    (let s := s0.modCore 0 (fun y => { y with part := y.part - 1 })
     issuesB s = true ∧ arrivedB (.regrow (rg 127)) [] s = true ∧ regG (s.core 0).part * 0x4000 < 128 * 1024) ∧
    (blockedRegrows (sRegrow 64) 0).map (fun e => (e.1, e.2.2)) = [(0, (64, none))] ∧ allWait (sRegrow 64) 0 (fun y => match y with | .regrow _ => true | _ => false) = true ∧
    issuesB sPool = true ∧ readyB (.launch la) [(la.a, .w64)] sPool = true ∧ stoppedAt sPool 0 0 (clauseOf sPool).pc = none ∧
    mustDrain sPool 0 0 [0] .rel .pkg = false ∧ readOp sPool ((clauseOf sPool).env 0) 0 .n64 .w64 la.a = 0 ∧ regionOf 0 = .general ∧
    (sPool.lq 0).takesDev = false ∧ issuesB sDev = true ∧ readyB (.launch la) [(la.a, .w64)] sDev = true ∧ (sDev.lq 0).takesDev = true ∧
    (match readRecord sDev 0 0 0 with | (u1, .bytes bs) => (submit u1 0 bs).2 | _ => false) = true := by decide +kernel

/-- What `CtrlIssues` asks, decided. -/
def ctrlB (i : Instr) (ops : List (Operand × Pos)) (s : State) : Bool :=
  let x := clauseOf s
  decide (s.clauses.head? = some x) && decide (x.picker = .control) && decide (x.slots = [ctrlSlot]) && decide (x.lanesOf ctrlSlot = [0]) &&
    decide (guardLanes s x ctrlSlot [0] = [0]) && i.operands.all ctrlOperand && rangeOk 256 ops

theorem ctrl_of {i : Instr} {ops : List (Operand × Pos)} {s : State} (h : ctrlB i ops s = true) : CtrlIssues i ops s (clauseOf s) := by
  simp only [ctrlB, Bool.and_eq_true, decide_eq_true_eq] at h
  obtain ⟨⟨⟨⟨⟨⟨h1, h2⟩, h3⟩, h4⟩, h5⟩, h6⟩, h7⟩ := h
  exact ⟨h1, by simp [h2], h3, h4, h5, h6, h7⟩

theorem ctrl_all {l : List (Instr × List (Operand × Pos))} {s t : State} (h : l.all (fun e => ctrlB e.1 e.2 s && ctrlB e.1 e.2 t) = true) :
    ∀ e ∈ l, CtrlIssues e.1 e.2 s (clauseOf s) ∧ CtrlIssues e.1 e.2 t (clauseOf t) := by
  intro e he
  have := List.all_eq_true.mp h e he
  simp only [Bool.and_eq_true] at this
  exact ⟨ctrl_of this.1, ctrl_of this.2⟩

/-- The control core issues, with warp 0 running, or stopped by a trap whose record is in its queue. -/
def sCtrl : State := placeWord State.reset (wordS 0x38D 7 7 0 0 0 0 0 0)
def sCtrlTrap : State := raiseTrap sCtrl 0 0 Cause.contract 0 { lanes := 1 }

theorem test_meets_ControlCoreForms :
    let f := { fmtS with pw := 1, a := .imm 0 }
    let a := { fmtA with ty := .n32, a := .main 0, b := .main 0 }
    let forms : List (Instr × List (Operand × Pos)) := [(.tnext a, [(a.d, .w32)]), (.tres f, [(f.a, .w32)]), (.tstep f, [(f.a, .w32)]), (.tskip f, [(f.a, .w32)]),
      (.tkill f, [(f.a, .w32)]), (.tstop { f with pw := 7 }, [(f.a, .w32)]), (.csave { f with b := .main 4 }, [(f.a, .w32), (.main 4, .w64)]),
      (.cload { f with b := .main 4 }, [(f.a, .w32), (.main 4, .w64)]), (.crd { a with b := .imm 3 }, [(a.d, .w32)]), (.cwr { fmtS with s7 := 0x10, a := .main 2 }, [(.main 2, .w32)]),
      (.tdone, []), (.iflush, []), (.dwsync, []), (.hnotify { fmtS with a := .main 2 }, [(.main 2, .w32)])]
    (∀ e ∈ forms, CtrlIssues e.1 e.2 sCtrl (clauseOf sCtrl) ∧ CtrlIssues e.1 e.2 sCtrlTrap (clauseOf sCtrlTrap)) ∧
    ((sCtrl.core 0).tqHead = (sCtrl.core 0).tqTail ∧ (sCtrlTrap.core 0).tqHead ≠ (sCtrlTrap.core 0).tqTail ∧ (sCtrlTrap.core 0).tqHeld = [] ∧
      debugOwed sCtrlTrap 0 ctrlSlot [0] = false ∧ (warpOf sCtrlTrap).trapped = true ∧ sCtrl.warp? 0 0 = some (warpOf sCtrl) ∧ sCtrl.warp? 0 5 = none ∧
      ((sCtrl.core 0).streams.at? 0).map (fun y => y.started) = some true) := ⟨ctrl_all (by decide +kernel), by decide +kernel⟩


/-! ### Access streams and accesses in flight -/

/-- What `StreamIssues` asks, decided. -/
def streamB (i : Instr) (s : State) : Bool :=
  let x := clauseOf s
  decide (s.clauses.head? = some x) && decide (x.picker = .stream 0) && decide (x.core = 0) && !x.guard.neg &&
    (match (s.core 0).streams.at? 0 with | some t => !streamRepro s t || !i.operands.any isTiming | none => false)

/-- The stream of slot 0. -/
def streamOf (s : State) : Stream := ((s.core 0).streams.at? 0).getD (startStreamState (newLaunch s 0) 0 0)

theorem stream_of {i : Instr} {s : State} (h : streamB i s = true) : StreamIssues i s (clauseOf s) 0 (streamOf s) := by
  simp only [streamB, Bool.and_eq_true, decide_eq_true_eq, Bool.not_eq_true'] at h
  obtain ⟨⟨⟨⟨h1, h2⟩, hc⟩, h3⟩, h4⟩ := h
  unfold streamOf
  rcases ht : (s.core 0).streams.at? 0 with _ | t
  · rw [ht] at h4; exact Bool.noConfusion h4
  · rw [ht] at h4
    exact ⟨h1, h2, by rw [hc]; exact ht, h3, by simpa using h4⟩

theorem streams_all {l : List Instr} {s : State} (h : l.all (fun i => streamB i s) = true) : ∀ i ∈ l, StreamIssues i s (clauseOf s) 0 (streamOf s) :=
  fun i hi => stream_of (List.all_eq_true.mp h i hi)

def aendWord : IWord := wordS 0x3C1 7 7 0 0 0 0 0 0

/-- The stream of slot 0 issues, with a page mapped, a line of `aend` at 64, the queues of `sQueue`, and the given open loops. -/
def sStr (loops : List LoopEntry) : State :=
  ((((placeWord State.reset aendWord).modCore 0 (fun y => { y with
      tlb := [{ ctx := 0, page := 0, bits := 16, leaf := 0x0100000000000003 }], icache := [(1, lineOfWord aendWord)] })).modWg (warpOf s0).wg
    (fun g => { g with queues := [(0, { off := 0, cap := 2, head := 0, count := 0 }), (1, { off := 256, cap := 1, head := 0, count := 1 })] })).modStream 0 0
    (fun t => { t with loops := loops }))

theorem test_meets_Streams :
    let a := { fmtA with ty := .n32 }
    let m := { fmtM with data := .queue 0 false, index := .main 6 }
    let s := sStr []
    let t := streamOf s
    (∀ i ∈ [Instr.aadd a, .asub a, .amad a, .amin a, .aand a, .ashr a, .amovi { d := .main 4, a := .main 0, rm := .rne, ty := .n32, opm := 0, pw := 7, imm := 5 },
      .aloop { fmtB with off := 1, a := .imm 3, d := .main 4 }, .ald { fmtM with index := .main 6 }, .apush m, .agath { m with index := .queue 1 false },
      .ast { m with data := .queue 1 false }, .apf { m with ty := .b8, data := .main 0 }, .afence { fmtS with s7 := 7 }, .astop],
      StreamIssues i s (clauseOf s) 0 t) ∧
    (pcOk 64 = true ∧ (match fetchLine s 0 (streamCtx s t) 64 with | (_, .line l) => decide (l = lineOfWord aendWord) | _ => false) = true ∧
     lineKind (lineOfWord aendWord) = 1 ∧ decodeSlot (lineOfWord aendWord) 0 = .ok .aend ∧ streamRead s 0 t .n32 .w32 (.imm 3) = 3 ∧
     streamRead s 0 t .n32 .w32 (.imm 0) = 0 ∧ t.loops.length < 4 ∧ t.stepping = false ∧ streamBusy s 0 0 (fun _ => true) = false ∧ t.gath = none ∧ t.buf = [] ∧
     queueRoom s t.wg 0 = .ready [] ∧ (match queueHead s t.wg 1 with | .ready _ => true | _ => false) = true ∧ wbHeld s 0 = false ∧
     recordsFree s [0] = true) ∧
    ((match resolveNow s (streamWho s 0 t) { kind := .affine, write := false, odd := false, width := 4 } 0 with | (u, .ok p _) => !frameLost u p | _ => false) = true ∧
     (∀ b ∈ [false, true], (match rowPlaces s 0 t 0 b with
       | (v, .ok ps) => decide (ps.length = 32) && !rowClash v 0 0 ps && ps.all (fun e => match e.1 with | .peer _ _ => false | .debug _ _ => false | _ => !frameLost v e.1)
       | _ => false) = true)) := by
  exact ⟨streams_all (by decide +kernel), by decide +kernel, by decide +kernel⟩

theorem test_meets_Misaligned_streams :
    let m := { fmtM with data := .queue 0 false, index := .main 6, off := 2 }
    let s := (sStr []).modStream 0 0 (fun t => { t with gath := some (List.replicate 32 0) })
    let t := streamOf s
    (∀ i ∈ [Instr.ald { fmtM with index := .main 6, off := 2 }, .apush m, .agath { m with index := .queue 1 false }, .ast { m with data := .queue 1 false }],
      StreamIssues i s (clauseOf s) 0 t) ∧
    streamBusy s 0 0 (fun o => o.order.acquires) = false ∧ (s.wgs.at? t.wg).any (fun g => (g.queues.at? 0).isSome && (g.queues.at? 1).isSome) = true ∧
    t.gath = some (List.replicate 32 0) ∧
    truncN 64 ((streamRead s 0 t .n64 .w64 m.addr : Int) + (streamRead s 0 t .n32 .w32 m.index : Nat) + m.off.toInt) % 4 ≠ 0 :=
  ⟨streams_all (by decide +kernel), by decide +kernel⟩

theorem test_meets_aend :
    let e (n : Word) : LoopEntry := { start := 64, fin := 0, var := 4, count := n }
    ∀ s ∈ [sStr [e 2], sStr [e 1]], StreamIssues .aend s (clauseOf s) 0 (streamOf s) ∧ (streamOf s).loops.map LoopEntry.fin = [(clauseOf s).pc] ∧
      (streamOf s).stepping = false := by
  intro e s hs
  simp only [List.mem_cons, List.not_mem_nil, or_false] at hs
  rcases hs with rfl | rfl <;> exact ⟨stream_of (by decide +kernel), by decide +kernel, by decide +kernel⟩

/-- An operation of lane 3 in flight. -/
def opOf (b : OpBody) (p : Place) : MemOp :=
  { owner := .warp 0 0, body := b, ty := .n32, width := if b = .push ∨ b = .pop then 8 else 4, hint := .dflt, scope := .wp, order := .plain, more := false, flag := some 0,
    lanes := [{ lane := 3, place := p, hint := .dflt, sw := false, ms := false, sent := false, data := 0 }] }

def sOp (o : MemOp) : State := { s0 with ops := [(0, o)] }

/-- The line of address 0 in the core's level 1, with its first bytes valid. -/
def sLine (o : MemOp) : State := (sOp o).modCore 0 (fun y => { y with l1 := [{ line := 0, cls := .dflt, data := 7, valid := 0xFF, written := 0 }] })

theorem test_meets_AccessesPerformed :
    let r : OpBody := .load (.main 4) .n32 false
    let ok (o : MemOp) (s : State) : Bool := match o.lanes with
      | a :: _ => decide (s.ops.at? 0 = some o) && decide (o.lanes.find? (fun b => b.lane = a.lane) = some a) && a.lane < 32 && accReady s 0 o a && !a.sent && !a.sw &&
          !o.order.releases
      | [] => false
    (∀ o ∈ [opOf r (.store 0 0), opOf r (.side 0), opOf r (.mem 0), opOf .store (.store 0 0), opOf .store (.side 0), opOf .store (.mem 0), opOf .push (.side 0),
      opOf .pop (.side 0), opOf .zline (.side 0), opOf .cwb (.mem 0), opOf .cinv (.mem 0), opOf (.atomic .add .n32 none 0) (.store 0 0),
      opOf (.atomic .add .n32 none 0) (.side 0)], ok o (sOp o) = true) ∧
    (let o : MemOp := opOf (.atomic .add .n32 none 0) (.mem 0)
     let q : MemOp := { o with hint := .bypass, lanes := o.lanes.map (fun a => { a with hint := .bypass }) }
     ok q (sOp q) = true ∧ l1Find (sOp q) 0 (localKey 0) = none ∧ q.lanes.all (fun a => !atomL1 (sOp q) q a) = true) ∧
    l1Find (sOp (opOf r (.mem 0))) 0 (localKey 0) = none ∧ ok (opOf r (.mem 0)) (sLine (opOf r (.mem 0))) = true ∧
    (l1Find (sLine (opOf r (.mem 0))) 0 (localKey 0)).map (fun l => l.valid &&& byteMask 0 4) = some (byteMask 0 4) ∧
    l1Sets ((sLine (opOf r (.mem 0))).core 0) ≠ 0 ∧ byEngine (opOf r (.mem 0)) = false ∧ atHome (sOp (opOf r (.mem 0))) (opOf r (.mem 0)) = false := by
  decide +kernel

theorem test_meets_finished_lanes :
    (Ty.n32.bits = 32 ∧ 0xFFFFFFFF < 2 ^ 32) ∧ (opOf .store (.mem 0)).owner = .warp 0 0 ∧ (opOf .store (.mem 0)).order.acquires = false ∧
    (opOf .store (.mem 0)).width = Ty.n32.bits / 8 ∧ s0.warp? 0 0 = some (warpOf s0) ∧ ((warpOf s0).lanes.at? 3).isSome = true ∧
    (sOp { opOf .store (.mem 0) with lanes := [] }).ops = [(0, { opOf .store (.mem 0) with lanes := [] })] := by decide +kernel

/-! ### Clauses and steps -/

/-- No clause in flight: warp 0 stands at a line that is at hand; and the same with a stream line there. -/
def sIdle (l : Line) : State := { sMem.modCore 0 (fun y => { y with icache := [(0, l)] }) with clauses := [] }

theorem test_meets_ClauseStart :
    let s := sIdle tgtLine
    s0.clauses.any (fun x => x.core = 0 && x.picker == .part 0) = true ∧ s.clauses = [] ∧
    (match pick s 0 0 with
      | some y => decide (y.lanes.length = 32) && y.lanes.all (fun q => (s.warp? 0 q.slot).any (fun w => w.entered)) && decide (y.pc = 0)
      | none => false) = true ∧
    (match fetchLine s 0 0 0 with | (v, .line l) => decide (l = tgtLine) && decide (v = s) | _ => false) = true ∧ lineKind tgtLine = 0 ∧
    ((s.core 0).warps.map Prod.fst).Nodup := by decide +kernel

theorem test_meets_ClauseStart_alone :
    let s := sIdle tgtLine
    let w := warpOf s
    let live := lanes32.filter (fun i => (w.lanes.atD i Lane.never).kind == .launched || (w.lanes.atD i Lane.never).kind == .helper)
    (s.clauses = [] ∧ (s.core 0).warps = [(0, w)] ∧ w.part = 0 ∧ w.trapped = false ∧ haltedLaunch s w.launch = false ∧ w.stopped = none ∧
      w.stepping = none ∧ (∀ e ∈ w.lanes, e.2.wait = .run) ∧ live ≠ []) ∧
    (∀ i ∈ live, (w.lanes.atD i Lane.never).pc = 0 ∧ (w.lanes.atD i Lane.never).wait = .run) ∧
    (match fetchLine s 0 (s.ctxOf 0 0) 0 with | (_, .line l) => decide (l = tgtLine) | _ => false) = true ∧
    flagsClear w.flags (lineWait tgtLine) = true ∧ flagsFit w.flags tgtLine = true ∧ lineTgt tgtLine 0 = true := by decide +kernel

theorem test_meets_ClauseStart_engines :
    let s := sIdle tgtLine
    let u := sIdle (lineOfWord aendWord)
    let c := (s.core 0).ctrl
    let t := streamOf u
    (c.loaded && !c.halted && decide (c.wait = .run) && decide (c.pc = 0) && decide (c.ctx = 0)) = true ∧
    (t.started && !t.stopped && !t.ended && decide (t.wait = .run) && !haltedLaunch u t.launch && t.entered && decide (t.pc = 0) && decide (streamCtx u t = 0)) = true ∧
    (match fetchLine u 0 0 0 with | (_, .line l) => decide (lineKind l = 1) && flagsClear t.flags (lineWait l) && flagsFit t.flags l | _ => false) = true := by
  decide +kernel

theorem test_meets_StepRunsDecoded : s0.agenda = [] ∧ s0.pow.off = false ∧ s0.clauses = [clauseOf s0] ∧
    decodeSlot (clauseOf s0).line (clauseOf s0).slot = .ok .nop := by decide +kernel

theorem test_meets_StepTakesHardware :
    Instr.isEvent .errorCountHour = true ∧ Instr.isEvent .reset = true ∧ ({ s0 with agenda := [.errorCountHour] } : State).agenda = [.errorCountHour] ∧
    s0.pow.off = false ∧ ({ State.reset with pow := { State.reset.pow with off := true } } : State).pow.off = true ∧ Instr.errorCountHour ≠ .reset ∧
    State.reset.agenda = [] ∧ State.reset.clauses = [] ∧ State.reset.pow.off = false := by decide +kernel

theorem test_meets_MemoryStaysFormed :
    (Mem.wf s0.mem = true ∧ ∀ e ∈ s0.cores, Mem.wf e.2.store = true) ∧ (match step s0 with | .next _ => true | _ => false) = true := by decide +kernel

theorem test_meets_WordsRefused :
    (∀ e ∈ [(wordB 0x00C 7 0 0 0 0 0, DecodeError.illegalOpcode), (word3 0x101C0100 0x0800C000 0x18038001, .illegalEncoding)],
      let s := placeWord State.reset e.1
      s.agenda = [] ∧ s.pow.off = false ∧ s.clauses = [clauseOf s] ∧ (clauseOf s).picker = .part 0 ∧
        ctrlOpcode (slotWord (clauseOf s).line (clauseOf s).slot) = false ∧ decodeSlot (clauseOf s).line (clauseOf s).slot = .error e.2) ∧
    issuesB s0 = true ∧ ctrlOnly (.add fmtA) = false ∧ rangeOk (warpOf s0).regs [(.main 1023, .w64)] = false ∧
    rangeOk (warpOf s0).regs [(.main 1022, .w64)] = true := by decide +kernel

/-! ### Launches -/

/-- Context 0 at 0x10000, with its tables at 0x20000, 0x30000, 0x31000 and 0x32000 and the page of address 0; launch queue 0, enabled, holds
the record at its base 0x8000. -/
def sCtx (r : BitVec 2048) : State :=
  { State.reset with
    xl := { State.reset.xl with ctxBase := 0x10000 }
    mem := Mem.splice (Mem.wr (Mem.wr (Mem.wr (Mem.wr (Mem.wr [] 0x10000 8 0x20001) 0x20000 8 0x30001) 0x30000 8 0x31001) 0x31000 8 0x32001)
      0x32000 8 0x0100000000000003) 0x8000 (leBytes 256 r.toNat)
    ready := true
    lqs := [(0, { LQueue.reset with base := 0x8000, enable := true, tail := 1 })] }

/-- A valid record with its done word at 0x100, and one with more fields set. -/
def recDone : BitVec 2048 := placedRecord + BitVec.ofNat 2048 (0x100 * 2 ^ (8 * 0x58))
def recWith (l : List (Nat × Nat)) : BitVec 2048 := l.foldl (fun r e => r + BitVec.ofNat 2048 (e.2 * 2 ^ (8 * e.1))) recDone

/-- The launch of a state with one, and what a change makes of it. -/
def launchIn (s : State) : Launch := match s.launches with | e :: _ => e.2 | [] => newLaunch s 0
def idIn (s : State) : Nat := match s.launches with | e :: _ => e.1 | [] => 0
/-- The head record has been taken. -/
def sHead (r : BitVec 2048) : State := takeHead (sCtx r) 0

def sLaunch (s : State) (f : Launch → Launch) : State := s.modLaunch (idIn s) f

theorem test_meets_Registers_queues :
    let s := State.reset
    let e := s.modLq 0 (fun y => { y with enable := true })
    ((s.lq 0).dev = false ∧ 1 % 4096 < (s.lq 0).slots ∧
      ((s.lq 0).tail + (s.lq 0).slots - (s.lq 0).head) % (s.lq 0).slots + (1 % 4096 + (s.lq 0).slots - (s.lq 0).tail) % (s.lq 0).slots ≤ (s.lq 0).slots - 1) ∧
    (s.lq 0).slots ≤ 2 % 4096 ∧ (e.lq 0).enable = true ∧ (s.lq 0).enable = false ∧ 0x10001 % 256 ≠ (e.lq 0).ctx ∧ 1 ≠ (s.lq 0).ctx ∧
    ringSize (0x800 / 1024 % 16) ≠ ringSize (s.lq 0).size ∧ s.launches = [] ∧
    (s0.launches.any (fun e => e.2.queue == 0 && e.2.checked) && !(s0.lq 0).enable) = true := by
  decide +kernel

theorem test_meets_Registers_addresses :
    let s := State.reset
    s.pre.busy = false ∧ bitsOf 1 0 4 = 1 ∧ bitsOf 2 0 4 = 2 ∧ bitsOf 3 0 4 = 3 ∧ regRead s 0x6000000000 = none ∧
    (regRead s 0x6000010000).isSome = true ∧ 0x6000000000 < 0x6000010000 + 8 ∧ 0x5FEFFFFFF8 + 8 ≤ 0x5FF0000000 ∧ 0x5FFFFFFFF8 + 8 ≤ 0x6000000000 ∧
    ([0] : List Byte) ≠ [] := by decide +kernel

theorem test_meets_LaunchRecords :
    let s := sCtx recDone
    let t := sHead recDone
    let x := launchIn t
    let w (l : List (Nat × Nat)) := launchIn (sHead (recWith l))
    ((s.lq 0).enable && !s.pre.active.getLsbD 0 && (s.lq 0).current.isNone && (s.lq 0).tail + (s.lq 0).slots - (s.lq 0).head == 3) = true ∧
    ctxUsable s (s.lq 0).ctx = true ∧ donePlace s (s.lq 0).ctx ((newLaunch s 0).fld 0x58 8) = some 0x100 ∧
    ctxUsable { s with xl := State.reset.xl } 0 = false ∧ donePlace (sCtx placedRecord) 0 ((newLaunch (sCtx placedRecord) 0).fld 0x58 8) = none ∧
    ((t.lq 0).current = some 0 ∧ t.launches.at? 0 = some x ∧ x.checked = false ∧ (t.lq 0).enable = true ∧ t.pre.active.getLsbD 0 = false) ∧
    (x.waits = 0 ∧ (List.range 4).all (fun i => readWait t x i == .yes) = true) ∧
    readWait (sHead (recWith [(0x60, 2)])) (w [(0x60, 2)]) 0 = .bad ∧ readWait (sHead (recWith [(0x60, 0x200)])) (w [(0x60, 0x200)]) 0 = .yes ∧
    readWait (sHead (recWith [(0x60, 0x200), (0x68, 1)])) (w [(0x60, 0x200), (0x68, 1)]) 0 = .no ∧
    checkStatus t x = none ∧ checkStatus (sHead (recWith [(0x22, 7)])) (w [(0x22, 7)]) = some 0x10 ∧
    (regionOf 0x200 = .general ∧ walk t 0 0x200 = .leaf 0x0100000000000003 16 ∧ leafFault t 0x200 0x0100000000000003 false false = none ∧
      leafPlace 0x200 0x0100000000000003 16 = .mem 0x200) := by decide +kernel

/-- The record has been checked, so that the next dispatch places its workgroup. -/
def sReady (r : BitVec 2048) : State := checkHead (pollHead (sHead r) 0) 0

theorem test_meets_Placement :
    let s := sReady recDone
    s.ready = true ∧ State.reset.ready = false ∧
    (List.range 64).foldl (fun u q => checkHead (pollHead (takeHead u q) q) q) s = s ∧ (launchIn s).redo = [] ∧ (s.launches.map Prod.fst) = [0] ∧
    (placeWg s true 0 (launchIn s) 0).isSome = true ∧ ((s.lq 0).current = some 0 ∧ s.launches.at? 0 = some (launchIn s) ∧
      ((launchIn s).checked && !(launchIn s).killed && !s.pre.active.getLsbD 0 && !(launchIn s).repro && !(launchIn s).flag 7) = true) ∧
    (serve s 0).isSome = true := by decide +kernel

theorem test_meets_Placement_gang :
    let s := sReady (recWith [(0x28, 2 ^ 7)])
    (List.range 64).foldl (fun u q => checkHead (pollHead (takeHead u q) q) q) s = s ∧
    ((launchIn s).checked && (launchIn s).flag 7 && !(launchIn s).flag 0 && !(launchIn s).killed && !(launchIn s).repro) = true ∧
    (placeAll true 0 (launchIn s) 1 s 0).isSome = true := by decide +kernel

/-- Every workgroup of the launch has ended. -/
def sEnded : State := { (sLaunch s0 (fun x => { x with next := 1, ended := 1, donePa := 0x100 })) with wgs := [], cores := [], clauses := [] }

/-- A swappable launch with its one workgroup resident and the other ones still to be placed. -/
def sSwap (n : Nat) : State := sLaunch s0 (fun x => { x with record := recWith [(0x18, n), (0x28, 3), (0x50, 0x1000)] })

/-- The warp belongs to no launch, so that its save writes nothing; the workgroup is on the given cores. -/
def sLone (s : State) (cores : List Nat) : State :=
  (s.modWarp 0 0 (fun w => { w with launch := 77 })).modWg (warpOf s0).wg (fun g => { g with cores := cores })

theorem test_meets_LaunchEnds :
    launchEnded sEnded (idIn sEnded) (launchIn sEnded) = true ∧ sEnded.launches.at? (idIn sEnded) = some (launchIn sEnded) ∧
    (let x := launchIn sEnded
     x.checked = true ∧ x.total ≤ x.next ∧ x.redo = [] ∧ x.total ≤ x.ended ∧ x.due = [] ∧ sEnded.wgs = [] ∧ sEnded.cores = [] ∧
       x.flag 5 = false ∧ x.ran.all (fun c => !wbHeld sEnded c) = true) ∧
    (∀ e ∈ [(5, true), (0, false)], let s := sLone (sSwap 1) [e.1]
     (match s.launches.at? (idIn s), s.wgs.at? (warpOf s0).wg with
      | some x, some y =>
        let u := saveWg s (warpOf s0).wg (recAddr x y.g)
        (match u.launches.at? (idIn s) with
         | some z => decide (z.next < z.total) && decide (x.next < x.total) && (canHold u (idIn s) u.fresh z y.cores && (seatWg u (idIn s) z z.next y.cores).isSome) == e.2
         | none => false)
      | _, _ => false) = true) ∧
    (let s := sLaunch s0 (fun x => { x with next := x.total })
     (launchIn s).total ≤ (launchIn s).next ∧ (launchWgs s (idIn s)).all (fun e => e.2.saved.isNone) = true) ∧
    (let s := sSwap 1
     let x := launchIn s
     s.launches.at? (idIn s) = some x ∧ (x.swaps && x.checked && !x.killed && !s.pre.active.getLsbD x.queue) = true ∧ x.next < x.total ∧
     leastBy (wgIssue s) (((launchWgs s (idIn s)).map Prod.fst).filter (fun g => wgWarps s g != [])) = some (warpOf s0).wg ∧
     (s.wgs.at? (warpOf s0).wg).isSome = true ∧
     ((launchWgs s (idIn s)).all (fun e => e.2.saved.isNone)) = true) := by decide +kernel

/-- Another workgroup of the launch is out, with the given warps. -/
def sOutOf (ws : List Warp) : State :=
  let g := (s0.wgs.at? (warpOf s0).wg).getD { launch := 0, g := 0, x := 0, y := 0, z := 0, cores := [], live := 1, bars := [], queues := [], board := Board.reset, saved := none }
  let s := sSwap 1
  { s with wgs := s.wgs.put 99 { g with g := 1, saved := some {
    warps := ws, places := ws.map (fun _ => { wcore := 0, addr := 0x1000, regs := 1024, tiles := [] }), scratch := [], stream := none, traps := [], tick := 5 } } }
def sOut : State := sOutOf []

theorem test_meets_LaunchEnds_restore : ∀ e ∈ [(5, true), (0, false)], let s := sLone (sOutOf [warpOf s0]) [e.1]
    (match s.launches.at? (idIn s), s.wgs.at? (warpOf s0).wg with
     | some x, some y =>
       let u := saveWg s (warpOf s0).wg (recAddr x y.g)
       (match (u.wgs.at? 99).bind Wg.saved with
        | some v => canHold u (idIn s) 99 x y.cores == e.2 && (!e.2 || (restoreOn u 99 (idIn s) x v y.cores).isSome)
        | none => false)
     | _, _ => false) = true := by decide +kernel

theorem test_meets_LaunchEnds_swap :
    let s := sOut
    let x := launchIn s
    let mine := (launchWgs s (idIn s)).map Prod.fst
    leastBy (wgIssue s) (mine.filter (fun g => wgWarps s g != [])) = some (warpOf s0).wg ∧ x.swaps = true ∧
    leastBy (fun _ => 0) (mine.filter (fun g => match s.wgs.at? g with | some y => y.saved.isSome && wgWarps s g = [] | none => false)) = some 99 := by
  decide +kernel
/-! ### Collectives -/

/-- A launch with a collective over this package alone, chunks of n bytes, as changed. -/
def sReduce (n : Nat) (f : Launch → Launch) : State :=
  (sFlag 5).modLaunch (idIn s0) (fun x => f { x with record := x.record + BitVec.ofNat 2048 (2 ^ (8 * 0xA2) + 2 ^ (8 * 0xA0) + n * 2 ^ (8 * 0xA8)) })

theorem test_meets_Collectives :
    (let s := sReduce 0 id
     let x := launchIn s
     (x.checked && x.flag 5 && decide (x.reduce = 0) && decide (x.counter = 0) && !x.killed) = true ∧ reduceCore s = some 1) ∧
    (let x := launchIn (sReduce 0 (fun x => { x with counter := 1, ended := 1 }))
     (x.checked && x.flag 5 && decide (x.reduce = 0) && decide (x.counter ≠ 0) && !x.repro && decide (x.total ≤ x.next) && x.redo.isEmpty &&
       decide (x.total ≤ x.ended)) = true) ∧
    (let s := sReduce 0 (fun x => { x with reduce := 3 })
     s.launches.at? (idIn s) = some (launchIn s) ∧ 2 ≤ (launchIn s).reduce ∧ reduceOwn s (idIn s) (launchIn s) = some s ∧
       (reducePass s (launchIn s)).isSome = true ∧ arrivedIn (launchIn s) 0 = [0]) ∧
    (let s := sReduce 128 (fun x => { x with reduce := 3 })
     2 ≤ (launchIn s).reduce ∧ reduceOwn s (idIn s) (launchIn s) = some s ∧ (reducePass s (launchIn s)).isNone = true) := by decide +kernel

/-- A reduce block whose results lie in a page that is mapped, with records of the home slice that others hold. -/
def sReducePage (own : List OwnRec) : State :=
  { sReduce 128 (fun x => { x with reduce := 3 }) with
    xl := { s0.xl with ctxBase := 0x10000 }, mem := (sCtx recDone).mem, own := own }

theorem test_meets_Collectives_records :
    (∀ e ∈ [([], true), (List.replicate 256 { granule := 0, mask := 0, write := true, engine := EngineRef.copy 0 0 }, false)],
      let s := sReducePage e.1
      passLines s (launchIn s) ≠ [] ∧ recordsFree s (granulesOf (passLines s (launchIn s))) = e.2 ∧ (reduceOwn s (idIn s) (launchIn s)).isSome = e.2) ∧
    (let s := sReducePage [{ granule := 0, mask := 0, write := true, engine := .reduce (idIn s0) }]
     (s.own.any (fun r => r.engine == EngineRef.reduce (idIn s))) = true) := by decide +kernel

/-! ### Addresses, the fault queue, and the environment -/

theorem test_meets_Addresses : (s0.warp? 0 0 = some (warpOf s0) ∧ 0 < Config.warpSlots ∧ (s0.wgs.at? (warpOf s0).wg).isSome = true) ∧
    ∀ va ∈ [0, 0x10000],
    let s := sCtx recDone
    let w0 := Mem.rd s.mem 0x10000 8
    let e0 := Mem.rd s.mem 0x20000 8
    let e1 := Mem.rd s.mem 0x30000 8
    let e2 := Mem.rd s.mem 0x31000 8
    let e3 := Mem.rd s.mem (0x32000 + va / 0x2000) 8
    let field (e lo n : Nat) : Nat := e / 2 ^ lo % 2 ^ n
    let table (e size : Nat) : Bool := field e 0 2 == 1 && field e 52 12 == 0 && field e 2 6 == 0 && field e 8 44 * 256 % size == 0
    (s.xl.walks.isEmpty && s.xl.ctxBase == 0x10000 && Mem.rd s.mem 0x10008 8 == 0 && field w0 0 1 == 1 && field w0 1 15 == 0 && field w0 52 12 == 0 &&
      field w0 16 36 == 2 && table e0 4096 && table e1 4096 && table e2 256) = true ∧
    (field e0 8 44 * 256 = 0x30000 ∧ field e1 8 44 * 256 = 0x31000 ∧ field e2 8 44 * 256 = 0x32000) ∧
    (if va = 0 then field e3 0 2 = 3 ∧ field e3 57 7 = 0 ∧ field e3 8 44 * 256 % 65536 = 0 ∧ field e3 52 4 = 0 else field e3 0 1 = 0) := by
  decide +kernel

/-- Lane 3 waits for a record in slot 0. -/
def sParked : State := { s0.modLane 0 0 3 (fun y => { y with wait := .fault 7 .load }) with
  xl := { s0.xl with fqHead := 1, faults := [{ id := 7, va := 0, cause := 0, kind := .load, write := false, ctx := 0, core := 0, mask := 8, count := 1, slot := some 0 }] } }

theorem test_meets_Translation :
    let s := sCtx recDone
    let xl (f : Xlate → Xlate) : State := { s with xl := f s.xl }
    (match translateNow s 0 0 0 (walkGrants s 0 0 0) with | (_, .leaf e bits) => decide (e = 0x0100000000000003) && decide (bits = 16) | _ => false) = true ∧
    (match translateNow s 0 0 0x10000 (walkGrants s 0 0 0x10000) with | (_, .fault f) => decide (f = 0) | _ => false) = true ∧
    (∀ e ∈ [(1, 0), (3, 1), (5, 2)], e.1 % 2 = 1 ∧ e.1 / 2 % 4 = e.2 ∧ e.1 / 2 ^ 52 = 0 ∧ e.1 / 2 ^ 11 % 2 ^ 5 = 0) ∧
    (s.xl.invBusy = false ∧ (xl (fun x => { x with invBusy := true })).xl.invBusy = true ∧ (xl (fun x => { x with invCmd := some 1 })).xl.invCmd = some 1 ∧
      s.ops = [] ∧ s.cores = [] ∧ s.launches = [] ∧ s.jobs = [] ∧ s.rep.opening = none) ∧
    recordAt s 0 = none ∧
    ((s.xl.fqHead + 8192 - 0) % 8192 ≤ 4096 ∧ (s.xl.fqHead + 8192 - 0) % 8192 ≤ ringCount s.xl ∧ 4096 < (s.xl.fqHead + 8192 - 1) % 8192) ∧
    (0x1000 &&& 0x000FFFFFFFFFF000 : DWord) ≠ s.xl.fqBase ∧ s.xl.fqHead = s.xl.fqTail ∧ s.xl.faults = [] ∧ sParked.xl.faults ≠ [] ∧
    (0x1000 &&& 0x000FFFFFFFFFF000 : DWord) ≠ sParked.xl.fqBase := by decide +kernel

theorem test_meets_Translation_killed :
    (recordAt sParked 0).map FaultRec.id = some 7 ∧
    (let s1 := endOrphans (answered sParked 7) 7
     (streamsOn s1 7).isEmpty = true ∧ (copiesOn s1 7).isEmpty = true ∧ s1.wgs.all (fun e => e.2.saved.isNone) = true ∧ parkedOn s1 7 = [(0, 0, [3])] ∧
     (s1.lane 0 0 3).wait.faultKind.ofEngine = false ∧ (∀ l ∈ lanes32, (s1.lane 0 0 l).wait.killedBy = none) ∧ (s1.warp? 0 0).map Warp.trapped = some false) := by decide +kernel

/-! ### Packets -/

/-- A packet between package 0 and itself. -/
def packet (kind info len addr group tag : Nat) : Packet := { hdr := mkHdr kind 0 0 0 info len addr group tag, payload := [] }

theorem test_meets_PacketsServed :
    let s := sMem
    pkOk (packet 10 0 0 0 0 0) = false ∧ pkgLive s 1 = false ∧ pkgLive s 0 = true ∧
    (∀ k ∈ [0, 1, 2, 3, 4, 5, 6, 7], pkOk (packet k 0 4 0 0 3) = true ∧ pkKind (packet k 0 4 0 0 3) = k ∧ pkSrc (packet k 0 4 0 0 3) = 0 ∧
      pkAddr (packet k 0 4 0 0 3) = 0 ∧ pkLen (packet k 0 4 0 0 3) = 4 ∧ pkTag (packet k 0 4 0 0 3) = 3 ∧ pkGroup (packet k 0 4 0 0 3) = 0 ∧
      pkHops (packet k 0 4 0 0 3) = 0) ∧
    lineHeld s 0 false = false ∧ lineHeld s 0 true = false ∧
    lineHeld { s with own := [{ granule := 0, mask := 1, write := true, engine := .copy 0 0 }] } 0 false = true ∧
    (pkGroup (packet 0 0 4 0 1 3) ≠ 0 ∧ pkOk (packet 0 0 4 0 1 3) = true) ∧
    (groupEntry s 0).getLsbD 18 = false ∧ (groupEntry s 0).getLsbD 19 = false ∧
    groupEntry { s with fab := { s.fab with groups := [(0, 0xC0000)] } } 0 = 0xC0000#32 := by decide +kernel

theorem test_meets_answers :
    let op (b : OpBody) : MemOp := { opOf b (.peer 0 64) with lanes := (opOf b (.peer 0 64)).lanes.map (fun a => { a with sent := true }) }
    ∀ b ∈ [OpBody.store, .load (.main 4) .n32 false], let s := sOp (op b)
      s.ops.at? (tagOp 3) = some (op b) ∧ (3 : Nat) < 2 ^ 56 ∧ (op b).body = b ∧ (op b).width ≠ 128 ∧
      (match (op b).lanes with
        | [l] => decide (l.lane = tagLane 3) && l.sent && !l.sw && decide (l.place = .peer 0 64) && !isWaitAcc l
        | _ => false) = true := by decide +kernel

/-! ### The fabric -/

/-- A span of two members: port 0 is linked to package 1 and is up, as the mask says. -/
def sSpan (up : BitVec 18) : State :=
  { State.reset with fab := { State.reset.fab with size := 2, live := 3, linked := 1, up := up, reach := [(0, 1)] } }

/-- A packet to package 1. -/
def farPacket : Packet := { hdr := mkHdr 0 0 1 0 0 4 0 0 0, payload := [] }
def sHeld (up : BitVec 18) (f : Fabric → Fabric) : State := { sSpan up with fab := f (sSpan up).fab }

theorem test_meets_FabricEvents :
    let s := sSpan 1
    let waits := sHeld 1 (fun y => { y with stalled := [farPacket] })
    let held := sHeld 1 (fun y => { y with inputs := [(0, [farPacket])] })
    (s.fab.linked.getLsbD 0 = true ∧ portsTo s 1 = [0] ∧ portsTo (sSpan 0) 1 = []) ∧
    (waits.fab.stalled = [farPacket] ∧ waits.fab.inputs = [] ∧ waits.fab.breakdown = [] ∧ route waits (pkDst farPacket) = some 0) ∧
    (pkOk farPacket = true ∧ pkgLive s (pkSrc farPacket) = true ∧ pkDst farPacket ≠ s.fab.index ∧ s.fab.index < 16 ∧ pkgLive s (pkDst farPacket) = true) ∧
    (held.fab.inputs.atD 0 [] = [farPacket] ∧ portsTo held (pkDst farPacket) = [0]) ∧
    (let cut := sHeld 0 (fun y => { y with inputs := [(0, [farPacket])] })
     portsTo cut (pkDst farPacket) = [] ∧ bufferFree cut 0 farPacket = true ∧
       bufferFree { cut with fab := { cut.fab with breakdown := [(0, farPacket)] } } 0 farPacket = false) ∧
    (s.fab.epoch.toNat ≤ (0 : Word).toNat ∧ 1 < s.fab.size ∧ nextLive { s with fab := { s.fab with epoch := 0 } } = some 1 ∧
      (0 : Word).toNat < (sHeld 1 (fun y => { y with epoch := 1 })).fab.epoch.toNat ∧ (membersIn s.fab.live.toNat).head? = some s.fab.index ∧
      (List.range 19).all (fun i => !s.fab.suspect.getLsbD i) = true) ∧
    (∀ k ∈ [8, 9], let p := packet k 0 0 0 0 1
      pkOk p = true ∧ pkgLive s (pkSrc p) = true ∧ pkKind p = k ∧ (BitVec.ofNat 32 (pkTag p) : Word) = 1) ∧
    pkgLive s (pkSrc { hdr := mkHdr 8 5 0 0 0 0 0 0 0, payload := [] }) = false := by decide +kernel

theorem test_meets_members_lost :
    let s := sSpan 1
    (1 ≠ s.fab.index ∧ pkgLive s 1 = true ∧ pkgLive s 2 = false) ∧
    (s.ops.isEmpty && s.cores.isEmpty && s.launches.isEmpty && s.jobs.isEmpty && s.fab.owedAcks.isEmpty && s.rep.opening.isNone &&
      !s.rep.isOpen) = true ∧ s.fab.stalled = [] ∧ s.fab.inputs = [] ∧ s.fab.breakdown = [] ∧ s.fab.heldHere = [] ∧ s.fab.raised = [] ∧
    (let token : Packet := { hdr := mkHdr 8 0 1 0 0 0 0 0 0, payload := [] }
     pkKind token = 8 ∧ pkDst token = 1 ∧ pkSrc token ≠ 1) ∧
    (let old := sHeld 0 (fun y => { y with mcOld := [farPacket], stalled := [farPacket] })
     (∀ p ∈ s.fab.mcOld, p ∉ copiesWaiting s) ∧
       ∃ p ∈ old.fab.mcOld, p ∉ copiesWaiting old) ∧
    (let copy : Packet := { hdr := mkHdr 6 0 1 1 0 128 0 1 0, payload := [] }
     let old := sHeld 0 (fun y => { y with mcOld := [copy], stalled := [copy] })
     ∃ p ∈ old.fab.mcOld, p ∈ copiesWaiting old) ∧
    ((sHeld 1 (fun y => { y with mcBusy := true })).fab.mcBusy = true ∧ s.fab.mcBusy = false ∧ 2 ^ 20 ≤ (0x100000 : Nat) % 2 ^ 32 ∧
      (∃ q, q < 18 ∧ (0x2 : DWord).getLsbD q = true ∧ s.fab.linked.getLsbD q = false) ∧
      ¬(2 ^ 20 ≤ (0xC0001 : DWord).toNat % 2 ^ 32 ∨ ∃ q, q < 18 ∧ (0xC0001 : DWord).getLsbD q = true ∧ s.fab.linked.getLsbD q = false)) := by
  decide +kernel

/-! ### Reliability, power, pre-emption and runs -/

def sRel (f : Reliability → Reliability) : State := { State.reset with rel := f State.reset.rel }
def sPow (f : Power → Power) : State := { State.reset with pow := f State.reset.pow }

theorem test_meets_Reliability :
    let s := State.reset
    let full := sRel (fun y => { y with head := 3932160 })
    let at_ (n : Nat) := sRel (fun y => { y with counts := [(0x10000, n)] })
    (s.rel.head - s.rel.read < 3932160 ∧ (s.rel.head + 1) % 65536 ≠ 0 ∧ 3932160 ≤ full.rel.head - full.rel.read) ∧
    (ErrKind.corrected ≠ .appCore ∧ ErrKind.corrected ≠ .lost ∧
      unitThreshold (at_ 63) (.core 0) = some ((at_ 63).rel.counts.atD (unitKey (.core 0)) 0 + 1) ∧
      unitThreshold s (.core 0) ≠ some (s.rel.counts.atD (unitKey (.core 0)) 0 + 1)) ∧
    (s.now / 3600000000000 = s.rel.hour ∧ (sRel (fun y => { y with hour := 1 })).now / 3600000000000 ≠ (sRel (fun y => { y with hour := 1 })).rel.hour) ∧
    (∃ e ∈ (sSpan 1).fab.reach, e.2 = 1 ∧ ({ (sSpan 1).fab with live := 1 } : Fabric).live.getLsbD 1 = false) ∧
    (∀ k ∈ [({ all := true, asked := true, verified := true } : ResetKind), { all := false, asked := false, verified := true }, { all := false, asked := true, verified := false }],
      ({ s with host := { s.host with resets := [k] } } : State).host.resets.headD { all := false, asked := true, verified := true } = k) ∧
    (s.rel.spares.atD 0x50 0 < 2 ∧ 2 ≤ (sRel (fun y => { y with spares := [(0x50, 2)] })).rel.spares.atD 0x50 0) ∧
    (s.fab.spare.getLsbD 0 = false ∧ ({ s with fab := { s.fab with spare := 1 } } : State).fab.spare.getLsbD 0 = true) := by
  decide +kernel

theorem test_meets_substitution :
    let s := State.reset
    ((0x8000000000000001 : DWord).getLsbD 63 = true ∧ s.rel.subBusy = false ∧ s.launches = [] ∧
      ∀ k ∈ [1, 2, 3], bitsOf (0x8000000000000000 + BitVec.ofNat 64 k : DWord).toNat 0 4 = k ∧
        bitsOf (0x8000000000000000 + BitVec.ofNat 64 k : DWord).toNat 8 4 = 0 ∧ bitsOf (0x8000000000000000 + BitVec.ofNat 64 k : DWord).toNat 16 16 = 0) ∧
    (s.rel.spares.atD 16 0 < 4 ∧ s.rel.spares.atD 32 0 < 4 ∧ s.rel.spares.atD 48 0 < 1) ∧
    (s0.launches.any (fun e => e.2.checked) = true ∧ s0.pre.halted = false) ∧
    (∀ k ∈ [0, 1, 2], let u := sRel (fun y => { y with sub := some { kind := k, die := 0, unit := 0 } })
      (u.rel.sub.map Subst.kind = some k) ∧ (u.core 0).warps = [] ∧ (u.core 0).streams = [] ∧ engineIdle (u.core 0) = true) ∧
    (let u := sRel (fun y => { y with head := 5, lost := 1 })
     u.rel.read ≤ 3 ∧ 3 ≤ u.rel.head ∧ u.rel.lost ≠ 0 ∧ u.rel.head - 3 < 3932160 ∧ u.rel.head < 6 ∧
       (sRel (fun y => { y with head := 5 })).rel.lost = 0) := by decide +kernel

theorem test_meets_Power :
    let s := State.reset
    (s.pow.busy = false ∧ (sPow (fun y => { y with busy := true })).pow.busy = true ∧ s.pow.trip = false ∧ s.pow.off = false ∧
      (sPow (fun y => { y with trip := true })).pow.trip = true) ∧
    ((List.range 4).all (fun d => !(1 : DWord).getLsbD d || !dieBusy s d) = true ∧
      ((1 : DWord).getLsbD 0 && !s0.pow.gate.getLsbD 0 && dieBusy s0 0) = true ∧ s0.pow.busy = false) ∧
    ((sPow (fun y => { y with trip := true, temps := [(0, 94)] })).pow.temps.all (fun e => e.2 < 95) = true ∧
      (sPow (fun y => { y with trip := true, temps := [(0, 95)] })).pow.temps.any (fun e => 95 ≤ e.2) = true) ∧
    (s.core 0).ctrl.loaded = false ∧ (sCtrl.core 0).ctrl.loaded = true ∧ (sCtrl.core 0).ctrl.halted = false := by decide +kernel

/-- The workgroup of a swappable launch with its contexts stored, first in line for its restore. -/
def sSaved : State :=
  let s := sSwap 1
  let v : SavedWg := { warps := [warpOf s0], places := [{ wcore := 0, addr := 0x1000, regs := 1024, tiles := [] }], scratch := [], stream := none
                       traps := [], tick := 5 }
  { (s.modWg (warpOf s0).wg (fun g => { g with saved := some v })) with
    cores := [], clauses := [], pre := { s.pre with order := [(warpOf s0).wg] } }

/-- A state whose queue 0 has been stopped. -/
def sStopped (bits : Nat) : State :=
  let u := sLaunch s0 (fun x => { x with record := recWith [(0x28, bits), (0x50, 0x1000)] })
  { u with pre := { u.pre with active := 1, busy := true } }

theorem test_meets_Preemption :
    (State.reset.pre.busy = false ∧ State.reset.pre.order = [] ∧ (sStopped 0).pre.busy = true) ∧
    ((s0.wgs.at? (warpOf s0).wg).isSome = true ∧ wgWarps s0 (warpOf s0).wg ≠ [] ∧ stoppedLaunch s0 (launchIn s0) = false) ∧
    (∀ b ∈ [0, 4], let s := sStopped b
      let x := launchIn s
      stoppedLaunch s x = true ∧ x.killed = false ∧ x.flag 2 = decide (b = 4) ∧ x.saveArea ≠ 0 ∧ (wgWarps s (warpOf s0).wg).length = 1) ∧
    (sSaved.pre.halted = false ∧ sSaved.pre.order = [(warpOf s0).wg] ∧ (restoreWg sSaved (warpOf s0).wg).isSome = true) := by decide +kernel

/-- A descriptor of a run of this package alone at 0x80, with no region. -/
def sDesc : State := { State.reset with mem := Mem.wr [] 0x80 8 0x0001000000000001 }
def sRun (f : Repro → Repro) : State := { State.reset with rep := f { State.reset.rep with isOpen := true } }

theorem test_meets_Runs :
    (let d := Mem.bytes sDesc.mem 0x80 0x80
     (sDesc.rep.isOpen = false ∧ sDesc.rep.busy = false ∧ (0x81 : DWord).toNat < 2 ^ 52 ∧ (0x81 : DWord).toNat % 128 = 1) ∧
      Mem.rd sDesc.mem 0x84 2 = 0 ∧ descOk sDesc d = true ∧ descOk sDesc [] = false) ∧
    (let o (n : Nat) (bytes : List Byte) : RunOpen :=
       { desc := Mem.bytes (Mem.wr (Mem.wr (Mem.wr [] 0 8 0x0001000100000001) 0x80 8 0x0001000000000000) 0x90 8 n) 0 0xA0, hashes := [], bytes := bytes, asked := none }
     descFld (o 8 []).desc 4 2 = 1 ∧ (o 8 []).hashes = [] ∧ (regionAt (o 8 []).desc 0).2.2 = 8 ∧ (regionAt (o 0 []).desc 0).2.2 = 0 ∧
     (match readSource sDesc 0 0 8 with | .fault => true | _ => false) = true ∧
     (let s := sCtx recDone; match readSource s 0 0 8 with | .here _ => true | _ => false) = true) ∧
    (let o : RunOpen := { desc := Mem.bytes sDesc.mem 0x80 0x80, hashes := [], bytes := [], asked := none }
     let s := sRun (fun y => { y with isOpen := false, busy := true, opening := some o })
     descFld o.desc 4 2 ≤ o.hashes.length ∧ s.rep.opening = some o) ∧
    (sRun id).rep.isOpen = true ∧ (1 : DWord).toNat = (sRun id).rep.closed.toNat + 1 ∧ (2 : DWord).toNat ≠ (sRun id).rep.closed.toNat + 1 ∧
    (let s := sRun (fun y => { y with closed := 1, snap := some 0 })
     s.rep.committed.toNat < s.rep.closed.toNat ∧ s.rep.memberLost = false ∧ courseRuns s 1 = false ∧ s.rep.snap = some 0 ∧ s.track.snaps.length = 0) ∧
    ((sRun id).rep.closed = (sRun id).rep.committed ∧ (sRun id).launches = [] ∧ reproQueued (sRun id) = false ∧ (sRun id).rep.busy = false ∧
      (0x1001 : DWord).toNat < 2 ^ 52 ∧ (0x1001 : DWord).toNat % 4096 = 1) := by decide +kernel

theorem test_meets_DecodeAndEncodeAgree :
    let i := Instr.add { fmtA with rm := .rne }
    i.wf = true ∧ i.guardOk (guardOf (wordA 0x040 7 4 2 6 0 0 6 0 7)) = true ∧
    (match encode (guardOf (wordA 0x040 7 4 2 6 0 0 6 0 7)) i with | some w => decide (w = wordA 0x040 7 4 2 6 0 0 6 0 7) | none => false) = true ∧
    (match decode false (wordA 0x040 7 4 2 6 0 0 6 0 7) with | .ok j => decide (j = i) | .error _ => false) = true := by decide +kernel

/-! ## Values that the manual prints -/

/-- What lane 5 finds in a register after an instruction, when its registers held the values given. -/
def after (i : Instr) (regs : List (BitVec 10 × Nat)) (d : BitVec 10) (p : Pos) : Option Nat :=
  match exec i (regs.foldl (fun s e => writeDst s 0 0 5 .w32 (.main e.1) e.2) s0) with
  | .next t => some (readPlace t 0 0 5 p (.main d))
  | _ => none

def opA (t : Ty) (m : BitVec 8) (r : Rnd) : FmtA := { fmtA with ty := t, opm := m, rm := r }

/-! R200's examples. -/
theorem test_shr_i32 : after (.shr (opA .i32 0 .rne)) [(2, 0x80000010), (6, 4)] 4 .w32 = some 0xF8000001 := by decide +kernel
theorem test_shr_n32 : after (.shr (opA .n32 0 .rne)) [(2, 0x80000010), (6, 4)] 4 .w32 = some 0x08000001 := by decide +kernel
theorem test_shl_full_width : after (.shl (opA .n32 0 .rne)) [(2, 1), (6, 32)] 4 .w32 = some 0 := by decide +kernel
theorem test_bfx_i32 : after (.bfx { opA .i32 0 .rne with c := .main 8 }) [(2, 0xF00), (6, 8), (8, 4)] 4 .w32 = some 0xFFFFFFFF := by decide +kernel
theorem test_bfx_n32 : after (.bfx { opA .n32 0 .rne with c := .main 8 }) [(2, 0xF00), (6, 8), (8, 4)] 4 .w32 = some 0xF := by decide +kernel

/-! The table of R220: a = b = 1 + 2^−12. -/
theorem test_fmul_tie : after (.fmul (opA .f32 0 .rne)) [(2, 0x3F800800), (6, 0x3F800800)] 4 .w32 = some 0x3F801000 := by decide +kernel
theorem test_fma_negc : after (.fma { opA .f32 1 .rne with c := .main 8 }) [(2, 0x3F800800), (6, 0x3F800800), (8, 0x3F801000)] 4 .w32 = some 0x33800000 := by
  decide +kernel
theorem test_fadd2_tie : after (.fadd2 (opA .f32 0 .rne)) [(2, 0x3F800000), (6, 0x33800000)] 4 .w64 = some 0x338000003F800000 := by decide +kernel
theorem test_fadd2_exact : after (.fadd2 (opA .f32 0 .rne)) [(2, 0x3F800000), (6, 0x34000000)] 4 .w64 = some 0x3F800001 := by decide +kernel

/-! The table behind R226: about 1.3 as E4M3, and about 665.6, which is too large. -/
theorem test_cvt_rne : after (.cvt { opA .e4m3 0x70 .rne with b := .main 0 }) [(2, 0x3FA66666)] 4 .w32 = some 0x3A := by decide +kernel
theorem test_cvt_rup : after (.cvt { opA .e4m3 0x70 .rup with b := .main 0 }) [(2, 0x3FA66666)] 4 .w32 = some 0x3B := by decide +kernel
theorem test_cvtsc_nan : after (.cvtsc (opA .e4m3 0x70 .rne)) [(2, 0x3FA66666), (6, 9)] 4 .w32 = some 0x7F := by decide +kernel
theorem test_cvtsc_satfinite : after (.cvtsc (opA .e4m3 0x74 .rne)) [(2, 0x3FA66666), (6, 9)] 4 .w32 = some 0x7E := by decide +kernel

/-! The table of R228, and that of R235. -/
theorem test_rcp_minus_zero : after (.rcp { opA .f32 0 .rne with b := .main 0 }) [(2, 0x80000000)] 4 .w32 = some 0xFF800000 := by decide +kernel
theorem test_log2_one : after (.log2 { opA .f32 0 .rne with b := .main 0 }) [(2, 0x3F800000)] 4 .w32 = some 0 := by decide +kernel
theorem test_sinpi_half : after (.sinpi { opA .f32 0 .rne with b := .main 0 }) [(2, 0xBF000000)] 4 .w32 = some 0xBF800000 := by decide +kernel
theorem test_cospi_half : after (.cospi { opA .f32 0 .rne with b := .main 0 }) [(2, 0xBF000000)] 4 .w32 = some 0 := by decide +kernel

/-! R282's example, of the known answer's word x0. -/
theorem test_unif : after (.unif { opA .f32 0 .rne with b := .main 0 }) [(2, 0xEDDAA929)] 4 .w32 = some 0x3F6DDAA9 := by decide +kernel
theorem test_unif_oc : after (.unif { opA .f32 1 .rne with b := .main 0 }) [(2, 0xEDDAA929)] 4 .w32 = some 0x3F6DDAAA := by decide +kernel

/-! R279's known answer (the word that R277 does not give, log 90, left out). -/
theorem test_cg10 : cg10 0 0 % 2 ^ 64 = 0xA7152124EDDAA929 ∧ cg10 0 0 / 2 ^ 96 = 0xF1C13A00 := by decide +kernel

/-! The home slice and the tile slice of chapter 3's example (R55, R56). -/
theorem test_homeSlice : homeSlice 0x700031234 = 17 ∧ tileSlice 3 2 0 = 2 := by decide +kernel

/-- The tables of chapter 2's example, the third level's entry as given. -/
def sWalk (e2 : Nat) : State :=
  { State.reset with
    xl := { State.reset.xl with ctxBase := 0x10000 }
    mem := Mem.wr (Mem.wr (Mem.wr (Mem.wr (Mem.wr [] 0x10030 8 0x40000001) 0x40000008 8 0x40010001) 0x40010010 8 0x40011001) 0x40011018 8 e2)
      0x40012020 8 0x700030043 }

/-! Chapter 2's walk, its 2 MiB leaf and its unaligned one (R24 to R26). -/
theorem test_walk : walk (sWalk 0x40012001) 3 0x8080641234 = .leaf 0x700030043 16 ∧ leafPa 0x8080641234 0x700030043 16 = 0x700031234 := by decide +kernel
theorem test_walk_large : walk (sWalk 0x700200043) 3 0x8080641234 = .leaf 0x700200043 21 ∧ leafPa 0x8080641234 0x700200043 21 = 0x700241234 ∧
    walk (sWalk 0x700030043) 3 0x8080641234 = .fault 2 := by decide +kernel

end Sys2Proof.Tests
end

section
/-! PROOFS. The memory forms of group 0x7: loads, stores and line forms follow the law of the memory forms; a prefetch changes
no core store and no warp. -/

namespace Sys2Proof.Machine

/-! ## Updates that keep every core store and every warp -/

/-- Every core store and every warp is as before. -/
def StoresAndWarpsKept (s t : State) : Prop :=
  ∀ b, (t.core b).store = (s.core b).store ∧ (t.core b).warps = (s.core b).warps

theorem StoresAndWarpsKept.refl (s : State) : StoresAndWarpsKept s s := fun _ => ⟨rfl, rfl⟩

theorem StoresAndWarpsKept.trans {s t u : State} (h : StoresAndWarpsKept s t) (g : StoresAndWarpsKept t u) :
    StoresAndWarpsKept s u :=
  fun b => ⟨(g b).1.trans (h b).1, (g b).2.trans (h b).2⟩

theorem storesAndWarpsKept_of_cores {s t : State} (h : t.cores = s.cores) : StoresAndWarpsKept s t :=
  fun b => by simp [State.core_eq s t h b]

theorem storesAndWarpsKept_modCore (s : State) (c : Nat) (f : Core → Core)
    (h : ∀ x, (f x).store = x.store ∧ (f x).warps = x.warps) : StoresAndWarpsKept s (s.modCore c f) := by
  intro b
  rw [State.core_modCore]
  split
  · next hb => subst hb; exact h _
  · exact ⟨rfl, rfl⟩

theorem storesAndWarpsKept_foldl {α : Type} (g : State → α → State) (h : ∀ s a, StoresAndWarpsKept s (g s a)) (L : List α)
    (s : State) : StoresAndWarpsKept s (L.foldl g s) := by
  induction L generalizing s with
  | nil => exact .refl s
  | cons a L ih => exact (h s a).trans (ih (g s a))

/-! ## Translation fills only TLBs and walk caches (R33) -/

theorem translateNow_kept (s : State) (c ctx va : Nat) (grants : Nat → Bool) :
    StoresAndWarpsKept s (translateNow s c ctx va grants).1 := by
  unfold translateNow
  split
  · exact .refl s
  · split
    · exact storesAndWarpsKept_modCore s c _ (fun _ => ⟨rfl, rfl⟩)
    · split
      · unfold fillTlb
        exact (storesAndWarpsKept_of_cores (by rfl)).trans (storesAndWarpsKept_modCore _ c _ (fun _ => ⟨rfl, rfl⟩))
      · exact .refl s

theorem resolveNow_kept (s : State) (w : Who) (a : Access) (va : Nat) : StoresAndWarpsKept s (resolveNow s w a va).1 := by
  have ht := translateNow_kept s w.core w.ctx va (fun e => (leafFault s va e a.write (a.kind == .ifetch)).isNone)
  unfold resolveNow
  split
  · exact .refl s
  · split
    · next heq => rw [heq] at ht; exact ht
    · next heq => rw [heq] at ht; split <;> exact ht

/-! ## Filling a line changes caches, memory and what is held back (R57, R71) -/

@[simp] theorem l2Access_cores (s : State) (k : Nat) (h : Hint) (valid written : BitVec 128) :
    (l2Access s k h valid written).cores = s.cores := by
  unfold l2Access
  split <;> rfl

@[simp] theorem writeMasked_cores (s : State) (base : Nat) (m : BitVec 128) (d : BitVec 1024) :
    (writeMasked s base m d).cores = s.cores := by
  unfold writeMasked
  generalize List.range 128 = L
  induction L generalizing s with
  | nil => rfl
  | cons i L ih => rw [List.foldl_cons, ih]; split <;> rfl

theorem sendHome_kept (s : State) (c k : Nat) (mask : BitVec 128) (data : BitVec 1024) (cls : Hint) :
    StoresAndWarpsKept s (sendHome s c k mask data cls) := by
  unfold sendHome
  split
  · exact storesAndWarpsKept_of_cores rfl
  · unfold markDirty
    exact (storesAndWarpsKept_of_cores (by simp)).trans (storesAndWarpsKept_modCore _ c _ (fun _ => ⟨rfl, rfl⟩))

theorem writeBack_kept (s : State) (c : Nat) (l : CacheLine) : StoresAndWarpsKept s (writeBack s c l) := by
  unfold writeBack
  split
  · exact .refl s
  · exact sendHome_kept s c _ _ _ _

theorem dropLines_kept (s : State) (c : Nat) (p : CacheLine → Bool) : StoresAndWarpsKept s (dropLines s c p) :=
  (storesAndWarpsKept_foldl _ (fun s l => writeBack_kept s c l) _ s).trans
    (storesAndWarpsKept_modCore _ c _ (fun _ => ⟨rfl, rfl⟩))

theorem l1Put_kept (s : State) (c : Nat) (l : CacheLine) (h : Hint) : StoresAndWarpsKept s (l1Put s c l h) := by
  refine StoresAndWarpsKept.trans ?_ (storesAndWarpsKept_modCore _ c _ (fun _ => ⟨rfl, rfl⟩))
  split
  · split
    · exact dropLines_kept s c _
    · exact .refl s
  · exact .refl s

theorem l1Fill_kept (s : State) (c k : Nat) (below : BitVec 1024) (h : Hint) :
    StoresAndWarpsKept s (l1Fill s c k below h) := by
  unfold l1Fill
  split
  · split
    · exact storesAndWarpsKept_modCore s c _ (fun _ => ⟨rfl, rfl⟩)
    · exact l1Put_kept s c _ h
  · split
    · exact .refl s
    · exact l1Put_kept s c _ h

theorem fillFor_kept (s : State) (f : HeldFill) : StoresAndWarpsKept s (fillFor s f) := by
  have touched : StoresAndWarpsKept s (l2Touch s f.pa f.hint) := storesAndWarpsKept_of_cores (l2Access_cores s _ _ _ _)
  unfold fillFor
  split
  · exact storesAndWarpsKept_of_cores rfl
  · dsimp only
    split
    · exact touched.trans (l1Fill_kept _ f.core _ _ f.hint)
    · exact touched

/-- A prefetch writes no register (R243). -/
theorem prefetch_kept (s : State) (w : Who) (va : Nat) (h : Hint) (level1 : Bool) :
    StoresAndWarpsKept s (prefetch s w va h level1) := by
  have hr := resolveNow_kept s w { kind := .prefetch, write := false, odd := true, width := 1 } va
  unfold prefetch
  split
  · next heq =>
    rw [heq] at hr
    dsimp only
    split
    · exact hr
    · exact hr.trans (fillFor_kept _ _)
  · next heq => rw [heq] at hr; exact hr

/-! ## The instructions of the memory forms -/

theorem Issues.not_ctrlSlot {s : State} {x : Clause} {k : Nat} {w : Warp} (h : Issues s x k w) : k ≠ ctrlSlot :=
  Nat.ne_of_lt h.slot

/-- Each plain or line form is what its instruction hands to `memory`, for every lane that it issues in (R239, R241 to R243). -/
theorem exec_loadStore (f : FmtM) : ∀ m ∈ plainForms f ++ lineForms f,
    (∀ s, exec m.instr s = .next (memory m s)) ∧ ctrlOnly m.instr = false ∧
      ∀ x s k ls, accessing m.instr x s k ls = issuingSet x s k ls := by
  intro m hm
  simp only [plainForms, lineForms, List.cons_append, List.nil_append, List.mem_cons, List.not_mem_nil, or_false] at hm
  rcases hm with rfl | rfl | rfl | rfl | rfl | rfl | rfl | rfl | rfl | rfl | rfl | rfl | rfl | rfl <;>
    exact ⟨fun _ => rfl, rfl, fun _ _ _ _ => rfl⟩

theorem exec_ldu (f : FmtM) (s : State) : exec (.ldu f) s = .next (memory (sharedLoad f) s) := rfl

/-- `ldu` accesses memory by the lowest executing lane alone (R240). -/
theorem accessing_ldu {f : FmtM} {s : State} {x : Clause} {k : Nat} (ls : List Nat) (h : stoppedAt s x.core k x.pc = none) :
    accessing (.ldu f) x s k ls = (guardLanes s x k ls).take 1 := by
  simp [accessing, issuingSet, h]

/-- `ldu` sends one access for the warp (R240). -/
theorem ldu_sends (f : FmtM) {s : State} {x : Clause} {k : Nat} {w : Warp} {place : Nat → Place} {leaf : Nat → Nat}
    (h : Issues s x k w) (hr : Arrived (.ldu f) (sharedLoad f).ops s x k w)
    (hs : Sendable (sharedLoad f) s x k ((x.together s k w (.ldu f)).take 1) place leaf) :
    exec (.ldu f) s = .next (endIssue x ((sharedLoad f).sends s x k (x.members k w (.ldu f))
      ((x.together s k w (.ldu f)).take 1) place leaf)) := by
  have sub : ((x.together s k w (.ldu f)).take 1).Sublist lanes32 :=
    (List.take_sublist _ _).trans (List.filter_sublist.trans (List.filter_sublist.trans List.filter_sublist))
  have issues : memory (sharedLoad f) s = endIssue x (memWarp (sharedLoad f) x s k (x.members k w (.ldu f))) :=
    issue_arrived h hr rfl
  rw [exec_ldu, issues, memWarp_sends h.not_ctrlSlot sub (accessing_ldu _ hs.idle) hs]

/-- `pf` prefetches for each launched executing lane (R243). -/
theorem pf_prefetches (f : FmtM) {s : State} {x : Clause} {k : Nat} {w : Warp} {ls ex : List Nat} (h : Issues s x k w)
    (hr : Goes (.pf f) [(f.addr, .w64), (f.index, .w32)] s x k w ls ex) :
    exec (.pf f) s = .next (endIssue x ((ex.filter (fun l => (s.lane x.core k l).kind == .launched)).foldl (fun s l =>
      prefetch s (whoOf s x.core k) (generalAt f 1 s (x.env k) l).toNat f.hint (!f.mmod.getLsbD 0)) s)) := by
  show execPf f s = _
  unfold execPf
  rw [issue_goes h hr rfl, hr.guard]
  rfl

/-- Settles O19: the loads, stores and line forms by the law of the memory forms, `ldu` by the same law for its lowest lane, and
`pf` lane by lane. -/
theorem memoryForms : Obligations.MemoryForms := by
  unfold Obligations.MemoryForms
  refine ⟨fun f m hm => ?_, fun f s x k w place leaf => ldu_sends f, fun f s x k w ls ex h hr => ⟨pf_prefetches f h hr, ?_⟩⟩
  · obtain ⟨runs, notCtrl, lanes⟩ := exec_loadStore f m hm
    exact memoryForm_of runs notCtrl lanes
  · exact storesAndWarpsKept_foldl _ (fun s l => prefetch_kept s _ _ _ _) _ s

end Sys2Proof.Machine
end

section
/-! PROOFS. The divergence barriers of R135, R136 and R211 and `nop`: the release test in words, and what each of their
instructions does once nothing turns it away. -/

namespace Sys2Proof.Machine

/-! ## The release test (R136) -/

/-- The release test as a proposition: a mask that is not 0, each of whose lanes waits at a `rejoin` of the barrier or has exited. -/
theorem releaseRejoin_eq (s : State) (c k b : Nat) :
    releaseRejoin s c k b =
      if barMask s c k b ≠ 0 ∧ ∀ l ∈ maskLanes (barMask s c k b),
          ((s.lane c k l).wait == .rejoin b) = true ∨ (s.lane c k l).kind = .exited then
        setBar (passOn s c k ((maskLanes (barMask s c k b)).filter (fun l => (s.lane c k l).wait == .rejoin b))) c k b 0
      else s := by
  unfold releaseRejoin
  simp only [Bool.and_eq_true, bne_iff_ne, List.all_eq_true, Bool.or_eq_true, beq_iff_eq (α := LaneKind)]

/-! ## The instructions -/

section
variable {s : State} {x : Clause} {k : Nat} {w : Warp}

/-- `enrol` adds the executing lanes to the mask (R135). -/
theorem exec_enrol (f : FmtB) (h : Issues s x k w) (hr : Ready (.enrol f) [] s x k w) :
    exec (.enrol f) s = .next (endIssue x (setBar s x.core k f.bar.toNat
      (barMask s x.core k f.bar.toNat ||| maskOf (x.executing s k)))) :=
  congrArg Host.Outcome.next (issue_ready h hr rfl)

/-- `rejoin` makes the executing lanes of the mask wait; the release test follows (R136). -/
theorem exec_rejoin (f : FmtB) (h : Issues s x k w) (hr : Ready (.rejoin f) [] s x k w) :
    exec (.rejoin f) s = .next (endIssue x (releaseRejoin (parkAll s x.core k
      ((x.executing s k).filter (fun l => maskHas (barMask s x.core k f.bar.toNat) l)) (.rejoin f.bar.toNat))
      x.core k f.bar.toNat)) :=
  congrArg Host.Outcome.next (issue_ready h hr rfl)

/-- `bclr` takes the executing lanes out of the mask; the release test follows (R211). -/
theorem exec_bclr (f : FmtB) (h : Issues s x k w) (hr : Ready (.bclr f) [] s x k w) :
    exec (.bclr f) s = .next (endIssue x (releaseRejoin (setBar s x.core k f.bar.toNat
      (barMask s x.core k f.bar.toNat &&& ~~~(maskOf (x.executing s k)))) x.core k f.bar.toNat)) :=
  congrArg Host.Outcome.next (issue_ready h hr rfl)

theorem exec_nop (h : Issues s x k w) (hr : Ready .nop [] s x k w) : exec .nop s = .next (endIssue x s) :=
  congrArg Host.Outcome.next (issue_ready h hr rfl)

/-- What `bread` is for a mask that has been read: an arithmetic form without sources whose result is the mask (R211). -/
def breadForm (f : FmtB) (m : Word) : Arith := Arith.of [] (some (f.d, .w32)) none (fun _ _ => (m.toNat, false))

theorem exec_bread (f : FmtB) {ls ex : List Nat} (h : Issues s x k w) (hr : Goes (.bread f) [(f.d, .w32)] s x k w ls ex) :
    exec (.bread f) s = .next (arith (.bread f) (breadForm f (barMask s x.core k f.bar.toNat)) 7 s) :=
  congrArg Host.Outcome.next ((issue_goes h hr rfl).trans (issue_goes h hr rfl).symm)

/-- `bread` gives each executing lane the mask (R211). -/
theorem bread_computes (f : FmtB) {ls ex : List Nat} (h : Issues s x k w) (hr : Goes (.bread f) [(f.d, .w32)] s x k w ls ex)
    (hd : regDst (some (f.d, .w32)) = true) :
    ∃ t, exec (.bread f) s = .next t ∧
      Computes s t x k w ex (some (f.d, .w32)) none (fun _ => ((barMask s x.core k f.bar.toNat).toNat, false)) :=
  ⟨_, exec_bread f h hr, arith_computes h hr rfl rfl hd rfl⟩

end

/-- Settles O17: the release test by its law, each instruction by what it does once it issues. -/
theorem divergenceBarriers : Obligations.DivergenceBarriers := by
  unfold Obligations.DivergenceBarriers
  refine ⟨fun s c k b => congrArg Host.Outcome.next (releaseRejoin_eq s c k b), fun f s x k w h =>
    ⟨exec_enrol f h, fun hr => ?_, fun hr => ?_, fun ls ex => bread_computes f h, exec_nop h⟩⟩
  · rw [exec_rejoin f h hr, releaseRejoin_eq]
    rfl
  · rw [exec_bclr f h hr, releaseRejoin_eq]
    rfl

end Sys2Proof.Machine
end

section
/-! PROOFS. The integer forms of group 0x1 (R197 to R199): the law of arithmetic gives everything but the value, and the value is
the model's own expression but for `min`, `max` and `abs`. -/

namespace Sys2Proof.Machine

/-- What makes an instruction an arithmetic form: its result on the values of its sources, however they are read. -/
theorem arithmeticForm_of_read {i : Instr} {a : Arith} {srcs : List (Operand × Pos × Ty)} {d : Option (Operand × Pos)}
    {p : Option (BitVec 3)} {g : BitVec 8 → List Nat → Nat × Bool} (runs : ∀ s, exec i s = .next (arith i a (Instr.pwField i) s))
    (result : ∀ ps (read : Operand × Pos × Ty → Nat), a.f ps (srcs.map read) = g ps (srcs.map read))
    (compute : ctrlOnly i = false := by rfl) (sources : a.srcs = srcs := by rfl) (dest : a.dst = d := by rfl)
    (pred : a.pw = p := by rfl) (unmasked : a.pm = 0 := by rfl) : ArithmeticForm i srcs d p g :=
  arithmeticForm_of runs compute sources dest pred unmasked fun ps _ _ _ => result ps _

/-- Settles O1: every form by the law of arithmetic; the least, the greatest and the absolute value are what the model's choices
give. -/
theorem integerArithmetic : Obligations.IntegerArithmetic := by
  unfold Obligations.IntegerArithmetic
  intro f
  refine ⟨?add, ?sub, ?mul, ?mulhi, ?mad, ?div, ?rem, ?min, ?max, ?abs, ?neg⟩
  case min =>
    exact arithmeticForm_of_read (fun _ => rfl) fun _ _ => congrArg (fun v => (writeT f.ty false v, false)) (Int.min_def _ _).symm
  case max =>
    exact arithmeticForm_of_read (fun _ => rfl) fun _ _ => congrArg (fun v => (writeT f.ty false v, false)) (Int.max_def _ _).symm
  case abs =>
    exact arithmeticForm_of_read (fun _ => rfl) fun _ _ => congrArg (fun v => (writeT f.ty f.sat v, false)) (Int.abs_eq_natAbs _).symm
  all_goals exact arithmeticForm_of_read (fun _ => rfl) fun _ _ => rfl

end Sys2Proof.Machine
end

section
/-! PROOFS. The bit operations and moves of group 0x1 (R198, R200 to R202): what their functions give, bit by bit, and the forms
themselves by the law of arithmetic. -/

namespace Sys2Proof.Machine

/-! ## Sums without carry -/

/-- A sum of numbers with no one bit in common has no carry. -/
theorem add_eq_or_of_and_eq_zero (x y : Nat) (h : x &&& y = 0) : x + y = x ||| y := by
  induction x using Nat.strongRecOn generalizing y with
  | ind x ih =>
    rcases Nat.eq_zero_or_pos x with rfl | hx
    · simp
    · have halves : x / 2 + y / 2 = x / 2 ||| y / 2 := ih _ (by omega) _ (by rw [← Nat.and_div_two, h])
      have low : ¬ (x % 2 = 1 ∧ y % 2 = 1) := by rw [← Nat.and_mod_two_eq_one, h]; decide
      have hor := @Nat.or_mod_two_eq_one x y
      rw [← Nat.or_div_two] at halves
      omega

/-- What is left of x without its bits in m. -/
theorem sub_and_eq_xor (x m : Nat) : x - (x &&& m) = x ^^^ (x &&& m) := by
  have disjoint : (x ^^^ (x &&& m)) &&& (x &&& m) = 0 := Nat.eq_of_testBit_eq fun i => by
    simp only [Nat.testBit_and, Nat.testBit_xor, Nat.zero_testBit]
    cases x.testBit i <;> cases m.testBit i <;> rfl
  have whole : x = (x ^^^ (x &&& m)) + (x &&& m) := by
    rw [add_eq_or_of_and_eq_zero _ _ disjoint]
    refine Nat.eq_of_testBit_eq fun i => ?_
    simp only [Nat.testBit_or, Nat.testBit_and, Nat.testBit_xor]
    cases x.testBit i <;> cases m.testBit i <;> rfl
  exact Nat.sub_eq_of_eq_add whole

/-! ## Reversal, look-up and rotation -/

theorem brevN_lt (n x : Nat) : brevN n x < 2 ^ n := by
  induction n generalizing x with
  | zero => simp [brevN]
  | succ n ih =>
    have high : x % 2 * 2 ^ n ≤ 1 * 2 ^ n := Nat.mul_le_mul_right _ (by omega)
    have low := ih (x / 2)
    rw [brevN, Nat.pow_succ]
    omega

theorem testBit_brevN (n x i : Nat) : (brevN n x).testBit i = (decide (i < n) && x.testBit (n - 1 - i)) := by
  induction n generalizing x i with
  | zero => simp [brevN]
  | succ n ih =>
    rw [brevN, Nat.mul_comm, Nat.testBit_two_pow_mul_add _ (brevN_lt n (x / 2)), ih, Nat.testBit_div_two]
    rcases Nat.lt_trichotomy i n with hi | rfl | hi
    · have : n - 1 - i + 1 = n + 1 - 1 - i := by omega
      simp [hi, Nat.lt_succ_of_lt hi, this]
    · simp
    · have high : x % 2 < 2 ^ (i - n) := Nat.lt_of_lt_of_le (Nat.mod_lt x (by decide)) (Nat.le_self_pow (by omega) 2)
      simp [Nat.not_lt_of_gt hi, show ¬ i < n + 1 by omega, Nat.testBit_lt_two_pow high]

theorem testBit_lut3N (t n a b c i : Nat) : (lut3N t n a b c).testBit i =
    (decide (i < n) && t.testBit ((a.testBit i).toNat + 2 * (b.testBit i).toNat + 4 * (c.testBit i).toNat)) := by
  induction n generalizing a b c i with
  | zero => simp [lut3N]
  | succ n ih =>
    rw [lut3N]
    generalize hk : a % 2 + 2 * (b % 2) + 4 * (c % 2) = k
    cases i with
    | zero =>
      have low : (t / 2 ^ k % 2 + 2 * lut3N t n (a / 2) (b / 2) (c / 2)) % 2 = t / 2 ^ k % 2 := by omega
      simp only [Nat.toNat_testBit, Nat.pow_zero, Nat.div_one, hk, Nat.zero_lt_succ, decide_true, Bool.true_and]
      rw [Nat.testBit_zero, low, Nat.testBit_eq_decide_div_mod_eq]
    | succ i =>
      have high : (t / 2 ^ k % 2 + 2 * lut3N t n (a / 2) (b / 2) (c / 2)) / 2 = lut3N t n (a / 2) (b / 2) (c / 2) := by omega
      rw [Nat.testBit_add_one, high, ih]
      simp [Nat.testBit_div_two]

theorem testBit_rotT (n a s i : Nat) (hi : i < n) : (rotT n a s).testBit i = a.testBit ((i + (n - s % n)) % n) := by
  have hr : s % n < n := Nat.mod_lt s (by omega)
  unfold rotT
  generalize s % n = r at hr
  simp only [Nat.testBit_or, Nat.testBit_mod_two_pow, Nat.testBit_mul_two_pow, Nat.testBit_div_two_pow]
  rcases Nat.lt_or_ge i r with h | h
  · have inside : i + (n - r) < n := by omega
    simp [Nat.mod_eq_of_lt inside, inside, Nat.not_le_of_gt h]
  · have wraps : (i + (n - r)) % n = i - r := by
      rw [show i + (n - r) = i - r + n by omega, Nat.add_mod_right, Nat.mod_eq_of_lt (by omega)]
    simp [wraps, hi, h, show i - r < n by omega, show ¬ i + (n - r) < n by omega]

/-! ## Counts -/

theorem popCount_eq_length (n x : Nat) : popCount n x = ((List.range n).filter (fun i => x.testBit i)).length := by
  induction n generalizing x with
  | zero => rfl
  | succ n ih =>
    have rest : ((List.range n).map Nat.succ).filter (fun i => x.testBit i) =
        ((List.range n).filter (fun i => (x / 2).testBit i)).map Nat.succ := by
      rw [List.filter_map]
      simp only [Function.comp_def, Nat.testBit_succ]
    rw [popCount, ih, List.range_succ_eq_map, List.filter_cons, rest, Nat.testBit_zero]
    rcases Nat.mod_two_eq_zero_or_one x with h | h <;> simp [h, Nat.add_comm]

/-- The leading zeros are zero, and the bit below them is one. -/
theorem clzN_spec (n x : Nat) : clzN n x ≤ n ∧ (∀ i, n - clzN n x ≤ i → i < n → x.testBit i = false) ∧
    (clzN n x < n → x.testBit (n - 1 - clzN n x) = true) := by
  induction n with
  | zero => exact ⟨Nat.le_refl 0, fun i _ hi => absurd hi (Nat.not_lt_zero i), fun h => absurd h (Nat.not_lt_zero _)⟩
  | succ n ih =>
    obtain ⟨bound, zeros, one⟩ := ih
    rw [clzN]
    split
    · next top => exact ⟨Nat.zero_le _, fun i _ _ => by omega, fun _ => top⟩
    · next top =>
      refine ⟨by omega, fun i hlo hhi => ?_, fun h => ?_⟩
      · rcases Nat.lt_or_ge i n with hi | hi
        · exact zeros i (by omega) hi
        · rw [show i = n by omega]
          exact Bool.eq_false_of_not_eq_true top
      · rw [show n + 1 - 1 - (1 + clzN n x) = n - 1 - clzN n x by omega]
        exact one (by omega)

/-- The trailing zeros are zero, and the bit above them is one. -/
theorem ctzN_spec (n x : Nat) : ctzN n x ≤ n ∧ (∀ i, i < ctzN n x → x.testBit i = false) ∧
    (ctzN n x < n → x.testBit (ctzN n x) = true) := by
  induction n generalizing x with
  | zero => exact ⟨Nat.le_refl 0, fun i hi => absurd hi (Nat.not_lt_zero i), fun h => absurd h (Nat.not_lt_zero _)⟩
  | succ n ih =>
    obtain ⟨bound, zeros, one⟩ := ih (x / 2)
    rw [ctzN]
    split
    · next low => exact ⟨Nat.zero_le _, fun i hi => absurd hi (Nat.not_lt_zero i), fun _ => by simpa [Nat.testBit_zero] using low⟩
    · next low =>
      refine ⟨by omega, fun i hi => ?_, fun h => ?_⟩
      · cases i with
        | zero => simpa [Nat.testBit_zero] using low
        | succ i => rw [Nat.testBit_succ]; exact zeros i (by omega)
      · rw [Nat.add_comm 1, Nat.testBit_succ]
        exact one (by omega)

/-! ## Fields -/

theorem testBit_bfiT (n a b pos len i : Nat) (hi : i < n) : (bfiT n a b pos len).testBit i =
    if pos ≤ i ∧ i < pos + len then a.testBit (i - pos) else b.testBit i := by
  have mask : ((2 ^ len - 1) * 2 ^ pos % 2 ^ n).testBit i = decide (pos ≤ i ∧ i < pos + len) := by
    rw [Nat.testBit_mod_two_pow, Nat.testBit_mul_two_pow, Nat.testBit_two_pow_sub_one, Bool.eq_iff_iff]
    simp only [hi, decide_true, Bool.true_and, Bool.and_eq_true, decide_eq_true_eq]
    omega
  unfold bfiT
  generalize (2 ^ len - 1) * 2 ^ pos % 2 ^ n = m at mask
  have disjoint : (b % 2 ^ n ^^^ (b % 2 ^ n &&& m)) &&& (a * 2 ^ pos &&& m) = 0 := Nat.eq_of_testBit_eq fun j => by
    simp only [Nat.testBit_and, Nat.testBit_xor, Nat.zero_testBit]
    cases (b % 2 ^ n).testBit j <;> cases m.testBit j <;> simp
  dsimp only
  rw [sub_and_eq_xor, add_eq_or_of_and_eq_zero _ _ disjoint]
  simp only [Nat.testBit_or, Nat.testBit_and, Nat.testBit_xor, Nat.testBit_mod_two_pow, Nat.testBit_mul_two_pow, mask, hi,
    decide_true, Bool.true_and]
  by_cases field : pos ≤ i ∧ i < pos + len
  · simp [field]
  · simp [field]

theorem truncN_natCast (n x : Nat) : truncN n (x : Int) = x % 2 ^ n := by
  unfold truncN
  rw [← Int.natCast_mod, Int.toNat_natCast]

/-- `bfx` of a type that is not signed: bits past the top or past the field read 0 (R200). -/
theorem testBit_bfxT_unsigned (t : Ty) (a pos len i : Nat) (ht : t.isI = false) (hi : i < t.bits) :
    (bfxT t a pos len).testBit i = (decide (i < len) && decide (pos + i < t.bits) && a.testBit (pos + i)) := by
  unfold bfxT
  split
  · next h => simp [h]
  · simp only [intVal, ht, Bool.false_eq_true, if_false, ← Int.natCast_div, truncN_natCast, Nat.testBit_mod_two_pow,
      Nat.testBit_div_two_pow, hi, decide_true, Bool.true_and, Bool.and_assoc, Nat.add_comm i pos]

/-! A field of a signed type goes through integers; on bit vectors it is an arithmetic shift and two sign extensions. -/

theorem sextN_eq_toInt (n x : Nat) : sextN n x = (BitVec.ofNat n x).toInt := by
  rw [BitVec.toInt_eq_toNat_cond, BitVec.toNat_ofNat]
  rfl

theorem truncN_toInt {n : Nat} (m : Nat) (x : BitVec n) : truncN m x.toInt = (x.signExtend m).toNat :=
  (BitVec.toNat_ofInt x.toInt).symm

theorem toInt_div_two_pow {n : Nat} (x : BitVec n) (s : Nat) : x.toInt / (2 ^ s : Nat) = (x.sshiftRight s).toInt := by
  rw [BitVec.toInt_sshiftRight, Int.shiftRight_eq_div_pow]

/-- Bits past the top of a sign extension are the sign. -/
theorem getLsbD_signExtend_min {n m i : Nat} (x : BitVec n) (hi : i < m) :
    (x.signExtend m).getLsbD i = x.getLsbD (min i (n - 1)) := by
  rw [BitVec.getLsbD_signExtend, BitVec.msb_eq_getLsbD_last]
  by_cases h : i < n
  · simp [hi, h, Nat.min_eq_left (Nat.le_sub_one_of_lt h)]
  · simp [hi, h, Nat.min_eq_right (show n - 1 ≤ i by omega)]

/-- Bits past the top of an arithmetic shift are the sign. -/
theorem getLsbD_sshiftRight_min {n s i : Nat} (x : BitVec n) (hi : i < n) :
    (x.sshiftRight s).getLsbD i = x.getLsbD (min (s + i) (n - 1)) := by
  rw [BitVec.getLsbD_sshiftRight, BitVec.msb_eq_getLsbD_last]
  by_cases h : s + i < n
  · simp [hi, h, Nat.min_eq_left (Nat.le_sub_one_of_lt h)]
  · simp [hi, h, Nat.min_eq_right (show n - 1 ≤ s + i by omega)]

/-- `bfx` of a signed type (R200). -/
theorem bfxT_signed (t : Ty) (a pos len : Nat) (ht : t.isI = true) (hl : len ≠ 0) :
    bfxT t a pos len = ((((BitVec.ofNat t.bits a).sshiftRight pos).signExtend len).signExtend t.bits).toNat := by
  unfold bfxT
  simp only [hl, ht, if_false, if_true, intVal, sextN_eq_toInt, toInt_div_two_pow, truncN_toInt, BitVec.ofNat_toNat,
    BitVec.setWidth_eq]

theorem testBit_bfxT_signed (t : Ty) (a pos len i : Nat) (ht : t.isI = true) (hi : i < t.bits) :
    (bfxT t a pos len).testBit i = (decide (0 < len) && a.testBit (min (pos + min i (len - 1)) (t.bits - 1))) := by
  rcases Nat.eq_zero_or_pos len with rfl | hl
  · simp [bfxT]
  · have inside : min i (len - 1) < t.bits := by omega
    have top : min (pos + min i (len - 1)) (t.bits - 1) < t.bits := by omega
    rw [bfxT_signed t a pos len ht (by omega), BitVec.testBit_toNat, getLsbD_signExtend_min _ hi,
      getLsbD_signExtend_min _ (by omega), show min (min i (len - 1)) (t.bits - 1) = min i (len - 1) by omega,
      getLsbD_sshiftRight_min _ inside, BitVec.getLsbD_ofNat]
    simp [hl, top]

/-! ## The forms -/

/-- Of a left shift only T's bits are kept, so that cutting it first makes no difference (R200). -/
theorem shlT_mod (n x s : Nat) : shlT n x s % 2 ^ n = (if s < n then x * 2 ^ s else 0) % 2 ^ n := by
  unfold shlT
  split
  · exact Nat.mod_mod _ _
  · rfl

/-- Settles O2: every form by the law of arithmetic, every function by its law on bits. -/
theorem bitOperations : Obligations.BitOperations := by
  unfold Obligations.BitOperations
  refine ⟨fun f => ?forms, testBit_brevN, testBit_lut3N, testBit_rotT, popCount_eq_length, clzN_spec, ctzN_spec, testBit_bfiT,
    testBit_bfxT_unsigned, testBit_bfxT_signed⟩
  refine ⟨?and, ?or, ?xor, ?not, ?shl, ?shr, ?rot, ?brev, ?bfx, ?bfi, ?lut3, ?mov, ?popc, ?clz, ?ctz, fun g => ?movi⟩
  case shl =>
    exact arithmeticForm_of_read (fun _ => rfl) fun _ _ => congrArg (fun v => (extT f.ty v, false)) (shlT_mod _ _ _)
  case movi => exact arithmeticForm_of_read (fun _ => rfl) fun _ _ => by simp only [Arith.of, beq_iff_eq]
  all_goals exact arithmeticForm_of_read (fun _ => rfl) fun _ _ => rfl

end Sys2Proof.Machine
end

section
/-! PROOFS. The address forms of group 0x2 (R204, R205), and the fault that the value for an operand out of range leads to. -/

namespace Sys2Proof.Machine

/-! ## Operands out of range -/

theorem regionOf_nonCanonical {va : Nat} (h : 2 ^ 52 ≤ va) : regionOf va = .nonCanonical := if_pos h

/-- An address of 2^52 or more takes the non-canonical fault, without a walk (R19, R34). -/
theorem resolveNow_nonCanonical (s : State) (w : Who) (a : Access) (va : Nat) (h : 2 ^ 52 ≤ va) :
    resolveNow s w a va = (s, .fault 5) := by
  have refused : windowRes s w a va = some (.fault XCause.nonCanonical) := by
    unfold windowRes
    rw [regionOf_nonCanonical h]
  unfold resolveNow
  rw [refused]
  rfl

theorem badAddr_eq : badAddr = 2 ^ 52 := rfl

/-- `spaddr` tests its two operands as one condition (R205). -/
theorem spaddr_value (a b y : Nat) : (if (decide (4 ≤ b) || decide (2 ^ 20 ≤ a)) = true then badAddr else y) =
    if 4 ≤ b ∨ 2 ^ 20 ≤ a then 2 ^ 52 else y := by
  simp only [Bool.or_eq_true, decide_eq_true_eq, badAddr_eq]

/-! ## `lpc` -/

/-- The fields that `lpc` does not use are zero (R206). -/
theorem unusedFields_of_lpc_wf (g : FmtB) (h : (Instr.lpc g).wf = true) : g.bar = 0 ∧ g.a = .main 0 := by
  change g.chk true false g.a.zero (g.d.dst .w64) = true at h
  simp only [FmtB.chk, Operand.zero, Operand.unused, Bool.and_eq_true, Bool.false_or, decide_eq_true_eq] at h
  obtain ⟨⟨⟨_, bar⟩, a, _⟩, _⟩ := h
  exact ⟨bar, a⟩

/-- What `lpc` is at a line: an arithmetic form without sources whose result is the label's program counter (R205). -/
def lpcForm (g : FmtB) (line : DWord) : Arith := Arith.of [] (some (g.d, .w64)) none (fun _ _ => ((targetB g line).toNat, false))

theorem exec_lpc (g : FmtB) {s : State} {x : Clause} {k : Nat} {w : Warp} (h : Issues s x k w) :
    exec (.lpc g) s = .next (arith (.lpc g) (lpcForm g x.addr) 7 s) := by
  obtain ⟨rest, clauses⟩ := List.head?_eq_some_iff.1 h.head
  show execLpc g s = _
  unfold execLpc
  rw [clauses]
  rfl

/-- `lpc` gives each executing lane the label's program counter (R205). -/
theorem lpc_computes (g : FmtB) {s : State} {x : Clause} {k : Nat} {w : Warp} {ls ex : List Nat} (h : Issues s x k w)
    (hr : Goes (.lpc g) (fieldsOf [] (some (g.d, .w64))) s x k w ls ex) (hd : regDst (some (g.d, .w64)) = true) :
    ∃ t, exec (.lpc g) s = .next t ∧
      Computes s t x k w ex (some (g.d, .w64)) none (fun _ => ((targetB g x.addr).toNat, false)) :=
  ⟨_, exec_lpc g h, arith_computes (a := lpcForm g x.addr) h hr rfl rfl hd rfl⟩

/-! ## The forms -/

/-- Settles O4: every form by the law of arithmetic, for `lpc` at the line of its clause. -/
theorem addressForms : Obligations.AddressForms := by
  unfold Obligations.AddressForms
  refine ⟨resolveNow_nonCanonical, unusedFields_of_lpc_wf, fun f => ?forms⟩
  refine ⟨?lea, ?addc, ?subc, ?mulw, ?madw, ?pack, fun r register => ?regaddr, ?peeraddr, ?spaddr, ?alignup, ?inrange,
    fun g s x k w ls ex => lpc_computes g⟩
  case regaddr =>
    refine arithmeticForm_of_read (fun _ => rfl) fun _ _ => ?_
    simp only [register]
    rfl
  case spaddr =>
    exact arithmeticForm_of_read (fun _ => rfl) fun _ _ => congrArg (fun v => (v, false)) (spaddr_value _ _ _)
  case inrange =>
    exact arithmeticForm_of_read (fun _ => rfl) fun _ _ => congrArg (Prod.mk 0) (Bool.decide_and _ _).symm
  all_goals exact arithmeticForm_of_read (fun _ => rfl) fun _ _ => rfl

end Sys2Proof.Machine
end

section
/-! PROOFS. The conversions of group 0x5 (R222 to R226) and the 4-bit family (R293, R307, R308): saturation to an integer type gives
the nearest value of the type, and the forms are what the law of arithmetic makes of the model's own values. -/

namespace Sys2Proof.Machine

/-! ## Saturation to an integer type -/

/-- The least value of an integer type (R195). -/
def leastT (T : Ty) : Int := if T.isI then -(2 ^ (T.bits - 1) : Nat) else 0

/-- The greatest value of an integer type (R195). -/
def greatestT (T : Ty) : Int := if T.isI then (2 ^ (T.bits - 1) : Nat) - 1 else (2 ^ T.bits : Nat) - 1

/-- The bit pattern of an integer saturated to a type, as `toIntT` has it (R224). -/
def satT (T : Ty) (x : Int) : Nat := truncN T.bits (if T.isI then satsN T.bits x else satuN T.bits x)

theorem toIntT_inf (T : Ty) (m : Rnd) (s : Nat) (neg : Bool) :
    toIntT T m s (.inf neg) = satT T (if neg then -(2 ^ 70 : Nat) else (2 ^ 70 : Nat)) := rfl

theorem toIntT_fin (T : Ty) (m : Rnd) (s : Nat) (neg : Bool) (a : Nat) (e : Int) :
    toIntT T m s (.fin neg a e) = satT T (roundInt m s neg a e) := rfl

theorem bits_pos (T : Ty) : 0 < T.bits := by cases T <;> decide

theorem bits_le (T : Ty) : T.bits ≤ 64 := by cases T <;> decide

theorem two_pow_le_of_le {n : Nat} (h : n ≤ 64) : ((2 ^ n : Nat) : Int) ≤ 2 ^ 70 := by
  exact_mod_cast Nat.pow_le_pow_right (by decide) (show n ≤ 70 by omega)

/-- `satsN` is the nearest value of the signed range. -/
theorem satsN_eq_clamp (n : Nat) (x : Int) :
    satsN n x = max (-((2 ^ (n - 1) : Nat) : Int)) (min (((2 ^ (n - 1) : Nat) : Int) - 1) x) := by
  have : 0 < 2 ^ (n - 1) := Nat.two_pow_pos _
  unfold satsN
  dsimp only
  split
  · omega
  · split <;> omega

/-- `satuN` is the nearest value of the unsigned range. -/
theorem satuN_eq_clamp (n : Nat) (x : Int) : satuN n x = max 0 (min (((2 ^ n : Nat) : Int) - 1) x) := by
  have : 0 < 2 ^ n := Nat.two_pow_pos _
  unfold satuN
  dsimp only
  split
  · omega
  · split <;> omega

/-- A value of the signed range is read back from its bit pattern. -/
theorem sextN_truncN {n : Nat} (hn : 0 < n) {x : Int} (lo : -((2 ^ (n - 1) : Nat) : Int) ≤ x) (hi : x < (2 ^ (n - 1) : Nat)) :
    sextN n (truncN n x) = x := by
  have pattern : truncN n x = (BitVec.ofInt n x).toNat := (BitVec.toNat_ofInt x).symm
  rw [sextN_eq_toInt, pattern, BitVec.ofNat_toNat, BitVec.setWidth_eq]
  exact BitVec.toInt_ofInt_eq_self hn (by simpa using lo) (by simpa using hi)

/-- A value of the unsigned range is read back from its bit pattern. -/
theorem truncN_mod_eq_self {n : Nat} {x : Int} (lo : 0 ≤ x) (hi : x < (2 ^ n : Nat)) :
    ((truncN n x % 2 ^ n : Nat) : Int) = x := by
  obtain ⟨k, rfl⟩ := Int.eq_ofNat_of_zero_le lo
  rw [truncN_natCast, Nat.mod_mod, Nat.mod_eq_of_lt (Int.ofNat_lt.1 hi)]

/-- Saturation gives the nearest value of the type (R224). -/
theorem intVal_satT (T : Ty) (x : Int) : intVal T (satT T x) = max (leastT T) (min (greatestT T) x) := by
  unfold intVal satT leastT greatestT
  by_cases signed : T.isI = true
  · have : 0 < 2 ^ (T.bits - 1) := Nat.two_pow_pos _
    simp only [signed, if_true]
    rw [satsN_eq_clamp, sextN_truncN (bits_pos T) (by omega) (by omega)]
  · have : 0 < 2 ^ T.bits := Nat.two_pow_pos _
    simp only [signed, Bool.false_eq_true, if_false]
    rw [satuN_eq_clamp, truncN_mod_eq_self (by omega) (by omega)]

/-- Every integer type lies between the values that stand for the infinities. -/
theorem range_within (T : Ty) : -2 ^ 70 ≤ leastT T ∧ leastT T ≤ greatestT T ∧ greatestT T ≤ 2 ^ 70 := by
  have signed := two_pow_le_of_le (show T.bits - 1 ≤ 64 from (Nat.sub_le _ _).trans (bits_le T))
  have unsigned := two_pow_le_of_le (bits_le T)
  have : 0 < 2 ^ (T.bits - 1) := Nat.two_pow_pos _
  have : 0 < 2 ^ T.bits := Nat.two_pow_pos _
  unfold leastT greatestT
  split <;> omega

theorem intVal_toIntT_posInf (T : Ty) (m : Rnd) (s : Nat) : intVal T (toIntT T m s (.inf false)) = greatestT T := by
  obtain ⟨_, order, high⟩ := range_within T
  rw [toIntT_inf, intVal_satT]
  simp only [Bool.false_eq_true, if_false]
  omega

theorem intVal_toIntT_negInf (T : Ty) (m : Rnd) (s : Nat) : intVal T (toIntT T m s (.inf true)) = leastT T := by
  obtain ⟨low, order, _⟩ := range_within T
  rw [toIntT_inf, intVal_satT]
  simp only [if_true]
  omega

/-- A float is rounded by the mode, then saturated (R224). -/
theorem intVal_toIntT_fin (T : Ty) (m : Rnd) (s : Nat) (neg : Bool) (a : Nat) (e : Int) :
    intVal T (toIntT T m s (.fin neg a e)) = max (leastT T) (min (greatestT T) (roundInt m s neg a e)) := by
  rw [toIntT_fin, intVal_satT]

/-! ## The forms -/

theorem gTy_of_ty2 {f : FmtA} {G : Ty} (h : f.ty2 = some G) : gTy f = G := by
  unfold gTy
  rw [h]
  rfl

/-- Sources that only `sr` reads: what the model tests as a Boolean (R222). -/
theorem ite_beq_sr {α : Type} (m : Rnd) (draws : List α) :
    (if (m == .sr) = true then draws else []) = if m = .sr then draws else [] := by
  simp only [beq_iff_eq]

/-- The scale of a block code is the low six bits of its byte (R293). -/
theorem scale_mod_byte (v : FVal) (b : Nat) : v.scale (32 - (b % 256 % 64 : Nat)) = v.scale (32 - (b % 64 : Nat)) := by
  rw [Nat.mod_mod_of_dvd b (by decide)]

/-- Settles O8: an integer by saturation to the nearest value, every form by the law of arithmetic. -/
theorem conversions : Obligations.Conversions := by
  unfold Obligations.Conversions
  refine ⟨fun T m s => ⟨rfl, intVal_toIntT_posInf T m s, intVal_toIntT_negInf T m s, intVal_toIntT_fin T m s⟩, fun f G second => ?_⟩
  obtain rfl := gTy_of_ty2 second
  refine ⟨?cvt, ?f2i, ?i2f, ?i2i, ?pk2, ?pk4, ?unpk2, ?unpk4, ?scaled, ?scaledPk4, ?q4, ?fromQ4⟩
  case cvt | pk4 =>
    exact arithmeticForm_of_read (fun _ => rfl) (fun _ _ => rfl) rfl (congrArg _ (ite_beq_sr f.rm _))
  case pk2 | scaled | scaledPk4 =>
    exact arithmeticForm_of_read (fun _ => rfl) (fun _ _ => rfl) rfl (congrArg (_ ++ ·) (ite_beq_sr f.rm _))
  case q4 =>
    exact arithmeticForm_of_read (fun _ => rfl) fun _ _ => congrArg (fun v => (q4Code _ v, false)) (scale_mod_byte _ _)
  all_goals exact arithmeticForm_of_read (fun _ => rfl) fun _ _ => rfl

end Sys2Proof.Machine
end

section
/-! PROOFS. The cross-lane forms of group 0xB (R269, R271, R272, R275): shuffles, votes, ballots and masks. Each form is what
the law of the cross-lane forms makes of the model's own values; what is proved here is that these values are the statements'. -/

namespace Sys2Proof.Machine

/-! ## Sub-groups and contributors (R269) -/

theorem xlWidth_eq_two_pow (f : FmtA) : xlWidth f = 2 ^ (f.opm.toNat % 4 + 2) := by
  rw [xlWidth, Nat.pow_add, Nat.mul_comm]

theorem contributors_eq (s : State) (e : Env) (ex : List Nat) (w l : Nat) :
    contributors s e ex w l = ex.filter (fun j => (s.lane e.core e.slot j).kind == .launched && j / w == l / w) := by
  unfold contributors launchedOf
  rw [List.filter_filter]
  exact List.filter_congr fun j _ => Bool.and_comm _ _

/-! ## Shuffles (R271) -/

/-- The source of a shuffle is read where it executes, and the fill elsewhere. -/
theorem shuffled_value (src : Option Nat) (ex : List Nat) (a : Nat → Nat) (c : Nat) :
    (match src with | some j => if ex.contains j then a j else c | none => c, false) =
      (match src.filter (fun j => ex.contains j) with | some j => (a j, false) | none => (c, false)) := by
  cases src with
  | none => rfl
  | some j =>
    rw [Option.filter_some]
    by_cases executes : ex.contains j = true
    · rw [if_pos executes]
      exact congrArg (·, false) (if_pos executes)
    · rw [if_neg executes]
      exact congrArg (·, false) (if_neg executes)

/-- A shuffle is the cross-lane form that reads the lane which the statement names. -/
theorem crossLaneForm_shuffle {i : Instr} {f : FmtA} {model src : State → Env → Nat → Option Nat}
    (runs : ∀ s, exec i s = .next (shuffle i f model s)) (names : ∀ s e l, model s e l = src s e l)
    (compute : ctrlOnly i = false := by rfl) :
    CrossLaneForm i [(f.a, f.ty.pos), (f.c, f.ty.pos), (f.d, f.ty.pos), (f.b, .w32)] (some (f.d, f.ty.pos)) none
      (fun s e ex l => match (src s e l).filter (fun j => ex.contains j) with
        | some j => (readOp s e j f.ty f.ty.pos f.a, false)
        | none => (readOp s e l f.ty f.ty.pos f.c, false)) := by
  refine crossLaneForm_of runs compute fun s e ex l => ?_
  rw [names]
  exact shuffled_value (src s e l) ex (valA f s e) _

/-- Settles O10: every shuffle by the law of the cross-lane forms, its source lane counted from the first lane of the sub-group. -/
theorem shuffles : Obligations.Shuffles := by
  unfold Obligations.Shuffles
  intro f
  refine ⟨?xlAt, ?xlBelow, ?xlAbove, ?xlXor, ?quadb, ?quadx⟩
  case xlAt | xlXor =>
    exact crossLaneForm_shuffle (fun _ => rfl) fun _ _ _ => congrArg (fun g => some (g + _)) Nat.div_mul_self_eq_mod_sub_self
  case quadb =>
    exact crossLaneForm_shuffle (fun _ => rfl) fun _ _ _ => congrArg (fun g => some (g + _)) Nat.div_mul_self_eq_mod_sub_self
  case xlBelow | xlAbove => exact crossLaneForm_shuffle (fun _ => rfl) fun _ _ _ => rfl
  case quadx =>
    refine crossLaneForm_of (fun _ => rfl) rfl fun s e ex l => ?_
    simp only [List.contains_iff_mem]
    rfl

/-! ## Votes, ballots and masks (R272, R275) -/

/-- Lanes past 31 set no bit of a mask. -/
theorem getLsbD_maskOf (ls : List Nat) {j : Nat} (hj : j < 32) : (maskOf ls).getLsbD j = ls.contains j := by
  have accumulates : ∀ m : Word, (ls.foldl (fun m l => m ||| (1#32 <<< l)) m).getLsbD j = (m.getLsbD j || ls.contains j) := by
    induction ls with
    | nil => simp
    | cons a ls ih =>
      intro m
      have bit : (1#32 <<< a).getLsbD j = (j == a) := by
        rw [← BitVec.twoPow_eq, BitVec.getLsbD_twoPow, Bool.eq_iff_iff]
        simp only [Bool.and_eq_true, decide_eq_true_eq, beq_iff_eq]
        omega
      rw [List.foldl_cons, ih, BitVec.getLsbD_or, bit, Bool.or_assoc, List.contains_cons]
  rw [maskOf, accumulates, show BitVec.getLsbD (0 : Word) j = false from BitVec.getLsbD_zero, Bool.false_or]

theorem codeB_imm {f : FmtA} {v : BitVec 8} (h : f.b = .imm v) : codeB f = v.toNat := by rw [codeB, h]

theorem codeB_not_imm {f : FmtA} (h : ∀ v, f.b = .imm v → False) : codeB f = 0 := by
  unfold codeB
  split
  · next v hv => exact absurd hv (h v)
  · rfl

/-- The code of `vote` is the immediate of field B: all, any, or all alike (R272). -/
theorem vote_value (f : FmtA) (ks : List Nat) (p : Nat → Bool) :
    (match f.b with
      | .imm 0 => ks.all p
      | .imm 1 => ks.any p
      | .imm _ => ks.all p || ks.all (fun j => !p j)
      | _ => ks.all p) =
    (match codeB f with
      | 0 => (ks.map p).all id
      | 1 => (ks.map p).any id
      | _ => (ks.map p).all id || !(ks.map p).any id) := by
  simp only [List.all_map, List.any_map, Function.id_comp, List.not_any_eq_all_not]
  split
  · next h => rw [codeB_imm h]; rfl
  · next h => rw [codeB_imm h]; rfl
  · next v notZero notOne h =>
    rw [codeB_imm h]
    split
    · next zero => exact absurd (BitVec.eq_of_toNat_eq zero) notZero
    · next one => exact absurd (BitVec.eq_of_toNat_eq one) notOne
    · rfl
  · next notImm => rw [codeB_not_imm notImm]; rfl

/-- All values are equal when all equal the first. -/
theorem all_beq_head_eq_all_pairs (ks : List Nat) (a : Nat → Nat) :
    ks.all (fun j => a j == a (ks.headD 0)) = ks.all (fun i => ks.all (fun j => a i == a j)) := by
  cases ks with
  | nil => rfl
  | cons k ks =>
    rw [Bool.eq_iff_iff]
    simp only [List.all_eq_true, beq_iff_eq, List.headD_cons]
    exact ⟨fun same i hi j hj => (same i hi).trans (same j hj).symm, fun same i hi => same i hi k List.mem_cons_self⟩

/-- Settles O11: every form by the law of the cross-lane forms over the contributors. -/
theorem votesAndMasks : Obligations.VotesAndMasks := by
  unfold Obligations.VotesAndMasks
  intro f
  refine ⟨?vote, ?ballot, ?present, ?first, ?peers, ?same, fun ls j => getLsbD_maskOf ls⟩
  case vote =>
    refine crossLaneForm_of (fun _ => rfl) rfl fun s e ex l => ?_
    dsimp only
    rw [contributors_eq]
    exact congrArg (Prod.mk 0) (vote_value f _ (predA f s e)).symm
  case ballot =>
    refine crossLaneForm_of (fun _ => rfl) rfl fun s e ex l => ?_
    rw [contributors_eq]
    rfl
  case present => exact crossLaneForm_of (fun _ => rfl) rfl fun _ _ _ _ => rfl
  case first =>
    refine crossLaneForm_of (fun _ => rfl) rfl fun s e ex l => ?_
    rw [Bool.beq_eq_decide_eq]
    rfl
  case peers =>
    refine crossLaneForm_of (fun _ => rfl) rfl fun s e ex l => ?_
    rw [contributors_eq]
    simp only [Bool.beq_eq_decide_eq]
    rfl
  case same =>
    refine crossLaneForm_of (fun _ => rfl) rfl fun s e ex l => ?_
    rw [contributors_eq]
    exact congrArg (fun ok => (if ok = true then _ else 0, ok)) (all_beq_head_eq_all_pairs _ (valA f s e))

end Sys2Proof.Machine
end

section
/-! PROOFS. The reductions and scans of group 0xB (R273, R274): a fold from the first value is one from the identity of its
operation, and the levels of the model's tree are the pairwise combinations of R274. -/

namespace Sys2Proof.Machine

/-! ## The integer operations and their identities (R273) -/

theorem two_pow_bits (t : Ty) : 2 ^ t.bits = 2 * 2 ^ (t.bits - 1) := (mul_pow_sub_one (bits_pos t).ne' 2).symm

/-- A value lies in the range of its type. -/
theorem intVal_range (t : Ty) (v : Nat) : leastT t ≤ intVal t v ∧ intVal t v ≤ greatestT t := by
  have half := two_pow_bits t
  have := Nat.mod_lt v (Nat.two_pow_pos t.bits)
  unfold leastT greatestT intVal sextN
  split
  · dsimp only
    split <;> omega
  · omega

/-- Two values of the type's width with one reading are equal. -/
theorem eq_of_intVal_eq {t : Ty} {x y : Nat} (hx : x < 2 ^ t.bits) (hy : y < 2 ^ t.bits) (h : intVal t x = intVal t y) : x = y := by
  unfold intVal sextN at h
  rw [Nat.mod_eq_of_lt hx, Nat.mod_eq_of_lt hy] at h
  split at h
  · dsimp only at h
    split at h <;> split at h <;> omega
  · omega

theorem redId_lt (t : Ty) (op : Nat) : redId t op < 2 ^ t.bits := by
  have half := two_pow_bits t
  have := Nat.two_pow_pos (t.bits - 1)
  unfold redId
  split
  · split <;> omega
  · split <;> omega
  · omega
  · omega

/-- The identity of the least is the greatest value of the type. -/
theorem intVal_redId_min (t : Ty) : intVal t (redId t 1) = greatestT t := by
  have half := two_pow_bits t
  have := Nat.two_pow_pos (t.bits - 1)
  have inside := Nat.mod_eq_of_lt (redId_lt t 1)
  unfold intVal sextN greatestT
  rw [inside]
  simp only [redId]
  split
  · rw [if_pos (by omega)]; omega
  · omega

/-- The identity of the greatest is the least value of the type. -/
theorem intVal_redId_max (t : Ty) : intVal t (redId t 2) = leastT t := by
  have half := two_pow_bits t
  have inside := Nat.mod_eq_of_lt (redId_lt t 2)
  unfold intVal sextN leastT
  rw [inside]
  simp only [redId]
  split
  · rw [if_neg (by omega)]; omega
  · rfl

theorem intVal_redOp_min (t : Ty) (x y : Nat) : intVal t (redOp t 1 x y) = min (intVal t x) (intVal t y) := by
  show intVal t (if intVal t y < intVal t x then y else x) = _
  rw [apply_ite (intVal t)]
  split <;> omega

theorem intVal_redOp_max (t : Ty) (x y : Nat) : intVal t (redOp t 2 x y) = max (intVal t x) (intVal t y) := by
  show intVal t (if intVal t x < intVal t y then y else x) = _
  rw [apply_ite (intVal t)]
  split <;> omega

theorem redOp_lt (t : Ty) (op : Nat) {x y : Nat} (hx : x < 2 ^ t.bits) (hy : y < 2 ^ t.bits) : redOp t op x y < 2 ^ t.bits := by
  unfold redOp
  split
  · exact Nat.mod_lt _ (Nat.two_pow_pos _)
  · split <;> assumption
  · split <;> assumption
  · exact Nat.and_lt_two_pow _ hy
  · exact Nat.or_lt_two_pow hx hy
  · exact Nat.xor_lt_two_pow hx hy

/-- Each operation leaves a value of the type's width alone when its identity comes first. -/
theorem redOp_redId (t : Ty) (op : Nat) {v : Nat} (hv : v < 2 ^ t.bits) : redOp t op (redId t op) v = v := by
  match op with
  | 0 => exact (congrArg (· % 2 ^ t.bits) (Nat.zero_add v)).trans (Nat.mod_eq_of_lt hv)
  | 1 =>
    refine eq_of_intVal_eq (redOp_lt t 1 (redId_lt t 1) hv) hv ?_
    rw [intVal_redOp_min, intVal_redId_min, min_eq_right (intVal_range t v).2]
  | 2 =>
    refine eq_of_intVal_eq (redOp_lt t 2 (redId_lt t 2) hv) hv ?_
    rw [intVal_redOp_max, intVal_redId_max, max_eq_right (intVal_range t v).1]
  | 3 =>
    show (2 ^ t.bits - 1) &&& v = v
    rw [Nat.and_comm, Nat.and_two_pow_sub_one_of_lt_two_pow hv]
  | 4 => exact Nat.zero_or v
  | _ + 5 => exact Nat.zero_xor v

/-- The fold of the model, which begins with the first value, is the fold from the identity. -/
theorem redFold_eq_foldl (t : Ty) (op : Nat) (vs : List Nat) (hv : ∀ v ∈ vs, v < 2 ^ t.bits) :
    redFold t op vs = vs.foldl (redOp t op) (redId t op) := by
  cases vs with
  | nil => rfl
  | cons v vs => rw [List.foldl_cons, redOp_redId t op (hv v List.mem_cons_self)]; rfl

/-- The same of values that are cut to the type's width first. -/
theorem redFold_map_mod (t : Ty) (op : Nat) (ks : List Nat) (a : Nat → Nat) :
    redFold t op (ks.map (fun j => a j % 2 ^ t.bits)) =
      (ks.map (fun j => a j % 2 ^ t.bits)).foldl (redOp t op) (redId t op) := by
  refine redFold_eq_foldl t op _ fun v hv => ?_
  obtain ⟨j, -, rfl⟩ := List.mem_map.1 hv
  exact Nat.mod_lt _ (Nat.two_pow_pos _)

/-- Contributors up to a lane, or below it, in the statement's words (R273). -/
theorem upTo_decide (below : Prop) [Decidable below] (l : Nat) (ks : List Nat) :
    upTo (decide below) l ks = ks.filter (fun j => if below then decide (j < l) else decide (j ≤ l)) := by
  by_cases h : below <;> simp [upTo, h]

/-! ## The floating tree (R274) -/

theorem comb_none_right (op : Nat) (x : Option Nat) : comb op x none = x := by cases x <;> rfl

theorem comb_none_left (op : Nat) (y : Option Nat) : comb op none y = y := by cases y <;> rfl

/-- Neighbouring leaves, combined. -/
def pairUp (op : Nat) (leaf : Nat → Option Nat) (j : Nat) : Option Nat := comb op (leaf (2 * j)) (leaf (2 * j + 1))

/-- The lowest level of the tree taken away. -/
theorem pairwise_succ (op : Nat) (leaf : Nat → Option Nat) (n g : Nat) :
    pairwise op leaf (n + 1) (2 * g) = pairwise op (pairUp op leaf) n g := by
  induction n generalizing g with
  | zero => rfl
  | succ n ih =>
    rw [pairwise, ih, show 2 * g + 2 ^ (n + 1) = 2 * (g + 2 ^ n) by omega, ih]
    rfl

/-- The tree from lane g on counts its leaves from there. -/
theorem pairwise_offset (op : Nat) (leaf : Nat → Option Nat) (n b g : Nat) :
    pairwise op (fun j => leaf (b + j)) n g = pairwise op leaf n (b + g) := by
  induction n generalizing g with
  | zero => rfl
  | succ n ih => rw [pairwise, ih, ih, ← Nat.add_assoc]; rfl

theorem combPairs_range (op : Nat) (leaf : Nat → Option Nat) (m : Nat) :
    combPairs op ((List.range (2 * m)).map leaf) = (List.range m).map (pairUp op leaf) := by
  induction m generalizing leaf with
  | zero => rfl
  | succ m ih =>
    rw [show 2 * (m + 1) = 2 * m + 1 + 1 by omega, List.range_succ_eq_map, List.range_succ_eq_map, List.range_succ_eq_map]
    simp only [List.map_cons, List.map_map, combPairs]
    rw [show leaf ∘ Nat.succ ∘ Nat.succ = fun j => leaf (j + 2) from rfl, ih]
    rfl

theorem combTree_singleton (op n : Nat) (x : Option Nat) : combTree op n [x] = x := by
  induction n with
  | zero => rfl
  | succ n ih => exact ih

/-- The levels of the model, over a power of two of leaves, are the tree of pairwise combinations. -/
theorem combTree_range (op : Nat) (leaf : Nat → Option Nat) {n m : Nat} (h : n ≤ m) :
    combTree op m ((List.range (2 ^ n)).map leaf) = pairwise op leaf n 0 := by
  induction n generalizing leaf m with
  | zero => exact combTree_singleton op m (leaf 0)
  | succ n ih =>
    obtain ⟨m, rfl⟩ : ∃ k, m = k + 1 := ⟨m - 1, by omega⟩
    rw [combTree, Nat.pow_succ', combPairs_range, ih _ (by omega), ← pairwise_succ]

/-- The tree of a sub-group is the tree from its first lane on. -/
theorem combTree_subgroup (f : FmtA) (op l : Nat) (ks : List Nat) (a : Nat → Nat) :
    combTree op 5 ((List.range (xlWidth f)).map (fun j =>
      if ks.contains (l / xlWidth f * xlWidth f + j) then some (a (l / xlWidth f * xlWidth f + j)) else none)) =
    pairwise op (fun j => if j ∈ ks then some (a j) else none) (f.opm.toNat % 4 + 2) (l - l % xlWidth f) := by
  rw [Nat.div_mul_self_eq_mod_sub_self]
  simp only [List.contains_iff_mem]
  generalize l - l % xlWidth f = g
  rw [xlWidth_eq_two_pow, combTree_range op _ (show f.opm.toNat % 4 + 2 ≤ 5 by omega)]
  exact pairwise_offset op (fun j => if j ∈ ks then some (a j) else none) _ g 0

theorem redResult_eq (v : Nat) : redResult v = if Flt.f32.dec v = .nan then 0x7FC00000 else v := by
  unfold redResult
  split
  · next h => exact (if_pos h).symm
  · next h => exact (if_neg h).symm

/-- Settles O12: integer folds by the identities, the floating tree level by level, every form by the law of the cross-lane
forms. -/
theorem reductionsAndScans : Obligations.ReductionsAndScans := by
  unfold Obligations.ReductionsAndScans
  refine ⟨fun t x y => ⟨rfl, intVal_redOp_min t x y, intVal_redOp_max t x y, rfl, rfl, rfl⟩,
    fun t => ⟨rfl, rfl, rfl, rfl, fun v => ?identities⟩,
    fun op x y => ⟨comb_none_right op x, comb_none_left op y⟩, fun x y => ⟨rfl, rfl, rfl⟩, ⟨rfl, rfl, rfl⟩, fun f => ?forms⟩
  case identities =>
    rw [intVal_redId_min, intVal_redId_max]
    exact ⟨(intVal_range t v).2, (intVal_range t v).1⟩
  refine ⟨?lred, ?scan, fun _ => ?flred, fun _ => ?fscan⟩
  case lred =>
    refine crossLaneForm_of (fun _ => rfl) rfl fun s e ex l => ?_
    rw [redFold_map_mod, contributors_eq, xlWidth_eq_two_pow]
    rfl
  case scan =>
    refine crossLaneForm_of (fun _ => rfl) rfl fun s e ex l => ?_
    rw [redFold_map_mod, upTo_decide, contributors_eq, xlWidth_eq_two_pow]
    rfl
  case flred =>
    refine crossLaneForm_of (fun _ => rfl) rfl fun s e ex l => ?_
    dsimp only
    rw [combTree_subgroup, contributors_eq, redResult_eq, xlWidth_eq_two_pow]
    rfl
  case fscan =>
    refine crossLaneForm_of (fun _ => rfl) rfl fun s e ex l => ?_
    dsimp only
    rw [redResult_eq, List.foldl_map, upTo_decide, contributors_eq, xlWidth_eq_two_pow]
    rfl

end Sys2Proof.Machine
end

section
/-! PROOFS. The decoder and the encoder (R175 to R189): each field is the code of one value, each format is read back from its word,
and each row of the opcode table is one line of both. -/

namespace Sys2Proof

/-! ## Operand fields (R177) -/

theorem toNat_append_eq_add {n m : Nat} (x : BitVec n) (y : BitVec m) : (x ++ y).toNat = x.toNat * 2 ^ m + y.toNat := by
  rw [BitVec.toNat_append, ← Nat.shiftLeft_add_eq_or_of_lt y.isLt, Nat.shiftLeft_eq]

theorem toNat_fld {n : Nat} (x : BitVec n) (lo k : Nat) : (x.extractLsb' lo k).toNat = x.toNat / 2 ^ lo % 2 ^ k := by
  rw [BitVec.extractLsb'_toNat, Nat.shiftRight_eq_div_pow]

/-- The number that the field of an operand is (R177). -/
def operandNumber : Operand → Nat
  | .main k => k.toNat
  | .opf k => 0x400 + k.toNat
  | .latch k => 0x800 + k.toNat
  | .queue k nb => 0xC00 + 0x40 * nb.toNat + k.toNat
  | .special c => 0xD00 + c.toNat
  | .imm x => 0xE00 + x.toNat
  | .wreg k => 0xF00 + k.toNat

theorem toNat_encodeOperand (o : Operand) : (encodeOperand o).toNat = operandNumber o := by
  cases o <;> simp only [encodeOperand, operandNumber, toNat_append_eq_add, BitVec.toNat_ofNat, BitVec.toNat_ofBool] <;> omega

/-- Bits of the field of an operand, by their number. -/
theorem encodeOperand_part (o : Operand) (lo n : Nat) :
    ((encodeOperand o).extractLsb' lo n).toNat = operandNumber o / 2 ^ lo % 2 ^ n := by
  rw [toNat_fld, toNat_encodeOperand]

theorem encodeOperand_subpart (o : Operand) (lo n : Nat) :
    (((encodeOperand o).extractLsb' 0 10).extractLsb' lo n).toNat = operandNumber o % 2 ^ 10 / 2 ^ lo % 2 ^ n := by
  rw [toNat_fld, encodeOperand_part, Nat.pow_zero, Nat.div_one]

theorem decodeOperand_encodeOperand (o : Operand) (h : o.assigned = true) : decodeOperand (encodeOperand o) = some o := by
  have top := encodeOperand_part o 10 2
  have low := encodeOperand_part o 0 10
  have sub := encodeOperand_subpart o
  have sixth : ((encodeOperand o).extractLsb' 0 10).getLsbD 6 = decide (operandNumber o / 2 ^ 6 % 2 = 1) := by
    rw [BitVec.getLsbD, low, Nat.testBit_eq_decide_div_mod_eq]
    congr 1
    rw [Nat.pow_zero, Nat.div_one]
    rw [eq_iff_iff]
    omega
  unfold decodeOperand
  generalize encodeOperand o = x at top low sub sixth
  cases o <;> simp only [operandNumber] at top low sub sixth
  case main k =>
    have code : x.extractLsb' 0 10 = k := BitVec.eq_of_toNat_eq (by omega)
    simp only [show (x.extractLsb' 10 2).toNat = 0 by omega, code]
  case opf k =>
    have code : (x.extractLsb' 0 10).extractLsb' 0 4 = k := BitVec.eq_of_toNat_eq (by have := sub 0 4; omega)
    simp only [show (x.extractLsb' 10 2).toNat = 1 by omega, show (x.extractLsb' 0 10).toNat < 16 by omega, code, if_true]
  case latch k =>
    have bound : k.toNat < 5 := of_decide_eq_true h
    have code : (x.extractLsb' 0 10).extractLsb' 0 3 = k := BitVec.eq_of_toNat_eq (by have := sub 0 3; omega)
    simp only [show (x.extractLsb' 10 2).toNat = 2 by omega, show (x.extractLsb' 0 10).toNat < 5 by omega, code, if_true]
  case queue k nb =>
    have := nb.toNat_le
    have code : (x.extractLsb' 0 10).extractLsb' 0 6 = k := BitVec.eq_of_toNat_eq (by have := sub 0 6; omega)
    have level := sub 8 2
    have flag : (x.extractLsb' 0 10).getLsbD 6 = nb := by
      have : k.toNat < 64 := k.isLt
      cases nb
      · exact sixth.trans (decide_eq_false (by simp only [Bool.toNat_false]; omega))
      · exact sixth.trans (decide_eq_true (by simp only [Bool.toNat_true]; omega))
    simp only [show (x.extractLsb' 10 2).toNat = 3 by omega, show (x.extractLsb' 0 10).toNat < 128 by omega, code, flag,
      show ((x.extractLsb' 0 10).extractLsb' 8 2).toNat = 0 by omega, if_true]
  case special c =>
    have code : (x.extractLsb' 0 10).extractLsb' 0 8 = c := BitVec.eq_of_toNat_eq (by have := sub 0 8; omega)
    have level := sub 8 2
    have listed : specialOk c = true := h
    simp only [show (x.extractLsb' 10 2).toNat = 3 by omega, show ((x.extractLsb' 0 10).extractLsb' 8 2).toNat = 1 by omega, code,
      listed, if_true]
  case imm v =>
    have code : (x.extractLsb' 0 10).extractLsb' 0 8 = v := BitVec.eq_of_toNat_eq (by have := sub 0 8; omega)
    have level := sub 8 2
    simp only [show (x.extractLsb' 10 2).toNat = 3 by omega, show ((x.extractLsb' 0 10).extractLsb' 8 2).toNat = 2 by omega, code]
  case wreg k =>
    have code : (x.extractLsb' 0 10).extractLsb' 0 6 = k := BitVec.eq_of_toNat_eq (by have := sub 0 6; omega)
    have level := sub 8 2
    simp only [show (x.extractLsb' 10 2).toNat = 3 by omega, show ((x.extractLsb' 0 10).extractLsb' 8 2).toNat = 3 by omega,
      show (x.extractLsb' 0 10).toNat < 832 by omega, code, if_true]

theorem of_decodeOperand {x : BitVec 12} {o : Operand} (h : decodeOperand x = some o) : o.assigned = true ∧ encodeOperand o = x := by
  have top := toNat_fld x 10 2
  have low : (x.extractLsb' 0 10).toNat = x.toNat % 2 ^ 10 := by rw [toNat_fld, Nat.pow_zero, Nat.div_one]
  have sub (lo n : Nat) := toNat_fld (x.extractLsb' 0 10) lo n
  rw [low] at sub
  have bound := x.isLt
  simp only [Nat.reducePow] at top low bound
  rw [Nat.mod_eq_of_lt (show x.toNat / 1024 < 4 by omega)] at top
  refine (and_congr_right' BitVec.toNat_inj.symm).2 ?_
  rw [toNat_encodeOperand]
  unfold decodeOperand at h
  dsimp only at h
  split at h
  next main =>
    obtain rfl := Option.some.inj h
    exact ⟨rfl, by simp only [operandNumber]; omega⟩
  next opf =>
    split at h
    next =>
      obtain rfl := Option.some.inj h
      have := sub 0 4
      exact ⟨rfl, by simp only [operandNumber]; omega⟩
    next => cases h
  next latch =>
    split at h
    next assigned =>
      obtain rfl := Option.some.inj h
      have := sub 0 3
      exact ⟨decide_eq_true (by omega), by simp only [operandNumber]; omega⟩
    next => cases h
  next notMain notOpf notLatch =>
    have quarter : x.toNat / 1024 = 3 := by
      have : ¬(x.extractLsb' 10 2).toNat = 0 := notMain
      have : ¬(x.extractLsb' 10 2).toNat = 1 := notOpf
      have : ¬(x.extractLsb' 10 2).toNat = 2 := notLatch
      omega
    have level := sub 8 2
    split at h
    next queue =>
      split at h
      next assigned =>
        obtain rfl := Option.some.inj h
        have := sub 0 6
        have flag : ((x.extractLsb' 0 10).getLsbD 6).toNat = x.toNat / 2 ^ 6 % 2 := by
          rw [BitVec.getLsbD, Nat.toNat_testBit, low]
          omega
        exact ⟨rfl, by simp only [operandNumber]; omega⟩
      next => cases h
    next special =>
      split at h
      next listed =>
        obtain rfl := Option.some.inj h
        have := sub 0 8
        exact ⟨listed, by simp only [operandNumber]; omega⟩
      next => cases h
    next imm =>
      obtain rfl := Option.some.inj h
      have := sub 0 8
      exact ⟨rfl, by simp only [operandNumber]; omega⟩
    next notQueue notSpecial notImm =>
      have : ((x.extractLsb' 0 10).extractLsb' 8 2).toNat = 3 := by
        have : ¬((x.extractLsb' 0 10).extractLsb' 8 2).toNat = 0 := notQueue
        have : ¬((x.extractLsb' 0 10).extractLsb' 8 2).toNat = 1 := notSpecial
        have : ¬((x.extractLsb' 0 10).extractLsb' 8 2).toNat = 2 := notImm
        omega
      split at h
      next assigned =>
        obtain rfl := Option.some.inj h
        have := sub 0 6
        exact ⟨rfl, by simp only [operandNumber]; omega⟩
      next => cases h

theorem decodeOperand_eq_some_iff (x : BitVec 12) (o : Operand) :
    decodeOperand x = some o ↔ o.assigned = true ∧ encodeOperand o = x := by
  refine ⟨of_decodeOperand, ?_⟩
  rintro ⟨assigned, rfl⟩
  exact decodeOperand_encodeOperand o assigned

/-! ## Fields with a code for each value (R57, R176, R181, R183, R188) -/

theorem decodeRnd_eq_some_iff (x : BitVec 3) (r : Rnd) : decodeRnd x = some r ↔ encodeRnd r = x := by
  cases r <;> revert x <;> decide

theorem ofCode_eq_some_iff (x : BitVec 5) (t : Ty) : Ty.ofCode x = some t ↔ t.code = x := by
  cases t <;> revert x <;> decide

theorem decodeFs_eq_some_iff (x : BitVec 2) (v : FlagSel) : decodeFs x = some v ↔ encodeFs v = x := by
  cases v <;> revert x <;> decide

theorem decodeHint_eq_iff (x : BitVec 2) (v : Hint) : decodeHint x = v ↔ encodeHint v = x := by
  cases v <;> revert x <;> decide

theorem decodeScope_eq_iff (x : BitVec 2) (v : Scope) : decodeScope x = v ↔ encodeScope v = x := by
  cases v <;> revert x <;> decide

theorem decodeOrder_eq_iff (x : BitVec 2) (v : Order) : decodeOrder x = v ↔ encodeOrder v = x := by
  cases v <;> revert x <;> decide

theorem guardOf_eq_iff (g : Guard) (w : IWord) : guardOf w = g ↔ encodeGuard g = fld w 82 4 := by
  obtain ⟨neg, pred⟩ := g
  unfold guardOf
  generalize fld w 82 4 = x
  cases neg <;> revert pred x <;> decide

/-! ## Words, field by field -/

theorem append_eq_fld_iff {n m : Nat} (x : BitVec n) (y : BitVec m) (w : IWord) (lo : Nat) :
    x ++ y = fld w lo (n + m) ↔ x = fld w (lo + m) n ∧ y = fld w lo m := by
  have whole : fld w (lo + m) n ++ fld w lo m = fld w lo (n + m) :=
    BitVec.extractLsb'_append_extractLsb'_eq_extractLsb' rfl
  rw [← whole]
  constructor
  · intro h
    have high := congrArg (BitVec.extractLsb' m n) h
    have low := congrArg (BitVec.extractLsb' 0 m) h
    rw [BitVec.extractLsb'_append_eq_left, BitVec.extractLsb'_append_eq_left] at high
    rw [BitVec.extractLsb'_append_eq_right, BitVec.extractLsb'_append_eq_right] at low
    exact ⟨high, low⟩
  · rintro ⟨rfl, rfl⟩
    rfl

theorem fld_whole (w : IWord) : fld w 0 96 = w := BitVec.extractLsb'_eq_self

theorem encA_eq_iff (opc : BitVec 10) (g : Guard) (f : FmtA) (w : IWord) : encA opc g f = w ↔
    opc = fld w 86 10 ∧ guardOf w = g ∧ encodeOperand f.d = fld w 70 12 ∧ encodeOperand f.a = fld w 58 12 ∧
    encodeOperand f.b = fld w 46 12 ∧ encodeOperand f.c = fld w 34 12 ∧ encodeRnd f.rm = fld w 31 3 ∧
    f.ty.code = fld w 26 5 ∧ f.opm = fld w 18 8 ∧ f.pw = fld w 15 3 ∧ 0 = fld w 0 15 := by
  rw [guardOf_eq_iff, ← fld_whole w]
  unfold encA
  iterate 10 rw [append_eq_fld_iff]
  simp only [fld_whole]
  rfl

theorem encI_eq_iff (opc : BitVec 10) (g : Guard) (f : FmtI) (w : IWord) : encI opc g f = w ↔
    opc = fld w 86 10 ∧ guardOf w = g ∧ encodeOperand f.d = fld w 70 12 ∧ encodeOperand f.a = fld w 58 12 ∧
    encodeRnd f.rm = fld w 55 3 ∧ f.ty.code = fld w 50 5 ∧ f.opm = fld w 42 8 ∧ f.pw = fld w 39 3 ∧ 0 = fld w 32 7 ∧
    f.imm = fld w 0 32 := by
  rw [guardOf_eq_iff, ← fld_whole w]
  unfold encI
  iterate 9 rw [append_eq_fld_iff]
  simp only [fld_whole]
  rfl

theorem encM_eq_iff (opc : BitVec 10) (g : Guard) (f : FmtM) (w : IWord) : encM opc g f = w ↔
    opc = fld w 86 10 ∧ guardOf w = g ∧ encodeOperand f.data = fld w 70 12 ∧ encodeOperand f.addr = fld w 58 12 ∧
    encodeOperand f.index = fld w 46 12 ∧ f.off = fld w 22 24 ∧ encodeHint f.hint = fld w 20 2 ∧
    encodeScope f.scope = fld w 18 2 ∧ encodeOrder f.order = fld w 16 2 ∧ f.ty.code = fld w 11 5 ∧
    encodeFs f.fs = fld w 9 2 ∧ f.mmod = fld w 0 9 := by
  rw [guardOf_eq_iff, ← fld_whole w]
  unfold encM
  iterate 11 rw [append_eq_fld_iff]
  simp only [fld_whole]

theorem encB_eq_iff (opc : BitVec 10) (g : Guard) (f : FmtB) (w : IWord) : encB opc g f = w ↔
    opc = fld w 86 10 ∧ guardOf w = g ∧ f.off = fld w 58 24 ∧ f.slot = fld w 55 3 ∧ f.bar = fld w 51 4 ∧
    encodeOperand f.a = fld w 39 12 ∧ encodeOperand f.d = fld w 27 12 ∧ 0 = fld w 0 27 := by
  rw [guardOf_eq_iff, ← fld_whole w]
  unfold encB
  iterate 7 rw [append_eq_fld_iff]
  simp only [fld_whole]
  rfl

theorem encX_eq_iff (opc : BitVec 10) (g : Guard) (f : FmtX) (w : IWord) : encX opc g f = w ↔
    opc = fld w 86 10 ∧ guardOf w = g ∧ f.tile = fld w 79 3 ∧ f.swa = fld w 71 8 ∧ f.swb = fld w 63 8 ∧ f.swc = fld w 55 8 ∧
    encodeOperand f.ca = fld w 43 12 ∧ encodeOperand f.cb = fld w 31 12 ∧ encodeOperand f.cc = fld w 19 12 ∧
    f.xmod = fld w 3 16 ∧ encodeFs f.fs = fld w 1 2 ∧ 0 = fld w 0 1 := by
  rw [guardOf_eq_iff, ← fld_whole w]
  unfold encX
  iterate 11 rw [append_eq_fld_iff]
  simp only [fld_whole]
  rfl

theorem encS_eq_iff (opc : BitVec 10) (g : Guard) (f : FmtS) (w : IWord) : encS opc g f = w ↔
    opc = fld w 86 10 ∧ guardOf w = g ∧ f.pw = fld w 79 3 ∧ f.s7 = fld w 72 7 ∧ encodeOperand f.a = fld w 60 12 ∧
    encodeOperand f.b = fld w 48 12 ∧ encodeOperand f.c = fld w 36 12 ∧ encodeFs f.fs = fld w 34 2 ∧ 0 = fld w 32 2 ∧
    f.imm = fld w 0 32 := by
  rw [guardOf_eq_iff, ← fld_whole w]
  unfold encS
  iterate 9 rw [append_eq_fld_iff]
  simp only [fld_whole]
  rfl

theorem encBare_eq_iff (opc : BitVec 10) (g : Guard) (body : BitVec 82) (w : IWord) : encBare opc g body = w ↔
    opc = fld w 86 10 ∧ guardOf w = g ∧ body = fld w 0 82 := by
  rw [guardOf_eq_iff, ← fld_whole w]
  unfold encBare
  iterate 2 rw [append_eq_fld_iff]
  simp only [fld_whole]

/-! ## Formats: a word is parsed to the fields that it is the word of (R181 to R186) -/

theorem parseA_eq_some_iff (w : IWord) (f : FmtA) :
    parseA w = some f ↔ f.ops.all Operand.assigned = true ∧ encA (fld w 86 10) (guardOf w) f = w := by
  obtain ⟨d, a, b, c, rm, ty, opm, pw⟩ := f
  simp only [encA_eq_iff, parseA, Option.bind_eq_bind, Option.bind_eq_some_iff, Option.ite_none_right_eq_some,
    Option.some.injEq, FmtA.mk.injEq, decodeOperand_eq_some_iff, decodeRnd_eq_some_iff, ofCode_eq_some_iff,
    FmtA.ops, List.all_cons, List.all_nil, Bool.and_eq_true]
  grind

theorem parseI_eq_some_iff (w : IWord) (f : FmtI) :
    parseI w = some f ↔ [f.d, f.a].all Operand.assigned = true ∧ encI (fld w 86 10) (guardOf w) f = w := by
  obtain ⟨d, a, rm, ty, opm, pw, imm⟩ := f
  simp only [encI_eq_iff, parseI, Option.bind_eq_bind, Option.bind_eq_some_iff, Option.ite_none_right_eq_some,
    Option.some.injEq, FmtI.mk.injEq, decodeOperand_eq_some_iff, decodeRnd_eq_some_iff, ofCode_eq_some_iff,
    List.all_cons, List.all_nil, Bool.and_eq_true]
  grind

theorem parseM_eq_some_iff (w : IWord) (f : FmtM) :
    parseM w = some f ↔ f.ops.all Operand.assigned = true ∧ encM (fld w 86 10) (guardOf w) f = w := by
  obtain ⟨data, addr, index, off, hint, scope, order, ty, fs, mmod⟩ := f
  simp only [encM_eq_iff, parseM, Option.bind_eq_bind, Option.bind_eq_some_iff, Option.some.injEq, FmtM.mk.injEq,
    decodeOperand_eq_some_iff, decodeHint_eq_iff, decodeScope_eq_iff, decodeOrder_eq_iff, ofCode_eq_some_iff,
    decodeFs_eq_some_iff, FmtM.ops, List.all_cons, List.all_nil, Bool.and_eq_true]
  grind

theorem parseB_eq_some_iff (w : IWord) (f : FmtB) :
    parseB w = some f ↔ [f.a, f.d].all Operand.assigned = true ∧ encB (fld w 86 10) (guardOf w) f = w := by
  obtain ⟨off, slot, bar, a, d⟩ := f
  simp only [encB_eq_iff, parseB, Option.bind_eq_bind, Option.bind_eq_some_iff, Option.ite_none_right_eq_some,
    Option.some.injEq, FmtB.mk.injEq, decodeOperand_eq_some_iff, List.all_cons, List.all_nil,
    Bool.and_eq_true]
  grind

theorem parseX_eq_some_iff (w : IWord) (f : FmtX) :
    parseX w = some f ↔ [f.ca, f.cb, f.cc].all Operand.assigned = true ∧ encX (fld w 86 10) (guardOf w) f = w := by
  obtain ⟨tile, swa, swb, swc, ca, cb, cc, xmod, fs⟩ := f
  simp only [encX_eq_iff, parseX, Option.bind_eq_bind, Option.bind_eq_some_iff, Option.ite_none_right_eq_some,
    Option.some.injEq, FmtX.mk.injEq, decodeOperand_eq_some_iff, decodeFs_eq_some_iff, List.all_cons,
    List.all_nil, Bool.and_eq_true]
  grind

theorem parseS_eq_some_iff (w : IWord) (f : FmtS) :
    parseS w = some f ↔ f.ops.all Operand.assigned = true ∧ encS (fld w 86 10) (guardOf w) f = w := by
  obtain ⟨pw, s7, a, b, c, fs, imm⟩ := f
  simp only [encS_eq_iff, parseS, Option.bind_eq_bind, Option.bind_eq_some_iff, Option.ite_none_right_eq_some,
    Option.some.injEq, FmtS.mk.injEq, decodeOperand_eq_some_iff, decodeFs_eq_some_iff, FmtS.ops,
    List.all_cons, List.all_nil, Bool.and_eq_true]
  grind

theorem bareB_eq_some_iff (i j : Instr) (w : IWord) : bareB i w = some j ↔ i = j ∧ encBare (fld w 86 10) (guardOf w) 0#82 = w := by
  simp only [bareB, Option.ite_none_right_eq_some, Option.some.injEq, encBare_eq_iff, true_and]
  exact ⟨fun ⟨h, e⟩ => ⟨e, h.symm⟩, fun ⟨e, h⟩ => ⟨h.symm, e⟩⟩

theorem bareS_eq_some_iff (i j : Instr) (w : IWord) :
    bareS i w = some j ↔ i = j ∧ encBare (fld w 86 10) (guardOf w) (7#3 ++ 0#79) = w := by
  simp only [bareS, Option.ite_none_right_eq_some, Option.some.injEq, encBare_eq_iff, true_and]
  exact ⟨fun ⟨h, e⟩ => ⟨e, h.symm⟩, fun ⟨e, h⟩ => ⟨h.symm, e⟩⟩

/-! ## The opcode: a group and an index (R189) -/

theorem toNat_opcode (w : IWord) : (fld w 86 10).toNat = 64 * (fld w 92 4).toNat + (fld w 86 6).toNat := by
  simp only [fld, toNat_fld]
  omega

theorem opcode_eq {w : IWord} {g i : Nat} (group : (fld w 92 4).toNat = g) (index : (fld w 86 6).toNat = i) :
    fld w 86 10 = BitVec.ofNat 10 (64 * g + i) := by
  rw [← group, ← index, ← toNat_opcode, BitVec.ofNat_toNat, BitVec.setWidth_eq]

theorem group_of_opcode {w : IWord} {opc : BitVec 10} (h : fld w 86 10 = opc) : (fld w 92 4).toNat = opc.toNat / 64 := by
  have := toNat_opcode w
  rw [h] at this
  have := (fld w 86 6).isLt
  omega

theorem index_of_opcode {w : IWord} {opc : BitVec 10} (h : fld w 86 10 = opc) : (fld w 86 6).toNat = opc.toNat % 64 := by
  have := toNat_opcode w
  rw [h] at this
  have := (fld w 86 6).isLt
  omega

/-- What `decodeRaw` looks up in its tables. -/
def rowAt (w : IWord) (group index : Nat) : Option (Option Instr) :=
  match group with
  | 0x0 => decodeControl w index
  | 0x1 => decodeInteger w index
  | 0x2 => decodeAddress w index
  | 0x3 => decodeFp32 w index
  | 0x4 => decodeFp64 w index
  | 0x5 => decodeConvert w index
  | 0x6 => decodeSpecial w index
  | 0x7 => decodeLoadStore w index
  | 0x8 => decodeAtomics w index
  | 0x9 => decodeSync w index
  | 0xA => decodeQueues w index
  | 0xB => decodeCrossLane w index
  | 0xC => decodeRandom w index
  | 0xD => decodeMatrix w index
  | 0xE => decodeSystem w index
  | _ => decodeStream w index

/-- A row stands in the tables under the two parts of its opcode. -/
theorem decodeRaw_of_opcode {w : IWord} {opc : BitVec 10} (h : fld w 86 10 = opc) :
    decodeRaw w = rowAt w (opc.toNat / 64) (opc.toNat % 64) := by
  rw [← group_of_opcode h, ← index_of_opcode h]
  rfl

/-! ## From a word back to itself -/

/-- A format: how its fields are parsed and encoded, and the operands that its parser checks. -/
structure Format (F : Type) where
  parse : IWord → Option F
  enc : BitVec 10 → Guard → F → IWord
  operands : F → List Operand
  parse_iff : ∀ w f, parse w = some f ↔ (operands f).all Operand.assigned = true ∧ enc (fld w 86 10) (guardOf w) f = w
  opcode_guard : ∀ {opc g f w}, enc opc g f = w → opc = fld w 86 10 ∧ guardOf w = g

def formatA : Format FmtA where
  parse := parseA
  enc := encA
  operands := FmtA.ops
  parse_iff := parseA_eq_some_iff
  opcode_guard h := ((encA_eq_iff _ _ _ _).1 h).imp_right And.left

def formatI : Format FmtI where
  parse := parseI
  enc := encI
  operands := fun f => [f.d, f.a]
  parse_iff := parseI_eq_some_iff
  opcode_guard h := ((encI_eq_iff _ _ _ _).1 h).imp_right And.left

def formatM : Format FmtM where
  parse := parseM
  enc := encM
  operands := FmtM.ops
  parse_iff := parseM_eq_some_iff
  opcode_guard h := ((encM_eq_iff _ _ _ _).1 h).imp_right And.left

def formatB : Format FmtB where
  parse := parseB
  enc := encB
  operands := fun f => [f.a, f.d]
  parse_iff := parseB_eq_some_iff
  opcode_guard h := ((encB_eq_iff _ _ _ _).1 h).imp_right And.left

def formatX : Format FmtX where
  parse := parseX
  enc := encX
  operands := fun f => [f.ca, f.cb, f.cc]
  parse_iff := parseX_eq_some_iff
  opcode_guard h := ((encX_eq_iff _ _ _ _).1 h).imp_right And.left

def formatS : Format FmtS where
  parse := parseS
  enc := encS
  operands := FmtS.ops
  parse_iff := parseS_eq_some_iff
  opcode_guard h := ((encS_eq_iff _ _ _ _).1 h).imp_right And.left

section
variable {F : Type} {w : IWord} {i : Instr} {opc : BitVec 10}

theorem Format.encode_of_parse (K : Format F) {mk : F → Instr} (h : some ((K.parse w).map mk) = some (some i))
    (opcode : fld w 86 10 = opc) (row : ∀ g f, encode g (mk f) = some (K.enc opc g f)) : encode (guardOf w) i = some w := by
  obtain ⟨f, parsed, rfl⟩ := Option.map_eq_some_iff.1 (Option.some.inj h)
  rw [row, ← opcode, ((K.parse_iff w f).1 parsed).2]

theorem encode_of_bareB {j : Instr} (h : some (bareB j w) = some (some i)) (opcode : fld w 86 10 = opc)
    (row : ∀ g, encode g j = some (encBare opc g 0#82)) : encode (guardOf w) i = some w := by
  obtain ⟨rfl, whole⟩ := (bareB_eq_some_iff j i w).1 (Option.some.inj h)
  rw [row, ← opcode, whole]

theorem encode_of_bareS {j : Instr} (h : some (bareS j w) = some (some i)) (opcode : fld w 86 10 = opc)
    (row : ∀ g, encode g j = some (encBare opc g (7#3 ++ 0#79))) : encode (guardOf w) i = some w := by
  obtain ⟨rfl, whole⟩ := (bareS_eq_some_iff j i w).1 (Option.some.inj h)
  rw [row, ← opcode, whole]

end

section
variable {w : IWord} {i : Instr} {n : Nat}

theorem encode_decodeControl (h : decodeControl w n = some (some i)) (opcode : fld w 86 10 = BitVec.ofNat 10 (64 * 0x0 + n)) :
    encode (guardOf w) i = some w := by
  unfold decodeControl at h
  split at h
  case h_1 | h_7 | h_12 => exact encode_of_bareB h opcode fun _ => rfl
  case h_13 => cases h
  all_goals exact formatB.encode_of_parse h opcode fun _ _ => rfl

theorem encode_decodeInteger (h : decodeInteger w n = some (some i)) (opcode : fld w 86 10 = BitVec.ofNat 10 (64 * 0x1 + n)) :
    encode (guardOf w) i = some w := by
  unfold decodeInteger at h
  split at h
  case h_28 => exact formatI.encode_of_parse h opcode fun _ _ => rfl
  case h_33 => cases h
  all_goals exact formatA.encode_of_parse h opcode fun _ _ => rfl

theorem encode_decodeAddress (h : decodeAddress w n = some (some i)) (opcode : fld w 86 10 = BitVec.ofNat 10 (64 * 0x2 + n)) :
    encode (guardOf w) i = some w := by
  unfold decodeAddress at h
  split at h
  case h_12 => exact formatB.encode_of_parse h opcode fun _ _ => rfl
  case h_13 => cases h
  all_goals exact formatA.encode_of_parse h opcode fun _ _ => rfl

theorem encode_decodeFp32 (h : decodeFp32 w n = some (some i)) (opcode : fld w 86 10 = BitVec.ofNat 10 (64 * 0x3 + n)) :
    encode (guardOf w) i = some w := by
  unfold decodeFp32 at h
  split at h
  case h_25 => cases h
  all_goals exact formatA.encode_of_parse h opcode fun _ _ => rfl

theorem encode_decodeFp64 (h : decodeFp64 w n = some (some i)) (opcode : fld w 86 10 = BitVec.ofNat 10 (64 * 0x4 + n)) :
    encode (guardOf w) i = some w := by
  unfold decodeFp64 at h
  split at h
  case h_13 => cases h
  all_goals exact formatA.encode_of_parse h opcode fun _ _ => rfl

theorem encode_decodeConvert (h : decodeConvert w n = some (some i)) (opcode : fld w 86 10 = BitVec.ofNat 10 (64 * 0x5 + n)) :
    encode (guardOf w) i = some w := by
  unfold decodeConvert at h
  split at h
  case h_13 => cases h
  all_goals exact formatA.encode_of_parse h opcode fun _ _ => rfl

theorem encode_decodeSpecial (h : decodeSpecial w n = some (some i)) (opcode : fld w 86 10 = BitVec.ofNat 10 (64 * 0x6 + n)) :
    encode (guardOf w) i = some w := by
  unfold decodeSpecial at h
  split at h
  case h_13 => cases h
  all_goals exact formatA.encode_of_parse h opcode fun _ _ => rfl

theorem encode_decodeLoadStore (h : decodeLoadStore w n = some (some i)) (opcode : fld w 86 10 = BitVec.ofNat 10 (64 * 0x7 + n)) :
    encode (guardOf w) i = some w := by
  unfold decodeLoadStore at h
  split at h
  case h_17 => cases h
  all_goals exact formatM.encode_of_parse h opcode fun _ _ => rfl

theorem encode_decodeAtomics (h : decodeAtomics w n = some (some i)) (opcode : fld w 86 10 = BitVec.ofNat 10 (64 * 0x8 + n)) :
    encode (guardOf w) i = some w := by
  unfold decodeAtomics at h
  split at h
  case h_13 => cases h
  all_goals exact formatM.encode_of_parse h opcode fun _ _ => rfl

theorem encode_decodeSync (h : decodeSync w n = some (some i)) (opcode : fld w 86 10 = BitVec.ofNat 10 (64 * 0x9 + n)) :
    encode (guardOf w) i = some w := by
  unfold decodeSync at h
  split at h
  case h_2 => exact formatM.encode_of_parse h opcode fun _ _ => rfl
  case h_6 | h_8 | h_9 | h_11 | h_13 => exact encode_of_bareS h opcode fun _ => rfl
  case h_14 | h_17 | h_19 => exact formatA.encode_of_parse h opcode fun _ _ => rfl
  case h_21 => cases h
  all_goals exact formatS.encode_of_parse h opcode fun _ _ => rfl

theorem encode_decodeQueues (h : decodeQueues w n = some (some i)) (opcode : fld w 86 10 = BitVec.ofNat 10 (64 * 0xA + n)) :
    encode (guardOf w) i = some w := by
  unfold decodeQueues at h
  split at h
  case h_4 | h_6 | h_7 | h_8 | h_9 | h_12 => exact formatS.encode_of_parse h opcode fun _ _ => rfl
  case h_13 => cases h
  all_goals exact formatA.encode_of_parse h opcode fun _ _ => rfl

theorem encode_decodeCrossLane (h : decodeCrossLane w n = some (some i)) (opcode : fld w 86 10 = BitVec.ofNat 10 (64 * 0xB + n)) :
    encode (guardOf w) i = some w := by
  unfold decodeCrossLane at h
  split at h
  case h_17 => cases h
  all_goals exact formatA.encode_of_parse h opcode fun _ _ => rfl

theorem encode_decodeRandom (h : decodeRandom w n = some (some i)) (opcode : fld w 86 10 = BitVec.ofNat 10 (64 * 0xC + n)) :
    encode (guardOf w) i = some w := by
  unfold decodeRandom at h
  split at h
  case h_13 => cases h
  all_goals exact formatA.encode_of_parse h opcode fun _ _ => rfl

theorem encode_decodeMatrix (h : decodeMatrix w n = some (some i)) (opcode : fld w 86 10 = BitVec.ofNat 10 (64 * 0xD + n)) :
    encode (guardOf w) i = some w := by
  unfold decodeMatrix at h
  split at h
  case h_13 | h_14 => exact encode_of_bareS h opcode fun _ => rfl
  case h_15 => cases h
  all_goals exact formatX.encode_of_parse h opcode fun _ _ => rfl

theorem encode_decodeSystem (h : decodeSystem w n = some (some i)) (opcode : fld w 86 10 = BitVec.ofNat 10 (64 * 0xE + n)) :
    encode (guardOf w) i = some w := by
  unfold decodeSystem at h
  split at h
  case h_2 | h_14 | h_15 | h_16 => exact encode_of_bareS h opcode fun _ => rfl
  case h_3 | h_4 | h_12 => exact formatA.encode_of_parse h opcode fun _ _ => rfl
  case h_21 => cases h
  all_goals exact formatS.encode_of_parse h opcode fun _ _ => rfl

theorem encode_decodeStream (h : decodeStream w n = some (some i)) (opcode : fld w 86 10 = BitVec.ofNat 10 (64 * 0xF + n)) :
    encode (guardOf w) i = some w := by
  unfold decodeStream at h
  split at h
  case h_1 => exact formatB.encode_of_parse h opcode fun _ _ => rfl
  case h_2 | h_15 => exact encode_of_bareS h opcode fun _ => rfl
  case h_6 => exact formatI.encode_of_parse h opcode fun _ _ => rfl
  case h_10 | h_11 | h_12 | h_13 | h_14 => exact formatM.encode_of_parse h opcode fun _ _ => rfl
  case h_16 => exact formatS.encode_of_parse h opcode fun _ _ => rfl
  case h_17 => cases h
  all_goals exact formatA.encode_of_parse h opcode fun _ _ => rfl

end

/-- A word that names an instruction is the word of that instruction. -/
theorem encode_of_decodeRaw {w : IWord} {i : Instr} (h : decodeRaw w = some (some i)) : encode (guardOf w) i = some w := by
  unfold decodeRaw at h
  dsimp only at h
  split at h
  next group => exact encode_decodeControl h (opcode_eq group rfl)
  next group => exact encode_decodeInteger h (opcode_eq group rfl)
  next group => exact encode_decodeAddress h (opcode_eq group rfl)
  next group => exact encode_decodeFp32 h (opcode_eq group rfl)
  next group => exact encode_decodeFp64 h (opcode_eq group rfl)
  next group => exact encode_decodeConvert h (opcode_eq group rfl)
  next group => exact encode_decodeSpecial h (opcode_eq group rfl)
  next group => exact encode_decodeLoadStore h (opcode_eq group rfl)
  next group => exact encode_decodeAtomics h (opcode_eq group rfl)
  next group => exact encode_decodeSync h (opcode_eq group rfl)
  next group => exact encode_decodeQueues h (opcode_eq group rfl)
  next group => exact encode_decodeCrossLane h (opcode_eq group rfl)
  next group => exact encode_decodeRandom h (opcode_eq group rfl)
  next group => exact encode_decodeMatrix h (opcode_eq group rfl)
  next group => exact encode_decodeSystem h (opcode_eq group rfl)
  next =>
    have group : (fld w 92 4).toNat = 0xF := by
      have := (fld w 92 4).isLt
      simp only [imp_false] at *
      omega
    exact encode_decodeStream h (opcode_eq group rfl)

/-! ## Well-formed instructions have no field that is unassigned (R177) -/

theorem Operand.assigned_of_zero {o : Operand} (h : o.zero = true) : o.assigned = true := by
  rw [of_decide_eq_true h]
  rfl

theorem Operand.assigned_of_isMain {o : Operand} (h : o.isMain = true) : o.assigned = true := by
  cases o with
  | main k => rfl
  | opf k | latch k | queue k nb | special c | imm x | wreg k => cases h

theorem Operand.assigned_of_accessOk {o : Operand} (h : o.accessOk = true) : o.assigned = true := by
  cases o with
  | special c =>
    have listed : specialAccess c = true := h
    show specialOk c = true
    simp only [specialAccess, specialOk, Bool.or_eq_true, Bool.and_eq_true, decide_eq_true_eq] at listed ⊢
    omega
  | latch k => cases h
  | main k | opf k | queue k nb | imm x | wreg k => rfl

theorem all_assigned_of_accessOk {l : List Operand} (h : l.all Operand.accessOk = true) : l.all Operand.assigned = true :=
  List.all_eq_true.2 fun o ho => Operand.assigned_of_accessOk (List.all_eq_true.1 h o ho)

section
variable {f : FmtA} {tys d a b c opm modes own : Bool}

theorem FmtA.assigned_of_chk (h : f.chk tys d a b c opm modes own = true) : f.ops.all Operand.assigned = true := by
  simp only [FmtA.chk, Bool.and_eq_true] at h
  exact h.1.1.1.1.1.1.1.1

theorem FmtA.assigned_of_chkNoQ (h : f.chkNoQ tys d a b c opm own = true) : f.ops.all Operand.assigned = true := by
  simp only [FmtA.chkNoQ, Bool.and_eq_true] at h
  exact FmtA.assigned_of_chk h.1

theorem FmtA.assigned_of_cvt {ok : Ty → Bool} (h : f.cvt ok d a b c opm modes = true) : f.ops.all Operand.assigned = true := by
  unfold FmtA.cvt at h
  split at h
  · cases h
  · simp only [Bool.and_eq_true] at h
    exact h.1.1.1.1.1.1.1.1

theorem FmtA.assigned_of_stream {n : Nat} (h : f.stream n = true) : f.ops.all Operand.assigned = true := by
  simp only [FmtA.stream, Bool.and_eq_true] at h
  exact all_assigned_of_accessOk h.1.1.1.1.1.1.1.1.1.1

end

section
variable {f : FmtM} {tys data addr index ord mmod pred scratch fs : Bool}

theorem FmtM.assigned_of_chk (h : f.chk tys data addr index ord mmod = true) : f.ops.all Operand.assigned = true := by
  simp only [FmtM.chk, Bool.and_eq_true] at h
  exact h.1.1.1.1.1.1.1

theorem FmtM.assigned_of_atom (h : f.atom tys data index mmod pred scratch = true) : f.ops.all Operand.assigned = true := by
  simp only [FmtM.atom, Bool.and_eq_true] at h
  exact FmtM.assigned_of_chk h.1

theorem FmtM.assigned_of_stream (h : f.stream tys data index ord mmod fs = true) : f.ops.all Operand.assigned = true := by
  simp only [FmtM.stream, Bool.and_eq_true] at h
  exact all_assigned_of_accessOk h.1.1.1.1.1.1.1.1

end

theorem FmtB.assigned_of_chk {f : FmtB} {target bar a d : Bool} (h : f.chk target bar a d = true) :
    [f.a, f.d].all Operand.assigned = true := by
  simp only [FmtB.chk, Bool.and_eq_true] at h
  obtain ⟨⟨⟨⟨⟨⟨ha, hd⟩, _⟩, _⟩, _⟩, _⟩, _⟩ := h
  simp [ha, hd]

theorem FmtS.assigned_of_chk {f : FmtS} {pw s7 a b c fs imm : Bool} (h : f.chk pw s7 a b c fs imm = true) :
    f.ops.all Operand.assigned = true := by
  simp only [FmtS.chk, Bool.and_eq_true] at h
  exact h.1.1.1.1.1.1.1.1

theorem FmtI.assigned_of_zero {f : FmtI} (d : f.d.assigned = true) (a : f.a.zero = true) :
    [f.d, f.a].all Operand.assigned = true := by
  simp [d, Operand.assigned_of_zero a]

theorem FmtX.assigned_of_coord {o : Operand} (h : FmtX.coord o = true) : o.assigned = true := (Bool.and_eq_true_iff.1 h).2

theorem FmtX.assigned_of_mainPair {o : Operand} (h : FmtX.mainPair o = true) : o.assigned = true :=
  Operand.assigned_of_isMain (Bool.and_eq_true_iff.1 h).1

/-- The third operand is checked in the way of its form. -/
theorem FmtX.assigned_of_chk {f : FmtX} {tile swa swb swc ca cb cc xmod fs : Bool}
    (h : f.chk tile swa swb swc ca cb cc xmod fs = true) (third : cc = true → f.cc.assigned = true) :
    [f.ca, f.cb, f.cc].all Operand.assigned = true := by
  have used (b : Bool) (o : Operand) (h : (if b then FmtX.coord o else o.zero) = true) : o.assigned = true := by
    cases b
    · exact Operand.assigned_of_zero h
    · exact FmtX.assigned_of_coord h
  simp only [FmtX.chk, Bool.and_eq_true] at h
  obtain ⟨⟨⟨⟨⟨_, hca⟩, hcb⟩, hcc⟩, _⟩, _⟩ := h
  simp [used ca f.ca hca, used cb f.cb hcb, third hcc]

/-! ## From an instruction to its word and back -/

section
variable {w : IWord} {opc : BitVec 10} {g : Guard}

theorem Format.decodeRaw_enc {F : Type} (K : Format F) {mk : F → Instr} {f : F} (word : some (K.enc opc g f) = some w)
    (row : ∀ w, rowAt w (opc.toNat / 64) (opc.toNat % 64) = some ((K.parse w).map mk))
    (assigned : (K.operands f).all Operand.assigned = true) : decodeRaw w = some (some (mk f)) := by
  obtain ⟨opcode, guard⟩ := K.opcode_guard (Option.some.inj word)
  obtain rfl := Option.some.inj word
  rw [decodeRaw_of_opcode opcode.symm, row, (K.parse_iff _ f).2 ⟨assigned, by rw [← opcode, guard]⟩]
  rfl

theorem decodeRaw_bareB {i : Instr} (word : some (encBare opc g 0#82) = some w)
    (row : ∀ w, rowAt w (opc.toNat / 64) (opc.toNat % 64) = some (bareB i w)) : decodeRaw w = some (some i) := by
  obtain rfl := Option.some.inj word
  obtain ⟨opcode, guard, _⟩ := (encBare_eq_iff opc g 0#82 _).1 rfl
  rw [decodeRaw_of_opcode opcode.symm, row, (bareB_eq_some_iff i i _).2 ⟨rfl, by rw [← opcode, guard]⟩]

theorem decodeRaw_bareS {i : Instr} (word : some (encBare opc g (7#3 ++ 0#79)) = some w)
    (row : ∀ w, rowAt w (opc.toNat / 64) (opc.toNat % 64) = some (bareS i w)) : decodeRaw w = some (some i) := by
  obtain rfl := Option.some.inj word
  obtain ⟨opcode, guard, _⟩ := (encBare_eq_iff opc g (7#3 ++ 0#79) _).1 rfl
  rw [decodeRaw_of_opcode opcode.symm, row, (bareS_eq_some_iff i i _).2 ⟨rfl, by rw [← opcode, guard]⟩]

end

theorem guardOf_encode {g : Guard} {i : Instr} {w : IWord} (h : encode g i = some w) : guardOf w = g := by
  cases i with
  | memoryAccessDone | clauseStart | launchRegister | lqcfgWrite | lqbaseWrite | registerWrite
  | applicationCoreMemoryAccess | waitaRecheck | barrierPhaseComplete | barrierDeadlock | gridbarComplete | tokenArrives
  | graceComplete | internalGrace | pauseExpiry | queuePushUnblock | queuePopUnblock | copyAccept | copyDone | waitwpWake
  | collectiveIssue | rejoinRelease | convergenceTimeout | popBarrierClose | stragglerDeadline | arrivalReport
  | matrixOpComplete | leaseHandoff | tileBindGrant | tileBindTimeout | regrowGrant | regrowFailTimeout
  | translationWalkDone | xlinvGranule | xlinvContext | xlinvAll | fqresumeResume | fqresumeKill | fqtailWrite
  | fqbaseWrite | doneWordWrite | swapOut | reduceBlockDispatch | collectiveTimeout | reduceBlockDone | loadRequest
  | store | atomic | combinedAtomic | loadReply | acknowledgement | multicastStore | copyWrite | recoveryToken
  | lossNotice | invalidPacket | fatalErrorReport | routerHoldTimeout | lossTimeout | flitCrcFail | laneFailure | linkDown
  | linkUp | fxmcdataWrite | preempt | resume | contextRestore | rprun | rpclose | rpend | getMeasurements | elreadWrite
  | elckpt | subcmdCore | subcmdSlice | subcmdChannel | pwclkWrite | pwgateWrite | pwrefWrite | pwtripclr | thermalTrip
  | correctedError | copyLineDelivered | relayedPacket | controlCoreFirmwareReload | xlinvComplete | dependencePoll
  | dispatchWorkgroup | tokenReissue | mcUpdateDone | preemptSaveComplete | courseCommit | substitutionDone
  | errorCountHour | reset | clockChangeEffective | hostCommandedPowerDown => cases h
  | nop | ret | exit | gridbar | rowait | ropass | mile | rsecEnd | macq | mrel | brk | tdone | iflush | dwsync | aend
  | astop => exact ((encBare_eq_iff _ g _ w).1 (Option.some.inj h)).2.1
  | add f | sub f | mul f | mulhi f | mad f | div f | rem f | min f | max f | abs f | neg f | and f | or f | xor f | not f
  | brev f | shl f | shr f | rot f | popc f | clz f | ctz f | bfx f | bfi f | cmp f | sel f | mov f | lut3 f | plut3 f
  | ppack f | punpack f | lea f | addc f | subc f | mulw f | madw f | pack f | regaddr f | peeraddr f | spaddr f
  | alignup f | inrange f | fadd2 f | fdot2 f | fcmp f | fhsel f | fadd2F64 f | fcmpF64 f | fclassF64 f | cvtQ4 f
  | cvtF32Q4 f | rsdepth f | balloc f | bpstat f | push f | pop f | qpeek f | qstat f | ldwp f | waitwp f | lwcvt f
  | lwf f | rdarch f | fadd f | fsub f | fmul f | fma f | fmin f | fmax f | fminp f | fmaxp f | fclamp f | fabs f | fneg f
  | fcopysign f | fsign f | fabsdiff f | fclass f | frnd f | ffract f | fscale f | fgetexp f | fgetman f | faddF64 f
  | fsubF64 f | fmulF64 f | fmaF64 f | fminF64 f | fmaxF64 f | frndF64 f | fdivF64 f | fsqrtF64 f | rcp f | sqrt f
  | rsqrt f | fdivF32 f | exp2 f | log2 f | exp f | log f | sinpi f | cospi f | tanh f | logistic f | cvt f | cvtF2i f
  | cvtI2f f | cvtI2i f | cvtPk2 f | cvtPk4 f | cvtUnpk2 f | cvtUnpk4 f | cvtsc f | cvtscPk4 f | xlAt f | xlBelow f
  | xlAbove f | xlXor f | quadx f | quadb f | vote f | ballot f | lred f | flred f | scan f | fscan f | peers f | same f
  | present f | first f | rndCg10 f | rnd4Cg10 f | rndkCg10 f | unif f | rkey f | addlw f | pwadd f | rsb f | psetroot f
  | lwe f | tnext f | crd f | aadd f | asub f | amad f | amin f | aand f | ashr f =>
    exact (formatA.opcode_guard (Option.some.inj h)).2
  | movi f | amovi f => exact (formatI.opcode_guard (Option.some.inj h)).2
  | ld f | st f | ld4 f | st4 f | lds f | sts f | lds4 f | sts4 f | stmc f | ldu f | ldl f | stl f | zline f | cwb f
  | cinv f | waita f | pf f | atom f | cas f | red f | fatom f | fred f | atominc f | atomdec f | atoms f | cass f
  | reds f | fatoms f | freds f | ald f | apush f | agath f | ast f | apf f =>
    exact (formatM.opcode_guard (Option.some.inj h)).2
  | bra f | brt f | brx f | call f | callx f | enrol f | rejoin f | bclr f | bread f | lpc f | aloop f =>
    exact (formatB.opcode_guard (Option.some.inj h)).2
  | mma f | mmas f | tzero f | trel f | swinv f | tld f | tst f | trd f | twr f | tscl f | qsm f | spgen f =>
    exact (formatX.opcode_guard (Option.some.inj h)).2
  | fence f | bar f | barArrive f | barWait f | cwait f | rowhold f | rsecBegin f | grace f | dfree f | bfree f | pause f
  | qcfg f | cpkill f | trap f | tres f | tskip f | tstep f | tkill f | tstop f | csave f | cload f | cwr f | hnotify f
  | regrow f | regshrink f | launch f | afence f | cpy f | cpy2d f | cpymc f | cpfill f =>
    exact (formatS.opcode_guard (Option.some.inj h)).2

/-- The word of a well-formed instruction names that instruction. -/
theorem decodeRaw_encode {g : Guard} {i : Instr} {w : IWord} (wf : i.wf = true) (h : encode g i = some w) :
    decodeRaw w = some (some i) := by
  cases i with
  | memoryAccessDone | clauseStart | launchRegister | lqcfgWrite | lqbaseWrite | registerWrite
  | applicationCoreMemoryAccess | waitaRecheck | barrierPhaseComplete | barrierDeadlock | gridbarComplete | tokenArrives
  | graceComplete | internalGrace | pauseExpiry | queuePushUnblock | queuePopUnblock | copyAccept | copyDone | waitwpWake
  | collectiveIssue | rejoinRelease | convergenceTimeout | popBarrierClose | stragglerDeadline | arrivalReport
  | matrixOpComplete | leaseHandoff | tileBindGrant | tileBindTimeout | regrowGrant | regrowFailTimeout
  | translationWalkDone | xlinvGranule | xlinvContext | xlinvAll | fqresumeResume | fqresumeKill | fqtailWrite
  | fqbaseWrite | doneWordWrite | swapOut | reduceBlockDispatch | collectiveTimeout | reduceBlockDone | loadRequest
  | store | atomic | combinedAtomic | loadReply | acknowledgement | multicastStore | copyWrite | recoveryToken
  | lossNotice | invalidPacket | fatalErrorReport | routerHoldTimeout | lossTimeout | flitCrcFail | laneFailure | linkDown
  | linkUp | fxmcdataWrite | preempt | resume | contextRestore | rprun | rpclose | rpend | getMeasurements | elreadWrite
  | elckpt | subcmdCore | subcmdSlice | subcmdChannel | pwclkWrite | pwgateWrite | pwrefWrite | pwtripclr | thermalTrip
  | correctedError | copyLineDelivered | relayedPacket | controlCoreFirmwareReload | xlinvComplete | dependencePoll
  | dispatchWorkgroup | tokenReissue | mcUpdateDone | preemptSaveComplete | courseCommit | substitutionDone
  | errorCountHour | reset | clockChangeEffective | hostCommandedPowerDown => cases h
  | nop | ret | exit => exact decodeRaw_bareB h fun _ => rfl
  | gridbar | rowait | ropass | mile | rsecEnd | macq | mrel | brk | tdone | iflush | dwsync | aend | astop =>
    exact decodeRaw_bareS h fun _ => rfl
  | shl f | shr f | rot f | popc f | clz f | ctz f | bfx f | bfi f | cmp f | sel f | mov f | lut3 f | plut3 f | ppack f
  | punpack f | lea f | addc f | subc f | mulw f | madw f | pack f | regaddr f | peeraddr f | spaddr f | alignup f
  | inrange f | fadd2 f | fdot2 f | fcmp f | fhsel f | fadd2F64 f | fcmpF64 f | fclassF64 f | cvtQ4 f | cvtF32Q4 f
  | rsdepth f | balloc f | bpstat f | push f | pop f | qpeek f | qstat f | ldwp f | waitwp f | lwcvt f | lwf f | rdarch f
  | add f | sub f | mul f | mulhi f | mad f | div f | rem f | min f | max f | abs f | neg f | and f | or f | xor f | not f
  | brev f | fadd f | fsub f | fmul f | fma f | fmin f | fmax f | fminp f | fmaxp f | fclamp f | fabs f | fneg f
  | fcopysign f | fsign f | fabsdiff f | fclass f | frnd f | ffract f | fscale f | fgetexp f | fgetman f | faddF64 f
  | fsubF64 f | fmulF64 f | fmaF64 f | fminF64 f | fmaxF64 f | frndF64 f | fdivF64 f | fsqrtF64 f | rcp f | sqrt f
  | rsqrt f | fdivF32 f | exp2 f | log2 f | exp f | log f | sinpi f | cospi f | tanh f | logistic f =>
    exact formatA.decodeRaw_enc h (fun _ => rfl) (FmtA.assigned_of_chk wf)
  | rndCg10 f | rnd4Cg10 f | rndkCg10 f | unif f | rkey f | addlw f | pwadd f | rsb f | psetroot f | lwe f | tnext f
  | crd f | xlAt f | xlBelow f | xlAbove f | xlXor f | quadx f | quadb f | vote f | ballot f | lred f | flred f | scan f
  | fscan f | peers f | same f | present f | first f =>
    exact formatA.decodeRaw_enc h (fun _ => rfl) (FmtA.assigned_of_chkNoQ wf)
  | cvt f | cvtF2i f | cvtI2f f | cvtI2i f | cvtPk2 f | cvtPk4 f | cvtUnpk2 f | cvtUnpk4 f | cvtsc f | cvtscPk4 f =>
    exact formatA.decodeRaw_enc h (fun _ => rfl) (FmtA.assigned_of_cvt wf)
  | aadd f | asub f | amad f | amin f | aand f | ashr f =>
    exact formatA.decodeRaw_enc h (fun _ => rfl) (FmtA.assigned_of_stream wf)
  | movi f =>
    simp only [Instr.wf, Bool.and_eq_true] at wf
    obtain ⟨⟨⟨⟨⟨⟨assigned, _⟩, unused⟩, _⟩, _⟩, _⟩, _⟩ := wf
    exact formatI.decodeRaw_enc h (fun _ => rfl) (FmtI.assigned_of_zero assigned unused)
  | amovi f =>
    simp only [Instr.wf, Bool.and_eq_true] at wf
    obtain ⟨⟨⟨⟨⟨⟨⟨assigned, _⟩, _⟩, unused⟩, _⟩, _⟩, _⟩, _⟩ := wf
    exact formatI.decodeRaw_enc h (fun _ => rfl) (FmtI.assigned_of_zero (Operand.assigned_of_accessOk assigned) unused)
  | ld f | st f | ld4 f | st4 f | lds f | sts f | lds4 f | sts4 f | stmc f | ldu f | ldl f | stl f | zline f | cwb f
  | cinv f | waita f => exact formatM.decodeRaw_enc h (fun _ => rfl) (FmtM.assigned_of_chk wf)
  | pf f => exact formatM.decodeRaw_enc h (fun _ => rfl) (FmtM.assigned_of_chk (Bool.and_eq_true_iff.1 wf).1)
  | atom f | cas f | red f | fatom f | fred f | atominc f | atomdec f | atoms f | cass f | reds f | fatoms f | freds f =>
    exact formatM.decodeRaw_enc h (fun _ => rfl) (FmtM.assigned_of_atom wf)
  | ald f | apush f | agath f | ast f | apf f => exact formatM.decodeRaw_enc h (fun _ => rfl) (FmtM.assigned_of_stream wf)
  | bra f | brt f | brx f | call f | callx f | enrol f | rejoin f | bclr f | bread f | lpc f | aloop f =>
    exact formatB.decodeRaw_enc h (fun _ => rfl) (FmtB.assigned_of_chk wf)
  | fence f | bar f | barArrive f | barWait f | cwait f | rowhold f | rsecBegin f | grace f | dfree f | bfree f | pause f
  | qcfg f | cpkill f | trap f | tres f | tskip f | tstep f | tkill f | tstop f | csave f | cload f | cwr f | hnotify f
  | regrow f | regshrink f | launch f | afence f | cpy f | cpy2d f | cpymc f | cpfill f =>
    exact formatS.decodeRaw_enc h (fun _ => rfl) (FmtS.assigned_of_chk wf)
  | mma f | mmas f => exact formatX.decodeRaw_enc h (fun _ => rfl) (FmtX.assigned_of_chk wf FmtX.assigned_of_coord)
  | tzero f | trel f | swinv f | tld f | tst f =>
    exact formatX.decodeRaw_enc h (fun _ => rfl) (FmtX.assigned_of_chk wf Operand.assigned_of_zero)
  | trd f | twr f | tscl f => exact formatX.decodeRaw_enc h (fun _ => rfl) (FmtX.assigned_of_chk wf FmtX.assigned_of_mainPair)
  | qsm f | spgen f => exact formatX.decodeRaw_enc h (fun _ => rfl) (FmtX.assigned_of_chk wf Operand.assigned_of_isMain)

/-! ## The decoder -/

/-- The decoder accepts a word of an allowed group that names a well-formed instruction under a guard of its form (R190). -/
theorem decode_eq_ok_iff (access : Bool) (w : IWord) (i : Instr) : decode access w = .ok i ↔
    decodeRaw w = some (some i) ∧ groupAllowed access w = true ∧ i.wf = true ∧ i.guardOk (guardOf w) = true := by
  unfold decode
  constructor
  · intro h
    split at h
    · cases h
    · next r named =>
      split at h
      · next allowed =>
        split at h
        · cases h
        · next j =>
          split at h
          · next checks =>
            cases h
            exact ⟨named, allowed, Bool.and_eq_true_iff.1 checks⟩
          · cases h
      · cases h
  · rintro ⟨named, allowed, wf, guard⟩
    simp only [named, allowed, wf, guard, Bool.and_self, if_true]

/-- A word may stand in a line of the kind that its group calls for (R189). -/
theorem groupAllowed_isStreamWord (w : IWord) : groupAllowed (isStreamWord w) w = true := by
  unfold groupAllowed
  split
  · rfl
  · exact decide_eq_true rfl

/-- Settles O58: format by format a word is parsed to the fields that it is the word of, and the rows of the opcode table are the same in
the decoder and the encoder. -/
theorem decodeAndEncodeAgree : Obligations.DecodeAndEncodeAgree := by
  unfold Obligations.DecodeAndEncodeAgree
  refine ⟨fun g i w wf guard word => ?_, fun access w i h => ?_⟩
  · have hg := guardOf_encode word
    exact ⟨(decode_eq_ok_iff _ w i).2 ⟨decodeRaw_encode wf word, groupAllowed_isStreamWord w, wf, hg ▸ guard⟩, hg⟩
  · obtain ⟨named, _, wf, guard⟩ := (decode_eq_ok_iff access w i).1 h
    exact ⟨encode_of_decodeRaw named, wf, guard⟩

end Sys2Proof
end

section
/-! PROOFS. The floating-point forms of groups 0x3 and 0x4 (R217 to R221): the law of arithmetic gives everything but the value, and
the value is the model's own expression. -/

namespace Sys2Proof.Machine

/-- The packed types (R217). -/
theorem isPacked_iff (t : Ty) : isPacked t = true ↔ t = .f16 ∨ t = .bf16 := by cases t <;> decide

/-- A result on both elements of a packed type, or on the one of another. -/
theorem ite_isPacked (t : Ty) (both one : Nat) :
    (if isPacked t then both else one, false) = (if t = .f16 ∨ t = .bf16 then both else one, false) := by
  simp only [isPacked_iff]

/-- Settles O5: every form by the law of arithmetic, the packed types in words. -/
theorem floatForms : Obligations.FloatForms := by
  unfold Obligations.FloatForms
  intro f
  refine ⟨?fadd, ?fsub, ?fmul, ?fma, ?fmin, ?fmax, ?fminp, ?fmaxp, ?fclamp, ?fabs, ?fneg, ?fcopysign, ?fsign, ?fabsdiff, ?frnd,
    ?ffract, ?fscale, ?fhsel, ?fadd2, fun g hg => ?fdot2, ?fcmp, ?fclass, ?fgetexp, ?fgetman⟩
  case fadd | fsub | fmul | fma | fmin | fmax | fminp | fmaxp | fclamp | fabs | fneg | fcopysign | fsign | fabsdiff | frnd | ffract
      | fscale =>
    exact arithmeticForm_of_read (fun _ => rfl) fun _ _ => ite_isPacked f.ty _ _
  case fdot2 =>
    obtain rfl : f.ty2.getD .f16 = g := by rw [hg]; rfl
    exact arithmeticForm_of_read (fun _ => rfl) fun _ _ => rfl
  case fhsel | fadd2 | fcmp | fclass | fgetexp | fgetman => exact arithmeticForm_of_read (fun _ => rfl) fun _ _ => rfl

/-- Settles O6: every form by the law of arithmetic, its format being FP64. -/
theorem doubleForms : Obligations.DoubleForms := by
  unfold Obligations.DoubleForms
  rintro ⟨d, a, b, c, rm, ty, opm, pw⟩ (rfl : ty = .f64)
  refine ⟨?fadd, ?fsub, ?fmul, ?fma, ?fmin, ?fmax, ?frnd, ?fdiv, ?fsqrt, ?fadd2, ?fcmp, ?fclass⟩
  all_goals exact arithmeticForm_of_read (fun _ => rfl) fun _ _ => rfl

end Sys2Proof.Machine
end

section
/-! PROOFS. The special functions, LW64 weights and draws of a lane (R227, R281, R282, R309): forms of the law of arithmetic whose
values are the model's functions; what the codes of a weight stand for, in the statement's words. -/

namespace Sys2Proof.Machine

/-- The code of a finite weight is the nearest finite code (R309). -/
theorem lwCode_some (v : Int) : lwCode (some v) = truncN 64 (max (-0x7FFFFFFFFFFFFFFF) (min 0x7FFFFFFFFFFFFFFF v)) := by
  unfold lwCode
  dsimp only
  congr 1
  omega

/-- A sum of two codes, −∞ absorbing. -/
theorem lwCode_lwAdd (a b : Nat) : lwCode (lwAdd (lwVal a) (lwVal b)) =
    if a = 0x8000000000000000 ∨ b = 0x8000000000000000 then 0x8000000000000000
    else truncN 64 (max (-0x7FFFFFFFFFFFFFFF) (min 0x7FFFFFFFFFFFFFFF (sextN 64 a + sextN 64 b))) := by
  unfold lwVal
  by_cases ha : a = 0x8000000000000000
  · simp only [ha, true_or, if_true]
    rfl
  · by_cases hb : b = 0x8000000000000000
    · simp only [ha, hb, or_true, if_true, if_false]
      rfl
    · simp only [ha, hb, or_self, if_false]
      exact lwCode_some _

/-- A weight of a score (R309). -/
theorem lwOfF32_eq (x : Nat) : lwOfF32 x =
    match Flt.f32.dec x with
    | .nan => 0x8000000000000000
    | .inf true => 0x8000000000000000
    | .inf false => 0x7FFFFFFFFFFFFFFF
    | .fin neg n e =>
      truncN 64 (max (-0x7FFFFFFFFFFFFFFF) (min 0x7FFFFFFFFFFFFFFF (roundInt .rne 0 neg (n * 0x171547653) e))) := by
  unfold lwOfF32
  rcases Flt.f32.dec x with _ | (_ | _) | ⟨neg, n, e⟩
  · rfl
  · rfl
  · rfl
  · exact lwCode_some _

/-- A case on the value of a code is one on the code of −∞. -/
theorem match_lwVal {α : Type} (w : Nat) (none' : α) (some' : Int → α) :
    (match lwVal w with | none => none' | some v => some' v) = if w = 0x8000000000000000 then none' else some' (sextN 64 w) := by
  unfold lwVal
  by_cases h : w = 0x8000000000000000
  · simp only [h, if_true]
  · simp only [h, if_false]

/-- Settles O9: every form by the law of arithmetic; the values of weights by what their codes stand for. -/
theorem specialFunctions : Obligations.SpecialFunctions := by
  unfold Obligations.SpecialFunctions
  refine ⟨fun f => ⟨?rcp, ?sqrt, ?rsqrt, ?exp2, ?log2, ?exp, ?log, ?sinpi, ?cospi, ?tanh, ?logistic, ?fdiv⟩,
    fun f => ⟨?addlw, ?lwcvt, ?lwf, ?lwe, ?unif, ?rndk⟩⟩
  case rcp | sqrt | rsqrt | exp2 | log2 | exp | log | sinpi | cospi | tanh | logistic | fdiv | unif | rndk =>
    exact arithmeticForm_of_read (fun _ => rfl) fun _ _ => rfl
  case addlw => exact arithmeticForm_of_read (fun _ => rfl) fun _ _ => congrArg (·, false) (lwCode_lwAdd _ _)
  case lwcvt => exact arithmeticForm_of_read (fun _ => rfl) fun _ _ => congrArg (·, false) (lwOfF32_eq _)
  case lwf => exact arithmeticForm_of_read (fun _ => rfl) fun _ _ => congrArg (·, false) (match_lwVal _ _ _)
  case lwe => exact arithmeticForm_of_read (fun _ => rfl) fun _ _ => congrArg (·, false) (match_lwVal _ _ _)

/-- Settles O13: every draw by the law of the cross-lane forms. -/
theorem draws : Obligations.Draws := by
  unfold Obligations.Draws
  intro f
  refine ⟨?rnd, ?rnd4, ?rkey, fun s c k x h => ?key⟩
  case rnd | rnd4 | rkey => exact crossLaneForm_of (fun _ => rfl) rfl fun _ _ _ _ => rfl
  case key =>
    unfold warpKey
    rw [h]
    rfl

end Sys2Proof.Machine
end

section
/-! PROOFS. Comparison, selection and predicates (R181, R201): the forms that write one predicate or none by the law of arithmetic,
and `punpack`, whose predicate mask takes the bits of its source. -/

namespace Sys2Proof.Machine

/-! ## The predicates of a mask -/

/-- A lane whose first n predicates in the mask m have taken the bits of v. -/
def takeBits (m : BitVec 8) (v n : Nat) (y : Lane) : Lane :=
  (List.range n).foldl (fun y p => if m.getLsbD p then y.setPred p (v.testBit p) else y) y

theorem takeBits_succ (m : BitVec 8) (v n : Nat) (y : Lane) :
    takeBits m v (n + 1) y = if m.getLsbD n then (takeBits m v n y).setPred n (v.testBit n) else takeBits m v n y := by
  unfold takeBits
  rw [List.range_succ, List.foldl_append]
  rfl

/-- Only predicates change. -/
theorem takeBits_eq (m : BitVec 8) (v n : Nat) (y : Lane) : takeBits m v n y = { y with preds := (takeBits m v n y).preds } := by
  induction n with
  | zero => rfl
  | succ n ih =>
    rw [takeBits_succ]
    split
    · rw [ih]; rfl
    · exact ih

theorem takeBits_pred (m : BitVec 8) (v n j : Nat) (hn : n ≤ 7) (y : Lane) :
    (takeBits m v n y).pred j = if j < n ∧ m.getLsbD j = true then v.testBit j else y.pred j := by
  induction n with
  | zero => simp [takeBits]
  | succ n ih =>
    rw [takeBits_succ, apply_ite (Lane.pred · j), setPred_pred _ _ _ _ (by omega), ih (by omega)]
    by_cases hj : j = n
    · subst hj
      have not7 : j ≠ 7 := by omega
      simp [not7]
    · have below : j < n + 1 ↔ j < n := by omega
      simp [hj, below]

/-- No predicate changes under an empty mask. -/
theorem takeBits_zero (v n : Nat) (y : Lane) : takeBits 0 v n y = y := by
  induction n with
  | zero => rfl
  | succ n ih => rw [takeBits_succ, if_neg (by simp), ih]

/-! ## An instruction that writes no register -/

/-- The instruction boundary behind changes of predicates, latches and the spin detector alone. -/
theorem issued_of_keeps {s u : State} {x : Clause} {k : Nat} {w v : Warp} (h : Issues s x k w) (kept : Keeps s u x.core k w v)
    (pcs : ∀ l, (v.lanes.atD l Lane.never).pc = (w.lanes.atD l Lane.never).pc) (clauses : u.clauses = s.clauses) :
    Issued s (endIssue x u) x k ∧
      ∀ l, ((endIssue x u).lane x.core k l).pred = (v.lanes.atD l Lane.never).pred := by
  have going : v.stepping = none := by rw [kept.same]; exact h.going
  obtain ⟨v', hv, same, -, lanes, store, behind, rest⟩ := endIssue_spec h clauses kept.warp kept.lanes going h.lanes_ne
  have opf : v'.opf = w.opf := by rw [same, kept.same]
  have wreg : v'.wreg = w.wreg := by rw [same, kept.same]
  have all := kept.rest.trans rest
  refine ⟨⟨fun a => ?_, fun j l => ?_, fun j => ?_, fun l => ?_, fun l => ?_, behind, fun a => ?_, all⟩, fun l => ?_⟩
  · rw [store, kept.store]
  · simp only [State.opfWord, hv, h.warp, opf]
  · simp only [State.wreg, hv, h.warp, Warp.w32, wreg]
  · rw [lane_of_warp h.slot hv, lane_of_warp h.slot h.warp, lanes, apply_ite Lane.sp, kept.sp, ite_self]
  · rw [lane_of_warp h.slot hv, lane_of_warp h.slot h.warp, lanes, apply_ite Lane.pc, pcs]
  · have mem := congrArg State.mem all.rest
    exact congrArg (Mem.byte · a) mem
  · rw [lane_of_warp h.slot hv, lanes]
    split <;> rfl

/-! ## `punpack` (R201) -/

/-- What `punpack` does in the lanes of a warp, with the words of a popped entry. -/
def unpacked (f : FmtA) (x : Clause) (s : State) (k : Nat) (ex : List Nat) (words : List Word) : State :=
  if f.opm = 0 then s
  else ex.foldl (fun u l => u.modLane x.core k l
    (takeBits f.opm (readOp s { x.env k with pop := words } l .b32 .w32 f.a) 7)) s

/-- `punpack` as an arithmetic form. -/
def punpackForm (f : FmtA) : Arith :=
  { srcs := [(f.a, .w32, .b32)], dst := none, pw := none, f := fun _ v => (nth v 0, false), pm := f.opm }

/-- The effect of `punpack` is that of its mask, beside the values that the spin detector sees. -/
theorem punpackForm_apply (f : FmtA) (x : Clause) (s : State) (k : Nat) (ex : List Nat) (words : List Word) :
    ∃ n, (punpackForm f).apply x s k ex words none none = noteWrites (unpacked f x s k ex words) x.core k n := by
  refine ⟨_, congrArg (noteWrites · x.core k _) ?_⟩
  show (if f.opm = 0 then s else _) = _
  unfold unpacked
  rw [List.foldl_map]
  rfl

theorem exec_punpack (f : FmtA) (s : State) : exec (.punpack f) s = .next (arith (.punpack f) (punpackForm f) f.pw s) := rfl

section
variable {f : FmtA} {s : State} {x : Clause} {k : Nat} {w : Warp} {ls ex : List Nat}

/-- The mask is applied in lanes that the warp has. -/
theorem unpacked_keeps (h : Issues s x k w) (executes : ∀ l ∈ ex, l ∈ x.lanesOf k) (once : ex.Nodup) :
    ∃ v, Keeps s (unpacked f x s k ex []) x.core k w v ∧ (unpacked f x s k ex []).clauses = s.clauses ∧
      ∀ l, v.lanes.atD l Lane.never = if l ∈ ex then takeBits f.opm (readOp s (x.env k) l .b32 .w32 f.a) 7 (w.lanes.atD l Lane.never)
        else w.lanes.atD l Lane.never := by
  unfold unpacked
  split
  · next empty =>
    refine ⟨w, Keeps.refl h.warp, rfl, fun l => ?_⟩
    rw [empty, takeBits_zero, ite_self]
  · obtain ⟨v, kept, lanes, -, -, clauses⟩ := keeps_lanes h.slot h.warp ex id
      (fun l => takeBits f.opm (readOp s { x.env k with pop := [] } l .b32 .w32 f.a) 7)
      (fun l y => by rw [takeBits_eq]; exact ⟨rfl, rfl, rfl⟩) (fun l hl => (mem_lanesOf h (executes l hl)).2)
    refine ⟨v, kept, clauses, fun l => ?_⟩
    rw [lanes, show (fun e => decide (id e = l)) = (· == l) from funext fun e => (Bool.beq_eq_decide_eq e l).symm, List.filter_beq]
    split
    · next hl => rw [List.count_eq_one_of_mem once hl]; rfl
    · next hl => rw [List.count_eq_zero_of_not_mem hl]; rfl

/-- `punpack` of a register, an immediate or a latch writes the predicates of its mask. -/
theorem punpack_issued (h : Issues s x k w) (hr : Goes (.punpack f) [(f.a, .w32)] s x k w ls ex) (noQueue : f.a.isQueue = false) :
    ∃ t, exec (.punpack f) s = .next t ∧ Issued s t x k ∧ ∀ l j, (t.lane x.core k l).pred j =
      if l ∈ ex ∧ j < 7 ∧ f.opm.getLsbD j = true then (readOp s (x.env k) l .b32 .w32 f.a).testBit j
      else (s.lane x.core k l).pred j := by
  have inLanes : ex.Sublist (x.lanesOf k) := (by rw [← hr.guard]; exact List.filter_sublist : ex.Sublist ls).trans hr.sub
  have noPop : (punpackForm f).popQ = none := by
    unfold Arith.popQ punpackForm
    cases ha : f.a <;> simp_all [Operand.isQueue]
  obtain ⟨n, applied⟩ := punpackForm_apply f x s k ex []
  obtain ⟨v, kept, clauses, lanes⟩ := unpacked_keeps (f := f) h inLanes.subset ((lanesOf_nodup x k).sublist inLanes)
  obtain ⟨v1, kept1, lanes1, clauses1⟩ := noteWrites_keeps kept.warp n
  obtain ⟨v2, kept2, lanes2, clauses2⟩ := setLatches_keeps kept1.warp x.slot ls none
  have runs : exec (.punpack f) s = .next (endIssue x (setLatches (noteWrites (unpacked f x s k ex []) x.core k n) x.core k x.slot
      ls none)) := by
    rw [exec_punpack, arith_goes h hr rfl, noPop]
    exact congrArg (fun u => Host.Outcome.next (endIssue x (setLatches u x.core k x.slot ls none))) applied
  have lanesNow : v2.lanes = v.lanes := lanes2.trans lanes1
  obtain ⟨issued, preds⟩ := issued_of_keeps h (kept.trans (kept1.trans kept2))
    (fun l => by rw [lanesNow, lanes]; split; rw [takeBits_eq]; rfl) ((clauses2.trans clauses1).trans clauses)
  refine ⟨_, runs, issued, fun l j => ?_⟩
  rw [preds, lanesNow, lanes, lane_of_warp h.slot h.warp]
  by_cases hl : l ∈ ex
  · simp only [hl, if_true, true_and, takeBits_pred _ _ 7 _ le_rfl]
  · simp only [hl, if_false, false_and]

/-- `punpack` of a queue whose operand pops. -/
theorem punpack_pops {q : BitVec 6} (h : Issues s x k w) (hr : Goes (.punpack f) [(f.a, .w32)] s x k w ls ex)
    (ha : f.a = .queue q false) (some' : ex ≠ []) :
    exec (.punpack f) s = .next (endIssue x (match queueHead s w.wg q.toNat with
      | .unconfigured => raiseTrap s x.core k Cause.contract x.pc { lanes := maskOf ex }
      | .blocked => setLatches (parkAll s x.core k (retrying (.punpack f) s x.core k ls ex) (.pop q.toNat)) x.core k x.slot
          (ls.filter (fun l => !(retrying (.punpack f) s x.core k ls ex).contains l)) none
      | .ready words => setLatches ((punpackForm f).apply x (acquire (queueDrop s w.wg q.toNat) x.core (some w.wg) .wg) k ex words
          none none) x.core k x.slot ls none)) := by
  have pops : (punpackForm f).popQ = some (q.toNat, false) := by
    unfold Arith.popQ punpackForm
    rw [ha]
    rfl
  have inGroup : wgIdOf s x.core k = some w.wg := by unfold wgIdOf; rw [h.warp]; rfl
  rw [exec_punpack, arith_goes h hr rfl, pops]
  unfold queueWarp
  simp only [some', if_false, inGroup]
  cases queueHead s w.wg q.toNat <;> rfl

end

/-- A selection by a bit. -/
theorem ite_toNat_eq_one (b : Bool) (m n : Nat) : (if b then m else n) = if b.toNat = 1 then m else n := by cases b <;> rfl

/-- Settles O3: the forms by the law of arithmetic; `punpack` by what its mask does to the predicates. -/
theorem comparesAndPredicates : Obligations.ComparesAndPredicates := by
  unfold Obligations.ComparesAndPredicates
  refine ⟨fun f => ⟨?cmp, ?sel, ?plut3, ?ppack⟩, fun f s x k w ls ex h hr => punpack_issued h hr,
    fun f q s x k w ls ex h hr ha some' => ⟨fun words ready => ?ready, fun blocked => ?blocked, fun unconfigured => ?unconfigured⟩⟩
  case cmp | plut3 | ppack => exact arithmeticForm_of_read (fun _ => rfl) fun _ _ => rfl
  case sel =>
    exact arithmeticForm_of_read (fun _ => rfl) fun _ _ => congrArg (·, false) (ite_toNat_eq_one _ _ _)
  case ready =>
    obtain ⟨n, applied⟩ := punpackForm_apply f x (acquire (queueDrop s w.wg q.toNat) x.core (some w.wg) .wg) k ex words
    refine ⟨n, ?_⟩
    rw [punpack_pops h hr ha some', ready]
    dsimp only
    rw [applied, unpacked, ha]
    rfl
  case blocked =>
    rw [punpack_pops h hr ha some', blocked]
    rfl
  case unconfigured => rw [punpack_pops h hr ha some', unconfigured]

end Sys2Proof.Machine
end

section
/-! PROOFS. Transfers of group 0x0 (R207 to R209): the instruction boundary, branches, calls and returns. -/

namespace Sys2Proof.Machine

/-! ## The instruction boundary (R129, R170, R207) -/

theorem Issues.cons {s : State} {x : Clause} {k : Nat} {w : Warp} (h : Issues s x k w) : s.clauses = x :: s.clauses.tail := by
  have head := h.head
  cases hs : s.clauses with
  | nil => simp [hs] at head
  | cons y t =>
    rw [hs, List.head?_cons, Option.some.injEq] at head
    rw [head]; rfl

/-- Lanes that have jumped to their targets, before the boundary. -/
structure Jumped (s u : State) (x : Clause) (k : Nat) (w v : Warp) (ts : List (Nat × DWord)) : Prop where
  warp : u.warp? x.core k = some v
  same : v = { w with lanes := v.lanes, lat := v.lat }
  lanes : ∀ l, (v.lanes.at? l).isSome = (w.lanes.at? l).isSome
  stays : ∀ l, l ∉ ts.map Prod.fst → v.lanes.atD l Lane.never = w.lanes.atD l Lane.never
  goes : ∀ e ∈ ts, v.lanes.atD e.1 Lane.never = { w.lanes.atD e.1 Lane.never with pc := e.2, wait := .run }
  store : ∀ b, (u.core b).store = (s.core b).store
  mem : u.mem = s.mem
  clauses : u.clauses = { x with lanes := x.lanes.filter (fun r => !(ts.map Prod.fst).contains r.lane) } :: s.clauses.tail

/-- What one transfer does to the warp. -/
def Warp.jumped (w : Warp) (l : Nat) (pc : DWord) : Warp :=
  { w with lanes := w.lanes.upd l (fun y => { y with pc := pc, wait := .run }), lat := w.lat.filterV (fun i _ => i % 32 != l) }


@[simp] theorem core_leave (s : State) (k l b : Nat) : (s.leave k l).core b = s.core b := by
  unfold State.leave
  split <;> rfl

@[simp] theorem warp?_leave (s : State) (k l b j : Nat) : (s.leave k l).warp? b j = s.warp? b j := by
  unfold State.warp?
  rw [core_leave]

section
variable {s : State} {x : Clause} {k : Nat} {w : Warp}

/-- One transfer. -/
theorem jump_spec {tail : List Clause} (hk : k < Config.warpSlots) (hx : s.clauses = x :: tail) (slots : ∀ r ∈ x.lanes, r.slot = k)
    (hw : s.warp? x.core k = some w) (l : Nat) (pc : DWord) :
    (jump s x.core k l pc).warp? x.core k = some (w.jumped l pc) ∧
      (jump s x.core k l pc).clauses = { x with lanes := x.lanes.filter (fun r => r.lane != l) } :: tail ∧
      (∀ b, ((jump s x.core k l pc).core b).store = (s.core b).store) ∧ (jump s x.core k l pc).mem = s.mem := by
  have lanes : x.lanes.filter (fun r => !(decide (r.slot = k) && decide (r.lane = l))) = x.lanes.filter (fun r => r.lane != l) :=
    List.filter_congr fun r hr => by simp [slots r hr, bne, Bool.beq_eq_decide_eq]
  unfold jump
  rw [modLane_eq hk]
  refine ⟨?_, ?_, fun b => by simp, by simp⟩
  · rw [State.warp?_modWarp_self, warp?_leave, State.warp?_modWarp_self, hw]
    rfl
  · simp only [State.modWarp_clauses, State.leave, hx, lanes]

theorem jumped_of_nodup (hk : k < Config.warpSlots) (ts : List (Nat × DWord)) (once : (ts.map Prod.fst).Nodup)
    (hx : s.clauses = x :: s.clauses.tail) (slots : ∀ r ∈ x.lanes, r.slot = k) (hw : s.warp? x.core k = some w)
    (inWarp : ∀ e ∈ ts, (w.lanes.at? e.1).isSome) :
    ∃ v, Jumped s (ts.foldl (fun s e => jump s x.core k e.1 e.2) s) x k w v ts := by
  induction ts generalizing s x w with
  | nil => exact ⟨w, hw, rfl, fun _ => rfl, fun _ _ => rfl, fun e he => absurd he List.not_mem_nil, fun _ => rfl, rfl, by simpa using hx⟩
  | cons e ts ih =>
    rw [List.map_cons, List.nodup_cons] at once
    obtain ⟨warp1, clauses1, store1, mem1⟩ := jump_spec hk hx slots hw e.1 e.2
    have lanes1 : ∀ l, ((w.jumped e.1 e.2).lanes.at? l).isSome = (w.lanes.at? l).isSome := fun l => by
      unfold Warp.jumped
      rw [NMap.at?_upd]
      split
      · next hl => subst hl; simp
      · rfl
    have lane1 : ∀ l, (w.jumped e.1 e.2).lanes.atD l Lane.never =
        if l = e.1 then { w.lanes.atD l Lane.never with pc := e.2, wait := .run } else w.lanes.atD l Lane.never := fun l => by
      unfold Warp.jumped NMap.atD
      rw [NMap.at?_upd]
      split
      · next hl =>
        subst hl
        obtain ⟨y, hy⟩ := Option.isSome_iff_exists.1 (inWarp e List.mem_cons_self)
        simp [hy]
      · rfl
    obtain ⟨v, jumped⟩ := ih (s := jump s x.core k e.1 e.2) (x := { x with lanes := x.lanes.filter (fun r => r.lane != e.1) })
      once.2 (by rw [clauses1]; rfl) (fun r hr => slots r (List.mem_of_mem_filter hr)) warp1
      (fun e' he' => by rw [lanes1]; exact inWarp e' (List.mem_cons_of_mem _ he'))
    refine ⟨v, jumped.warp, by rw [jumped.same]; rfl, fun l => (jumped.lanes l).trans (lanes1 l), fun l hl => ?_, fun e' he' => ?_,
      fun b => (jumped.store b).trans (store1 b), jumped.mem.trans mem1, ?_⟩
    · rw [List.map_cons, List.mem_cons, not_or] at hl
      rw [jumped.stays l hl.2, lane1, if_neg hl.1]
    · rcases List.mem_cons.1 he' with rfl | he'
      · rw [jumped.stays _ once.1, lane1, if_pos rfl]
      · have other : e'.1 ≠ e.1 := fun same => once.1 (same ▸ List.mem_map_of_mem he')
        rw [jumped.goes e' he', lane1, if_neg other]
    · refine jumped.clauses.trans ?_
      rw [clauses1, List.tail_cons]
      dsimp only
      rw [List.filter_filter]
      congr 2
      refine List.filter_congr fun r _ => ?_
      simp [bne, Bool.and_comm, Bool.beq_eq_decide_eq]

end

/-! ## The boundary in one formula -/

theorem modWarp_modWarp (s : State) (c k : Nat) (f g : Warp → Warp) :
    (s.modWarp c k f).modWarp c k g = s.modWarp c k (fun w => g (f w)) := by
  unfold State.modWarp State.modCore
  rw [State.core_setCore, if_pos rfl]
  unfold State.setCore
  simp only [NMap.put_put, NMap.upd_upd]

/-- Changes of a warp one after another, with one more behind them, are one change. -/
theorem foldl_modWarp_modWarp {α : Type} (g : α → Warp → Warp) (c k : Nat) (L : List α) (s : State) (h : Warp → Warp) :
    (L.foldl (fun s e => s.modWarp c k (g e)) s).modWarp c k h = s.modWarp c k (fun w => h (L.foldl (fun w e => g e w) w)) := by
  induction L generalizing s with
  | nil => rfl
  | cons e L ih => rw [List.foldl_cons, ih, modWarp_modWarp]; rfl

theorem warp?_foldl_modWarp {α : Type} (g : α → Warp → Warp) (c k : Nat) (L : List α) (s : State) :
    (L.foldl (fun s e => s.modWarp c k (g e)) s).warp? c k = (s.warp? c k).map (fun w => L.foldl (fun w e => g e w) w) := by
  induction L generalizing s with
  | nil => exact Option.map_id'.symm ▸ rfl
  | cons e L ih => rw [List.foldl_cons, ih, State.warp?_modWarp_self, Option.map_map]; rfl

theorem clauses_foldl_modWarp {α : Type} (g : α → Warp → Warp) (c k : Nat) (L : List α) (s : State) :
    (L.foldl (fun s e => s.modWarp c k (g e)) s).clauses = s.clauses := by
  induction L generalizing s with
  | nil => rfl
  | cons e L ih => rw [List.foldl_cons, ih, State.modWarp_clauses]

theorem tick_foldl_modWarp {α : Type} (g : α → Warp → Warp) (c k : Nat) (L : List α) (s : State) :
    (L.foldl (fun s e => s.modWarp c k (g e)) s).tick = s.tick := by
  induction L generalizing s with
  | nil => rfl
  | cons e L ih => rw [List.foldl_cons, ih, State.modWarp_tick]

theorem stepStops_of_going {x : Clause} {u : State} {k : Nat} {v : Warp} (hv : u.warp? x.core k = some v) (going : v.stepping = none) :
    stepStops x u k = u := by
  unfold stepStops
  rw [hv]
  dsimp only
  rw [going]

/-- A warp whose lanes among those given stand at a program counter. -/
def Warp.standAt (w : Warp) (ls : List LaneRef) (pc : DWord) : Warp :=
  ls.foldl (fun w r => { w with lanes := w.lanes.upd r.lane (fun z => { z with pc := pc }) }) w

theorem Warp.standAt_eq (w : Warp) (ls : List LaneRef) (pc : DWord) :
    w.standAt ls pc = { w with lanes := ls.foldl (fun m r => m.upd r.lane (fun z => { z with pc := pc })) w.lanes } := by
  unfold Warp.standAt
  induction ls generalizing w with
  | nil => rfl
  | cons r ls ih => rw [List.foldl_cons, ih]; rfl

/-- The instruction boundary of a bundle of one warp that is not being stepped: the lanes left in the clause go to the next slot, and
the clause goes on or ends. -/
theorem endIssue_eq {x y : Clause} {u : State} {k : Nat} {v : Warp} {tail : List Clause} (hk : k < Config.warpSlots)
    (hu : u.clauses = y :: tail) (core : y.core = x.core) (slots : x.slots = [k]) (lanes : ∀ r ∈ y.lanes, r.slot = k)
    (hv : u.warp? x.core k = some v) (going : v.stepping = none) :
    endIssue x u = { u.modWarp x.core k (fun w => { w.standAt y.lanes (nextPc x.pc) with lastIssue := u.tick }) with
      clauses := if y.slot = 4 ∨ y.lanes = [] then tail else { y with slot := y.slot + 1 } :: tail } := by
  have steps : ∀ (L : List LaneRef) (s : State), (∀ r ∈ L, r.slot = k) →
      L.foldl (fun s r => s.modLane y.core r.slot r.lane (fun z => { z with pc := nextPc x.pc })) s =
        L.foldl (fun s r => s.modWarp x.core k (fun w =>
          { w with lanes := w.lanes.upd r.lane (fun z => { z with pc := nextPc x.pc }) })) s := by
    rw [core]
    intro L
    induction L with
    | nil => intros; rfl
    | cons r L ih =>
      intro s inSlot
      rw [List.foldl_cons, List.foldl_cons, inSlot r List.mem_cons_self, modLane_eq hk,
        ih _ fun r hr => inSlot r (List.mem_cons_of_mem _ hr)]
  have stood := warp?_foldl_modWarp (fun (r : LaneRef) (w : Warp) =>
    { w with lanes := w.lanes.upd r.lane (fun z => { z with pc := nextPc x.pc }) }) x.core k y.lanes u
  rw [hv] at stood
  have still : (v.standAt y.lanes (nextPc x.pc)).stepping = none := by rw [Warp.standAt_eq]; exact going
  unfold endIssue
  rw [hu]
  dsimp only
  rw [steps _ _ lanes, slots]
  simp only [List.foldl_cons, List.foldl_nil]
  rw [stepStops_of_going stood still, foldl_modWarp_modWarp, State.modWarp_clauses, hu, tick_foldl_modWarp]
  simp only [Bool.or_eq_true, decide_eq_true_eq]
  by_cases ends : y.slot = 4 ∨ y.lanes = []
  · rw [if_pos ends, if_pos ends]; rfl
  · rw [if_neg ends, if_neg ends]; rfl

theorem mem_lanesOf_iff {x : Clause} {k : Nat} (lanes : ∀ r ∈ x.lanes, r.slot = k ∧ r.lane < 32) (l : Nat) :
    l ∈ x.lanesOf k ↔ l ∈ x.lanes.map LaneRef.lane := by
  simp only [Clause.lanesOf, List.mem_filter, List.any_eq_true, List.mem_map, Bool.and_eq_true, decide_eq_true_eq, lanes32, List.mem_range]
  constructor
  · rintro ⟨-, r, hr, -, hl⟩
    exact ⟨r, hr, hl⟩
  · rintro ⟨r, hr, rfl⟩
    exact ⟨(lanes r hr).2, r, hr, (lanes r hr).1, rfl⟩

/-- The lanes of a warp that stands as said. -/
theorem standAt_lane (w : Warp) (ls : List LaneRef) (pc : DWord) (inWarp : ∀ r ∈ ls, (w.lanes.at? r.lane).isSome) (l : Nat) :
    (w.standAt ls pc).lanes.atD l Lane.never =
      if l ∈ ls.map LaneRef.lane then { w.lanes.atD l Lane.never with pc := pc } else w.lanes.atD l Lane.never := by
  have repeated : ∀ (L : List LaneRef) (z : Lane), L.foldl (fun (z : Lane) (_ : LaneRef) => { z with pc := pc }) z =
      if L = [] then z else { z with pc := pc } := by
    intro L
    induction L with
    | nil => intro z; rfl
    | cons r L ih => intro z; rw [List.foldl_cons, ih]; split <;> simp
  rw [Warp.standAt_eq]
  dsimp only
  rw [foldl_upd_atD (fun (_ : LaneRef) (z : Lane) => { z with pc := pc }) LaneRef.lane _ _ _ inWarp, repeated]
  have empty : ls.filter (fun r => decide (r.lane = l)) = [] ↔ l ∉ ls.map LaneRef.lane := by
    simp [List.filter_eq_nil_iff]
  rw [if_congr empty rfl rfl, ite_not]

/-- What lanes that jump leave of a state: they stand at their targets, the others of the clause at the next slot. -/
theorem endIssue_jumps {s : State} {x : Clause} {k : Nat} {w : Warp} (h : Issues s x k w) (ts : List (Nat × DWord))
    (once : (ts.map Prod.fst).Nodup) (inClause : ∀ e ∈ ts, e.1 ∈ x.lanesOf k) :
    let t := endIssue x (ts.foldl (fun s e => jump s x.core k e.1 e.2) s)
    let left := x.lanes.filter (fun r => !(ts.map Prod.fst).contains r.lane)
    ∃ v, t.warp? x.core k = some v ∧ v = { w with lanes := v.lanes, lat := v.lat, lastIssue := v.lastIssue } ∧
      (∀ l, l ∉ ts.map Prod.fst → v.lanes.atD l Lane.never =
        if l ∈ x.lanesOf k then { w.lanes.atD l Lane.never with pc := nextPc x.pc } else w.lanes.atD l Lane.never) ∧
      (∀ e ∈ ts, v.lanes.atD e.1 Lane.never = { w.lanes.atD e.1 Lane.never with pc := e.2, wait := .run }) ∧
      t.clauses = (if x.slot = 4 ∨ left = [] then s.clauses.tail else { x with lanes := left, slot := x.slot + 1 } :: s.clauses.tail) ∧
      t.mem = s.mem ∧ ∀ c, (t.core c).store = (s.core c).store := by
  have ofWarp : ∀ l ∈ x.lanesOf k, (w.lanes.at? l).isSome := fun l hl => (mem_lanesOf h hl).2
  obtain ⟨v, jumped⟩ := jumped_of_nodup h.slot ts once h.cons (fun r hr => (h.lanes r hr).1) h.warp
    (fun e he => ofWarp _ (inClause e he))
  have going : v.stepping = none := by rw [jumped.same]; exact h.going
  have boundary := endIssue_eq (x := x) h.slot jumped.clauses rfl h.slots
    (fun r hr => (h.lanes r (List.mem_of_mem_filter hr)).1) jumped.warp going
  dsimp only at boundary ⊢
  rw [boundary]
  have remain : ∀ r ∈ x.lanes.filter (fun r => !(ts.map Prod.fst).contains r.lane), (v.lanes.at? r.lane).isSome := fun r hr => by
    rw [jumped.lanes]
    exact (h.lanes r (List.mem_of_mem_filter hr)).2.2
  refine ⟨_, (State.warp?_modWarp_self _ _ _ _).trans (congrArg (Option.map _) jumped.warp), ?_, fun l hl => ?_, fun e he => ?_, rfl,
    jumped.mem, fun c => ?_⟩
  · dsimp only
    rw [Warp.standAt_eq, jumped.same]
  · have still : (l ∈ (x.lanes.filter (fun r => !(ts.map Prod.fst).contains r.lane)).map LaneRef.lane) = (l ∈ x.lanesOf k) := by
      rw [mem_lanesOf_iff fun r hr => ⟨(h.lanes r hr).1, (h.lanes r hr).2.1⟩, eq_iff_iff]
      simp only [List.mem_map, List.mem_filter] at hl ⊢
      constructor
      · rintro ⟨r, ⟨hr, -⟩, rfl⟩
        exact ⟨r, hr, rfl⟩
      · rintro ⟨r, hr, rfl⟩
        exact ⟨r, ⟨hr, by simpa using hl⟩, rfl⟩
    show (v.standAt _ _).lanes.atD l Lane.never = _
    rw [standAt_lane _ _ _ remain, jumped.stays l hl]
    simp only [still]
  · have left : e.1 ∉ (x.lanes.filter (fun r => !(ts.map Prod.fst).contains r.lane)).map LaneRef.lane := by
      simp only [List.mem_map, List.mem_filter, not_exists, not_and]
      rintro r ⟨-, hr⟩ same
      rw [same, Bool.not_eq_true', ← Bool.not_eq_true, List.contains_iff_mem] at hr
      exact hr (List.mem_map_of_mem he)
    show (v.standAt _ _).lanes.atD e.1 Lane.never = _
    rw [standAt_lane _ _ _ remain, if_neg left, jumped.goes e he]
  · exact (State.core_modWarp_store _ _ _ _ _).trans (jumped.store c)

/-- Settles O14: the first part by the law of the instruction boundary, the second by what jumps leave behind it. -/
theorem instructionBoundary : Obligations.InstructionBoundary := by
  unfold Obligations.InstructionBoundary
  refine ⟨fun s u x k w v h clauses hv going inWarp => ?boundary, fun s x k w ts h once inClause => ?transfers⟩
  case boundary =>
    obtain ⟨v', hv', -, -, lanes, store, behind, same⟩ := endIssue_spec h clauses hv inWarp going h.lanes_ne
    have mem := congrArg State.mem same.rest
    refine ⟨fun l => ?_, behind, store, mem, same⟩
    rw [lane_of_warp h.slot hv', lane_of_warp h.slot hv, lanes]
  case transfers =>
    obtain ⟨v, hv, same, stays, goes, clauses, mem, store⟩ := endIssue_jumps h ts once inClause
    have wreg : v.wreg = w.wreg := by rw [same]
    have opf : v.opf = w.opf := by rw [same]
    have lane := lane_of_warp (s := s) h.slot h.warp
    have lane' := lane_of_warp h.slot hv
    refine ⟨fun e he => ?_, fun l hl => ?_, fun l => ?_, clauses, mem, store, fun j => ?_, fun j l => ?_⟩
    · rw [lane', goes e he]
    · rw [lane', lane, stays l hl, apply_ite Lane.pc]
    · rw [lane', lane]
      by_cases hl : l ∈ ts.map Prod.fst
      · obtain ⟨e, he, rfl⟩ := List.mem_map.1 hl
        rw [goes e he]
        exact ⟨rfl, rfl, rfl⟩
      · rw [stays l hl]
        split <;> exact ⟨rfl, rfl, rfl⟩
    · simp only [State.wreg, hv, h.warp, Warp.w32, wreg]
    · simp only [State.opfWord, hv, h.warp, opf]

end Sys2Proof.Machine
end

section
/-! PROOFS. Branches, calls and returns (R207 to R209), and the accesses whose misalignment traps (R14, R237). -/

namespace Sys2Proof.Machine

/-! ## Checked targets (R174, R207) -/

theorem translateNow_fab (s : State) (c ctx va : Nat) (grants : Nat → Bool) : (translateNow s c ctx va grants).1.fab = s.fab := by
  unfold translateNow
  split
  · rfl
  · split
    · rfl
    · split <;> rfl

/-- A translation leaves the fabric as it is. -/
theorem resolveNow_fab (s : State) (w : Who) (a : Access) (va : Nat) : (resolveNow s w a va).1.fab = s.fab := by
  have kept := translateNow_fab s w.core w.ctx va (fun e => (leafFault s va e a.write (a.kind == .ifetch)).isNone)
  unfold resolveNow
  split
  · rfl
  · split
    · next found => rw [found] at kept; exact kept
    · next found =>
      rw [found] at kept
      split <;> exact kept

theorem lineTgt_zero (n : Nat) : lineTgt 0 n = false := by
  unfold lineTgt
  rw [show BitVec.getLsbD (0 : Line) (485 + n) = false from BitVec.getLsbD_zero, Bool.and_false]

/-- A lost package's line is fetched as zeros (R122). -/
theorem fetchLine_of_lost {s : State} {c ctx q : Nat} {pc : DWord} (h : fetchLost s c ctx pc = some q) :
    ∃ u, fetchLine s c ctx pc = (u, .line 0) := by
  have fab := resolveNow_fab s { core := c, ctx := ctx, wg := none, regs := none, dbg := false }
    { kind := .ifetch, write := false, odd := true, width := 64 } (pc.toNat / 64 * 64)
  unfold fetchLost at h
  unfold fetchLine
  dsimp only
  generalize resolveNow s { core := c, ctx := ctx, wg := none, regs := none, dbg := false }
    { kind := .ifetch, write := false, odd := true, width := 64 } (pc.toNat / 64 * 64) = r at h fab ⊢
  obtain ⟨s1, res⟩ := r
  split at h
  · next p pa leaf found =>
    dsimp only at found fab
    subst found
    have lost : pkgLive s1 p = false := by
      unfold pkgLive
      rw [fab]
      by_contra live
      rw [Bool.not_eq_false] at live
      exact absurd h (by simp [pkgLive, live])
    exact ⟨s1, by simp only [lost, Bool.false_eq_true, if_false]⟩
  · exact absurd h (by simp)

/-- The line of a target that passes its check is no lost package's. -/
theorem fetchLost_of_ok {s u : State} {c ctx kind : Nat} {t : DWord} (h : checkTarget s c ctx kind t = (u, .ok)) :
    fetchLost s c ctx t = none := by
  cases lost : fetchLost s c ctx t with
  | none => rfl
  | some q =>
    obtain ⟨u, line⟩ := fetchLine_of_lost lost
    unfold checkTarget at h
    rw [line] at h
    split at h
    · exact absurd h (by simp)
    · simp only [lineTgt_zero, Bool.false_and, Bool.false_eq_true, if_false] at h
      exact absurd h (by simp)

/-- Targets that all pass: nothing changes. -/
theorem checkTargets_of_ok {s : State} {c ctx kind : Nat} (ts : List (Nat × DWord))
    (h : ∀ e ∈ ts, checkTarget s c ctx kind e.2 = (s, .ok)) :
    checkTargets s c ctx kind ts = (s, ts.map (fun e => (e.1, e.2, .ok))) := by
  induction ts with
  | nil => rfl
  | cons e ts ih =>
    unfold checkTargets
    dsimp only
    rw [h e List.mem_cons_self]
    dsimp only
    rw [ih fun e' he' => h e' (List.mem_cons_of_mem _ he')]
    rfl

theorem noteFetches_of_ok {s : State} {c k kind : Nat} (pcs : List DWord)
    (h : ∀ t ∈ pcs, checkTarget s c (s.ctxOf c k) kind t = (s, .ok)) : noteFetches s c k pcs = s := by
  unfold noteFetches
  induction pcs with
  | nil => rfl
  | cons t pcs ih =>
    have same : noteFetch s c k t = s := by
      unfold noteFetch
      rw [fetchLost_of_ok (h t List.mem_cons_self)]
    rw [List.foldl_cons, same, ih fun t' ht' => h t' (List.mem_cons_of_mem _ ht')]

/-- A transfer whose lanes' targets all pass their checks goes. -/
theorem transferWarp_goes {tgt : State → Env → Nat → Option DWord}
    {go : Clause → State → Nat → List Nat → List (Nat × DWord) → State} {x : Clause} {s : State} {k : Nat} {ls ex : List Nat}
    {takes : List (Nat × DWord)} (idle : stoppedAt s x.core k x.pc = none) (executing : guardLanes s x k ls = ex)
    (taken : ex.filterMap (fun l => (tgt s (x.env k) l).map (fun t => (l, t))) = takes)
    (fine : ∀ e ∈ takes, checkTarget s x.core (s.ctxOf x.core k) (lineKind x.line) e.2 = (s, .ok)) :
    transferWarp tgt go x s k ls =
      if takes = [] then s else go x s k (ls.filter (fun l => !takes.any (fun e => e.1 = l))) takes := by
  have issuing : issuingSet x s k ls = ex := by unfold issuingSet; rw [idle]; exact executing
  have fetched : noteFetches s x.core k (takes.map Prod.snd) = s := noteFetches_of_ok _ fun t ht => by
    obtain ⟨e, he, rfl⟩ := List.mem_map.1 ht
    exact fine e he
  have no : ∀ p : Target → Bool, p .ok = false →
      (takes.map (fun e => (e.1, e.2, Target.ok))).filter (fun e => p e.2.2) = [] := fun p hp =>
    List.filter_eq_nil_iff.2 fun e he => by
      obtain ⟨e, -, rfl⟩ := List.mem_map.1 he
      simp [hp]
  have noFault : ∀ g : Nat × DWord × Target → Option (Nat × DWord × Nat), (∀ l t, g (l, t, .ok) = none) →
      (takes.map (fun e => (e.1, e.2, Target.ok))).filterMap g = [] := fun g hg =>
    List.filterMap_eq_nil_iff.2 fun e he => by
      obtain ⟨e, -, rfl⟩ := List.mem_map.1 he
      exact hg _ _
  unfold transferWarp
  simp only [issuing, taken, checkTargets_of_ok takes fine, fetched, no (fun t => t == .wait) rfl, no (fun t => t == .bad) rfl,
    List.map_nil, bne_self_eq_false, Bool.false_eq_true, if_false]
  rw [noFault _ fun _ _ => rfl]
  rfl

/-! ## The spin detector sees, and nothing else changes (R159) -/

/-- A change of the spin detector and the demotion of a warp alone. -/
def Watches (f : Warp → Warp) : Prop := ∀ w, f w = { w with spin := (f w).spin, demoted := (f w).demoted }

theorem spinBranch_watches (s : State) (c k : Nat) (pc : DWord) (taken : Option DWord) :
    spinBranch s c k pc taken = s ∨ ∃ f, Watches f ∧ spinBranch s c k pc taken = s.modWarp c k f := by
  unfold spinBranch
  split
  · exact .inl rfl
  · split
    · exact .inl rfl
    · dsimp only
      split
      · exact .inr ⟨_, fun w => by split <;> rfl, rfl⟩
      · split
        · exact .inl rfl
        · exact .inr ⟨_, fun w => by split <;> [rfl; split <;> rfl], rfl⟩

section
variable {s : State} {c k : Nat} {f : Warp → Warp} (hf : Watches f)
include hf

theorem Watches.warp (w : Warp) : (f w).lanes = w.lanes ∧ (f w).stopped = w.stopped ∧ (f w).opf = w.opf ∧ (f w).wreg = w.wreg ∧
    (f w).lat = w.lat ∧ (f w).launch = w.launch ∧ (f w).wg = w.wg ∧ (f w).warpid = w.warpid ∧ (f w).lostmask = w.lostmask ∧
    (f w).base = w.base ∧ (f w).part = w.part ∧ (f w).regs = w.regs := by
  rw [hf w]
  exact ⟨rfl, rfl, rfl, rfl, rfl, rfl, rfl, rfl, rfl, rfl, rfl, rfl⟩

theorem stoppedAt_watched (pc : DWord) : stoppedAt (s.modWarp c k f) c k pc = stoppedAt s c k pc := by
  unfold stoppedAt
  rw [State.warp?_modWarp_self]
  cases s.warp? c k with
  | none => rfl
  | some w => simp only [Option.map_some, hf.warp w]

theorem lane_watched (l : Nat) : (s.modWarp c k f).lane c k l = s.lane c k l := by
  unfold State.lane
  rw [State.warp?_modWarp_self]
  split
  · rw [State.core_modWarp, if_pos rfl]
  · cases s.warp? c k with
    | none => rfl
    | some w => simp only [Option.map_some, hf.warp w]

theorem particleOf_watched (l : Nat) : particleOf (s.modWarp c k f) c k l = particleOf s c k l := by
  unfold particleOf
  rw [State.warp?_modWarp_self]
  cases s.warp? c k with
  | none => rfl
  | some w => simp only [Option.map_some, hf.warp w, State.modWarp_launches, State.modWarp_wgs, State.modWarp_pops]

theorem launchOf_watched : (s.modWarp c k f).launchOf c k = s.launchOf c k := by
  unfold State.launchOf
  rw [State.warp?_modWarp_self]
  cases s.warp? c k with
  | none => rfl
  | some w => simp only [Option.map_some, hf.warp w, State.modWarp_launches]

theorem specialFull_watched (l code : Nat) : specialFull (s.modWarp c k f) c k l code = specialFull s c k l code := by
  unfold specialFull State.wgOf State.particle
  rw [launchOf_watched hf, particleOf_watched hf, lane_watched hf, State.warp?_modWarp_self, State.core_modWarp, if_pos rfl]
  cases s.warp? c k with
  | none => rfl
  | some w => simp only [Option.map_some, hf.warp w, State.modWarp_wgs, State.modWarp_pops, State.modWarp_fab, State.modWarp_now, State.modWarp_tick]

theorem rdReg_watched (l r : Nat) : (s.modWarp c k f).rdReg c k l r = s.rdReg c k l r := by
  unfold State.rdReg State.regOff
  rw [State.warp?_modWarp_self, State.core_modWarp, if_pos rfl]
  cases s.warp? c k with
  | none => rfl
  | some w => simp only [Option.map_some, hf.warp w]

/-- Registers read as before. -/
theorem readPlace_watched (l : Nat) (p : Pos) (o : Operand) : readPlace (s.modWarp c k f) c k l p o = readPlace s c k l p o := by
  unfold readPlace special32 State.opfWord State.wreg Warp.w32
  simp only [rdReg_watched hf, specialFull_watched hf, State.warp?_modWarp_self]
  cases s.warp? c k with
  | none => rfl
  | some w => simp only [Option.map_some, hf.warp w]

/-- Operands read as before. -/
theorem readOp_watched (e : Env) (core : e.core = c) (slot : e.slot = k) (l : Nat) (t : Ty) (p : Pos) (o : Operand) :
    readOp (s.modWarp c k f) e l t p o = readOp s e l t p o := by
  subst core slot
  unfold readOp latchVal State.repro
  simp only [readPlace_watched hf, launchOf_watched hf, State.warp?_modWarp_self, State.modWarp_tick]
  cases s.warp? e.core e.slot with
  | none => rfl
  | some w => simp only [Option.map_some, hf.warp w]

end

/-! ## Branches (R159, R207) -/

/-- The targets that a branch takes, with their lanes. -/
def takenBy (tgt : State → Env → Nat → Option DWord) (s : State) (e : Env) (ex : List Nat) : List (Nat × DWord) :=
  ex.filterMap (fun l => (tgt s e l).map (fun t => (l, t)))

/-- The state once the spin detector has seen a branch to the given targets (R159, log 16). -/
def seenBy (s : State) (x : Clause) (k : Nat) (ts : List DWord) : State :=
  spinBranch s x.core k x.pc ((ts.find? (fun t => decide (t.toNat / 64 ≤ x.pc.toNat / 64))).or ts.head?)

theorem branchWarp_goes {tgt : State → Env → Nat → Option DWord} {x : Clause} {s : State} {k : Nat} {ls ex : List Nat}
    (idle : stoppedAt s x.core k x.pc = none) (executing : guardLanes s x k ls = ex)
    (reads : ∀ f, Watches f → tgt (s.modWarp x.core k f) (x.env k) = tgt s (x.env k))
    (fine : ∀ e ∈ takenBy tgt s (x.env k) ex, checkTarget (seenBy s x k ((takenBy tgt s (x.env k) ex).map Prod.snd)) x.core
      ((seenBy s x k ((takenBy tgt s (x.env k) ex).map Prod.snd)).ctxOf x.core k) (lineKind x.line) e.2 =
        (seenBy s x k ((takenBy tgt s (x.env k) ex).map Prod.snd), .ok)) :
    branchWarp tgt x s k ls = (takenBy tgt s (x.env k) ex).foldl (fun s e => jump s x.core k e.1 e.2)
      (seenBy s x k ((takenBy tgt s (x.env k) ex).map Prod.snd)) := by
  have targets : ex.filterMap (tgt s (x.env k)) = (takenBy tgt s (x.env k) ex).map Prod.snd := by
    unfold takenBy
    rw [List.map_filterMap]
    simp only [Option.map_map, Function.comp_def, Option.map_id']
  have issuing : issuingSet x s k ls = ex := by unfold issuingSet; rw [idle]; exact executing
  have runs : branchWarp tgt x s k ls =
      transferWarp tgt branchGo x (seenBy s x k ((takenBy tgt s (x.env k) ex).map Prod.snd)) k ls := by
    unfold branchWarp seenBy
    rw [issuing, targets, idle]
  obtain ⟨idle', executing', taken'⟩ : stoppedAt (seenBy s x k ((takenBy tgt s (x.env k) ex).map Prod.snd)) x.core k x.pc = none ∧
      guardLanes (seenBy s x k ((takenBy tgt s (x.env k) ex).map Prod.snd)) x k ls = ex ∧
      takenBy tgt (seenBy s x k ((takenBy tgt s (x.env k) ex).map Prod.snd)) (x.env k) ex = takenBy tgt s (x.env k) ex := by
    unfold seenBy
    generalize ((List.map Prod.snd (takenBy tgt s (x.env k) ex)).find? _).or _ = taken
    rcases spinBranch_watches s x.core k x.pc taken with same | ⟨f, watches, watched⟩
    · rw [same]
      exact ⟨idle, executing, rfl⟩
    · rw [watched]
      refine ⟨(stoppedAt_watched watches _).trans idle, ?_, ?_⟩
      · unfold guardLanes
        simp only [lane_watched watches]
        exact executing
      · unfold takenBy
        rw [reads f watches]
  generalize takenBy tgt s (x.env k) ex = takes at *
  generalize seenBy s x k (takes.map Prod.snd) = s0 at *
  have notDone : ∀ ls, markDone s0 x.core k x.pc ls = s0 := fun ls => by unfold markDone; rw [idle']
  rw [runs, transferWarp_goes idle' executing' taken' fine]
  split
  · next none' => rw [none']; rfl
  · unfold branchGo
    rw [notDone]

/-- A branch that the lanes with an index below the bound take. -/
theorem takenBy_below (index bound : State → Env → Nat → Nat) (T : State → Env → Nat → DWord) (s : State) (e : Env) (ex : List Nat) :
    takenBy (fun s e l => if bound s e l ≤ index s e l then none else some (T s e l)) s e ex =
      (ex.filter (fun l => decide (index s e l < bound s e l))).map (fun l => (l, T s e l)) := by
  unfold takenBy
  dsimp only
  induction ex with
  | nil => rfl
  | cons l ex ih =>
    rw [List.filterMap_cons, ih]
    by_cases below : index s e l < bound s e l
    · rw [if_neg (Nat.not_le.2 below), List.filter_cons_of_pos (by simpa using below)]
      rfl
    · rw [if_pos (Nat.not_lt.1 below), List.filter_cons_of_neg (by simpa using below)]
      rfl

/-- A branch that every lane takes. -/
theorem takenBy_all (T : State → Env → Nat → DWord) (s : State) (e : Env) (ex : List Nat) :
    takenBy (fun s e l => some (T s e l)) s e ex = ex.map (fun l => (l, T s e l)) :=
  congrFun (List.filterMap_eq_map' (f := fun l => (l, T s e l))) ex

/-- Among equal targets the first stands for the branch. -/
theorem find_or_head_const (p : DWord → Bool) (T : DWord) (ex : List Nat) :
    (((ex.map (fun _ => T)).find? p).or (ex.map (fun _ => T)).head?) = if ex = [] then none else some T := by
  cases ex with
  | nil => rfl
  | cons l ex =>
    rw [List.map_cons, List.head?_cons, List.find?_cons, if_neg (List.cons_ne_nil _ _)]
    cases p T with
    | true => rfl
    | false =>
      dsimp only
      cases found : (ex.map (fun _ => T)).find? p with
      | none => rfl
      | some u =>
        obtain ⟨l, -, rfl⟩ := List.mem_map.1 (List.mem_of_find?_eq_some found)
        rfl

/-- The target of `brt` in a lane whose index is below its bound. -/
def brtTarget (f : FmtB) (line : DWord) (s : State) (e : Env) (l : Nat) : Option DWord :=
  if readOp s e l .n32 .w32 f.d ≤ readOp s e l .n32 .w32 f.a then none
  else some (line + ((f.off.signExtend 64 + BitVec.ofNat 64 (readOp s e l .n32 .w32 f.a)) <<< 6) + f.slot.setWidth 64)

/-- The target of `brx`, and of `callx`. -/
def pairTarget (f : FmtB) (s : State) (e : Env) (l : Nat) : Option DWord := some (BitVec.ofNat 64 (readOp s e l .b64 .w64 f.a))

theorem brtTarget_watched (f : FmtB) (line : DWord) {s : State} {x : Clause} {k : Nat} {g : Warp → Warp} (hg : Watches g) :
    brtTarget f line (s.modWarp x.core k g) (x.env k) = brtTarget f line s (x.env k) := by
  funext l
  unfold brtTarget
  rw [readOp_watched (c := x.core) (k := k) hg (x.env k) rfl rfl, readOp_watched (c := x.core) (k := k) hg (x.env k) rfl rfl]

theorem pairTarget_watched (f : FmtB) {s : State} {x : Clause} {k : Nat} {g : Warp → Warp} (hg : Watches g) :
    pairTarget f (s.modWarp x.core k g) (x.env k) = pairTarget f s (x.env k) := by
  funext l
  unfold pairTarget
  rw [readOp_watched (c := x.core) (k := k) hg (x.env k) rfl rfl]

/-- Settles O15: each branch transfers the lanes that take it, once the spin detector has seen it. -/
theorem branches : Obligations.Branches := by
  unfold Obligations.Branches
  refine fun s x k w h idle => ⟨fun f hr => ?bra, fun f ls ex hr => ?brt, fun f ls ex hr => ?brx⟩
  case bra =>
    intro ex T s0 fine
    have taken := takenBy_all (fun _ _ _ => T) s (x.env k) ex
    have seen : seenBy s x k (ex.map (fun _ => T)) = s0 := congrArg (spinBranch s x.core k x.pc) (find_or_head_const _ T ex)
    have goes := branchWarp_goes (tgt := fun _ _ _ => some T) (ls := x.lanesOf k) (ex := ex) idle rfl (fun _ _ => rfl) (by
      rw [taken, List.map_map]
      intro e he
      obtain ⟨l, hl, rfl⟩ := List.mem_map.1 he
      exact seen ▸ fine.resolve_left (List.ne_nil_of_mem hl))
    rw [taken, List.map_map] at goes
    have runs : exec (.bra f) s = .next (endIssue x (branchWarp (fun _ _ _ => some T) x s k (x.lanesOf k))) :=
      congrArg Host.Outcome.next (issue_ready h hr rfl)
    rw [runs, goes]
    exact congrArg (fun u => Host.Outcome.next (endIssue x ((ex.map (fun l => (l, T))).foldl _ u))) seen
  case brt =>
    intro idx T takes s0 fine
    have taken : takenBy (brtTarget f x.addr) s (x.env k) ex = takes.map (fun l => (l, T l)) := takenBy_below _ _ _ s (x.env k) ex
    have goes := branchWarp_goes (ls := ls) idle hr.guard (fun _ => brtTarget_watched f x.addr) (by
      rw [taken, List.map_map]
      intro e he
      obtain ⟨l, hl, rfl⟩ := List.mem_map.1 he
      exact fine l hl)
    rw [taken, List.map_map] at goes
    have runs : exec (.brt f) s = .next (endIssue x (branchWarp (brtTarget f x.addr) x s k ls)) :=
      congrArg Host.Outcome.next (issue_goes h hr rfl)
    rw [runs, goes]
    rfl
  case brx =>
    intro T s0 fine
    have taken : takenBy (pairTarget f) s (x.env k) ex = ex.map (fun l => (l, T l)) := takenBy_all _ s (x.env k) ex
    have goes := branchWarp_goes (ls := ls) idle hr.guard (fun _ => pairTarget_watched f) (by
      rw [taken, List.map_map]
      intro e he
      obtain ⟨l, hl, rfl⟩ := List.mem_map.1 he
      exact fine l hl)
    rw [taken, List.map_map] at goes
    have runs : exec (.brx f) s = .next (endIssue x (branchWarp (pairTarget f) x s k ls)) :=
      congrArg Host.Outcome.next (issue_goes h hr rfl)
    rw [runs, goes]
    rfl

end Sys2Proof.Machine
end

section
/-! PROOFS. The atomics and reductions of group 0x8 (R244, R245) are memory forms. -/

namespace Sys2Proof.Machine

/-- The operation that MMOD names, in the order of the table of R244. -/
theorem intAtom_eq (f : FmtM) : intAtom f =
    [AtomOp.add, .min, .max, .and, .or, .xor, .exch, .cas, .inc, .dec, .fadd, .fmin].getD (f.mmod.toNat % 16) .fmax := by
  have table : ∀ n < 16, atomOfCode n =
      [AtomOp.add, .min, .max, .and, .or, .xor, .exch, .cas, .inc, .dec, .fadd, .fmin].getD n .fmax := by decide
  have field : bitsOf f.mmod.toNat 0 4 = f.mmod.toNat % 16 := by simp [bitsOf]
  rw [intAtom, field]
  exact table _ (Nat.mod_lt _ (by decide))

theorem floatAtomOf_eq (f : FmtM) : floatAtomOf f = [AtomOp.fadd, .fmin].getD (f.mmod.toNat % 16) .fmax := by
  have field : bitsOf f.mmod.toNat 0 4 = f.mmod.toNat % 16 := by simp [bitsOf]
  rw [floatAtomOf, field]
  match f.mmod.toNat % 16 with
  | 0 | 1 => rfl
  | _ + 2 => rfl

/-- Each atomic form is what its instruction hands to `memory`, for every lane that it issues in. -/
theorem exec_atomic (f : FmtM) : ∀ m ∈ atomicForms f,
    (∀ s, exec m.instr s = .next (memory m s)) ∧ ctrlOnly m.instr = false ∧
      ∀ x s k ls, accessing m.instr x s k ls = issuingSet x s k ls := by
  intro m hm
  unfold atomicForms at hm
  dsimp only at hm
  rw [← intAtom_eq, ← floatAtomOf_eq] at hm
  simp only [List.mem_cons, List.not_mem_nil, or_false] at hm
  rcases hm with rfl | rfl | rfl | rfl | rfl | rfl | rfl | rfl | rfl | rfl | rfl | rfl <;>
    exact ⟨fun _ => rfl, rfl, fun _ _ _ _ => rfl⟩

/-- Settles O20: by the law of the memory forms. -/
theorem atomicForms_sent : Obligations.AtomicForms := by
  unfold Obligations.AtomicForms
  intro f m hm
  obtain ⟨runs, notCtrl, lanes⟩ := exec_atomic f m hm
  exact memoryForm_of runs notCtrl lanes

end Sys2Proof.Machine
end

section
/-! PROOFS. Calls and returns (R207 to R209) as memory forms, and the accesses whose misalignment traps before any lane is sent (R14,
R237). -/

namespace Sys2Proof.Machine

/-! ## The checks before translation (R237) -/

/-- The lanes whose address, or whose operands, the form cannot take. -/
def MemForm.off (m : MemForm) (s : State) (e : Env) (act : List Nat) : List Nat :=
  act.filter (fun l => m.addr s e l % (m.align : Int) != 0 || m.bad s e l)

theorem memCheck_of_off {m : MemForm} {s : State} {e : Env} {act : List Nat} (ex : List Nat) (h : m.off s e act ≠ []) :
    memCheck m s e ex act =
      some (Cause.misaligned, m.off s e act, truncN 64 (m.addr s e ((m.off s e act).headD 0))) := by
  unfold memCheck
  have some' : (act.filter (fun l => m.addr s e l % (m.align : Int) != 0 || m.bad s e l) != []) = true := bne_iff_ne.2 h
  rw [if_pos some']
  rfl

/-- Nothing turns a form away that can be sent. -/
theorem memCheck_of_sendable {m : MemForm} {s : State} {x : Clause} {k : Nat} {ex : List Nat} {place : Nat → Place} {leaf : Nat → Nat}
    (hk : k ≠ ctrlSlot) (h : Sendable m s x k ex place leaf) : memCheck m s (x.env k) ex ex = none := by
  have noOff : ex.filter (fun l => m.addr s (x.env k) l % (m.align : Int) != 0 || m.bad s (x.env k) l) = [] :=
    List.filter_eq_nil_iff.2 fun l hl => by simp [h.aligned l hl]
  unfold memCheck
  dsimp only
  rw [noOff, if_neg (show ¬(x.env k).slot = ctrlSlot from hk)]
  have noWatch : ∀ p : Nat → Bool, (∀ l ∈ ex, p l = false) → ∀ q, (ex.filter q).filter p = [] := fun p hp q =>
    List.filter_eq_nil_iff.2 fun l hl => by simp [hp l (List.mem_of_mem_filter hl)]
  rw [noWatch _ fun l hl => ?_]
  · rfl
  · have unwatched := h.unwatched l hl
    dsimp only [Clause.env]
    split
    · next scratch => rw [if_pos scratch] at unwatched; exact unwatched
    · next general =>
      rw [if_neg general] at unwatched
      split
      · next whole => rw [if_pos whole] at unwatched; exact unwatched
      · next part => rw [if_neg part] at unwatched; exact unwatched

/-- A form that a misaligned lane turns away. -/
theorem memWarp_of_off {m : MemForm} {s : State} {x : Clause} {k : Nat} {ls ex : List Nat} (idle : stoppedAt s x.core k x.pc = none)
    (accessed : accessing m.instr x s k ls = ex) (h : m.off s (x.env k) (launchedOf s x.core k ex) ≠ []) :
    memWarp m x s k ls = raiseTrap s x.core k Cause.misaligned x.pc
      { lanes := maskOf (m.off s (x.env k) (launchedOf s x.core k ex))
        addr := BitVec.ofNat 64 (truncN 64 (m.addr s (x.env k) ((m.off s (x.env k) (launchedOf s x.core k ex)).headD 0))) } := by
  unfold memWarp
  simp only [accessed, idle, memCheck_of_off ex h]

/-- What makes a misaligned form trap in the sense of `MisalignedForm`. -/
theorem misalignedForm_of {m : MemForm} {one : Bool} (runs : ∀ s, exec m.instr s = .next (memory m s)) (notCtrl : ctrlOnly m.instr = false)
    (lanes : ∀ x s k ls, accessing m.instr x s k ls = if one then (issuingSet x s k ls).take 1 else issuingSet x s k ls) :
    MisalignedForm m one := by
  intro s x k w ls ex h hr idle a off some'
  have accessed : accessing m.instr x s k ls = if one then ex.take 1 else ex := by
    rw [lanes]
    unfold issuingSet
    rw [idle]
    dsimp only
    rw [hr.guard]
  have same : m.off s (x.env k) (launchedOf s x.core k (if one then ex.take 1 else ex)) = off := by
    unfold MemForm.off launchedOf
    rw [List.filter_filter]
    exact List.filter_congr fun l _ => Bool.and_comm _ _
  have traps := memWarp_of_off idle accessed (same ▸ some')
  rw [same] at traps
  rw [runs]
  unfold memory
  rw [issue_goes h hr notCtrl, traps]

/-! ## Streams that trap (R265, R266) -/

section
variable {i : Instr} {s : State} {x : Clause} {k : Nat} {t : Stream}

/-- A stream form that issues does what its step does. -/
theorem stream_of_issues (h : StreamIssues i s x k t) (f : StreamStep) :
    stream i f s = match (f x s k t).2 with
      | .next => streamNext x (f x s k t).1 k
      | .stay => endStreamClause (f x s k t).1
      | .goto pc =>
        let s1 := endStreamClause ((f x s k t).1.modStream x.core k (fun t => { t with pc := pc, buf := [] }))
        if t.stepping then raiseStreamTrap s1 x.core k Cause.singleStep pc { lanes := 1 } else s1 := by
  have head := h.head
  have timing : (streamRepro s t && i.operands.any isTiming) = false := by
    rcases h.timing with plain | untimed
    · rw [plain, Bool.false_and]
    · rw [untimed, Bool.and_false]
  unfold stream
  cases hs : s.clauses with
  | nil => rw [hs] at head; exact absurd head (by simp)
  | cons y tail =>
    rw [hs, List.head?_cons, Option.some.injEq] at head
    subst head
    simp only [h.picker, h.stream, h.guard, timing, Bool.false_eq_true, if_false] <;> rfl

/-- A stream form that traps. -/
theorem stream_traps (h : StreamIssues i s x k t) {f : StreamStep} {cause detail addr : Nat}
    (hf : f x s k t = streamTrap x s k cause detail addr) :
    stream i f s = endStreamClause (raiseStreamTrap s x.core k cause x.pc
      { lanes := 1, detail := detail, addr := BitVec.ofNat 64 addr }) := by
  rw [stream_of_issues h, hf]
  rfl

/-- A form on queues and memory whose queues are configured, with no acquire of the stream under way, runs. -/
theorem streamMem_runs {qs : List Nat} {f : StreamStep} (known : ∀ q ∈ qs, queueKnown s t.wg q = true)
    (free : streamBusy s x.core k (fun o => o.order.acquires) = false) : streamMem qs f x s k t = f x s k t := by
  have configured : qs.any (fun q => !queueKnown s t.wg q) = false := List.any_eq_false.2 fun q hq => by simp [known q hq]
  unfold streamMem streamAcquiring
  rw [configured, free]
  rfl

theorem queueKnown_of {o : Operand} (h : ∃ q nb g, o = .queue q nb ∧ s.wgs.at? t.wg = some g ∧ (g.queues.at? q.toNat).isSome) :
    queueKnown s t.wg (queueOf o) = true := by
  obtain ⟨q, nb, g, rfl, group, queue⟩ := h
  unfold queueKnown
  rw [group]
  exact queue

end

/-- The address of a stream access in the statement's words (R266). -/
theorem streamAddr_eq (s : State) (c : Nat) (t : Stream) (f : FmtM) (n : Nat) : streamAddr s c t f n =
    truncN 64 ((streamRead s c t .n64 .w64 f.addr : Int) + (n * 2 ^ (f.mmod.toNat % 16) : Nat) + f.off.toInt) := by
  have scale : scaleOf f = 2 ^ (f.mmod.toNat % 16) := by simp [scaleOf, bitsOf]
  unfold streamAddr
  rw [scale]

theorem rowPush_misaligned {x : Clause} {f : FmtM} {q va : Nat} {s : State} {k : Nat} {t : Stream} (h : va % 4 ≠ 0) :
    rowPush x f q va s k t = streamTrap x s k Cause.misaligned 0 va := by
  unfold rowPush
  exact if_pos (bne_iff_ne.2 h)

theorem gatherRows_misaligned {x : Clause} {f : FmtM} {n : Nat} {s : State} {k : Nat} {t : Stream} {ws : List Word}
    (stream : (s.core x.core).streams.at? k = some t) (rows : t.gath = some ws)
    (h : streamAddr s x.core t f (ws.getD t.row 0).toNat % 4 ≠ 0) :
    gatherRows x f k (n + 1) s = streamTrap x s k Cause.misaligned 0 (streamAddr s x.core t f (ws.getD t.row 0).toNat) := by
  unfold gatherRows
  rw [stream]
  dsimp only
  rw [rows]
  dsimp only
  rw [rowPush_misaligned h]
  rfl

/-! ## `waita` (R250) -/

/-- `waita` checks the loads that it makes (R250). -/
theorem waitaWarp_of_off {f : FmtM} {s : State} {x : Clause} {k : Nat} {ls ex : List Nat} (executing : guardLanes s x k ls = ex)
    (h : (awaitLoad f).off s (x.env k) (launchedOf s x.core k ex) ≠ []) :
    waitaWarp f x s k ls = raiseTrap s x.core k Cause.misaligned x.pc
      { lanes := maskOf ((awaitLoad f).off s (x.env k) (launchedOf s x.core k ex))
        addr := BitVec.ofNat 64 (truncN 64 ((awaitLoad f).addr s (x.env k)
          (((awaitLoad f).off s (x.env k) (launchedOf s x.core k ex)).headD 0))) } := by
  have check := memCheck_of_off (m := { loadForm (.waita f) f (tyBytes f.ty) f.ty.pos (addrPair f) false false with odd := true }) ex h
  unfold waitaWarp
  dsimp only
  rw [executing, check]
  rfl

/-! ## Pushes and pops as memory forms (R207) -/

section
variable {m : MemForm} {s : State} {x : Clause} {k : Nat} {ex : List Nat} {place : Nat → Place} {leaf : Nat → Nat}

/-- Whether a form that is no multicast store can be sent does not depend on its data. -/
theorem Sendable.with_data (h : Sendable m s x k ex place leaf) (single : m.body ≠ .multicast) (d : State → Env → Nat → Nat) :
    Sendable { m with data := d } s x k ex place leaf where
  idle := h.idle
  free := h.free
  launched := h.launched
  aligned := h.aligned
  unwatched := h.unwatched
  resolved := h.resolved
  clean l hl := by
    have clean := h.clean l hl
    unfold meetsLost at clean ⊢
    dsimp only
    split
    · next body => rw [body] at clean; exact clean
    · next body => rw [body] at clean; exact clean
    · next body => exact absurd body single
    · next notWb notInv notMulti =>
      split at clean
      · next body => exact absurd body notWb
      · next body => exact absurd body notInv
      · next body => exact absurd body single
      · exact clean
  plain := h.plain
  near := h.near
  number := h.number

/-- What a form sends depends on its data in the lanes that execute it alone. -/
theorem sends_with_data (d : State → Env → Nat → Nat) (same : ∀ l ∈ ex, d s (x.env k) l = m.data s (x.env k) l) (ls : List Nat) :
    ({ m with data := d } : MemForm).sends s x k ls ex place leaf = m.sends s x k ls ex place leaf := by
  have accs : ex.map (({ m with data := d } : MemForm).acc s x k ex place leaf) = ex.map (m.acc s x k ex place leaf) :=
    List.map_congr_left fun l hl => by
      unfold MemForm.acc
      dsimp only
      rw [same l hl]
  have op : ({ m with data := d } : MemForm).op s x k ex place leaf = m.op s x k ex place leaf := by
    unfold MemForm.op
    rw [accs]
  unfold MemForm.sends
  rw [op, accs]
  rfl

/-- A form is sent as another with the same data in the lanes that execute it. -/
theorem memWarp_sends_with_data (hk : k ≠ ctrlSlot) (sub : ex.Sublist lanes32) (h : Sendable m s x k ex place leaf)
    (single : m.body ≠ .multicast) (d : State → Env → Nat → Nat) (same : ∀ l ∈ ex, d s (x.env k) l = m.data s (x.env k) l) (ls : List Nat)
    (accessed : accessing m.instr x s k ls = ex) :
    memWarp { m with data := d } x s k ls = m.sends s x k ls ex place leaf :=
  (memWarp_sends (m := { m with data := d }) hk sub accessed (h.with_data single d)).trans (sends_with_data d same ls)

/-! ## What a push or a pop leaves as it is -/

theorem stoppedAt_modWarp (s : State) (c k : Nat) (pc : DWord) (f : Warp → Warp) (hf : ∀ w, (f w).stopped = w.stopped) :
    stoppedAt (s.modWarp c k f) c k pc = stoppedAt s c k pc := by
  unfold stoppedAt
  rw [State.warp?_modWarp_self]
  cases s.warp? c k with
  | none => rfl
  | some w => simp only [Option.map_some, hf]

theorem stoppedAt_congr {s u : State} {c k : Nat} (h : u.warp? c k = s.warp? c k) (pc : DWord) :
    stoppedAt u c k pc = stoppedAt s c k pc := by unfold stoppedAt; rw [h]

theorem stoppedAt_park (s : State) {c k : Nat} (hk : k < Config.warpSlots) (l : Nat) (y : Wait) (pc : DWord) :
    stoppedAt (park s c k l y) c k pc = stoppedAt s c k pc := by
  have parked : stoppedAt ((s.modLane c k l (fun z => { z with wait := y })).leave k l) c k pc = stoppedAt s c k pc := by
    rw [stoppedAt_congr (warp?_leave _ _ _ _ _), modLane_eq hk]
    exact stoppedAt_modWarp _ _ _ _ _ fun _ => rfl
  unfold park
  dsimp only
  split
  · rw [stoppedAt_modWarp]
    · exact parked
    · exact fun _ => rfl
  · exact parked

theorem stoppedAt_parkAll (s : State) {c k : Nat} (hk : k < Config.warpSlots) (ls : List Nat) (y : Wait) (pc : DWord) :
    stoppedAt (parkAll s c k ls y) c k pc = stoppedAt s c k pc := by
  unfold parkAll
  induction ls generalizing s with
  | nil => rfl
  | cons l ls ih => rw [List.foldl_cons, ih, stoppedAt_park s hk]

theorem ops_park (s : State) (c k l : Nat) (y : Wait) : (park s c k l y).ops = s.ops := by
  have lane : (s.modLane c k l (fun z => { z with wait := y })).ops = s.ops := by unfold State.modLane; split <;> rfl
  unfold park
  dsimp only
  split
  · exact (State.leave_ops _ _ _).trans lane
  · exact (State.leave_ops _ _ _).trans lane

theorem ops_parkAll (s : State) (c k : Nat) (ls : List Nat) (y : Wait) : (parkAll s c k ls y).ops = s.ops := by
  unfold parkAll
  induction ls generalizing s with
  | nil => rfl
  | cons l ls ih => rw [List.foldl_cons, ih, ops_park]

theorem raiseFlag_none (s : State) (c k : Nat) : raiseFlag s c k none = s := rfl

/-- A push or a pop, which marks no line and raises no flag, is in flight, and its lanes wait for it. -/
theorem sends_sync (hk : k ≠ ctrlSlot) (sync : m.body.sync = true) (flag : m.fs = .none) (dst : m.dst = none) (some' : ex ≠ []) (ls : List Nat) :
    m.sends s x k ls ex place leaf =
      (parkAll { s with fresh := s.fresh + 1, ops := s.ops.put s.fresh (m.op s x k ex place leaf) } x.core k ex .transfer).modWarp x.core k
        (fun w => { w with lat := ls.foldl (fun m l => m.del (32 * x.slot + l)) w.lat }) := by
  have noSelf : (ex.map (m.acc s x k ex place leaf)).filter (fun a => selfLane m s (x.env k) a.lane) = [] :=
    List.filter_eq_nil_iff.2 fun a _ => by simp [selfLane, sync]
  have nothing : ∀ u n, selfNow u n [] = u := fun u n => by unfold selfNow; split <;> rfl
  have noFlag : (m.op s x k ex place leaf).flag = none := by unfold MemForm.op; rw [flag]; rfl
  unfold MemForm.sends
  dsimp only
  rw [noSelf, nothing, if_neg some', if_pos sync, noFlag, raiseFlag_none, dst]
  unfold setLatches
  rw [if_neg hk]

end

/-! ## Calls (R207) -/

/-- The target of a lane among those taken. -/
theorem find_target (T : Nat → DWord) {ex : List Nat} {l : Nat} (hl : l ∈ ex) :
    (ex.map (fun l => (l, T l))).find? (fun e => decide (e.1 = l)) = some (l, T l) := by
  induction ex with
  | nil => exact absurd hl List.not_mem_nil
  | cons a ex ih =>
    rw [List.map_cons, List.find?_cons]
    by_cases same : a = l
    · subst same
      simp
    · have rest : l ∈ ex := (List.mem_cons.1 hl).resolve_left (Ne.symm same)
      simp only [same, decide_false]
      exact ih rest

/-- The target that a lane has among those taken. -/
def targetOf (ts : List (Nat × DWord)) (l : Nat) : DWord := match ts.find? (fun e => e.1 = l) with | some e => e.2 | none => 0

/-- The push of a call as `callGo` makes it. -/
def callPush (i : Instr) (pc : DWord) (ts : List (Nat × DWord)) : MemForm := pushOf i pc (targetOf ts)

section
variable {i : Instr} {s : State} {x : Clause} {k : Nat} {w : Warp} {ls ex : List Nat} {T : Nat → DWord}

theorem targetOf_map {l : Nat} (hl : l ∈ ex) : targetOf (ex.map (fun l => (l, T l))) l = T l := by
  unfold targetOf
  rw [find_target T hl]

theorem callPush_data {l : Nat} (e : Env) (hl : l ∈ ex) :
    (callPush i x.pc (ex.map (fun l => (l, T l)))).data s e l = (pushOf i x.pc T).data s e l := by
  unfold callPush pushOf
  dsimp only
  rw [targetOf_map hl]

theorem callPush_off (e : Env) (act : List Nat) (ts : List (Nat × DWord)) :
    (callPush i x.pc ts).off s e act = (pushOf i x.pc T).off s e act := rfl

theorem accessing_self (lanes : ∀ ls, accessing i x s k ls = issuingSet x s k ls) (idle : stoppedAt s x.core k x.pc = none)
    (all : guardLanes s x k ex = ex) : accessing i x s k ex = ex := by
  rw [lanes]
  unfold issuingSet
  rw [idle]
  exact all

/-- `callGo` with its push named. -/
theorem callGo_eq (others : List Nat) (ts : List (Nat × DWord)) : callGo i x s k others ts =
    let act := launchedOf s x.core k (ts.map Prod.fst)
    let help := ts.filter (fun e => !act.contains e.1)
    let depth (l : Nat) : Nat := match s.warp? x.core k with | some w => (w.hrs.atD l []).length | none => 0
    let past (s : State) : State := if (stoppedAt s x.core k x.pc).isSome then passBy x s k others else s
    match memCheck (callPush i x.pc ts) s (x.env k) act act with
    | some _ => memWarp (callPush i x.pc ts) x s k (ts.map Prod.fst)
    | none =>
      let s1 := help.foldl (fun s e =>
        if depth e.1 < 16 then
          jump (s.modWarp x.core k (fun w => { w with hrs := w.hrs.put e.1 (nextPc x.pc :: w.hrs.atD e.1 []) })) x.core k e.1 e.2
        else s) (markDone s x.core k x.pc (help.map Prod.fst))
      let s2 := if act = [] then s1 else past (memWarp (callPush i x.pc ts) x s1 k act)
      let deep := (help.filter (fun e => 16 ≤ depth e.1)).map Prod.fst
      if deep = [] then s2 else exitLanes s2 x.core k deep := rfl

/-- What `callGo` does once the push has passed its checks, when every lane of the call is launched. -/
theorem callGo_launched (others : List Nat) (idle : stoppedAt s x.core k x.pc = none)
    (launched : ∀ l ∈ ex, (s.lane x.core k l).kind = .launched) (some' : ex ≠ [])
    (check : memCheck (callPush i x.pc (ex.map (fun l => (l, T l)))) s (x.env k) ex ex = none)
    (after : stoppedAt (memWarp (callPush i x.pc (ex.map (fun l => (l, T l)))) x s k ex) x.core k x.pc = none) :
    callGo i x s k others (ex.map (fun l => (l, T l))) = memWarp (callPush i x.pc (ex.map (fun l => (l, T l)))) x s k ex := by
  have lanes : (ex.map (fun l => (l, T l))).map Prod.fst = ex := by rw [List.map_map]; exact List.map_id' ex
  have all : launchedOf s x.core k ex = ex := List.filter_eq_self.2 fun l hl => by simp [launched l hl]
  have noHelp : (ex.map (fun l => (l, T l))).filter (fun e => !ex.contains e.1) = [] :=
    List.filter_eq_nil_iff.2 fun e he => by
      obtain ⟨l, hl, rfl⟩ := List.mem_map.1 he
      simp [hl]
  have notDone : markDone s x.core k x.pc [] = s := by unfold markDone; rw [idle]
  rw [callGo_eq]
  dsimp only
  rw [lanes, all, noHelp, check]
  simp only [List.map_nil, List.filter_nil, List.foldl_nil, notDone, if_neg some', if_true]
  rw [after]
  rfl

/-- A call that nothing turns away sends its pushes (R207). -/
theorem callGo_sends {place : Nat → Place} {leaf : Nat → Nat} (others : List Nat) (hk : k < Config.warpSlots) (sub : ex.Sublist lanes32)
    (lanes : ∀ ls, accessing i x s k ls = issuingSet x s k ls) (all : guardLanes s x k ex = ex) (some' : ex ≠ [])
    (h : Sendable (pushOf i x.pc T) s x k ex place leaf) :
    callGo i x s k others (ex.map (fun l => (l, T l))) = (pushOf i x.pc T).sends s x k ex ex place leaf := by
  have notCtrl : k ≠ ctrlSlot := Nat.ne_of_lt hk
  have sent : memWarp (callPush i x.pc (ex.map (fun l => (l, T l)))) x s k ex = (pushOf i x.pc T).sends s x k ex ex place leaf :=
    memWarp_sends_with_data notCtrl sub h (by simp [pushOf]) _ (fun l hl => callPush_data (x.env k) hl) ex
      (accessing_self lanes h.idle all)
  have check : memCheck (callPush i x.pc (ex.map (fun l => (l, T l)))) s (x.env k) ex ex = none :=
    memCheck_of_sendable (m := callPush i x.pc (ex.map (fun l => (l, T l)))) notCtrl (h.with_data (by simp [pushOf]) _)
  have after : stoppedAt (memWarp (callPush i x.pc (ex.map (fun l => (l, T l)))) x s k ex) x.core k x.pc = none := by
    rw [sent, sends_sync notCtrl rfl rfl rfl some', stoppedAt_modWarp, stoppedAt_parkAll _ hk]
    · exact (stoppedAt_congr rfl _).trans h.idle
    · exact fun _ => rfl
  rw [callGo_launched others h.idle h.launched some' check after, sent]

/-- A call whose stack pointers are misaligned traps, once its targets have passed (R207). -/
theorem callGo_misaligned (others : List Nat) (lanes : ∀ ls, accessing i x s k ls = issuingSet x s k ls)
    (idle : stoppedAt s x.core k x.pc = none) (all : guardLanes s x k ex = ex)
    (off : (pushOf i x.pc T).off s (x.env k) (launchedOf s x.core k ex) ≠ []) :
    callGo i x s k others (ex.map (fun l => (l, T l))) = raiseTrap s x.core k Cause.misaligned x.pc
      { lanes := maskOf ((pushOf i x.pc T).off s (x.env k) (launchedOf s x.core k ex))
        addr := BitVec.ofNat 64 (truncN 64 ((pushOf i x.pc T).addr s (x.env k)
          (((pushOf i x.pc T).off s (x.env k) (launchedOf s x.core k ex)).headD 0))) } := by
  have exLanes : (ex.map (fun l => (l, T l))).map Prod.fst = ex := by rw [List.map_map]; exact List.map_id' ex
  have check := memCheck_of_off (m := callPush i x.pc (ex.map (fun l => (l, T l)))) (launchedOf s x.core k ex) off
  rw [callGo_eq]
  dsimp only
  rw [exLanes, check]
  exact memWarp_of_off (m := callPush i x.pc (ex.map (fun l => (l, T l)))) idle (accessing_self lanes idle all) off

/-- The guard of lanes that execute is true. -/
theorem Goes.guard_self {ops : List (Operand × Pos)} (hr : Goes i ops s x k w ls ex) : guardLanes s x k ex = ex := by
  rw [← hr.guard]
  unfold guardLanes
  rw [List.filter_filter]
  simp only [Bool.and_self]

theorem Goes.sublist_lanes32 {ops : List (Operand × Pos)} (hr : Goes i ops s x k w ls ex) : ex.Sublist lanes32 :=
  (hr.guard ▸ List.filter_sublist : ex.Sublist ls).trans (hr.sub.trans List.filter_sublist)

/-- A call that goes, once every target has passed. -/
theorem call_goes {ops : List (Operand × Pos)} {tgt : State → Env → Nat → Option DWord} {step : WarpStep} (h : Issues s x k w)
    (hr : Goes i ops s x k w ls ex) (notCtrl : ctrlOnly i = false) (runs : exec i s = .next (issue i ops step s))
    (transfers : step x s k ls = transferWarp tgt (callGo i) x s k ls)
    (idle : stoppedAt s x.core k x.pc = none) (targets : ∀ l, tgt s (x.env k) l = some (T l)) (some' : ex ≠ [])
    (fine : ∀ l ∈ ex, checkTarget s x.core (s.ctxOf x.core k) (lineKind x.line) (T l) = (s, .ok)) :
    exec i s = .next (endIssue x (callGo i x s k (ls.filter (fun l => !(ex.map (fun l => (l, T l))).any (fun e => e.1 = l)))
      (ex.map (fun l => (l, T l))))) := by
  have taken : ex.filterMap (fun l => (tgt s (x.env k) l).map (fun t => (l, t))) = ex.map (fun l => (l, T l)) := by
    simp only [targets, Option.map_some]
    exact congrFun (List.filterMap_eq_map' (f := fun l => (l, T l))) ex
  rw [runs, issue_goes h hr notCtrl, transfers, transferWarp_goes idle hr.guard taken fun e he => by
    obtain ⟨l, hl, rfl⟩ := List.mem_map.1 he
    exact fine l hl]
  rw [if_neg (by simpa using some')]

theorem exec_call (f : FmtB) (s : State) : exec (.call f) s = .next (issue (.call f) [] (fun x s k ls =>
    transferWarp (fun _ _ _ => some (targetB f x.addr)) (callGo (.call f)) x s k ls) s) := rfl

theorem exec_callx (f : FmtB) (s : State) :
    exec (.callx f) s = .next (issue (.callx f) [(f.a, .w64)] (transferWarp (pairTarget f) (callGo (.callx f))) s) := rfl

end

/-! ## Returns (R207 to R209) -/

section
variable {s : State} {x : Clause} {k : Nat} {ls ex : List Nat}

/-- The hidden return address of a helper lane (R209). -/
def hiddenTop (s : State) (e : Env) (l : Nat) : Option DWord :=
  match s.warp? e.core e.slot with
  | some w => (w.hrs.atD l []).head?
  | none => none

/-- The pop of a return as `execRet` makes it. -/
def retPop : MemForm :=
  { popOfRet with
    data := fun s e l => if (s.lane e.core e.slot l).kind == .helper then ((hiddenTop s e l).getD 0).toNat
      else 2 ^ 128 * (s.lane e.core e.slot l).sp.toNat }

/-- What a return does in one warp. -/
def retWarp : WarpStep := fun x s k ls =>
  let out := (issuingSet x s k ls).filter (fun l => (s.lane x.core k l).kind == .helper && (hiddenTop s (x.env k) l).isNone)
  let at_ := stoppedAt s x.core k x.pc
  let id := match at_ with | some y => y.op | none => s.fresh
  let hold := (issuingSet x s k ls).filter (fun l => at_.isSome && popFaulted s x.core k id l && popsOwed s x.core k id)
  let pops := ls.filter (fun l => !out.contains l && !hold.contains l)
  let act := launchedOf s x.core k (issuingSet x s k pops)
  match memCheck retPop s (x.env k) act act with
  | some _ => memWarp retPop x s k pops
  | none => finalizePops (if out = [] then parkAll (memWarp retPop x s k pops) x.core k hold .drain
      else exitLanes (parkAll (memWarp retPop x s k pops) x.core k hold .drain) x.core k out) id

theorem exec_ret (s : State) : exec .ret s = .next (issue .ret [] retWarp s) := rfl

theorem retPop_data {l : Nat} (launched : (s.lane x.core k l).kind = .launched) :
    retPop.data s (x.env k) l = popOfRet.data s (x.env k) l := by
  have notHelper : ((s.lane (x.env k).core (x.env k).slot l).kind == LaneKind.helper) = false := by
    rw [show (s.lane (x.env k).core (x.env k).slot l).kind = .launched from launched]; rfl
  unfold retPop popOfRet
  dsimp only
  rw [notHelper]
  rfl

/-- Once a pop is in flight the return's targets are not there to be checked. -/
theorem finalizePops_of_flying {id : Nat} {o : MemOp} {c : Nat} (op : s.ops.at? id = some o) (pop : o.body = .pop)
    (owner : o.owner = .warp c k) (flying : o.lanes.any (fun a => !popBack a) = true) : finalizePops s id = s := by
  unfold finalizePops
  rw [op]
  dsimp only
  rw [pop, owner]
  dsimp only
  rw [flying, Bool.or_true]
  rfl

/-- The mark of a pop that has come back lies above the stack pointer in the data (R208). -/
theorem popBack_acc (place : Nat → Place) (leaf : Nat → Nat) (l : Nat) : popBack (popOfRet.acc s x k ex place leaf l) = false := by
  have small : 2 ^ 128 * (s.lane x.core k l).sp.toNat < 2 ^ 200 := by
    have := (s.lane x.core k l).sp.isLt
    omega
  unfold popBack MemForm.acc popOfRet
  dsimp only [Clause.env]
  rw [BitVec.getLsbD_or, BitVec.getLsbD_ofNat, Nat.testBit_lt_two_pow small, Bool.and_false, Bool.false_or]
  exact BitVec.getLsbD_zero

/-- A return that nothing turns away sends its pops (R207). -/
theorem retWarp_sends {w : Warp} {place : Nat → Place} {leaf : Nat → Nat} (h : Issues s x k w) (hr : Goes .ret [] s x k w ls ex)
    (some' : ex ≠ []) (hs : Sendable popOfRet s x k ex place leaf) : retWarp x s k ls = popOfRet.sends s x k ls ex place leaf := by
  have issuing : issuingSet x s k ls = ex := by unfold issuingSet; rw [hs.idle]; exact hr.guard
  have noHelper : ex.filter (fun l => (s.lane x.core k l).kind == .helper && (hiddenTop s (x.env k) l).isNone) = [] :=
    List.filter_eq_nil_iff.2 fun l hl => by simp [hs.launched l hl]
  have noHold : ex.filter (fun l => Option.isSome (none : Option Stopped) && popFaulted s x.core k s.fresh l && popsOwed s x.core k s.fresh) = [] :=
    List.filter_eq_nil_iff.2 fun l _ => by simp
  have all : launchedOf s x.core k ex = ex := List.filter_eq_self.2 fun l hl => by simp [hs.launched l hl]
  have every : ls.filter (fun l => !([] : List Nat).contains l && !([] : List Nat).contains l) = ls :=
    List.filter_eq_self.2 fun l _ => by simp
  have check : memCheck retPop s (x.env k) ex ex = none :=
    memCheck_of_sendable (m := retPop) h.not_ctrlSlot (hs.with_data (by simp [popOfRet]) _)
  have sent : memWarp retPop x s k ls = popOfRet.sends s x k ls ex place leaf :=
    memWarp_sends_with_data h.not_ctrlSlot hr.sublist_lanes32 hs (by simp [popOfRet]) _ (fun l hl => retPop_data (hs.launched l hl)) ls issuing
  have op : (popOfRet.sends s x k ls ex place leaf).ops.at? s.fresh = some (popOfRet.op s x k ex place leaf) := by
    rw [sends_sync h.not_ctrlSlot rfl rfl rfl some', State.modWarp_ops, ops_parkAll]
    exact NMap.at?_put_self ..
  have flying : (popOfRet.op s x k ex place leaf).lanes.any (fun a => !popBack a) = true := by
    obtain ⟨l, hl⟩ := List.exists_mem_of_ne_nil _ some'
    exact List.any_eq_true.2 ⟨_, List.mem_map_of_mem hl, by rw [popBack_acc]; rfl⟩
  unfold retWarp
  dsimp only
  rw [issuing, hs.idle, noHelper]
  dsimp only
  rw [noHold, every, issuing, all, check]
  dsimp only
  rw [if_pos rfl, sent]
  exact finalizePops_of_flying op rfl rfl flying

/-- A return whose stack pointers are misaligned traps (R237). -/
theorem ret_misaligned : MisalignedForm popOfRet false := by
  intro s x k w ls ex h hr idle a off some'
  have issuing : ∀ L, issuingSet x s k L = guardLanes s x k L := fun L => by unfold issuingSet; rw [idle]
  have noHold : ex.filter (fun l => Option.isSome (none : Option Stopped) && popFaulted s x.core k s.fresh l && popsOwed s x.core k s.fresh) = [] :=
    List.filter_eq_nil_iff.2 fun l _ => by simp
  have launched : ∀ out : List Nat, (∀ l ∈ out, (s.lane x.core k l).kind = .helper) →
      launchedOf s x.core k (guardLanes s x k (ls.filter (fun l => !out.contains l && !([] : List Nat).contains l))) =
        launchedOf s x.core k ex := fun out helper => by
    rw [← hr.guard]
    unfold launchedOf guardLanes
    rw [List.filter_filter, List.filter_filter, List.filter_filter]
    refine List.filter_congr fun l _ => ?_
    by_cases hl : l ∈ out
    · simp [helper l hl]
    · simp [hl]
  have same : retPop.off s (x.env k) (launchedOf s x.core k ex) = off := by
    unfold MemForm.off launchedOf
    rw [List.filter_filter]
    exact List.filter_congr fun l _ => Bool.and_comm _ _
  have lanes := launched (ex.filter (fun l => (s.lane x.core k l).kind == .helper && (hiddenTop s (x.env k) l).isNone)) fun l hl => by
    have helper := (List.mem_filter.1 hl).2
    rw [Bool.and_eq_true] at helper
    exact eq_of_beq helper.1
  have traps : retWarp x s k ls = raiseTrap s x.core k Cause.misaligned x.pc
      { lanes := maskOf off, addr := BitVec.ofNat 64 (truncN 64 (a (off.headD 0))) } := by
    unfold retWarp
    dsimp only
    rw [issuing ls, hr.guard, idle]
    dsimp only
    rw [noHold, issuing, lanes, memCheck_of_off _ (same ▸ some')]
    dsimp only
    rw [memWarp_of_off (m := retPop) idle (issuing _) (by rw [lanes]; exact same ▸ some'), lanes, same]
    rfl
  exact (exec_ret s).trans (congrArg Host.Outcome.next ((issue_goes h hr rfl).trans (congrArg _ traps)))

end

/-- Settles O16: calls and returns are the memory forms of their pushes and pops. -/
theorem callsAndReturns : Obligations.CallsAndReturns := by
  unfold Obligations.CallsAndReturns
  refine fun s x k w ls ex place leaf h => ⟨fun f hr some' hs fine => ?call, fun f hr some' hs fine => ?callx, fun hr some' hs => ?ret⟩
  case call =>
    exact (call_goes h hr rfl (exec_call f s) rfl hs.idle (fun _ => rfl) some' fine).trans (congrArg (Host.Outcome.next <| endIssue x ·)
      (callGo_sends _ h.slot hr.sublist_lanes32 (fun _ => rfl) hr.guard_self some' hs))
  case callx =>
    exact (call_goes h hr rfl (exec_callx f s) rfl hs.idle (fun _ => rfl) some' fine).trans (congrArg (Host.Outcome.next <| endIssue x ·)
      (callGo_sends _ h.slot hr.sublist_lanes32 (fun _ => rfl) hr.guard_self some' hs))
  case ret => rw [exec_ret, issue_goes h hr rfl, retWarp_sends h hr some' hs]

/-! ## Misaligned stack pointers -/

theorem push_off (i : Instr) (pc : DWord) (T : Nat → DWord) (s : State) (x : Clause) (k : Nat) (ex : List Nat) :
    (pushOf i pc T).off s (x.env k) (launchedOf s x.core k ex) =
      ex.filter (fun l => (s.lane x.core k l).kind == .launched && decide ((s.lane x.core k l).sp.toNat % 8 ≠ 0)) := by
  unfold MemForm.off launchedOf
  rw [List.filter_filter]
  refine List.filter_congr fun l _ => ?_
  have odd : (((pushOf i pc T).addr s (x.env k) l % ((pushOf i pc T).align : Int) != 0) || (pushOf i pc T).bad s (x.env k) l) =
      decide ((s.lane x.core k l).sp.toNat % 8 ≠ 0) := by
    show (((((s.lane x.core k l).sp - 8).toNat : Int) % 8 != 0) || false) = _
    rw [Bool.or_false, Bool.eq_iff_iff, bne_iff_ne, decide_eq_true_eq]
    have := (s.lane x.core k l).sp.isLt
    rw [BitVec.toNat_sub, show (8 : DWord).toNat = 8 from rfl]
    omega
  rw [odd, Bool.and_comm]

theorem push_addr (i : Instr) (pc : DWord) (T : Nat → DWord) (s : State) (x : Clause) (k l : Nat) :
    BitVec.ofNat 64 (truncN 64 ((pushOf i pc T).addr s (x.env k) l)) = (s.lane x.core k l).sp - 8 := by
  have small := ((s.lane x.core k l).sp - 8).isLt
  show BitVec.ofNat 64 (truncN 64 (((s.lane x.core k l).sp - 8).toNat : Int)) = _
  rw [truncN_natCast, Nat.mod_eq_of_lt small, BitVec.ofNat_toNat, BitVec.setWidth_eq]

/-- A call of misaligned stack pointers traps (R207, R237). -/
theorem call_misaligned {i : Instr} {s : State} {x : Clause} {k : Nat} {ex : List Nat} {T : Nat → DWord}
    (lanes : ∀ ls, accessing i x s k ls = issuingSet x s k ls) (idle : stoppedAt s x.core k x.pc = none)
    (all : guardLanes s x k ex = ex) (others : List Nat)
    (off : ex.filter (fun l => (s.lane x.core k l).kind == .launched && decide ((s.lane x.core k l).sp.toNat % 8 ≠ 0)) ≠ []) :
    callGo i x s k others (ex.map (fun l => (l, T l))) = raiseTrap s x.core k Cause.misaligned x.pc
      { lanes := maskOf (ex.filter (fun l => (s.lane x.core k l).kind == .launched && decide ((s.lane x.core k l).sp.toNat % 8 ≠ 0)))
        addr := (s.lane x.core k ((ex.filter (fun l => (s.lane x.core k l).kind == .launched &&
          decide ((s.lane x.core k l).sp.toNat % 8 ≠ 0))).headD 0)).sp - 8 } := by
  rw [callGo_misaligned others lanes idle all (by rw [push_off]; exact off), push_off, push_addr]

/-- Settles O21: the memory forms by their check before translation, calls, returns and streams by theirs. -/
theorem misaligned : Obligations.Misaligned := by
  unfold Obligations.Misaligned
  refine ⟨fun f => ⟨fun m hm => ?forms, ?waita, ?ldu⟩, ret_misaligned, fun s x k w ls ex h idle => ?calls, fun f s x k t => ?streams⟩
  case forms =>
    rcases List.mem_append.1 hm with plain | atomic
    · obtain ⟨runs, notCtrl, lanes⟩ := exec_loadStore f m (List.mem_append_left _ plain)
      exact misalignedForm_of runs notCtrl lanes
    · obtain ⟨runs, notCtrl, lanes⟩ := exec_atomic f m atomic
      exact misalignedForm_of runs notCtrl lanes
  case waita =>
    intro s x k w ls ex h hr idle a off some'
    have same : (awaitLoad f).off s (x.env k) (launchedOf s x.core k ex) = off := by
      unfold MemForm.off launchedOf
      rw [List.filter_filter]
      exact List.filter_congr fun l _ => Bool.and_comm _ _
    have traps := waitaWarp_of_off hr.guard (same ▸ some')
    rw [same] at traps
    exact congrArg Host.Outcome.next ((issue_goes h hr rfl).trans (congrArg (endIssue x) traps))
  case ldu => exact misalignedForm_of (exec_ldu f) rfl fun _ _ _ _ => rfl
  case calls =>
    refine ⟨fun f hr off fine => ?_, fun f hr off fine => ?_⟩
    · rw [call_goes h hr rfl (exec_call f s) rfl idle (fun _ => rfl) (fun none' => off (by rw [none']; rfl)) fine]
      exact congrArg (fun u => Host.Outcome.next (endIssue x u)) (call_misaligned (fun _ => rfl) idle hr.guard_self _ off)
    · rw [call_goes h hr rfl (exec_callx f s) rfl idle (fun _ => rfl) (fun none' => off (by rw [none']; rfl)) fine]
      exact congrArg (fun u => Host.Outcome.next (endIssue x u)) (call_misaligned (fun _ => rfl) idle hr.guard_self _ off)
  case streams =>
    intro c rd addr va trap free known
    have at_ : ∀ n, streamAddr s x.core t f n = addr n := streamAddr_eq s x.core t f
    refine ⟨fun h free off => ?ald, fun h free queue off => ?apush, fun ws h free queue index rows off => ?agath, fun h free queue off => ?ast⟩
    case ald =>
      refine congrArg Host.Outcome.next (stream_traps h ?_)
      rw [streamMem_runs (by simp) free]
      dsimp only
      rw [at_]
      exact if_pos (bne_iff_ne.2 off)
    case apush =>
      refine congrArg Host.Outcome.next (stream_traps h ?_)
      rw [streamMem_runs (by simpa using queueKnown_of queue) free, at_]
      exact rowPush_misaligned off
    case agath =>
      refine congrArg Host.Outcome.next (stream_traps h ?_)
      rw [streamMem_runs (by simpa using ⟨queueKnown_of queue, queueKnown_of index⟩) free, rows]
      dsimp only
      rw [gatherRows_misaligned h.stream rows (by rw [at_]; exact off), at_]
    case ast =>
      refine congrArg Host.Outcome.next (stream_traps h ?_)
      rw [streamMem_runs (by simpa using queueKnown_of queue) free]
      unfold astStep
      dsimp only
      rw [at_]
      exact if_pos (bne_iff_ne.2 off)

end Sys2Proof.Machine
end

section
/-! PROOFS. A step, the words written out, and the state after reset. -/

namespace Sys2Proof.Machine

/-- Settles O42: by what `todo` gives for an empty agenda and a clause at the head. -/
theorem stepRunsDecoded : Obligations.StepRunsDecoded := by
  intro s x t i ha hp hc hd
  simp only [step, todo, ha, hc, hp, hd, Bool.false_eq_true, if_false, aimed]
  rfl

/-- Only a reset is one. -/
theorem isReset_eq_false {i : Instr} (h : i ≠ .reset) : Instr.isReset i = false := by
  unfold Instr.isReset
  split <;> trivial

/-- Settles O43: one clause for each branch of `todo`. -/
theorem stepTakesHardware : Obligations.StepTakesHardware := by
  refine ⟨fun s i t ha hi hp => ?_, fun s i t ha hp hi => ?_, fun s ha hc hp => ?_, fun s a l => rfl, fun s u => ⟨?_, ?_⟩⟩
  · have hrun : (Instr.isEvent i && (!s.pow.off || Instr.isReset i)) = true := by
      rcases hp with hp | rfl
      · simp [hi, hp]
      · simp [hi, Instr.isReset]
    simp only [step, todo, ha, hrun, if_true] <;> rfl
  · have hrun : (Instr.isEvent i && (!s.pow.off || Instr.isReset i)) = false := by simp [hp, isReset_eq_false hi]
    simp only [step, todo, ha, hrun, Bool.false_eq_true, if_false]
  · simp [step, todo, ha, hc, hp]
  · rfl
  · rfl

/-- Settles O59: each word is decoded. -/
theorem sampleWords : Obligations.SampleWords := by
  unfold Obligations.SampleWords
  decide

/-- After reset a register of a table but the launch queues' reads 0, where it has no default of its own. -/
theorem resetRead_eq_zero {r off v : Nat} (hr : r ∈ [0x600001, 0x600004, 0x600005, 0x600006, 0x600007, 0x600008]) (ho : off < 0x10000)
    (hv : regRead State.reset (r * 0x10000 + off) = some v) : v = 0 := by
  have hdiv : (r * 0x10000 + off) / 0x10000 = r := by omega
  have hmod : (r * 0x10000 + off) % 0x10000 = off := by omega
  simp only [regRead, hdiv, hmod] at hv
  simp only [List.mem_cons, List.not_mem_nil, or_false] at hr
  rcases hr with rfl | rfl | rfl | rfl | rfl | rfl <;> simp only [readXl, readArea, readPr, readRp, readEl, readPw] at hv <;> split at hv <;>
    cases hv <;> rfl

/-- After reset the registers of a launch queue read 0, but for the default of LQCFG. -/
theorem resetRead_queue {q off : Nat} (hq : q < 64) (ho : off < 0x40) :
    regRead State.reset (0x6000030000 + 0x40 * q + off) = readLq State.reset (0x40 * q + off) := by
  have hdiv : (0x6000030000 + 0x40 * q + off) / 0x10000 = 0x600003 := by omega
  have hmod : (0x6000030000 + 0x40 * q + off) % 0x10000 = 0x40 * q + off := by omega
  simp only [regRead, hdiv, hmod]

/-- Settles O60: table by table. -/
theorem resetState : Obligations.ResetState := by
  refine ⟨fun r hr off ho v hv => resetRead_eq_zero hr ho hv, fun q hq => ?_, by decide, by decide, rfl, rfl, rfl, rfl, rfl, rfl, rfl, rfl,
    fun a => rfl⟩
  have hdef : State.reset.lq q = LQueue.reset := rfl
  have hle : ¬ Config.queues ≤ q := by simp only [Config.queues]; omega
  have hread (off : Nat) (ho : off < 0x40) : (0x40 * q + off) / 0x40 = q ∧ (0x40 * q + off) % 0x40 = off := by omega
  refine ⟨fun off ho => ?_, ?_, rfl⟩
  · simp only [List.mem_cons, List.not_mem_nil, or_false] at ho
    rcases ho with rfl | rfl | rfl | rfl <;>
      (rw [resetRead_queue hq (by decide), readLq, (hread _ (by decide)).1, (hread _ (by decide)).2, if_neg hle]; rfl)
  · rw [show 0x6000030008 + 0x40 * q = 0x6000030000 + 0x40 * q + 8 by omega, resetRead_queue hq (by decide), readLq,
      (hread _ (by decide)).1, (hread _ (by decide)).2, if_neg hle]
    rfl

end Sys2Proof.Machine
end

section
/-! PROOFS. Power. -/

namespace Sys2Proof.Machine

/-! ## What the instructions of this part mean -/

theorem exec_pwclkWrite (v s) : exec (.pwclkWrite v) s = execPwclkWrite v s := rfl

theorem exec_pwgateWrite (v s) : exec (.pwgateWrite v) s = execPwgateWrite v s := rfl

theorem exec_pwrefWrite (v s) : exec (.pwrefWrite v) s = execPwrefWrite v s := rfl

theorem exec_pwtripclr (v s) : exec (.pwtripclr v) s = execPwtripclr v s := rfl

theorem exec_clockChangeEffective (s) : exec .clockChangeEffective s = execClockChangeEffective s := rfl

theorem exec_thermalTrip (die temp s) : exec (.thermalTrip die temp) s = execThermalTrip die temp s := rfl

/-- A temperature bound holds of the hottest die when it holds of every die. -/
theorem hottest_lt_iff (s : State) (t : Nat) (ht : 0 < t) : hottest s < t ↔ ∀ e ∈ s.pow.temps, e.2 < t := by
  have fold (l : NMap Nat) : ∀ n, l.foldl (fun n (e : Nat × Nat) => Nat.max n e.2) n < t ↔ n < t ∧ ∀ e ∈ l, e.2 < t := by
    induction l with
    | nil => simp
    | cons e l ih =>
      intro n
      rw [List.foldl_cons, ih, show Nat.max n e.2 = max n e.2 from rfl, max_lt_iff, List.forall_mem_cons, and_assoc]
  exact (fold _ 0).trans (and_iff_right ht)

/-- PWGATE refuses a word exactly when it gates a die that is at work and not gated. -/
theorem gates_busy_iff (s : State) (v : DWord) :
    ((List.range 4).any (fun d => (v.setWidth 4).getLsbD d && !s.pow.gate.getLsbD d && dieBusy s d)) = true ↔
      ∃ d, d < 4 ∧ v.getLsbD d = true ∧ s.pow.gate.getLsbD d = false ∧ dieBusy s d = true := by
  simp only [List.any_eq_true, List.mem_range, Bool.and_eq_true, Bool.not_eq_true', BitVec.getLsbD_setWidth, decide_eq_true_eq]
  exact exists_congr fun d => ⟨fun ⟨hd, ⟨⟨_, hv⟩, hg⟩, hb⟩ => ⟨hd, hv, hg, hb⟩, fun ⟨hd, hv, hg, hb⟩ => ⟨hd, ⟨⟨hd, hv⟩, hg⟩, hb⟩⟩

/-- Settles O56: each command by the branches of its definition. -/
theorem power : Obligations.Power := by
  refine ⟨fun s v hb => ?_, fun s v hb => ⟨?_, fun ht => ?_, fun ht => ?_, fun hfree => ?_, fun hbusy => ?_⟩, fun s hb ht => ?_,
    fun s v hv ht hb => ⟨fun hcool => ?_, fun hhot => ?_⟩, fun s die temp => ⟨fun ht => ?_, fun ht => ?_⟩⟩
  · simp only [exec_pwclkWrite, exec_pwgateWrite, exec_pwrefWrite, exec_pwtripclr, execPwclkWrite, execPwgateWrite, execPwrefWrite, execPwtripclr, pwError, hb, Bool.true_or, if_true, and_self]
  · simp only [exec_pwclkWrite, execPwclkWrite, hb, Bool.false_eq_true, if_false]
  · simp only [exec_pwrefWrite, execPwrefWrite, hb, ht, Bool.false_eq_true, if_false]
  · have : s.pow = { s.pow with effRef := s.pow.effRef } := rfl
    simp only [exec_pwrefWrite, execPwrefWrite, hb, ht, Bool.false_eq_true, if_false, if_true]
  · have hn : ¬ _ := fun h => by
      obtain ⟨d, hd, hvd, -, hbd⟩ := (gates_busy_iff s v).1 h
      exact absurd hbd (by simp [hfree d hd hvd])
    simp only [exec_pwgateWrite, execPwgateWrite, hb, Bool.false_or, if_neg hn]
  · simp only [exec_pwgateWrite, execPwgateWrite, hb, Bool.false_or, if_pos ((gates_busy_iff s v).2 hbusy), pwError]
  · simp only [exec_clockChangeEffective, execClockChangeEffective, hb, ht, Bool.not_true, Bool.false_eq_true, if_false]
  · have hlt := (hottest_lt_iff s 95 (by decide)).2 hcool
    simp only [exec_pwtripclr, execPwtripclr, hb, hv, ht, Bool.not_true, Bool.or_self, Bool.false_eq_true, if_false, if_neg (Nat.not_le.2 hlt)]
  · obtain ⟨e, he, hle⟩ := hhot
    have hge : 95 ≤ hottest s := by
      by_contra hlt
      exact absurd ((hottest_lt_iff s 95 (by decide)).1 (Nat.not_le.1 hlt) e he) (Nat.not_lt.2 hle)
    simp only [exec_pwtripclr, execPwtripclr, hb, hv, ht, Bool.not_true, Bool.or_self, Bool.false_eq_true, if_false, if_pos hge, pwError]
  · simp only [exec_thermalTrip, execThermalTrip, if_pos ht]
  · simp only [exec_thermalTrip, execThermalTrip, if_neg (Nat.not_lt.2 ht)]

end Sys2Proof.Machine
end

section
/-! PROOFS. Taking a trap. -/

namespace Sys2Proof.Machine

/-- Records that enter the trap queue leave the rest of the core as it was. -/
theorem enterTraps_frame (n : Nat) (x : Core) :
    (x.enterTraps n).warps = x.warps ∧ (x.enterTraps n).ctrl = x.ctrl ∧ (x.enterTraps n).store = x.store ∧
      (x.enterTraps n).tqTail = x.tqTail := by
  induction n generalizing x with
  | zero => exact ⟨rfl, rfl, rfl, rfl⟩
  | succ n ih =>
    unfold Core.enterTraps
    split
    · exact ⟨rfl, rfl, rfl, rfl⟩
    · split
      · exact ih _
      · exact ⟨rfl, rfl, rfl, rfl⟩

/-- A full queue takes no record. -/
theorem enterTraps_of_full (n : Nat) {x : Core} (hfull : 64 ≤ x.tqHead - x.tqTail) : x.enterTraps n = x := by
  cases n with
  | zero => rfl
  | succ n =>
    unfold Core.enterTraps
    split
    · rfl
    · rw [if_neg (Nat.not_lt.2 hfull)]

/-- With room for all of them, every record that is held back enters, the last with the last number. -/
theorem enterTraps_of_room (r : TrapRec) (held : List TrapRec) (x : Core) (hx : x.tqHeld = held ++ [r])
    (hroom : x.tqHead - x.tqTail + held.length < 64) :
    let y := x.enterTraps (held.length + 1)
    y.tqHeld = [] ∧ y.tqHead = x.tqHead + held.length + 1 ∧
      y.trapq.at? ((x.tqHead + held.length) % 64) = some { r with seq := x.tseq + held.length } := by
  induction held generalizing x with
  | nil =>
    have hlt : x.tqHead - x.tqTail < 64 := by simpa using hroom
    simp [Core.enterTraps, hx, hlt]
  | cons a held ih =>
    have hlt : x.tqHead - x.tqTail < 64 := by omega
    have hlen : x.tqHead + 1 - x.tqTail + held.length < 64 := by rw [List.length_cons] at hroom; omega
    have hstep : x.enterTraps ((a :: held).length + 1) = Core.enterTraps (held.length + 1) { x with
        trapq := x.trapq.put (x.tqHead % 64) { a with seq := x.tseq }, tqHead := x.tqHead + 1, tseq := x.tseq + 1, tqHeld := held ++ [r] } := by
      rw [List.length_cons]
      conv_lhs => unfold Core.enterTraps
      rw [hx, List.cons_append]
      exact if_pos hlt
    rw [hstep, List.length_cons, show x.tqHead + (held.length + 1) = x.tqHead + 1 + held.length by omega,
      show x.tseq + (held.length + 1) = x.tseq + 1 + held.length by omega]
    exact ih _ rfl hlen

/-- The core as it stands when a record comes to its trap queue: a control core that waits for one goes on. -/
def Core.trapComes (x : Core) (r : TrapRec) : Core :=
  { x with ctrl := if x.ctrl.wait = .trapQueue then { x.ctrl with wait := .run } else x.ctrl, tqHeld := x.tqHeld ++ [r] }

theorem pushTrap_eq (s : State) (c : Nat) (r : TrapRec) :
    pushTrap s c r = s.modCore c (fun x => (x.trapComes r).enterTraps (x.tqHeld.length + 1)) := by
  refine congrArg (s.modCore c) (funext fun x => ?_)
  by_cases h : x.ctrl.wait = .trapQueue <;> simp [h, Core.trapComes]

/-- A warp that has trapped, with the done mask of the instruction that stood stopped. -/
def Warp.takesTrap (cause : Nat) (pc : DWord) (done : Word) (w : Warp) : Warp :=
  { w with trapped := true, cause := cause, trapPc := pc, dmask := done, stepping := none }

/-- A trap taken in a warp, in one formula: its lanes leave every clause, the warp stops, the record comes to the core's queue. -/
theorem raiseTrap_eq {s : State} {c k : Nat} {w : Warp} (cause : Nat) (pc : DWord) (i : TrapInfo) (hw : s.warp? c k = some w)
    (hk : k < Config.warpSlots) (htr : w.trapped = false) :
    let done := i.done ||| (match w.stopped with | some y => y.done | none => 0)
    raiseTrap s c k cause pc i = pushTrap ((s.dropWarp c k).modWarp c k (Warp.takesTrap cause pc done)) c
      { pc := pc, cause := cause, slot := k, done := done, lanes := i.lanes, warp := w.warpid, detail := i.detail, imm := i.imm
        addr := i.addr, seq := 0
        wg := match s.wgs.at? w.wg with | some x => x.g | none => 0
        queue := match s.launches.at? w.launch with | some x => x.queue | none => 0 } := by
  have hne : k ≠ ctrlSlot := fun h => by simp [h, ctrlSlot, Config.warpSlots] at hk
  have hdone : (match w.stopped with | some y => i.done ||| y.done | none => i.done) =
      i.done ||| (match w.stopped with | some y => y.done | none => 0) := by
    cases w.stopped <;> simp
  simp only [raiseTrap, if_neg hne, hw, htr, Bool.false_eq_true, if_false]
  rw [← hdone]; rfl

/-- Settles O35: the trap in one formula, then what the queue does with its record. -/
theorem trapTaken : Obligations.TrapTaken := by
  intro s c k cause pc i w hw hk t y done r
  have hne : k ≠ ctrlSlot := fun h => by simp [h, ctrlSlot, Config.warpSlots] at hk
  refine ⟨fun htr => by simp [t, raiseTrap, hne, hw, htr], fun htr => ?_⟩
  let stop := Warp.takesTrap cause pc done
  let z : Core := { y with warps := y.warps.upd k stop }
  have ht : t = ((s.dropWarp c k).modWarp c k stop).modCore c (fun x => (x.trapComes r).enterTraps (x.tqHeld.length + 1)) :=
    (raiseTrap_eq cause pc i hw hk htr).trans (pushTrap_eq ..)
  have hcore : t.core c = (z.trapComes r).enterTraps (y.tqHeld.length + 1) := by
    rw [ht, State.core_modCore_self, State.core_modWarp, if_pos rfl]
    rfl
  have hother (b : Nat) (hb : b ≠ c) : t.core b = s.core b := by
    rw [ht, State.core_modCore, if_neg hb, State.core_modWarp, if_neg hb]
    rfl
  obtain ⟨hwarps, hctrl, hstore, htail⟩ := enterTraps_frame (y.tqHeld.length + 1) (z.trapComes r)
  rw [← hcore] at hwarps hctrl hstore htail
  have hwarp (j : Nat) : t.warp? c j = if j = k then (s.warp? c k).map stop else s.warp? c j := by
    unfold State.warp?
    rw [hwarps]
    exact NMap.at?_upd ..
  refine ⟨by rw [hwarp, if_pos rfl, hw]; rfl, by rw [ht]; rfl, fun hroom => ?_, fun hroom hnone => ?_, fun hfull => ?_, hctrl, hstore,
    by rw [ht]; rfl, fun j hj => by rw [hwarp, if_neg hj], hother⟩
  · rw [hcore]
    exact enterTraps_of_room r y.tqHeld (z.trapComes r) rfl hroom
  · have hroom' : (z.trapComes r).tqHead - (z.trapComes r).tqTail < 64 := hroom
    have hheld : (z.trapComes r).tqHeld = [r] := by simp [Core.trapComes, z, hnone]
    rw [hcore, hnone]
    simp only [List.length_nil, Core.enterTraps, hheld, if_pos hroom']
    exact ⟨rfl, rfl, rfl, rfl, trivial⟩
  · rw [hcore, enterTraps_of_full (x := z.trapComes r) _ hfull]
    exact ⟨rfl, rfl, rfl⟩

end Sys2Proof.Machine
end

section
/-! PROOFS. Words that are no instruction. -/

namespace Sys2Proof.Machine

/-- An instruction with a register field outside the allocation takes the register-range trap in the lanes of the clause (R46). -/
theorem issue_outOfRange {i : Instr} {ops : List (Operand × Pos)} {f : WarpStep} {s : State} {x : Clause} {k : Nat} {w : Warp}
    (h : Issues s x k w) (hc : ctrlOnly i = false) (hr : rangeOk w.regs ops = false) :
    issue i ops f s = endIssue x (raiseTrap s x.core k 0x05 x.pc { lanes := maskOf (x.lanesOf k) }) := by
  have hk : k ≠ ctrlSlot := (Nat.lt_of_lt_of_le h.slot (by decide)).ne
  have ha : s.alloc x.core k = w.regs := by simp [State.alloc, hk, h.warp]
  have hw : issueWarp i ops f x s k = raiseTrap s x.core k 0x05 x.pc { lanes := maskOf (x.lanesOf k) } := by
    simp [issueWarp, hk, hc, ha, hr, Cause.registerRange]
  unfold issue
  rw [h.cons]
  cases hx : x.picker with
  | stream n => exact absurd hx (h.picker.2 n)
  | control => exact absurd hx h.picker.1
  | part p => simp only [hx, h.slots, List.foldl_cons, List.foldl_nil, hw]

/-- Settles O45: by what `undecoded` does for a partition, and by the register check of `issueWarp`. -/
theorem wordsRefused : Obligations.WordsRefused := by
  refine ⟨?_, fun i ops f s x k w h hc hr => issue_outOfRange h hc hr, fun n r p => ?_⟩
  · rintro s x t e ha hp hcl ⟨p, hpk⟩ hop hd
    simp only [step, todo, ha, hcl, hp, hd, Bool.false_eq_true, if_false, undecoded, hpk, hop, Bool.false_and]
    cases e <;> rfl
  · cases p <;> simp only [rangeOk, posSpan, List.all_cons, List.all_nil, Bool.and_true] <;> rfl

end Sys2Proof.Machine
end

section
/-! PROOFS. Pre-emption and reproducible runs. -/

namespace Sys2Proof.Machine

/-! ## What the instructions of this part mean -/

theorem exec_preempt (v s) : exec (.preempt v) s = execPreempt v s := rfl

theorem exec_resume (v s) : exec (.resume v) s = execResume v s := rfl

theorem exec_courseCommit (s) : exec .courseCommit s = execCourseCommit s := rfl

theorem exec_rpend (v s) : exec (.rpend v) s = execRpend v s := rfl

theorem exec_rprun (v s) : exec (.rprun v) s = execRprun v s := rfl

theorem exec_preemptSaveComplete (s) : exec .preemptSaveComplete s = execPreemptSaveComplete s := rfl

theorem exec_contextRestore (wg s) : exec (.contextRestore wg) s = execContextRestore wg s := rfl

theorem exec_rpclose (v s) : exec (.rpclose v) s = execRpclose v s := rfl

/-- A word with bits above bit 1 is no command of PRCMD (R330). -/
theorem bitsOf_ne_zero_of_div (v : DWord) (h : v.toNat / 4 ≠ 0) : (bitsOf v.toNat 2 62 != 0) = true := by
  have hv := v.isLt
  simp only [bitsOf, bne_iff_ne]
  omega

/-- Bit 0 of a word is its remainder by 2. -/
theorem getLsbD_zero_of_mod {v : DWord} {n : Nat} (hn : 2 ∣ n) (h : v.toNat % n = 1) : v.getLsbD 0 = true := by
  obtain ⟨m, rfl⟩ := hn
  rw [BitVec.getLsbD, Nat.testBit_zero, decide_eq_true_eq]
  rw [Nat.mod_mul] at h
  omega

/-- A word below 2 ^ 52 has no bit above. -/
theorem div_bne_zero_of_lt {v : DWord} (h : v.toNat < 2 ^ 52) : (v.toNat / 2 ^ 52 != 0) = false := by
  rw [Nat.div_eq_of_lt h]; rfl

/-- A halt leaves every core and the memory as they were, and of the clauses those of launches that go on and the control core's (R330). -/
theorem haltClauses_clauses {s : State} {z : Clause} (h : z ∈ (haltClauses s).clauses) : z ∈ s.clauses ∧ (z.picker ≠ .control →
    ∀ id x, (s.core z.core).launch = some id → s.launches.at? id = some x → s.pre.halted = true → s.pre.active.getLsbD x.queue = false) := by
  simp only [haltClauses, List.mem_filter] at h
  obtain ⟨hz, hf⟩ := h
  refine ⟨hz, fun hp id x hl hx hh => ?_⟩
  rw [hl] at hf
  cases hk : z.picker with
  | control => exact absurd hk hp
  | part p | stream p => simpa [hk, haltedLaunch, hh, hx] using hf

/-- The bound of a halt at each clock point (R4, R369). -/
theorem haltBound_eq (s : State) : haltBound s = [20, 23, 28].getD s.pow.eff 40 := by
  unfold haltBound
  split <;> rename_i h
  · rw [h]; rfl
  · rw [h]; rfl
  · rw [h]; rfl
  · match he : s.pow.eff with
    | 0 | 1 | 2 => simp [he] at *
    | _ + 3 => rfl

/-- An accepted PREEMPT (R330). -/
theorem execPreempt_go {s : State} (h : s.pre.busy = false) : ∃ t, exec (.preempt 1) s = .next t ∧
    t.pre.active = s.pre.active ||| s.pre.mask ∧ t.pre.busy = true ∧ t.pre.halted = true ∧ t.pre.err = false ∧
    t.pre.micros.toNat ≤ [20, 23, 28].getD s.pow.eff 40 ∧ t.cores = s.cores ∧ t.mem = s.mem ∧
    (∀ z ∈ t.clauses, z ∈ s.clauses ∧ (z.picker ≠ .control → ∀ id x, (s.core z.core).launch = some id → s.launches.at? id = some x →
      (s.pre.active ||| s.pre.mask).getLsbD x.queue = false)) := by
  refine ⟨haltClauses { s with pre := { s.pre with
      active := s.pre.active ||| s.pre.mask, busy := true, err := false, halted := true
      micros := BitVec.ofNat 32 ((Config.freeBits s.tick).toNat % (haltBound s + 1)) } }, ?_, rfl, rfl, rfl, rfl, ?_, rfl, rfl,
    fun z hz => ?_⟩
  · simp only [exec_preempt, execPreempt, h]
    rfl
  · rw [← haltBound_eq]
    calc (BitVec.ofNat 32 ((Config.freeBits s.tick).toNat % (haltBound s + 1))).toNat
        ≤ (Config.freeBits s.tick).toNat % (haltBound s + 1) := by rw [BitVec.toNat_ofNat]; exact Nat.mod_le _ _
      _ ≤ haltBound s := Nat.lt_succ_iff.1 (Nat.mod_lt _ (Nat.succ_pos _))
  · obtain ⟨hm, hc⟩ := haltClauses_clauses hz
    exact ⟨hm, fun hp id x hl hx => hc hp id x hl hx rfl⟩

/-- PREEMPT and RESUME turn away what is no command, and any command while busy (R330). -/
theorem prcmd_refused {s : State} {v : DWord} (h : s.pre.busy = true ∨ v.toNat / 4 ≠ 0) :
    exec (.preempt v) s = .next (prError s) ∧ exec (.resume v) s = .next (prError s) := by
  have hb : (s.pre.busy || bitsOf v.toNat 2 62 != 0) = true := by
    rcases h with h | h
    · simp [h]
    · simp [bitsOf_ne_zero_of_div v h]
  simp only [exec_preempt, exec_resume, execPreempt, execResume, hb, if_true, and_self]

/-- What a pre-empt does with a workgroup of a launch that is not killed (R155, R330). -/
theorem preemptWg_eq {s : State} {g : Nat} {z : Wg} {x : Launch} (hz : s.wgs.at? g = some z) (hx : s.launches.at? z.launch = some x)
    (hw : wgWarps s g ≠ []) : preemptWg s g =
      if !stoppedLaunch s x || x.killed then s else if x.flag 2 then discardWg s g else if x.saveArea = 0 then s
      else let u := saveWg s g (recAddr x z.g); { u with pre := { u.pre with order := u.pre.order.filter (· != g) ++ [g] } } := by
  simp only [preemptWg, hz, hx, hw, decide_false, Bool.or_false]

/-- A commit that the run is not ready for does nothing (R340). -/
theorem courseCommit_waits {s : State} (h : s.rep.isOpen = false ∨ s.rep.closed.toNat ≤ s.rep.committed.toNat ∨ s.rep.memberLost = true ∨
    courseRuns s (s.rep.committed.toNat + 1) = true) : exec .courseCommit s = .next s := by
  have : (!s.rep.isOpen || s.rep.closed.toNat < s.rep.committed.toNat + 1 || s.rep.memberLost ||
      courseRuns s (s.rep.committed.toNat + 1)) = true := by
    rcases h with h | h | h | h
    · simp [h]
    · simp [Nat.lt_succ_of_le h]
    · simp [h]
    · simp [h]
  simp only [exec_courseCommit, execCourseCommit, this, if_true]

/-- A commit whose snapshot has passed (R340). -/
theorem courseCommit_passed {s : State} {id : Nat} (ho : s.rep.isOpen = true) (hc : s.rep.committed.toNat < s.rep.closed.toNat)
    (hl : s.rep.memberLost = false) (hr : courseRuns s (s.rep.committed.toNat + 1) = false) (hs : s.rep.snap = some id)
    (hd : ∀ y ∈ s.track.snaps, y.id ≠ id) : exec .courseCommit s = .next (
      let u := { s with track := { s.track with snaps := s.track.snaps.filter (fun y => some y.id != some id) } }
      let v := dfReleaseAll u (fun e => e.repro && e.course.toNat = s.rep.committed.toNat + 1)
      wakeCourse { v with rep := { v.rep with committed := BitVec.ofNat 32 (s.rep.committed.toNat + 1), writers := [], snap := none } }
        (s.rep.committed.toNat + 1)) := by
  have hpass : snapPassed s = true := by
    have : s.track.snaps.find? (fun x => x.id = id) = none := List.find?_eq_none.2 fun y hy => by simpa using hd y hy
    simp [snapPassed, hs, this]
  have hgo : (!s.rep.isOpen || s.rep.closed.toNat < s.rep.committed.toNat + 1 || s.rep.memberLost ||
      courseRuns s (s.rep.committed.toNat + 1)) = false := by
    simp [ho, hl, hr, Nat.not_lt.2 hc]
  simp only [exec_courseCommit, execCourseCommit, hgo, hs, hpass, Option.isSome_some, if_true, Bool.false_eq_true, if_false, Bool.not_true]

/-- RPEND is turned away while the run has anything left to do (R344). -/
theorem rpend_refused {s : State} {v : DWord} (h : s.rep.isOpen = false ∨ s.rep.closed ≠ s.rep.committed ∨
    (∃ e ∈ s.launches, e.2.repro = true) ∨ reproQueued s = true) : exec (.rpend v) s = .next (rpError s) := by
  have : (s.rep.busy || !s.rep.isOpen || s.rep.closed != s.rep.committed || s.launches.anyV (fun _ x => x.repro) || reproQueued s ||
      v.toNat / 2 ^ 52 != 0 || bitsOf v.toNat 1 11 != 0) = true := by
    rcases h with h | h | ⟨e, he, h⟩ | h
    · simp [h]
    · simp [h]
    · have : s.launches.anyV (fun _ x => x.repro) = true := List.any_eq_true.2 ⟨e, he, h⟩
      simp [this]
    · simp [h]
  simp only [exec_rpend, execRpend, this, if_true]

/-- RPEND with nothing left to do writes the manifest and its signature, where they lie in local memory (R344, log 69). -/
theorem rpend_ends {s : State} {v : DWord} (hb : s.rep.busy = false) (ho : s.rep.isOpen = true) (hc : s.rep.closed = s.rep.committed)
    (hl : ∀ e ∈ s.launches, e.2.repro = false) (hq : reproQueued s = false) (hv : v.toNat < 2 ^ 52) (hm : v.toNat % 4096 = 1) :
    exec (.rpend v) s =
      let full := manifestBody s ++ leBytes 64 (Config.sign s.tick (sha256 (manifestBody s))).toNat
      if 0x5FF0000000 < v.toNat / 4096 * 4096 + full.length then .next (rpError s) else .next { s with
        mem := Mem.splice s.mem (v.toNat / 4096 * 4096) full
        rep := { s.rep with isOpen := false, err := false, manifest := sha256 full } } := by
  have hany : s.launches.anyV (fun _ x => x.repro) = false := List.any_eq_false.2 fun e he => by simp [hl e he]
  have hlow : (bitsOf v.toNat 1 11 != 0) = false := by simp only [bitsOf, bne_eq_false_iff_eq]; omega
  have hbit : v.getLsbD 0 = true := getLsbD_zero_of_mod (n := 4096) (by decide) hm
  simp only [exec_rpend, execRpend, hb, ho, hc, hany, hq, hlow, hbit, div_bne_zero_of_lt hv, bne_self_eq_false, Bool.not_true, Bool.or_self,
    Bool.false_eq_true, if_false, Config.memTop, apply_ite Host.Outcome.next]

/-- RPRUN of a well-formed word is judged by its descriptor (R338). -/
theorem rprun_eq {s : State} {v : DWord} (ho : s.rep.isOpen = false) (hb : s.rep.busy = false) (hv : v.toNat < 2 ^ 52)
    (hm : v.toNat % 128 = 1) :
    exec (.rprun v) s =
      let a := v.toNat / 128 * 128
      let n := 0x80 + 32 * Mem.rd s.mem (a + 4) 2
      let d := Mem.bytes s.mem a n
      .next (if 0x5FF0000000 < a + n ∨ descOk s d = false then rpError s else { s with rep := { s.rep with
        busy := true, err := false, opening := some { desc := d, hashes := [], bytes := [], asked := none } } }) := by
  have hlow : (bitsOf v.toNat 1 6 != 0) = false := by simp only [bitsOf, bne_eq_false_iff_eq]; omega
  have hbit : v.getLsbD 0 = true := getLsbD_zero_of_mod (n := 128) (by decide) hm
  simp only [exec_rprun, execRprun, ho, hb, hlow, hbit, div_bne_zero_of_lt hv, Bool.not_true, Bool.or_self, Bool.false_eq_true, if_false,
    Bool.or_eq_true, decide_eq_true_eq, Bool.not_eq_true']
  rfl

/-- Settles O57: each command by the branches of its definition. -/
theorem preemptionAndRuns : Obligations.PreemptionAndRuns := by
  refine ⟨fun s v => ⟨fun h => prcmd_refused (.inl h), fun h => prcmd_refused (.inr h), execPreempt_go, fun hb ho => ?_⟩, fun s hb => ?_,
    fun s g z x hz hx hw => ⟨fun h => ?_, fun h hk hf => ?_, fun h hk hf ha => ?_⟩, fun s g rest t hh ho hr => ?_, fun s v h => ?_,
    fun s v ho hb hv hm => ⟨fun ha hd => ?_, fun h => ?_⟩, fun n s o => ⟨fun h1 h2 => ?_, fun h1 h2 => ⟨fun bs hr => ?_, fun q pa hr => ?_,
      fun hr => ?_⟩, fun h1 old hold hs hask => ?_⟩, fun s v => ⟨fun hb hv => ?_, fun hv => ?_⟩,
    fun s => ⟨courseCommit_waits, fun id ho hc hl hr hs hd => courseCommit_passed ho hc hl hr hs hd⟩,
    fun s v => ⟨rpend_refused, rpend_ends⟩, fun s b signed => ⟨_, rfl, fun hb hs => ?_⟩⟩
  · simp only [exec_resume, execResume, hb, ho]
    rfl
  · simp only [exec_preemptSaveComplete, execPreemptSaveComplete, hb, Bool.not_true, Bool.false_eq_true, if_false]
  · rw [preemptWg_eq hz hx hw]; simp [h]
  · rw [preemptWg_eq hz hx hw]; simp [h, hk, hf]
  · rw [preemptWg_eq hz hx hw]; simp [h, hk, hf, ha]
  · simp only [exec_contextRestore, execContextRestore, hh, ho, hr, List.head?_cons, bne_self_eq_false, Bool.or_self, Bool.false_eq_true, if_false, resumeEnds]
  · have : (s.rep.isOpen || s.rep.busy) = true := by simpa using h
    simp only [exec_rprun, execRprun, this, Bool.true_or, if_true, rpError]
  · rw [rprun_eq ho hb hv hm]
    simp only [hd, Nat.not_lt.2 ha, Bool.true_eq_false, or_self, if_false]
  · rw [rprun_eq ho hb hv hm]
    simp only [h, if_true, rpError]
  · rw [hashRegions]; simp only [Nat.not_le.2 h1, h2, if_true, if_false]
  · rw [hashRegions]; simp only [Nat.not_le.2 h1, Nat.not_le.2 h2, if_false, show Nat.min = min from rfl, hr]
  · rw [hashRegions]; simp only [Nat.not_le.2 h1, Nat.not_le.2 h2, if_false, show Nat.min = min from rfl, hr]
  · rw [hashRegions]; simp only [Nat.not_le.2 h1, Nat.not_le.2 h2, if_false, show Nat.min = min from rfl, hr]
  · obtain ⟨p, hp⟩ := Option.isSome_iff_exists.1 hold
    simp only [driveRun, hp, hs, hask, Option.isSome_none, Bool.false_eq_true, if_false]
    rw [hashRegions]
    simp only [h1, if_true, openRun]
  · simp only [exec_rpclose, execRpclose, hb, hv, bne_self_eq_false, Bool.or_self, Bool.false_eq_true, if_false]
  · simp only [exec_rpclose, execRpclose, bne_iff_ne.2 hv, Bool.or_true, if_true, rpError]
  · subst hb hs
    simp [measurement]

end Sys2Proof.Machine
end

section
/-! PROOFS. The hardware steps that end or break waits. -/

namespace Sys2Proof.Machine

/-! ## What the instructions of this part mean -/

theorem exec_collectiveIssue (core slot s) : exec (.collectiveIssue core slot) s = execCollectiveIssue core slot s := rfl

theorem exec_convergenceTimeout (core slot s) : exec (.convergenceTimeout core slot) s = execConvergenceTimeout core slot s := rfl

theorem exec_barrierDeadlock (wg s) : exec (.barrierDeadlock wg) s = execBarrierDeadlock wg s := rfl

/-- COLLECTIVE_ISSUE makes the bundle of the lanes that wait where the first ready one does (R133). -/
theorem collectiveIssue_eq {c k l : Nat} {s : State} {w : Warp} {line : Line} (hw : s.warp? c k = some w) (ht : w.trapped = false)
    (hh : haltedLaunch s w.launch = false) (hc : ∀ x ∈ s.clauses, ¬(x.core = c ∧ x.picker = .part w.part))
    (hp : w.lanes.anyV (fun _ y => y.wait.parksWarp) = false)
    (hl : w.present.find? (fun l => match (w.lanes.atD l Lane.never).wait with
      | .collective line => match instrAt line (w.lanes.atD l Lane.never).pc with
        | some i => collectiveReady w (w.lanes.atD l Lane.never).pc i
        | none => false
      | _ => false) = some l)
    (hy : (w.lanes.atD l Lane.never).wait = .collective line) (hs : ∀ z, w.stopped = some z → z.pc = (w.lanes.atD l Lane.never).pc) :
    exec (.collectiveIssue c k) s = .next (
      let pc := (w.lanes.atD l Lane.never).pc
      let mine := w.present.filter (fun m => (w.lanes.atD m Lane.never).pc = pc && (w.lanes.atD m Lane.never).wait == .collective line)
      let u := wakeAll s c k mine
      { u with clauses := { core := c, picker := .part w.part, addr := pc &&& ~~~63, line := line, entry := pc.toNat % 8,
                            slot := pc.toNat % 8, guard := guardOf (slotWord line (pc.toNat % 8)),
                            lanes := mine.map (fun m => { slot := k, lane := m }) } :: u.clauses }) := by
  have hbusy : s.clauses.any (fun x => x.core = c && x.picker == .part w.part) = false :=
    List.any_eq_false.2 fun x hx => by simpa using hc x hx
  have hheld : w.stopped.any (fun z => z.pc != (w.lanes.atD l Lane.never).pc) = false := by
    cases hz : w.stopped with
    | none => rfl
    | some z => simp [hs z hz]
  simp only [exec_collectiveIssue, execCollectiveIssue, hw]
  split
  · rename_i hn
    exact absurd (hl.symm.trans hn) (by simp)
  · rename_i m hm
    obtain rfl : l = m := Option.some.inj (hl.symm.trans hm)
    simp only [hy, hbusy, hp, hheld, ht, hh, Bool.or_self, Bool.false_eq_true, if_false]

/-- No barrier of the workgroup can release when each is empty or lacks a launched lane (R251). -/
theorem no_barrier_free {s : State} {g : Nat} {y : Wg}
    (hb : ∀ b, b < 4 → y.bars.atD b [] = [] ∨ ∃ i ∈ wgLaunched s g, i ∉ y.bars.atD b []) :
    (List.range 4).any (fun b => y.bars.atD b [] != [] && (wgLaunched s g).all (fun i => (y.bars.atD b []).contains i)) = false := by
  refine List.any_eq_false.2 fun b hlt => ?_
  rcases hb b (List.mem_range.1 hlt) with he | ⟨i, hi, hn⟩
  · simp [he]
  · simpa using fun _ => ⟨i, hi, hn⟩

/-- Settles O24: by the branches of the three steps. -/
theorem endOfWaits : Obligations.EndOfWaits := by
  refine ⟨fun c k s w hw h => ?_, fun c k s w l line i hw ht hh hc hp hl hy _ hs => collectiveIssue_eq hw ht hh hc hp hl hy hs,
    fun c k s w l t hw hp hst hwait => ?_, fun g s y hy hsv hne hall hb => ?_⟩
  · have hheld (b : Bool) : (b || w.trapped || haltedLaunch s w.launch) = true := by
      rcases h with h | h <;> simp [h]
    simp only [exec_collectiveIssue, execCollectiveIssue, hw]
    split
    · rfl
    · split
      · rw [if_pos (hheld _)]
      · rfl
  · have hw2 : w.present.all (fun l => match (w.lanes.atD l Lane.never).wait with
        | .collective _ | .rejoin _ => true
        | _ => false) = true := List.all_eq_true.2 fun l hl => by
      rcases hwait l hl with ⟨line, h⟩ | ⟨b, h⟩ <;> rw [h]
    have hhead : w.present.head? = some l := by rw [hp]; rfl
    have hgo : (w.present.all (fun l => match (w.lanes.atD l Lane.never).wait with
        | .collective _ | .rejoin _ => true
        | _ => false) && warpStuck s c k w w.present) = true := by rw [hw2, hst]; rfl
    simp only [exec_convergenceTimeout, execConvergenceTimeout, hw, hhead]
    exact congrArg _ (if_pos hgo)
  · have h1 : (wgWarps s g).all (fun e => e.2.2.launchedLanes.all (fun l => (e.2.2.lanes.atD l Lane.never).wait.blocks) &&
        warpStuck s e.1 e.2.1 e.2.2 e.2.2.launchedLanes) = true := List.all_eq_true.2 fun e he => by
      obtain ⟨hst, hbl⟩ := hall e he
      rw [hst, Bool.and_true]
      exact List.all_eq_true.2 hbl
    simp only [exec_barrierDeadlock, execBarrierDeadlock, hy, h1, no_barrier_free hb, hsv, Option.isSome_none, bne_iff_ne.2 hne, Bool.not_false, Bool.and_self,
      if_true] <;> rfl

end Sys2Proof.Machine
end

section
/-! PROOFS. Fences, `waita` and `pause`. -/

namespace Sys2Proof.Machine

/-! ## What the instructions of this part mean -/

theorem exec_waitaRecheck (core slot lane s) : exec (.waitaRecheck core slot lane) s = execWaitaRecheck core slot lane s := rfl

theorem exec_pauseExpiry (core slot lane s) : exec (.pauseExpiry core slot lane) s = execPauseExpiry core slot lane s := rfl

/-- Lanes that are all launched. -/
theorem launchedOf_eq_self {s : State} {c k : Nat} {ls : List Nat} (h : ∀ l ∈ ls, (s.lane c k l).kind = .launched) :
    launchedOf s c k ls = ls := List.filter_eq_self.2 fun l hl => by simp [h l hl]

/-! ## `waita` (R250) -/

section
variable {f : FmtM} {s : State} {x : Clause} {k : Nat} {ls ex : List Nat} {place : Nat → Place} {leaf : Nat → Nat}

/-- The form whose checks and places a `waita` uses. -/
def waitForm (f : FmtM) : MemForm := { loadForm (.waita f) f (tyBytes f.ty) f.ty.pos (addrPair f) false false with odd := true }

/-- A `waita` that nothing turns away sends every executing lane's load. -/
theorem waitFates (h : Sendable (awaitLoad f) s x k ex place leaf) :
    (ex.map (fun l => (l, Res.ok (place l) (leaf l)))).map
        (fun r => (r.1, memFate (waitForm f) s (x.env k) (!ex.contains r.1) false r.1 r.2)) =
      ex.map (fun l => (l, Fate.sent ((waitForm f).bareAcc s x k place leaf l))) := by
  rw [List.map_map]
  refine List.map_congr_left fun l hl => ?_
  have clean : meetsLost (waitForm f) s (x.env k) l (place l) = false := h.clean l hl
  simp [memFate, clean, MemForm.bareAcc]

/-- A `waita` that nothing turns away issues for its executing lanes, and tries each of them (R250). -/
theorem waitaWarp_sends (hk : k ≠ ctrlSlot) (hx : guardLanes s x k ls = ex) (h : Sendable (awaitLoad f) s x k ex place leaf) :
    waitaWarp f x s k ls = ex.foldl (fun u l => waitTry f x k u l (place l) (readOp u (x.env k) l f.ty f.ty.pos f.index))
      (waitIssue s x.core k ex f.data f.ty (formBytes f) (flagOf x.line f.fs)) := by
  have hfates := waitFates h
  have hcheck : memCheck (waitForm f) s (x.env k) ex ex = none := memCheck_of_sendable (m := awaitLoad f) hk h
  have hfree : mustDrain s x.core k ex f.order f.scope = false := h.free
  have hlive : ex.filter (fun l => addrPair f s (x.env k) l % ((waitForm f).align : Int) = 0) = ex :=
    List.filter_eq_self.2 fun l hl => decide_eq_true (h.aligned l hl).1
  have hnow : ex.map (fun l => (l, !ex.contains l || false)) = ex.map (fun l => (l, false)) :=
    List.map_congr_left fun l hl => by simp [hl]
  have hres : memResolveAll (waitForm f) (x.env k) s (ex.map (fun l => (l, false))) = _ :=
    resolveAll_eq (waitForm f) s (x.env k) ex place leaf h.resolved
  have hzero (p : Nat → Bool) : ex.filter (fun l => !ex.contains l && p l) = [] :=
    List.filter_eq_nil_iff.2 fun l hl => by simp [hl]
  unfold waitaWarp
  extract_lets c e base form ex' act repro isHelper live res row fates fatal parks zero s0 s1 s2 done s3
  have hex : ex' = ex := hx
  have hact : act = ex := by
    show launchedOf s c k ex' = ex
    rw [hex]
    exact launchedOf_eq_self h.launched
  have hform : form = waitForm f := rfl
  clear_value act ex' form
  subst hex hact hform
  rw [hcheck]
  dsimp only
  rw [hfree, Bool.and_false, if_neg Bool.false_ne_true]
  have hrepro : repro = false := h.plain
  have hres' : res = (s, act.map (fun l => (l, Res.ok (place l) (leaf l)))) := by
    simp only [res, live, isHelper, hrepro, e, hlive, hnow, hres]
  have hrow : row = [] := by
    simp only [row, hrepro, Bool.false_eq_true, if_false]
    split <;> rfl
  have hfates' : fates = act.map (fun l => (l, Fate.sent ((waitForm f).bareAcc s x k place leaf l))) := by
    simp only [fates, hres', hrepro, isHelper, e, hfates]
  have hfatal : fatal = [] := by simp [fatal, hfates', List.filterMap_map]
  have hparks : parks = [] := by simp [parks, hfates', List.filterMap_map]
  have hs1 : s1 = waitIssue s c k act f.data f.ty (formBytes f) (flagOf x.line f.fs) := by
    have hz : zero = [] := hzero _
    simp only [s1, s0, hz, hres', List.foldl_nil, List.contains_nil, Bool.not_false, List.filter_true]
    rfl
  have hs2 : s2 = act.foldl (fun u l => waitTry f x k u l (place l) (readOp u (x.env k) l f.ty f.ty.pos f.index)) s1 := by
    simp only [s2, hfates', List.foldl_map]
    rfl
  rw [hrow, hfatal, if_pos hparks, ← hs1, ← hs2]
  simp only [s3, hparks]
  rfl

end

/-- What a `waita` issues: one operation for its lanes, with the flag raised once (R14, R250). -/
theorem waitIssue_new {s : State} {c k : Nat} {ls : List Nat} (d : Operand) (ty : Ty) (n : Nat) (flag : Option Nat) (hl : ls ≠ [])
    (hn : ∀ l ∈ ls, waitOp s c k l = none) :
    (waitIssue s c k ls d ty n flag).cores = (raiseFlag s c k flag).cores ∧ ∃ o, (waitIssue s c k ls d ty n flag).ops.at? s.fresh = some o ∧
      o.owner = .warp c k ∧ o.flag = flag ∧ o.more = false ∧ o.lanes.map LaneAcc.lane = ls := by
  have hnew : ls.filter (fun l => (waitOp s c k l).isNone) = ls := List.filter_eq_self.2 fun l h => by rw [hn l h]; rfl
  unfold waitIssue
  rw [hnew]
  dsimp only
  rw [if_neg hl]
  cases flag with
  | none => exact ⟨rfl, _, NMap.at?_put_self .., rfl, rfl, rfl, by simp [waitAcc, Function.comp_def]⟩
  | some m => exact ⟨rfl, _, NMap.at?_put_self .., rfl, rfl, rfl, by simp [waitAcc, Function.comp_def]⟩

/-! ### What a lane awaits -/

/-- The fields of what a `waita` lane awaits, as one number. -/
theorem waitData_toNat {b cc : Nat} (hb : b < 2 ^ 64) (hc : cc < 8) (acq : Bool) (sc : Scope) (other : Bool) :
    ∃ r, r < 2 ^ 184 ∧ (waitData b cc acq sc other).toNat = b + 2 ^ 64 * cc + 2 ^ 72 * r := by
  refine ⟨(if acq then 1 else 0) + 2 ^ 8 * (match sc with | .wp => 0 | .wg => 1 | .pkg => 2 | .span => 3) +
    (if other then 2 ^ 182 else 0) + 2 ^ 183, ?_, ?_⟩
  · cases acq <;> cases sc <;> cases other <;> decide
  · unfold waitData
    rw [BitVec.toNat_ofNat]
    cases acq <;> cases sc <;> cases other <;> simp only [if_true, if_false, Bool.false_eq_true] <;> omega

/-- The condition of a `waita` is that of its comparand and of its condition field (R248). -/
theorem waitHolds_waitData (ty : Ty) {b cc : Nat} (hb : b < 2 ^ 64) (hc : cc < 8) (acq : Bool) (sc : Scope) (other : Bool) (v : Nat) :
    waitHolds ty (waitData b cc acq sc other) v = waitCC cc (intVal ty v) (intVal ty b) := by
  obtain ⟨r, -, hr⟩ := waitData_toNat hb hc acq sc other
  have hcc : bitsOf (b + 2 ^ 64 * cc + 2 ^ 72 * r) 64 8 = cc := by unfold bitsOf; omega
  have hbb : bitsOf (b + 2 ^ 64 * cc + 2 ^ 72 * r) 0 64 = b := by unfold bitsOf; omega
  rw [waitHolds, hr, hcc, hbb]

/-- A lane whose value lies in a core store is done where its value meets the condition, and parks else (R250). -/
theorem waitTry_store {f : FmtM} {x : Clause} {k : Nat} {s : State} {l d off b : Nat}
    (h : ownWrites s x.core k (1 + d, off, formBytes f)
      { lane := l, place := .store d off, hint := .bypass, sw := false, ms := false, sent := true
        data := waitData (b % 2 ^ f.ty.bits) (f.mmod.toNat % 8) f.order.acquires f.scope (waitOther s x.core k l) } = false) :
    waitTry f x k s l (.store d off) b =
      let v := Mem.rd (s.core d).store off (formBytes f)
      let await := waitData (b % 2 ^ f.ty.bits) (f.mmod.toNat % 8) f.order.acquires f.scope (waitOther s x.core k l)
      if waitCC (f.mmod.toNat % 8) (intVal f.ty v) (intVal f.ty (b % 2 ^ f.ty.bits)) then waitDone s x.core k l f.data f.ty await v
      else waitPark s x.core k l await 0 := by
  have hcc : bitsOf f.mmod.toNat 0 3 = f.mmod.toNat % 8 := by simp [bitsOf]
  have hb : b % 2 ^ f.ty.bits < 2 ^ 64 := (Nat.mod_lt _ (by positivity)).trans_le
    (Nat.pow_le_pow_right (by decide) (by cases f.ty <;> decide))
  have hh := waitHolds_waitData f.ty hb (Nat.mod_lt f.mmod.toNat (by decide : 8 > 0)) f.order.acquires f.scope (waitOther s x.core k l)
    (Mem.rd (s.core d).store off (formBytes f))
  unfold waitTry
  dsimp only
  rw [hcc, show (_ || _ : Bool) = false from by
    rw [Bool.or_eq_false_iff]; exact ⟨h, rfl⟩]
  rw [if_neg Bool.false_ne_true, show coherentHeld s x.core (.store d off) = false from rfl, if_neg Bool.false_ne_true]
  show (if waitHolds f.ty _ (Mem.rd (s.core d).store off (formBytes f)) = true then _ else _) = _
  rw [hh]
  rfl

/-- Settles O22: the fence by its branches, `waita` by `waitaWarp_sends`, its lanes by `waitTry_store`. -/
theorem fencesAndWaits : Obligations.FencesAndWaits := by
  refine ⟨?_, fun f s x k w ls ex place leaf h hr hs => ?_, fun s c k ls d ty n flag hl hn => waitIssue_new d ty n flag hl hn,
    fun f x k s l d off b => waitTry_store, fun c k l s n hw ha => ?_, fun f s x k w ls ex h hr => ?_, fun c k l s n hw => ?_⟩
  · intro f s x k w h hr order scope act hne hwait s1
    refine congrArg Host.Outcome.next ((issue_ready h hr rfl).trans (congrArg _ ?_))
    have hwg : wgIdOf s x.core k = some w.wg := by unfold wgIdOf; rw [h.warp]; rfl
    have hgo : ¬ fenceWaits s x.core k act order scope = true := by rw [hwait]; exact Bool.false_ne_true
    refine (if_neg hne).trans ((if_neg hgo).trans ?_)
    rw [fenceNow, hwg]
    rfl
  · exact congrArg Host.Outcome.next ((issue_goes h hr rfl).trans (congrArg _ (waitaWarp_sends h.not_ctrlSlot hr.guard hs)))
  · simp only [exec_waitaRecheck, execWaitaRecheck, hw, ha, Bool.false_eq_true, if_false, wakeAll, List.foldl_cons, List.foldl_nil]
  · refine congrArg Host.Outcome.next ((issue_goes h hr rfl).trans (congrArg _ ?_))
    dsimp only
    rw [hr.guard]
  · simp only [exec_pauseExpiry, execPauseExpiry, hw, passOn, List.foldl_cons, List.foldl_nil]

end Sys2Proof.Machine
end

section
/-! PROOFS. Workgroup and grid barriers: why the statement fails as it stands. Its clause on `gridbar` reads the warps of a workgroup off
the launch that it changes, the model off the launch that the warp's number finds. The two are one launch where the table of launches
lists every number once, which the statement does not ask for. -/

namespace Sys2Proof.Machine

/-- A launch of two workgroups with the given number of threads, all co-resident (flag 7, R252), of which one is placed. -/
def gridLaunch (threads : Nat) : Launch :=
  { newLaunch State.reset 0 with
    record := BitVec.ofNat 2048
      (2 * 2 ^ (8 * 0x18) + 1 * 2 ^ (8 * 0x1C) + 1 * 2 ^ (8 * 0x1E) + threads * 2 ^ (8 * 0x20) + 2 ^ 7 * 2 ^ (8 * 0x28))
    next := 1 }

/-- A warp of launch 0 with one launched lane. -/
def gridWarp : Warp :=
  { startWarp (gridLaunch 32) 0 1 0 0 0 0 with lanes := [(0, { kind := .launched, pc := 0, preds := 0, sp := 0, wait := .run })] }

/-- The clause of that lane. -/
def gridClause : Clause :=
  { core := 0, picker := .part 0, addr := 0, line := 0, entry := 0, slot := 0, guard := { neg := false, pred := 7 }
    lanes := [{ slot := 0, lane := 0 }] }

/-- Workgroup 1 of that launch. -/
def gridWg : Wg :=
  { launch := 0, g := 1, x := 1, y := 0, z := 0, cores := [0], live := 1, bars := [], queues := [], board := Board.reset, saved := none }

/-- A state whose table of launches lists the number 0 twice, with 1 and with 2 warps in a workgroup. -/
def twiceListed : State :=
  { State.reset with
    clauses := [gridClause], launches := [(0, gridLaunch 32), (0, gridLaunch 64)], wgs := [(1, gridWg)]
  }.modCore 0 (fun y => { y with warps := [(0, gridWarp)] })

/-- What has arrived at the grid barriers of the launches listed. -/
def gridArrivals : Result → List (List Nat)
  | .next t => t.launches.map (fun e => e.2.gridArr)
  | _ => []

/-- The lane of `twiceListed` issues, alone. -/
theorem twiceListed_issues : Issues twiceListed gridClause 0 gridWarp where
  head := rfl
  picker := ⟨by decide, by intro n; simp [gridClause]⟩
  slots := by decide
  slot := by decide
  lanes := by decide
  warp := rfl
  going := rfl

/-- Refutes O23: at the `gridbar` of `twiceListed` the model notes the arrival 32 in both launches that are listed, the statement 32 in one
and 64 in the other. -/
theorem not_barriers : ¬ Obligations.Barriers := by
  unfold Obligations.Barriers
  rintro ⟨-, -, -, h⟩
  have hgo := (h twiceListed gridClause 0 gridWarp (gridLaunch 32) gridWg twiceListed_issues ⟨rfl, .inr rfl, .inl rfl⟩ rfl rfl
    (by decide +kernel)).2 (by decide +kernel) (by decide +kernel)
  have hmodel : gridArrivals (exec .gridbar twiceListed) = [[32], [32]] := by decide +kernel
  rw [hgo] at hmodel
  revert hmodel
  decide +kernel

end Sys2Proof.Machine
end

section
/-! PROOFS. Arithmetic forms whose result depends on more than their operands. -/

namespace Sys2Proof.Machine

theorem popOf_srcs (a : Arith) : a.popQ = popOf (a.srcs.map Prod.fst) := by
  unfold popOf Arith.popQ
  rw [List.findSome?_map]; rfl

theorem popOf_dst (a : Arith) : a.pushQ = popOf (a.dst.toList.map Prod.fst) := by
  unfold popOf Arith.pushQ
  match a.dst with
  | none | some (.main _, _) | some (.opf _, _) | some (.latch _, _) | some (.queue _ _, _) | some (.special _, _)
  | some (.imm _, _) | some (.wreg _, _) => rfl

/-- An arithmetic form in the lanes that execute it, by its queue operands. -/
theorem Arith.warp_eq (a : Arith) (i : Instr) (nb : BitVec 3) {x : Clause} {s : State} {k : Nat} {ls ex : List Nat}
    (h : guardLanes s x k ls = ex) : a.warp i nb x s k ls =
      queueWarp i (popOf (a.srcs.map Prod.fst)) (popOf (a.dst.toList.map Prod.fst)) nb ex (fun _ _ => none)
        (fun s ws nb => a.apply x s k ex ws a.pw nb) (fun s ls => setLatches s x.core k x.slot ls a.dst) x s k ls := by
  unfold Arith.warp
  dsimp only
  rw [h, popOf_dst, popOf_srcs]

/-- No source is a queue. -/
theorem popOf_eq_none {srcs : List (Operand × Pos × Ty)} (h : srcs.all (fun e => !e.1.isQueue) = true) :
    popOf (srcs.map Prod.fst) = none := by
  unfold popOf
  rw [List.findSome?_map, List.findSome?_eq_none_iff]
  intro e he
  have := List.all_eq_true.1 h e he
  cases ho : e.1 <;> simp_all [Operand.isQueue]

/-- A register is no queue. -/
theorem popOf_eq_none_of_regDst {d : Option (Operand × Pos)} (h : regDst d = true) : popOf (d.toList.map Prod.fst) = none := by
  cases d with
  | none => rfl
  | some d =>
    obtain ⟨o, q⟩ := d
    cases o <;> first | rfl | simp [regDst] at h

/-- An entry that is pushed sets the latch of its slot (R50). -/
theorem modLatch_eq_pushLatches (s : State) (x : Clause) (k : Nat) (d : Option (Operand × Pos)) (rs : List (Nat × Nat × Bool)) :
    (if (popOf (d.toList.map Prod.fst)).isNone = true then s else
      s.modWarp x.core k (fun w => { w with lat := rs.foldl (fun m r => m.put (32 * x.slot + r.1) (BitVec.ofNat 64 r.2.1)) w.lat })) =
      pushLatches s x.core k x.slot d (rs.map (fun e => (e.1, e.2.1))) := by
  match d with
  | none | some (.main _, _) | some (.opf _, _) | some (.latch _, _) | some (.special _, _) | some (.imm _, _) | some (.wreg _, _) => rfl
  | some (.queue _ _, _) => simp [popOf, pushLatches, List.foldl_map]

/-- A register is no queue whose latch a push would set. -/
theorem pushLatches_of_regDst {d : Option (Operand × Pos)} (h : regDst d = true) (s : State) (c k n : Nat) (rs : List (Nat × Nat)) :
    pushLatches s c k n d rs = s := by
  match d, h with
  | none, _ | some (.main _, _), _ | some (.opf _, _), _ | some (.latch _, _), _ | some (.special _, _), _ | some (.imm _, _), _
  | some (.wreg _, _), _ => rfl

/-- What a form with no predicate mask does, as `ArithmeticWhen` has it. -/
theorem apply_of (srcs : List (Operand × Pos × Ty)) (d : Option (Operand × Pos)) (p : Option (BitVec 3)) (f : BitVec 8 → List Nat → Nat × Bool)
    (x : Clause) (u : State) (k : Nat) (ex : List Nat) (ws : List Word) (nb : Option (BitVec 3)) :
    (Arith.of srcs d p f).apply x u k ex ws p nb =
      let rs := ex.map (fun l => (l, f (u.lane x.core k l).preds8
        (srcs.map (fun q => readOp u { x.env k with pop := ws } l q.2.2 q.2.1 q.1))))
      let u1 := pushLatches (writeResults u x.core k d (rs.map (fun e => (e.1, e.2.1)))) x.core k x.slot d
        (rs.map (fun e => (e.1, e.2.1)))
      let u2 := writePreds u1 x.core k p (rs.map (fun e => (e.1, e.2.2)))
      noteWrites (writePreds u2 x.core k nb (ex.map (fun l => (l, true)))) x.core k
        (spinValues d p.isSome rs ++ (if nb.isSome then ex.map (fun _ => 1) else [])) := by
  unfold Arith.apply
  simp only [popOf_dst, Arith.of, modLatch_eq_pushLatches, if_true, List.append_nil]
  rfl

section
variable {i : Instr} {srcs : List (Operand × Pos × Ty)} {d : Option (Operand × Pos)} {p : Option (BitVec 3)}
  {may : State → Clause → Nat → Prop} {fine : State → Clause → Nat → List Nat → List Word → Prop}
  {g : State → Clause → Nat → BitVec 8 → List Nat → Nat × Bool}

/-- How a form goes that computes `g`: by its queue operands, unless a check of its own, `pre`, turns it away. -/
structure Runs (i : Instr) (srcs : List (Operand × Pos × Ty)) (d : Option (Operand × Pos)) (p : Option (BitVec 3))
    (fine : State → Clause → Nat → List Nat → List Word → Prop) (g : State → Clause → Nat → BitVec 8 → List Nat → Nat × Bool)
    (s : State) (x : Clause) (k : Nat) (w : Warp) (ls ex : List Nat) (pre : State → List Word → Option State)
    (run : State → List Word → Option (BitVec 3) → State) : Prop where
  exec : exec i s = .next (endIssue x (queueWarp i (popOf (srcs.map Prod.fst)) (popOf (d.toList.map Prod.fst)) (Instr.pwField i) ex pre run
    (fun s ls => setLatches s x.core k x.slot ls d) x s k ls))
  pre : ∀ ws, fine s x k ex ws → pre s ws = none
  run : ∀ u ws nb, u = s ∨ u = release s x.core (some w.wg) .wg ∨
      (∃ q nb, popOf (srcs.map Prod.fst) = some (q, nb) ∧ u = acquire (queueDrop s w.wg q) x.core (some w.wg) .wg) →
    run u ws nb = (Arith.of srcs d p (g u x k)).apply x u k ex ws p nb

/-- A form that goes so is an arithmetic form. -/
theorem arithmeticWhen_of_runs (h : ∀ s x k w ls ex, Issues s x k w → Goes i (fieldsOf srcs d) s x k w ls ex → may s x k →
    ∃ pre run, Runs i srcs d p fine g s x k w ls ex pre run) : ArithmeticWhen i srcs d p may fine g := by
  refine ⟨fun s x k w ls ex hi hr hq hd hm hf => ?_, fun s x k w ls ex hi hr hm => ?_⟩
  · obtain ⟨pre, run, he, hpre, hrun⟩ := h s x k w ls ex hi hr hm
    refine ⟨_, he, ?_⟩
    have hls : ex.Sublist ls := by rw [← hr.guard]; exact List.filter_sublist
    have hcomp := results_compute hi ex ls (spinValues d p.isSome (ex.map (fun l =>
        (l, g s x k (s.lane x.core k l).preds8 (sources s x k l srcs))))) d p
      (fun l => g s x k (s.lane x.core k l).preds8 (sources s x k l srcs))
      ((lanesOf_nodup x k).sublist (hls.trans hr.sub)) (fun l hl => (hls.trans hr.sub).subset hl) hd
    rw [popOf_eq_none hq, popOf_eq_none_of_regDst hd]
    simp only [queueWarp, hpre [] hf, Bool.false_eq_true, if_false, hrun s [] none (.inl rfl), apply_of]
    have hpush (u : State) (rs : List (Nat × Nat)) : pushLatches u x.core k x.slot d rs = u := pushLatches_of_regDst hd u x.core k x.slot rs
    have hnb (u : State) (rs : List (Nat × Bool)) : writePreds u x.core k none rs = u := rfl
    simp only [hpush, hnb, List.map_map, Function.comp_def, Option.isSome_none, Bool.false_eq_true, if_false, List.append_nil]
    exact hcomp
  · obtain ⟨pre, run, he, hpre, hrun⟩ := h s x k w ls ex hi hr hm
    have hwg : wgIdOf s x.core k = some w.wg := by unfold wgIdOf; rw [hi.warp]; rfl
    dsimp only
    rw [he]
    refine ⟨fun q nb hq => ⟨fun hx => ?_, fun hx => ⟨fun ws hh hf => ?_, fun hh => ?_, fun hh => ?_⟩⟩,
      fun q nb hq hq2 => ⟨fun hx => ?_, fun hx => ⟨fun hh hd hf => ?_, fun hh hd => ?_, fun hh => ?_, fun hh => ?_⟩⟩⟩
    · simp only [queueWarp, hq, hx, if_true]
    · simp only [queueWarp, hq, hx, if_false, hwg, hh, hpre ws hf, hrun _ ws _ (.inr (.inr ⟨q, nb, hq, rfl⟩)), apply_of]
      cases nb <;> simp [writePreds]
    · simp only [queueWarp, hq, hx, if_false, hwg, hh, retrying]
      cases nb <;> rfl
    · simp only [queueWarp, hq, hx, if_false, hwg, hh]
    · simp only [queueWarp, hq, hq2, hx, if_true]
    · simp only [queueWarp, hq, hq2, hx, if_false, hwg, hh, hd, Bool.false_eq_true, hpre [] hf, hrun _ [] _ (.inr (.inl rfl)), apply_of]
      cases nb <;> simp [writePreds]
    · simp only [queueWarp, hq, hq2, hx, if_false, hwg, hh, hd, if_true]
    · simp only [queueWarp, hq, hq2, hx, if_false, hwg, hh, retrying]
      cases nb <;> rfl
    · simp only [queueWarp, hq, hq2, hx, if_false, hwg, hh]

end

end Sys2Proof.Machine
end

section
/-! PROOFS. Read sections, milestones and grace periods. -/

namespace Sys2Proof.Machine

/-! ## What the instructions of this part mean -/

theorem exec_graceComplete (snap s) : exec (.graceComplete snap) s = execGraceComplete snap s := rfl

theorem exec_internalGrace (span s) : exec (.internalGrace span) s = execInternalGrace span s := rfl

/-! ## Releases and acquires change no warp and no core store -/

/-- A release changes no warp and no core store. -/
theorem release_kept (s : State) (c : Nat) (wg : Option Nat) (sc : Scope) : StoresAndWarpsKept s (release s c wg sc) := by
  have hw : StoresAndWarpsKept s (writeBackAll s c) :=
    (storesAndWarpsKept_foldl _ (fun s l => writeBack_kept s c l) _ s).trans (storesAndWarpsKept_modCore _ c _ fun _ => ⟨rfl, rfl⟩)
  have hwg (t : State) (g : Nat) : StoresAndWarpsKept t (publishCoreWg t c g) :=
    StoresAndWarpsKept.trans (t := publishWg t g _) (storesAndWarpsKept_of_cores rfl) (storesAndWarpsKept_modCore _ c _ fun _ => ⟨rfl, rfl⟩)
  have hpkg (t : State) : StoresAndWarpsKept t (publishCore t c) :=
    StoresAndWarpsKept.trans (t := publishPkg t _) (storesAndWarpsKept_of_cores rfl) (storesAndWarpsKept_modCore _ c _ fun _ => ⟨rfl, rfl⟩)
  unfold release
  cases sc with
  | wp => exact .refl s
  | wg =>
    dsimp only
    split
    · exact hw.trans (hwg _ _)
    · exact .refl s
  | pkg | span =>
    dsimp only
    split
    · exact (hw.trans (hpkg _)).trans (hwg _ _)
    · exact hw.trans (hpkg _)

/-- An acquire changes no warp and no core store. -/
theorem acquire_kept (s : State) (c : Nat) (wg : Option Nat) (sc : Scope) : StoresAndWarpsKept s (acquire s c wg sc) := by
  unfold acquire
  cases sc with
  | wp => exact .refl s
  | wg | pkg | span =>
    refine (dropLines_kept s c _).trans (storesAndWarpsKept_modCore _ c _ fun y => ?_)
    dsimp only
    split
    · split <;> exact ⟨rfl, rfl⟩
    · exact ⟨rfl, rfl⟩

@[simp] theorem warp?_release (s : State) (c : Nat) (wg : Option Nat) (sc : Scope) (b k : Nat) :
    (release s c wg sc).warp? b k = s.warp? b k := by
  unfold State.warp?
  rw [((release_kept s c wg sc) b).2]

@[simp] theorem warp?_acquire (s : State) (c : Nat) (wg : Option Nat) (sc : Scope) (b k : Nat) :
    (acquire s c wg sc).warp? b k = s.warp? b k := by
  unfold State.warp?
  rw [((acquire_kept s c wg sc) b).2]

@[simp] theorem warp?_queueDrop (s : State) (g q b k : Nat) : (queueDrop s g q).warp? b k = s.warp? b k := rfl

/-! ## Forms that act once for the warp -/

section
variable {i : Instr} {s : State} {x : Clause} {k : Nat} {w : Warp} {f : Clause → State → Nat → List Nat → Warp → State}

/-- A form that acts once for the warp, its members having arrived with a true guard among them. -/
theorem once_arrived {ops : List (Operand × Pos)} (h : Issues s x k w) (hr : Arrived i ops s x k w) (hn : x.together s k w i ≠ [])
    (hc : ctrlOnly i = false) : issue i ops (onceWarp f) s = endIssue x (f x s k (x.members k w i) w) := by
  refine (issue_arrived h hr hc).trans (congrArg (endIssue x) ?_)
  unfold onceWarp
  rw [h.warp]
  exact if_neg hn

end

/-- The warp passes a milestone, and an open section is cut there (R167). -/
theorem splitSection_eq {s : State} {c k : Nat} {w : Warp} (h : s.warp? c k = some w) : splitSection s c k =
    if w.depth = 0 then registerPass s c k else acquire (registerPass s c k) c (some w.wg) (if w.secSpan then .span else .pkg) := by
  unfold splitSection
  rw [h]
  rfl

/-- `rsdepth` (R254). -/
theorem rsdepth_arithmetic (f : FmtA) : ArithmeticWhen (.rsdepth f) [] (some (f.d, .w32)) none (fun _ _ _ => True) (fun _ _ _ _ _ => True)
    (fun s x k _ _ => (match s.warp? x.core k with | some w => w.depth | none => 0, false)) := by
  let depth (s : State) (x : Clause) (k : Nat) : Nat := match s.warp? x.core k with | some w => w.depth | none => 0
  refine arithmeticWhen_of_runs fun s x k w ls ex h hr _ => ⟨fun _ _ => none, fun u ws nb =>
    (Arith.of [] (some (f.d, .w32)) none (fun _ _ => (depth s x k, false))).apply x u k ex ws none nb, ?exec, fun _ _ => rfl, fun u ws nb hu => ?run⟩
  case exec =>
    refine congrArg Host.Outcome.next ((issue_goes h hr rfl).trans (congrArg (endIssue x) ?_))
    exact Arith.warp_eq _ _ _ hr.guard
  case run =>
    have hw : u.warp? x.core k = s.warp? x.core k := by
      rcases hu with rfl | rfl | ⟨q, nb, hq, rfl⟩ <;> simp
    have hd : depth s x k = depth u x k := by simp only [depth, hw]
    rw [hd]

/-- Settles O26: each form by what `once_arrived` leaves of it. -/
theorem readSections : Obligations.ReadSections := by
  refine ⟨fun f s x k w ⟨h, hr, hn⟩ hd => ?_, fun f s x k w ⟨h, hr, hn⟩ hd => ?_, fun s x k w ⟨h, hr, hn⟩ => ⟨fun hd => ?_, fun hd => ?_,
    fun hd hl => ?_⟩, fun s x k w ⟨h, hr, hn⟩ hd => ?_, rsdepth_arithmetic, fun f s x k w ⟨h, hr, hn⟩ hd => ?_,
    fun f s x k w ⟨h, hr, hn⟩ hd => ?_, fun n s y hy hg => ?_, fun b s he hl => ?_⟩
  · refine congrArg Host.Outcome.next ((once_arrived h hr hn rfl).trans (congrArg (endIssue x) ?_))
    have hst (v : Warp) : { stamped s v with depth := v.depth + 1, secSpan := isSpan f || (v.depth != 0 && v.secSpan) } =
        { v with stamp := if v.depth = 0 then s.track.takenPkg % 2 ^ 32 else v.stamp, depth := v.depth + 1
                 secSpan := isSpan f || (v.depth != 0 && v.secSpan) } := by
      unfold stamped
      split <;> rfl
    rw [if_neg (Nat.ne_of_lt hd)]
    simp only [hst]
    rfl
  · exact congrArg Host.Outcome.next ((once_arrived h hr hn rfl).trans (congrArg (endIssue x) (if_pos hd)))
  · exact congrArg Host.Outcome.next ((once_arrived h hr hn rfl).trans (congrArg (endIssue x) (if_pos hd)))
  · refine congrArg Host.Outcome.next ((once_arrived h hr hn rfl).trans (congrArg (endIssue x) ?_))
    have h0 : w.depth ≠ 0 := by omega
    have h1 : w.depth ≠ 1 := by omega
    simp [h0, h1]
  · refine congrArg Host.Outcome.next ((once_arrived h hr hn rfl).trans (congrArg (endIssue x) ?_))
    simp [hd, hl]
  · refine congrArg Host.Outcome.next ((once_arrived h hr hn rfl).trans (congrArg (endIssue x) ?_))
    have hgo : ¬ (w.depth != 0 && loadsOut s x.core k) = true := by
      rcases hd with hd | hd <;> simp [hd]
    exact (if_neg hgo).trans (splitSection_eq h.warp)
  · exact congrArg Host.Outcome.next ((once_arrived h hr hn rfl).trans (congrArg (endIssue x) (if_pos (bne_iff_ne.2 hd))))
  · intro wide scope hdr hsl
    refine congrArg Host.Outcome.next ((once_arrived h hr hn rfl).trans (congrArg (endIssue x) ?_))
    exact (if_neg (by rw [hd]; decide)).trans ((if_neg (ne_true_of_eq_false hdr)).trans (if_neg (Nat.not_le.2 hsl)))
  · have hall : y.warps.all (fun p => !(sectionWarps s).contains p) = true :=
      List.all_eq_true.2 fun p hp => by simpa using hg p hp
    simp only [exec_graceComplete, execGraceComplete, hy, hall, Bool.not_true, Bool.false_eq_true, if_false]
  · obtain ⟨e, he, hb, hrep⟩ := he
    have hany : s.dfq.any (fun e => e.span = b && !e.repro) = true := List.any_eq_true.2 ⟨e, he, by simp [hb, hrep]⟩
    have hgo : (s.dfq.any (fun e => e.span = b && !e.repro) && decide (snapsOut s b < 16)) = true := by
      rw [hany, Bool.true_and]
      exact decide_eq_true hl
    simp only [exec_internalGrace, execInternalGrace, hgo, if_true]

end Sys2Proof.Machine
end

section
/-! PROOFS. The queues of a workgroup. -/

namespace Sys2Proof.Machine

/-! ## `push` and `pop` as arithmetic forms (R262) -/

/-- The value moved. -/
def moveOne (_ : BitVec 8) (v : List Nat) : Nat × Bool := (v.headD 0, false)

theorem push_arithmetic (f : FmtA) : ArithmeticForm (.push f) [(f.a, .w32, f.ty)] (some (f.d, .w32)) none moveOne :=
  arithmeticForm_of (fun _ => rfl) rfl rfl rfl rfl rfl fun _ _ _ _ => rfl

theorem pop_arithmetic (f : FmtA) : ArithmeticForm (.pop f) [(f.a, .w32, f.ty)] (some (f.d, .w32)) none moveOne :=
  arithmeticForm_of (fun _ => rfl) rfl rfl rfl rfl rfl fun _ _ _ _ => rfl

theorem popOf_queue (q : BitVec 6) (nb : Bool) : popOf [.queue q nb] = some (q.toNat, nb) := rfl

theorem popOf_of_isQueue {o : Operand} (h : o.isQueue = false) : popOf [o] = none := by
  cases o <;> simp_all [popOf, Operand.isQueue]

/-- What lanes push is one entry of 32 words, the launched lanes' values among zeros (R17). -/
theorem writeResults_queue {u : State} {c k : Nat} {w : Warp} {q : BitVec 6} {nb : Bool} {p : Pos} {ex : List Nat} (v : Nat → Nat)
    (hw : u.warp? c k = some w) (hn : ex ≠ []) :
    writeResults u c k (some (.queue q nb, p)) (ex.map (fun l => (l, v l))) = queueAdd u w.wg q.toNat ((List.range 32).map (fun j =>
      if ex.contains j ∧ (u.lane c k j).kind = .launched then BitVec.ofNat 32 (v j) else 0)) := by
  have hwg : wgIdOf u c k = some w.wg := by unfold wgIdOf; rw [hw]; rfl
  obtain ⟨a, t, rfl⟩ := List.exists_cons_of_ne_nil hn
  unfold writeResults
  rw [hwg]
  refine congrArg (queueAdd u w.wg q.toNat) (List.map_congr_left fun j _ => ?_)
  have hf : ((a :: t).map (fun l => (l, v l))).find? (fun e => e.1 = j) = if (a :: t).contains j then some (j, v j) else none := by
    rw [List.find?_map]
    generalize a :: t = L
    induction L with
    | nil => rfl
    | cons b L ih =>
      rw [List.find?_cons]
      by_cases hb : b = j
      · simp [hb]
      · have : j ≠ b := Ne.symm hb
        simp_all
  rw [hf]
  by_cases hj : (a :: t).contains j = true <;> simp only [hj, if_true, Bool.false_eq_true, if_false, true_and, false_and, beq_iff_eq]

/-! ## A release leaves every queue as it was -/

/-- Every workgroup's queues are as before. -/
def QueuesKept (s t : State) : Prop := ∀ g, (t.wgs.at? g).map Wg.queues = (s.wgs.at? g).map Wg.queues

theorem QueuesKept.refl (s : State) : QueuesKept s s := fun _ => rfl

theorem QueuesKept.trans {s t u : State} (h : QueuesKept s t) (g : QueuesKept t u) : QueuesKept s u := fun n => (g n).trans (h n)

theorem queuesKept_of_wgs {s t : State} (h : t.wgs = s.wgs) : QueuesKept s t := fun n => by rw [h]

theorem queuesKept_foldl {α : Type} (f : State → α → State) (h : ∀ s a, QueuesKept s (f s a)) (l : List α) (s : State) :
    QueuesKept s (l.foldl f s) := by
  induction l generalizing s with
  | nil => exact .refl s
  | cons a l ih => exact (h s a).trans (ih _)

theorem publishWg_queues (s : State) (g : Nat) (m : BitVec 1024) : QueuesKept s (publishWg s g m) := fun n => by
  simp only [publishWg, State.modWg, NMap.at?_upd]
  split
  · next e => subst e; cases s.wgs.at? n <;> rfl
  · rfl

@[simp] theorem l2Access_wgs (s : State) (k : Nat) (h : Hint) (valid written : BitVec 128) : (l2Access s k h valid written).wgs = s.wgs := by
  unfold l2Access
  split <;> rfl

@[simp] theorem writeMasked_wgs (s : State) (base : Nat) (m : BitVec 128) (d : BitVec 1024) : (writeMasked s base m d).wgs = s.wgs := by
  unfold writeMasked
  generalize List.range 128 = L
  induction L generalizing s with
  | nil => rfl
  | cons i L ih => rw [List.foldl_cons, ih]; split <;> rfl

theorem writeBack_queues (s : State) (c : Nat) (l : CacheLine) : QueuesKept s (writeBack s c l) := by
  unfold writeBack sendHome
  split
  · exact .refl s
  · split
    · exact queuesKept_of_wgs rfl
    · refine queuesKept_of_wgs ?_
      show (l2Access _ _ _ _ _).wgs = _
      simp

theorem writeBackAll_queues (s : State) (c : Nat) : QueuesKept s (writeBackAll s c) :=
  queuesKept_foldl _ (fun s l => writeBack_queues s c l) _ s

theorem release_queues (s : State) (c : Nat) (wg : Option Nat) (sc : Scope) : QueuesKept s (release s c wg sc) := by
  have hw := writeBackAll_queues s c
  have hp : QueuesKept s (publishCore (writeBackAll s c) c) := hw.trans (queuesKept_of_wgs rfl)
  unfold release
  cases sc with
  | wp => exact .refl s
  | wg =>
    dsimp only
    split
    · exact hw.trans (publishWg_queues _ _ _)
    · exact .refl s
  | pkg | span =>
    dsimp only
    split
    · exact hp.trans (publishWg_queues _ _ _)
    · exact hp

/-- The queue of a warp's workgroup. -/
def wgQueue (s : State) (c k q : Nat) : Option Queue := (s.wgOf c k).bind (fun g => g.queues.at? q)

theorem wgQueue_release (s : State) (c k q b : Nat) (wg : Option Nat) (sc : Scope) :
    wgQueue (release s b wg sc) c k q = wgQueue s c k q := by
  have hmap (o : Option Wg) : o.bind (fun g => g.queues.at? q) = (o.map Wg.queues).bind (fun m => m.at? q) := by cases o <;> rfl
  unfold wgQueue State.wgOf
  rw [warp?_release]
  cases s.warp? c k with
  | none => rfl
  | some w => rw [hmap, hmap, release_queues]

/-- `qstat` (R262). -/
theorem qstat_arithmetic {f : FmtA} {n : BitVec 8} (hn : f.a = .imm n) :
    ArithmeticWhen (.qstat f) [] (some (f.d, .w32)) none (fun s x k => (wgQueue s x.core k n.toNat).isSome = true) (fun _ _ _ _ _ => True)
      (fun u x k _ _ => (match wgQueue u x.core k n.toNat with | some y => y.count + 2 ^ 16 * (y.cap - y.count) | none => 0, false)) := by
  refine arithmeticWhen_of_runs fun s x k w ls ex h hr hm => ?_
  obtain ⟨y, hy⟩ := Option.isSome_iff_exists.1 hm
  refine ⟨fun _ _ => none, fun u ws nb =>
    (Arith.of [] (some (f.d, .w32)) none (fun _ _ => (y.count + 2 ^ 16 * (y.cap - y.count), false))).apply x u k ex ws none nb, ?exec,
    fun _ _ => rfl, fun u ws nb hu => ?run⟩
  case exec =>
    refine congrArg Host.Outcome.next ((issue_goes h hr rfl).trans (congrArg (endIssue x) ?_))
    obtain ⟨g, hg, hgq⟩ := Option.bind_eq_some_iff.1 hy
    dsimp only
    rw [hn, hg]
    dsimp only
    rw [hgq]
    exact Arith.warp_eq _ _ _ hr.guard
  case run =>
    have hq : wgQueue u x.core k n.toNat = some y := by
      rcases hu with rfl | rfl | ⟨q, nb, hq, rfl⟩
      · exact hy
      · rw [wgQueue_release, hy]
      · exact absurd hq (by simp [popOf])
    rw [hq]

/-! ## The statement -/

section
variable {f : FmtA} {q : BitVec 6} {nb : Bool} {s : State} {x : Clause} {k : Nat} {w : Warp} {ls ex : List Nat}

/-- A push with room, whose release need not wait, adds the entry (R17). -/
theorem push_ready (h : Issues s x k w) (hr : Goes (.push f) [(f.a, .w32), (f.d, .w32)] s x k w ls ex) (hd : f.d = .queue q nb)
    (ha : f.a.isQueue = false) (hn : ex ≠ []) (hroom : queueRoom s w.wg q.toNat = .ready []) (hdrain : mustDrain s x.core k ex .rel .wg = false) :
    let u := release s x.core (some w.wg) .wg
    let v (l : Nat) : Nat := readOp u (x.env k) l f.ty .w32 f.a
    exec (.push f) s = .next (endIssue x (setLatches
      (noteWrites (if nb then writePreds (pushLatches (queueAdd u w.wg q.toNat ((List.range 32).map (fun j =>
          if ex.contains j ∧ (u.lane x.core k j).kind = .launched then BitVec.ofNat 32 (v j) else 0))) x.core k x.slot (some (f.d, .w32))
          (ex.map (fun l => (l, v l)))) x.core k (some f.pw) (ex.map (fun l => (l, true)))
        else pushLatches (queueAdd u w.wg q.toNat ((List.range 32).map (fun j =>
          if ex.contains j ∧ (u.lane x.core k j).kind = .launched then BitVec.ofNat 32 (v j) else 0))) x.core k x.slot (some (f.d, .w32))
          (ex.map (fun l => (l, v l)))) x.core k ([] ++ (if nb then ex.map (fun _ => 1) else []))) x.core k x.slot ls (some (f.d, .w32)))) := by
  intro u v
  have hgo := ((push_arithmetic f).2 s x k w ls ex h hr trivial).2 q.toNat nb (popOf_of_isQueue ha) (by rw [hd]; rfl)
  have hu : u.warp? x.core k = some w := by rw [warp?_release]; exact h.warp
  rw [(hgo.2 hn).1 hroom hdrain trivial]
  have hres := writeResults_queue (q := q) (nb := nb) (p := .w32) v hu hn
  rw [← hd] at hres
  simp only [List.map_map, Function.comp_def, writePreds]
  rw [← hres, hd]
  rfl

/-- Results moved to a register, and the written predicate of `.nb` (R180, R262). -/
def queueMoved (u : State) (x : Clause) (k : Nat) (ls : List Nat) (d : Operand) (p : BitVec 3) (nb : Bool) (rs : List (Nat × Nat)) : State :=
  endIssue x (setLatches (noteWrites
    (if nb then writePreds (writeResults u x.core k (some (d, .w32)) rs) x.core k (some p) ((rs.map Prod.fst).map (fun l => (l, true)))
      else writeResults u x.core k (some (d, .w32)) rs) x.core k
    (spinValues (some (d, .w32)) false (rs.map (fun e => (e.1, e.2, false))) ++ (if nb then (rs.map Prod.fst).map (fun _ => 1) else [])))
    x.core k x.slot ls (some (d, .w32)))

/-- What the lanes that take the words of an entry write. -/
theorem apply_words {ty : Ty} {d : Operand} (hd : regDst (some (d, .w32)) = true) (u : State) (x : Clause) (k : Nat) (ls ex : List Nat)
    (q : BitVec 6) (nb : Bool) (p : BitVec 3) (words : List Word) :
    endIssue x (setLatches ((Arith.of [(.queue q nb, .w32, ty)] (some (d, .w32)) none moveOne).apply x u k ex words none
      (if nb then some p else none)) x.core k x.slot ls (some (d, .w32))) =
    queueMoved u x k ls d p nb (ex.map (fun l => (l, (words.getD l 0).toNat))) := by
  rw [apply_of]
  simp only [pushLatches_of_regDst hd, List.map_map, Function.comp_def, List.map_cons, List.map_nil, moveOne, List.headD_cons, queueMoved]
  cases nb <;> rfl

/-- A pop of an entry (R17). -/
theorem pop_ready {words : List Word} (h : Issues s x k w) (hr : Goes (.pop f) [(f.a, .w32), (f.d, .w32)] s x k w ls ex)
    (ha : f.a = .queue q nb) (hd : regDst (some (f.d, .w32)) = true) (hn : ex ≠ []) (hh : queueHead s w.wg q.toNat = .ready words) :
    exec (.pop f) s = .next (queueMoved (acquire (queueDrop s w.wg q.toNat) x.core (some w.wg) .wg) x k ls f.d f.pw nb
      (ex.map (fun l => (l, (words.getD l 0).toNat)))) := by
  have hgo := ((pop_arithmetic f).2 s x k w ls ex h hr trivial).1 q.toNat nb (by rw [ha]; rfl)
  rw [(hgo.2 hn).1 words hh trivial, ← apply_words (ty := f.ty) hd _ x k ls ex q nb f.pw words, apply_of, ha]
  cases nb <;> rfl

/-- A peek at an entry: a pop that removes nothing (R262). -/
theorem qpeek_ready {words : List Word} (h : Issues s x k w) (hr : Goes (.qpeek f) [(f.d, .w32)] s x k w ls ex)
    (ha : f.a = .queue q nb) (hd : regDst (some (f.d, .w32)) = true) (hn : ex ≠ []) (hh : queueHead s w.wg q.toNat = .ready words) :
    exec (.qpeek f) s = .next (queueMoved (acquire s x.core (some w.wg) .wg) x k ls f.d f.pw nb
      (ex.map (fun l => (l, (words.getD l 0).toNat)))) := by
  have hwg : wgIdOf s x.core k = some w.wg := by unfold wgIdOf; rw [h.warp]; rfl
  refine congrArg Host.Outcome.next ((issue_goes h hr rfl).trans ?_)
  rw [← apply_words (ty := f.ty) hd]
  dsimp only
  rw [hr.guard, ha, popOf_queue, hwg]
  dsimp only
  rw [if_neg hn, hh]
  rfl

/-- A peek at an empty queue (R262). -/
theorem qpeek_blocked (h : Issues s x k w) (hr : Goes (.qpeek f) [(f.d, .w32)] s x k w ls ex) (ha : f.a = .queue q nb) (hn : ex ≠ [])
    (hh : queueHead s w.wg q.toNat = .blocked) : exec (.qpeek f) s = .next (
      let again := if collectiveIn s x.core k (.qpeek f) then ls else ex
      if nb then endIssue x (setLatches (putPreds s x.core k (some f.pw) (ex.map (fun l => (l, false)))) x.core k x.slot ls (some (f.d, .w32)))
      else endIssue x (setLatches (parkAll s x.core k again (.pop q.toNat)) x.core k x.slot (ls.filter (fun l => !again.contains l))
        (some (f.d, .w32)))) := by
  have hwg : wgIdOf s x.core k = some w.wg := by unfold wgIdOf; rw [h.warp]; rfl
  refine congrArg Host.Outcome.next ((issue_goes h hr rfl).trans ?_)
  dsimp only
  rw [hr.guard, ha, popOf_queue, hwg]
  dsimp only
  rw [if_neg hn, hh]
  cases nb <;> rfl

end

/-- Settles O28: `push` and `pop` by the law of the arithmetic forms, the others by their branches. -/
theorem queues : Obligations.Queues := by
  unfold Obligations.Queues
  intro latched ends moved rest
  refine ⟨fun f q nb s x k w ls ex h hr hd ha hn => ⟨fun hroom hdrain => ?_, fun hb => ?_, fun hb => ?_⟩,
    fun f q nb s x k w ls ex h hr ha hd hn => ⟨fun words hh => ?_, fun hb => ?_⟩,
    fun f q nb s x k w ls ex h hr ha hd hn => ⟨fun words hh => ?_, fun hb => ?_⟩,
    fun f s x k w g h hr hn hg => ?_, fun f n hn => qstat_arithmetic hn, fun g q s hr => ?_, fun g q s words hh => ?_⟩
  · exact push_ready h hr hd ha hn hroom hdrain
  · have hgo := ((push_arithmetic f).2 s x k w ls ex h hr trivial).2 q.toNat nb (popOf_of_isQueue ha) (by rw [hd]; rfl)
    refine ((hgo.2 hn).2.2.1 hb).trans ?_
    cases nb <;> rfl
  · have hgo := ((push_arithmetic f).2 s x k w ls ex h hr trivial).2 q.toNat nb (popOf_of_isQueue ha) (by rw [hd]; rfl)
    exact (hgo.2 hn).2.2.2 hb
  · exact pop_ready h hr ha hd hn hh
  · have hgo := ((pop_arithmetic f).2 s x k w ls ex h hr trivial).1 q.toNat nb (by rw [ha]; rfl)
    refine ((hgo.2 hn).2.1 hb).trans ?_
    cases nb <;> rfl
  · exact qpeek_ready h hr ha hd hn hh
  · refine (qpeek_blocked h hr ha hn hb).trans ?_
    cases nb <;> rfl
  · intro first off n qn halign hpos hle hfit hempty hfree
    refine congrArg Host.Outcome.next ((once_arrived h hr hn rfl).trans (congrArg (endIssue x) ?_))
    have hfull : (match g.queues.at? qn with | some y => y.count != 0 | none => false) = false := by
      cases hq : g.queues.at? qn with
      | none => rfl
      | some y => simp [hempty y hq]
    dsimp only
    rw [hg]
    have hal : (off % 128 != 0) = false := by rw [halign]; rfl
    refine if_neg (ne_true_of_eq_false ?_)
    exact Bool.or_eq_false_iff.2 ⟨Bool.or_eq_false_iff.2 ⟨Bool.or_eq_false_iff.2 ⟨Bool.or_eq_false_iff.2 ⟨Bool.or_eq_false_iff.2 ⟨hal,
      decide_eq_false hpos.ne'⟩, decide_eq_false (Nat.not_lt.2 hle)⟩, decide_eq_false (Nat.not_lt.2 hfit)⟩, hfull⟩, hfree⟩
  · simp only [exec, execQueuePushUnblock, hr]
  · simp only [exec, execQueuePopUnblock, hh]

end Sys2Proof.Machine
end

section
/-! PROOFS. Block pools. -/

namespace Sys2Proof.Machine

/-! ## Checks that turn nothing away -/

section
variable {s : State} {x : Clause} {k : Nat} {w : Warp} {ex : List Nat}

/-- A warp that may act in a reproducible launch: its turn has come, or the launch is not one (R258). -/
theorem rowTrap_none (h : s.warp? x.core k = some w) (ht : s.repro x.core k = false ∨ holdsToken s w = true) : rowTrap x s k ex = none := by
  unfold rowTrap
  rw [h]
  refine if_neg ?_
  rcases ht with ht | ht <;> simp [ht]

/-- A warp whose turn has not come (R258). -/
theorem rowTrap_some (h : s.warp? x.core k = some w) (ht : ¬ (s.repro x.core k = false ∨ holdsToken s w = true)) (hn : ex ≠ []) :
    rowTrap x s k ex = some (raiseTrap s x.core k Cause.rightOfWay x.pc { lanes := maskOf ex }) := by
  rw [not_or, Bool.not_eq_false, Bool.not_eq_true] at ht
  unfold rowTrap
  rw [h]
  exact if_pos (by simp [ht, hn])

/-- A check that passes every lane (R237). -/
theorem lanesTrap_none {act : List Nat} {chk : Nat → Option (Nat × Nat)} (h : ∀ l ∈ act, chk l = none) : lanesTrap x s k act chk = none := by
  unfold lanesTrap
  rw [List.findSome?_eq_none_iff.2 fun l hl => by rw [h l hl]; rfl]

/-- A check that stops some lanes, all for one cause (R237). -/
theorem lanesTrap_cause {act : List Nat} (bad : Nat → Bool) (cause : Nat) (h : act.filter bad ≠ []) :
    lanesTrap x s k act (fun l => if bad l then some (cause, 0) else none) =
      some (raiseTrap s x.core k cause x.pc { lanes := maskOf (act.filter bad) }) := by
  have hfind : act.findSome? (fun l => (if bad l then some (cause, 0) else none).map (fun e => (e.1, e.2))) = some (cause, 0) := by
    obtain ⟨l, hl⟩ := List.exists_mem_of_ne_nil _ h
    obtain ⟨hm, hb⟩ := List.mem_filter.1 hl
    clear h hl
    induction act with
    | nil => exact absurd hm List.not_mem_nil
    | cons a t ih =>
      rw [List.findSome?_cons]
      by_cases ha : bad a = true
      · rw [if_pos ha]; rfl
      · rw [if_neg ha]
        exact ih ((List.mem_cons.1 hm).resolve_left fun e => ha (e ▸ hb))
  have hon : act.filter (fun l => match (if bad l then some (cause, 0) else none : Option (Nat × Nat)) with
      | some e => decide (e.1 = cause) | none => false) = act.filter bad :=
    List.filter_congr fun l _ => by cases hb : bad l <;> simp
  unfold lanesTrap
  rw [hfind]
  exact congrArg (fun ls => some (raiseTrap s x.core k cause x.pc { lanes := maskOf ls })) hon

end

/-- The order of the fields does not matter to whether an instruction goes. -/
theorem Goes.swap {i : Instr} {a b : Operand × Pos} {s : State} {x : Clause} {k : Nat} {w : Warp} {ls ex : List Nat}
    (h : Goes i [a, b] s x k w ls ex) : Goes i [b, a] s x k w ls ex := by
  have hr : rangeOk w.regs [b, a] = rangeOk w.regs [a, b] := by simp [rangeOk, Bool.and_comm]
  rcases h with ⟨h1, h2, h3⟩ | ⟨h1, h2, h3⟩
  · exact .inl ⟨{ h1 with range := hr ▸ h1.range }, h2, h3⟩
  · exact .inr ⟨{ h1 with range := hr ▸ h1.range }, h2, h3⟩

/-- Lanes that act one after another, each where those before it have not failed, as a fold that fails with the first of them. -/
theorem foldl_of_foldlM {α : Type} {one : State → Nat → Option State} {step : State × List Nat × Option α → Nat → State × List Nat × Option α}
    {ls : List Nat} (h : ∀ u, ∀ l ∈ ls, ∀ t d, one u l = some t → step (u, d, none) l = (t, l :: d, none)) {u t : State}
    (ht : ls.foldlM one u = some t) : ∀ d, ∃ d', ls.foldl step (u, d, none) = (t, d', none) := by
  induction ls generalizing u with
  | nil => exact fun d => ⟨d, by rw [List.foldl_nil]; cases ht; rfl⟩
  | cons l ls ih =>
    intro d
    rw [List.foldlM_cons] at ht
    obtain ⟨v, hv, ht⟩ := Option.bind_eq_some_iff.1 ht
    rw [List.foldl_cons, h u l (.head _) v d hv]
    exact ih (fun u j hj => h u j (.tail _ hj)) ht _

/-- So a fault fails no launch (R35). -/
theorem poolFails_foldl {one : State → Nat → Option State}
    {step : State × List Nat × Option (Nat × Nat × Nat) → Nat → State × List Nat × Option (Nat × Nat × Nat)} {ls : List Nat}
    (h : ∀ u, ∀ l ∈ ls, ∀ t d, one u l = some t → step (u, d, none) l = (t, l :: d, none)) {u t : State} (ht : ls.foldlM one u = some t)
    (c k : Nat) (pc : DWord) :
    poolFails (ls.foldl step (u, [], none)).1 c k pc (ls.foldl step (u, [], none)).2.1 (ls.foldl step (u, [], none)).2.2 = t := by
  obtain ⟨d, hd⟩ := foldl_of_foldlM h ht []
  rw [hd]
  rfl

/-- A form with one source that may be a queue, which nothing turns away: it pops the entry first (R180). -/
theorem queueWarp_popped {i : Instr} {o : Operand} {s u : State} {x : Clause} {k : Nat} {w : Warp} {ls ex : List Nat} {words : List Word}
    {nbPw : BitVec 3} {pre : State → List Word → Option State} {run : State → List Word → Option (BitVec 3) → State}
    {fin : State → List Nat → State} (hw : s.warp? x.core k = some w) (hp : Popped [o] s u x w ex words) (hnb : ∀ q, o ≠ .queue q true)
    (hpre : pre s words = none) : queueWarp i (popOf [o]) none nbPw ex pre run fin x s k ls = fin (run u words none) ls := by
  have hwg : wgIdOf s x.core k = some w.wg := by unfold wgIdOf; rw [hw]; rfl
  rcases hp with ⟨ho, rfl, rfl⟩ | ⟨q, nb, ho, hn, hh, rfl⟩
  · simp only [queueWarp, ho, hpre, Bool.false_eq_true, if_false]
  · have hfalse : nb = false := by
      cases o <;> simp only [popOf, List.findSome?_cons, List.findSome?_nil, reduceCtorEq] at ho
      next r b =>
        obtain ⟨-, rfl⟩ := Prod.mk.inj (Option.some.inj ho)
        cases b
        · rfl
        · exact absurd rfl (hnb r)
    simp only [queueWarp, ho, hn, hwg, hh, hpre, hfalse, Bool.false_eq_true, if_false]

/-! ## Taking and giving blocks (R257) -/

/-- A pool of the warp's own context. -/
def poolMine (s : State) (x : Clause) (k p : Nat) : Bool := poolOk s p && poolCtx s p == s.ctxOf x.core k

/-- One lane's `balloc`, unless it meets a fault. -/
def ballocOne (f : FmtA) (s : State) (x : Clause) (k : Nat) (ex : List Nat) (words : List Word) (u : State) (l : Nat) : Option State :=
  let put (u : State) (l v : Nat) (ok : Bool) : Option State :=
    some (putPreds (putResults u x.core k (some (laneDest f.d ex l, .w64)) [(l, v)]) x.core k (some f.pw) [(l, ok)])
  if (s.lane x.core k l).kind = .launched then
    match poolTake u x.core (readOp s { x.env k with pop := words } l .n32 .w32 f.c) l (s.repro x.core k) with
    | (u1, .empty) => put u1 l 0 false
    | (u1, .block a) => put u1 l a true
    | _ => none
  else put u l 0 false

section
variable {s u0 t : State} {x : Clause} {k : Nat} {w : Warp} {ls ex : List Nat}

theorem contains_launchedOf {l : Nat} (h : l ∈ ex) :
    (launchedOf s x.core k ex).contains l = decide ((s.lane x.core k l).kind = .launched) := by
  simp [launchedOf, h]

theorem exec_balloc_goes {f : FmtA} {words : List Word} (h : Issues s x k w) (hr : Goes (.balloc f) [(f.d, .w64), (f.c, .w32)] s x k w ls ex)
    (ht : s.repro x.core k = false ∨ holdsToken s w = true) (hp : Popped [f.c] s u0 x w ex words) (hnb : ∀ q, f.c ≠ .queue q true)
    (hfine : ∀ l ∈ ex, (s.lane x.core k l).kind = .launched →
      poolMine s x k (readOp s { x.env k with pop := words } l .n32 .w32 f.c) = true)
    (hgo : ex.foldlM (ballocOne f s x k ex words) u0 = some t) :
    exec (.balloc f) s = .next (endIssue x (setLatches t x.core k x.slot ls (some (f.d, .w64)))) := by
  refine congrArg Host.Outcome.next ((issue_goes h hr rfl).trans (congrArg (endIssue x) ?_))
  dsimp only
  rw [hr.guard]
  have hrow := rowTrap_none (ex := ex) h.warp ht
  refine (queueWarp_popped h.warp hp hnb ?_).trans ?_
  · rw [hrow, lanesTrap_none]
    · rfl
    · intro l hl
      obtain ⟨hl, hk⟩ := List.mem_filter.1 hl
      have hm := hfine l hl (by simpa using hk)
      rw [poolMine, Bool.and_eq_true, beq_iff_eq] at hm
      simp [hm.1, hm.2]
  · refine congrArg (fun v => setLatches v x.core k x.slot ls (some (f.d, .w64))) ?_
    refine poolFails_foldl (one := ballocOne f s x k ex words) (fun u l hl v d hv => ?_) hgo x.core k x.pc
    unfold ballocOne at hv
    dsimp only at hv ⊢
    rw [contains_launchedOf hl]
    by_cases hk : (s.lane x.core k l).kind = .launched
    · rw [if_pos hk] at hv
      simp only [hk, decide_true, Bool.not_true, Bool.false_eq_true, if_false]
      split at hv
      · next he => rw [he]; cases hv; rfl
      · next he => rw [he]; cases hv; rfl
      · cases hv
    · rw [if_neg hk] at hv
      cases hv
      simp only [hk, decide_false, Bool.not_false, if_true]

/-- `bfree` in lanes that nothing turns away, one after another (R257). -/
theorem exec_bfree_goes {f : FmtS} (h : Issues s x k w) (hr : Goes (.bfree f) [(f.a, .w64), (f.b, .w32), (f.c, .w32)] s x k w ls ex)
    (ht : s.repro x.core k = false ∨ holdsToken s w = true) :
    let addr (l : Nat) : Nat := readOp s (x.env k) l .b64 .w64 f.a
    let size (l : Nat) : Nat := readOp s (x.env k) l .n32 .w32 f.b
    let pool (l : Nat) : Nat := readOp s (x.env k) l .n32 .w32 f.c
    (∀ l ∈ launchedOf s x.core k ex, poolCtx s (pool l) = s.ctxOf x.core k ∧ poolFate s (addr l) (size l) (pool l) = none) →
    (launchedOf s x.core k ex).foldlM (fun u l => match poolFree u x.core (pool l) (addr l) (size l) with | (u1, none) => some u1 | _ => none) s
      = some t →
    exec (.bfree f) s = .next (endIssue x t) := by
  intro addr size pool hfine hgo
  refine congrArg Host.Outcome.next ((issue_goes h hr rfl).trans (congrArg (endIssue x) ?_))
  dsimp only
  rw [hr.guard, rowTrap_none (ex := ex) h.warp ht, lanesTrap_none]
  · refine poolFails_foldl ?_ hgo x.core k x.pc
    intro u l _ v d hv
    dsimp only at hv ⊢
    split at hv
    · next he => rw [he]; cases hv; rfl
    · cases hv
  · intro l hl
    obtain ⟨hc, hf⟩ := hfine l hl
    rw [show poolFate s _ _ _ = none from hf, show poolCtx s _ = _ from hc]
    simp

/-- What a lane's `dfree` at s0 pushes at s (R169, R255). -/
def dfreeEntry (f : FmtS) (s0 : State) (x : Clause) (k : Nat) (s : State) (l : Nat) : DfEntry :=
  { addr := BitVec.ofNat 64 (readOp s0 (x.env k) l .b64 .w64 f.a), size := readOp s0 (x.env k) l .n32 .w32 f.b
    pool := readOp s0 (x.env k) l .n32 .w32 f.c, span := actsSpan s f
    stamp := if actsSpan s f then s.track.takenSpan else s.track.takenPkg
    queue := match s.launchOf x.core k with | some y => y.queue | none => 0
    course := match s.launchOf x.core k with | some y => BitVec.ofNat 32 y.course | none => 0
    launch := match s.warp? x.core k with | some w => w.launch | none => 0
    repro := s.repro x.core k }

/-- Entries pushed one after another, with room for all of them (R169). -/
theorem foldl_dfree {E : State → Nat → DfEntry} {full : State → Nat → State} (hE : ∀ s q l, E { s with dfq := q } l = E s l) (act : List Nat) :
    ∀ s : State, s.dfq.length + act.length ≤ dfqSlots →
      act.foldl (fun s l => if dfqSlots ≤ s.dfq.length then full s l else { s with dfq := s.dfq ++ [E s l] }) s =
        { s with dfq := s.dfq ++ act.map (E s) } := by
  induction act with
  | nil => intro s _; simp
  | cons a t ih =>
    intro s hroom
    rw [List.length_cons] at hroom
    rw [List.foldl_cons, if_neg (by omega), ih _ (by rw [List.length_append, List.length_singleton]; omega)]
    have : E { s with dfq := s.dfq ++ [E s a] } = E s := funext fun l => hE s _ l
    simp [this]

/-- `dfree` in lanes that nothing turns away, with room for them (R169, R255). -/
theorem exec_dfree_goes {f : FmtS} {y : Launch} (h : Issues s x k w)
    (hr : Goes (.dfree f) [(f.a, .w64), (f.b, .w32), (f.c, .w32)] s x k w ls ex) (hb : s.dfqBase ≠ 0) (hy : s.launchOf x.core k = some y) :
    let act := launchedOf s x.core k ex
    let addr (l : Nat) : Nat := readOp s (x.env k) l .b64 .w64 f.a
    let size (l : Nat) : Nat := readOp s (x.env k) l .n32 .w32 f.b
    let pool (l : Nat) : Nat := readOp s (x.env k) l .n32 .w32 f.c
    (∀ l ∈ act, poolCtx s (pool l) = s.ctxOf x.core k ∧ poolFate s (addr l) (size l) (pool l) = none) → s.dfq.length + act.length ≤ dfqSlots →
    exec (.dfree f) s = .next (endIssue x { s with dfq := s.dfq ++ act.map (fun l =>
      { addr := BitVec.ofNat 64 (addr l), size := size l, pool := pool l, span := actsSpan s f
        stamp := if actsSpan s f then s.track.takenSpan else s.track.takenPkg, queue := y.queue, course := BitVec.ofNat 32 y.course
        launch := w.launch, repro := s.repro x.core k }) }) := by
  intro act addr size pool hfine hroom
  refine congrArg Host.Outcome.next ((issue_goes h hr rfl).trans (congrArg (endIssue x) ?_))
  dsimp only
  rw [hr.guard, lanesTrap_none]
  · have hwait : (collectiveIn s x.core k (.dfree f) && act != [] && decide (dfqSlots < s.dfq.length + act.length)) = false := by
      rw [decide_eq_false (Nat.not_lt.2 hroom), Bool.and_false]
    refine (if_neg (ne_true_of_eq_false hwait)).trans ((foldl_dfree (E := dfreeEntry f s x k) (fun _ _ _ => rfl) act s hroom).trans ?_)
    unfold dfreeEntry
    rw [hy, h.warp]
  · intro l hl
    obtain ⟨hc, hf⟩ := hfine l hl
    rw [if_neg hb, show poolFate s _ _ _ = none from hf, show poolCtx s _ = _ from hc]
    simp

/-- A form without queues among its operands that a check turns away. -/
theorem queueWarp_trapped {i : Instr} {pop push : Option (Nat × Bool)} {nbPw : BitVec 3} {pre : State → List Word → Option State}
    {run : State → List Word → Option (BitVec 3) → State} {fin : State → List Nat → State} (h1 : pop = none) (h2 : push = none)
    (hpre : pre s [] = some t) : queueWarp i pop push nbPw ex pre run fin x s k ls = t := by
  simp only [queueWarp, h1, h2, hpre]

end

/-- The checks of a `bpstat` (R255, R258). -/
def bpstatCheck (f : FmtA) (x : Clause) (k : Nat) (ex : List Nat) (s : State) (words : List Word) : Option State :=
  (rowTrap x s k ex).or (lanesTrap x s k ex (fun l =>
    if !poolOk s (readOp s { x.env k with pop := words } l .n32 .w32 f.c) ||
        poolCtx s (readOp s { x.env k with pop := words } l .n32 .w32 f.c) != s.ctxOf x.core k then some (Cause.contract, 0) else none))

/-- `bpstat` (R257). -/
theorem bpstat_arithmetic (f : FmtA) : ArithmeticWhen (.bpstat f) [(f.c, .w32, .n32)] (some (f.d, .w32)) none (fun _ _ _ => True)
    (fun s x k ex words => (∃ w, s.warp? x.core k = some w ∧ (s.repro x.core k = false ∨ holdsToken s w = true)) ∧
      ∀ l ∈ ex, poolOk s (readOp s { x.env k with pop := words } l .n32 .w32 f.c) = true ∧
        poolCtx s (readOp s { x.env k with pop := words } l .n32 .w32 f.c) = s.ctxOf x.core k)
    (fun u _ _ _ v => (poolFld u (v.headD 0) 8 4, false)) := by
  refine arithmeticWhen_of_runs fun s x k w ls ex h hr _ => ⟨fun s ws => bpstatCheck f x k ex s ws, fun u ws nb =>
    (Arith.of [(f.c, .w32, .n32)] (some (f.d, .w32)) none (fun _ v => (poolFld u (v.headD 0) 8 4, false))).apply x u k ex ws none nb,
    congrArg Host.Outcome.next ((issue_goes h hr.swap rfl).trans (congrArg (endIssue x) ?_)), fun ws hf => ?_, fun u ws nb _ => rfl⟩
  · dsimp only
    rw [hr.guard]
    rfl
  · obtain ⟨⟨v, hv, ht⟩, hf⟩ := hf
    dsimp only [bpstatCheck]
    rw [rowTrap_none hv ht, lanesTrap_none fun l hl => ?_]
    · rfl
    · obtain ⟨ho, hc⟩ := hf l hl
      simp [ho, hc]

section
variable {f : FmtA} {s : State} {x : Clause} {k : Nat} {w : Warp} {ls ex : List Nat}

/-- A `balloc` out of turn (R258). -/
theorem balloc_turn (h : Issues s x k w) (hc : f.c.isQueue = false) (hn : ex ≠ [])
    (hr : Goes (.balloc f) [(f.d, .w64), (f.c, .w32)] s x k w ls ex) (ht : ¬ (s.repro x.core k = false ∨ holdsToken s w = true)) :
    exec (.balloc f) s = .next (endIssue x (raiseTrap s x.core k Cause.rightOfWay x.pc { lanes := maskOf ex })) := by
  refine congrArg Host.Outcome.next ((issue_goes h hr rfl).trans (congrArg (endIssue x) ?_))
  dsimp only
  rw [hr.guard]
  exact queueWarp_trapped (popOf_of_isQueue hc) rfl (by rw [rowTrap_some h.warp ht hn]; rfl)

/-- A `bpstat` out of turn (R258). -/
theorem bpstat_turn (h : Issues s x k w) (hc : f.c.isQueue = false) (hd : f.d.isQueue = false) (hn : ex ≠ [])
    (hr : Goes (.bpstat f) [(f.d, .w32), (f.c, .w32)] s x k w ls ex) (ht : ¬ (s.repro x.core k = false ∨ holdsToken s w = true)) :
    exec (.bpstat f) s = .next (endIssue x (raiseTrap s x.core k Cause.rightOfWay x.pc { lanes := maskOf ex })) := by
  refine congrArg Host.Outcome.next ((issue_goes h hr rfl).trans (congrArg (endIssue x) ?_))
  dsimp only
  rw [hr.guard]
  exact queueWarp_trapped (popOf_of_isQueue hc) (popOf_of_isQueue hd) (by rw [rowTrap_some h.warp ht hn]; rfl)

/-- A `bpstat` whose lanes name no pool of their own context (R255, R257). -/
theorem bpstat_contract (h : Issues s x k w) (hc : f.c.isQueue = false) (hd : f.d.isQueue = false)
    (hr : Goes (.bpstat f) [(f.d, .w32), (f.c, .w32)] s x k w ls ex) (ht : s.repro x.core k = false ∨ holdsToken s w = true)
    (hoff : ex.filter (fun l => !poolMine s x k (readOp s (x.env k) l .n32 .w32 f.c)) ≠ []) :
    exec (.bpstat f) s = .next (endIssue x (raiseTrap s x.core k Cause.contract x.pc
      { lanes := maskOf (ex.filter (fun l => !poolMine s x k (readOp s (x.env k) l .n32 .w32 f.c))) })) := by
  refine congrArg Host.Outcome.next ((issue_goes h hr rfl).trans (congrArg (endIssue x) ?_))
  dsimp only
  rw [hr.guard]
  refine queueWarp_trapped (popOf_of_isQueue hc) (popOf_of_isQueue hd) ?_
  rw [rowTrap_none h.warp ht]
  have hbad (p : Nat) : (!poolOk s p || poolCtx s p != s.ctxOf x.core k) = !poolMine s x k p := by rw [poolMine, Bool.not_and]; rfl
  simp only [hbad]
  exact lanesTrap_cause (fun l => !poolMine s x k (readOp s (x.env k) l .n32 .w32 f.c)) Cause.contract hoff

end

/-- Settles O27: each form by its lemma, and the pool's own operations by their branches. -/
theorem blockPools : Obligations.BlockPools := by
  unfold Obligations.BlockPools
  intro field fine turn
  have hmine {s : State} {x : Clause} {k p : Nat} (h : fine s x k p) : poolMine s x k p = true := by
    rw [poolMine, h.1, Bool.true_and, beq_iff_eq]
    exact h.2
  refine ⟨?balloc, fun s a n => rfl, fun s a bs => rfl, fun s c p l r h0 => ?empty, fun s c p l r u pa h0 hl => ?block, ?bfree,
    bpstat_arithmetic, fun f s x k w ls ex h hc hd hn => ?traps, ?dfree⟩
  case balloc =>
    intro f s u0 x k w ls ex words t h hr ht hp hnb pool put one hfine hgo
    exact exec_balloc_goes h hr ht hp hnb (fun l hl hk => hmine (hfine l hl hk)) hgo
  case empty => exact if_pos h0
  case block =>
    unfold poolTake
    dsimp only
    rw [if_neg (show ¬ poolFld s p 0 8 = 0 from h0), show linkPa s c (poolCtx s p) (poolFld s p 0 8) true = _ from hl]
    rfl
  case bfree =>
    intro f s x k w ls ex t h hr ht act addr size pool hfine hgo
    exact exec_bfree_goes h hr ht (fun l hl => ⟨(hfine l hl).1.2, (hfine l hl).2⟩) hgo
  case traps =>
    exact ⟨fun hr ht => balloc_turn h hc hn hr ht, fun hr ht => bpstat_turn h hc hd hn hr ht, fun hr ht => bpstat_contract h hc hd hr ht⟩
  case dfree =>
    intro f s x k w ls ex h hr hb act addr size pool wide hfine hroom y hy
    exact exec_dfree_goes h hr hb hy (fun l hl => ⟨(hfine l hl).1.2, (hfine l hl).2⟩) hroom

end Sys2Proof.Machine
end

section
/-! PROOFS. The control core's forms. -/

namespace Sys2Proof.Machine

/-! ## What the control core issues (R326) -/

section
variable {i : Instr} {ops : List (Operand × Pos)} {f : WarpStep} {s : State} {x : Clause}

/-- The control core issues a form that it has for its one lane. -/
theorem issue_ctrl (h : CtrlIssues i ops s x) (ha : ctrlAllowed i = true) : issue i ops f s = endIssue x (f x s ctrlSlot [0]) := by
  obtain ⟨t, ht⟩ : ∃ t, s.clauses = x :: t := by
    have := h.head
    cases hs : s.clauses with
    | nil => simp [hs] at this
    | cons y t => exact ⟨t, by simp [hs] at this; rw [this]⟩
  have hw : issueWarp i ops f x s ctrlSlot = f x s ctrlSlot [0] := by
    unfold issueWarp
    dsimp only
    rw [if_pos rfl, ha, h.levels, h.range, h.lanes]
    rfl
  unfold issue
  rw [ht]
  cases hp : x.picker with
  | stream n => exact absurd hp (h.picker n)
  | part p => simp only [hp, h.slots, List.foldl_cons, List.foldl_nil, hw]
  | control => simp only [hp, h.slots, List.foldl_cons, List.foldl_nil, hw]

/-- A form of the control core that writes one value to a register. -/
theorem constArith_ctrl {g : FmtA} {pw : BitVec 3} (v : Nat) (h : ctrlOperand g.d = true) (hg : guardLanes s x ctrlSlot [0] = [0]) :
    (constArith g v).warp i pw x s ctrlSlot [0] = noteWrites (writeDst s x.core ctrlSlot 0 .w32 g.d v) x.core ctrlSlot
      (spinValues (some (g.d, .w32)) false [(0, v, false)]) := by
  have hq : popOf ((some (g.d, Pos.w32)).toList.map Prod.fst) = none := by
    cases hd : g.d <;> simp_all [popOf, ctrlOperand]
  refine (Arith.warp_eq _ _ _ hg).trans ?_
  show queueWarp i none (popOf ((some (g.d, Pos.w32)).toList.map Prod.fst)) pw [0] _ _ _ x s ctrlSlot [0] = _
  rw [hq]
  have hl (u : State) : setLatches u x.core ctrlSlot x.slot [0] (some (g.d, .w32)) = u := if_pos rfl
  simp only [queueWarp, constArith, Bool.false_eq_true, if_false]
  refine (hl _).trans ((apply_of ..).trans ?_)
  cases hd : g.d <;> simp_all [ctrlOperand, writeResults, writePreds, pushLatches]

/-- What a form on a slot does: it tells whether it acted (R327). -/
def tellSlot (s : State) (c : Nat) (g : FmtS) (u : Option State) : State :=
  match u with
  | some u => u.modLane c ctrlSlot 0 (fun y => y.setPred g.pw.toNat true)
  | none => s.modLane c ctrlSlot 0 (fun y => y.setPred g.pw.toNat false)

theorem slotForm_ctrl {g : FmtS} {act : State → Nat → Nat → Nat → Option State} (hg : guardLanes s x ctrlSlot [0] = [0]) :
    slotForm g act x s ctrlSlot [0] = tellSlot s x.core g
      (act s x.core (readOp s (x.env ctrlSlot) 0 .n32 .w32 g.a) (readOp s (x.env ctrlSlot) 0 .n64 .w64 g.b)) := by
  unfold slotForm
  rw [hg]
  rfl

/-- A form that `dwsync` precedes, with no store to the debug window in flight (R327). -/
theorem afterDwsync_synced (h : debugOwed s x.core ctrlSlot [0] = false) : afterDwsync f x s ctrlSlot [0] = f x s ctrlSlot [0] := by
  unfold afterDwsync
  rw [h, Bool.and_false]
  exact if_neg Bool.false_ne_true

end

/-! ## Stopped slots (R325, R327) -/

section
variable {s : State} {c v : Nat}

/-- The stopped warp in a slot. -/
def stoppedWarp (s : State) (c v : Nat) : Option Warp :=
  if v < 48 then (s.warp? c v).bind (fun w => if w.trapped then some w else none) else none

/-- The stopped stream in a slot. -/
def stoppedStream (s : State) (c v : Nat) : Option Stream :=
  if 48 ≤ v ∧ v < 96 then ((s.core c).streams.at? (v - 48)).bind (fun y => if y.stopped then some y else none) else none

theorem warpStopped_eq (s : State) (c v : Nat) : warpStopped s c v = (stoppedWarp s c v).isSome := by
  unfold warpStopped stoppedWarp
  by_cases hv : v < 48
  · rw [if_pos hv, decide_eq_true hv, Bool.true_and]
    cases s.warp? c v with
    | none => rfl
    | some w => cases hw : w.trapped <;> simp [hw]
  · rw [if_neg hv, decide_eq_false hv, Bool.false_and]; rfl

theorem streamStopped_eq (s : State) (c v : Nat) : streamStopped s c v = (stoppedStream s c v).isSome := by
  unfold streamStopped stoppedStream
  by_cases hv : 48 ≤ v ∧ v < 96
  · rw [if_pos hv, decide_eq_true hv.1, decide_eq_true hv.2, Bool.true_and, Bool.true_and]
    cases (s.core c).streams.at? (v - 48) with
    | none => rfl
    | some y => cases hy : y.stopped <;> simp [hy]
  · rw [if_neg hv, ← Bool.decide_and, decide_eq_false hv, Bool.false_and]; rfl

theorem stoppedWarp_some {w : Warp} (h : stoppedWarp s c v = some w) : s.warp? c v = some w ∧ w.trapped = true := by
  unfold stoppedWarp at h
  split at h
  · obtain ⟨z, hz, h⟩ := Option.bind_eq_some_iff.1 h
    split at h
    · next ht => cases h; exact ⟨hz, ht⟩
    · cases h
  · cases h

theorem stoppedStream_some {y : Stream} (h : stoppedStream s c v = some y) : (s.core c).streams.at? (v - 48) = some y := by
  unfold stoppedStream at h
  split at h
  · obtain ⟨z, hz, h⟩ := Option.bind_eq_some_iff.1 h
    split at h
    · cases h; exact hz
    · cases h
  · cases h

/-- The resumption of a slot of s, a warp's from the state u (R328). -/
def wakeSlot (s : State) (c v : Nat) (m : ResumeKind) (u : State) : Option State :=
  if (stoppedWarp s c v).isSome then some (exitLanes (resumeWarp u c v m) c v [])
  else if (stoppedStream s c v).isSome then some (resumeStream s c (v - 48) m) else none

theorem resumeSlot_eq (m : ResumeKind) (s : State) (c v b : Nat) : resumeSlot m s c v b = wakeSlot s c v m s := by
  unfold resumeSlot wakeSlot
  rw [warpStopped_eq, streamStopped_eq]

/-- A `tskip` on a warp of a reproducible launch patches the open run first (R345). -/
theorem skipSlot_eq (s : State) (c v b : Nat) :
    resumeSlot .skip (if warpStopped s c v then (match s.warp? c v with | some w => patchLaunch s w.launch | none => s) else s) c v b =
      wakeSlot s c v .skip (match (stoppedWarp s c v).bind (fun w => s.launches.at? w.launch) with
        | some y => if y.repro && s.rep.isOpen then { s with rep := { s.rep with patched := true } } else s
        | none => s) := by
  rw [warpStopped_eq]
  cases h : stoppedWarp s c v with
  | none => exact resumeSlot_eq ..
  | some w =>
    obtain ⟨hw, -⟩ := stoppedWarp_some h
    rw [hw, resumeSlot_eq]
    simp only [Option.isSome_some, if_true, Option.bind_some, patchLaunch]
    have hsame (r : Repro) : stoppedWarp { s with rep := r } c v = some w := h
    unfold wakeSlot
    cases s.launches.at? w.launch with
    | none => rfl
    | some y =>
      dsimp only
      split
      · rw [hsame, h]; rfl
      · rfl

/-- `tkill` names the stopped slot's launch and logs the case (R327, R366). -/
theorem killSlot_eq (s : State) (c v : Nat) : killSlot s c v = match stoppedWarp s c v, stoppedStream s c v with
    | some w, _ => some (killLaunch (logEvent s 17 (dieOf c) (killDetail s c v w.cause w.launch w.wg)) w.launch)
    | none, some y => some (killLaunch (logEvent s 17 (dieOf c) (killDetail s c v y.cause y.launch y.wg)) y.launch)
    | none, none => none := by
  unfold killSlot
  rw [warpStopped_eq, streamStopped_eq]
  cases h : stoppedWarp s c v with
  | some w => rw [(stoppedWarp_some h).1]; rfl
  | none =>
    cases g : stoppedStream s c v with
    | some y => rw [stoppedStream_some g]; rfl
    | none => rfl

end

/-! ## Masks of slots (R329) -/

/-- A mask of slots has a bit for each slot that passes the test. -/
theorem slotMask_testBit (p : Nat → Bool) (lo n i : Nat) : (slotMask p lo n).testBit i = (decide (i < n) && p (lo + i)) := by
  unfold slotMask
  suffices h : (List.range n).foldl (fun m i => if p (lo + i) then m + 2 ^ i else m) 0 < 2 ^ n ∧ ∀ i,
      ((List.range n).foldl (fun m i => if p (lo + i) then m + 2 ^ i else m) 0).testBit i = (decide (i < n) && p (lo + i)) from h.2 i
  induction n with
  | zero => exact ⟨by simp, fun i => by simp⟩
  | succ n ih =>
    obtain ⟨hlt, hbits⟩ := ih
    rw [List.range_succ, List.foldl_append, List.foldl_cons, List.foldl_nil]
    generalize (List.range n).foldl (fun m i => if p (lo + i) then m + 2 ^ i else m) 0 = m at hlt hbits
    by_cases hp : p (lo + n) = true
    · rw [if_pos hp]
      refine ⟨by rw [Nat.pow_succ]; omega, fun i => ?_⟩
      rcases Nat.lt_trichotomy i n with hi | rfl | hi
      · rw [Nat.add_comm, Nat.testBit_two_pow_add_gt hi, hbits, decide_eq_true hi, decide_eq_true (by omega)]
      · rw [Nat.add_comm, Nat.testBit_two_pow_add_eq, Nat.testBit_lt_two_pow hlt, hp]; simp
      · rw [Nat.testBit_lt_two_pow ((Nat.add_lt_add_right hlt _).trans_le _), decide_eq_false (by omega), Bool.false_and]
        rw [← Nat.two_mul, ← Nat.pow_succ']
        exact Nat.pow_le_pow_right (by decide) hi
    · rw [if_neg hp]
      refine ⟨hlt.trans (Nat.pow_lt_pow_right (by decide) (Nat.lt_succ_self n)), fun i => ?_⟩
      rw [hbits]
      rcases Nat.lt_trichotomy i n with hi | rfl | hi
      · rw [decide_eq_true hi, decide_eq_true (by omega)]
      · simp [Bool.eq_false_iff.2 hp]
      · rw [decide_eq_false (by omega), decide_eq_false (by omega)]

/-- A bit of the mask of stopped warps. -/
theorem slotMask_stopped {s : State} {c lo n i : Nat} (hi : i < n) (hv : lo + i < 48) :
    (slotMask (fun k => match (s.core c).warps.at? k with | some w => w.trapped | none => false) lo n).testBit i = true ↔
      (stoppedWarp s c (lo + i)).isSome = true := by
  rw [slotMask_testBit, decide_eq_true hi, Bool.true_and, ← warpStopped_eq, warpStopped, decide_eq_true hv, Bool.true_and]
  exact Iff.rfl

/-- The oldest record is consumed, with none held back (R322). -/
theorem drainTraps_none {s : State} {c : Nat} {f : Core → Core} (h : (f (s.core c)).tqHeld = []) :
    drainTraps (s.modCore c f) c = s.modCore c f := by
  unfold drainTraps
  rw [State.modCore, State.core_modCore_self, h]
  simp [State.modCore, State.setCore, Core.enterTraps]

/-- The low byte of a word. -/
theorem and_low_byte (v : Nat) : BitVec.ofNat 32 v &&& 0xFF = BitVec.ofNat 32 (v % 256) := by
  apply BitVec.eq_of_toNat_eq
  rw [BitVec.toNat_and, BitVec.toNat_ofNat, BitVec.toNat_ofNat, show (0xFF : BitVec 32).toNat = 2 ^ 8 - 1 from rfl, Nat.and_two_pow_sub_one_eq_mod]
  omega

/-- What `cwr` writes (R329). -/
theorem cwr_eq (s : State) (c v : Nat) (n : BitVec 7) :
    (if 0x10 ≤ n.toNat && n.toNat ≤ 0x15 then s.modCore c (fun y => { y with
        watch := y.watch.putD n.toNat (if 0x14 ≤ n.toNat then BitVec.ofNat 32 v &&& 0xFF else BitVec.ofNat 32 v) 0 }) else s) =
      if n = 0x10 ∨ n = 0x11 ∨ n = 0x12 ∨ n = 0x13 then
        s.modCore c (fun y => { y with watch := y.watch.putD n.toNat (BitVec.ofNat 32 v) 0 })
      else if n = 0x14 ∨ n = 0x15 then
        s.modCore c (fun y => { y with watch := y.watch.putD n.toNat (BitVec.ofNat 32 (v % 256)) 0 })
      else s := by
  have heq (m : BitVec 7) : n = m ↔ n.toNat = m.toNat := ⟨congrArg _, BitVec.eq_of_toNat_eq⟩
  simp only [heq, and_low_byte, Bool.and_eq_true, decide_eq_true_eq, BitVec.reduceToNat]
  rcases Nat.lt_or_ge n.toNat 0x10 with h | h
  · rw [if_neg (by omega), if_neg (by omega), if_neg (by omega)]
  · rcases Nat.lt_or_ge n.toNat 0x14 with h2 | h2
    · rw [if_pos (c := _ ∧ _) (by omega), if_pos (c := _ ∨ _ ∨ _ ∨ _) (by omega)]
      simp only [Nat.not_le.2 h2, if_false]
    · rw [if_neg (c := _ ∨ _ ∨ _ ∨ _) (by omega)]
      rcases Nat.lt_or_ge 0x15 n.toNat with h3 | h3
      · rw [if_neg (c := _ ∧ _) (by omega), if_neg (c := _ ∨ _) (by omega)]
      · rw [if_pos (c := _ ∧ _) (by omega), if_pos (c := _ ∨ _) (by omega)]
        simp only [h2, if_true]

/-- Settles O38: each form by the law of what the control core issues. -/
theorem controlCoreForms : Obligations.ControlCoreForms := by
  intro s x c val put tell warp stream wake synced entry
  have hslot {i : Instr} {ops : List (Operand × Pos)} {f : FmtS} {act : State → Nat → Nat → Nat → Option State}
      (h : CtrlIssues i ops s x) (ha : ctrlAllowed i = true) : issue i ops (slotForm f act) s = _ :=
    (issue_ctrl h ha).trans (congrArg (endIssue x) (slotForm_ctrl h.guard))
  have hput {i : Instr} {ops : List (Operand × Pos)} {f : FmtA} (v : Nat) (h : CtrlIssues i ops s x) (hd : f.d ∈ i.operands) :
      endIssue x ((constArith f v).warp i 7 x s ctrlSlot [0]) = _ :=
    congrArg (endIssue x) (constArith_ctrl v (List.all_eq_true.1 h.levels _ hd) h.guard)
  refine ⟨?tnext, ?tres, ?tstep, ?tskip, ?tkill, ?tstop, ?csave, ?cload, ?crd, ?cwr, ?tdone, ?iflush, ?dwsync, ?hnotify, ?regs⟩
  case tnext =>
    refine fun f h => ⟨fun he => ?_, fun he => ?_⟩
    · refine congrArg Host.Outcome.next ((issue_ctrl h rfl).trans (congrArg (endIssue x) ?_))
      dsimp only
      rw [h.guard]
      exact (if_neg (by decide)).trans (if_pos he)
    · refine congrArg Host.Outcome.next ((issue_ctrl h rfl).trans ?_)
      dsimp only
      rw [h.guard, if_neg (by decide), if_neg he]
      exact hput _ h (.head _)
  case tres =>
    refine fun f h hs => congrArg Host.Outcome.next ((issue_ctrl h rfl).trans (congrArg (endIssue x) ?_))
    rw [afterDwsync_synced hs, slotForm_ctrl h.guard, resumeSlot_eq]
    rfl
  case tstep =>
    refine fun f h hs => congrArg Host.Outcome.next ((issue_ctrl h rfl).trans (congrArg (endIssue x) ?_))
    rw [afterDwsync_synced hs, slotForm_ctrl h.guard, resumeSlot_eq]
    rfl
  case tskip =>
    refine fun f h hs => congrArg Host.Outcome.next ((issue_ctrl h rfl).trans (congrArg (endIssue x) ?_))
    rw [afterDwsync_synced hs, slotForm_ctrl h.guard]
    exact congrArg (tellSlot s c f) (skipSlot_eq s c (val f.a) _)
  case tkill =>
    refine fun f h => congrArg Host.Outcome.next ((hslot h rfl).trans (congrArg (endIssue x) ?_))
    rw [killSlot_eq]
    rfl
  case tstop =>
    have hstop (f : FmtS) (h : CtrlIssues (.tstop f) [(f.a, .w32)] s x) :
        exec (.tstop f) s = .next (endIssue x (stopSlot s c (val f.a))) := by
      refine congrArg Host.Outcome.next ((issue_ctrl h rfl).trans (congrArg (endIssue x) ?_))
      rw [h.guard]
      rfl
    refine fun f h => ⟨fun w hv hw => ?_, fun hv hw => ?_, fun y hv hy hst => ?_⟩
    · rw [hstop f h, stopSlot, if_pos hv, hw]
      rfl
    · rw [hstop f h, stopSlot, if_pos hv, hw]
    · rw [hstop f h, stopSlot, if_neg (Nat.not_lt.2 hv), hy]
      cases hsp : y.stopped <;> simp [hst, hsp, Cause.debugStop, c]
  case csave =>
    refine fun f h => congrArg Host.Outcome.next ((hslot h rfl).trans (congrArg (endIssue x) ?_))
    rw [warpStopped_eq]
    rfl
  case cload => exact fun f h => congrArg Host.Outcome.next (hslot h rfl)
  case crd =>
    intro f sel h hb
    refine congrArg Host.Outcome.next ((issue_ctrl h rfl).trans ?_)
    rw [hb]
    exact hput _ h (.head _)
  case cwr =>
    refine fun f h => congrArg Host.Outcome.next ((issue_ctrl h rfl).trans (congrArg (endIssue x) ?_))
    dsimp only
    rw [h.guard]
    exact cwr_eq s c (val f.a) f.s7
  case tdone =>
    have hdone (h : CtrlIssues .tdone [] s x) : exec .tdone s = .next (endIssue x (if (s.core c).tqHead = (s.core c).tqTail then s
        else drainTraps (s.modCore c (fun y => { y with tqTail := y.tqTail + 1 })) c)) := by
      refine congrArg Host.Outcome.next ((issue_ctrl h rfl).trans (congrArg (endIssue x) ?_))
      rw [h.guard]
      simp [c]
    refine fun h => ⟨fun he => ?_, fun he hh => ?_⟩
    · rw [hdone h, if_pos he]
    · rw [hdone h, if_neg he, drainTraps_none hh]
  case iflush =>
    refine fun h => congrArg Host.Outcome.next ((issue_ctrl h rfl).trans (congrArg (endIssue x) ?_))
    rw [h.guard]
    exact if_neg (by decide)
  case dwsync =>
    refine fun h => congrArg Host.Outcome.next ((issue_ctrl h rfl).trans (congrArg (endIssue x) ?_))
    unfold afterDwsync
    rw [h.guard]
    rfl
  case hnotify =>
    refine fun f h => congrArg Host.Outcome.next ((issue_ctrl h rfl).trans (congrArg (endIssue x) ?_))
    rw [h.guard]
    rfl
  case regs =>
    refine fun v => ⟨rfl, fun hv => ?_, fun h1 h2 => ?_, fun hv => ?_, fun hv => ?_⟩
    · unfold ctrlReg
      split
      all_goals first | omega | skip
      exact if_neg (by simp; omega)
    · unfold ctrlReg
      split
      all_goals first | omega | skip
      exact if_pos (by simp; omega)
    · have := slotMask_stopped (s := s) (c := c) (lo := 0) hv (by omega)
      rw [Nat.zero_add] at this
      exact this
    · exact slotMask_stopped (lo := 32) hv (by omega)

end Sys2Proof.Machine
end

section
/-! PROOFS. Access streams. -/

namespace Sys2Proof.Machine

/-! ## What a stream form does where it issues -/

section

variable {i : Instr} {s : State} {x : Clause} {k : Nat} {t : Stream} {f : StreamStep} {u : State}

theorem stream_goes (h : StreamIssues i s x k t) (hf : f x s k t = (u, .next)) : stream i f s = streamNext x u k := by
  rw [stream_of_issues h, hf]

theorem stream_stays (h : StreamIssues i s x k t) (hf : f x s k t = (u, .stay)) : stream i f s = endStreamClause u := by
  rw [stream_of_issues h, hf]

theorem stream_goesTo {pc : DWord} (h : StreamIssues i s x k t) (running : t.stepping = false) (hf : f x s k t = (u, .goto pc)) :
    stream i f s = endStreamClause (u.modStream x.core k (fun y => { y with pc := pc, buf := [] })) := by
  rw [stream_of_issues h, hf]
  simp [running]

/-- An arithmetic form leaves its value, modulo the width, in its destination. -/
theorem streamArith_goes {f : FmtA} {g : Nat → Nat → Nat → Nat} {z : Int} {set : Stream → Stream}
    (h : StreamIssues i s x k t)
    (value : g (streamRead s x.core t f.ty f.ty.pos f.a) (streamRead s x.core t f.ty f.ty.pos f.b)
      (streamRead s x.core t f.ty f.ty.pos f.c) % 2 ^ f.ty.bits = truncN f.ty.bits z)
    (place : ∀ y, y.take 0 f.ty.pos f.d (truncN f.ty.bits z) = set y) :
    stream i (streamArith f g) s = streamNext x (s.modStream x.core k set) k := by
  refine stream_goes h ?_
  unfold streamArith streamWrite
  dsimp only
  rw [value, funext place]

end

/-- Subtraction modulo 2^n by way of the complement. -/
theorem sub_mod_pow (n a b : Nat) : (a + (2 ^ n - b % 2 ^ n)) % 2 ^ n = truncN n ((a : Int) - b) := by
  have below : b % 2 ^ n ≤ 2 ^ n := (Nat.mod_lt _ (Nat.two_pow_pos n)).le
  rw [← truncN_natCast]
  unfold truncN
  push_cast [below]
  congr 1
  rw [show (a : Int) + ((2 ^ n : Int) - b % 2 ^ n) = (a - b % 2 ^ n) + 2 ^ n by ring, Int.add_emod_right, Int.sub_emod, Int.emod_emod,
    ← Int.sub_emod]

/-! ## What a stream's operands are read from -/

/-- What the special registers of a stream show is as it was (R178). -/
structure SpecialsKept (s u : State) : Prop where
  now : u.now = s.now
  launches : u.launches = s.launches
  index : u.fab.index = s.fab.index
  groups : ∀ n, (u.wgs.at? n).map (fun g => (g.x, g.y, g.z)) = (s.wgs.at? n).map (fun g => (g.x, g.y, g.z))

/-- What the special registers of a stream show, and the streams of every core, are as they were. -/
structure StreamsKept (s u : State) : Prop extends SpecialsKept s u where
  streams : ∀ c, (u.core c).streams = (s.core c).streams

theorem SpecialsKept.trans {s u v : State} (h : SpecialsKept s u) (g : SpecialsKept u v) : SpecialsKept s v :=
  ⟨g.now.trans h.now, g.launches.trans h.launches, g.index.trans h.index, fun n => (g.groups n).trans (h.groups n)⟩

theorem StreamsKept.refl (s : State) : StreamsKept s s := ⟨⟨rfl, rfl, rfl, fun _ => rfl⟩, fun _ => rfl⟩

theorem StreamsKept.trans {s u v : State} (h : StreamsKept s u) (g : StreamsKept u v) : StreamsKept s v :=
  ⟨h.toSpecialsKept.trans g.toSpecialsKept, fun c => (g.streams c).trans (h.streams c)⟩

theorem specialsKept_modStream (s : State) (c k : Nat) (f : Stream → Stream) : SpecialsKept s (s.modStream c k f) :=
  ⟨rfl, rfl, rfl, fun _ => rfl⟩

theorem streamsKept_modCore (s : State) (c : Nat) (f : Core → Core) (h : ∀ y, (f y).streams = y.streams) :
    StreamsKept s (s.modCore c f) :=
  ⟨⟨rfl, rfl, rfl, fun _ => rfl⟩, fun b => by rw [State.core_modCore]; split <;> simp_all⟩

theorem streamsKept_of_eq {s u : State} (cores : u.cores = s.cores) (now : u.now = s.now) (launches : u.launches = s.launches)
    (index : u.fab.index = s.fab.index) (groups : u.wgs = s.wgs) : StreamsKept s u :=
  ⟨⟨now, launches, index, fun _ => by rw [groups]⟩, fun _ => by unfold State.core; rw [cores]⟩

theorem streamsKept_foldl {α : Type} (f : State → α → State) (h : ∀ s a, StreamsKept s (f s a)) (l : List α) (s : State) :
    StreamsKept s (l.foldl f s) := by
  induction l generalizing s with
  | nil => exact .refl s
  | cons a l ih => exact (h s a).trans (ih _)

theorem streamsKept_modWg (s : State) (g : Nat) (f : Wg → Wg) (h : ∀ y, ((f y).x, (f y).y, (f y).z) = (y.x, y.y, y.z)) :
    StreamsKept s (s.modWg g f) := by
  refine ⟨⟨rfl, rfl, rfl, fun n => ?_⟩, fun _ => rfl⟩
  simp only [State.modWg, NMap.at?_upd]
  split
  · next e => subst e; cases s.wgs.at? n <;> simp [h]
  · rfl

theorem fillTlb_streams (s : State) (c ctx va e bits : Nat) : StreamsKept s (fillTlb s c ctx va e bits) := by
  unfold fillTlb
  dsimp only
  refine .trans ?_ (streamsKept_modCore _ c _ fun _ => ?_)
  · exact streamsKept_of_eq rfl rfl rfl rfl rfl
  · rfl

theorem translateNow_streams (s : State) (c ctx va : Nat) (grants : Nat → Bool) :
    StreamsKept s (translateNow s c ctx va grants).1 := by
  unfold translateNow
  split
  · exact .refl s
  · split
    · dsimp only
      exact streamsKept_modCore s c _ fun _ => rfl
    · split
      · exact fillTlb_streams ..
      · exact .refl s

theorem resolveNow_streams (s : State) (w : Who) (a : Access) (va : Nat) : StreamsKept s (resolveNow s w a va).1 := by
  have ht := translateNow_streams s w.core w.ctx va (fun e => (leafFault s va e a.write (a.kind == .ifetch)).isNone)
  unfold resolveNow
  split
  · exact .refl s
  · split
    · next heq => rw [heq] at ht; exact ht
    · next heq => rw [heq] at ht; split <;> exact ht

theorem l2Access_streams (s : State) (k : Nat) (h : Hint) (valid written : BitVec 128) : StreamsKept s (l2Access s k h valid written) := by
  unfold l2Access
  split <;> exact streamsKept_of_eq rfl rfl rfl rfl rfl

theorem writeMasked_streams (s : State) (base : Nat) (m : BitVec 128) (d : BitVec 1024) : StreamsKept s (writeMasked s base m d) := by
  unfold writeMasked
  refine streamsKept_foldl _ (fun s i => ?_) _ s
  split
  · exact streamsKept_of_eq rfl rfl rfl rfl rfl
  · exact .refl s

theorem writeBack_streams (s : State) (c : Nat) (l : CacheLine) : StreamsKept s (writeBack s c l) := by
  unfold writeBack sendHome markDirty
  split
  · exact .refl s
  · split
    · exact streamsKept_of_eq rfl rfl rfl rfl rfl
    · exact ((writeMasked_streams ..).trans (l2Access_streams ..)).trans (streamsKept_modCore _ c _ fun _ => rfl)

theorem writeBackAll_streams (s : State) (c : Nat) : StreamsKept s (writeBackAll s c) :=
  (streamsKept_foldl _ (fun s l => writeBack_streams s c l) _ s).trans (streamsKept_modCore _ c _ fun _ => rfl)

theorem queueDrop_streams (s : State) (g q : Nat) : StreamsKept s (queueDrop s g q) := streamsKept_modWg s g _ fun _ => rfl

theorem wrStore_streams (s : State) (c a n v : Nat) : StreamsKept s (s.wrStore c a n v) := streamsKept_modCore s c _ fun _ => rfl

theorem queueAdd_streams (s : State) (g q : Nat) (ws : List Word) : StreamsKept s (queueAdd s g q ws) := by
  unfold queueAdd
  split
  · exact .refl s
  · split
    · exact .refl s
    · exact (streamsKept_foldl _ (fun s j => wrStore_streams s _ _ _ _) _ s).trans (streamsKept_modWg _ g _ fun _ => by rfl)

theorem rowPlaces_streams (s : State) (c : Nat) (t : Stream) (va : Nat) (write : Bool) : StreamsKept s (rowPlaces s c t va write).1 := by
  unfold rowPlaces
  dsimp only
  split
  · exact .refl s
  · split
    · next h => exact (congrArg Prod.fst h ▸ resolveNow_streams ..)
    · next h => exact (congrArg Prod.fst h ▸ resolveNow_streams ..)
    · next h =>
      have first := congrArg Prod.fst h ▸ resolveNow_streams ..
      split
      · exact first
      · split <;> next g => exact first.trans (congrArg Prod.fst g ▸ resolveNow_streams ..)

theorem rowRead_streams (s : State) (h : Hint) (t : Stream) (ps : List (Place × Nat)) : StreamsKept s (rowRead s h t ps).1 := by
  unfold rowRead
  refine streamsKept_foldl _ (fun s p => ?_) _ s
  split
  · exact l2Access_streams ..
  · exact .refl s

/-- A stream reads the same from two states that show it the same special registers. -/
theorem streamRead_congr {s u : State} (h : SpecialsKept s u) (c : Nat) (t : Stream) (ty : Ty) (p : Pos) (o : Operand) :
    streamRead u c t ty p o = streamRead s c t ty p o := by
  have special (code : Nat) : streamSpecial u c t code = streamSpecial s c t code := by
    have group := h.groups t.wg
    unfold streamSpecial
    rw [h.now, h.launches, h.index]
    rcases hs : s.wgs.at? t.wg with _ | a <;> rcases hu : u.wgs.at? t.wg with _ | b <;> simp only [hs, hu] at group
    · rfl
    · cases group
    · cases group
    · simp only [Option.map_some, Option.some.injEq, Prod.mk.injEq] at group
      obtain ⟨hx, hy, hz⟩ := group
      simp only [hx, hy, hz]
  unfold streamRead
  cases o <;> simp only [special]

/-! ## Rows -/

/-- A place in this package, where a row is read and written without a packet. -/
def Place.here (p : Place) : Bool := match p with | .peer _ _ => false | .debug _ _ => false | _ => true

/-- One row, read and pushed as an entry, where nothing makes it wait or trap. -/
def pushRow (x : Clause) (f : FmtM) (q va : Nat) (u : State) (k : Nat) (t : Stream) : Option State :=
  match rowPlaces u x.core t va false with
  | (v, .ok ps) =>
    let r := rowRead v f.hint t ps
    if va % 4 = 0 ∧ ps.length = 32 ∧ ps.all (fun e => e.1.here) = true ∧ ps.any (fun e => frameLost v e.1) = false ∧
        queueRoom r.1 t.wg q = .ready [] ∧ streamBusy r.1 x.core k (fun _ => true) = false then
      some ((queueAdd r.1 t.wg q (r.2.filterMap id)).modStream x.core k (fun y => { y with buf := [] }))
    else none
  | _ => none

section

variable {x : Clause} {f : FmtM} {q va : Nat} {u v : State} {k : Nat} {t : Stream}

/-- A row of places in this package is read whole. -/
theorem rowRead_whole (s : State) (h : Hint) {ps : List (Place × Nat)} (len : ps.length = 32) (here : ps.all (fun e => e.1.here) = true) :
    ((rowRead s h t ps).2.filterMap id).length = 32 := by
  have whole : ∀ w ∈ (rowRead s h t ps).2, w.isSome := by
    intro w hw
    obtain ⟨⟨⟨p, l⟩, j⟩, he, rfl⟩ := List.mem_map.1 hw
    have hp := List.all_eq_true.1 here _ (List.of_mem_zip he).1
    cases p <;> first | rfl | cases hp
  have all : (rowRead s h t ps).2.length = 32 := by simp [rowRead, len]
  rw [← all]
  generalize (rowRead s h t ps).2 = L at whole
  induction L with
  | nil => rfl
  | cons w L ih =>
    obtain ⟨a, rfl⟩ := Option.isSome_iff_exists.1 (whole w (.head _))
    have rest := ih fun b hb => whole b (.tail _ hb)
    simpa using rest

theorem rowPush_of_pushRow (h : pushRow x f q va u k t = some v) : rowPush x f q va u k t = (v, .next) := by
  unfold pushRow at h
  split at h
  case h_2 => cases h
  next w ps places =>
    dsimp only at h
    split at h
    case isFalse => cases h
    next cond =>
      obtain ⟨aligned, len, here, kept, room, idle⟩ := cond
      unfold rowPush
      rw [Option.some.injEq] at h
      simp only [aligned, places, kept, room, idle, rowRead_whole w f.hint len here, h, bne_self_eq_false, Bool.false_eq_true, if_false,
        lt_irrefl]

/-- The streams after a pushed row: this one's row buffer is empty. -/
theorem pushRow_streams (h : pushRow x f q va u k t = some v) :
    ∃ w, StreamsKept u w ∧ v = w.modStream x.core k (fun y => { y with buf := [] }) := by
  unfold pushRow at h
  split at h
  case h_2 => cases h
  next w ps places =>
    dsimp only at h
    split at h
    case isFalse => cases h
    · rw [Option.some.injEq] at h
      have hw := rowPlaces_streams u x.core t va false
      rw [places] at hw
      exact ⟨_, (hw.trans (rowRead_streams ..)).trans (queueAdd_streams ..), h.symm⟩

end

/-! ## A change of a stream commutes with what reads no stream -/

theorem NMap.put_swap {α : Type} (m : NMap α) {a b : Nat} (hab : a < b) (v w : α) :
    (m.put a v).put b w = (m.put b w).put a v := by
  induction m with
  | nil => simp [NMap.put, hab, hab.ne, hab.ne', hab.not_gt]
  | cons e m ih =>
    obtain ⟨j, y⟩ := e
    rcases lt_trichotomy j a with low | rfl | high
    · have hjb := low.trans hab
      simp [NMap.put, low.ne, low.not_gt, hjb.ne, hjb.not_gt, ih]
    · simp [NMap.put, hab.ne, hab.not_gt]
    · rcases lt_trichotomy j b with below | rfl | above
      · simp [NMap.put, high, high.ne', below.ne, below.not_gt, hab.ne, hab.not_gt]
      · simp [NMap.put, hab, hab.ne, hab.ne', hab.not_gt]
      · simp [NMap.put, high, high.ne', above, above.ne', hab, hab.ne, hab.ne', hab.not_gt]

theorem modCore_swap (s : State) (c d : Nat) {f g : Core → Core} (h : ∀ y, f (g y) = g (f y)) :
    (s.modCore c f).modCore d g = (s.modCore d g).modCore c f := by
  simp only [State.modCore, State.setCore, State.core]
  rcases lt_trichotomy c d with below | rfl | above
  · simp only [NMap.atD_put, below.ne, below.ne', if_false, NMap.put_swap _ below]
  · simp only [NMap.atD_put_self, NMap.put_put, h]
  · simp only [NMap.atD_put, above.ne, above.ne', if_false, NMap.put_swap _ above]

section

variable (s : State) (c k : Nat) (F : Stream → Stream)

@[simp] theorem modStream_core_part (b : Nat) : ((s.modStream c k F).core b).part = (s.core b).part := by
  unfold State.modStream
  rw [State.core_modCore]
  split <;> simp_all

@[simp] theorem modStream_core_tlb (b : Nat) : ((s.modStream c k F).core b).tlb = (s.core b).tlb := by
  unfold State.modStream
  rw [State.core_modCore]
  split <;> simp_all

@[simp] theorem modStream_core_store (b : Nat) : ((s.modStream c k F).core b).store = (s.core b).store := by
  unfold State.modStream
  rw [State.core_modCore]
  split <;> simp_all

theorem walkLevel_modStream (die : Option Nat) (ctx va n lv tab : Nat) :
    walkLevel (s.modStream c k F) die ctx va n lv tab = walkLevel s die ctx va n lv tab := by
  induction n generalizing lv tab with
  | zero => rfl
  | succ n ih => unfold walkLevel; simp only [ih]; rfl

theorem walkPath_modStream (die : Option Nat) (ctx va n lv tab : Nat) :
    walkPath (s.modStream c k F) die ctx va n lv tab = walkPath s die ctx va n lv tab := by
  induction n generalizing lv tab with
  | zero => rfl
  | succ n ih => unfold walkPath; simp only [ih]; rfl

theorem walkBy_modStream (die : Option Nat) (ctx va : Nat) : walkBy (s.modStream c k F) die ctx va = walkBy s die ctx va := by
  unfold walkBy
  simp only [walkLevel_modStream]
  rfl

theorem windowRes_modStream (w : Who) (a : Access) (va : Nat) : windowRes (s.modStream c k F) w a va = windowRes s w a va := by
  unfold windowRes
  simp only [modStream_core_part]
  rfl

theorem fillTlb_modStream (d ctx va e bits : Nat) :
    fillTlb (s.modStream c k F) d ctx va e bits = (fillTlb s d ctx va e bits).modStream c k F := by
  unfold fillTlb
  simp only [walkPath_modStream]
  change (State.modStream { s with xl := _ } c k F).modCore d _ = _
  refine modCore_swap _ c d ?_
  exact fun _ => rfl

theorem translateNow_modStream (d ctx va : Nat) (grants : Nat → Bool) : translateNow (s.modStream c k F) d ctx va grants =
    ((translateNow s d ctx va grants).1.modStream c k F, (translateNow s d ctx va grants).2) := by
  have die : (s.modStream c k F).xl = s.xl := rfl
  unfold translateNow
  rw [modStream_core_tlb, walkBy_modStream, die]
  split
  · rfl
  · split
    · refine Prod.ext ?_ rfl
      dsimp only
      refine modCore_swap s c d ?_
      exact fun _ => rfl
    · split
      · exact Prod.ext (fillTlb_modStream s c k F ..) rfl
      · rfl

theorem resolveNow_modStream (w : Who) (a : Access) (va : Nat) : resolveNow (s.modStream c k F) w a va =
    ((resolveNow s w a va).1.modStream c k F, (resolveNow s w a va).2) := by
  have fault (va e : Nat) (w x : Bool) : leafFault (s.modStream c k F) va e w x = leafFault s va e w x := rfl
  unfold resolveNow
  simp only [windowRes_modStream, translateNow_modStream, fault]
  split
  · rfl
  · rcases translateNow s w.core w.ctx va _ with ⟨u, e | f⟩
    · dsimp only
      split <;> rfl
    · rfl

theorem rowPlaces_modStream (d : Nat) (t : Stream) (va : Nat) (write : Bool) : rowPlaces (s.modStream c k F) d t va write =
    ((rowPlaces s d t va write).1.modStream c k F, (rowPlaces s d t va write).2) := by
  have who (s : State) : streamWho (s.modStream c k F) d t = streamWho s d t := rfl
  unfold rowPlaces
  simp only [resolveNow_modStream, who]
  split
  · rfl
  · rcases resolveNow s (streamWho s d t) _ va with ⟨u, p | f⟩
    · dsimp only
      split
      · rfl
      · rw [resolveNow_modStream, who]
        rcases resolveNow u (streamWho u d t) _ _ with ⟨v, p | f | m⟩ <;> rfl
    · rfl
    · rfl

theorem foldl_modStream {α : Type} {f : State → α → State} (h : ∀ s a, f (s.modStream c k F) a = (f s a).modStream c k F) (l : List α) :
    l.foldl f (s.modStream c k F) = (l.foldl f s).modStream c k F := by
  induction l generalizing s with
  | nil => rfl
  | cons a l ih => rw [List.foldl_cons, h, ih, List.foldl_cons]

theorem l2Access_modStream (n : Nat) (h : Hint) (v w : BitVec 128) :
    l2Access (s.modStream c k F) n h v w = (l2Access s n h v w).modStream c k F := by
  unfold l2Access
  split <;> rfl

theorem rowRead_modStream (h : Hint) (t : Stream) (ps : List (Place × Nat)) : rowRead (s.modStream c k F) h t ps =
    ((rowRead s h t ps).1.modStream c k F, (rowRead s h t ps).2) := by
  have touch (s : State) (p : Place × Nat) :
      (match p.1 with | .mem pa => l2Touch (s.modStream c k F) pa (effHint h p.2) | _ => s.modStream c k F) =
        (match p.1 with | .mem pa => l2Touch s pa (effHint h p.2) | _ => s).modStream c k F := by
    split
    · exact l2Access_modStream ..
    · rfl
  unfold rowRead
  refine Prod.ext (foldl_modStream s c k F touch ps) ?_
  dsimp only
  congr 1
  funext e
  obtain ⟨⟨p, _⟩, _⟩ := e
  cases p <;> simp

theorem wrStore_modStream (d a n v : Nat) : (s.modStream c k F).wrStore d a n v = (s.wrStore d a n v).modStream c k F := by
  refine modCore_swap s c d ?_
  exact fun _ => rfl

theorem modWg_modStream (g : Nat) (f : Wg → Wg) : (s.modStream c k F).modWg g f = (s.modWg g f).modStream c k F := rfl

theorem queueAdd_modStream (g q : Nat) (ws : List Word) :
    queueAdd (s.modStream c k F) g q ws = (queueAdd s g q ws).modStream c k F := by
  have groups : (s.modStream c k F).wgs = s.wgs := rfl
  have slot (g : Wg) (x : Queue) (n : Nat) : queueSlot (s.modStream c k F) g x n = queueSlot s g x n := by
    simp [queueSlot]
  unfold queueAdd
  rw [groups]
  split
  · rfl
  · split
    · rfl
    · dsimp only
      rw [slot, foldl_modStream s c k F fun s j => wrStore_modStream s c k F _ _ _ _, modWg_modStream]

theorem modStream_swap {G : Stream → Stream} (h : ∀ y, F (G y) = G (F y)) :
    (s.modStream c k F).modStream c k G = (s.modStream c k G).modStream c k F := by
  refine modCore_swap s c c fun y => ?_
  simp only [NMap.upd, List.map_map]
  congr 1
  refine List.map_congr_left fun e _ => ?_
  simp only [Function.comp]
  split <;> simp_all

end

theorem modStream_modStream (s : State) (c k : Nat) (F G : Stream → Stream) :
    (s.modStream c k F).modStream c k G = s.modStream c k (fun y => G (F y)) := by
  have both (m : NMap Stream) : (m.upd k F).upd k G = m.upd k (fun y => G (F y)) := by
    simp only [NMap.upd, List.map_map]
    refine List.map_congr_left fun e _ => ?_
    simp only [Function.comp]
    split <;> simp_all
  simp only [State.modStream, State.modCore, State.setCore, State.core, NMap.atD_put_self, NMap.put_put, both]

theorem stream_modStream {s : State} {c k : Nat} {t : Stream} (h : (s.core c).streams.at? k = some t) (F : Stream → Stream) :
    ((s.modStream c k F).core c).streams.at? k = some (F t) := by
  simp [State.modStream, h]

/-- A row is pushed alike from a state in which the stream differs only in what a push leaves alone. -/
theorem pushRow_modStream (x : Clause) (f : FmtM) (q va : Nat) (u : State) (k : Nat) (t : Stream) {F : Stream → Stream}
    (h : ∀ y, F { y with buf := [] } = { F y with buf := [] }) :
    pushRow x f q va (u.modStream x.core k F) k t = (pushRow x f q va u k t).map (fun v => v.modStream x.core k F) := by
  have frame (s : State) (p : Place) : frameLost (s.modStream x.core k F) p = frameLost s p := rfl
  have room (s : State) : queueRoom (s.modStream x.core k F) t.wg q = queueRoom s t.wg q := rfl
  have idle (s : State) : streamBusy (s.modStream x.core k F) x.core k (fun _ => true) = streamBusy s x.core k (fun _ => true) := rfl
  have push (s : State) (ws : List Word) : (queueAdd (s.modStream x.core k F) t.wg q ws).modStream x.core k (fun y => { y with buf := [] }) =
      ((queueAdd s t.wg q ws).modStream x.core k (fun y => { y with buf := [] })).modStream x.core k F := by
    rw [queueAdd_modStream]
    exact modStream_swap _ _ _ _ fun y => (h y).symm ▸ rfl
  unfold pushRow
  rw [rowPlaces_modStream]
  rcases rowPlaces u x.core t va false with ⟨w, e | ps⟩
  · rfl
  · dsimp only
    rw [rowRead_modStream]
    simp only [frame, room, idle, push]
    split <;> rfl

section

variable {x : Clause} {f : FmtM} {s : State} {k : Nat} {t : Stream} {ws : List Word}

/-- One row of a gather, and the next row's number. -/
def gatherRow (x : Clause) (f : FmtM) (s : State) (k : Nat) (t : Stream) (ws : List Word) (u : State) (i : Nat) : Option State :=
  (pushRow x f (queueOf f.data) (streamAddr s x.core t f (ws.getD i 0).toNat) u k t).map (fun v =>
    v.modStream x.core k (fun y => { y with row := i + 1 }))

/-- The stream of a gather that stands at a row. -/
def gathering (t : Stream) (ws : List Word) (i : Nat) : Stream := { t with gath := some ws, row := i, buf := [] }

/-- A row that the gather pushes, from the state in which the model's form stands at it. -/
theorem rowPush_of_gatherRow {u w : State} {i : Nat} (empty : t.buf = []) (seen : SpecialsKept s u)
    (lookup : (u.core x.core).streams.at? k = some (gathering t ws i))
    (h : gatherRow x f s k t ws (u.modStream x.core k (fun y => { y with row := i })) i = some w) :
    ∃ v, rowPush x f (queueOf f.data) (streamAddr u x.core (gathering t ws i) f (ws.getD i 0).toNat) u k (gathering t ws i) = (v, .next) ∧
      w = v.modStream x.core k (fun y => { y with row := i + 1 }) ∧ SpecialsKept s v ∧
      (v.core x.core).streams.at? k = some (gathering t ws i) := by
  have addr : streamAddr u x.core (gathering t ws i) f (ws.getD i 0).toNat = streamAddr s x.core t f (ws.getD i 0).toNat := by
    have base : streamRead u x.core (gathering t ws i) .n64 .w64 f.addr = streamRead s x.core t .n64 .w64 f.addr :=
      (streamRead_congr seen x.core (gathering t ws i) .n64 .w64 f.addr).trans (by cases f.addr <;> rfl)
    unfold streamAddr
    rw [base]
  have alike (q va : Nat) : pushRow x f q va u k t = pushRow x f q va u k (gathering t ws i) := by
    unfold pushRow rowRead gathering
    rw [empty]
    rfl
  unfold gatherRow at h
  rw [pushRow_modStream x f _ _ u k t fun y => rfl, alike, Option.map_map, Option.map_eq_some_iff] at h
  obtain ⟨v, hv, rfl⟩ := h
  obtain ⟨z, kept, rfl⟩ := pushRow_streams hv
  refine ⟨_, addr ▸ rowPush_of_pushRow hv, modStream_modStream .., (seen.trans kept.toSpecialsKept).trans (specialsKept_modStream ..), ?_⟩
  exact stream_modStream ((congrArg (NMap.at? · k) (kept.streams x.core)).trans lookup) _

theorem gatherRows_succ {u v : State} {i : Nat} (n : Nat) (lookup : (u.core x.core).streams.at? k = some (gathering t ws i))
    (h : rowPush x f (queueOf f.data) (streamAddr u x.core (gathering t ws i) f (ws.getD i 0).toNat) u k (gathering t ws i) = (v, .next)) :
    gatherRows x f k (n + 1) u = if i = bitsOf f.mmod.toNat 4 5 then (v.modStream x.core k (fun t => { t with gath := none, row := 0 }), .next)
      else gatherRows x f k n (v.modStream x.core k (fun t => { t with row := t.row + 1 })) := by
  conv_lhs => unfold gatherRows
  rw [lookup]
  simp only [gathering] at h ⊢
  rw [h]
  exact rfl

/-- The rows of a gather that are left are pushed in turn. -/
theorem gatherRows_of_fold (empty : t.buf = []) (m : Nat) : ∀ (i fuel : Nat) (u v : State), m < fuel → i + m = bitsOf f.mmod.toNat 4 5 →
    SpecialsKept s u → (u.core x.core).streams.at? k = some (gathering t ws i) →
    (List.range' i (m + 1)).foldlM (gatherRow x f s k t ws) (u.modStream x.core k (fun y => { y with row := i })) = some v →
    gatherRows x f k fuel u = (v.modStream x.core k (fun y => { y with gath := none, row := 0 }), .next) := by
  induction m with
  | zero =>
    intro i fuel u v hfuel hlast seen lookup hfold
    obtain ⟨fuel, rfl⟩ : ∃ n, fuel = n + 1 := ⟨fuel - 1, by omega⟩
    have hrow : gatherRow x f s k t ws (u.modStream x.core k (fun y => { y with row := i })) i = some v := by simpa using hfold
    obtain ⟨w, hw, rfl, -, -⟩ := rowPush_of_gatherRow empty seen lookup hrow
    rw [gatherRows_succ fuel lookup hw, if_pos (by omega), modStream_modStream]
  | succ m ih =>
    intro i fuel u v hfuel hlast seen lookup hfold
    obtain ⟨fuel, rfl⟩ : ∃ n, fuel = n + 1 := ⟨fuel - 1, by omega⟩
    rw [List.range'_succ, List.foldlM_cons, Option.bind_eq_bind, Option.bind_eq_some_iff] at hfold
    obtain ⟨z, hrow, rest⟩ := hfold
    obtain ⟨w, hw, rfl, seenw, lookupw⟩ := rowPush_of_gatherRow empty seen lookup hrow
    rw [gatherRows_succ fuel lookup hw, if_neg (by omega)]
    refine ih (i + 1) fuel _ v (by omega) (by omega) (seenw.trans (specialsKept_modStream ..)) (stream_modStream lookupw _) ?_
    rw [modStream_modStream]
    exact rest

end

/-! ## The statement -/

/-- A register as a stream form writes it. -/
theorem take_main (y : Stream) (p : Pos) (d : BitVec 10) (v : Nat) : y.take 0 p (.main d) v =
    { y with regs := if p = .w64 then (y.regs.putD d.toNat (BitVec.ofNat 32 v) 0).putD (d.toNat + 1) (BitVec.ofNat 32 (v / 2 ^ 32)) 0
                     else y.regs.putD d.toNat (BitVec.ofNat 32 v) 0 } := by
  unfold Stream.take
  simp only [beq_iff_eq]

/-- A register or pair, as an arithmetic form leaves it. -/
def Stream.setReg (d : BitVec 10) (p : Pos) (v : Nat) (y : Stream) : Stream :=
  let r := y.regs.putD d.toNat (BitVec.ofNat 32 v) 0
  { y with regs := if p = .w64 then r.putD (d.toNat + 1) (BitVec.ofNat 32 (v / 2 ^ 32)) 0 else r }

section

variable {s : State} {x : Clause} {k : Nat} {t : Stream}

/-- What the statement says of an arithmetic form with the value g. -/
def ArithStreams (s : State) (x : Clause) (k : Nat) (t : Stream) (i : Instr) (f : FmtA) (g : Nat → Nat → Nat → Int) : Prop :=
  ∀ d, f.d = .main d → StreamIssues i s x k t →
    exec i s = .next (streamNext x (s.modStream x.core k (Stream.setReg d f.ty.pos (truncN f.ty.bits (g
      (streamRead s x.core t f.ty f.ty.pos f.a) (streamRead s x.core t f.ty f.ty.pos f.b) (streamRead s x.core t f.ty f.ty.pos f.c))))) k)

theorem arithStreams_of {i : Instr} {f : FmtA} (n : Nat → Nat → Nat → Nat) {g : Nat → Nat → Nat → Int}
    (runs : exec i s = .next (stream i (streamArith f n) s)) (value : ∀ a b e, n a b e % 2 ^ f.ty.bits = truncN f.ty.bits (g a b e)) :
    ArithStreams s x k t i f g :=
  fun _ hd h => runs.trans (congrArg Host.Outcome.next (streamArith_goes h (value ..) fun _ => hd ▸ take_main ..))

theorem aadd_streams (f : FmtA) : ArithStreams s x k t (.aadd f) f (fun a b _ => a + b) :=
  arithStreams_of (fun a b _ => a + b) rfl fun _ _ _ => (truncN_natCast ..).symm

theorem asub_streams (f : FmtA) : ArithStreams s x k t (.asub f) f (fun a b _ => a - b) :=
  arithStreams_of (fun a b _ => a + (2 ^ f.ty.bits - b % 2 ^ f.ty.bits)) rfl fun _ _ _ => sub_mod_pow ..

theorem amad_streams (f : FmtA) : ArithStreams s x k t (.amad f) f (fun a b e => a * b + e) :=
  arithStreams_of (fun a b e => a * b + e) rfl fun a b e =>
    (truncN_natCast ..).symm.trans (congrArg (truncN _) (by rw [Int.natCast_add, Int.natCast_mul]))

theorem amin_streams (f : FmtA) : ArithStreams s x k t (.amin f) f (fun a b _ => min a b) :=
  arithStreams_of (fun a b _ => Nat.min a b) rfl fun _ _ _ => (truncN_natCast ..).symm.trans (congrArg (truncN _) (Nat.cast_min ..))

theorem aand_streams (f : FmtA) : ArithStreams s x k t (.aand f) f (fun a b _ => (a &&& b : Nat)) :=
  arithStreams_of (fun a b _ => a &&& b) rfl fun _ _ _ => (truncN_natCast ..).symm

theorem ashr_streams (f : FmtA) :
    ArithStreams s x k t (.ashr f) f (fun a b _ => (if b < f.ty.bits then a / 2 ^ b else 0 : Nat)) := by
  refine arithStreams_of (fun a b _ => if f.ty.bits ≤ b then 0 else a / 2 ^ b) rfl fun a b _ => ?_
  refine (truncN_natCast ..).symm.trans (congrArg (fun n : Nat => truncN _ n) ?_)
  by_cases h : b < f.ty.bits
  · rw [if_neg (by omega), if_pos h]
  · rw [if_pos (by omega), if_neg h]

theorem amovi_streams {f : FmtI} {d : BitVec 10} (hd : f.d = .main d) (h : StreamIssues (.amovi f) s x k t) :
    exec (.amovi f) s = .next (streamNext x (s.modStream x.core k (Stream.setReg d f.ty.pos f.imm.toNat)) k) := by
  refine congrArg Host.Outcome.next (stream_goes h ?_)
  unfold streamWrite
  rw [hd]
  exact congrArg (fun F => (s.modStream x.core k F, After.next)) (funext fun y => take_main ..)

theorem isAend_iff {l : Line} {n : Nat} (kind : lineKind l = 1) (slot : decodeSlot l n = .ok .aend) : isAend l n = true := by
  simp [isAend, kind, slot]

section

variable {f : FmtB} {u : State} {l : Line} (ok : pcOk (targetB f x.addr) = true)
  (line : fetchLine s x.core (streamCtx s t) (targetB f x.addr) = (u, .line l)) (fin : isAend l ((targetB f x.addr).toNat % 8) = true)
include ok line fin

/-- A zero-trip loop: the stream goes on behind its `aend`. -/
theorem aloopStep_zero (zero : streamRead u x.core t .n32 .w32 f.a = 0) : aloopStep f x s k t = (u, .goto (nextPc (targetB f x.addr))) := by
  unfold aloopStep
  simp only [ok, line, fin, zero, Bool.not_true, Bool.false_eq_true, if_false, if_true]

theorem aloopStep_counts {d : BitVec 10} (hd : f.d = .main d) (counts : streamRead u x.core t .n32 .w32 f.a ≠ 0) (room : t.loops.length < 4) :
    aloopStep f x s k t = (u.modStream x.core k (fun y => { y with
      loops := { start := nextPc x.pc, fin := targetB f x.addr, var := d.toNat, count := BitVec.ofNat 32 (streamRead u x.core t .n32 .w32 f.a) } :: y.loops
      regs := y.regs.putD d.toNat 0 0 }), .next) := by
  unfold aloopStep
  simp only [ok, line, fin, hd, Bool.not_true, Bool.false_eq_true, if_false]
  rw [if_neg counts, if_neg (by omega)]

end

theorem ald_streams {f : FmtM} {u : State} {p : Place} {leaf : Nat} (h : StreamIssues (.ald f) s x k t)
    (free : streamBusy s x.core k (fun o => o.order.acquires) = false)
    (aligned : streamAddr s x.core t f (streamRead s x.core t .n32 .w32 f.index) % tyBytes f.ty = 0)
    (place : resolveNow s (streamWho s x.core t) { kind := .affine, write := false, odd := false, width := tyBytes f.ty }
      (streamAddr s x.core t f (streamRead s x.core t .n32 .w32 f.index)) = (u, .ok p leaf))
    (kept : frameLost u p = false) :
    exec (.ald f) s = .next (streamNext x (streamOp u x.core k { owner := .stream x.core k, body := .load f.data f.ty false, ty := f.ty, width := tyBytes f.ty
                                                                 hint := effHint f.hint leaf, scope := f.scope, order := f.order
                                                                 lanes := [{ lane := 0, place := p, data := 0, hint := effHint f.hint leaf, sw := false
                                                                             ms := p.isPeer && pteMS leaf, sent := false }]
                                                                 more := false, flag := flagOf x.line f.fs }).1 k) := by
  refine congrArg Host.Outcome.next (stream_goes h ?_)
  rw [streamMem_runs (fun _ hq => absurd hq List.not_mem_nil) free]
  simp only [aligned, place, kept, bne_self_eq_false, Bool.false_eq_true, if_false]

theorem apush_streams {f : FmtM} {u : State} (h : StreamIssues (.apush f) s x k t)
    (free : streamBusy s x.core k (fun o => o.order.acquires) = false) (known : queueKnown s t.wg (queueOf f.data) = true)
    (row : pushRow x f (queueOf f.data) (streamAddr s x.core t f (streamRead s x.core t .n32 .w32 f.index)) s k t = some u) :
    exec (.apush f) s = .next (streamNext x u k) := by
  refine congrArg Host.Outcome.next (stream_goes h ?_)
  rw [streamMem_runs (fun q hq => List.mem_singleton.1 hq ▸ known) free]
  exact rowPush_of_pushRow row

theorem queueKnown_of_ready {g q : Nat} {ws : List Word} (h : queueHead s g q = .ready ws) : queueKnown s g q = true := by
  unfold queueHead at h
  unfold queueKnown
  split at h
  · cases h
  · split at h
    · cases h
    · simp [*]

theorem agath_streams {f : FmtM} {u : State} {ws : List Word} (h : StreamIssues (.agath f) s x k t)
    (free : streamBusy s x.core k (fun o => o.order.acquires) = false) (known : queueKnown s t.wg (queueOf f.data) = true)
    (idle : t.gath = none) (empty : t.buf = []) (head : queueHead s t.wg (queueOf f.index) = .ready ws) (home : wbHeld s x.core = false)
    (rows : (List.range (f.mmod.toNat / 16 % 32 + 1)).foldlM (gatherRow x f s k t ws)
      ((queueDrop (writeBackAll s x.core) t.wg (queueOf f.index)).modStream x.core k (fun y => { y with gath := some ws, row := 0 })) = some u) :
    exec (.agath f) s = .next (streamNext x (u.modStream x.core k (fun y => { y with gath := none, row := 0 })) k) := by
  have kept := (writeBackAll_streams s x.core).trans (queueDrop_streams _ t.wg (queueOf f.index))
  have last : f.mmod.toNat / 16 % 32 = bitsOf f.mmod.toNat 4 5 := by simp [bitsOf]
  have lookup : (((queueDrop (writeBackAll s x.core) t.wg (queueOf f.index)).modStream x.core k
      (fun y => { y with gath := some ws, row := 0 })).core x.core).streams.at? k = some (gathering t ws 0) := by
    refine (stream_modStream (t := t) ?_ _).trans ?_
    · rw [kept.streams]
      exact h.stream
    · unfold gathering
      rw [← empty]
  refine congrArg Host.Outcome.next (stream_goes h ?_)
  rw [streamMem_runs ?_ free]
  · simp only [idle, head, home, Bool.false_eq_true, if_false]
    refine gatherRows_of_fold empty _ 0 33 _ u ?_ ((Nat.zero_add _).trans last) (kept.toSpecialsKept.trans (specialsKept_modStream ..)) lookup ?_
    · have := Nat.mod_lt (f.mmod.toNat / 16) (show 32 > 0 by omega)
      omega
    · rw [modStream_modStream, ← List.range_eq_range']
      exact rows
  · intro q hq
    rcases List.mem_cons.1 hq with rfl | hq
    · exact known
    · exact List.mem_singleton.1 hq ▸ queueKnown_of_ready head

section

variable {f : FmtM} {u : State} {ps : List (Place × Nat)} {ws : List Word}

/-- The row's lines, which the store takes. -/
def rowLines (ps : List (Place × Nat)) : List Nat :=
  ((ps.filterMap (fun e => match e.1 with | .mem pa => some pa | _ => none)).map (fun pa => pa / 128)).eraseDups

/-- The sectors of memory that the row's store writes. -/
def rowSectors (ps : List (Place × Nat)) : List Nat := ps.filterMap (fun e => match e.1 with | .mem pa | .side pa => some (pa / 32) | _ => none)

/-- What a row store of places in this package leaves. -/
def rowStored (x : Clause) (f : FmtM) (u : State) (k : Nat) (t : Stream) (ps : List (Place × Nat)) (ws : List Word) : State :=
  let v := freeOwnership (rowWrite (engineStart (queueDrop u t.wg (queueOf f.data)) x.core (.stream x.core k) true (rowLines ps)) f.hint ps ws)
    (.stream x.core k)
  if rowSectors ps = [] then v else enginePublish v (some t.wg) (rowSectors ps).eraseDups

theorem astStep_of (aligned : streamAddr s x.core t f (streamRead s x.core t .n32 .w32 f.index) % 4 = 0)
    (places : rowPlaces s x.core t (streamAddr s x.core t f (streamRead s x.core t .n32 .w32 f.index)) true = (u, .ok ps))
    (here : ps.all (fun e => e.1.here) = true) (kept : ps.any (fun e => frameLost u e.1) = false)
    (head : queueHead u t.wg (queueOf f.data) = .ready ws) (free : recordsFree u (granulesOf (rowLines ps)) = true)
    (home : wbHeld u x.core = false) (apart : rowClash u x.core k ps = false) :
    astStep f x s k t = (rowStored x f u k t ps ws, .next) := by
  have noPeer : ((ps.zip ws).zip (List.range 32)).filterMap (fun e => match e.1.1.1 with
      | .peer _ _ => some ({ lane := e.2, place := e.1.1.1, data := e.1.2.setWidth 256, hint := f.hint, sw := false, ms := pteMS e.1.1.2, sent := false } : LaneAcc)
      | _ => none) = [] := by
    refine List.filterMap_eq_nil_iff.2 fun e he => ?_
    have hp := List.all_eq_true.1 here _ (List.of_mem_zip (List.of_mem_zip he).1).1
    obtain ⟨⟨⟨p, _⟩, _⟩, _⟩ := e
    cases p <;> first | rfl | cases hp
  have go : ¬ (!recordsFree u (granulesOf (rowLines ps)) || false || false) = true := by simp [free]
  unfold astStep
  simp only [aligned, places, kept, head, home, apart, bne_self_eq_false, Bool.false_eq_true, if_false]
  exact (if_neg go).trans (if_pos noPeer)

end

theorem ast_streams {f : FmtM} (h : StreamIssues (.ast f) s x k t) (free : streamBusy s x.core k (fun o => o.order.acquires) = false)
    (known : queueKnown s t.wg (queueOf f.data) = true) {u : State} (step : astStep f x s k t = (u, .next)) :
    exec (.ast f) s = .next (streamNext x u k) := by
  refine congrArg Host.Outcome.next (stream_goes h ?_)
  rw [streamMem_runs (fun q hq => List.mem_singleton.1 hq ▸ known) free]
  exact step

theorem afence_streams {f : FmtS} (h : StreamIssues (.afence f) s x k t)
    (release : (fenceOrder f).releases = true → streamBusy s x.core k (fun _ => true) = false ∧ (fenceScope f = .span → peerOwed s x.core = false))
    (acquire : (fenceOrder f).acquires = true → streamBusy s x.core k (fun o => match o.body with | .load _ _ _ => true | _ => false) = false)
    (home : fenceScope f ≠ .wp → wbHeld s x.core = false) :
    exec (.afence f) s = .next (streamNext x (fenceNow (if (fenceOrder f).acquires = true ∧ fenceScope f ≠ .wp then writeBackAll s x.core else s)
      x.core (some t.wg) (fenceOrder f) (fenceScope f)) k) := by
  refine congrArg Host.Outcome.next (stream_goes h ?_)
  have go : ((fenceOrder f).releases && (streamBusy s x.core k (fun _ => true) || (fenceScope f == .span && peerOwed s x.core)) ||
      (fenceOrder f).acquires && streamBusy s x.core k (fun p => match p.body with | .load _ _ _ => true | _ => false) ||
      fenceScope f != .wp && wbHeld s x.core) = false := by
    simp only [Bool.or_eq_false_iff, Bool.and_eq_false_iff]
    refine ⟨⟨?_, ?_⟩, ?_⟩
    · cases hr : (fenceOrder f).releases
      · exact .inl rfl
      · refine .inr ⟨(release hr).1, ?_⟩
        by_cases hs : fenceScope f = .span
        · exact .inr ((release hr).2 hs)
        · exact .inl (by simp [hs])
    · cases ha : (fenceOrder f).acquires
      · exact .inl rfl
      · exact .inr (acquire ha)
    · by_cases hs : fenceScope f = .wp
      · exact .inl (by simp [hs])
      · exact .inr (home hs)
  dsimp only
  refine (if_neg (ne_true_of_eq_false go)).trans ?_
  simp only [Bool.and_eq_true, bne_iff_ne]

theorem astop_streams (h : StreamIssues .astop s x k t) : exec .astop s = .next (endStreamClause (s.modStream x.core k (fun y =>
    if streamBusy s x.core k (fun _ => true) then { y with wait := .drain } else { y with ended := true }))) := by
  refine congrArg Host.Outcome.next (stream_stays h ?_)
  unfold streamWait
  cases streamBusy s x.core k (fun _ => true) <;> rfl

end

/-- Settles O39: each form is what its step leaves, through `stream_goes`; a gather by induction over its rows, `gatherRows_of_fold`. -/
theorem streams : Obligations.Streams := by
  unfold Obligations.Streams
  intro s x k t c done rd set arith addr free q known local_ lost row
  have addr_eq (f : FmtM) (n : Nat) : streamAddr s c t f n = addr f n := streamAddr_eq s c t f n
  have q_eq (o : Operand) : q o = queueOf o := by cases o <;> rfl
  have known_of {n : Nat} (h : known n) : queueKnown s t.wg n = true := by
    obtain ⟨g, group, queue⟩ := h
    unfold queueKnown
    rw [group]
    exact queue
  have row_eq (u : State) (f : FmtM) (va : Nat) : row u f va = pushRow x f (queueOf f.data) va u k t := by
    rw [← q_eq]
    rfl
  refine ⟨aadd_streams, asub_streams, amad_streams, amin_streams, aand_streams, ashr_streams, fun f d => amovi_streams, ?_, ?_, ?_, ?_, ?_, ?_, ?_, ?_, ?_⟩
  · intro f d u l hd h target n ok line kind slot
    have fin := isAend_iff kind slot
    refine ⟨fun counts room => ?_, fun zero running => ?_⟩
    · exact congrArg Host.Outcome.next (stream_goes h (aloopStep_counts ok line fin hd counts room))
    · exact congrArg Host.Outcome.next (stream_goesTo h running (aloopStep_zero ok line fin zero))
  · intro e rest h loops fin v u
    have step : (fun (x : Clause) s k (t : Stream) => match t.loops with
        | [] => streamTrap x s k Cause.controlTransfer 0 0
        | e :: rest =>
          if e.fin != x.pc then streamTrap x s k Cause.controlTransfer 0 0
          else
            let v := t.regs.atD e.var 0 + 1
            let s1 := s.modStream x.core k (fun t => { t with regs := t.regs.putD e.var v 0 })
            if v < e.count then (s1, After.goto e.start)
            else (s1.modStream x.core k (fun t => { t with loops := rest }), .next)) x s k t =
        if v < e.count then (u, .goto e.start) else (u.modStream c k (fun y => { y with loops := rest }), .next) := by
      simp only [loops, fin, bne_self_eq_false, Bool.false_eq_true, if_false]
      rfl
    refine ⟨fun more running => ?_, fun last => ?_⟩
    · exact congrArg Host.Outcome.next (stream_goesTo h running (step.trans (if_pos more)))
    · exact congrArg Host.Outcome.next (stream_goes h (step.trans (if_neg last)))
  · intro f u p leaf h hfree n va aligned place kept
    refine (ald_streams h hfree ?_ ?_ kept)
    · rw [addr_eq]
      exact aligned
    · rw [addr_eq]
      exact place
  · intro f u h hfree hknown hrow
    rw [row_eq, ← addr_eq] at hrow
    exact apush_streams h hfree (q_eq f.data ▸ known_of hknown) hrow
  · intro f ws u h hfree hknown idle empty head home rows
    rw [q_eq] at head rows
    refine agath_streams h hfree (q_eq f.data ▸ known_of hknown) idle empty head home (Eq.trans ?_ rows)
    refine congrArg (fun g => List.foldlM g _ _) (funext fun u => funext fun i => ?_)
    rw [row_eq, ← addr_eq]
    rfl
  · intro f u ps ws h hfree hknown va pas lines aligned places here kept head hfree' home apart v wrote
    rw [q_eq] at head
    refine (ast_streams h hfree (q_eq f.data ▸ known_of hknown) (astStep_of (ps := ps) (ws := ws) (u := u) ?_ ?_ here kept head hfree' home apart)).trans ?_
    · rw [addr_eq]
      exact aligned
    · rw [addr_eq]
      exact places
    · have stored : rowStored x f u k t ps ws = if wrote = [] then freeOwnership v (.stream c k)
          else enginePublish (freeOwnership v (.stream c k)) (some t.wg) wrote.eraseDups := by
        unfold rowStored
        rw [← q_eq]
        rfl
      exact congrArg (fun z => done z) stored
  · intro f h va n fetch
    refine congrArg Host.Outcome.next (stream_goes h ?_)
    dsimp only
    rw [addr_eq] <;> rfl
  · intro f h order scope release acquire home u0 u
    exact (afence_streams h release acquire home)
  · intro h
    refine ⟨fun idle => ?_, fun busy => ?_⟩ <;> refine (astop_streams h).trans ?_
    · rw [show streamBusy s x.core k (fun _ => true) = false from idle]
      rfl
    · rw [show streamBusy s x.core k (fun _ => true) = true from busy]
      rfl

end Sys2Proof.Machine
end

section
/-! PROOFS. System forms of a warp. -/

namespace Sys2Proof.Machine

/-! ## Bytes of a spliced list (log 1) -/

namespace Mem

theorem byte_append_of_not_mem (m n : Mem) (b : Nat) (h : ∀ e ∈ m, e.1 ≠ b) : Mem.byte (m ++ n) b = Mem.byte n b := by
  induction m with
  | nil => rfl
  | cons e m ih =>
    rw [List.cons_append, Mem.byte, if_neg (h e (.head _))]
    exact ih fun d hd => h d (.tail _ hd)

theorem byte_append_of_zero (m n : Mem) (b : Nat) (h : Mem.byte n b = 0) : Mem.byte (m ++ n) b = Mem.byte m b := by
  induction m with
  | nil => exact h
  | cons e m ih =>
    rw [List.cons_append, Mem.byte, Mem.byte, ih]

theorem cells_keys (bs : List Byte) (a : Nat) : ∀ e ∈ Mem.cells a bs, a ≤ e.1 ∧ e.1 < a + bs.length := by
  induction bs generalizing a with
  | nil => exact fun e he => absurd he List.not_mem_nil
  | cons v bs ih =>
    intro e he
    have rest (he : e ∈ Mem.cells (a + 1) bs) : a ≤ e.1 ∧ e.1 < a + (v :: bs).length := by
      obtain ⟨lo, hi⟩ := ih (a + 1) e he
      rw [List.length_cons]
      omega
    unfold Mem.cells at he
    split at he
    · exact rest he
    · rcases List.mem_cons.1 he with rfl | he
      · simp
      · exact rest he

theorem byte_eq_zero (m : Mem) (b : Nat) (h : ∀ e ∈ m, e.1 ≠ b) : Mem.byte m b = 0 := by
  have := byte_append_of_not_mem m [] b h
  rwa [List.append_nil] at this

theorem byte_cells (bs : List Byte) (a i : Nat) : Mem.byte (Mem.cells a bs) (a + i) = bs.getD i 0 := by
  induction bs generalizing a i with
  | nil => rfl
  | cons v bs ih =>
    have above : Mem.byte (Mem.cells (a + 1) bs) a = 0 :=
      byte_eq_zero _ _ fun e he => by have := (cells_keys bs (a + 1) e he).1; omega
    unfold Mem.cells
    cases i with
    | zero =>
      split
      · next h => simpa [h] using above
      · simp [Mem.byte]
    | succ i =>
      rw [show a + (i + 1) = a + 1 + i by omega]
      split
      · simpa using ih (a + 1) i
      · rw [Mem.byte, if_neg (by omega)]
        simpa using ih (a + 1) i

/-- What a splice leaves: the new bytes where they lie, the old ones elsewhere. -/
theorem byte_splice (m : Mem) (a : Nat) (bs : List Byte) (b : Nat) :
    Mem.byte (Mem.splice m a bs) b = if a ≤ b ∧ b < a + bs.length then bs.getD (b - a) 0 else Mem.byte m b := by
  have low (h : a ≤ b) : ∀ e ∈ m.filter (fun c => c.1 < a), e.1 ≠ b := fun e he => by
    have := (List.mem_filter.1 he).2
    simp at this
    omega
  have high : Mem.byte (m.filter (fun c => a + bs.length ≤ c.1)) b = if a + bs.length ≤ b then Mem.byte m b else 0 := by
    simpa using Mem.byte_filter m (fun n => decide (a + bs.length ≤ n)) b
  unfold Mem.splice
  rw [List.append_assoc]
  split
  · next h =>
    rw [byte_append_of_not_mem _ _ _ (low h.1), byte_append_of_zero _ _ _ (by rw [high, if_neg (by omega)]),
      ← byte_cells bs a (b - a), Nat.add_sub_cancel' h.1]
  · next h =>
    by_cases hb : a ≤ b
    · rw [byte_append_of_not_mem _ _ _ (low hb), byte_append_of_not_mem, high, if_pos (by omega)]
      exact fun e he => by have := cells_keys bs a e he; omega
    · rw [byte_append_of_zero]
      · exact (Mem.byte_filter m (fun n => decide (n < a)) b).trans (if_pos (by simp; omega))
      rw [byte_append_of_not_mem, high, if_neg (by omega)]
      exact fun e he => by have := cells_keys bs a e he; omega

theorem byte_clear (m : Mem) (a n b : Nat) : Mem.byte (Mem.clear m a n) b = if a ≤ b ∧ b < a + n then 0 else Mem.byte m b := by
  refine (Mem.byte_filter m (fun i => decide (i < a) || decide (a + n ≤ i)) b).trans ?_
  by_cases h : a ≤ b ∧ b < a + n
  · rw [if_pos h, if_neg (by simp; omega)]
  · rw [if_neg h, if_pos (by simp; omega)]

@[simp] theorem length_bytes (m : Mem) (n : Nat) : ∀ a, (Mem.bytes m a n).length = n := by
  induction n with
  | zero => exact fun _ => rfl
  | succ n ih => exact fun a => congrArg (· + 1) (ih (a + 1))

theorem getD_bytes (m : Mem) (n i a : Nat) (h : i < n) : (Mem.bytes m a n).getD i 0 = Mem.byte m (a + i) := by
  induction n generalizing a i with
  | zero => omega
  | succ n ih =>
    cases i with
    | zero => rfl
    | succ i =>
      rw [Mem.bytes, List.getD_cons_succ, ih i (a + 1) (by omega), show a + 1 + i = a + (i + 1) by omega]

end Mem

/-! ## The allocation of a warp (R139 to R141) -/

section

variable {s : State} {c k n b : Nat} {w : Warp}

theorem warp?_growRegs (h : s.warp? c k = some w) : (growRegs s c k n b).warp? c k = some { w with base := b, regs := n } := by
  unfold growRegs
  rw [h]
  dsimp only
  rw [State.warp?_modWarp_self, State.warp?, State.core_modCore_self]
  exact congrArg _ h

theorem store_growRegs (h : s.warp? c k = some w) : ((growRegs s c k n b).core c).store =
    Mem.splice (Mem.clear (s.core c).store b (128 * n)) b (Mem.bytes (s.core c).store w.base (128 * w.regs)) := by
  unfold growRegs
  rw [h]
  simp [State.modWarp]

theorem byte_growRegs (h : s.warp? c k = some w) {a : Nat} (ha : a < 128 * n) :
    Mem.byte ((growRegs s c k n b).core c).store (b + a) = if a < 128 * w.regs then Mem.byte (s.core c).store (w.base + a) else 0 := by
  rw [store_growRegs h, Mem.byte_splice, Mem.length_bytes, Mem.byte_clear]
  by_cases old : a < 128 * w.regs
  · rw [if_pos (by omega), if_pos old, Nat.add_sub_cancel_left, Mem.getD_bytes _ _ _ _ old]
  · rw [if_neg (by omega), if_pos (by omega), if_neg old]

theorem regrowEnds_eq (h : s.warp? c k = some w) (pw : BitVec 3) (ok : Bool) :
    regrowEnds s c k pw ok = putPreds s c k (some pw) (w.present.map (fun l => (l, ok))) := by
  unfold regrowEnds
  rw [h]

theorem waiting_growRegs (p : Wait → Bool) : waiting (growRegs s c k n b) c k p = waiting s c k p := by
  cases h : s.warp? c k with
  | none => unfold growRegs; rw [h]
  | some w =>
    unfold waiting
    rw [warp?_growRegs h, h]
    rfl

/-- A request that has ended: granted or refused, its lanes go on. -/
theorem unblockRegrow_grown (p : BitVec 3) (ok : Bool) : unblockRegrow (growRegs s c k n b) c k (some p) ok =
    passOn (regrowEnds (growRegs s c k n b) c k p ok) c k (waiting s c k (fun y => match y with | .regrow _ => true | _ => false)) := by
  unfold unblockRegrow
  exact congrArg (passOn _ c k) (waiting_growRegs _)

end

/-! ## The requests of a core, oldest first (R140) -/

/-- Inserting by age keeps the order. -/
theorem pairwise_insertAge {α : Type} (age : α → Nat) (a : α) {m : List α} (h : m.Pairwise (fun x y => age x ≤ age y)) :
    (m.takeWhile (fun b => age b ≤ age a) ++ [a] ++ m.dropWhile (fun b => age b ≤ age a)).Pairwise (fun x y => age x ≤ age y) := by
  induction m with
  | nil => simp
  | cons b m ih =>
    obtain ⟨first, rest⟩ := List.pairwise_cons.1 h
    by_cases hb : age b ≤ age a
    · simp only [List.takeWhile_cons, List.dropWhile_cons, hb, decide_true, if_true, List.cons_append]
      refine List.pairwise_cons.2 ⟨fun d hd => ?_, ih rest⟩
      rw [List.append_assoc] at hd
      rcases List.mem_append.1 hd with hd | hd
      · exact first d ((List.takeWhile_sublist _).mem hd)
      · rcases List.mem_append.1 hd with hd | hd
        · exact List.mem_singleton.1 hd ▸ hb
        · exact first d ((List.dropWhile_sublist _).mem hd)
    · simp only [List.takeWhile_cons, List.dropWhile_cons, hb, decide_false, Bool.false_eq_true, if_false, List.nil_append, List.singleton_append]
      refine List.pairwise_cons.2 ⟨fun d hd => ?_, h⟩
      rcases List.mem_cons.1 hd with rfl | hd
      · omega
      · exact le_trans (by omega) (first d hd)

theorem blockedRegrows_sorted (s : State) (c : Nat) : (blockedRegrows s c).Pairwise (fun a b => a.2.1.age ≤ b.2.1.age) := by
  unfold blockedRegrows
  dsimp only
  generalize (s.core c).warps.filterMap _ = l
  suffices ∀ m : List (Nat × Warp × Nat × Option (BitVec 3)), m.Pairwise (fun a b => a.2.1.age ≤ b.2.1.age) →
      (l.foldl (fun m a => m.takeWhile (fun b => b.2.1.age ≤ a.2.1.age) ++ [a] ++ m.dropWhile (fun b => b.2.1.age ≤ a.2.1.age)) m).Pairwise
        (fun a b => a.2.1.age ≤ b.2.1.age) from this [] .nil
  induction l with
  | nil => exact fun m h => h
  | cons a l ih => exact fun m h => ih _ (pairwise_insertAge (fun e => e.2.1.age) a h)

/-! ## `launch` (R154) -/

section

variable {f : FmtS} {s : State} {x : Clause} {k : Nat} {w : Warp} {ls ex : List Nat}

theorem takesDev_iff (y : LQueue) : y.takesDev = true ↔
    y.enable = true ∧ y.dev = true ∧ (y.tail + y.slots - y.head % y.slots) % y.slots < y.slots - 1 := by
  rw [LQueue.takesDev, LQueue.held, Bool.and_eq_true, Bool.and_eq_true, decide_eq_true_iff, and_assoc]

/-- What `launch` does for one lane whose record needs no packet and meets no fault. -/
def launchOne (q : Nat) (pw : BitVec 3) (c k : Nat) (addr : Nat → Nat) (u : State) (l : Nat) : Option State :=
  if (u.lane c k l).kind = .helper ∨ (u.lq q).takesDev = false then some (putPreds u c k (some pw) [(l, false)])
  else match readRecord u c k (addr l) with
    | (u1, .bytes bs) => some (putPreds (submit u1 q bs).1 c k (some pw) [(l, (submit u1 q bs).2)])
    | _ => none

theorem launchLanes_of_fold (q : Nat) (pw : BitVec 3) (c k : Nat) (addr : Nat → Nat) (ls : List Nat) : ∀ (s t : State),
    ls.foldlM (launchOne q pw c k addr) s = some t → launchLanes q pw c k addr s ls = (t, ls, [], [], []) := by
  induction ls with
  | nil =>
    intro s t h
    cases h
    rfl
  | cons l ls ih =>
    intro s t h
    rw [List.foldlM_cons, Option.bind_eq_bind, Option.bind_eq_some_iff] at h
    obtain ⟨u, one, rest⟩ := h
    have htail := ih u t rest
    unfold launchOne at one
    unfold launchLanes
    split at one
    · next out =>
      cases one
      rcases out with helper | full
      · simp only [helper, beq_self_eq_true, if_true, htail]
      · simp only [full, Bool.not_false, if_true, htail, ite_self]
    · next goes =>
      have kind : ((s.lane c k l).kind == .helper) = false := beq_false_of_ne fun e => goes (.inl e)
      have takes : (s.lq q).takesDev = true := Bool.not_eq_false _ ▸ fun e => goes (.inr e)
      split at one
      · next read =>
        cases one
        simp only [kind, takes, read, Bool.false_eq_true, Bool.not_true, if_false, htail]
      · cases one

/-- `launch` of lanes whose records are all read or refused (R154). -/
theorem launchWarp_submits {t : State} (hw : s.warp? x.core k = some w) (idle : stoppedAt s x.core k x.pc = none)
    (guard : guardLanes s x k ls = ex) (some_ : ex ≠ []) {addr : Nat → Nat} {who : List Nat}
    (haddr : ∀ l, addr l = readOp s (x.env k) l .n64 .w64 f.a)
    (hwho : who = if f.a.isWreg then (if launchedOf s x.core k ex = [] then ex.take 1 else (launchedOf s x.core k ex).take 1) else ex)
    (drained : launchedOf s x.core k ex ≠ [] → mustDrain s x.core k (launchedOf s x.core k ex) .rel .pkg = false)
    (aligned : ∀ l ∈ who, addr l % 256 = 0 ∧
      (regionOf (addr l) = .general ∨ (∃ p, regionOf (addr l) = .peer p) ∨ regionOf (addr l) = .nonCanonical))
    (unwatched : ∀ l ∈ who, (s.lane x.core k l).kind = .launched → (s.lq f.s7.toNat).takesDev = true →
      watchHit s x.core .pop (addr l) 256 = false)
    (fold : who.foldlM (launchOne f.s7.toNat f.pw x.core k addr)
      (if launchedOf s x.core k ex = [] then s else release s x.core (some w.wg) .pkg) = some t) :
    launchWarp f x s k ls = if f.a.isWreg then putPreds (dropFetched t x.core k) x.core k (some f.pw) (ex.map (fun l =>
      (l, ((dropFetched t x.core k).lane x.core k (who.headD 0)).preds.getLsbD f.pw.toNat))) else dropFetched t x.core k := by
  have issuing : issuingSet x s k ls = ex := by unfold issuingSet; rw [idle]; exact guard
  have home : wgIdOf s x.core k = some w.wg := by unfold wgIdOf; rw [hw]; rfl
  have busy : (launchedOf s x.core k ex != [] && mustDrain s x.core k (launchedOf s x.core k ex) .rel .pkg) = false := by
    by_cases h : launchedOf s x.core k ex = []
    · simp [h]
    · simp [drained h]
  have whoSome : who ≠ [] := by
    rw [hwho]
    split
    · split <;> simp_all
    · exact some_
  have bad : who.filter (fun l => addr l % 256 != 0) = [] := List.filter_eq_nil_iff.2 fun l hl => by simp [(aligned l hl).1]
  have window : who.filter (fun l => match regionOf (addr l) with | .general => false | .peer _ => false | .nonCanonical => false | _ => true) = [] :=
    List.filter_eq_nil_iff.2 fun l hl => by
      rcases (aligned l hl).2 with h | ⟨p, h⟩ | h <;> simp [h]
  have watch : who.filter (fun l => (launchedOf s x.core k ex).contains l && (s.lq f.s7.toNat).takesDev && watchHit s x.core .pop (addr l) 256) = [] :=
    List.filter_eq_nil_iff.2 fun l hl => by
      by_cases hact : l ∈ launchedOf s x.core k ex
      · have kind : (s.lane x.core k l).kind = .launched := by simpa using (List.mem_filter.1 hact).2
        cases takes : (s.lq f.s7.toNat).takesDev
        · simp
        · simp [unwatched l hl kind takes]
      · simp [hact]
  have lanes := launchLanes_of_fold _ _ _ _ _ _ _ _ fold
  unfold launchWarp
  extract_lets c once ex' e addr' act who' bad' win' watch' prior done0 set on s1 r s2 first s3 done
  have hex : ex' = ex := issuing
  have haddr' : addr' = addr := funext fun l => (haddr l).symm
  have hact : act = launchedOf s x.core k ex := congrArg (launchedOf s x.core k) hex
  have hwho' : who' = who := by rw [hwho, ← hact, ← hex]
  have hbad : bad' = [] := by unfold bad'; rw [haddr', hwho']; exact bad
  have hwin : win' = [] := by unfold win'; rw [haddr', hwho']; exact window
  have hwatch : watch' = [] := by unfold watch'; rw [haddr', hwho', hact]; exact watch
  have hs1 : s1 = if launchedOf s x.core k ex = [] then s else release s x.core (some w.wg) .pkg := by unfold s1; rw [hact, home]
  have hr : r = (t, who, [], [], []) := by unfold r; rw [haddr', hwho', hs1]; exact lanes
  have hprior : prior = none := idle
  have hs2 : s2 = dropFetched t x.core k := by unfold s2; rw [hr]; exact if_pos rfl
  have hfirst : first = ((dropFetched t x.core k).lane x.core k (who.headD 0)).preds.getLsbD f.pw.toNat := by
    obtain ⟨l, who, rfl⟩ := List.exists_cons_of_ne_nil whoSome
    unfold first
    rw [hr, hs2]
    rfl
  have hs3 : s3 = if f.a.isWreg then putPreds (dropFetched t x.core k) x.core k (some f.pw) (ex.map (fun l =>
      (l, ((dropFetched t x.core k).lane x.core k (who.headD 0)).preds.getLsbD f.pw.toNat))) else dropFetched t x.core k := by
    have sent : (once && r.2.1 != []) = f.a.isWreg := by simp [hr, whoSome, once]
    unfold s3
    rw [sent, hs2, hfirst, hex]
  have hset : set = maskOf ex := by unfold set; rw [hprior, hex]
  have hdone : done = maskOf ex := by
    have zero : done0 = 0 := by unfold done0; rw [hprior]
    unfold done
    rw [zero, hr, hex]
    refine BitVec.zero_or.trans ?_
    dsimp only
    rw [if_neg whoSome]
    split
    · rfl
    · next vector => rw [hwho, if_neg vector]
  rw [if_neg (hex ▸ some_), hact, if_neg (ne_true_of_eq_false busy), hbad, hwin, hwatch, if_neg (by simp), if_neg (by simp), if_neg (by simp), hset, hdone,
    if_pos (by simp), hprior, if_neg (by simp), hs3]

end

/-- `regrow` whose members have arrived, in a warp with nothing outstanding (R139, R140). -/
theorem exec_regrow_goes {f : FmtS} {s : State} {x : Clause} {k : Nat} {w : Warp} (h : Issues s x k w) (hr : Arrived (.regrow f) [] s x k w)
    (idle : regsBusy s x.core k = false) : exec (.regrow f) s = .next (endIssue x
      (if regG (s.core x.core).part * 0x4000 < 128 * regCount f then regrowEnds s x.core k f.pw false
      else if regCount f ≤ w.regs then regrowEnds s x.core k f.pw true
      else match fitBase s x.core (some k) (regCount f) with
        | some b => regrowEnds (growRegs s x.core k (regCount f) b) x.core k f.pw true
        | none => parkAll s x.core k (x.members k w (.regrow f)) (.regrow (regCount f)))) := by
  refine congrArg Host.Outcome.next ((issue_arrived h hr rfl).trans (congrArg (endIssue x) ?_))
  dsimp only
  rw [h.warp]
  exact if_neg (ne_true_of_eq_false idle)

/-- Settles O37: each form by the effect it has; an enlarged allocation by the bytes that a splice leaves, `byte_growRegs`; a launch's
lanes by `launchLanes_of_fold`. -/
theorem systemForms : Obligations.SystemForms := by
  refine ⟨?_, ?_, ?_, ?_, ?_, ?_, ?_⟩
  · exact fun f => arithmeticForm_of (fun _ => rfl) rfl rfl rfl rfl rfl fun _ _ _ _ => rfl
  · intro s x k w h some_
    refine ⟨fun f hr => ?_, fun hr => ?_⟩ <;> exact congrArg Host.Outcome.next ((issue_ready h hr rfl).trans (congrArg (endIssue x) (if_neg some_)))
  · intro s x k w h idle c all
    have ends (u : State) (pw : BitVec 3) (ok : Bool) (v : Warp) (hu : u.warp? c k = some v) (hv : v.present = w.present) :
        regrowEnds u c k pw ok = all u pw ok := by rw [regrowEnds_eq hu, hv]
    refine ⟨?_, fun f hr => ?_⟩
    · intro f hr n
      have step := exec_regrow_goes h hr idle
      refine ⟨fun big => ?_, fun fits small => ?_, fun fits more => ⟨fun b hb => ?_, fun hb => ?_⟩⟩ <;>
        refine step.trans (congrArg (fun z => Host.Outcome.next (endIssue x z)) ?_)
      · exact (if_pos big).trans (ends s f.pw false w h.warp rfl)
      · exact (if_neg (not_lt.2 fits)).trans ((if_pos small).trans (ends s f.pw true w h.warp rfl))
      · refine (if_neg (not_lt.2 fits)).trans ((if_neg (not_le.2 more)).trans ?_)
        rw [show fitBase s x.core (some k) (regCount f) = some b from hb]
        exact ends _ f.pw true _ (warp?_growRegs h.warp) rfl
      · refine (if_neg (not_lt.2 fits)).trans ((if_neg (not_le.2 more)).trans ?_)
        rw [show fitBase s x.core (some k) (regCount f) = none from hb]
        rfl
    · refine congrArg Host.Outcome.next ((issue_arrived h hr rfl).trans (congrArg (endIssue x) ?_))
      refine (if_neg (ne_true_of_eq_false idle)).trans (congrArg (s.modWarp c k) (funext fun v => ?_))
      unfold regCount
      split
      · rw [min_eq_right (by omega)]
      · rw [min_eq_left (by omega)]
  · exact fun s c k n b w h _ _ => ⟨⟨_, warp?_growRegs h, rfl, rfl, rfl⟩, fun a => byte_growRegs h⟩
  · refine fun c s => ⟨blockedRegrows_sorted s c, ?_, fun k v n p every last => ?_⟩
    · refine congrArg (fun g => Host.Outcome.next (List.foldl g s (blockedRegrows s c))) (funext fun u => funext fun e => ?_)
      cases e.2.1.trapped
      · rcases fitBase u c (some e.1) e.2.2.1 with _ | b <;> rcases e.2.2.2 with _ | p
        · rfl
        · rfl
        · rfl
        · exact unblockRegrow_grown p true
      · rfl
    · refine congrArg Host.Outcome.next ((if_neg ?_).trans ?_)
      · exact ne_true_of_eq_false (congrArg Bool.not every)
      · rw [last]
        rfl
  · intro f s x k w ls ex t h hr idle some_ c addr act who tell one drained aligned unwatched fold u
    refine congrArg Host.Outcome.next ((issue_goes h hr rfl).trans (congrArg (endIssue x) ?_))
    exact launchWarp_submits h.warp idle hr.guard some_ (fun _ => rfl) rfl drained aligned unwatched fold
  · intro s q bs y
    unfold submit
    by_cases h : (s.lq q).takesDev = true
    · exact (if_neg (by simp [h])).trans (if_pos ((takesDev_iff _).1 h)).symm
    · exact (if_pos (by simp [h])).trans (if_neg (fun e => h ((takesDev_iff _).2 e))).symm

end Sys2Proof.Machine
end

section
/-! PROOFS. Regions, windows and walks. -/

namespace Sys2Proof.Machine

/-! ## Regions (R20) -/

theorem regionOf_eq (va : Nat) : regionOf va =
    if va < 0xE000000000000 then .general
    else if va < 0xF000000000000 then .peer ((va - 0xE000000000000) / 2 ^ 44)
    else if va < 0xF0000000C0000 then .self (va - 0xF000000000000)
    else if 0xF000001000000 ≤ va ∧ va < 0xF000001400000 then .scratch ((va - 0xF000001000000) / 2 ^ 20) (va % 2 ^ 20)
    else if 0xF000010000000 ≤ va ∧ va < 0xF000011000000 then .debug (va - 0xF000010000000)
    else if va < 2 ^ 52 then .reserved else .nonCanonical := by
  unfold regionOf bitsOf
  by_cases far : 2 ^ 52 ≤ va
  · rw [if_pos far]
    split_ifs <;> first | rfl | omega
  rw [if_neg far]
  by_cases general : va < 0xE000000000000
  · rw [if_pos general, if_pos general]
  rw [if_neg general, if_neg general]
  by_cases peer : va < 0xF000000000000
  · rw [if_pos peer, if_pos peer]
    exact congrArg Region.peer (by omega)
  rw [if_neg peer, if_neg peer]
  dsimp only
  by_cases self : va < 0xF0000000C0000
  · rw [if_pos self, if_pos (by omega)]
  rw [if_neg self, if_neg (by omega)]
  simp only [Bool.and_eq_true, decide_eq_true_eq]
  by_cases scratch : 0xF000001000000 ≤ va ∧ va < 0xF000001400000
  · rw [if_pos scratch, if_pos (by omega)]
    rw [show (va - 0xF000000000000) / 2 ^ 20 % 2 ^ 2 = (va - 0xF000001000000) / 2 ^ 20 by omega,
      show (va - 0xF000000000000) % 2 ^ 20 = va % 2 ^ 20 by omega]
  rw [if_neg scratch, if_neg (by omega)]
  by_cases debug : 0xF000010000000 ≤ va ∧ va < 0xF000011000000
  · rw [if_pos debug, if_pos (by omega)]
    exact congrArg Region.debug (by omega)
  rw [if_neg debug, if_neg (by omega), if_pos (by omega)]

/-! ## Windows (R22, R23) -/

section

variable {s : State} {c k : Nat} {w : Warp}

theorem whoOf_warp (hk : k < Config.warpSlots) (hw : s.warp? c k = some w) : whoOf s c k =
    { core := c, ctx := s.ctxOf c k, wg := some w.wg, regs := some (w.base, 128 * w.regs), dbg := false } := by
  have other : k ≠ ctrlSlot := by unfold ctrlSlot; unfold Config.warpSlots at hk; omega
  unfold whoOf
  rw [if_neg other, hw]
  rfl

theorem regionOf_self {x : Nat} (hx : x < 0xC0000) : regionOf (0xF000000000000 + x) = .self x := by
  rw [regionOf_eq, if_neg (by omega), if_neg (by omega), if_pos (by omega), Nat.add_sub_cancel_left]

theorem regionOf_scratch {q y : Nat} (hq : q < 4) (hy : y < 2 ^ 20) : regionOf (0xF000001000000 + q * 2 ^ 20 + y) = .scratch q y := by
  rw [regionOf_eq, if_neg (by omega), if_neg (by omega), if_neg (by omega), if_pos (by omega)]
  rw [show (0xF000001000000 + q * 2 ^ 20 + y - 0xF000001000000) / 2 ^ 20 = q by omega, show (0xF000001000000 + q * 2 ^ 20 + y) % 2 ^ 20 = y by omega]

theorem resolveNow_of_window {v : Who} {a : Access} {va : Nat} {r : Res} (h : windowRes s v a va = some r) : resolveNow s v a va = (s, r) := by
  unfold resolveNow
  rw [h]

theorem windowRes_self {va x n : Nat} {write : Bool} {c ctx b m : Nat} {g : Option Nat} (region : regionOf va = .self x) (hn : n ≤ 8) :
    windowRes s { core := c, ctx := ctx, wg := g, regs := some (b, m), dbg := false }
      { kind := if write then .store else .load, write := write, odd := false, width := n } va =
      some (if b ≤ x ∧ x + n ≤ b + m then .ok (.store c x) 0 else .fault XCause.window) := by
  have data : ((if write then AccKind.store else .load) == .load || (if write then AccKind.store else .load) == .store) = true := by
    cases write <;> rfl
  unfold windowRes
  rw [region]
  simp only [data, hn, Bool.not_false, Bool.true_and, decide_true, Bool.and_eq_true, decide_eq_true_eq]

theorem windowRes_scratch {va q y n : Nat} {c ctx id : Nat} {g : Wg} {r : Option (Nat × Nat)} (hg : s.wgs.at? id = some g)
    (region : regionOf va = .scratch q y) :
    windowRes s { core := c, ctx := ctx, wg := some id, regs := r, dbg := false } { kind := .load, write := false, odd := false, width := n } va =
      some (if c / 4 * 4 + q ∈ g.cores ∧ y + n ≤ spSize (s.core (c / 4 * 4 + q)).part then
        .ok (.store (c / 4 * 4 + q) (spBase (s.core (c / 4 * 4 + q)).part + y)) 0 else .fault XCause.window) := by
  unfold windowRes
  rw [region]
  simp only [hg, Bool.true_and, Bool.and_eq_true, List.contains_iff_mem, decide_eq_true_eq]

end

/-! ## The walk (R25 to R27, R29) -/

section

variable {s : State} {ctx va e n lv tab : Nat}

theorem testBit_of_field {e i : Nat} (h : e / 2 ^ i % 2 ^ 1 = 1) : e.testBit i = true := by
  rw [Nat.testBit_eq_decide_div_mod_eq]
  simpa using h

theorem testBit_of_field_zero {e i : Nat} (h : e / 2 ^ i % 2 ^ 1 = 0) : e.testBit i = false := by
  rw [Nat.testBit_eq_decide_div_mod_eq]
  simp at h ⊢
  omega

/-- An entry that points to a table of the size that its level asks for (R26). -/
structure TableEntry (e size : Nat) : Prop where
  kind : bitsOf e 0 2 = 1
  high : bitsOf e 52 12 = 0
  low : bitsOf e 2 6 = 0
  aligned : pteAddr e % size = 0
  inside : pteAddr e + size ≤ Config.memTop

/-- A pointer to a table takes the walk to the next level. -/
theorem walkLevel_table (inside : tab + 8 * bitsOf va (levelBits lv).1 (levelBits lv).2 + 8 ≤ Config.memTop)
    (read : Mem.rd s.mem (tab + 8 * bitsOf va (levelBits lv).1 (levelBits lv).2) 8 = e) (level : lv < 3)
    (h : TableEntry e (if lv = 0 || lv = 1 then 4096 else 256)) :
    walkLevel s none ctx va (n + 1) lv tab = walkLevel s none ctx va n (lv + 1) (pteAddr e) := by
  obtain ⟨kind, high, low, aligned, fits⟩ := h
  have valid : pteValid e = true := testBit_of_field (by unfold bitsOf at kind; omega)
  have pointer : pteLeaf e = false := testBit_of_field_zero (by unfold bitsOf at kind; omega)
  have top : bitsOf e 57 7 = 0 := by unfold bitsOf at high ⊢; omega
  have mid : bitsOf e 52 5 = 0 := by unfold bitsOf at high ⊢; omega
  have last : lv ≠ 3 := by omega
  conv_lhs => unfold walkLevel
  dsimp only
  rw [if_neg (not_lt.2 inside), show walkRead s none ctx va (levelBits lv).1 (tab + 8 * bitsOf va (levelBits lv).1 (levelBits lv).2) = e from read]
  simp only [valid, pointer, top, mid, low, aligned, not_lt.2 fits, last, Bool.not_true, Bool.false_eq_true, if_false, bne_self_eq_false, decide_false,
    Bool.or_self]

/-- An entry that is not valid is the not-present cause. -/
theorem walkLevel_invalid (inside : tab + 8 * bitsOf va (levelBits lv).1 (levelBits lv).2 + 8 ≤ Config.memTop)
    (read : Mem.rd s.mem (tab + 8 * bitsOf va (levelBits lv).1 (levelBits lv).2) 8 = e) (invalid : bitsOf e 0 1 = 0) :
    walkLevel s none ctx va (n + 1) lv tab = .fault XCause.notPresent := by
  have hvalid : pteValid e = false := testBit_of_field_zero invalid
  unfold walkLevel
  dsimp only
  rw [if_neg (not_lt.2 inside), show walkRead s none ctx va (levelBits lv).1 (tab + 8 * bitsOf va (levelBits lv).1 (levelBits lv).2) = e from read, hvalid]
  rfl

/-- A leaf of the last level. -/
theorem walkLevel_leaf (inside : tab + 8 * bitsOf va 16 5 + 8 ≤ Config.memTop) (read : Mem.rd s.mem (tab + 8 * bitsOf va 16 5) 8 = e)
    (kind : bitsOf e 0 2 = 3) (high : bitsOf e 57 7 = 0) (aligned : pteAddr e % 65536 = 0) (fits : pteAddr e + 65536 ≤ Config.memTop)
    (owner : bitsOf e 5 1 = 1 ∨ bitsOf e 52 4 = 0) : walkLevel s none ctx va (n + 1) 3 tab = .leaf e 16 := by
  have valid : pteValid e = true := testBit_of_field (by unfold bitsOf at kind; omega)
  have leaf : pteLeaf e = true := testBit_of_field (by unfold bitsOf at kind; omega)
  have own : (!ptePE e && ptePkg e != 0) = false := by
    rcases owner with peer | none
    · have : ptePE e = true := testBit_of_field peer
      simp [this]
    · simp [ptePkg, none]
  have level : levelBits 3 = (16, 5) := rfl
  unfold walkLevel
  rw [level]
  dsimp only
  rw [if_neg (not_lt.2 inside), show walkRead s none ctx va 16 (tab + 8 * bitsOf va 16 5) = e from read]
  simp only [valid, leaf, high, aligned, own, not_lt.2 fits, Bool.not_true, Bool.false_eq_true, if_false, if_true, bne_self_eq_false,
    decide_false, Bool.or_self, show ((3 : Nat) = 0) = False by simp, show (2 : Nat) ^ 16 = 65536 from rfl]

end

/-- Settles O51: the regions by `regionOf_eq`, the windows by `windowRes`, the walk level by level. -/
theorem addresses : Obligations.Addresses := by
  refine ⟨regionOf_eq, ?_, ?_, ?_, ?_⟩
  · intro s c k w x n write hk hw hx hn kind
    rw [whoOf_warp hk hw]
    exact resolveNow_of_window (windowRes_self (regionOf_self hx) hn)
  · intro s c k w g q y n hk hw hg hq hy t
    rw [whoOf_warp hk hw]
    exact resolveNow_of_window (windowRes_scratch hg (regionOf_scratch hq hy))
  · intro s ctx va w0 e0 e1 e2 e3 base room field table at_ root rest valid low high fits read0 table0 read1 table1 read2 table2 read3
    have entry {e size : Nat} (h : table e size) : TableEntry e size := by
      obtain ⟨kind, high, low, aligned, inside⟩ := h
      exact ⟨kind, high, low, aligned, inside⟩
    have inside (tab lo n size : Nat) (h : tab + size ≤ Config.memTop) (hs : 8 * 2 ^ n = size) : tab + 8 * bitsOf va lo n + 8 ≤ Config.memTop := by
      have := Nat.mod_lt (va / 2 ^ lo) (Nat.two_pow_pos n)
      unfold bitsOf
      omega
    have start : walk s ctx va = walkLevel s none ctx va 1 3 (pteAddr e2) := by
      have ok : ctxEntryOk w0 (Mem.rd s.mem (s.xl.ctxBase.toNat + 16 * ctx + 8) 8) = true := by
        have bit : w0.testBit 0 = true := testBit_of_field valid
        unfold ctxEntryOk
        rw [bit, rest]
        simp only [show bitsOf w0 1 15 = 0 from low, show bitsOf w0 52 12 = 0 from high, show bitsOf w0 16 36 * 65536 + 65536 ≤ Config.memTop from fits,
          decide_true, Bool.and_self]
      have step0 := walkLevel_table (s := s) (ctx := ctx) (va := va) (n := 3) (lv := 0) (tab := bitsOf w0 16 36 * 65536)
        (inside _ 39 13 65536 fits (by norm_num)) read0 (by omega) (entry table0)
      have step1 := walkLevel_table (s := s) (ctx := ctx) (va := va) (n := 2) (lv := 1) (tab := pteAddr e0)
        (inside _ 30 9 4096 (entry table0).inside (by norm_num)) read1 (by omega) (entry table1)
      have step2 := walkLevel_table (s := s) (ctx := ctx) (va := va) (n := 1) (lv := 2) (tab := pteAddr e1)
        (inside _ 21 9 4096 (entry table1).inside (by norm_num)) read2 (by omega) (entry table2)
      have usable : ¬ (decide (s.xl.ctxBase = 0) || decide (Config.memTop < s.xl.ctxBase.toNat + 16 * ctx + 16)) = true := by
        rw [decide_eq_false base, decide_eq_false (not_lt.2 room)]
        exact Bool.false_ne_true
      unfold walk walkBy
      dsimp only
      rw [show walkRead s none ctx va rootBits (s.xl.ctxBase.toNat + 16 * ctx) = w0 from root, ok]
      exact (if_neg usable).trans ((if_pos rfl).trans (step0.trans (step1.trans step2)))
    have reach := inside _ 16 5 256 (entry table2).inside (by norm_num)
    refine ⟨fun invalid => ?_, fun kind top aligned fits3 owner => ?_⟩
    · exact start.trans (walkLevel_invalid reach read3 invalid)
    · exact start.trans (walkLevel_leaf reach read3 kind top aligned fits3 owner)
  · exact fun va e bits => rfl

end Sys2Proof.Machine
end

section
/-! PROOFS. The return from a trap. -/

namespace Sys2Proof.Machine

theorem NMap.at?_mapV {α β : Type} (m : NMap α) (f : Nat → α → β) (k : Nat) : (m.mapV f).at? k = (m.at? k).map (f k) := by
  induction m with
  | nil => rfl
  | cons e m ih =>
    obtain ⟨j, v⟩ := e
    by_cases h : j = k
    · subst h
      simp [NMap.mapV, NMap.at?]
    · simpa [NMap.mapV, NMap.at?, h] using ih

/-- Entries changed one after another, each once. -/
theorem NMap.atD_foldl_put {α : Type} (g : Nat → α → α) (d : α) {L : List Nat} (hL : L.Nodup) : ∀ (m : NMap α) (j : Nat),
    (L.foldl (fun ls l => ls.put l (g l (ls.atD l d))) m).atD j d = if j ∈ L then g j (m.atD j d) else m.atD j d := by
  induction L with
  | nil => intro m j; simp
  | cons l L ih =>
    intro m j
    obtain ⟨fresh, rest⟩ := List.nodup_cons.1 hL
    rw [List.foldl_cons, ih rest, NMap.atD_put]
    by_cases h : j = l
    · subst h
      simp [fresh]
    · simp [h]

/-! ## What a return leaves alone once it has moved the lanes -/

/-- The two warps agree in what a return from a trap decides. -/
structure LooksLike (v u : Warp) : Prop where
  lanes : u.lanes = v.lanes
  trapped : u.trapped = v.trapped
  dmask : u.dmask = v.dmask
  stepping : u.stepping = v.stepping
  owed : u.owed = v.owed

theorem LooksLike.refl (v : Warp) : LooksLike v v := ⟨rfl, rfl, rfl, rfl, rfl⟩

theorem LooksLike.trans {v u t : Warp} (h : LooksLike v u) (g : LooksLike u t) : LooksLike v t :=
  ⟨g.lanes.trans h.lanes, g.trapped.trans h.trapped, g.dmask.trans h.dmask, g.stepping.trans h.stepping, g.owed.trans h.owed⟩

theorem LooksLike.present {v u : Warp} (h : LooksLike v u) : u.present = v.present := by
  unfold Warp.present
  rw [h.lanes]

/-- Every warp looks as before. -/
def WarpsLook (s t : State) : Prop := ∀ c k v, s.warp? c k = some v → ∃ u, t.warp? c k = some u ∧ LooksLike v u

namespace WarpsLook

variable {s t u : State}

theorem refl (s : State) : WarpsLook s s := fun _ _ v h => ⟨v, h, .refl v⟩

theorem trans (h : WarpsLook s t) (g : WarpsLook t u) : WarpsLook s u := fun c k v hv => by
  obtain ⟨v1, h1, l1⟩ := h c k v hv
  obtain ⟨v2, h2, l2⟩ := g c k v1 h1
  exact ⟨v2, h2, l1.trans l2⟩

theorem of_warps (h : ∀ c, (t.core c).warps = (s.core c).warps) : WarpsLook s t := fun c k v hv =>
  ⟨v, (congrArg (NMap.at? · k) (h c)).trans hv, .refl v⟩

theorem modWarp (s : State) (c k : Nat) {f : Warp → Warp} (h : ∀ v, LooksLike v (f v)) : WarpsLook s (s.modWarp c k f) := fun b j v hv => by
  rw [State.warp?_modWarp]
  split
  · next e => obtain ⟨rfl, rfl⟩ := e; exact ⟨f v, congrArg (Option.map f) hv, h v⟩
  · exact ⟨v, hv, .refl v⟩

theorem foldl {α : Type} {f : State → α → State} (h : ∀ s a, WarpsLook s (f s a)) (l : List α) (s : State) : WarpsLook s (l.foldl f s) := by
  induction l generalizing s with
  | nil => exact refl s
  | cons a l ih => exact (h s a).trans (ih _)

theorem lowerFlag (s : State) (c k : Nat) (f : Option Nat) : WarpsLook s (lowerFlag s c k f) := by
  unfold Machine.lowerFlag
  split
  · exact modWarp s c k fun v => ⟨rfl, rfl, rfl, rfl, rfl⟩
  · exact refl s

theorem modStream (s : State) (c k : Nat) (f : Stream → Stream) : WarpsLook s (s.modStream c k f) :=
  of_warps fun b => by unfold State.modStream; rw [State.core_modCore]; split <;> simp_all

theorem sweepOps (s : State) : WarpsLook s (sweepOps s) := by
  refine foldl (fun s e => ?_) _ s
  obtain ⟨n, o⟩ := e
  dsimp only
  have swept (z : State) (h : WarpsLook s z) : WarpsLook s { z with ops := z.ops.del n } := h.trans (of_warps fun _ => rfl)
  refine swept _ ?_
  split
  · exact lowerFlag s _ _ _
  · split
    · exact modStream s _ _ _
    · exact refl s
  · exact refl s
  · split
    · exact of_warps fun _ => rfl
    · exact refl s
  · split
    · exact of_warps fun _ => rfl
    · exact refl s

theorem dropWaits (s : State) (c k : Nat) (ls : List Nat) : WarpsLook s (dropWaits s c k ls) := by
  refine .trans ?_ (sweepOps _)
  exact of_warps fun _ => rfl

theorem warps_mapV (m : NMap Core) {f : Nat → Core → Core} (h : ∀ j y, (f j y).warps = y.warps) (c : Nat) :
    ((m.mapV f).atD c Core.reset).warps = (m.atD c Core.reset).warps := by
  unfold NMap.atD
  rw [NMap.at?_mapV]
  cases m.at? c with
  | none => rfl
  | some y => exact h c y

theorem killMat (s : State) (n : Nat) : WarpsLook s (killMat s n) := of_warps fun c =>
  warps_mapV s.cores (f := fun _ y => { y with engine := { y.engine with
    pending := y.engine.pending.map (fun m => if m.id = n then { m with more := false } else m) } }) (fun _ _ => rfl) c

theorem freeKept (s : State) (c k : Nat) : WarpsLook s (freeKept s c k) := by
  unfold Machine.freeKept
  split
  · dsimp only
    refine .trans ?_ (modWarp _ c k fun v => ?_)
    · split
      · exact killMat s _
      · exact refl s
    · exact ⟨rfl, rfl, rfl, rfl, rfl⟩
  · exact refl s

end WarpsLook

section

variable {s : State} {c k : Nat} {w v : Warp}

/-- A lane of a warp that returns from a trap. -/
def returnLane (w : Warp) (m : ResumeKind) (at_ : DWord) (l : Nat) (x : Lane) : Lane :=
  if x.pc = at_ && x.wait != .transfer && (maskHas w.doneMask l || m == .skip) then { x with pc := nextPc x.pc, wait := .run }
  else match x.wait with
    | .held => { x with wait := .run }
    | .walk _ _ _ => { x with wait := .run }
    | _ => x

theorem returnLane_kind (m : ResumeKind) (at_ : DWord) (l : Nat) (x : Lane) : (returnLane w m at_ l x).kind = x.kind := by
  unfold returnLane
  split
  · rfl
  · split <;> rfl

theorem returnLane_pc {m : ResumeKind} {at_ : DWord} {l : Nat} {x : Lane} (settled : x.wait ≠ .transfer) :
    (returnLane w m at_ l x).pc = if x.pc = at_ ∧ (maskHas w.doneMask l = true ∨ m = .skip) then nextPc at_ else x.pc := by
  unfold returnLane
  by_cases h : x.pc = at_ ∧ (maskHas w.doneMask l = true ∨ m = .skip)
  · rw [if_pos h, if_pos (by simpa [settled] using h)]
    exact congrArg nextPc h.1
  · rw [if_neg h, if_neg (by simpa [settled] using h)]
    split <;> rfl

theorem returnLane_held {m : ResumeKind} {at_ : DWord} {l : Nat} {x : Lane} (held : x.wait = .held) : (returnLane w m at_ l x).wait = .run := by
  unfold returnLane
  split
  · rfl
  · rw [held]

theorem returnLane_killedBy {m : ResumeKind} {at_ : DWord} {l : Nat} {x : Lane} (alive : x.wait.killedBy = none) :
    (returnLane w m at_ l x).wait.killedBy = none := by
  unfold returnLane
  split
  · rfl
  · split
    · rfl
    · rfl
    · exact alive

/-- The return from a trap of a warp that stood as w does. -/
def returning (w : Warp) (m : ResumeKind) (at_ : DWord) (v : Warp) : Warp :=
  { v with
    trapped := false, dmask := 0, stopped := w.stillStopped m
    lanes := v.present.foldl (fun ls l => ls.put l (returnLane w m at_ l (ls.atD l Lane.never))) v.lanes
    stepping := if m == .step then some (maskOf v.present) else none }

/-- A warp that returns from a trap. -/
def returned (w : Warp) (m : ResumeKind) (at_ : DWord) : Warp := returning w m at_ w

theorem returned_lane (m : ResumeKind) (at_ : DWord) (l : Nat) : (returned w m at_).lanes.atD l Lane.never =
    if l ∈ w.present then returnLane w m at_ l (w.lanes.atD l Lane.never) else w.lanes.atD l Lane.never :=
  NMap.atD_foldl_put (returnLane w m at_) Lane.never (List.nodup_range.filter _) w.lanes l

theorem returned_present (m : ResumeKind) (at_ : DWord) : (returned w m at_).present = w.present := by
  unfold Warp.present
  refine List.filter_congr fun l _ => ?_
  rw [returned_lane]
  split
  · rw [returnLane_kind]
  · rfl

theorem deliverOwed_none (hw : s.warp? c k = some v) (owed : v.owed = []) : deliverOwed s c k = s := by
  unfold deliverOwed
  rw [hw]
  dsimp only
  rw [owed]

theorem deliverKilled_none (hw : s.warp? c k = some v) (alive : ∀ l ∈ v.present, (v.lanes.atD l Lane.never).wait.killedBy = none) :
    deliverKilled s c k = s := by
  have none : v.present.find? (fun l => ((v.lanes.atD l Lane.never).wait.killedBy).isSome) = none :=
    List.find?_eq_none.2 fun l hl => by simp [alive l hl]
  unfold deliverKilled
  rw [hw]
  dsimp only
  rw [none]

end

/-- The instruction at which a stopped warp stands. -/
def Warp.stoppedPc (w : Warp) : DWord := match w.stopped with | some y => y.pc | none => w.trapPc

theorem resumeWarp_eq {s0 : State} {c k : Nat} {w : Warp} (m : ResumeKind) (hw : (s0.modWarp c k Warp.applyPatch).warp? c k = some w)
    (standing : w.present.find? (fun l => !pcOk (w.lanes.atD l Lane.never).pc) = none) : ∃ past : List Nat,
    let s1 := (s0.modWarp c k Warp.applyPatch).modWarp c k (returning w m w.stoppedPc)
    let s2 := dropWaits (if m == .skip then freeKept s1 c k else s1) c k past
    resumeWarp s0 c k m = deliverKilled (deliverOwed (match w.stopped, w.stillStopped m with
      | some y, none => sweepOps (s2.modOp y.op (fun o => { o with more := false }))
      | _, _ => s2) c k) c k := by
  refine ⟨w.present.filter (fun l => ((w.lanes.atD l Lane.never).pc = w.stoppedPc && m == .skip) ||
    (w.lanes.atD l Lane.never).pc != (s0.lane c k l).pc), ?_⟩
  unfold resumeWarp
  dsimp only
  rw [hw]
  dsimp only
  rw [standing]
  rfl

/-- A return whose lanes stand at slots leaves the returned warp. -/
theorem resumeWarp_returns {s0 : State} {c k : Nat} {w : Warp} (m : ResumeKind) (hw : (s0.modWarp c k Warp.applyPatch).warp? c k = some w)
    (owed : w.owed = []) (fine : ∀ l ∈ w.present, pcOk (w.lanes.atD l Lane.never).pc = true)
    (alive : ∀ l ∈ w.present, (w.lanes.atD l Lane.never).wait.killedBy = none) :
    ∃ v, (resumeWarp s0 c k m).warp? c k = some v ∧ LooksLike (returned w m w.stoppedPc) v := by
  have standing : w.present.find? (fun l => !pcOk (w.lanes.atD l Lane.never).pc) = none :=
    List.find?_eq_none.2 fun l hl => by simp [fine l hl]
  have finish (s1 u : State) (h1 : s1.warp? c k = some (returned w m w.stoppedPc))
      (h : WarpsLook s1 u) : ∃ v, (deliverKilled (deliverOwed u c k) c k).warp? c k = some v ∧
        LooksLike (returned w m w.stoppedPc) v := by
    obtain ⟨v, hv, look⟩ := h c k _ h1
    refine ⟨v, ?_, look⟩
    rw [deliverOwed_none hv (look.owed.trans owed), deliverKilled_none hv]
    · exact hv
    · intro l hl
      rw [look.present, returned_present] at hl
      rw [look.lanes, returned_lane, if_pos hl]
      exact returnLane_killedBy (alive l hl)
  have waits (z : State) (L : List Nat) : WarpsLook z (dropWaits (if m == .skip then freeKept z c k else z) c k L) := by
    refine .trans ?_ (WarpsLook.dropWaits _ c k L)
    split
    · exact WarpsLook.freeKept z c k
    · exact .refl z
  obtain ⟨past, eq⟩ := resumeWarp_eq m hw standing
  rw [eq]
  refine finish ((s0.modWarp c k Warp.applyPatch).modWarp c k (returning w m w.stoppedPc)) _ ?_ ?_
  · rw [State.warp?_modWarp_self, hw]
    rfl
  · split
    · refine (waits _ past).trans (.trans ?_ (WarpsLook.sweepOps _))
      exact WarpsLook.of_warps fun _ => rfl
    · exact waits _ past

/-- Settles O36: the lanes by `returnLane`; what follows leaves the warp alone, `WarpsLook`. -/
theorem returnFromTrap : Obligations.ReturnFromTrap := by
  intro s c k w0 m hw0 w owed fine lanes hk at_ done
  have hw : (s.modWarp c k Warp.applyPatch).warp? c k = some w := by rw [State.warp?_modWarp_self, hw0]; rfl
  obtain ⟨v, hv, look⟩ := resumeWarp_returns m hw owed fine fun l hl => by
    obtain ⟨-, -, -, alive⟩ := lanes l hl
    exact alive
  have lane (l : Nat) (hl : l ∈ w.present) : v.lanes.atD l Lane.never = returnLane w m at_ l (w.lanes.atD l Lane.never) := by
    rw [look.lanes, returned_lane, if_pos hl]
    rfl
  refine ⟨v, hv, look.trapped, look.dmask, look.stepping.trans ?_, fun l hl => ?_, fun l hl held => ?_⟩
  · cases m <;> rfl
  · obtain ⟨-, -, settled, -⟩ := lanes l hl
    rw [lane l hl]
    exact returnLane_pc settled
  · rw [lane l hl]
    exact returnLane_held held

end Sys2Proof.Machine
end

section
/-! PROOFS. Reading and checking a launch record. -/

namespace Sys2Proof.Machine

/-! ## Tables that a walk outside the dies reads -/

section

variable {s t : State}

theorem walkLevel_congr (mem : t.mem = s.mem) (ctx va n lv tab : Nat) :
    walkLevel t none ctx va n lv tab = walkLevel s none ctx va n lv tab := by
  induction n generalizing lv tab with
  | zero => rfl
  | succ n ih =>
    unfold walkLevel walkRead
    simp only [ih, mem]

/-- A walk of no die reads memory and the context table's base alone. -/
theorem walk_congr (mem : t.mem = s.mem) (xl : t.xl = s.xl) (ctx va : Nat) : walk t ctx va = walk s ctx va := by
  unfold walk walkBy walkRead
  simp only [walkLevel_congr mem, mem, xl]

theorem readWait_congr (mem : t.mem = s.mem) (xl : t.xl = s.xl) (fab : t.fab = s.fab) (x : Launch) (i : Nat) : readWait t x i = readWait s x i := by
  unfold readWait leafFault spanMember pkgLive
  simp only [walk_congr mem xl, mem, fab]

end

theorem lq_modLq (s : State) (q : Nat) (f : LQueue → LQueue) : (s.modLq q f).lq q = f (s.lq q) := by
  simp [State.modLq, State.lq]

/-! ## Heads (R149, R151) -/

section

variable {s : State} {q id : Nat} {x : Launch}

/-- The head of an enabled queue that holds a record and has none under way is read. -/
theorem takeHead_of (on : (s.lq q).enable = true) (free : s.pre.active.getLsbD q = false) (idle : (s.lq q).current = none)
    (holds : (s.lq q).held ≠ 0) : takeHead s q =
    if !ctxUsable s (s.lq q).ctx then reject s q 0x16 none
    else match donePlace s (s.lq q).ctx ((newLaunch s q).fld 0x58 8) with
      | none => reject s q 0x10 none
      | some pa => { s with fresh := s.fresh + 1, launches := s.launches.put s.fresh { newLaunch s q with donePa := pa } }.modLq q
          (fun y => { y with current := some s.fresh }) := by
  have go : ¬ (!(s.lq q).enable || s.pre.active.getLsbD q || (s.lq q).current.isSome || decide ((s.lq q).held = 0)) = true := by
    simp [on, free, idle, holds]
  unfold takeHead
  exact if_neg go

section

variable (cur : (s.lq q).current = some id) (here : s.launches.at? id = some x) (new : x.checked = false) (on : (s.lq q).enable = true)
  (free : s.pre.active.getLsbD q = false)
include cur here new on free

theorem pollHead_of : pollHead s q =
    if ((List.range 4).filter (fun i => !x.waits.getLsbD i)).any (fun i => readWait s x i == .bad) then reject s q 0x10 (some x)
    else ((List.range 4).filter (fun i => !x.waits.getLsbD i)).foldl (fun s i => match readWait s x i with
      | .yes => s.modLaunch id (fun x => { x with waits := x.waits ||| (1#4 <<< i) })
      | .ask p pa => if x.polls.contains i then s else
        sendPacket (s.modLaunch id (fun x => { x with polls := i :: x.polls })) { hdr := mkHdr 0 s.fab.index p 0 0 4 pa 0 (waitTag id i), payload := [] }
      | _ => s) s := by
  have go : ¬ (x.checked || !(s.lq q).enable || s.pre.active.getLsbD q) = true := by simp [new, on, free]
  unfold pollHead
  rw [cur]
  dsimp only
  rw [here]
  exact if_neg go

theorem pollHead_bad {i : Nat} (hi : i < 4) (left : x.waits.getLsbD i = false) (bad : readWait s x i = .bad) :
    pollHead s q = reject s q 0x10 (some x) := by
  rw [pollHead_of cur here new on free, if_pos]
  exact List.any_eq_true.2 ⟨i, List.mem_filter.2 ⟨List.mem_range.2 hi, by simp [left]⟩, by simp [bad]⟩

theorem pollHead_done (done : x.waits = 0xF) : pollHead s q = s := by
  have none : (List.range 4).filter (fun i => !x.waits.getLsbD i) = [] := by rw [done]; rfl
  rw [pollHead_of cur here new on free, none]
  rfl

theorem checkHead_of (done : x.waits = 0xF) :
    checkHead s q = match checkStatus s x with | some st => reject s q st (some x) | none => takeRecord s id x := by
  have go : ¬ (x.checked || x.waits != 0xF || !(s.lq q).enable || s.pre.active.getLsbD q) = true := by simp [new, on, free, done]
  unfold checkHead
  rw [cur]
  dsimp only
  rw [here]
  exact if_neg go

end

/-- Wait words that are satisfied are noted in the launch. -/
theorem foldl_waits {y : Launch} (L : List Nat) : ∀ t : State, t.mem = s.mem → t.xl = s.xl → t.fab = s.fab →
    t.launches.at? id = some y → (∀ i ∈ L, readWait s x i = .yes) →
    ((L.foldl (fun s i => match readWait s x i with
      | .yes => s.modLaunch id (fun x => { x with waits := x.waits ||| (1#4 <<< i) })
      | .ask p pa => if x.polls.contains i then s else
        sendPacket (s.modLaunch id (fun x => { x with polls := i :: x.polls })) { hdr := mkHdr 0 s.fab.index p 0 0 4 pa 0 (waitTag id i), payload := [] }
      | _ => s) t).launches.at? id).map Launch.waits = some (L.foldl (fun b i => b ||| (1#4 <<< i)) y.waits) := by
  induction L generalizing y with
  | nil =>
    intro t _ _ _ hy _
    exact congrArg (Option.map Launch.waits) hy
  | cons i L ih =>
    intro t mem xl fab hy yes
    rw [List.foldl_cons, readWait_congr mem xl fab, yes i (.head _)]
    refine ih (y := { y with waits := y.waits ||| (1#4 <<< i) }) _ mem xl fab ?_ fun j hj => yes j (.tail _ hj)
    simp [State.modLaunch, hy]

theorem pollHead_yes (cur : (s.lq q).current = some id) (here : s.launches.at? id = some x) (new : x.checked = false) (on : (s.lq q).enable = true)
    (free : s.pre.active.getLsbD q = false) (none : x.waits = 0) (yes : ∀ i, i < 4 → readWait s x i = .yes) :
    ((pollHead s q).launches.at? id).map Launch.waits = some 0xF := by
  have all : (List.range 4).filter (fun i => !x.waits.getLsbD i) = [0, 1, 2, 3] := by rw [none]; rfl
  have fine : ¬ ([0, 1, 2, 3] : List Nat).any (fun i => readWait s x i == .bad) = true := by
    simp [yes 0 (by omega), yes 1 (by omega), yes 2 (by omega), yes 3 (by omega)]
  rw [pollHead_of cur here new on free, all, if_neg fine]
  refine (foldl_waits [0, 1, 2, 3] s rfl rfl rfl here fun i hi => yes i ?_).trans ?_
  · simp at hi
    omega
  · rw [none]
    rfl

theorem takeRecord_checked (here : s.launches.at? id = some x) : ∃ y, (takeRecord s id x).launches.at? id = some y ∧ y.checked = true := by
  have launches : (if x.flag 5 then dropLate s x else s).launches = s.launches := by split <;> rfl
  unfold takeRecord
  extract_lets lowest s1 s2
  have h1 : s1.launches.at? id = some { x with
      checked := true
      counter := if x.flag 5 then (membersIn (x.coll 2 2)).length * (chunksHere s x).length else 0
      population := if x.flag 6 then some (x.pop 0 1) else none
      token := if x.repro && lowest then some 0 else none } := by
    simp [s1, State.modLaunch, launches, here]
  have h2 : s2.launches = s1.launches := by unfold s2; split <;> rfl
  have h3 := (congrArg (NMap.at? · id) h2).trans h1
  split
  · exact ⟨_, h3, rfl⟩
  · exact ⟨_, h3, rfl⟩

/-- What a rejection leaves (R144, R149). -/
theorem lq_reject (n : Nat) : (reject s q n (some x)).lq q = { s.lq q with
    status := BitVec.ofNat 8 n, finished := (s.lq q).finished + 1, head := ((s.lq q).head + 1) % (s.lq q).slots, current := none } := by
  unfold reject
  dsimp only
  rw [lq_modLq]
  split <;> rfl

theorem mem_reject (n : Nat) : (reject s q n (some x)).mem = Mem.wr s.mem x.donePa 8 (n + 2 ^ 32 * x.course) := by
  unfold reject
  dsimp only
  split <;> rfl

theorem checkStatus_eq (s : State) (x : Launch) : checkStatus s x = [(recordInvalid s x, 0x10), (partitionInvalid x, 0x11), (tooLarge x, 0x12),
    ((x.flag 7 || x.repro) && decide (x.capacity < x.total) && !(x.flag 0 && x.flag 1), 0x13), (x.flag 5 && collectiveInvalid s x, 0x14),
    (x.flag 6 && populationInvalid s x, 0x15)].findSome? (fun e => if e.1 then some e.2 else none) := by
  unfold checkStatus Launch.swaps
  simp only [List.findSome?_cons, List.findSome?_nil]
  split_ifs <;> rfl

end

/-- Settles O47: each step by the equation of the function that takes it. -/
theorem launchRecords : Obligations.LaunchRecords := by
  refine ⟨fun s => ?_, ?_, ?_, checkStatus_eq, ?_, ?_⟩
  · refine congrArg Host.Outcome.next ?_
    unfold pollAll
    cases s.ready <;> rfl
  · intro s q y on free idle holds
    have head := takeHead_of on free idle holds
    refine ⟨fun bad => ?_, fun good none => ?_, fun pa good place => ?_⟩ <;> rw [head]
    · rw [show ctxUsable s (s.lq q).ctx = false from bad]
      rfl
    · rw [show ctxUsable s (s.lq q).ctx = true from good, show donePlace s (s.lq q).ctx _ = _ from none]
      rfl
    · rw [show ctxUsable s (s.lq q).ctx = true from good, show donePlace s (s.lq q).ctx _ = _ from place]
      rfl
  · intro s q id x cur here new on free
    refine ⟨?_, fun none yes => ?_, pollHead_done cur here new on free, fun done => ?_⟩
    · rintro ⟨i, hi, left, bad⟩
      exact pollHead_bad cur here new on free hi left bad
    · obtain ⟨y, hy, waits⟩ := Option.map_eq_some_iff.1 (pollHead_yes cur here new on free none yes)
      exact ⟨y, hy, waits⟩
    · have check := checkHead_of cur here new on free done
      refine ⟨fun n bad => ?_, fun good => ?_⟩
      · rw [check, bad]
      · rw [good] at check
        exact ⟨check, check ▸ takeRecord_checked here⟩
  · intro s q n x _ t
    have queue : t.lq q = _ := lq_reject n
    exact ⟨mem_reject n, by rw [queue], by rw [queue], by rw [queue], by rw [queue]⟩
  · intro s x i address aligned e bits pa region leaf fault place
    unfold readWait
    simp only [address, aligned, region, leaf, fault, place, if_false, bne_self_eq_false, Bool.false_eq_true, Option.isSome_none]

end Sys2Proof.Machine
end

section
/-! PROOFS. Placing workgroups. -/

namespace Sys2Proof.Machine

/-! ## The cores that a workgroup is offered (R44, R155) -/

/-- A choice of n from a list is a sublist of that length. -/
theorem choose_sublist {l c : List Nat} {n : Nat} (h : c ∈ choose n l) : c.Sublist l ∧ c.length = n := by
  induction l generalizing n c with
  | nil =>
    cases n with
    | zero => simp [choose] at h; simp [h]
    | succ n => simp [choose] at h
  | cons a l ih =>
    cases n with
    | zero => simp [choose] at h; simp [h]
    | succ n =>
      rw [choose, List.mem_append, List.mem_map] at h
      rcases h with ⟨d, hd, rfl⟩ | h
      · obtain ⟨sub, len⟩ := ih hd
        exact ⟨sub.cons_cons a, congrArg (· + 1) len⟩
      · obtain ⟨sub, len⟩ := ih h
        exact ⟨sub.cons a, len⟩

theorem nodup_clusterCores (cl : Nat) : (clusterCores cl).Nodup :=
  List.nodup_range.map fun a b h => by simpa using h

theorem mem_clusterCores {cl c : Nat} (h : c ∈ clusterCores cl) : c / 4 = cl := by
  obtain ⟨i, hi, rfl⟩ := List.mem_map.1 h
  have := List.mem_range.1 hi
  omega

/-- The workgroup goes to as many cores of one cluster as it needs, each of which accepts it. -/
theorem placeWg_some {s t : State} {idle : Bool} {id g : Nat} {x : Launch} (h : placeWg s idle id x g = some t) :
    ∃ cores cl, cores.length = x.cpw ∧ cores.Nodup ∧ (∀ c ∈ cores, c / 4 = cl ∧ accepts s idle id x c = true) ∧
      seatWg s id x g cores = some t := by
  obtain ⟨cores, offered, seated⟩ := List.exists_of_findSome?_eq_some h
  obtain ⟨cl, -, chosen⟩ := List.mem_flatMap.1 offered
  obtain ⟨sub, len⟩ := choose_sublist chosen
  refine ⟨cores, cl, len, sub.nodup ((nodup_clusterCores cl).filter _), fun c hc => ?_, seated⟩
  obtain ⟨inCluster, ok⟩ := List.mem_filter.1 (sub.subset hc)
  exact ⟨mem_clusterCores inCluster, ok⟩

/-! ## Seating its warps (R137) -/

theorem writeBack_wgs (s : State) (c : Nat) (l : CacheLine) : (writeBack s c l).wgs = s.wgs := by
  unfold writeBack sendHome
  split
  · rfl
  · split
    · rfl
    · show (l2Access _ _ _ _ _).wgs = _
      simp

theorem wgs_foldl {α : Type} (f : State → α → State) (h : ∀ s a, (f s a).wgs = s.wgs) (L : List α) (s : State) : (L.foldl f s).wgs = s.wgs := by
  induction L generalizing s with
  | nil => rfl
  | cons a L ih => exact (ih _).trans (h s a)

theorem dropLines_wgs (s : State) (c : Nat) (p : CacheLine → Bool) : (dropLines s c p).wgs = s.wgs := by
  unfold dropLines
  exact wgs_foldl _ (fun s l => writeBack_wgs s c l) _ s

theorem publishCore_kept (s : State) (c : Nat) : StoresAndWarpsKept s (publishCore s c) :=
  (storesAndWarpsKept_of_cores rfl).trans (storesAndWarpsKept_modCore _ c _ fun _ => ⟨rfl, rfl⟩)

theorem StoresAndWarpsKept.modLaunch {s t : State} (h : StoresAndWarpsKept s t) (id : Nat) (f : Launch → Launch) :
    StoresAndWarpsKept s (t.modLaunch id f) := h

/-- Starting a launch on a core leaves its warps and the workgroups alone. -/
theorem loadPart_kept (s : State) (c id : Nat) (part : Word) : StoresAndWarpsKept s (loadPart s c id part) ∧ (loadPart s c id part).wgs = s.wgs := by
  have dropped := dropLines_kept s c (fun _ => true)
  have groups := dropLines_wgs s c (fun _ => true)
  have published (u : State) (h : StoresAndWarpsKept s u ∧ u.wgs = s.wgs) : StoresAndWarpsKept s (if (u.core c).dirtyPkg = [] then u else publishCore u c) ∧
      (if (u.core c).dirtyPkg = [] then u else publishCore u c).wgs = s.wgs := by
    split
    · exact h
    · exact ⟨h.1.trans (publishCore_kept u c), h.2⟩
  obtain ⟨kept, same⟩ := published _ ⟨dropped, groups⟩
  unfold loadPart
  extract_lets s1 s2
  refine ⟨.modLaunch (kept.trans (storesAndWarpsKept_modCore s2 c _ fun _ => ?_)) _ _, same⟩
  exact ⟨rfl, rfl⟩

theorem openSides_kept (s : State) (g : Nat) : StoresAndWarpsKept s (openSides s g) ∧ (openSides s g).wgs = s.wgs := by
  unfold openSides
  split
  · next y _ _ =>
    dsimp only
    generalize (y.cores.foldl _ (0 : BitVec 1024)) = m
    refine ⟨storesAndWarpsKept_foldl _ (fun s c => storesAndWarpsKept_modCore s c _ fun _ => ?_) _ s, ?_⟩
    · exact ⟨rfl, rfl⟩
    · refine wgs_foldl _ (fun _ _ => ?_) _ s
      rfl
  · exact ⟨.refl s, rfl⟩

section

variable {id wg : Nat} {x : Launch} {cores : List Nat}

/-- The warp in a slot is warp p of the workgroup, with the registers that the launch asks for. -/
def IsWarp (id wg : Nat) (x : Launch) (p : Nat) (w : Warp) : Prop := w.launch = id ∧ w.wg = wg ∧ w.warpid = p ∧ w.regs = x.regs

/-- The first p warps of the workgroup are resident. -/
def Seated (id wg : Nat) (x : Launch) (cores : List Nat) (s : State) (p : Nat) : Prop :=
  ∀ q, q < p → ∃ c ∈ cores, ∃ k w, k < 48 ∧ s.warp? c k = some w ∧ IsWarp id wg x q w

theorem Seated.mono {s : State} {p q : Nat} (h : Seated id wg x cores s p) (hq : q ≤ p) : Seated id wg x cores s q :=
  fun r hr => h r (by omega)

theorem Seated.keep {s t : State} {p : Nat} (h : Seated id wg x cores s p) (kept : ∀ c k w, s.warp? c k = some w → t.warp? c k = some w) :
    Seated id wg x cores t p := fun q hq => by
  obtain ⟨c, hc, k, w, hk, hw, is⟩ := h q hq
  exact ⟨c, hc, k, w, hk, kept c k w hw, is⟩

theorem StoresAndWarpsKept.warp? {s t : State} (h : StoresAndWarpsKept s t) (c k : Nat) : t.warp? c k = s.warp? c k :=
  congrArg (NMap.at? · k) (h c).2

theorem freeSlot_some {s : State} {c k : Nat} (h : freeSlot s c = some k) : k < 48 ∧ s.warp? c k = none := by
  have free := List.find?_some h
  simp only [slotFree, Bool.and_eq_true, decide_eq_true_eq, Option.isNone_iff_eq_none] at free
  obtain ⟨⟨⟨hk, empty⟩, -⟩, -⟩ := free
  exact ⟨hk, empty⟩

/-- A warp seated in a free slot, with its registers cleared and its stream, beside the warps that were there. -/
theorem warp?_seatWarp (s : State) (c k : Nat) (w : Warp) (f : Core → Core) (hf : ∀ y, (f y).warps = y.warps) (b j : Nat) :
    (seatWarp (s.modCore c f) c k w).warp? b j = if b = c ∧ j = k then some { w with lastIssue := s.tick } else s.warp? b j := by
  unfold seatWarp State.warp?
  rw [State.core_modCore]
  by_cases hb : b = c
  · subst hb
    rw [if_pos rfl, State.core_modCore_self]
    dsimp only
    rw [hf, NMap.at?_put]
    simp
  · rw [if_neg hb, State.core_modCore, if_neg hb, if_neg (fun e => hb e.1)]

/-- The warps from p on find room on the cores, beside those before. -/
theorem seatFrom_some (n : Nat) : ∀ (s : State) (cs : List Nat) (p : Nat) (t : State), cs ⊆ cores → Seated id wg x cores s p →
    seatFrom id wg x n s cs p = some t → Seated id wg x cores t x.warps ∧ t.wgs = s.wgs := by
  induction n with
  | zero => intro s cs p t _ _ h; simp [seatFrom] at h
  | succ n ih =>
    intro s cs p t sub seated h
    cases cs with
    | nil => simp [seatFrom] at h
    | cons c cs =>
      unfold seatFrom at h
      split at h
      · next all =>
        rw [← Option.some.inj h]
        exact ⟨seated.mono all, rfl⟩
      extract_lets s1 at h
      have loaded : StoresAndWarpsKept s s1 ∧ s1.wgs = s.wgs := by
        unfold s1
        split
        · exact ⟨.refl s, rfl⟩
        · exact loadPart_kept ..
      split at h
      case h_2 =>
        obtain ⟨done, same⟩ := ih s cs p t (fun d hd => sub (.tail _ hd)) seated h
        exact ⟨done, same⟩
      next k b slot room =>
        extract_lets w s2 s3 at h
        obtain ⟨hk, empty⟩ := freeSlot_some slot
        have warps (d j : Nat) : s3.warp? d j = if d = c ∧ j = k then some { w with lastIssue := s1.tick } else s.warp? d j := by
          have h2 := warp?_seatWarp s1 c k w (fun y => { y with store := Mem.clear y.store b (128 * x.regs) }) (fun _ => rfl) d j
          rw [loaded.1.warp?] at h2
          unfold s3
          split
          · exact ((storesAndWarpsKept_modCore s2 c (fun y => { y with streams := y.streams.put k (startStreamState x id wg) })
              fun _ => ⟨rfl, rfl⟩).warp? d j).trans h2
          · exact h2
        have same : s3.wgs = s.wgs := by
          refine Eq.trans ?_ loaded.2
          unfold s3
          split <;> rfl
        have seated3 : Seated id wg x cores s3 (p + 1) := by
          intro q hq
          by_cases last : q = p
          · exact ⟨c, sub (.head _), k, _, hk, (warps c k).trans (if_pos ⟨rfl, rfl⟩), rfl, rfl, last.symm, rfl⟩
          · refine (seated.keep fun d j v hv => ?_) q (by omega)
            rw [warps, if_neg]
            · exact hv
            · rintro ⟨rfl, rfl⟩
              rw [← loaded.1.warp?, empty] at hv
              cases hv
        split at h
        · next last =>
          rw [← Option.some.inj h]
          exact ⟨seated3.mono (by omega), same⟩
        · obtain ⟨done, kept⟩ := ih s3 (c :: cs) (p + 1) t sub seated3 h
          exact ⟨done, kept.trans same⟩

end

theorem seatWg_some {s t : State} {id g : Nat} {x : Launch} {cores : List Nat} (h : seatWg s id x g cores = some t) :
    t.wgs.at? s.fresh = some (newWg id x g cores) ∧ Seated id s.fresh x cores t x.warps := by
  obtain ⟨u, seats, rfl⟩ := Option.map_eq_some_iff.1 h
  obtain ⟨all, same⟩ := seatFrom_some _ _ cores 0 u (fun _ hc => hc) (fun q hq => absurd hq (Nat.not_lt_zero q)) seats
  obtain ⟨kept, groups⟩ := openSides_kept u s.fresh
  refine ⟨?_, all.keep fun c k w hw => (kept.warp? c k).trans hw⟩
  rw [groups, same]
  exact NMap.at?_put_self ..

/-! ## Several workgroups, and whose turn it is (R146, R157) -/

theorem placeAll_eq (idle : Bool) (id : Nat) (x : Launch) (n : Nat) : ∀ (s : State) (g : Nat),
    placeAll idle id x n s g = (List.range n).foldlM (fun u i => placeWg u idle id x (g + i)) s := by
  induction n with
  | zero => exact fun _ _ => rfl
  | succ n ih =>
    intro s g
    rw [List.range_succ_eq_map, List.foldlM_cons, placeAll]
    refine congrArg (Option.bind (placeWg s idle id x g)) (funext fun u => (ih u (g + 1)).trans (.trans ?_ List.foldlM_map.symm))
    exact congrArg (fun f => List.foldlM f u (List.range n)) (funext fun v => funext fun i => by rw [Nat.succ_eq_add_one, Nat.add_assoc, Nat.add_comm 1 i])

theorem serveRedo_none {s : State} (h : ∀ e ∈ s.launches, e.2.redo = []) : serveRedo s = none := by
  unfold serveRedo
  refine List.findSome?_eq_none_iff.2 fun e he => ?_
  rw [h e he]

theorem serve_some {s t : State} {level : Nat} (h : serve s level = some t) : ∃ q, q < 64 ∧ (s.lq q).level = level ∧
    ∃ u, placeHead s (idleFor s level) q = some u ∧ t = { u with dispLast := u.dispLast.put level q } := by
  obtain ⟨q, turn, place⟩ := List.exists_of_findSome?_eq_some h
  obtain ⟨inRing, ofLevel⟩ := List.mem_filter.1 turn
  obtain ⟨i, -, rfl⟩ := List.mem_map.1 inRing
  obtain ⟨u, head, rfl⟩ := Option.map_eq_some_iff.1 place
  exact ⟨_, Nat.mod_lt _ (by omega), of_decide_eq_true ofLevel, u, head, rfl⟩

theorem placeHead_of {s : State} {q id : Nat} {x : Launch} (cur : (s.lq q).current = some id) (here : s.launches.at? id = some x)
    (checked : x.checked = true) (alive : x.killed = false) (free : s.pre.active.getLsbD q = false) (plain : x.repro = false) (idle : Bool) :
    placeHead s idle q = if x.flag 7 && !(x.flag 0 && x.flag 1) then (placeAll idle id x x.total s 0).map (fun u => placed u id q x.total)
      else (placeWg s idle id x x.next).map (fun u => placed u id q 1) := by
  have ready : readyHead s q = some (id, x) := by
    unfold readyHead
    rw [cur]
    dsimp only
    rw [here]
    simp [checked, free, plain]
  unfold placeHead Launch.gang
  simp only [ready, alive, plain, Bool.or_false, Bool.false_eq_true, if_false]

/-- Settles O48: the choice of cores by `placeWg_some`, the seating by induction over the warps, `seatFrom_some`. -/
theorem placement : Obligations.Placement := by
  refine ⟨fun s idle id x g t h => ?_, fun idle id x n s g => placeAll_eq idle id x n s g, fun s off => ?_, fun s on settled fresh => ?_⟩
  · obtain ⟨cores, cl, len, nodup, offered, seats⟩ := placeWg_some h
    obtain ⟨group, seated⟩ := seatWg_some seats
    exact ⟨cores, cl, len, nodup, offered, ⟨_, group, rfl, rfl, rfl, rfl, rfl, rfl, rfl⟩, seated⟩
  · exact congrArg Host.Outcome.next (if_pos (by rw [off]; rfl))
  · refine ⟨?_, fun level t => serve_some, fun q id x cur here checked alive free plain idle => placeHead_of cur here checked alive free plain idle⟩
    have heads : (List.range Config.queues).foldl (fun s q => checkHead (pollHead (takeHead s q) q) q) s = s := settled
    unfold exec execDispatchWorkgroup
    rw [heads]
    dsimp only
    rw [on, serveRedo_none fresh]
    rfl

end Sys2Proof.Machine
end

section
/-!
PROOFS. Resampling (R315): the targets of the draw are dealt to the intervals of the weights, and the vacant slots and the surplus
offspring are as many, so that the clones pair them off.
-/

namespace Sys2Proof.Machine

/-- How many of the targets fall in each weight's interval, the first interval beginning at `a`. -/
def dealt (ts : List Nat) : List Nat → Nat → List Nat
  | [], _ => []
  | v :: vs, a => (ts.filter (fun t => a ≤ t && t < a + v)).length :: dealt ts vs (a + v)

/-- The targets of step 5 of R315. -/
def drawTargets (ns : List Nat) (u n : Nat) : List Nat := (List.range n).map (fun k => (k * 2 ^ 32 + u) * ns.sum / (n * 2 ^ 32))

theorem foldl_dealt (ts ns : List Nat) : ∀ (a : Nat) (done : List Nat),
    (ns.foldl (fun (r : Nat × List Nat) v => (r.1 + v, (ts.filter (fun t => r.1 ≤ t && t < r.1 + v)).length :: r.2)) (a, done)).2.reverse =
      done.reverse ++ dealt ts ns a := by
  induction ns with
  | nil => intro a done; simp [dealt]
  | cons v vs ih => intro a done; rw [List.foldl_cons, ih]; simp [dealt]

theorem popOffspring_eq (ns : List Nat) (u n : Nat) : popOffspring ns u n = dealt (drawTargets ns u n) ns 0 := by
  unfold popOffspring drawTargets
  rw [List.sum_eq_foldl]
  exact foldl_dealt _ ns 0 []

theorem length_dealt (ts ns : List Nat) : ∀ a, (dealt ts ns a).length = ns.length := by
  induction ns with
  | nil => intro a; rfl
  | cons v vs ih => intro a; simp [dealt, ih]

/-- A weight of 0 has an empty interval. -/
theorem dealt_zero (ts ns : List Nat) : ∀ (a i : Nat), ns.getD i 0 = 0 → (dealt ts ns a).getD i 0 = 0 := by
  induction ns with
  | nil => intro a i _; rfl
  | cons v vs ih =>
    intro a i zero
    cases i with
    | zero =>
      have none : v = 0 := zero
      subst none
      have empty : ts.filter (fun t => a ≤ t && t < a + 0) = [] := List.filter_eq_nil_iff.2 fun t _ => by simp
      exact congrArg List.length empty
    | succ i => exact ih (a + v) i zero

/-- Each target below the end of the last interval is counted once. -/
theorem sum_dealt (ts ns : List Nat) : ∀ a, (dealt ts ns a).sum = (ts.filter (fun t => a ≤ t && t < a + ns.sum)).length := by
  induction ns with
  | nil =>
    intro a
    have empty : ts.filter (fun t => a ≤ t && t < a + [].sum) = [] := List.filter_eq_nil_iff.2 fun t _ => by simp
    exact (congrArg List.length empty).symm
  | cons v vs ih =>
    intro a
    rw [dealt, List.sum_cons, ih, List.sum_cons]
    simp only [← List.countP_eq_length_filter]
    clear ih
    induction ts with
    | nil => rfl
    | cons t ts counted =>
      simp only [List.countP_cons, Bool.and_eq_true, decide_eq_true_eq]
      split <;> split <;> split <;> omega

theorem drawTargets_lt {ns : List Nat} {u n t : Nat} (draw : u < 2 ^ 32) (pos : 0 < ns.sum) (h : t ∈ drawTargets ns u n) : t < ns.sum := by
  obtain ⟨k, below, rfl⟩ := List.mem_map.1 h
  have k_lt : k < n := List.mem_range.1 below
  have all : k * 2 ^ 32 + u < n * 2 ^ 32 := by omega
  exact Nat.div_lt_of_lt_mul (Nat.mul_lt_mul_of_pos_right all pos)

theorem sum_popOffspring {ns : List Nat} {u n : Nat} (draw : u < 2 ^ 32) (pos : 0 < ns.sum) : (popOffspring ns u n).sum = n := by
  rw [popOffspring_eq, sum_dealt, List.filter_eq_self.2 fun t ht => by simpa using drawTargets_lt draw pos ht]
  simp [drawTargets]

/-- Slots without offspring. -/
def vacant (os sl : List Nat) : List Nat := sl.filter (fun i => os.getD i 0 = 0)

/-- Slots with more than one offspring, once for each beyond the first. -/
def surplus (os sl : List Nat) : List Nat := sl.flatMap (fun i => List.replicate (os.getD i 0 - 1) i)

theorem vacant_flatten (os : List Nat) (pkgs : List (List Nat)) : pkgs.flatMap (vacant os) = vacant os pkgs.flatten := by
  rw [List.flatMap_def, vacant, List.filter_flatten]
  rfl

theorem surplus_flatten (os : List Nat) (pkgs : List (List Nat)) : pkgs.flatMap (surplus os) = surplus os pkgs.flatten := by
  unfold surplus
  induction pkgs with
  | nil => rfl
  | cons p ps ih => rw [List.flatMap_cons, List.flatten_cons, List.flatMap_append, ih]

/-- Pairing off leaves what is too many of either. -/
theorem zip_fst_append_drop (as bs : List Nat) : (as.zip bs).map Prod.fst ++ as.drop bs.length = as := by
  induction as generalizing bs with
  | nil => simp
  | cons a as ih => cases bs with
    | nil => rfl
    | cons b bs => exact congrArg (a :: ·) (ih bs)

theorem zip_snd_append_drop (as bs : List Nat) : (as.zip bs).map Prod.snd ++ bs.drop as.length = bs := by
  induction as generalizing bs with
  | nil => rfl
  | cons a as ih => cases bs with
    | nil => rfl
    | cons b bs => exact congrArg (b :: ·) (ih bs)

theorem length_vacant_add_sum (os sl : List Nat) : (vacant os sl).length + (sl.map (fun i => os.getD i 0)).sum = (surplus os sl).length + sl.length := by
  induction sl with
  | nil => rfl
  | cons i sl ih =>
    simp only [vacant, surplus, List.filter_cons, List.flatMap_cons, List.map_cons, List.sum_cons, List.length_append, List.length_replicate,
      List.length_cons] at ih ⊢
    split
    · next h =>
      have zero : os.getD i 0 = 0 := of_decide_eq_true h
      rw [List.length_cons]
      omega
    · next h =>
      have some : os.getD i 0 ≠ 0 := fun e => h (decide_eq_true e)
      omega

theorem map_getD_range (os : List Nat) : (List.range os.length).map (fun i => os.getD i 0) = os := by
  refine List.ext_getElem (by simp) fun i _ h => ?_
  rw [List.getElem_map, List.getElem_range, List.getD_eq_getElem _ _ h]

/-- As many slots are vacant as there are offspring beyond the first of their slots. -/
theorem length_vacant {os : List Nat} {n : Nat} (len : os.length = n) (sum : os.sum = n) :
    (vacant os (List.range n)).length = (surplus os (List.range n)).length := by
  have all := length_vacant_add_sum os (List.range n)
  rw [← len, map_getD_range, sum, List.length_range, len] at all
  omega

theorem popClones_eq (os : List Nat) (pkgs : List (List Nat)) : popClones os pkgs =
    pkgs.flatMap (fun sl => (vacant os sl).zip (surplus os sl)) ++
      (pkgs.flatMap (fun sl => (vacant os sl).drop (surplus os sl).length)).zip (pkgs.flatMap (fun sl => (surplus os sl).drop (vacant os sl).length)) := by
  unfold popClones
  simp only [List.flatMap_map]
  rfl

/-- Pairing off by package first leaves the same slots in all. -/
theorem vacant_perm (os : List Nat) (pkgs : List (List Nat)) :
    ((pkgs.flatMap fun sl => (vacant os sl).zip (surplus os sl)).map Prod.fst ++ pkgs.flatMap (fun sl => (vacant os sl).drop (surplus os sl).length)).Perm
      (vacant os pkgs.flatten) := by
  rw [← vacant_flatten, List.map_flatMap]
  refine (List.flatMap_append_perm pkgs _ _).trans (.of_eq ?_)
  simp only [zip_fst_append_drop]

theorem surplus_perm (os : List Nat) (pkgs : List (List Nat)) :
    ((pkgs.flatMap fun sl => (vacant os sl).zip (surplus os sl)).map Prod.snd ++ pkgs.flatMap (fun sl => (surplus os sl).drop (vacant os sl).length)).Perm
      (surplus os pkgs.flatten) := by
  rw [← surplus_flatten, List.map_flatMap]
  refine (List.flatMap_append_perm pkgs _ _).trans (.of_eq ?_)
  simp only [zip_snd_append_drop]

/-- Where vacancies and surplus are as many in all, so is what the packages leave over. -/
theorem popClones_perm {os : List Nat} {pkgs : List (List Nat)} (even : (vacant os pkgs.flatten).length = (surplus os pkgs.flatten).length) :
    ((popClones os pkgs).map Prod.fst).Perm (vacant os pkgs.flatten) ∧ ((popClones os pkgs).map Prod.snd).Perm (surplus os pkgs.flatten) := by
  have slots := vacant_perm os pkgs
  have sources := surplus_perm os pkgs
  have leftover : (pkgs.flatMap (fun sl => (vacant os sl).drop (surplus os sl).length)).length =
      (pkgs.flatMap (fun sl => (surplus os sl).drop (vacant os sl).length)).length := by
    have count := slots.length_eq
    have count' := sources.length_eq
    rw [List.length_append, List.length_map] at count count'
    omega
  rw [popClones_eq, List.map_append, List.map_append, List.map_fst_zip leftover.le, List.map_snd_zip leftover.ge]
  exact ⟨slots, sources⟩

theorem mem_vacant_range {os : List Nat} {n i : Nat} (h : i < n) : i ∈ vacant os (List.range n) ↔ os.getD i 0 = 0 := by
  simp [vacant, h]

theorem count_surplus (os : List Nat) (j : Nat) (sl : List Nat) (once : sl.Nodup) (h : j ∈ sl) : (surplus os sl).count j = os.getD j 0 - 1 := by
  have others : ∀ l : List Nat, j ∉ l → (surplus os l).count j = 0 := fun l out =>
    List.count_eq_zero_of_not_mem fun hj => by
      obtain ⟨i, hi, rep⟩ := List.mem_flatMap.1 hj
      exact out ((List.mem_replicate.1 rep).2 ▸ hi)
  induction sl with
  | nil => cases h
  | cons i sl ih =>
    obtain ⟨out, rest⟩ := List.nodup_cons.1 once
    have split : (surplus os (i :: sl)).count j = (List.replicate (os.getD i 0 - 1) i).count j + (surplus os sl).count j := List.count_append
    rw [split, List.count_replicate]
    by_cases same : i = j
    · subst same
      rw [others sl out]
      simp
    · rw [ih rest ((List.mem_cons.1 h).resolve_left (Ne.symm same))]
      simp [same]

theorem length_filter_snd (cs : List (Nat × Nat)) (j : Nat) : (cs.filter (fun e => e.2 = j)).length = (cs.map Prod.snd).count j := by
  rw [List.count, List.countP_map, List.countP_eq_length_filter]
  exact congrArg List.length (List.filter_congr fun e _ => by simp [beq_eq_decide])

/-- Settles O32: the vacant slots and the surplus offspring are as many, and the clones are a permutation of each. -/
theorem resampling : Obligations.Resampling := by
  unfold Obligations.Resampling
  intro ns u draw pos _
  have len : (popOffspring ns u ns.length).length = ns.length := by rw [popOffspring_eq, length_dealt]
  have sum := sum_popOffspring (n := ns.length) draw pos
  refine ⟨len, sum, fun i _ zero => by rw [popOffspring_eq]; exact dealt_zero _ ns 0 i zero, fun pkgs all => ?_⟩
  obtain ⟨slots, sources⟩ := popClones_perm (pkgs := pkgs) (all ▸ length_vacant len sum)
  rw [all] at slots sources
  refine ⟨slots.nodup_iff.2 (List.nodup_range.filter _), fun i below => ?_, fun j below _ => ?_⟩
  · rw [slots.mem_iff, mem_vacant_range below]
  · rw [length_filter_snd, sources.count_eq, count_surplus _ j _ List.nodup_range (List.mem_range.2 below)]

end Sys2Proof.Machine
end

section
/-! PROOFS. Swapping out: why the statement fails as it stands. What nothing waits for is read off the workgroups listed for a launch,
where the model looks each up by its number. The two are one workgroup where the table of workgroups lists every number once, which the
statement does not ask for. -/

namespace Sys2Proof.Machine

/-- A swappable launch, all of whose workgroups have been placed. -/
def swapLaunch : Launch :=
  { gridLaunch 32 with record := (gridLaunch 32).record + BitVec.ofNat 2048 (3 * 2 ^ (8 * 0x28)), next := 2, checked := true }

/-- A workgroup of another launch that is swapped out. -/
def outWg : Wg := { gridWg with launch := 7, saved := some { warps := [], places := [], scratch := [], stream := none, traps := [], tick := 0 } }

/-- A state whose table of workgroups lists the number 2 twice, for another launch and for launch 0, of which workgroup 1 is resident. -/
def twoOfOne : State :=
  { State.reset with launches := [(0, swapLaunch)], wgs := [(1, gridWg), (2, outWg), (2, gridWg)] }.modCore 0 (fun y =>
    { y with warps := [(0, gridWarp)] })

/-- How many warps stand on core 0. -/
def warpsAfter : Result → Nat
  | .next t => (t.core 0).warps.length
  | _ => 0

/-- Refutes O49: nothing of launch 0 waits to come in, and yet SWAP_OUT takes its resident workgroup out, because the workgroup 2 that the
model finds is another launch's. -/
theorem not_launchEnds : ¬ Obligations.LaunchEnds := by
  unfold Obligations.LaunchEnds
  rintro ⟨-, -, -, stays, -⟩
  have same := stays 0 twoOfOne swapLaunch rfl (by decide +kernel) (by decide +kernel)
  have out : warpsAfter (exec (.swapOut 0) twoOfOne) = 0 := by decide +kernel
  rw [same] at out
  revert out
  decide +kernel

end Sys2Proof.Machine
end

section
/-! PROOFS. The start of a clause: what a picker's candidate is made of, and what CLAUSE_START makes of it. -/

namespace Sys2Proof.Machine

/-- The clause in flight is the one that the picker of a core works at. -/
def works (c : Nat) (pk : Picker) (x : Clause) : Bool := x.core = c && x.picker == pk

/-- A picker without a clause in flight starts one. -/
def startsClause (s : State) (c : Nat) : Picker → State
  | .part p => partClause s c p
  | .stream k => streamClause s c k
  | .control => controlClause s c

theorem clauseStart_of_idle {s : State} {c : Nat} {pk : Picker} (idle : ∀ x ∈ s.clauses, works c pk x = false) :
    exec (.clauseStart c pk) s = .next (startsClause s c pk) := by
  have none : ¬ (s.clauses.any fun x => x.core = c && x.picker == pk) = true := fun h => by
    obtain ⟨x, hx, hw⟩ := List.any_eq_true.1 h
    exact absurd hw (ne_true_of_eq_false (idle x hx))
  refine congrArg Host.Outcome.next ((if_neg none).trans ?_)
  cases pk <;> rfl

/-! ## The candidates -/

theorem mem_insertBy (key : Nat → Nat) (a b : Nat) (l : List Nat) : b ∈ insertBy key a l ↔ b = a ∨ b ∈ l := by
  induction l with
  | nil => simp [insertBy]
  | cons x l ih =>
    unfold insertBy
    split
    · simp
    · rw [List.mem_cons, ih, List.mem_cons]; tauto

theorem mem_sortBy (key : Nat → Nat) (b : Nat) (l : List Nat) : b ∈ sortBy key l ↔ b ∈ l := by
  suffices h : ∀ r, b ∈ l.foldl (fun r a => insertBy key a r) r ↔ b ∈ r ∨ b ∈ l by simpa [sortBy] using h []
  induction l with
  | nil => simp
  | cons a l ih =>
    intro r
    rw [List.foldl_cons, ih, mem_insertBy, List.mem_cons]
    tauto

theorem NMap.mem_of_at? {α : Type} {m : NMap α} {k : Nat} {v : α} (h : m.at? k = some v) : (k, v) ∈ m := by
  induction m with
  | nil => cases h
  | cons e m ih =>
    obtain ⟨j, w⟩ := e
    rw [NMap.at?_cons] at h
    split at h
    · next same => subst same; cases h; exact List.mem_cons_self
    · exact List.mem_cons_of_mem _ (ih h)

theorem NMap.at?_of_mem {α : Type} {m : NMap α} (once : (m.map Prod.fst).Nodup) {k : Nat} {v : α} (h : (k, v) ∈ m) : m.at? k = some v := by
  induction m with
  | nil => cases h
  | cons e m ih =>
    obtain ⟨j, w⟩ := e
    obtain ⟨out, rest⟩ := List.nodup_cons.1 once
    rw [NMap.at?_cons]
    rcases List.mem_cons.1 h with same | inside
    · cases same; exact if_pos rfl
    · rw [if_neg fun same : j = k => out (same ▸ List.mem_map.2 ⟨_, inside, rfl⟩)]
      exact ih rest inside

theorem mem_partWarps {s : State} {c p : Nat} (once : ((s.core c).warps.map Prod.fst).Nodup) {e : Nat × Warp} (h : e ∈ partWarps s c p) :
    s.warp? c e.1 = some e.2 ∧ e.2.part = p := by
  obtain ⟨k, -, here⟩ := List.mem_filterMap.1 h
  obtain ⟨w, found, rfl⟩ := Option.map_eq_some_iff.1 here
  obtain ⟨inside, ofPart⟩ := List.mem_filter.1 (NMap.mem_of_at? found)
  exact ⟨NMap.at?_of_mem once inside, of_decide_eq_true ofPart⟩

theorem mem_eligible {s : State} {c p wg : Nat} {pc : DWord} {r : LaneRef} (h : (wg, pc, r) ∈ eligible s c p) :
    ∃ w, (r.slot, w) ∈ partWarps s c p ∧ w.wg = wg ∧ (w.lanes.atD r.lane Lane.never).pc = pc ∧ r.lane < 32 ∧ laneReady s c r.slot w r.lane = true := by
  obtain ⟨⟨k, w⟩, inPart, h⟩ := List.mem_flatMap.1 h
  obtain ⟨l, shown, same⟩ := List.mem_map.1 h
  cases same
  obtain ⟨inRange, ready⟩ := List.mem_filter.1 (List.mem_filter.1 shown).1
  exact ⟨w, inPart, rfl, rfl, List.mem_range.1 inRange, ready⟩

/-- The better of two candidates of R158. -/
def better (s : State) (b : Option Cand) (x : Cand) : Option Cand :=
  match b with
  | none => some x
  | some y => if x.before s.tick y then some x else some y

theorem pick_eq (s : State) (c p : Nat) :
    pick s c p = ((eligible s c p).map fun e => candOf s c p (eligible s c p) e.1 e.2.1).foldl (better s) none := by
  rw [List.foldl_map]
  rfl

theorem foldl_better_mem (s : State) (l : List Cand) : ∀ b y, l.foldl (better s) b = some y → b = some y ∨ y ∈ l := by
  induction l with
  | nil => exact fun b y h => .inl h
  | cons x l ih =>
    intro b y h
    rcases ih _ _ h with now | later
    · unfold better at now
      split at now
      · cases now; exact .inr List.mem_cons_self
      · split at now
        · cases now; exact .inr List.mem_cons_self
        · exact .inl now
    · exact .inr (List.mem_cons_of_mem _ later)

theorem pick_some {s : State} {c p : Nat} {y : Cand} (h : pick s c p = some y) :
    ∃ e ∈ eligible s c p, y = candOf s c p (eligible s c p) e.1 e.2.1 := by
  rw [pick_eq] at h
  obtain ⟨e, he, same⟩ := List.mem_map.1 ((foldl_better_mem s _ _ _ h).resolve_left nofun)
  exact ⟨e, he, same.symm⟩

theorem mem_candOf {s : State} {c p wg : Nat} {es : List (Nat × DWord × LaneRef)} {pc : DWord} {r : LaneRef} :
    r ∈ (candOf s c p es wg pc).lanes ↔ (wg, pc, r) ∈ es := by
  constructor
  · intro h
    obtain ⟨⟨wg', pc', r'⟩, matching, rfl⟩ := List.mem_map.1 h
    obtain ⟨inside, same⟩ := List.mem_filter.1 matching
    obtain ⟨rfl, rfl⟩ : wg' = wg ∧ pc' = pc := by simpa using same
    exact inside
  · intro h
    exact List.mem_map.2 ⟨_, List.mem_filter.2 ⟨h, by simp⟩, rfl⟩

/-- What a ready lane is (R129, R131, R330). -/
theorem laneReady_spec {s : State} {c k : Nat} {w : Warp} {l : Nat} (h : laneReady s c k w l = true) :
    ((w.lanes.atD l Lane.never).kind = .launched ∨ (w.lanes.atD l Lane.never).kind = .helper) ∧ (w.lanes.atD l Lane.never).wait = .run ∧
      w.trapped = false ∧ inClause s c k l = false := by
  simp only [laneReady, Bool.and_eq_true, Bool.or_eq_true, beq_iff_eq, Bool.not_eq_true'] at h
  obtain ⟨⟨⟨⟨⟨⟨⟨kind, wait⟩, going⟩, -⟩, out⟩, -⟩, -⟩, -⟩ := h
  exact ⟨kind, wait, going, out⟩

theorem not_mem_of_inClause {s : State} {c : Nat} {r : LaneRef} (h : inClause s c r.slot r.lane = false) {x : Clause} (hx : x ∈ s.clauses)
    (core : x.core = c) : r ∉ x.lanes := fun hr => by
  have held : inClause s c r.slot r.lane = true :=
    List.any_eq_true.2 ⟨x, hx, by simpa [core] using ⟨r, hr, rfl, rfl⟩⟩
  rw [h] at held
  cases held

/-! ## The bundle (R129) -/

theorem mem_bundle {ls : List LaneRef} {r : LaneRef} (h : r ∈ bundle ls) : ls.find? (fun q => q.lane = r.lane) = some r := by
  obtain ⟨l, -, found⟩ := List.mem_filterMap.1 h
  have lane : r.lane = l := by simpa using List.find?_some found
  rw [lane]
  exact found

theorem bundle_lanes_nodup (ls : List LaneRef) : ((bundle ls).map LaneRef.lane).Nodup := by
  unfold bundle
  rw [List.map_filterMap]
  refine List.Nodup.filterMap (fun a b l ha hb => ?_) List.nodup_range
  have lane : ∀ {a}, l ∈ (ls.find? fun r => r.lane = a).map LaneRef.lane → l = a := fun {a} h => by
    obtain ⟨r, found, rfl⟩ := Option.map_eq_some_iff.1 h
    simpa using List.find?_some found
  exact (lane ha).symm.trans (lane hb)

theorem find_lane_of_slot (P : Nat → Bool) (k l : Nat) (hl : l ∈ lanes32) :
    ((lanes32.filter P).map fun i => ({ slot := k, lane := i } : LaneRef)).find? (fun r => r.lane = l) =
      if P l = true then some { slot := k, lane := l } else none := by
  by_cases h : P l = true
  · rw [if_pos h]
    have inside : (⟨k, l⟩ : LaneRef) ∈ (lanes32.filter P).map fun i => ({ slot := k, lane := i } : LaneRef) :=
      List.mem_map.2 ⟨l, List.mem_filter.2 ⟨hl, h⟩, rfl⟩
    cases found : ((lanes32.filter P).map fun i => ({ slot := k, lane := i } : LaneRef)).find? (fun r => r.lane = l) with
    | none => exact absurd (decide_eq_true rfl) (List.find?_eq_none.1 found _ inside)
    | some r =>
      obtain ⟨i, -, rfl⟩ := List.mem_map.1 (List.mem_of_find?_eq_some found)
      have lane : i = l := by simpa using List.find?_some found
      rw [lane]
  · rw [if_neg h]
    refine List.find?_eq_none.2 fun r hr lane => h ?_
    obtain ⟨i, hi, rfl⟩ := List.mem_map.1 hr
    have same : i = l := of_decide_eq_true lane
    exact same ▸ (List.mem_filter.1 hi).2

/-- Lanes of one slot are a bundle already. -/
theorem bundle_of_slot (P : Nat → Bool) (k : Nat) :
    bundle ((lanes32.filter P).map fun i => { slot := k, lane := i }) = (lanes32.filter P).map fun i => { slot := k, lane := i } := by
  unfold bundle
  rw [List.filterMap_congr (find_lane_of_slot P k), ← List.filterMap_eq_map, List.filterMap_filter]
  rfl

/-! ## A partition's clause (R129, R132, R174) -/

/-- The lanes that enter the line, of those of a candidate. -/
def entering (s : State) (c : Nat) (l : Line) (y : Cand) (k : Nat) : List LaneRef :=
  bundle (if collectiveLine s c k l then y.lanes.filter (fun q => q.slot = k) else y.lanes)

theorem startLine_of {s : State} {c p : Nat} {y : Cand} {l : Line} {r : LaneRef} {rs : List LaneRef} (lanes : y.lanes = r :: rs)
    (kind : lineKind l = 0) (target : lineTgt l 0 = true ∨ ∀ q ∈ y.lanes, ∃ w, s.warp? c q.slot = some w ∧ w.entered = true) :
    startLine s c p y l = fly (enterLanes s c y.pc (entering s c l y r.slot)) c (.part p) y.pc l (entering s c l y r.slot) := by
  have unmet : (y.lanes.filter (fun r => match s.warp? c r.slot with | some w => !w.entered | none => false) != [] &&
      (lineKind l != 0 || !lineTgt l 0)) = false := by
    rcases target with at0 | all
    · simp [kind, at0]
    · have none : y.lanes.filter (fun r => match s.warp? c r.slot with | some w => !w.entered | none => false) = [] :=
        List.filter_eq_nil_iff.2 fun q hq => by
          obtain ⟨w, here, entered⟩ := all q hq
          simp [here, entered]
      rw [none]; rfl
  unfold startLine
  rw [if_neg (by rw [kind]; decide)]
  refine (if_neg (ne_true_of_eq_false unmet)).trans ((if_neg (by simp [kind])).trans ?_)
  rw [lanes, entering, lanes]

theorem partClause_of {s u : State} {c p : Nat} {y : Cand} {l : Line} {r : LaneRef} {rs : List LaneRef} (best : pick s c p = some y)
    (lanes : y.lanes = r :: rs) (line : fetchLine s c (s.ctxOf c r.slot) y.pc = (u, .line l)) :
    partClause s c p = startLine ((slotsIn y.lanes).foldl (fun s k => noteFetch s c k y.pc) u) c p y l := by
  unfold partClause
  rw [best]
  dsimp only
  rw [lanes]
  dsimp only
  rw [line]

/-! ## A warp alone on its core -/

/-- Lanes of a warp that take part in its launch. -/
def liveLanes (w : Warp) : List Nat :=
  lanes32.filter (fun i => (w.lanes.atD i Lane.never).kind == .launched || (w.lanes.atD i Lane.never).kind == .helper)

/-- A warp alone on its core, with nothing that keeps its lanes from going on. -/
structure Alone (s : State) (c p k : Nat) (w : Warp) (pc : DWord) : Prop where
  idle : ∀ x ∈ s.clauses, x.core ≠ c
  warps : (s.core c).warps = [(k, w)]
  part : w.part = p
  going : w.trapped = false
  launch : haltedLaunch s w.launch = false
  unstopped : w.stopped = none
  freely : w.stepping = none
  waits : ∀ e ∈ w.lanes, e.2.wait = .run
  lanes : ∀ i ∈ liveLanes w, (w.lanes.atD i Lane.never).pc = pc ∧ (w.lanes.atD i Lane.never).wait = .run

theorem Alone.warp {s : State} {c p k : Nat} {w : Warp} {pc : DWord} (h : Alone s c p k w pc) : s.warp? c k = some w := by
  show (s.core c).warps.at? k = _
  rw [h.warps]
  exact if_pos rfl

theorem Alone.partWarps {s : State} {c p k : Nat} {w : Warp} {pc : DWord} (h : Alone s c p k w pc) : partWarps s c p = [(k, w)] := by
  unfold Machine.partWarps
  rw [h.warps, show (NMap.filterV [(k, w)] fun _ v => decide (v.part = p)) = [(k, w)] from by simp [NMap.filterV, h.part]]
  simp [sortBy, insertBy, NMap.at?]

theorem Alone.ready {s : State} {c p k : Nat} {w : Warp} {pc : DWord} (h : Alone s c p k w pc) :
    lanes32.filter (laneReady s c k w) = liveLanes w := by
  refine List.filter_congr fun l hl => ?_
  have free : inClause s c k l = false := List.any_eq_false.2 fun x hx => by simp [h.idle x hx]
  have unparked : w.lanes.anyV (fun _ y => y.wait.parksWarp) = false := List.any_eq_false.2 fun e he => by simp [h.waits e he, Wait.parksWarp]
  unfold laneReady
  simp only [h.going, h.launch, h.unstopped, h.freely, free, unparked, Bool.not_false, Bool.and_true]
  by_cases live : ((w.lanes.atD l Lane.never).kind == .launched || (w.lanes.atD l Lane.never).kind == .helper) = true
  · rw [live, (h.lanes l (List.mem_filter.2 ⟨hl, live⟩)).2]; rfl
  · rw [eq_false_of_ne_true live]; rfl

theorem Alone.eligible {s : State} {c p k : Nat} {w : Warp} {pc : DWord} (h : Alone s c p k w pc)
    (line : lineOpen s c (s.ctxOf c k) w.flags pc = true) :
    eligible s c p = (liveLanes w).map fun l => (w.wg, pc, { slot := k, lane := l }) := by
  unfold Machine.eligible
  rw [h.partWarps, List.flatMap_singleton]
  dsimp only
  rw [h.ready, List.filter_eq_self.2 fun l hl => ?shown]
  case shown =>
    refine List.contains_iff_mem.2 (List.mem_filter.2 ⟨List.mem_eraseDups.2 (List.mem_map.2 ⟨l, hl, rfl⟩), ?_⟩)
    rw [(h.lanes l hl).1]
    exact line
  exact List.map_congr_left fun l hl => by rw [(h.lanes l hl).1]

theorem Cand.not_before_self (now : Nat) (x : Cand) : x.before now x = false := by
  unfold Cand.before
  cases x.aged now <;> simp

theorem foldl_better_same (s : State) (x : Cand) (n : Nat) : (List.replicate n x).foldl (better s) (some x) = some x := by
  induction n with
  | zero => rfl
  | succ n ih => rw [List.replicate_succ, List.foldl_cons, better, if_neg (by rw [Cand.not_before_self]; decide), ih]

theorem Alone.pick {s : State} {c p k : Nat} {w : Warp} {pc : DWord} (h : Alone s c p k w pc) (some : liveLanes w ≠ [])
    (line : lineOpen s c (s.ctxOf c k) w.flags pc = true) :
    ∃ y, pick s c p = .some y ∧ y.pc = pc ∧ y.lanes = (liveLanes w).map fun l => { slot := k, lane := l } := by
  refine ⟨candOf s c p (Machine.eligible s c p) w.wg pc, ?_, rfl, ?_⟩
  · rw [pick_eq]
    have all : (Machine.eligible s c p).map (fun e => candOf s c p (Machine.eligible s c p) e.1 e.2.1) =
        List.replicate (liveLanes w).length (candOf s c p (Machine.eligible s c p) w.wg pc) := by
      generalize candOf s c p (Machine.eligible s c p) = cand
      rw [h.eligible line, List.map_map]
      exact List.map_eq_replicate_iff.2 fun l _ => rfl
    rw [all, ← Nat.succ_pred (mt List.length_eq_zero_iff.1 some)]
    exact foldl_better_same s _ _
  · show ((Machine.eligible s c p).filter _).map _ = _
    rw [h.eligible line, List.filter_eq_self.2 (fun e he => by obtain ⟨l, -, rfl⟩ := List.mem_map.1 he; simp), List.map_map]
    rfl

theorem slotsIn_of_slot {k : Nat} (h : k < 48) {ls : List Nat} (some : ls ≠ []) : slotsIn (ls.map fun l => { slot := k, lane := l }) = [k] := by
  obtain ⟨l, rest, rfl⟩ := List.exists_cons_of_ne_nil some
  have only : ∀ i, ((l :: rest).map fun l => ({ slot := k, lane := l } : LaneRef)).any (fun r => r.slot = i) = decide (i = k) := fun i => by
    by_cases same : i = k
    · simp [same]
    · simp [same, Ne.symm same]
  unfold slotsIn
  simp only [only]
  have one : ∀ j < 48, (List.range 48).filter (fun i => decide (i = j)) = [j] := by decide
  exact one k h

/-- Settles O41: the candidate of a picker is made of ready lanes at one program counter, and the line takes their bundle in. -/
theorem clauseStart : Obligations.ClauseStart := by
  unfold Obligations.ClauseStart
  refine ⟨fun c pk s busy => ?_, fun c p s y u l r rs idle best lanes line kind => ?_, fun c p s k w pc u l idle others warps below part going launch unstopped freely waits => ?_,
    fun c p s y once best => ?_, fun ls => ⟨bundle_lanes_nodup ls, fun r => mem_bundle⟩, fun c s u l idle => ?_, fun c k s t u l idle here started unstopped going run launch line kind entered clear fits => ?_⟩
  · obtain ⟨x, hx, mine⟩ := busy
    exact congrArg Host.Outcome.next (if_pos (List.any_eq_true.2 ⟨x, hx, mine⟩))
  · intro z target
    exact (clauseStart_of_idle idle).trans (congrArg Host.Outcome.next ((partClause_of best lanes line).trans (startLine_of lanes kind target)))
  · intro live some at_pc line kind clear fits z target
    have alone : Alone s c p k w pc := ⟨others, warps, part, going, launch, unstopped, freely, waits, at_pc⟩
    have opens : lineOpen s c (s.ctxOf c k) w.flags pc = true := by
      unfold lineOpen; rw [line]; simp [clear, fits]
    obtain ⟨y, best, rfl, lanes⟩ := alone.pick some opens
    obtain ⟨i, rest, first⟩ := List.exists_cons_of_ne_nil some
    have slots : slotsIn y.lanes = [k] := by rw [lanes]; exact slotsIn_of_slot below some
    have head : y.lanes = { slot := k, lane := i } :: rest.map fun l => { slot := k, lane := l } := by rw [lanes]; exact congrArg _ first
    refine (clauseStart_of_idle idle).trans (congrArg Host.Outcome.next ((partClause_of best head line).trans ?_))
    rw [slots]
    have entered : lineTgt l 0 = true ∨ ∀ q ∈ y.lanes, ∃ v, z.warp? c q.slot = Option.some v ∧ v.entered = true := by
      refine target.imp id fun at0 q hq => ?_
      rw [lanes] at hq
      obtain ⟨j, -, rfl⟩ := List.mem_map.1 hq
      exact at0
    refine (startLine_of head kind entered).trans ?_
    · have enters : ∀ s', entering s' c l y k = (liveLanes w).map fun l => { slot := k, lane := l } := fun s' => by
        unfold entering
        rw [lanes, List.filter_eq_self.2 (fun q hq => by obtain ⟨j, -, rfl⟩ := List.mem_map.1 hq; simp), ite_self]
        exact bundle_of_slot _ k
      rw [enters]
      rfl
  · obtain ⟨⟨wg, pc, q⟩, candidate, rfl⟩ := pick_some best
    refine ⟨List.ne_nil_of_mem (mem_candOf.2 candidate), fun r hr => ?_⟩
    obtain ⟨w, inPart, ofWg, atPc, below, ready⟩ := mem_eligible (mem_candOf.1 hr)
    obtain ⟨warp, part⟩ := mem_partWarps once inPart
    obtain ⟨kind, wait, going, out⟩ := laneReady_spec ready
    exact ⟨w, warp, part, ofWg, going, below, atPc, wait, kind, fun x hx core => not_mem_of_inClause out hx core⟩
  · intro y loaded running wait line
    refine (clauseStart_of_idle idle).trans (congrArg Host.Outcome.next ?_)
    show controlClause s c = _
    unfold controlClause
    refine (if_neg (by simp [y, loaded, running, wait])).trans ?_
    rw [line]
    dsimp only
    by_cases kind : lineKind l = 0
    · rw [if_pos kind]
      exact if_neg (by simp [kind])
    · rw [if_neg kind]
      exact if_pos (by simpa using kind)
  · refine (clauseStart_of_idle idle).trans (congrArg Host.Outcome.next ?_)
    show streamClause s c k = _
    unfold streamClause
    rw [here]
    have ready : streamReady s t = true := by simp [streamReady, started, unstopped, going, run, launch]
    refine (if_neg (by simp [ready])).trans ?_
    dsimp only
    rw [line]
    refine (if_neg (by rw [kind]; decide)).trans ((if_neg ?_).trans ((if_neg (by simp [kind])).trans (if_neg (by simp [clear, fits]))))
    rcases entered with before | target
    · simp [before]
    · simp [kind, target]

end Sys2Proof.Machine
end

section
/-! PROOFS. The registers of the application cores and their accesses (R27, R29, R124, R142 to R145, R169, R256, R311, R330, R337, R364, R369). -/

namespace Sys2Proof.Machine

/-! ## Launch queues -/

theorem queueTaken_iff (s : State) (q : Nat) : queueTaken s q = true ↔ ∃ e ∈ s.launches, e.2.queue = q ∧ e.2.checked = true := by
  simp [queueTaken, NMap.anyV, List.any_eq_true]

theorem launchRegister_takes {s : State} {q : Nat} {v : DWord} (host : (s.lq q).dev = false) (ring : v.toNat < (s.lq q).slots)
    (room : (s.lq q).held + (v.toNat + (s.lq q).slots - (s.lq q).tail % (s.lq q).slots) % (s.lq q).slots ≤ (s.lq q).slots - 1) :
    exec (.launchRegister q v) s = .next (s.modLq q (fun y => { y with tail := v.toNat, err := false })) :=
  congrArg Host.Outcome.next (if_neg fun h => by simp only [host, Bool.or_eq_true, decide_eq_true_eq, Bool.false_eq_true, false_or] at h; omega)

theorem launchRegister_refuses {s : State} {q : Nat} {v : DWord} (bad : (s.lq q).dev = true ∨ (s.lq q).slots ≤ v.toNat ∨
      (s.lq q).slots - 1 < (s.lq q).held + (v.toNat + (s.lq q).slots - (s.lq q).tail % (s.lq q).slots) % (s.lq q).slots) :
    exec (.launchRegister q v) s = .next (lqError s q) :=
  congrArg Host.Outcome.next (if_pos (by simpa [or_assoc] using bad))

/-- The fields of LQCFG that may not change while the queue is enabled. -/
def SameCfg (y : LQueue) (v : DWord) : Prop :=
  v.toNat % 256 = y.ctx ∧ v.toNat / 256 % 4 = y.level ∧ ringSize (v.toNat / 1024 % 16) = ringSize y.size ∧ v.getLsbD 17 = y.dev

/-- The configuration that a write of LQCFG gives. -/
def cfgWritten (s : State) (q : Nat) (v : DWord) : State :=
  s.modLq q (fun y => { y with
    ctx := v.toNat % 256, level := v.toNat / 256 % 4, size := v.toNat / 1024 % 16, enable := v.getLsbD 16, dev := v.getLsbD 17, err := false })

theorem sameCfg_iff (y : LQueue) (v : DWord) : (decide (bitsOf v.toNat 0 8 = y.ctx) && decide (bitsOf v.toNat 8 2 = y.level) &&
    decide (ringSize (bitsOf v.toNat 10 4) = ringSize y.size) && decide (v.getLsbD 17 = y.dev)) = true ↔ SameCfg y v := by
  rw [Bool.and_eq_true, Bool.and_eq_true, Bool.and_eq_true, decide_eq_true_iff, decide_eq_true_iff, decide_eq_true_iff, decide_eq_true_iff, and_assoc, and_assoc]
  simp only [SameCfg, bitsOf, Nat.pow_zero, Nat.div_one] <;> rfl

theorem cfgWritten_eq (s : State) (q : Nat) (v : DWord) : s.modLq q (fun y => { y with
    ctx := bitsOf v.toNat 0 8, level := bitsOf v.toNat 8 2, size := bitsOf v.toNat 10 4, enable := v.getLsbD 16, dev := v.getLsbD 17, err := false }) =
    cfgWritten s q v := by
  unfold cfgWritten bitsOf
  rw [Nat.pow_zero, Nat.div_one] <;> rfl

theorem lqcfgWrite_refuses {s : State} {q : Nat} {v : DWord} (on : (s.lq q).enable = true) (changed : ¬ SameCfg (s.lq q) v) :
    exec (.lqcfgWrite q v) s = .next (lqError s q) :=
  congrArg Host.Outcome.next (if_pos (by rw [on, eq_false_of_ne_true (mt (sameCfg_iff _ _).1 changed)]; rfl))

theorem lqcfgWrite_accepts {s : State} {q : Nat} {v : DWord} (fit : (s.lq q).enable = false ∨ SameCfg (s.lq q) v) :
    exec (.lqcfgWrite q v) s = .next (if !(s.lq q).enable && !queueTaken s q &&
        (ringSize (v.toNat / 1024 % 16) != ringSize (s.lq q).size || v.toNat % 256 != (s.lq q).ctx) then lqDiscard (cfgWritten s q v) q
      else cfgWritten s q v) := by
  refine congrArg Host.Outcome.next ((if_neg ?_).trans ?_)
  · rcases fit with off | same
    · rw [off]; exact Bool.false_ne_true
    · rw [(sameCfg_iff _ _).2 same, Bool.not_true, Bool.and_false]; exact Bool.false_ne_true
  · rw [cfgWritten_eq]
    simp only [bitsOf, Nat.pow_zero, Nat.div_one] <;> rfl

theorem lqbaseWrite_refuses {s : State} {q : Nat} {v : DWord} (on : (s.lq q).enable = true) : exec (.lqbaseWrite q v) s = .next (lqError s q) :=
  congrArg Host.Outcome.next (if_pos on)

theorem lqbaseWrite_accepts {s : State} {q : Nat} {v : DWord} (off : (s.lq q).enable = false) : exec (.lqbaseWrite q v) s = .next (
    if queueTaken s q then s.modLq q (fun y => { y with base := v &&& 0x000FFFFFFFFFFF00, err := false })
    else lqDiscard (s.modLq q (fun y => { y with base := v &&& 0x000FFFFFFFFFFF00, err := false })) q) :=
  congrArg Host.Outcome.next (if_neg (ne_true_of_eq_false off))

/-! ## Registers by address -/

theorem registerWrite_listed {s : State} {a : DWord} {n : Nat} (v : DWord) (at_n : a.toNat = n) (listed : (regRead s n).isSome = true) :
    exec (.registerWrite a v) s = regWrite n v s := by
  obtain ⟨old, here⟩ := Option.isSome_iff_exists.1 listed
  subst at_n
  show execRegisterWrite a v s = _
  unfold execRegisterWrite
  rw [here]

theorem registerWrite_unlisted {s : State} {a : DWord} (v : DWord) (none : regRead s a.toNat = none) :
    exec (.registerWrite a v) s = .refused (.noSuchRegister a.toNat) := by
  show execRegisterWrite a v s = _
  unfold execRegisterWrite
  rw [none]

theorem queueReg_address {q off : Nat} (ring : q < 64) (inSlot : off < 0x40) :
    (BitVec.ofNat 64 (0x6000000000 + (0x30000 + off + 0x40 * q))).toNat = 0x6000030000 + (off + 0x40 * q) := by
  rw [BitVec.toNat_ofNat, Nat.mod_eq_of_lt (by omega)]
  omega

theorem regRead_queue (s : State) {q off : Nat} (ring : q < 64) (inSlot : off < 0x40) :
    regRead s (0x6000030000 + (off + 0x40 * q)) = readLq s (off + 0x40 * q) := by
  unfold regRead
  rw [show (0x6000030000 + (off + 0x40 * q)) / 0x10000 = 0x600003 by omega, show (0x6000030000 + (off + 0x40 * q)) % 0x10000 = off + 0x40 * q by omega]
  rfl

theorem regWrite_queue (s : State) (v : DWord) {q off : Nat} (ring : q < 64) (inSlot : off < 0x40) :
    regWrite (0x6000030000 + (off + 0x40 * q)) v s = writeLq (off + 0x40 * q) v s := by
  unfold regWrite
  rw [show (0x6000030000 + (off + 0x40 * q)) / 0x10000 = 0x600003 by omega, show (0x6000030000 + (off + 0x40 * q)) % 0x10000 = off + 0x40 * q by omega]
  rfl

theorem queueReg_offset {q off : Nat} (inSlot : off < 0x40) : (off + 0x40 * q) % 0x40 = off ∧ (off + 0x40 * q) / 0x40 = q := by omega

theorem registerWrite_queue (s : State) (v : DWord) {q off : Nat} (ring : q < 64) (listed : off = 0x00 ∨ off = 0x08 ∨ off = 0x10) :
    exec (.registerWrite (BitVec.ofNat 64 (0x6000000000 + (0x30000 + off + 0x40 * q))) v) s = match off with
      | 0x00 => exec (.lqbaseWrite q v) s
      | 0x08 => exec (.lqcfgWrite q v) s
      | _ => exec (.launchRegister q v) s := by
  have inSlot : off < 0x40 := by omega
  obtain ⟨slot, queue⟩ := queueReg_offset (q := q) inSlot
  rw [registerWrite_listed v (queueReg_address ring inSlot), regWrite_queue s v ring inSlot, writeLq, slot, queue]
  · rcases listed with rfl | rfl | rfl <;> rfl
  · rw [regRead_queue s ring inSlot, readLq, slot, queue]
    refine Option.isSome_iff_ne_none.2 ?_
    refine (if_neg (show ¬ 64 ≤ q by omega)).trans_ne ?_
    rcases listed with rfl | rfl | rfl <;> exact Option.some_ne_none _

theorem invKind_eq (v : DWord) : invKind v = (v.getLsbD 1).toNat + 2 * (v.getLsbD 2).toNat := by
  unfold invKind bitsOf
  rw [BitVec.getLsbD, BitVec.getLsbD, Nat.testBit_eq_decide_div_mod_eq, Nat.testBit_eq_decide_div_mod_eq]
  have low := Nat.mod_two_eq_zero_or_one (v.toNat / 2 ^ 1)
  have high := Nat.mod_two_eq_zero_or_one (v.toNat / 2 ^ 2)
  rcases low with low | low <;> rcases high with high | high <;> simp only [low, high] <;> simp <;> omega

/-- Both kind bits make no kind, and the command is refused under whatever name. -/
theorem xlinv_both {v : DWord} (both : invKind v = 3) (a b : Nat) (s : State) : xlinv a v s = xlinv b v s := by
  unfold xlinv
  rw [both]
  simp

theorem xlinv_kind (v : DWord) (s : State) : xlinv (invKind v) v s =
    if v.getLsbD 2 then xlinv 2 v s else if v.getLsbD 1 then xlinv 1 v s else xlinv 0 v s := by
  have kind := invKind_eq v
  cases one : v.getLsbD 1 <;> cases two : v.getLsbD 2 <;> rw [one, two] at kind
  · rw [kind]; rfl
  · rw [kind]; rfl
  · rw [kind]; rfl
  · exact xlinv_both kind _ _ s

/-- Settles O46: each register write is the operation that stands at its address. -/
theorem registers : Obligations.Registers := by
  unfold Obligations.Registers
  refine ⟨fun q v s => ?_, fun s v q ring => ?_, fun s a v none => registerWrite_unlisted v none, fun s a n => ?_, fun s a bs => ?_⟩
  · intro y n used bad taken dropped
    refine ⟨launchRegister_takes, launchRegister_refuses, lqcfgWrite_refuses, fun fit => ⟨fun off free change => ?_, fun keep => ?_⟩,
      lqbaseWrite_refuses, fun off => ⟨fun held => ?_, fun free => ?_⟩⟩
    · refine (lqcfgWrite_accepts fit).trans (congrArg Host.Outcome.next (if_pos ?_))
      rw [show (s.lq q).enable = false from off, eq_false_of_ne_true (mt (queueTaken_iff s q).1 free)]
      simp only [Bool.not_false, Bool.true_and, Bool.or_eq_true, bne_iff_ne]
      exact change
    · refine (lqcfgWrite_accepts fit).trans (congrArg Host.Outcome.next (if_neg fun drop => ?_))
      simp only [Bool.and_eq_true, Bool.not_eq_true', Bool.or_eq_true, bne_iff_ne] at drop
      obtain ⟨⟨off, free⟩, change⟩ := drop
      rcases keep with on | held | ⟨size, ctx⟩
      · exact absurd on (ne_true_of_eq_false off)
      · exact absurd ((queueTaken_iff s q).2 held) (ne_true_of_eq_false free)
      · exact change.elim (· size) (· ctx)
    · exact (lqbaseWrite_accepts off).trans (congrArg Host.Outcome.next (if_pos ((queueTaken_iff s q).2 held)))
    · exact (lqbaseWrite_accepts off).trans (congrArg Host.Outcome.next (if_neg (mt (queueTaken_iff s q).1 free)))
  · intro wr b1
    refine ⟨rfl, ?_, rfl, rfl, rfl, rfl, rfl, rfl, rfl, ?_, ?_, ?_, rfl, rfl, rfl, rfl, fun idle => ?_, rfl, rfl, rfl, rfl, rfl, rfl, fun kind => ?_, fun kind => ?_, fun kind => ?_, rfl, rfl, rfl, rfl⟩
    · exact (congrArg Host.Outcome.next (xlinv_kind v s)).trans (by cases hi : v.getLsbD 2 <;> cases lo : v.getLsbD 1 <;> rw [show b1 = _ from lo] <;> rfl)
    · exact registerWrite_queue s v ring (off := 0x00) (.inl rfl)
    · exact registerWrite_queue s v ring (off := 0x08) (.inr (.inl rfl))
    · exact registerWrite_queue s v ring (off := 0x10) (.inr (.inr rfl))
    · exact congrArg Host.Outcome.next (if_neg (by rw [idle]; exact Bool.false_ne_true))
    · exact (show wr 0x70040 = .next (subcmd (bitsOf v.toNat 0 4) v s) from rfl).trans (by rw [kind]; rfl)
    · exact (show wr 0x70040 = .next (subcmd (bitsOf v.toNat 0 4) v s) from rfl).trans (by rw [kind]; rfl)
    · exact (show wr 0x70040 = .next (subcmd (bitsOf v.toNat 0 4) v s) from rfl).trans (by rw [kind]; rfl)
  · intro answer
    refine ⟨fun inside => ?_, fun outside v here => ?_⟩
    · exact if_pos inside
    · refine (if_neg (Nat.not_le.2 outside)).trans ?_
      rw [here]
  · refine ⟨fun inside some => ?_, fun high inside => ?_, fun outside listed => ?_⟩
    · have bytes : 0 < bs.length := List.length_pos_iff.2 some
      refine (if_pos ?_).trans (congrArg Host.Outcome.next ((if_pos ?_).trans ?_))
      · show a.toNat + bs.length ≤ 0x6000000000
        omega
      · show a.toNat < 0x5FF0000000
        omega
      · have all : Nat.min bs.length (Config.memTop - a.toNat) = bs.length := Nat.min_eq_left (by show bs.length ≤ 0x5FF0000000 - a.toNat; omega)
        unfold appStore
        rw [all]
        dsimp only
        rw [List.take_length]
    · exact (if_pos inside).trans (congrArg Host.Outcome.next (if_neg (Nat.not_lt.2 high)))
    · obtain ⟨old, here⟩ := Option.isSome_iff_exists.1 listed
      refine (if_neg (Nat.not_le.2 outside)).trans (.trans ?_ (registerWrite_listed _ rfl listed).symm)
      rw [here]

end Sys2Proof.Machine
end

section
/-! PROOFS. Collectives: who receives a chunk, the reduce block from its dispatch to its flags, and what two contributions reduce to
(R165, R166). -/

namespace Sys2Proof.Machine

/-! ## Numbers as bytes -/

theorem length_leBytes (n : Nat) : ∀ v, (leBytes n v).length = n := by
  induction n with
  | zero => exact fun _ => rfl
  | succ n ih => exact fun v => congrArg (· + 1) (ih (v / 256))

theorem leNat_leBytes (n : Nat) : ∀ v, leNat (leBytes n v) = v % 256 ^ n := by
  induction n with
  | zero => exact fun v => (Nat.mod_one v).symm
  | succ n ih =>
    intro v
    rw [leBytes, leNat, ih, BitVec.toNat_ofNat, (Nat.pow_succ' : 256 ^ (n + 1) = 256 * 256 ^ n), Nat.mod_mul]

/-! ## Codes fit their format -/

/-- The codes of a format without their sign are below its sign bit. -/
def Flt.fits (F : Flt) : Prop := F.largest < F.signBit ∧ F.infCode < F.signBit ∧ F.nan < F.signBit

theorem Flt.signed_lt {F : Flt} (neg : Bool) {x : Nat} (h : x < F.signBit) : (if neg then F.signBit else 0) + x < 2 * F.signBit := by
  split <;> omega

theorem Flt.unsigned_lt {F : Flt} {x : Nat} (h : x < F.signBit) : x < 2 * F.signBit := by omega

theorem Flt.roundQ_lt {F : Flt} (fits : F.fits) (m : Rnd) (s : Nat) (sat neg : Bool) (num den : Nat) (exp : Int) :
    F.roundQ m s sat neg num den exp < 2 * F.signBit := by
  obtain ⟨largest, inf, nan⟩ := fits
  have sign : (if neg then F.signBit else 0) < 2 * F.signBit := signed_lt (x := 0) neg (Nat.zero_lt_of_lt inf)
  unfold roundQ
  extract_lets sg e0 tiny huge num1 den1 exp1 e q A B k k2 code
  split
  · exact sign
  · split
    · split
      · exact signed_lt neg largest
      · cases m <;> dsimp only
        · split
          · exact signed_lt neg inf
          · exact unsigned_lt nan
        · exact signed_lt neg largest
        · split
          · exact signed_lt neg inf
          · exact unsigned_lt largest
        · split
          · exact signed_lt neg largest
          · exact unsigned_lt inf
        · split
          · exact signed_lt neg inf
          · exact unsigned_lt nan
    · next within => exact signed_lt neg (Nat.lt_of_le_of_lt (Nat.not_lt.1 within) largest)

theorem Flt.enc_lt {F : Flt} (fits : F.fits) (m : Rnd) (v : FVal) (s : Nat) (sat : Bool) : F.enc m v s sat < 2 * F.signBit := by
  obtain ⟨largest, inf, nan⟩ := fits
  have fix (x : Nat) (h : x < 2 * F.signBit) : (if !F.inf && x % F.signBit = F.infCode then F.nan else x) < 2 * F.signBit := by
    split
    · exact unsigned_lt nan
    · exact h
  unfold enc
  cases v with
  | nan => exact unsigned_lt nan
  | inf neg =>
    dsimp only
    split
    · exact signed_lt neg largest
    · exact fix _ (signed_lt neg inf)
  | fin neg n e => exact fix _ (roundQ_lt ⟨largest, inf, nan⟩ ..)

theorem Flt.add_lt {F : Flt} (fits : F.fits) (m : Rnd) (a b : Nat) : F.add m a b < 2 * F.signBit := enc_lt fits ..

theorem Flt.pickP_lt {F : Flt} (fits : F.fits) (greater : Bool) {a b : Nat} (ha : a < 2 * F.signBit) (hb : b < 2 * F.signBit) :
    F.pickP greater a b < 2 * F.signBit := by
  have nan := unsigned_lt fits.2.2
  unfold pickP pick
  repeat' split
  all_goals assumption

theorem f32_fits : Flt.f32.fits := ⟨by decide, by decide, by decide⟩
theorem f64_fits : Flt.f64.fits := ⟨by decide, by decide, by decide⟩

/-! ## Reducing two elements -/

/-- One element of each reduces to the element that the operation gives. -/
theorem leNat_reduceBytes {op : Nat} {a b : Nat} (ha : a < 256 ^ ((reduceOp op).2.bits / 8)) (hb : b < 256 ^ ((reduceOp op).2.bits / 8))
    (size : 0 < (reduceOp op).2.bits / 8) :
    leNat (reduceBytes op (leBytes ((reduceOp op).2.bits / 8) a) (leBytes ((reduceOp op).2.bits / 8) b)) =
      (atomNew (reduceOp op).1 (reduceOp op).2 a b 0).1 % 256 ^ ((reduceOp op).2.bits / 8) := by
  unfold reduceBytes
  dsimp only
  rw [length_leBytes, Nat.div_self size]
  have whole : ∀ v, ((leBytes ((reduceOp op).2.bits / 8) v).drop (((reduceOp op).2.bits / 8) * 0)).take ((reduceOp op).2.bits / 8) =
      leBytes ((reduceOp op).2.bits / 8) v := fun v => by
    rw [Nat.mul_zero, List.drop_zero, List.take_of_length_le (length_leBytes _ v).le]
  rw [show List.range 1 = [0] from rfl, List.flatMap_singleton, whole, whole, leNat_leBytes, leNat_leBytes, leNat_leBytes, Nat.mod_eq_of_lt ha, Nat.mod_eq_of_lt hb]

/-- What the operations of a collective do to an element (R111). -/
theorem reduceBytes_ops {a b c d : Nat} (ha : a < 2 ^ 32) (hb : b < 2 ^ 32) (hc : c < 2 ^ 64) (hd : d < 2 ^ 64) :
    leNat (reduceBytes 1 (leBytes 4 a) (leBytes 4 b)) = Flt.f32.add .rne a b ∧
    leNat (reduceBytes 2 (leBytes 4 a) (leBytes 4 b)) = (a + b) % 2 ^ 32 ∧
    leNat (reduceBytes 3 (leBytes 4 a) (leBytes 4 b)) = Flt.f32.pickP true a b ∧
    leNat (reduceBytes 4 (leBytes 8 c) (leBytes 8 d)) = Flt.f64.add .rne c d := by
  have low : b % 2 ^ 32 = b := Nat.mod_eq_of_lt hb
  have high : d % 2 ^ 64 = d := Nat.mod_eq_of_lt hd
  refine ⟨?_, ?_, ?_, ?_⟩
  · refine (leNat_reduceBytes (op := 1) ha hb (by decide)).trans ?_
    show Flt.f32.add .rne a (b % 2 ^ 32) % 2 ^ 32 = _
    rw [low]
    exact Nat.mod_eq_of_lt (Flt.add_lt f32_fits .rne a b)
  · refine (leNat_reduceBytes (op := 2) ha hb (by decide)).trans ?_
    exact Nat.mod_mod _ (2 ^ 32)
  · refine (leNat_reduceBytes (op := 3) ha hb (by decide)).trans ?_
    show Flt.f32.pickP true a (b % 2 ^ 32) % 2 ^ 32 = _
    rw [low]
    exact Nat.mod_eq_of_lt (Flt.pickP_lt f32_fits true ha hb)
  · refine (leNat_reduceBytes (op := 4) hc hd (by decide)).trans ?_
    show Flt.f64.add .rne c (d % 2 ^ 64) % 2 ^ 64 = _
    rw [high]
    exact Nat.mod_eq_of_lt (Flt.add_lt f64_fits .rne c d)

/-! ## The reduce block -/

theorem reduceCore_some {s : State} {c : Nat} (h : reduceCore s = some c) :
    c < 368 ∧ (s.core c).launch = none ∧ (s.core c).warps = [] ∧ (s.core c).streams = [] := by
  have inRange := List.mem_range.1 (List.mem_of_find?_eq_some h)
  have idle := List.find?_some h
  simp only [Bool.and_eq_true, Option.isNone_iff_eq_none, List.isEmpty_iff] at idle
  obtain ⟨⟨⟨-, launch⟩, warps⟩, streams⟩ := idle
  exact ⟨inRange, launch, warps, streams⟩

theorem nodup_eraseDups (l : List Nat) : l.eraseDups.Nodup := by
  match l with
  | [] => simp
  | a :: l =>
    rw [List.eraseDups_cons]
    refine List.nodup_cons.2 ⟨fun h => ?_, nodup_eraseDups _⟩
    have other := (List.mem_filter.1 (List.mem_eraseDups.1 h)).2
    simp at other
termination_by l.length
decreasing_by exact Nat.lt_succ_of_le (List.length_filter_le ..)

/-- A pass touches at most 256 granules (R69). -/
theorem passParts_granules (s : State) (x : Launch) : ((passParts s x).map (fun p => p.2.1 / 65536)).eraseDups.length ≤ 256 := by
  unfold passParts
  extract_lets ps gs
  have few : gs.length ≤ 256 := List.length_take_le ..
  refine Nat.le_trans (List.subperm_of_subset (nodup_eraseDups _) fun g h => ?_).length_le few
  obtain ⟨p, hp, rfl⟩ := List.mem_map.1 (List.mem_eraseDups.1 h)
  exact List.contains_iff_mem.1 (List.mem_takeWhile_imp (p := fun q : Nat × Nat × Nat => gs.contains (q.2.1 / 65536)) hp)

/-- A launch once n more bytes of chunk c from package p have been performed. -/
def Launch.landedAt (x : Launch) (c p n : Nat) : Launch :=
  let old := x.landed.atD (16 * c + p) 0
  let new := Nat.min x.chunk (old + n)
  { x with
    landed := x.landed.put (16 * c + p) new
    counter := if old < x.chunk && new = x.chunk then x.counter - 1 else x.counter }

/-- The last of a chunk's bytes lowers the counter (R166). -/
theorem landed_spec {s : State} {id : Nat} {x : Launch} (here : s.launches.at? id = some x) (c p n : Nat) :
    ∃ y, (landed s id c p n).launches.at? id = some y ∧ y.landed.atD (16 * c + p) 0 = min (x.coll 8 4) (x.landed.atD (16 * c + p) 0 + n) ∧
      y.counter = if x.landed.atD (16 * c + p) 0 < x.coll 8 4 ∧ x.coll 8 4 ≤ x.landed.atD (16 * c + p) 0 + n then x.counter - 1 else x.counter := by
  have found : (s.modLaunch id fun x => x.landedAt c p n).launches.at? id = some (x.landedAt c p n) := by
    refine (NMap.at?_upd_self s.launches id fun x => x.landedAt c p n).trans ?_
    rw [here]
    rfl
  refine ⟨_, found, NMap.atD_put_self .., ?_⟩
  refine if_congr ?_ rfl rfl
  rw [Bool.and_eq_true, decide_eq_true_iff, decide_eq_true_iff]
  refine and_congr_right fun _ => ?_
  exact min_eq_left_iff

theorem foldl_bind {α β : Type} (f : β → α → Option β) (l : List α) : ∀ o : Option β, l.foldl (fun r q => r.bind fun b => f b q) o = l.foldlM f =<< o := by
  induction l with
  | nil => exact fun o => by cases o <;> rfl
  | cons q l ih => exact fun o => (ih _).trans (by cases o <;> rfl)

theorem reduceChunk_eq {s : State} {x : Launch} {c p : Nat} {ps : List Nat} (h : arrivedIn x c = p :: ps) :
    reduceChunk s x c = ps.foldlM (fun acc q =>
      (vaBytes s x.ctx (x.coll 0x18 8 + (16 * c + q) * x.coll 8 4) (x.coll 8 4)).map (reduceBytes (x.coll 0 1) acc))
      =<< vaBytes s x.ctx (x.coll 0x18 8 + (16 * c + p) * x.coll 8 4) (x.coll 8 4) := by
  unfold reduceChunk
  rw [h]
  exact foldl_bind _ ps _

/-- What makes a reduce block's wait for contributions end (R166, R339). -/
def timedOut (s : State) (x : Launch) : Prop :=
  (x.repro = false ∧ x.total ≤ x.next ∧ x.redo = [] ∧ x.total ≤ x.ended) ∨ ∃ p ∈ membersIn (x.coll 2 2), pkgLive s p = false

theorem collectiveTimeout_of {id : Nat} {s : State} {x : Launch} (here : s.launches.at? id = some x) (checked : x.checked = true)
    (binds : x.flag 5 = true) (idle : x.reduce = 0) (waits : x.counter ≠ 0) (out : timedOut s x) :
    exec (.collectiveTimeout id) s = .next (s.modLaunch id (fun x => { x with reduceLost := true })) := by
  have ready : ((!x.repro && (decide (x.total ≤ x.next) && decide (x.redo = []) && decide (x.total ≤ x.ended))) ||
      x.members.any (fun p => !pkgLive s p)) = true := by
    rcases out with ⟨plain, placed, redone, ended⟩ | ⟨p, member, lost⟩
    · simp [plain, placed, redone, ended]
    · have any : x.members.any (fun p => !pkgLive s p) = true := List.any_eq_true.2 ⟨p, member, by rw [lost]; rfl⟩
      rw [any, Bool.or_true]
  show Host.Outcome.next _ = _
  rw [here]
  refine congrArg Host.Outcome.next (if_pos ?_)
  rw [ready]
  simp [checked, binds, idle, Nat.pos_of_ne_zero waits]

theorem reduceBlockDispatch_of {id c : Nat} {s : State} {x : Launch} (here : s.launches.at? id = some x) (checked : x.checked = true)
    (binds : x.flag 5 = true) (idle : x.reduce = 0) (arrived : x.counter = 0 ∨ x.reduceLost = true) (alive : x.killed = false)
    (core : reduceCore s = some c) (room : recordsFree s (granulesOf (passLines s x)) = true) :
    exec (.reduceBlockDispatch id) s = .next (((engineStart s c (.reduce id) true (passLines s x)).modCore c (fun y =>
      { y with launch := some id })).modLaunch id (fun x => { x with reduce := c + 2 })) := by
  have waits : reduceWaits x = true := by simpa [reduceWaits, checked, binds, idle] using arrived
  show Host.Outcome.next _ = _
  rw [here]
  refine congrArg Host.Outcome.next ((if_neg (by simp [waits, alive])).trans ?_)
  rw [core]
  exact if_neg (by simp [room])

theorem reduceOwn_owned {s : State} {id : Nat} (x : Launch) (owns : s.own.any (fun r => r.engine == EngineRef.reduce id) = true) :
    reduceOwn s id x = some s := if_pos (by simp [owns])

theorem reduceOwn_takes {s : State} {id : Nat} {x : Launch} (some : passLines s x ≠ [])
    (free : s.own.any (fun r => r.engine == EngineRef.reduce id) = false) :
    reduceOwn s id x = if recordsFree s (granulesOf (passLines s x)) then
      .some (engineStart s (x.reduce - 2) (.reduce id) true (passLines s x)) else none :=
  if_neg (by rw [free, Bool.or_false]; simpa using some)

/-- Settles O50: the reduce block's steps, and what an arrival and an element operation do. -/
theorem collectives : Obligations.Collectives := by
  unfold Obligations.Collectives
  refine ⟨fun s x c => ?_, fun id s x c here checked binds idle arrived alive core => reduceBlockDispatch_of here checked binds idle arrived alive core,
    fun s c => reduceCore_some, fun id s x here checked binds idle waits out => collectiveTimeout_of here checked binds idle waits out,
    fun s id x => reduceOwn_owned x, fun s id x some free => ?_, fun s x => ⟨passParts_granules s x, List.takeWhile_prefix _⟩, fun id s x here started => ?_,
    fun s x c p ps => reduceChunk_eq, fun x c => rfl, fun a b c d => reduceBytes_ops, fun s id c p n x here => landed_spec here c p n⟩
  · rfl
  · rw [reduceOwn_takes some free]
    exact ⟨fun room => if_pos room, fun full => if_neg (ne_true_of_eq_false full)⟩
  · intro leave
    refine ⟨fun full => ?_, fun s0 own => ⟨fun u sec pass => ?_, fun fault => ?_⟩⟩
    · show Host.Outcome.next _ = _
      rw [here]
      refine congrArg Host.Outcome.next ((if_neg (Nat.not_lt.2 started)).trans ?_)
      rw [full]
    · intro n v flags done
      show Host.Outcome.next _ = _
      rw [here]
      refine congrArg Host.Outcome.next ((if_neg (Nat.not_lt.2 started)).trans ?_)
      rw [own]
      dsimp only
      rw [pass]
      dsimp only
      by_cases more : n < (resultParts s x).length
      · exact (if_pos more).trans (if_pos more).symm
      · refine (if_neg more).trans (.trans ?_ (if_neg more).symm)
        rw [foldl_bind]
        rfl
    · show Host.Outcome.next _ = _
      rw [here]
      refine congrArg Host.Outcome.next ((if_neg (Nat.not_lt.2 started)).trans ?_)
      rw [own]
      dsimp only
      rw [fault]

end Sys2Proof.Machine
end

section
/-! PROOFS. Floating-point codes: a value read off a code has a significand that fits the format, so that encoding it rounds nothing
(R213, R214, R215). -/

namespace Sys2Proof.Machine

theorem ilog_one {n : Nat} (pos : n ≠ 0) : ilog n 1 = Nat.log2 n := by
  have one : Nat.log2 1 = 0 := by decide
  have fits : 1 * pow2 ((Nat.log2 n : Int) - Nat.log2 1) ≤ n * pow2 (-((Nat.log2 n : Int) - Nat.log2 1)) := by
    simpa [pow2, one] using Nat.log2_self_le pos
  unfold ilog
  exact (if_pos fits).trans (by rw [one]; simp)

/-- A significand that fits the format is not rounded. -/
theorem Flt.roundQ_of_fits {F : Flt} (m : Rnd) (s : Nat) (sat neg : Bool) {num : Nat} {exp : Int} (pos : num ≠ 0) (low : F.qmin ≤ exp)
    (fits : Nat.log2 num ≤ F.mb) (normal : exp = F.qmin ∨ Nat.log2 num = F.mb) (high : (Nat.log2 num : Int) + exp ≤ (F.bias : Int) + 2)
    (range : (exp - F.qmin).toNat * 2 ^ F.mb + num ≤ F.largest) :
    F.roundQ m s sat neg num 1 exp = (if neg then F.signBit else 0) + ((exp - F.qmin).toNat * 2 ^ F.mb + num) := by
  unfold roundQ
  extract_lets sg e0 tiny huge num1 den1 exp1 e q A B k k2 code
  have at_e0 : e0 = (Nat.log2 num : Int) + exp := by show ilog num 1 + exp = _; rw [ilog_one pos]
  have not_tiny : ¬ tiny := by show ¬ e0 < F.qmin - 40; omega
  have not_huge : ¬ huge := by show ¬ (F.bias : Int) + 2 < e0; omega
  have same_num : num1 = num := if_neg (by simp [not_tiny, not_huge])
  have same_den : den1 = 1 := if_neg (by simp [not_tiny, not_huge])
  have same_exp : exp1 = exp := (if_neg not_tiny).trans (if_neg not_huge)
  have same_e : e = e0 := (if_neg not_tiny).trans (if_neg not_huge)
  have at_q : q = exp := by
    show (if e - F.mb < F.qmin then F.qmin else e - F.mb) = _
    split <;> omega
  have at_A : A = num := by show num1 * pow2 (exp1 - q) = _; rw [same_num, same_exp, at_q]; simp [pow2]
  have at_B : B = 1 := by show den1 * pow2 (q - exp1) = _; rw [same_den, same_exp, at_q]; simp [pow2]
  have at_k : k = num := by show A / B = _; rw [at_A, at_B, Nat.div_one]
  have at_k2 : k2 = num := by
    refine (if_neg ?_).trans at_k
    rw [at_B, Nat.mod_one]
    exact Bool.false_ne_true
  have at_code : code = (exp - F.qmin).toNat * 2 ^ F.mb + num := by show (q - F.qmin).toNat * 2 ^ F.mb + k2 = _; rw [at_q, at_k2]
  rw [at_code]
  exact (if_neg pos).trans (if_neg (Nat.not_lt.2 range))

/-- The sign, exponent and fraction fields of a code. -/
theorem Flt.code_eq (F : Flt) {x : Nat} (h : x < 2 ^ F.width) :
    x = (if bitsOf x (F.eb + F.mb) 1 = 1 then F.signBit else 0) + (bitsOf x F.mb F.eb * 2 ^ F.mb + bitsOf x 0 F.mb) := by
  have sign : x / 2 ^ (F.eb + F.mb) < 2 := by
    refine Nat.div_lt_of_lt_mul ?_
    rwa [← Nat.pow_succ, show (F.eb + F.mb).succ = F.width by unfold width; omega]
  have rest := Nat.div_add_mod x (2 ^ F.mb)
  have high := Nat.div_add_mod (x / 2 ^ F.mb) (2 ^ F.eb)
  have top : x / 2 ^ F.mb / 2 ^ F.eb = x / 2 ^ (F.eb + F.mb) := by rw [Nat.div_div_eq_div_mul, ← Nat.pow_add, Nat.add_comm]
  have weight : F.signBit = 2 ^ F.mb * 2 ^ F.eb := by rw [signBit, Nat.pow_add, Nat.mul_comm]
  rw [top] at high
  have signed : (if bitsOf x (F.eb + F.mb) 1 = 1 then F.signBit else 0) = 2 ^ F.mb * (2 ^ F.eb * (x / 2 ^ (F.eb + F.mb))) := by
    rw [weight]
    unfold bitsOf
    generalize x / 2 ^ (F.eb + F.mb) = b at sign ⊢
    have one : b = 0 ∨ b = 1 := by omega
    rcases one with rfl | rfl <;> simp
  rw [signed]
  unfold bitsOf
  rw [Nat.pow_zero, Nat.div_one, ← Nat.add_assoc, Nat.mul_comm (x / 2 ^ F.mb % 2 ^ F.eb), ← Nat.mul_add, high, rest]

/-- The codes with one exponent field lie below those with the next. -/
theorem magnitude_lt {e f eb mb : Nat} (he : e < 2 ^ eb) (hf : f < 2 ^ mb) : e * 2 ^ mb + f < 2 ^ (eb + mb) :=
  calc e * 2 ^ mb + f < e * 2 ^ mb + 2 ^ mb := by omega
    _ = (e + 1) * 2 ^ mb := (Nat.succ_mul ..).symm
    _ ≤ 2 ^ eb * 2 ^ mb := Nat.mul_le_mul_right _ he
    _ = 2 ^ (eb + mb) := (Nat.pow_add ..).symm

/-- What the proof asks of a format; each of R213 meets it. -/
structure Flt.Regular (F : Flt) : Prop where
  exponents : 2 ^ F.eb = 2 * (F.bias + 1)
  fraction : 1 ≤ F.mb

theorem Flt.Regular.two_le {F : Flt} (R : F.Regular) : 2 ≤ 2 ^ F.mb := Nat.pow_le_pow_right (Nat.succ_pos 1) R.fraction

/-- A finite code without its sign is not above the largest. -/
theorem Flt.magnitude_le {F : Flt} (R : F.Regular) {e f : Nat} (he : e < 2 ^ F.eb) (hf : f < 2 ^ F.mb)
    (no_inf : ¬ (F.inf = true ∧ e = 2 ^ F.eb - 1)) (no_nan : ¬ (F.inf = false ∧ e = 2 ^ F.eb - 1 ∧ f = 2 ^ F.mb - 1)) :
    e * 2 ^ F.mb + f ≤ F.largest := by
  have two := R.two_le
  unfold largest
  cases inf : F.inf with
  | true =>
    have below : e + 1 ≤ 2 ^ F.eb - 1 := by
      have other : e ≠ 2 ^ F.eb - 1 := fun h => no_inf ⟨inf, h⟩
      omega
    have next := Nat.mul_le_mul_right (2 ^ F.mb) below
    rw [Nat.succ_mul] at next
    rw [if_pos rfl]
    omega
  | false =>
    rw [if_neg Bool.false_ne_true, Nat.pow_add]
    by_cases top : e = 2 ^ F.eb - 1
    · have other : f ≠ 2 ^ F.mb - 1 := fun h => no_nan ⟨inf, top, h⟩
      have whole : (e + 1) * 2 ^ F.mb = 2 ^ F.eb * 2 ^ F.mb := by rw [show e + 1 = 2 ^ F.eb by omega]
      rw [Nat.succ_mul] at whole
      omega
    · have next := Nat.mul_le_mul_right (2 ^ F.mb) (show e + 1 + 1 ≤ 2 ^ F.eb by omega)
      rw [Nat.succ_mul, Nat.succ_mul] at next
      omega

/-- No finite code reads as a NaN. -/
theorem Flt.enc_fin {F : Flt} {m : Rnd} {slice num mag : Nat} {neg : Bool} {exp : Int} (bound : F.largest < F.signBit) (inf : F.inf = false → F.largest < F.infCode)
    (small : mag ≤ F.largest) (rounds : F.roundQ m slice false neg num 1 exp = (if neg then F.signBit else 0) + mag) :
    F.enc m (.fin neg num exp) slice = (if neg then F.signBit else 0) + mag := by
  unfold enc
  dsimp only
  rw [rounds]
  refine if_neg fun h => ?_
  obtain ⟨plain, top⟩ : F.inf = false ∧ ((if neg then F.signBit else 0) + mag) % F.signBit = F.infCode := by simpa using h
  have rest : ((if neg then F.signBit else 0) + mag) % F.signBit = mag := by
    split
    · rw [Nat.add_mod_left, Nat.mod_eq_of_lt (by omega)]
    · rw [Nat.zero_add, Nat.mod_eq_of_lt (by omega)]
  have := inf plain
  omega

theorem Flt.Regular.largest_lt {F : Flt} (R : F.Regular) : F.largest < F.signBit := by
  have two := R.two_le
  have some : 0 < 2 ^ F.eb := Nat.two_pow_pos _
  have all : 2 ^ F.mb ≤ 2 ^ F.eb * 2 ^ F.mb := Nat.le_mul_of_pos_left _ some
  unfold largest signBit
  rw [Nat.pow_add]
  split
  · rw [Nat.sub_one_mul]; omega
  · omega

theorem Flt.Regular.largest_lt_infCode {F : Flt} (R : F.Regular) (plain : F.inf = false) : F.largest < F.infCode := by
  have two := R.two_le
  have some : 0 < 2 ^ F.eb := Nat.two_pow_pos _
  have all : 2 ^ F.mb ≤ 2 ^ F.eb * 2 ^ F.mb := Nat.le_mul_of_pos_left _ some
  unfold largest infCode
  rw [plain, if_neg Bool.false_ne_true, if_neg Bool.false_ne_true, Nat.pow_add]
  omega

/-- A subnormal code is what its value is encoded to. -/
theorem Flt.enc_subnormal {F : Flt} (R : F.Regular) (m : Rnd) (slice : Nat) (neg : Bool) {f : Nat} (hf : f < 2 ^ F.mb) (small : f ≤ F.largest) :
    F.enc m (.fin neg f F.qmin) slice = (if neg then F.signBit else 0) + f := by
  refine enc_fin R.largest_lt R.largest_lt_infCode small ?_
  by_cases zero : f = 0
  · subst zero; rfl
  · have log : Nat.log2 f < F.mb := (Nat.log2_lt zero).2 hf
    have offset : (F.qmin - F.qmin).toNat * 2 ^ F.mb + f = f := by simp
    refine (roundQ_of_fits m slice false neg zero (le_refl _) log.le (.inl rfl) ?_ (offset.le.trans small)).trans (by rw [offset])
    unfold qmin
    omega

/-- A normal code is what its value is encoded to. -/
theorem Flt.enc_normal {F : Flt} (R : F.Regular) (m : Rnd) (slice : Nat) (neg : Bool) {e f : Nat} (he : e < 2 ^ F.eb) (hf : f < 2 ^ F.mb)
    (normal : e ≠ 0) (small : e * 2 ^ F.mb + f ≤ F.largest) :
    F.enc m (.fin neg (2 ^ F.mb + f) (F.qmin + (e - 1 : Int))) slice = (if neg then F.signBit else 0) + (e * 2 ^ F.mb + f) := by
  refine enc_fin R.largest_lt R.largest_lt_infCode small ?_
  have pos : 2 ^ F.mb + f ≠ 0 := by omega
  have log : Nat.log2 (2 ^ F.mb + f) = F.mb := by
    refine Nat.le_antisymm (Nat.lt_succ_iff.1 ((Nat.log2_lt pos).2 ?_)) ((Nat.le_log2 pos).2 (Nat.le_add_right ..))
    rw [Nat.pow_succ]; omega
  have offset : (F.qmin + (e - 1 : Int) - F.qmin).toNat * 2 ^ F.mb + (2 ^ F.mb + f) = e * 2 ^ F.mb + f := by
    rw [show (F.qmin + (e - 1 : Int) - F.qmin).toNat = e - 1 by omega, ← Nat.add_assoc, ← Nat.succ_mul, show (e - 1).succ = e by omega]
  refine (roundQ_of_fits m slice false neg pos (by omega) log.le (.inr log) ?_ (offset.le.trans small)).trans (by rw [offset])
  have exponents := R.exponents
  rw [log]
  unfold qmin
  omega

theorem Flt.enc_dec {F : Flt} (R : F.Regular) (m : Rnd) {x : Nat} (h : x < 2 ^ F.width) (number : F.dec x ≠ .nan) (slice : Nat) :
    F.enc m (F.dec x) slice = x := by
  have he : bitsOf x F.mb F.eb < 2 ^ F.eb := Nat.mod_lt _ (Nat.two_pow_pos _)
  have hf : bitsOf x 0 F.mb < 2 ^ F.mb := Nat.mod_lt _ (Nat.two_pow_pos _)
  have code := F.code_eq h
  unfold dec at number ⊢
  generalize bitsOf x F.mb F.eb = e at *
  generalize bitsOf x 0 F.mb = f at *
  generalize bitsOf x (F.eb + F.mb) 1 = g at *
  dsimp only at number ⊢
  have sign : (if decide (g = 1) = true then F.signBit else 0) = if g = 1 then F.signBit else 0 := by simp
  rw [code, ← sign]
  by_cases infinite : (F.inf && decide (e = 2 ^ F.eb - 1)) = true
  · rw [if_pos infinite] at number ⊢
    obtain ⟨inf, top⟩ : F.inf = true ∧ e = 2 ^ F.eb - 1 := by simpa using infinite
    have zero : f = 0 := Decidable.byContradiction fun some => number (if_neg some)
    rw [if_pos zero, zero, top]
    have code_inf : F.infCode = (2 ^ F.eb - 1) * 2 ^ F.mb + 0 := if_pos inf
    rw [← code_inf]
    unfold enc
    dsimp only
    rw [if_neg Bool.false_ne_true]
    exact if_neg (by simp [inf])
  · rw [if_neg infinite] at number ⊢
    have not_nan : ¬ (!F.inf && decide (e = 2 ^ F.eb - 1) && decide (f = 2 ^ F.mb - 1)) = true := fun h => number (if_pos h)
    rw [if_neg not_nan]
    have small : e * 2 ^ F.mb + f ≤ F.largest := magnitude_le R he hf (by simpa using infinite) (by simpa [and_assoc] using not_nan)
    by_cases subnormal : e = 0
    · rw [if_pos subnormal, subnormal, Nat.zero_mul, Nat.zero_add]
      exact enc_subnormal R m slice _ hf (by rw [subnormal, Nat.zero_mul, Nat.zero_add] at small; exact small)
    · rw [if_neg subnormal]
      exact enc_normal R m slice _ he hf subnormal small

theorem regular_formats : ∀ F ∈ [Flt.f64, Flt.f32, Flt.f16, Flt.bf16, Flt.e4m3, Flt.e5m2], F.Regular := by
  intro F hF
  simp only [List.mem_cons, List.not_mem_nil, or_false] at hF
  rcases hF with rfl | rfl | rfl | rfl | rfl | rfl <;> exact ⟨by decide, by decide⟩

/-- Settles O7: by the fields of the code; the value of a finite code has a significand that fits, which encoding does not round. -/
theorem floatCodesExact : Obligations.FloatCodesExact := by
  unfold Obligations.FloatCodesExact
  intro F format m x inRange number slice
  exact Flt.enc_dec (regular_formats F format) m inRange number slice

end Sys2Proof.Machine
end

section
/-! PROOFS. Walks, invalidation and the answers of the fault queue (R29 to R33, R35, R36, R38). -/

namespace Sys2Proof.Machine

/-! ## Invalidation -/

theorem xlinv_accepts {s : State} {v : DWord} {kind : Nat} (go : v.toNat % 2 = 1) (ofKind : v.toNat / 2 % 4 = kind) (fields : v.toNat / 2 ^ 52 = 0)
    (rest : v.toNat / 2 ^ 11 % 2 ^ 5 = 0) (known : kind ≠ 3) : xlinv kind v s =
      if s.xl.invBusy then { s with xl := { s.xl with invErr := true } }
      else invDrop { s with xl := { s.xl with invErr := false, invBusy := true, invCmd := some v } } v := by
  have named : invKind v = kind := ofKind
  have started : v.getLsbD 0 = true := by
    rw [BitVec.getLsbD, Nat.testBit_eq_decide_div_mod_eq, Nat.pow_zero, Nat.div_one, go]; rfl
  have high : bitsOf v.toNat 52 12 = 0 := by rw [bitsOf, fields, Nat.zero_mod]
  have middle : bitsOf v.toNat 11 5 = 0 := rest
  unfold xlinv
  refine (if_neg (by simp [named])).trans ((if_neg (by simp [started])).trans ?_)
  rw [named, high, middle]
  simp [known]

/-- What is left of the translation caches behind an invalidation. -/
theorem invDrop_tlb (s : State) (v : DWord) {c : Nat} {y : Core} (h : s.cores.at? c = some y) :
    ((invDrop s v).core c).tlb = y.tlb.filter (fun e => !invHits v e) := by
  have found := NMap.at?_mapV s.cores (fun _ x => { x with tlb := x.tlb.filter (fun e => !invHits v e) }) c
  rw [h] at found
  have core : (invDrop s v).core c = { y with tlb := y.tlb.filter (fun e => !invHits v e) } := congrArg (Option.getD · Core.reset) found
  rw [core]

theorem NMap.atD_mapV_filter {α : Type} (m : NMap (List α)) (p : α → Bool) (d : Nat) :
    (m.mapV fun _ t => t.filter p).atD d [] = (m.atD d []).filter p := by
  rw [NMap.atD, NMap.atD, NMap.at?_mapV]
  cases m.at? d <;> rfl

theorem invHits_of_kind {v : DWord} {kind : Nat} (named : invKind v = kind) (e : TlbEntry) : invHits v e =
    if kind = 0 then e.ctx = invCtx v && e.page = invGranule v * 65536 / 2 ^ e.bits else if kind = 1 then e.ctx = invCtx v else true := by
  unfold invHits
  rw [named]
  match kind with
  | 0 | 1 | _ + 2 => rfl

theorem invHitsWalk_of_kind {v : DWord} {kind : Nat} (named : invKind v = kind) (e : WalkEntry) : invHitsWalk v e =
    if kind = 0 then e.ctx = invCtx v && e.page = invGranule v * 65536 / 2 ^ e.bits else if kind = 1 then e.ctx = invCtx v else true := by
  unfold invHitsWalk
  rw [named]
  match kind with
  | 0 | 1 | _ + 2 => rfl

theorem coreAsks_le {s : State} {y : Core} (h : coreAsks s y (fun _ => true) = false) (hit : Nat → Bool) : coreAsks s y hit = false := by
  refine eq_false_of_ne_true fun asks => ne_true_of_eq_false h ?_
  unfold coreAsks at asks ⊢
  simp only [Bool.or_eq_true, Bool.and_eq_true] at asks ⊢
  rcases asks with (copies | ⟨mine, engine⟩) | ⟨-, control⟩
  · refine .inl (.inl ?_)
    obtain ⟨z, hz, moving⟩ := List.any_eq_true.1 copies
    refine List.any_eq_true.2 ⟨z, hz, ?_⟩
    dsimp only at moving ⊢
    cases cmd : z.2.cmd with
    | none => rw [cmd] at moving; exact moving
    | some x =>
      rw [cmd] at moving
      exact (Bool.and_true _).trans (Bool.and_eq_true_iff.1 moving).1
  · refine .inl (.inr ⟨?_, engine⟩)
    split
    · split <;> rfl
    · rfl
  · exact .inr ⟨trivial, control⟩

/-! ## Records -/

theorem writeFault_ids (s : State) {x : FaultRec} (h : x ∈ (writeFault s).xl.faults) : ∃ y ∈ s.xl.faults, x.id = y.id := by
  unfold writeFault at h
  split at h
  · exact ⟨x, h, rfl⟩
  · split at h
    · obtain ⟨y, hy, rfl⟩ := List.mem_map.1 h
      refine ⟨y, hy, ?_⟩
      split <;> rfl
    · exact ⟨x, h, rfl⟩

theorem writeFaults_ids (n : Nat) : ∀ (s : State) {x : FaultRec}, x ∈ (writeFaults s n).xl.faults → ∃ y ∈ s.xl.faults, x.id = y.id := by
  induction n with
  | zero => exact fun s x h => ⟨x, h, rfl⟩
  | succ n ih =>
    intro s x h
    obtain ⟨y, hy, same⟩ := ih _ h
    obtain ⟨z, hz, same'⟩ := writeFault_ids s hy
    exact ⟨z, hz, same.trans same'⟩

theorem answered_gone (s : State) (id : Nat) {x : FaultRec} (h : x ∈ (answered s id).xl.faults) : x.id ≠ id := by
  obtain ⟨y, hy, same⟩ := writeFaults_ids _ _ h
  have other := (List.mem_filter.1 hy).2
  rw [same]
  simpa using other

/-! ## What a kill of a warp leaves alone -/

/-- No stream and no copy channel of a core is parked on the record. -/
def SidesFree (id : Nat) (y : Core) : Prop :=
  (∀ t ∈ y.streams, t.2.wait.onRecord id = false) ∧ ∀ z ∈ y.chans, ∀ x, z.2.cmd = some x → x.parked ≠ some id

def AllSidesFree (id : Nat) (s : State) : Prop := ∀ e ∈ s.cores, SidesFree id e.2

theorem streamsOn_nil {s : State} {id : Nat} : streamsOn s id = [] ↔ ∀ e ∈ s.cores, ∀ t ∈ e.2.streams, t.2.wait.onRecord id = false := by
  simp [streamsOn, NMap.filterV, List.flatMap_eq_nil_iff, List.map_eq_nil_iff, List.filter_eq_nil_iff]

theorem copiesOn_nil {s : State} {id : Nat} : copiesOn s id = [] ↔
    ∀ e ∈ s.cores, ∀ z ∈ e.2.chans, ∀ x, z.2.cmd = some x → x.parked ≠ some id := by
  unfold copiesOn
  rw [List.flatMap_eq_nil_iff]
  refine forall₂_congr fun e he => ?_
  rw [List.filterMap_eq_nil_iff]
  refine forall₂_congr fun z hz => ?_
  cases z.2.cmd with
  | none => simp
  | some x => simp

theorem allSidesFree_iff {s : State} {id : Nat} : AllSidesFree id s ↔ streamsOn s id = [] ∧ copiesOn s id = [] := by
  rw [streamsOn_nil, copiesOn_nil]
  exact ⟨fun h => ⟨fun e he => (h e he).1, fun e he => (h e he).2⟩, fun h e he => ⟨h.1 e he, h.2 e he⟩⟩

theorem NMap.mem_put {α : Type} {m : NMap α} {k : Nat} {v : α} {e : Nat × α} (h : e ∈ NMap.put m k v) : e = (k, v) ∨ e ∈ m := by
  induction m with
  | nil => exact .inl (List.mem_singleton.1 h)
  | cons a m ih =>
    obtain ⟨j, w⟩ := a
    unfold NMap.put at h
    split at h
    · exact (List.mem_cons.1 h).imp id (List.mem_cons_of_mem _)
    · split at h
      · exact List.mem_cons.1 h
      · rcases List.mem_cons.1 h with same | inside
        · exact .inr (same ▸ List.mem_cons_self)
        · exact (ih inside).imp id (List.mem_cons_of_mem _)

theorem sidesFree_reset (id : Nat) : SidesFree id Core.reset := by
  unfold SidesFree
  rw [show Core.reset.streams = [] from rfl, show Core.reset.chans = [] from rfl]
  exact ⟨fun _ h => absurd h List.not_mem_nil, fun _ h => absurd h List.not_mem_nil⟩

theorem AllSidesFree.core {id : Nat} {s : State} (h : AllSidesFree id s) (c : Nat) : SidesFree id (s.core c) := by
  show SidesFree id (NMap.atD s.cores c Core.reset)
  unfold NMap.atD
  cases here : s.cores.at? c with
  | none => exact sidesFree_reset id
  | some y => exact h _ (NMap.mem_of_at? here)

theorem AllSidesFree.modCore {id : Nat} {s : State} (h : AllSidesFree id s) (c : Nat) (f : Core → Core)
    (keeps : ∀ y, (f y).streams = y.streams ∧ (f y).chans = y.chans) : AllSidesFree id (s.modCore c f) := by
  intro e he
  rcases NMap.mem_put he with rfl | inside
  · obtain ⟨streams, chans⟩ := keeps (s.core c)
    show SidesFree id (f (s.core c))
    unfold SidesFree
    rw [streams, chans]
    exact h.core c
  · exact h e inside

theorem AllSidesFree.modWarp {id : Nat} {s : State} (h : AllSidesFree id s) (c k : Nat) (f : Warp → Warp) : AllSidesFree id (s.modWarp c k f) :=
  h.modCore c _ fun _ => ⟨rfl, rfl⟩

theorem enterTraps_sides (n : Nat) : ∀ x : Core, (x.enterTraps n).streams = x.streams ∧ (x.enterTraps n).chans = x.chans := by
  induction n with
  | zero => exact fun _ => ⟨rfl, rfl⟩
  | succ n ih =>
    intro x
    unfold Core.enterTraps
    split
    · exact ⟨rfl, rfl⟩
    · split
      · exact ih _
      · exact ⟨rfl, rfl⟩

theorem AllSidesFree.raiseTrap {id : Nat} {s : State} (h : AllSidesFree id s) {c k : Nat} (hk : k ≠ ctrlSlot) (cause : Nat) (pc : DWord) (i : TrapInfo) :
    AllSidesFree id (raiseTrap s c k cause pc i) := by
  unfold Machine.raiseTrap
  rw [if_neg hk]
  split
  · exact h
  · split
    · exact h
    · rw [pushTrap_eq]
      refine AllSidesFree.modCore (AllSidesFree.modWarp (s := s.dropWarp c k) h c k _) c _ fun y => ?_
      exact enterTraps_sides _ _

theorem AllSidesFree.park {id : Nat} {s : State} (h : AllSidesFree id s) {c k : Nat} (hk : k ≠ ctrlSlot) (l : Nat) (w : Wait) : AllSidesFree id (park s c k l w) := by
  have left : AllSidesFree id ((s.modLane c k l (fun y => { y with wait := w })).leave k l) := by
    unfold AllSidesFree
    rw [State.leave_cores, State.modLane, if_neg hk]
    exact h.modWarp c k _
  unfold Machine.park
  dsimp only
  split
  · exact left.modWarp c k _
  · exact left

theorem AllSidesFree.parkAll {id : Nat} {c k : Nat} (hk : k ≠ ctrlSlot) (w : Wait) (ls : List Nat) : ∀ {s : State}, AllSidesFree id s →
    AllSidesFree id (parkAll s c k ls w) := by
  induction ls with
  | nil => exact fun h => h
  | cons l ls ih => exact fun h => ih (h.park hk l w)

theorem AllSidesFree.deliverKilled {id : Nat} {s : State} (h : AllSidesFree id s) {c k : Nat} (hk : k ≠ ctrlSlot) :
    AllSidesFree id (deliverKilled s c k) := by
  unfold Machine.deliverKilled
  split
  · exact h
  · extract_lets of
    split
    · exact h
    · split
      · exact h
      · extract_lets pc hit s1
        split
        · exact AllSidesFree.raiseTrap (h.modWarp c k _) hk _ _ _
        · exact h

/-! ## The trap of a warp whose lanes a kill names -/

/-- A warp's lanes, as those given wait. -/
def Warp.parkedLanes (w : Warp) (ls : List Nat) (y : Wait) : NMap Lane := ls.foldl (fun m l => m.upd l (fun x => { x with wait := y })) w.lanes

theorem warp?_park {s : State} {c k : Nat} {w : Warp} (hk : k ≠ ctrlSlot) (hw : s.warp? c k = some w) (l : Nat) {y : Wait} (short : y.long = false) :
    (park s c k l y).warp? c k = some { w with lanes := w.lanes.upd l (fun x => { x with wait := y }) } := by
  unfold park
  dsimp only
  rw [short, if_neg Bool.false_ne_true, warp?_leave, State.modLane, if_neg hk, State.warp?_modWarp_self, hw]
  rfl

theorem warp?_parkAll {c k : Nat} (hk : k ≠ ctrlSlot) {y : Wait} (short : y.long = false) (ls : List Nat) : ∀ {s : State} {w : Warp}, s.warp? c k = some w →
    (parkAll s c k ls y).warp? c k = some { w with lanes := w.parkedLanes ls y } := by
  induction ls with
  | nil => exact fun h => h
  | cons l ls ih => exact fun h => ih (warp?_park hk h l short)

theorem NMap.at?_foldl_upd {α : Type} {f : α → α} (once : ∀ x, f (f x) = f x) (ls : List Nat) : ∀ (m : NMap α) (l : Nat),
    (ls.foldl (fun m l => m.upd l f) m).at? l = (m.at? l).map (fun x => if l ∈ ls then f x else x) := by
  induction ls with
  | nil => intro m l; simp
  | cons j ls ih =>
    intro m l
    rw [List.foldl_cons, ih, NMap.at?_upd]
    by_cases same : l = j
    · subst same
      rw [if_pos rfl, Option.map_map]
      refine congrArg (Option.map · _) (funext fun x => ?_)
      by_cases later : l ∈ ls <;> simp [later, once]
    · rw [if_neg same]
      simp [same]

section

variable {s : State} {c k : Nat} {w : Warp}

theorem raiseTrap_warp (hk : k ≠ ctrlSlot) (hw : s.warp? c k = some w) (going : w.trapped = false) (cause : Nat) (pc : DWord) (i : TrapInfo) :
    ∃ v, (raiseTrap s c k cause pc i).warp? c k = some v ∧ v.trapped = true ∧ v.cause = cause ∧ v.trapPc = pc := by
  unfold raiseTrap
  rw [if_neg hk, hw]
  dsimp only
  rw [going, if_neg Bool.false_ne_true, pushTrap_eq]
  refine ⟨w.takesTrap cause pc (match w.stopped with | some y => i.done ||| y.done | none => i.done), ?_, rfl, rfl, rfl⟩
  unfold State.warp?
  rw [State.core_modCore_self, (enterTraps_frame _ _).1]
  refine (State.warp?_modWarp_self (s := s.dropWarp c k) ..).trans ?_
  exact congrArg (Option.map _) hw

/-- The lowest lane that a kill names takes the translation trap where it stands (R38). -/
theorem deliverKilled_traps (hk : k ≠ ctrlSlot) (hw : s.warp? c k = some w) (going : w.trapped = false) {l : Nat}
    (first : w.present.find? (fun l => ((w.lanes.atD l Lane.never).wait.killedBy).isSome) = some l) :
    ∃ v, (deliverKilled s c k).warp? c k = some v ∧ v.trapped = true ∧ v.cause = 0x07 ∧ v.trapPc = (w.lanes.atD l Lane.never).pc := by
  obtain ⟨⟨d, a⟩, killed⟩ := Option.isSome_iff_exists.1 (List.find?_some (p := fun l => ((w.lanes.atD l Lane.never).wait.killedBy).isSome) first)
  unfold deliverKilled
  rw [hw]
  dsimp only
  rw [first]
  dsimp only
  rw [going, if_neg Bool.false_ne_true, killed]
  exact raiseTrap_warp hk ((State.warp?_modWarp_self ..).trans (congrArg (Option.map _) hw)) going ..

/-- The lanes of a warp that wait for the record, once they are killed. -/
theorem killed_first (ls : List Nat) (head : w.present.find? (fun l => l ∈ ls) = some l) (alive : ∀ l, (w.lanes.atD l Lane.never).wait.killedBy = none) (d : Nat) (a : DWord) :
    let v := { w with lanes := w.parkedLanes ls (.killed d a) }
    v.present.find? (fun l => ((v.lanes.atD l Lane.never).wait.killedBy).isSome) = some l ∧ (v.lanes.atD l Lane.never).pc = (w.lanes.atD l Lane.never).pc := by
  intro v
  have lane (j : Nat) : v.lanes.at? j = (w.lanes.at? j).map (fun x => if j ∈ ls then { x with wait := .killed d a } else x) :=
    NMap.at?_foldl_upd (f := fun x : Lane => { x with wait := .killed d a }) (fun _ => rfl) ls w.lanes j
  have kind (j : Nat) : (v.lanes.atD j Lane.never).kind = (w.lanes.atD j Lane.never).kind ∧ (v.lanes.atD j Lane.never).pc = (w.lanes.atD j Lane.never).pc := by
    unfold NMap.atD
    rw [lane]
    cases w.lanes.at? j with
    | none => exact ⟨rfl, rfl⟩
    | some x => by_cases named : j ∈ ls <;> simp [named]
  have same : v.present = w.present := List.filter_congr fun j _ => by rw [(kind j).1]
  refine ⟨?_, (kind l).2⟩
  rw [same, ← head]
  refine List.find?_congr fun j hj => ?_
  have alive_j := alive j
  have here := (List.mem_filter.1 hj).2
  unfold NMap.atD at alive_j here ⊢
  rw [lane]
  cases at_j : w.lanes.at? j with
  | none => rw [at_j] at here; exact absurd here (by decide)
  | some x =>
    rw [at_j] at alive_j
    by_cases named : j ∈ ls
    · simp [named, Wait.killedBy]
    · simpa [named] using alive_j

end

/-! ## The answer that kills -/

theorem core_warps_foldl_killMat (l : List Nat) : ∀ (s : State) (c : Nat), ((l.foldl killMat s).core c).warps = (s.core c).warps := by
  induction l with
  | nil => exact fun _ _ => rfl
  | cons n l ih =>
    intro s c
    rw [List.foldl_cons, ih]
    exact WarpsLook.warps_mapV s.cores (f := fun _ y => { y with engine := { y.engine with
      pending := y.engine.pending.map (fun m => if m.id = n then { m with more := false } else m) } }) (fun _ _ => rfl) c

theorem killSaved_warps (r : FaultRec) (s : State) (c : Nat) : ((killSaved r s).core c).warps = (s.core c).warps := by
  unfold killSaved
  exact core_warps_foldl_killMat _ s c

theorem parkedOn_mem {s : State} {id c k : Nat} {ls : List Nat} (h : (c, k, ls) ∈ parkedOn s id) : ls = waiting s c k (Wait.onRecord id) ∧ ls ≠ [] := by
  obtain ⟨e, -, h⟩ := List.mem_flatMap.1 h
  obtain ⟨w, -, h⟩ := List.mem_filterMap.1 h
  dsimp only at h
  split at h
  · cases h
  · next some => cases h; exact ⟨rfl, some⟩

/-- Where one warp alone is parked on a record, the answer that kills is that warp's trap (R38). -/
theorem fqresumeKill_one {i : BitVec 12} {s : State} {r : FaultRec} (here : recordAt s i.toNat = some r) {c k : Nat} {ls : List Nat}
    (parked : parkedOn (endOrphans (answered s r.id) r.id) r.id = [(c, k, ls)]) (free : AllSidesFree r.id (endOrphans (answered s r.id) r.id))
    (own : ∀ l ∈ ls, ((endOrphans (answered s r.id) r.id).lane c k l).wait.faultKind.ofEngine = false) (hk : k ≠ ctrlSlot) :
    ∃ t, exec (.fqresumeKill i) s = .next t ∧ ∀ b, (t.core b).warps =
      ((deliverKilled (parkAll (endOrphans (answered s r.id) r.id) c k ls (.killed r.cause r.va)) c k).core b).warps := by
  obtain ⟨-, some⟩ := parkedOn_mem (parked ▸ List.mem_singleton_self (c, k, ls))
  obtain ⟨l, rest, rfl⟩ := List.exists_cons_of_ne_nil some
  show ∃ t, Host.Outcome.next _ = .next t ∧ _
  rw [here]
  dsimp only
  generalize endOrphans (answered s r.id) r.id = s1 at parked free own ⊢
  have killed : killWarp r s1 c k (l :: rest) = deliverKilled (parkAll s1 c k (l :: rest) (.killed r.cause r.va)) c k :=
    if_neg (ne_true_of_eq_false (own l List.mem_cons_self))
  have sides : AllSidesFree r.id (deliverKilled (parkAll s1 c k (l :: rest) (.killed r.cause r.va)) c k) := (free.parkAll hk (.killed r.cause r.va) (l :: rest)).deliverKilled hk
  obtain ⟨streams, copies⟩ := allSidesFree_iff.1 sides
  refine ⟨_, rfl, fun b => ?_⟩
  rw [parked, List.foldl_cons, List.foldl_nil, killed, streams, List.foldl_nil, copies, List.foldl_nil]
  exact killSaved_warps r _ b

theorem first_of_waiting {w : Warp} {p : Nat → Bool} {ls : List Nat} (h : ls = w.present.filter p) (some : ls ≠ []) :
    w.present.find? (fun l => l ∈ ls) = .some (ls.headD 0) := by
  have same : w.present.find? (fun l => l ∈ ls) = w.present.find? p := List.find?_congr fun l hl => by
    have named : l ∈ ls ↔ p l = true := by rw [h, List.mem_filter]; exact and_iff_right hl
    simp [named]
  rw [same, ← List.head?_filter, ← h]
  obtain ⟨l, rest, rfl⟩ := List.exists_cons_of_ne_nil some
  rfl

theorem noLanes_anyV {ops : NMap MemOp} {P : LaneAcc → Bool} (named : MemOp → Bool) (none : ∀ e ∈ ops, ∀ a ∈ e.2.lanes, P a = false) :
    ops.anyV (fun _ o => named o && o.lanes.any P) = false :=
  List.any_eq_false.2 fun e he => by
    have quiet : e.2.lanes.any P = false := List.any_eq_false.2 fun a ha => ne_true_of_eq_false (none e he a ha)
    dsimp only
    rw [quiet, Bool.and_false]
    exact Bool.false_ne_true

theorem invQuiet_of {s : State} {v : DWord} (ops : ∀ e ∈ s.ops, ∀ a ∈ e.2.lanes, ∃ c off, a.place = .debug c off)
    (cores : ∀ e ∈ s.cores, coreAsks s e.2 (fun _ => true) = false) (launches : ∀ e ∈ s.launches, e.2.asked = [] ∧ e.2.polls = [])
    (jobs : ∀ e ∈ s.jobs, e.2.asked = none) (opening : ∀ o, s.rep.opening = some o → o.asked = none) : invQuiet s v = true := by
  unfold invQuiet
  extract_lets hit
  have noCores : s.cores.anyV (fun _ y => coreAsks s y hit) = false :=
    List.any_eq_false.2 fun e he => ne_true_of_eq_false (coreAsks_le (cores e he) hit)
  have noLaunches : s.launches.anyV (fun _ x => hit x.ctx && (x.asked != [] || x.polls != [])) = false :=
    List.any_eq_false.2 fun e he => by simp [launches e he]
  have noJobs : s.jobs.anyV (fun _ j => hit j.ctx && j.asked.isSome) = false := List.any_eq_false.2 fun e he => by simp [jobs e he]
  have noOpening : s.rep.opening.any (fun o => o.asked.isSome) = false := by
    cases open_ : s.rep.opening with
    | none => rfl
    | some o => simp [opening o open_]
  rw [noOpening]
  simp only [noCores, noLaunches, noJobs, Bool.not_false, Bool.and_true]
  refine congrArg (! ·) (noLanes_anyV (fun o => hit (ownerCtx s o.owner)) fun e he a ha => ?_)
  obtain ⟨c, off, at_⟩ := ops e he a ha
  rw [at_]

/-- Settles O52: the walk's end and the answers by the model's own case split, invalidation by the fields of its command. -/
theorem translation : Obligations.Translation := by
  unfold Obligations.Translation
  extract_lets walkers slots
  refine ⟨fun c ctx va s u e bits leaf => ?_, fun c ctx va s u f fault => ?_, fun s v => ?_, fun s v cmd ops cores launches jobs opening => ?_,
    fun i s r here => ?_, fun i s none => ?_, fun s v => ?_, fun s v => ?_⟩
  · show Host.Outcome.next _ = _
    rw [leaf]
    rfl
  · show Host.Outcome.next _ = _
    rw [fault]
    rfl
  · intro n ctx hits form
    have all (i : Instr) (kind : Nat) (known : kind ≠ 3) (run : exec i s = .next (xlinv kind v s)) : form i kind := fun go ofKind fields rest => by
      rw [run, xlinv_accepts go ofKind fields rest known]
      refine ⟨fun idle => ⟨_, congrArg Host.Outcome.next (if_neg (ne_true_of_eq_false idle)), rfl, rfl, rfl, rfl, fun c y here => ?_, fun d => ?_, fun d => ?_⟩,
        fun busy => congrArg Host.Outcome.next (if_pos busy)⟩
      · refine (invDrop_tlb _ v here).trans (List.filter_congr fun e _ => ?_)
        exact congrArg (! ·) (invHits_of_kind ofKind e)
      · refine (NMap.atD_mapV_filter s.xl.dieTlb _ d).trans (List.filter_congr fun e _ => ?_)
        exact congrArg (! ·) (invHits_of_kind ofKind e)
      · refine (NMap.atD_mapV_filter s.xl.walks _ d).trans (List.filter_congr fun e _ => ?_)
        exact congrArg (! ·) (invHitsWalk_of_kind ofKind e)
    exact ⟨all _ 0 (by decide) rfl, all _ 1 (by decide) rfl, all _ 2 (by decide) rfl⟩
  · have run : exec .xlinvComplete s = .next { invDrop s v with xl := { (invDrop s v).xl with invBusy := false, invCmd := none } } := by
      show Host.Outcome.next _ = _
      rw [cmd]
      exact congrArg Host.Outcome.next (if_neg (by rw [invQuiet_of ops cores launches jobs opening]; exact Bool.false_ne_true))
    exact ⟨_, run, rfl, rfl⟩
  · intro s1 resumed
    refine ⟨fun x => answered_gone s r.id, ?_, fun streams copies saved c k ls parked own hk => ?_⟩
    · show Host.Outcome.next _ = _
      rw [here]
    · obtain ⟨t, run, warps⟩ := fqresumeKill_one here parked (allSidesFree_iff.2 ⟨streams, copies⟩) own hk
      refine ⟨t, run, fun w hw going alive => ?_⟩
      obtain ⟨listed, some⟩ := parkedOn_mem (show (c, k, ls) ∈ parkedOn s1 r.id from parked ▸ List.mem_singleton_self (c, k, ls))
      have waits : ls = w.present.filter (fun l => (w.lanes.atD l Lane.never).wait.onRecord r.id) := by
        rw [listed, waiting, hw]
      obtain ⟨first, pc⟩ := killed_first ls (first_of_waiting waits some) alive r.cause r.va
      obtain ⟨v, stands, trapped, cause, at_pc⟩ := deliverKilled_traps hk (warp?_parkAll hk rfl ls hw) going first
      refine ⟨v, ?_, trapped, cause, at_pc.trans (pc.trans ?_)⟩
      · unfold State.warp? at stands ⊢
        rw [warps, stands]
      · unfold State.lane
        rw [if_neg hk, hw]
  · refine ⟨?_, ?_⟩
    · show Host.Outcome.next _ = _
      rw [none]
    · show Host.Outcome.next _ = _
      rw [none]
  · intro t n
    refine ⟨fun few ring => congrArg Host.Outcome.next (if_neg fun bad => ?_), fun many => congrArg Host.Outcome.next (if_pos ?_)⟩
    · rcases (Bool.or_eq_true_iff.1 bad).imp of_decide_eq_true of_decide_eq_true with large | beyond
      · exact absurd large (Nat.not_lt.2 few)
      · exact absurd beyond (Nat.not_lt.2 ring)
    · exact Bool.or_eq_true_iff.2 (many.imp decide_eq_true decide_eq_true)
  · intro b
    refine ⟨fun same => congrArg Host.Outcome.next (if_pos same), fun other empty none => congrArg Host.Outcome.next ((if_neg other).trans (if_neg ?_)),
      fun other some => congrArg Host.Outcome.next ((if_neg other).trans (if_pos ?_))⟩
    · have ring : ringCount s.xl = 0 := by unfold ringCount; rw [empty, Nat.add_sub_cancel_left]
      rw [ring, none]
      decide
    · simp [some]

end Sys2Proof.Machine
end

section
/-! PROOFS. Packets at their owner (R71, R94, R106 to R112, R119, R123, R165). -/

namespace Sys2Proof.Machine

/-! ## Discarding, and access to local memory -/

theorem receive_discards {p : Packet} {s : State} (bad : pkOk p = false ∨ pkgLive s (pkSrc p) = false) (kind : Nat) (f : State → State) :
    receive kind p f s = discard s p :=
  if_pos (by rcases bad with h | h <;> simp [h])

section

variable {p : Packet} {s : State} {kind : Nat} (ok : pkOk p = true) (live : pkgLive s (pkSrc p) = true)

include ok live

theorem receive_of (ofKind : pkKind p = kind) (f : State → State) : receive kind p f s = f s :=
  (if_neg (by simp [ok, live])).trans (if_neg (by simp [ofKind]))

end

/-- The bytes that an access of a peer touches, from its address on. -/
def peerSpan (p : Packet) : Nat := match pkKind p with | 0 => pkLen p | 1 => 128 - pkAddr p % 128 | _ => (pkTy p).bits / 8

theorem inMemory_span {p : Packet} (inside : pkAddr p + peerSpan p ≤ Config.memTop) : ¬ (!inMemory (pkAddr p) (peerSpan p)) = true := by
  rw [show inMemory (pkAddr p) (peerSpan p) = true from decide_eq_true inside]
  exact Bool.false_ne_true

theorem peerAccess_of {p : Packet} {s : State} (inside : pkAddr p + peerSpan p ≤ Config.memTop) (free : peerHeld s p = false) :
    peerAccess p s = servePeer s p :=
  (if_neg (inMemory_span inside)).trans (if_neg (ne_true_of_eq_false free))

theorem peerAccess_held {p : Packet} {s : State} (inside : pkAddr p + peerSpan p ≤ Config.memTop) (held : peerHeld s p = true) :
    peerAccess p s = { s with fab := { s.fab with heldHere := s.fab.heldHere ++ [p] } } :=
  (if_neg (inMemory_span inside)).trans (if_pos held)

theorem pkSide_iff (p : Packet) : pkSide p = true ↔ pkGroup p ≠ 0 := by simp [pkSide]

theorem peerHeld_free {p : Packet} {s : State} {w : Bool} (ofKind : (pkKind p != 0) = w) (free : pkGroup p ≠ 0 ∨ lineHeld s (pkAddr p) w = false) :
    peerHeld s p = false := by
  unfold peerHeld
  rw [ofKind]
  rcases free with side | unheld
  · simp [(pkSide_iff p).2 side]
  · simp [unheld]

theorem peerSpan_load {p : Packet} (kind : pkKind p = 0) : peerSpan p = pkLen p := by
  unfold peerSpan
  rw [kind]
  rfl

theorem peerSpan_store {p : Packet} (kind : pkKind p = 1) : peerSpan p = 128 - pkAddr p % 128 := by
  unfold peerSpan
  rw [kind]
  rfl

theorem peerSpan_atomic {p : Packet} {k : Nat} (kind : pkKind p = k + 2) : peerSpan p = (pkTy p).bits / 8 := by
  unfold peerSpan
  rw [kind]
  rfl

theorem servePeer_load {p : Packet} (s : State) (kind : pkKind p = 0) : servePeer s p =
    answer (if pkGroup p ≠ 0 then s else l2Touch s (pkAddr p) .dflt) p 4 (pkAddr p) (Mem.bytes s.mem (pkAddr p) (pkLen p)) := by
  unfold servePeer
  rw [kind]
  exact congrArg (answer · p 4 (pkAddr p) _) (if_congr (pkSide_iff p) rfl rfl)

theorem servePeer_store {p : Packet} (s : State) (kind : pkKind p = 1) :
    let w := writePayload (notePeer s p) (pkAddr p) p.payload
    let mask := BitVec.ofNat 128 (leNat (p.payload.take 16))
    servePeer s p = answer (publishPkg (if pkGroup p ≠ 0 then w.1 else l2Access w.1 (pkAddr p / 128) .dflt mask mask) (signature w.2)) p 5 (pkAddr p) [] := by
  intro w mask
  unfold servePeer
  rw [kind]
  show answer (publishPkg (if pkSide p then w else writeHome (notePeer s p) p .dflt).1
    (signature (if pkSide p then w else writeHome (notePeer s p) p .dflt).2)) p 5 (pkAddr p) [] = _
  by_cases side : pkGroup p ≠ 0
  · rw [if_pos ((pkSide_iff p).2 side), if_pos side]
  · rw [if_neg (mt (pkSide_iff p).1 side), if_neg side]
    rfl

/-- The note of a count raised for a clone (R316). -/
theorem noteRaised_eq (s : State) (p : Packet) : noteRaised s p =
    if s.pops ≠ [] ∧ pkKind p = 2 ∧ pkGroup p ≠ 0 ∧ pkTag p / 2 ^ 56 = 3 ∧ pkAtomOp p = .add ∧ leNat (p.payload.take 8) = 1 then
      { s with fab := { s.fab with raised := s.fab.raised ++ [(pkSrc p, pkAddr p)] } } else s := by
  unfold noteRaised
  refine if_congr ?_ rfl rfl
  simp [pkSide, and_assoc]

theorem notePeer_kept (s : State) (p : Packet) : (notePeer s p).pops = s.pops ∧ (notePeer s p).fab = s.fab := by
  unfold notePeer addWriter
  split
  · exact ⟨rfl, rfl⟩
  · split <;> exact ⟨rfl, rfl⟩

theorem noteRaised_notePeer (s : State) (p : Packet) : noteRaised (notePeer s p) p =
    if s.pops ≠ [] ∧ pkKind p = 2 ∧ pkGroup p ≠ 0 ∧ pkTag p / 2 ^ 56 = 3 ∧ pkAtomOp p = .add ∧ leNat (p.payload.take 8) = 1 then
      { notePeer s p with fab := { s.fab with raised := s.fab.raised ++ [(pkSrc p, pkAddr p)] } } else notePeer s p := by
  obtain ⟨pops, fab⟩ := notePeer_kept s p
  refine (noteRaised_eq _ _).trans (if_congr (by rw [pops]) ?_ rfl)
  rw [fab]

/-- What an atomic at its owner leaves behind, once its line holds v (R110, R111, R316). -/
def atomDone (s : State) (p : Packet) (v : Nat) : State :=
  let a := pkAddr p
  let n := (pkTy p).bits / 8
  let noted := notePeer s p
  let w := if s.pops ≠ [] ∧ pkKind p = 2 ∧ pkGroup p ≠ 0 ∧ pkTag p / 2 ^ 56 = 3 ∧ pkAtomOp p = .add ∧ leNat (p.payload.take 8) = 1 then
    { noted with fab := { s.fab with raised := s.fab.raised ++ [(pkSrc p, a)] } } else noted
  let u := publishPkg (if pkGroup p ≠ 0 then w.wrMem a n v else l2Write (w.wrMem a n v) a n .dflt) (signature [a / 32])
  if (pkLen p).testBit 8 then answer u p 4 a (leBytes n (Mem.rd s.mem a n)) else answer u p 5 a []

theorem servePeer_atomic {p : Packet} (s : State) {k : Nat} (kind : pkKind p = k + 2) : servePeer s p = atomDone s p
    ((if k + 2 = 2 then [leNat (p.payload.take 8)] else pkVals p).foldl
      (fun cur v => (atomNew (pkAtomOp p) (pkTy p) cur v (if k + 2 = 2 then leNat ((p.payload.drop 8).take 8) else 0)).1)
      (Mem.rd s.mem (pkAddr p) ((pkTy p).bits / 8))) := by
  have raised := noteRaised_notePeer s p
  unfold servePeer atomDone
  rw [kind] at raised ⊢
  dsimp only
  rw [raised]
  by_cases side : pkGroup p ≠ 0
  · simp only [if_pos ((pkSide_iff p).2 side), if_pos side]
    rfl
  · simp only [if_neg (mt (pkSide_iff p).1 side), if_neg side]
    rfl

/-! ## The writes of a payload -/

theorem byte_foldl_setByte (base : Nat) (f : Nat → Byte) (l : List Nat) : ∀ (s : State) (i : Nat),
    Mem.byte (l.foldl (fun (s : State) i => { s with mem := Mem.setByte s.mem (base + i) (f i) }) s).mem (base + i) =
      if i ∈ l then f i else Mem.byte s.mem (base + i) := by
  induction l with
  | nil => intro s i; simp
  | cons j l ih =>
    intro s i
    rw [List.foldl_cons, ih, Mem.byte_setByte]
    by_cases same : i = j
    · subst same; simp
    · simp [same]

theorem byte_writePayload (s : State) (a : Nat) (pl : List Byte) {i : Nat} (h : i < 128) :
    Mem.byte (writePayload s a pl).1.mem (a / 128 * 128 + i) =
      if (BitVec.ofNat 128 (leNat (pl.take 16))).getLsbD i then
        (pl.drop 16).getD (i - ((List.range 128).filter (fun i => (BitVec.ofNat 128 (leNat (pl.take 16))).getLsbD i)).headD 0) 0
      else Mem.byte s.mem (a / 128 * 128 + i) := by
  unfold writePayload
  extract_lets m body on lo base
  rw [byte_foldl_setByte base (fun i => body.getD (i - lo) 0)]
  refine if_congr ?_ rfl rfl
  rw [List.mem_filter]
  exact and_iff_right (List.mem_range.2 h)

/-! ## Routing (R112) -/

theorem shortest_none {s : State} {l : List Nat} : shortest s l = none ↔ l = [] := by
  induction l with
  | nil => simp [shortest]
  | cons q t ih =>
    cases t with
    | nil => simp [shortest]
    | cons r t =>
      unfold shortest
      split
      · split <;> simp
      · simp

/-- The chosen port is the first with the shortest queue. -/
theorem shortest_some {s : State} {q : Nat} : ∀ {l : List Nat}, shortest s l = some q → q ∈ l ∧ (∀ r ∈ l, portQueue s q ≤ portQueue s r) ∧
    ∀ r t, l = r :: t → q ≠ r → portQueue s q < portQueue s r
  | [], h => by cases h
  | [r], h => by cases h; simp
  | r :: r' :: t, h => by
    unfold shortest at h
    split at h
    · next q' best =>
      obtain ⟨inside, least, -⟩ := shortest_some best
      split at h
      · next less =>
        cases h
        exact ⟨List.mem_cons_of_mem _ inside, fun x hx => by rcases List.mem_cons.1 hx with rfl | hx; exacts [less.le, least x hx],
          fun x t same _ => by cases same; exact less⟩
      · next more =>
        cases h
        exact ⟨List.mem_cons_self, fun x hx => by rcases List.mem_cons.1 hx with rfl | hx; exacts [le_refl _, (Nat.not_lt.1 more).trans (least x hx)],
          fun x t same other => by cases same; exact absurd rfl other⟩
    · next none => exact absurd (shortest_none.1 none) (List.cons_ne_nil _ _)

/-- Ports that a detour begins with, the best of each relay's. -/
def farPorts (s : State) (d : Nat) : List Nat := (detours s d).filterMap (fun r => shortest s (portsTo s r))

theorem farPorts_nil {s : State} {d : Nat} : farPorts s d = [] ↔ detours s d = [] := by
  unfold farPorts
  rw [List.filterMap_eq_nil_iff]
  constructor
  · intro none
    refine List.eq_nil_iff_forall_not_mem.2 fun r hr => ?_
    have some : portsTo s r ≠ [] := by
      have ok := (List.mem_filter.1 hr).2
      simp only [Bool.and_eq_true, bne_iff_ne] at ok
      obtain ⟨⟨-, some⟩, -⟩ := ok
      exact some
    exact some (shortest_none.1 (none r hr))
  · intro none r hr
    rw [none] at hr
    cases hr

theorem route_eq (s : State) (d : Nat) : route s d = match shortest s (portsTo s d) with
    | none => shortest s (farPorts s d)
    | some q => if farPorts s d = [] || portQueue s q ≤ 24 then some q else shortest s (q :: farPorts s d) := rfl

theorem route_none {s : State} {d : Nat} : route s d = none ↔ portsTo s d = [] ∧ detours s d = [] := by
  rw [route_eq, ← farPorts_nil]
  cases near : shortest s (portsTo s d) with
  | none => exact (shortest_none.trans (and_iff_right (shortest_none.1 near)).symm)
  | some q =>
    have some' : portsTo s d ≠ [] := fun h => by rw [shortest_none.2 h] at near; cases near
    refine iff_of_false ?_ (fun h => some' h.1)
    dsimp only
    split
    · exact Option.some_ne_none _
    · exact fun h => List.cons_ne_nil _ _ (shortest_none.1 h)

theorem mem_farPorts {s : State} {d q : Nat} (h : q ∈ farPorts s d) : ∃ r ∈ detours s d, q ∈ portsTo s r := by
  obtain ⟨r, hr, best⟩ := List.mem_filterMap.1 h
  exact ⟨r, hr, (shortest_some best).1⟩

theorem route_some {s : State} {d q : Nat} (h : route s d = some q) :
    (q ∈ portsTo s d → ∀ r ∈ portsTo s d, portQueue s q ≤ portQueue s r) ∧
    (q ∉ portsTo s d → (∃ r ∈ detours s d, q ∈ portsTo s r) ∧ ∀ r ∈ portsTo s d, 24 < portQueue s r ∧ portQueue s q < portQueue s r) := by
  rw [route_eq] at h
  cases near : shortest s (portsTo s d) with
  | none =>
    rw [near] at h
    have none := shortest_none.1 near
    refine ⟨fun inside => absurd inside (by rw [none]; exact List.not_mem_nil), fun _ => ⟨mem_farPorts (shortest_some h).1, fun r hr => ?_⟩⟩
    rw [none] at hr
    cases hr
  | some n =>
    obtain ⟨inside, least, -⟩ := shortest_some near
    rw [near] at h
    dsimp only at h
    split at h
    · cases h
      exact ⟨fun _ => least, fun out => absurd inside out⟩
    · next far =>
      obtain ⟨here, best, strict⟩ := shortest_some h
      have long : 24 < portQueue s n := by simpa using fun few : portQueue s n ≤ 24 => far (by simp [few])
      refine ⟨fun _ r hr => (best n List.mem_cons_self).trans (least r hr), fun out => ?_⟩
      have other : q ≠ n := fun same => out (same ▸ inside)
      refine ⟨mem_farPorts ((List.mem_cons.1 here).resolve_left other), fun r hr => ⟨long.trans_le (least r hr), ?_⟩⟩
      exact (strict n _ rfl other).trans_le (least r hr)

/-! ## Multicast (R119) -/

/-- The local delivery alone. -/
theorem multicastHere_local {s : State} {p : Packet} {t : Nat} {h : Hint} (entry : groupEntry s (pkGroup p) = 0xC0000#32) (hops : pkHops p < 3) :
    multicastHere s p t h = (publishPkg (writeHome s p h).1 (signature (writeHome s p h).2), 0) := by
  unfold multicastHere
  rw [entry]
  refine (if_neg (by decide)).trans ?_
  rw [if_pos (show (0xC0000#32).getLsbD 18 = true by decide), show egress 0xC0000#32 = [] by decide]
  exact if_neg (Nat.not_le.2 hops)

/-! ## Answers to this package's own requests (R94, R107) -/

theorem foldl_keeps {α β : Type} (g : State → β) {f : State → α → State} (h : ∀ s a, g (f s a) = g s) (l : List α) : ∀ s, g (l.foldl f s) = g s := by
  induction l with
  | nil => exact fun _ => rfl
  | cons a l ih => exact fun s => (ih _).trans (h s a)

theorem writeBack_ops (s : State) (c : Nat) (l : CacheLine) : (writeBack s c l).ops = s.ops := by
  have access : ∀ (u : State) k h a b, (l2Access u k h a b).ops = u.ops := fun u k h a b => by
    unfold l2Access
    split <;> rfl
  have masked : ∀ (u : State) a m d, (writeMasked u a m d).ops = u.ops := fun u a m d => by
    unfold writeMasked
    exact foldl_keeps State.ops (fun s i => by split <;> rfl) _ u
  unfold writeBack sendHome
  split
  · rfl
  · split
    · rfl
    · exact (access ..).trans (masked ..)

theorem writeBackAll_ops (s : State) (c : Nat) : (writeBackAll s c).ops = s.ops := foldl_keeps State.ops (fun s l => writeBack_ops s c l) _ s

theorem dropLines_ops (s : State) (c : Nat) (p : CacheLine → Bool) : (dropLines s c p).ops = s.ops :=
  foldl_keeps State.ops (fun s l => writeBack_ops s c l) _ s

theorem acquire_ops (s : State) (c : Nat) (wg : Option Nat) (sc : Scope) : (acquire s c wg sc).ops = s.ops := by
  unfold acquire
  cases sc with
  | wp => rfl
  | wg | pkg | span => exact dropLines_ops ..

theorem wrReg_ops (s : State) (c k l r : Nat) (v : Word) : (s.wrReg c k l r v).ops = s.ops := by
  unfold State.wrReg
  split
  · rfl
  · split <;> rfl

theorem modLane_ops (s : State) (c k l : Nat) (f : Lane → Lane) : (s.modLane c k l f).ops = s.ops := by
  unfold State.modLane
  split <;> rfl

theorem writeDst_ops (s : State) (c k l : Nat) (p : Pos) (o : Operand) (v : Nat) : (writeDst s c k l p o v).ops = s.ops := by
  unfold writeDst
  cases o with
  | main r => exact foldl_keeps State.ops (fun s i => wrReg_ops ..) _ s
  | opf r => exact foldl_keeps State.ops (fun _ _ => State.modWarp_ops ..) _ s
  | special r => exact modLane_ops ..
  | _ => rfl

theorem vaWrite_ops (s : State) (ctx va n v : Nat) : (vaWrite s ctx va n v).ops = s.ops := by
  unfold vaWrite
  split <;> rfl

theorem writeOwned_ops (s : State) (o : Owner) (l : Nat) (p : Pos) (d : Operand) (v : Nat) : (writeOwned s o l p d v).ops = s.ops := by
  unfold writeOwned
  split
  · rfl
  · exact writeDst_ops ..
  · exact writeDst_ops ..
  · rfl
  · rfl
  · split
    · split
      · exact foldl_keeps State.ops (fun s i => vaWrite_ops ..) _ s
      · rfl
    · rfl
  · rfl
  · rfl
  · rfl
  · rfl

theorem noteOwned_ops (s : State) (o : Owner) (d : Option Operand) (v : Nat) : (noteOwned s o d v).ops = s.ops := by
  unfold noteOwned
  split <;> rfl

theorem ownerGoesOn_ops (s : State) (o : MemOp) : (ownerGoesOn s o).ops = s.ops := by
  unfold ownerGoesOn passOn
  split
  · exact foldl_keeps State.ops (fun s l => modLane_ops ..) _ s
  · rfl

/-- A load that is done leaves the other operations and its own form as they were. -/
theorem finishLoad_ops (s : State) (id : Nat) (o : MemOp) (a : LaneAcc) (v : Nat) :
    (finishLoad s id o a v).ops = s.ops.upd id (fun o => { o with lanes := o.lanes.filter (fun b => b.lane != a.lane) }) := by
  unfold finishLoad
  split
  · extract_lets x s1 s0 s2
    rw [ownerGoesOn_ops]
    have ops1 : s1.ops = s.ops := (noteOwned_ops ..).trans (writeOwned_ops ..)
    have ops0 : s0.ops = s.ops := by
      show (if _ then writeBackAll s1 _ else s1).ops = _
      split
      · exact (writeBackAll_ops ..).trans ops1
      · exact ops1
    have ops2 : s2.ops = s.ops := by
      show (if _ then acquire s0 _ _ _ else s0).ops = _
      split
      · exact (acquire_ops ..).trans ops0
      · exact ops0
    rw [show (dropAcc s2 id a.lane).ops = s2.ops.upd id (fun o => { o with lanes := o.lanes.filter (fun b => b.lane != a.lane) }) from rfl, ops2]
  · rfl

/-- Only a return waits for its targets. -/
theorem finalizePops_of {s : State} {id : Nat} {o : MemOp} (here : s.ops.at? id = some o) (other : o.body ≠ .pop) : finalizePops s id = s := by
  unfold finalizePops
  rw [here]
  dsimp only
  split
  · next h _ => exact absurd h other
  · next h _ => exact absurd h other
  · rfl

section

variable {s : State} {o : MemOp} {l : LaneAcc} {q pa : Nat}

/-- A single lane's request travels alone. -/
theorem sentWith_one (lanes : o.lanes = [l]) (sent : l.sent = true) (place : l.place = .peer q pa) (plain : ∀ op t d n, o.body ≠ .atomic op t d n) :
    sentWith o l.lane q = [l] := by
  unfold sentWith
  rw [lanes]
  dsimp only
  rw [List.find?_cons_of_pos (by simp)]
  dsimp only
  split
  · next h => exact absurd h (plain _ _ _ _)
  · rw [List.filter_cons_of_pos (by simp [sent, place]), List.filter_nil]

theorem plainTag_of {t : Nat} (h : t < 2 ^ 56) : plainTag t = true := by
  unfold plainTag bitsOf
  rw [Nat.div_eq_of_lt h]
  rfl

theorem minOf_one (n : Nat) : (minOf [n]).getD 0 = n := rfl

/-- A whole request of one load comes back. -/
theorem loadAnswer_one {id : Nat} {bs : List Byte} {d : Operand} {t : Ty} (lanes : o.lanes = [l]) (sent : l.sent = true) (place : l.place = .peer q pa)
    (body : o.body = .load d t false) (plain : isWaitAcc l = false) :
    loadAnswer s id q o l bs = finishLoad s id o l (leNat (bs.take o.width)) := by
  have alone := sentWith_one lanes sent place (fun op t d n h => by rw [body] at h; cases h)
  have from_ : askedFrom o [l] bs.length = (accRange o l).2.1 := by
    unfold askedFrom
    rw [body]
    exact minOf_one _
  unfold loadAnswer
  rw [body, plain]
  dsimp only
  rw [alone, List.filter_cons_of_pos (by simp [plain]), List.filter_nil, from_]
  have here : finishLoad s id o l (leNat ((bs.drop ((accRange o l).2.1 - (accRange o l).2.1)).take o.width)) = finishLoad s id o l (leNat (bs.take o.width)) := by
    rw [Nat.sub_self, List.drop_zero]
  refine .trans ?_ here
  cases o.owner <;> rfl

theorem loadReply_one {p : Packet} {d : Operand} {t : Ty} (here : s.ops.at? (tagOp (pkTag p)) = some o) (tag : pkTag p < 2 ^ 56) (lanes : o.lanes = [l])
    (lane : l.lane = tagLane (pkTag p)) (sent : l.sent = true) (place : l.place = .peer (pkSrc p) pa) (body : o.body = .load d t false)
    (plain : isWaitAcc l = false) :
    replyTag s p = settleOps (finishLoad s (tagOp (pkTag p)) o l (leNat (p.payload.take o.width))) o.owner.core := by
  have found : o.lanes.find? (fun a => a.lane = tagLane (pkTag p) && a.sent) = some l := by
    rw [lanes]
    exact List.find?_cons_of_pos (by simp [lane, sent])
  have kept : (finishLoad s (tagOp (pkTag p)) o l (leNat (p.payload.take o.width))).ops.at? (tagOp (pkTag p)) =
      some { o with lanes := o.lanes.filter (fun b => b.lane != l.lane) } := by
    rw [finishLoad_ops, NMap.at?_upd_self, here]
    rfl
  unfold replyTag
  dsimp only
  rw [plainTag_of tag, if_pos rfl, here]
  dsimp only
  rw [found]
  dsimp only
  rw [body]
  dsimp only
  rw [loadAnswer_one lanes sent place body plain, finalizePops_of kept (by rw [body]; exact OpBody.noConfusion)]

theorem storeAcked_one {id : Nat} (here : s.ops.at? id = some o) (lanes : o.lanes = [l]) (sent : l.sent = true) (place : l.place = .peer q pa)
    (body : o.body = .store) : storeAcked s id l.lane q = settleOps (finishStore s id o l) o.owner.core := by
  have alone := sentWith_one lanes sent place (fun op t d n h => by rw [body] at h; cases h)
  unfold storeAcked
  rw [here]
  dsimp only
  rw [alone, List.foldl_cons, List.foldl_nil, body]

end

theorem discard_eq (s : State) (p : Packet) : discard s p = logEvent s 11 ((portsTo s (pkSrc p)).headD 0) (p.hdr.toNat % 2 ^ 96) := by
  unfold discard bitsOf
  rw [Nat.pow_zero, Nat.div_one]

theorem localAndValid (e : Word) : (e.extractLsb' 18 2 == 3#2) = (e.getLsbD 18 && e.getLsbD 19) := by
  have two : ∀ y : BitVec 2, (y == 3#2) = (y.getLsbD 0 && y.getLsbD 1) := by decide
  rw [two, BitVec.getLsbD_extractLsb', BitVec.getLsbD_extractLsb']
  rfl

/-- What a forwarded multicast packet owes upstream (R119). -/
def oweUpstream (s : State) (p : Packet) (r : State × Nat) : State :=
  if r.2 = 0 then sendReplyTo r.1 p 5 (pkTag p) 0 []
  else { r.1 with fab := { r.1.fab with
    owedAcks := r.1.fab.owedAcks.put s.fresh { up := pkSrc p, tag := pkTag p, drained := pkBreakdown p, awaits := r.2 } } }

theorem multicastAt_of {p : Packet} {s : State} (kind : pkKind p = 6)
    (free : (groupEntry s (pkGroup p)).getLsbD 18 = true → pkAddr p + 128 ≤ Config.memTop ∧ lineHeld s (pkAddr p) true = false) :
    multicastAt p s = oweUpstream s p (multicastHere (if (groupEntry s (pkGroup p)).getLsbD 18 && (groupEntry s (pkGroup p)).getLsbD 19 then
      notePeer s.bump p else s.bump) p (fwdTag s.fresh) .dflt) := by
  have valid := localAndValid (groupEntry s (pkGroup p))
  unfold multicastAt
  extract_lets n e here hold t owe
  have at_here : here = (e.getLsbD 18 && e.getLsbD 19) := by
    show (decide (pkKind p = 6) && (e.extractLsb' 18 2 == 3#2)) = _
    rw [kind, valid]
    rfl
  have unheld : hold = false := by
    show (here && lineHeld s (pkAddr p) true) = false
    rw [at_here]
    cases bit : e.getLsbD 18 with
    | false => rfl
    | true => rw [(free bit).2, Bool.and_false]
  have inside : (e.getLsbD 18 && !inMemory (pkAddr p) 128) = false := by
    cases bit : e.getLsbD 18 with
    | false => rfl
    | true => rw [show inMemory (pkAddr p) 128 = true from decide_eq_true (free bit).1]; rfl
  rw [inside, unheld]
  refine (if_neg Bool.false_ne_true).trans ((if_neg Bool.false_ne_true).trans ?_)
  rw [if_neg (show ¬ pkKind p = 7 by rw [kind]; decide)]
  show owe (multicastHere (if here then notePeer s.bump p else s.bump) p (fwdTag n) .dflt) = _
  rw [at_here]
  rfl

section

variable {p : Packet} {s : State} (ok : pkOk p = true) (live : pkgLive s (pkSrc p) = true)

include ok live

/-- An access of a peer whose bytes lie in local memory at a line that is free. -/
theorem receive_served {k : Nat} {w : Bool} {t : State} (kind : pkKind p = k) (writes : (k != 0) = w) (inside : pkAddr p + peerSpan p ≤ Config.memTop)
    (free : pkGroup p ≠ 0 ∨ lineHeld s (pkAddr p) w = false) (done : servePeer s p = t) : (.next (receive k p (peerAccess p) s) : Result) = .next t :=
  congrArg Host.Outcome.next ((receive_of ok live kind _).trans ((peerAccess_of inside (peerHeld_free (by rw [kind]; exact writes) free)).trans done))

theorem loadRequest_served (kind : pkKind p = 0) (inside : pkAddr p + pkLen p ≤ Config.memTop) (free : pkGroup p ≠ 0 ∨ lineHeld s (pkAddr p) false = false) :
    exec (.loadRequest p) s = .next (answer (if pkGroup p ≠ 0 then s else l2Touch s (pkAddr p) .dflt) p 4 (pkAddr p) (Mem.bytes s.mem (pkAddr p) (pkLen p))) :=
  receive_served ok live kind rfl (by rw [peerSpan_load kind]; exact inside) free (servePeer_load s kind)

theorem loadRequest_held (kind : pkKind p = 0) (inside : pkAddr p + pkLen p ≤ Config.memTop) (plain : ¬ pkGroup p ≠ 0)
    (held : lineHeld s (pkAddr p) false = true) :
    exec (.loadRequest p) s = .next { s with fab := { s.fab with heldHere := s.fab.heldHere ++ [p] } } := by
  refine congrArg Host.Outcome.next ((receive_of ok live kind _).trans (peerAccess_held (by rw [peerSpan_load kind]; exact inside) ?_))
  unfold peerHeld
  rw [kind, eq_false_of_ne_true (mt (pkSide_iff p).1 plain)]
  exact held

theorem store_served (kind : pkKind p = 1) (inside : pkAddr p + (128 - pkAddr p % 128) ≤ Config.memTop)
    (free : pkGroup p ≠ 0 ∨ lineHeld s (pkAddr p) true = false) :
    let w := writePayload (notePeer s p) (pkAddr p) p.payload
    let mask := BitVec.ofNat 128 (leNat (p.payload.take 16))
    exec (.store p) s =
      .next (answer (publishPkg (if pkGroup p ≠ 0 then w.1 else l2Access w.1 (pkAddr p / 128) .dflt mask mask) (signature w.2)) p 5 (pkAddr p) []) :=
  receive_served ok live kind rfl (by rw [peerSpan_store kind]; exact inside) free (servePeer_store s kind)

theorem atomic_served (kind : pkKind p = 2) (inside : pkAddr p + (pkTy p).bits / 8 ≤ Config.memTop)
    (free : pkGroup p ≠ 0 ∨ lineHeld s (pkAddr p) true = false) :
    exec (.atomic p) s = .next (atomDone s p (atomNew (pkAtomOp p) (pkTy p) (Mem.rd s.mem (pkAddr p) ((pkTy p).bits / 8))
      (leNat (p.payload.take 8)) (leNat ((p.payload.drop 8).take 8))).1) :=
  receive_served ok live kind rfl (by rw [peerSpan_atomic kind]; exact inside) free (servePeer_atomic s kind)

theorem combinedAtomic_served (kind : pkKind p = 3) (inside : pkAddr p + (pkTy p).bits / 8 ≤ Config.memTop)
    (free : pkGroup p ≠ 0 ∨ lineHeld s (pkAddr p) true = false) :
    exec (.combinedAtomic p) s = .next (atomDone s p ((pkVals p).foldl (fun x v => (atomNew (pkAtomOp p) (pkTy p) x v 0).1)
      (Mem.rd s.mem (pkAddr p) ((pkTy p).bits / 8)))) :=
  receive_served ok live kind rfl (by rw [peerSpan_atomic kind]; exact inside) free ((servePeer_atomic s (k := 1) kind).trans (by
    simp only [if_neg (show ¬ 1 + 2 = 2 by decide)]))

theorem copyWrite_served (kind : pkKind p = 7) (group : pkGroup p = 0) (hops : pkHops p = 0) (inside : pkAddr p + (128 - pkAddr p % 128) ≤ Config.memTop) :
    exec (.copyWrite p) s = .next (let w := copyWriteHere s (pkSrc p) (pkAddr p) p.payload
      sendReplyTo (publishPkg w.1 (signature w.2)) p 5 (pkTag p) 0 []) := by
  refine congrArg Host.Outcome.next ((receive_of ok live kind _).trans ((if_neg (by simp [group, hops])).trans (if_neg ?_)))
  rw [show inMemory (pkAddr p) (128 - pkAddr p % 128) = true from decide_eq_true inside]
  exact Bool.false_ne_true

end

/-- Settles O53: the reception of each kind, and what the answers complete; the routing by the shortest queues. -/
theorem packetsServed : Obligations.PacketsServed := by
  unfold Obligations.PacketsServed
  refine ⟨fun p s bad => ?_, fun p s => ?_, fun p s ok live => ?_, fun s p t h none => if_pos (by rw [none]; rfl), fun s p t h entry hops => multicastHere_local entry hops,
    fun s a pl i below => byte_writePayload s a pl below, fun s id o a q pa body live place sw => ?_, fun s p => rfl, fun s d => route_none, fun s d q => route_some⟩
  · have all (k : Nat) (f : State → State) : (.next (receive k p f s) : Result) = .next (discard s p) := congrArg Host.Outcome.next (receive_discards bad k f)
    exact ⟨all .., all .., all .., all .., all .., all .., all .., all ..⟩
  · exact congrArg Host.Outcome.next (congrArg (fun t => if pkOk p then s else t) (discard_eq s p))
  · intro a q reply ack noted side mask n op old atom
    have atom_eq (v : Nat) : atom v = .next (atomDone s p v) := (apply_ite Host.Outcome.next ..).symm
    refine ⟨loadRequest_served ok live, store_served ok live, fun kind inside free => (atomic_served ok live kind inside free).trans (atom_eq _).symm,
      fun kind inside free => (combinedAtomic_served ok live kind inside free).trans (atom_eq _).symm, loadRequest_held ok live, fun kind => ?_, copyWrite_served ok live,
      fun kind o l d t pa here tag lanes lane sent place body wide plain => ?_, fun kind o l pa here tag lanes lane sent place body => ?_⟩
    · intro e free u r y
      exact congrArg Host.Outcome.next ((receive_of ok live kind _).trans (multicastAt_of kind free))
    · exact congrArg Host.Outcome.next ((receive_of ok live kind _).trans (loadReply_one here tag lanes lane sent place body plain))
    · refine congrArg Host.Outcome.next ((receive_of ok live kind _).trans ?_)
      have plain : ackTag s (pkSrc p) (pkTag p) = storeAcked s (tagOp (pkTag p)) l.lane (pkSrc p) := by
        unfold ackTag ackOwn
        rw [plainTag_of tag, here, lane]
        dsimp only
        rw [body]
        rfl
      exact plain.trans (storeAcked_one here lanes sent place body)
  · have quiet : noteWriter (sendStore s id o a q pa) o a = sendStore s id o a q pa := if_pos (by rw [sw]; rfl)
    unfold performLane
    rw [body, place]
    dsimp only
    rw [live]
    exact quiet

end Sys2Proof.Machine
end

section
/-! PROOFS. The fabric's events: why the statement fails as it stands. The token that a package passes on carries the package's own index in
four bits, which hold it where it is below 16; the statement asks that of a relayed packet, but not of the token. -/

namespace Sys2Proof.Machine

/-- A package whose index does not fit the header's field, with a link to package 1. -/
def wideIndex : State :=
  { State.reset with fab := { State.reset.fab with index := 16, size := 2, live := 2, reach := [(0, 1)], linked := 1, up := 1 } }

/-- The recovery token, from package 1. -/
def tokenFromOne : Packet := { hdr := mkHdr 8 1 0 0 0 0 0 0 0, payload := [] }

/-- How many packets have been sent. -/
def sentAfter : Result → Nat
  | .next t => t.fab.sent.length
  | _ => 0

/-- Refutes O54: the token that `wideIndex` passes on to package 1 is addressed to package 2, to which no port leads, and is not sent. -/
theorem not_fabricEvents : ¬ Obligations.FabricEvents := by
  unfold Obligations.FabricEvents
  extract_lets fab pass
  rintro ⟨-, -, -, -, -, -, -, -, -, -, token, -⟩
  obtain ⟨t, run, passes⟩ := (token tokenFromOne wideIndex (by decide +kernel) (by decide +kernel) (by decide +kernel)).1
    (by decide +kernel) (by decide +kernel)
  have sent := passes 1 0 [] (by decide +kernel) (by decide +kernel)
  have kept : sentAfter (exec (.recoveryToken tokenFromOne) wideIndex) = 0 := by decide +kernel
  rw [run, sent] at kept
  revert kept
  decide +kernel

end Sys2Proof.Machine
end

section
/-! PROOFS. Reliability: what the error log and the checkpoint leave unchanged, and what each event does besides. -/

namespace Sys2Proof.Machine

/-! ## The error log -/

theorem checkpoint_byte (s : State) (b : Nat) (hb : b < 0x5FFF000000) : Mem.byte (checkpoint s).mem b = Mem.byte s.mem b :=
  Mem.byte_wrBytes_of_not_mem _ _ _ _ (.inl (Nat.lt_add_right _ hb))

/-- Where the ring has room: the entry is written, and at each 65 536th a checkpoint follows. -/
theorem logEvent_room (s : State) (kind source detail : Nat) (hroom : s.rel.head - s.rel.read < 3932160) :
    logEvent s kind source detail =
      let e := leBytes 8 s.rel.head ++ leBytes 8 s.now ++ leBytes 2 kind ++ leBytes 2 source ++ leBytes 12 detail ++
        leBytes 32 s.rel.hash.toNat
      let s1 : State := { s with
        mem := Mem.wrBytes s.mem (logBase + 64 * (s.rel.head % logSlots)) e
        rel := { s.rel with head := s.rel.head + 1, hash := sha256 e, orderly := false } }
      if (s.rel.head + 1) % 65536 = 0 then checkpoint s1 else s1 :=
  if_neg (Nat.not_le.mpr hroom)

theorem logEvent_full (s : State) (kind source detail : Nat) (hfull : 3932160 ≤ s.rel.head - s.rel.read) :
    logEvent s kind source detail = { s with rel := { s.rel with lost := s.rel.lost + 1 } } :=
  if_pos hfull

/-- Only memory from the log on, the registers of reliability and the record of a run may have changed. -/
structure OnlyLogs (s t : State) : Prop where
  rest : t = { s with mem := t.mem, rel := t.rel, rep := t.rep }
  low : ∀ b, b < 0x5FF0000000 → Mem.byte t.mem b = Mem.byte s.mem b

namespace OnlyLogs

variable {s t u : State}

theorem rfl' (s : State) : OnlyLogs s s := ⟨rfl, fun _ _ => rfl⟩

theorem trans (h : OnlyLogs s t) (k : OnlyLogs t u) : OnlyLogs s u := by
  refine ⟨k.rest.trans ?_, fun b hb => (k.low b hb).trans (h.low b hb)⟩
  rw [h.rest]

theorem setRel (h : OnlyLogs s t) (r : Reliability) : OnlyLogs s { t with rel := r } :=
  h.trans ⟨rfl, fun _ _ => rfl⟩

theorem setRep (h : OnlyLogs s t) (r : Repro) : OnlyLogs s { t with rep := r } :=
  h.trans ⟨rfl, fun _ _ => rfl⟩

/-- A part of the state that none of the three concerns is as it was. -/
theorem keeps {α : Type} (h : OnlyLogs s t) (g : State → α) (hg : ∀ m r p, g { s with mem := m, rel := r, rep := p } = g s) :
    g t = g s := by rw [h.rest]; exact hg _ _ _

theorem checkpoint (h : OnlyLogs s t) : OnlyLogs s (checkpoint t) :=
  h.trans ⟨rfl, fun b hb => checkpoint_byte t b (Nat.lt_trans hb (by decide))⟩

theorem logEvent (h : OnlyLogs s t) (kind source detail : Nat) : OnlyLogs s (logEvent t kind source detail) := by
  refine h.trans ?_
  by_cases hfull : 3932160 ≤ t.rel.head - t.rel.read
  · rw [logEvent_full t _ _ _ hfull]
    exact (rfl' t).setRel _
  · rw [logEvent_room t _ _ _ (Nat.not_le.mp hfull)]
    have entered (bs : List Byte) (r : Reliability) :
        OnlyLogs t { t with mem := Mem.wrBytes t.mem (logBase + 64 * (t.rel.head % logSlots)) bs, rel := r } :=
      ⟨rfl, fun b hb => Mem.byte_wrBytes_of_not_mem _ _ _ _ (.inl (Nat.lt_add_right _ hb))⟩
    dsimp only
    split
    · exact (entered _ _).checkpoint
    · exact entered _ _

theorem noteSubst (h : OnlyLogs s t) : OnlyLogs s (noteSubst t) := by
  unfold Machine.noteSubst
  split
  · exact h.setRep _
  · exact h

theorem recommend (h : OnlyLogs s t) (u : ErrUnit) : OnlyLogs s (recommend t u) := by
  unfold Machine.recommend
  dsimp only
  split
  · exact h.logEvent _ _ _
  · exact (h.logEvent _ _ _).setRel _

theorem thisHour (h : OnlyLogs s t) : OnlyLogs s (thisHour t) := by
  unfold Machine.thisHour
  split
  · exact h
  · exact h.setRel _

theorem countError (h : OnlyLogs s t) (u : ErrUnit) : OnlyLogs s (countError t u) := by
  unfold Machine.countError
  dsimp only
  split
  · exact (h.thisHour.setRel _).recommend u
  · exact h.thisHour.setRel _

theorem replaceAppCore (h : OnlyLogs s t) (u : ErrUnit) (d : Nat) : OnlyLogs s (replaceAppCore t u d) := by
  unfold Machine.replaceAppCore
  exact iteInduction (motive := OnlyLogs s) (fun _ => ((h.setRel _).logEvent _ _ _).noteSubst) (fun _ => h)

end OnlyLogs

/-! ## What an entry of the log leaves of the registers of reliability -/

theorem logEvent_rel {α : Type} (g : Reliability → α) (s : State) (kind source detail : Nat)
    (hg : ∀ h l x c q f o, g { s.rel with head := h, lost := l, hash := x, ckpts := c, flashSeq := q, flashHash := f, orderly := o } =
      g s.rel) :
    g (logEvent s kind source detail).rel = g s.rel := by
  by_cases hfull : 3932160 ≤ s.rel.head - s.rel.read
  · rw [logEvent_full s _ _ _ hfull]
    exact hg _ _ _ _ _ _ _
  · rw [logEvent_room s _ _ _ (Nat.not_le.mp hfull)]
    dsimp only
    split
    · exact hg _ _ _ _ _ _ _
    · exact hg _ _ _ _ _ _ _

@[simp] theorem logEvent_recs (s : State) (kind source detail : Nat) : (logEvent s kind source detail).rel.recs = s.rel.recs :=
  logEvent_rel (·.recs) s kind source detail fun _ _ _ _ _ _ _ => rfl

@[simp] theorem logEvent_counts (s : State) (kind source detail : Nat) : (logEvent s kind source detail).rel.counts = s.rel.counts :=
  logEvent_rel (·.counts) s kind source detail fun _ _ _ _ _ _ _ => rfl

@[simp] theorem logEvent_hour (s : State) (kind source detail : Nat) : (logEvent s kind source detail).rel.hour = s.rel.hour :=
  logEvent_rel (·.hour) s kind source detail fun _ _ _ _ _ _ _ => rfl

@[simp] theorem logEvent_spares (s : State) (kind source detail : Nat) : (logEvent s kind source detail).rel.spares = s.rel.spares :=
  logEvent_rel (·.spares) s kind source detail fun _ _ _ _ _ _ _ => rfl

@[simp] theorem logEvent_badLines (s : State) (kind source detail : Nat) :
    (logEvent s kind source detail).rel.badLines = s.rel.badLines :=
  logEvent_rel (·.badLines) s kind source detail fun _ _ _ _ _ _ _ => rfl

/-- The head of the log goes up by one where there is room. -/
theorem logEvent_head (s : State) (kind source detail : Nat) (hroom : s.rel.head - s.rel.read < 3932160) :
    (logEvent s kind source detail).rel.head = s.rel.head + 1 := by
  rw [logEvent_room s _ _ _ hroom]
  dsimp only
  split <;> rfl

theorem head_le_logEvent (s : State) (kind source detail : Nat) : s.rel.head ≤ (logEvent s kind source detail).rel.head := by
  by_cases hfull : 3932160 ≤ s.rel.head - s.rel.read
  · rw [logEvent_full s _ _ _ hfull]
  · rw [logEvent_head s _ _ _ (Nat.not_le.mp hfull)]
    exact Nat.le_succ _

@[simp] theorem noteSubst_rel (s : State) : (noteSubst s).rel = s.rel := by
  unfold noteSubst
  split <;> rfl

/-- An entry is the 64 bytes of its fields, at its slot of the ring. -/
theorem logEvent_entry (s : State) (kind source detail : Nat) (hroom : s.rel.head - s.rel.read < 3932160)
    (hplain : (s.rel.head + 1) % 65536 ≠ 0) :
    let e := leBytes 8 s.rel.head ++ leBytes 8 s.now ++ leBytes 2 kind ++ leBytes 2 source ++ leBytes 12 detail ++ leBytes 32 s.rel.hash.toNat
    let t := logEvent s kind source detail
    (∀ i, i < 64 → Mem.byte t.mem (0x5FF0000000 + 64 * (s.rel.head % 3932160) + i) = e.getD i 0) ∧
      t.rel.head = s.rel.head + 1 ∧ t.rel.hash = sha256 e := by
  intro e t
  have ht : t = _ := (logEvent_room s kind source detail hroom).trans (if_neg hplain)
  have length : e.length = 64 := by simp [e, length_leBytes]
  refine ⟨fun i hi => ?_, ?_, ?_⟩
  · rw [ht]
    refine (Mem.byte_wrBytes _ _ e i (by omega)).trans ?_
    simp [List.getD_eq_getElem?_getD, length, hi]
  · rw [ht]
  · rw [ht]

/-! ## Recommendations and counts -/

theorem mem_recs_recommend (s : State) (u : ErrUnit) : unitKey u ∈ (recommend s u).rel.recs := by
  unfold recommend
  dsimp only
  split
  · next h => exact List.contains_iff_mem.mp h
  · exact List.mem_append_right _ (List.mem_singleton_self _)

@[simp] theorem recommend_counts (s : State) (u : ErrUnit) : (recommend s u).rel.counts = s.rel.counts := by
  unfold recommend
  dsimp only
  split <;> simp

@[simp] theorem recommend_hour (s : State) (u : ErrUnit) : (recommend s u).rel.hour = s.rel.hour := by
  unfold recommend
  dsimp only
  split <;> simp

theorem head_le_recommend (s : State) (u : ErrUnit) : s.rel.head ≤ (recommend s u).rel.head := by
  unfold recommend
  dsimp only
  split <;> exact head_le_logEvent _ _ _ _

theorem thisHour_same {s : State} (h : hourOf s = s.rel.hour) : thisHour s = s := if_pos h

theorem thisHour_new {s : State} (h : hourOf s ≠ s.rel.hour) :
    thisHour s = { s with rel := { s.rel with counts := [], hour := hourOf s } } := if_neg h

theorem thisHour_head (s : State) : (thisHour s).rel.head = s.rel.head := by
  unfold thisHour
  split <;> rfl

theorem thisHour_hour (s : State) : (thisHour s).rel.hour = hourOf s := by
  unfold thisHour
  split
  · next h => exact h.symm
  · rfl

theorem thisHour_recs (s : State) : (thisHour s).rel.recs = s.rel.recs := by
  unfold thisHour
  split <;> rfl

theorem thisHour_counts (s : State) : (thisHour s).rel.counts = if hourOf s = s.rel.hour then s.rel.counts else [] := by
  unfold thisHour
  split <;> rfl

theorem head_le_countError (s : State) (u : ErrUnit) : s.rel.head ≤ (countError s u).rel.head := by
  unfold countError
  dsimp only
  rw [← thisHour_head s]
  split
  · refine Nat.le_trans ?_ (head_le_recommend _ u)
    exact Nat.le_refl _
  · exact Nat.le_refl _

theorem unitThreshold_congr {s t : State} (h : t.fab = s.fab) (u : ErrUnit) : unitThreshold t u = unitThreshold s u := by
  cases u <;> simp [unitThreshold, h]

/-- The count of the unit goes up by one in the present hour, and the unit is recommended where that is its threshold. -/
theorem countError_counts (s : State) (u : ErrUnit) :
    let n := (if hourOf s = s.rel.hour then s.rel.counts else []).atD (unitKey u) 0 + 1
    (countError s u).rel.counts = (if hourOf s = s.rel.hour then s.rel.counts else []).put (unitKey u) n ∧
      (countError s u).rel.hour = hourOf s ∧ (unitThreshold s u = some n → unitKey u ∈ (countError s u).rel.recs) ∧
      (unitThreshold s u ≠ some n → (countError s u).rel.recs = s.rel.recs) := by
  have fab : (thisHour s).fab = s.fab := ((OnlyLogs.rfl' s).thisHour).keeps (·.fab) fun _ _ _ => rfl
  unfold countError
  dsimp only
  rw [unitThreshold_congr fab, thisHour_counts]
  by_cases h : unitThreshold s u = some ((if hourOf s = s.rel.hour then s.rel.counts else []).atD (unitKey u) 0 + 1)
  · rw [if_pos h]
    exact ⟨recommend_counts _ u, (recommend_hour _ u).trans (thisHour_hour s), fun _ => mem_recs_recommend _ u, fun hn => absurd h hn⟩
  · rw [if_neg h]
    exact ⟨rfl, thisHour_hour s, fun hn => absurd hn h, fun _ => thisHour_recs s⟩

/-! ## Corrected errors -/

/-- A corrected error of a kind that is counted: an entry of the log, then what is dropped or noted, then the count. -/
theorem countError_logEvent (s v : State) (u : ErrUnit) (kind source d : Nat) (hnow : v.now = s.now) (hfab : v.fab = s.fab)
    (hrel : v.rel = (logEvent s kind source d).rel) :
    let counts := if s.now / 3600000000000 = s.rel.hour then s.rel.counts else []
    let n := counts.atD (unitKey u) 0 + 1
    (countError v u).rel.counts = counts.put (unitKey u) n ∧ (countError v u).rel.hour = s.now / 3600000000000 ∧
      (unitThreshold s u = some n → unitKey u ∈ (countError v u).rel.recs) ∧
      (unitThreshold s u ≠ some n → (countError v u).rel.recs = s.rel.recs) := by
  have counted := countError_counts v u
  rw [unitThreshold_congr hfab] at counted
  simpa only [hourOf, hnow, hrel, logEvent_hour, logEvent_counts, logEvent_recs] using counted

theorem head_lt_countError (s v : State) (u : ErrUnit) (kind source d : Nat) (hrel : v.rel = (logEvent s kind source d).rel)
    (hroom : s.rel.head - s.rel.read < 3932160) : s.rel.head < (countError v u).rel.head := by
  refine Nat.lt_of_lt_of_le ?_ (head_le_countError v u)
  rw [hrel, logEvent_head s _ _ _ hroom]
  exact Nat.lt_succ_self _

/-- What a program can see of a state is as it was, but for the caches. -/
structure SeenAlike (s t : State) : Prop where
  wgs : t.wgs = s.wgs
  launches : t.launches = s.launches
  ops : t.ops = s.ops
  clauses : t.clauses = s.clauses
  bytes : ∀ b, b < 0x5FF0000000 → Mem.byte t.mem b = Mem.byte s.mem b
  lqs : t.lqs = s.lqs

theorem OnlyLogs.seen {s t : State} (h : OnlyLogs s t) : SeenAlike s t :=
  { wgs := h.keeps (·.wgs) fun _ _ _ => rfl
    launches := h.keeps (·.launches) fun _ _ _ => rfl
    ops := h.keeps (·.ops) fun _ _ _ => rfl
    clauses := h.keeps (·.clauses) fun _ _ _ => rfl
    bytes := h.low
    lqs := h.keeps (·.lqs) fun _ _ _ => rfl }

theorem SeenAlike.trans {s t u : State} (h : SeenAlike s t) (k : SeenAlike t u) : SeenAlike s u :=
  ⟨k.wgs.trans h.wgs, k.launches.trans h.launches, k.ops.trans h.ops, k.clauses.trans h.clauses,
    fun b hb => (k.bytes b hb).trans (h.bytes b hb), k.lqs.trans h.lqs⟩

theorem dropClean_seen (s : State) (u : ErrUnit) (a : Nat) : SeenAlike s (dropClean s u a) := by
  cases u <;> exact ⟨rfl, rfl, rfl, rfl, fun _ _ => rfl, rfl⟩

theorem dropClean_rel (s : State) (u : ErrUnit) (a : Nat) : (dropClean s u a).rel = s.rel := by cases u <;> rfl

theorem dropClean_fab (s : State) (u : ErrUnit) (a : Nat) : (dropClean s u a).fab = s.fab := by cases u <;> rfl

theorem dropClean_now (s : State) (u : ErrUnit) (a : Nat) : (dropClean s u a).now = s.now := by cases u <;> rfl

/-- What the statement asks of a counted error. -/
def CountsIn (s t : State) (u : ErrUnit) : Prop :=
  let counts := if s.now / 3600000000000 = s.rel.hour then s.rel.counts else []
  let n := counts.atD (unitKey u) 0 + 1
  t.rel.counts = counts.put (unitKey u) n ∧ t.rel.hour = s.now / 3600000000000 ∧
    (unitThreshold s u = some n → unitKey u ∈ t.rel.recs) ∧ (unitThreshold s u ≠ some n → t.rel.recs = s.rel.recs)

theorem corrected_spec (s : State) (u : ErrUnit) (d : Nat) :
    let t := countError (logEvent s 1 (unitSource u) d) u
    OnlyLogs s t ∧ (s.rel.head - s.rel.read < 3932160 → s.rel.head < t.rel.head) ∧ CountsIn s t u := by
  have logged := (OnlyLogs.rfl' s).logEvent 1 (unitSource u) d
  exact ⟨logged.countError u, head_lt_countError s _ u _ _ _ rfl,
    countError_logEvent s _ u _ _ _ (logged.keeps (·.now) fun _ _ _ => rfl) (logged.keeps (·.fab) fun _ _ _ => rfl) rfl⟩

theorem row_spec (s : State) (u : ErrUnit) (d : Nat) :
    let t := countError (noteSubst (logEvent s 5 (unitSource u) d)) u
    OnlyLogs s t ∧ (s.rel.head - s.rel.read < 3932160 → s.rel.head < t.rel.head) ∧ CountsIn s t u := by
  have logged := ((OnlyLogs.rfl' s).logEvent 5 (unitSource u) d).noteSubst
  exact ⟨logged.countError u, head_lt_countError s _ u _ _ _ (noteSubst_rel _),
    countError_logEvent s _ u _ _ _ (logged.keeps (·.now) fun _ _ _ => rfl) (logged.keeps (·.fab) fun _ _ _ => rfl) (noteSubst_rel _)⟩

theorem refetched_spec (s : State) (u : ErrUnit) (a d : Nat) :
    let t := countError (dropClean (logEvent s 2 (unitSource u) d) u a) u
    SeenAlike s t ∧ (s.rel.head - s.rel.read < 3932160 → s.rel.head < t.rel.head) ∧ CountsIn s t u ∧
      (∀ c, u = .core c → t.l2 = s.l2 ∧ (t.core c).l1 = (s.core c).l1.filter (fun l => !(l.line = localKey a && l.written = 0))) ∧
      (∀ i, u = .slice i → t.cores = s.cores ∧ t.l2 = s.l2.filter (fun l => !(l.line = a / 128 && l.written = 0 && l.pins = 0))) := by
  have logged := (OnlyLogs.rfl' s).logEvent 2 (unitSource u) d
  have counted := (OnlyLogs.rfl' (dropClean (logEvent s 2 (unitSource u) d) u a)).countError u
  have cores := logged.keeps (·.cores) fun _ _ _ => rfl
  have l2 := logged.keeps (·.l2) fun _ _ _ => rfl
  have cores' := counted.keeps (·.cores) fun _ _ _ => rfl
  have l2' := counted.keeps (·.l2) fun _ _ _ => rfl
  refine ⟨logged.seen.trans ((dropClean_seen _ u a).trans counted.seen), head_lt_countError s _ u _ _ _ (dropClean_rel _ u a),
    countError_logEvent s _ u _ _ _ ((dropClean_now _ u a).trans (logged.keeps (·.now) fun _ _ _ => rfl))
      ((dropClean_fab _ u a).trans (logged.keeps (·.fab) fun _ _ _ => rfl)) (dropClean_rel _ u a), ?_, ?_⟩
  · rintro c rfl
    refine ⟨l2'.trans l2, ?_⟩
    have here : ∀ v : State, v.cores = (dropClean (logEvent s 2 (unitSource (.core c)) d) (.core c) a).cores →
        (v.core c).l1 = (s.core c).l1.filter (fun l => !(l.line = localKey a && l.written = 0)) := fun v hv => by
      refine (congrArg (fun m => (NMap.atD m c Core.reset).l1) hv).trans ?_
      refine (congrArg Core.l1 (State.core_modCore_self (s := logEvent s 2 (unitSource (.core c)) d) c _)).trans ?_
      exact congrArg (fun m => (NMap.atD m c Core.reset).l1.filter (fun l => !(l.line = localKey a && l.written = 0))) cores
    exact here _ cores'
  · rintro i rfl
    exact ⟨cores'.trans cores, l2'.trans (congrArg _ l2)⟩

theorem lost_spec (s : State) (u : ErrUnit) (a d : Nat) :
    let s1 := logEvent s 3 (unitSource u) d
    let t := if s1.rel.badLines.contains (a / 65536) then s1 else
      { s1 with rel := { s1.rel with badLines := s1.rel.badLines ++ [a / 65536] } }
    OnlyLogs s t ∧ (s.rel.head - s.rel.read < 3932160 → s.rel.head < t.rel.head) ∧ a / 65536 ∈ t.rel.badLines := by
  intro s1 t
  have logged : OnlyLogs s s1 := (OnlyLogs.rfl' s).logEvent 3 (unitSource u) d
  have head (h : s.rel.head - s.rel.read < 3932160) : s.rel.head < s1.rel.head := by
    rw [logEvent_head s _ _ _ h]
    exact Nat.lt_succ_self _
  by_cases h : s1.rel.badLines.contains (a / 65536) = true
  · rw [show t = s1 from if_pos h]
    exact ⟨logged, head, List.contains_iff_mem.mp h⟩
  · rw [show t = _ from if_neg h]
    exact ⟨logged.setRel _, head, List.mem_append_right _ (List.mem_singleton_self _)⟩

theorem appCore_spec (s : State) (u : ErrUnit) (d : Nat) :
    let t := replaceAppCore s u d
    OnlyLogs s t ∧ (s.rel.spares.atD 0x50 0 < 2 → (∀ i, u = .appCore i → i < 16) →
        t.rel.spares.atD 0x50 0 = s.rel.spares.atD 0x50 0 + 1 ∧ (s.rel.head - s.rel.read < 3932160 → s.rel.head < t.rel.head)) ∧
      (2 ≤ s.rel.spares.atD 0x50 0 → t = s) := by
  refine ⟨(OnlyLogs.rfl' s).replaceAppCore u d, fun hused hactive => ?_, fun hused => ?_⟩
  · have replaces : replaceAppCore s u d = noteSubst (logEvent { s with rel := { s.rel with
        spares := s.rel.spares.put 0x50 (s.rel.spares.atD 0x50 0 + 1) } } 5 (unitSource u) d) := by
      unfold replaceAppCore
      refine if_pos ?_
      cases u <;> simp_all [Config.appSpares, Config.appCores]
    rw [replaces, noteSubst_rel, logEvent_spares]
    refine ⟨by simp, fun hroom => ?_⟩
    refine Nat.lt_of_lt_of_eq ?_ (logEvent_head _ 5 _ _ ?_).symm
    · exact Nat.lt_succ_self _
    · exact hroom
  · refine if_neg ?_
    have : ¬ s.rel.spares.atD 0x50 0 < Config.appSpares := Nat.not_lt.mpr hused
    simp [this]

theorem correctedError_spec (s : State) (u : ErrUnit) (k : ErrKind) (a : DWord) :
    ∃ t, exec (.correctedError u k a) s = .next t ∧ (k ≠ .refetched → t.cores = s.cores ∧ t.l2 = s.l2) ∧
    (k = .refetched →
      (∀ c, u = .core c → t.l2 = s.l2 ∧ (t.core c).l1 = (s.core c).l1.filter (fun l => !(l.line = localKey a.toNat && l.written = 0))) ∧
      (∀ d, u = .slice d → t.cores = s.cores ∧ t.l2 = s.l2.filter (fun l => !(l.line = a.toNat / 128 && l.written = 0 && l.pins = 0)))) ∧
    t.wgs = s.wgs ∧ t.launches = s.launches ∧
    t.ops = s.ops ∧ t.clauses = s.clauses ∧ (∀ b, b < 0x5FF0000000 → Mem.byte t.mem b = Mem.byte s.mem b) ∧
    (∀ q, t.lqs.at? q = s.lqs.at? q) ∧ (k ≠ .appCore → s.rel.head - s.rel.read < 3932160 → s.rel.head < t.rel.head) ∧
    (k = .appCore → (s.rel.spares.atD 0x50 0 < 2 → (∀ i, u = .appCore i → i < 16) →
        t.rel.spares.atD 0x50 0 = s.rel.spares.atD 0x50 0 + 1 ∧ (s.rel.head - s.rel.read < 3932160 → s.rel.head < t.rel.head)) ∧
      (2 ≤ s.rel.spares.atD 0x50 0 → t = s)) ∧
    (k ≠ .appCore → k ≠ .lost → CountsIn s t u) ∧
    (k = .lost → a.toNat / 65536 ∈ t.rel.badLines) := by
  have caches {t : State} (h : OnlyLogs s t) : t.cores = s.cores ∧ t.l2 = s.l2 :=
    ⟨h.keeps (·.cores) fun _ _ _ => rfl, h.keeps (·.l2) fun _ _ _ => rfl⟩
  have lqs {t : State} (h : SeenAlike s t) (q : Nat) : t.lqs.at? q = s.lqs.at? q := by rw [h.lqs]
  cases k with
  | corrected =>
    obtain ⟨logs, head, counts⟩ := corrected_spec s u (a.toNat + 2 ^ 64 * unitKey u)
    have seen := logs.seen
    exact ⟨_, rfl, fun _ => caches logs, nofun, seen.wgs, seen.launches, seen.ops, seen.clauses, seen.bytes, lqs seen, fun _ => head,
      nofun, fun _ _ => counts, nofun⟩
  | refetched =>
    obtain ⟨seen, head, counts, lines⟩ := refetched_spec s u a.toNat (a.toNat + 2 ^ 64 * unitKey u)
    exact ⟨_, rfl, fun h => absurd rfl h, fun _ => lines, seen.wgs, seen.launches, seen.ops, seen.clauses, seen.bytes, lqs seen,
      fun _ => head, nofun, fun _ _ => counts, nofun⟩
  | row =>
    obtain ⟨logs, head, counts⟩ := row_spec s u (a.toNat + 2 ^ 64 * unitKey u)
    have seen := logs.seen
    exact ⟨_, rfl, fun _ => caches logs, nofun, seen.wgs, seen.launches, seen.ops, seen.clauses, seen.bytes, lqs seen, fun _ => head,
      nofun, fun _ _ => counts, nofun⟩
  | appCore =>
    obtain ⟨logs, replaced⟩ := appCore_spec s u (a.toNat + 2 ^ 64 * unitKey u)
    have seen := logs.seen
    exact ⟨_, rfl, fun _ => caches logs, nofun, seen.wgs, seen.launches, seen.ops, seen.clauses, seen.bytes, lqs seen,
      fun h => absurd rfl h, fun _ => replaced, fun h => absurd rfl h, nofun⟩
  | lost =>
    obtain ⟨logs, head, bad⟩ := lost_spec s u a.toNat (a.toNat + 2 ^ 64 * unitKey u)
    have seen := logs.seen
    exact ⟨_, rfl, fun _ => caches logs, nofun, seen.wgs, seen.launches, seen.ops, seen.clauses, seen.bytes, lqs seen, fun _ => head,
      nofun, fun _ h => absurd rfl h, fun _ => bad⟩

/-! ## Lanes of a link -/

theorem laneFailure_spare (s : State) (p : Nat) (h : s.fab.spare.getLsbD p = true) : ∃ t, exec (.laneFailure p) s = .next t ∧
    t.fab = { s.fab with up := s.fab.up &&& ~~~(1#18 <<< p) } ∧ 0x40000 + p ∈ t.rel.recs :=
  ⟨_, congrArg Host.Outcome.next (if_pos h), ((OnlyLogs.rfl' _).recommend (.port p)).keeps (·.fab) fun _ _ _ => rfl,
    mem_recs_recommend _ (.port p)⟩

theorem laneFailure_first (s : State) (p : Nat) (h : s.fab.spare.getLsbD p = false) : ∃ t, exec (.laneFailure p) s = .next t ∧
    t.fab = { s.fab with spare := s.fab.spare ||| (1#18 <<< p) } ∧ t.cores = s.cores := by
  have logged := ((OnlyLogs.rfl' { s with fab := { s.fab with spare := s.fab.spare ||| (1#18 <<< p) } }).logEvent 6 p p).noteSubst
  exact ⟨_, congrArg Host.Outcome.next (if_neg (by rw [h]; decide)), logged.keeps (·.fab) fun _ _ _ => rfl,
    logged.keeps (·.cores) fun _ _ _ => rfl⟩

/-! ## Substitution -/

theorem subAllowed_of {s : State} (h : (∀ e ∈ s.launches, e.2.checked = false) ∨ (s.pre.halted = true ∧ s.pre.mask = BitVec.allOnes 64)) :
    subAllowed s = true := by
  rcases h with idle | ⟨halted, mask⟩
  · have : s.launches.anyV (fun _ x => x.checked) = false := List.any_eq_false.mpr fun e he => by simp [idle e he]
    simp [subAllowed, this]
  · simp [subAllowed, halted, mask]

/-- An accepted SUBCMD. -/
theorem subcmd_accepted {s : State} {v : DWord} (kind : Nat) (hgo : v.getLsbD 63 = true) (hbusy : s.rel.subBusy = false)
    (hallowed : subAllowed s = true) (hkind : kind = 1 ∨ kind = 2 ∨ kind = 3) (hk : bitsOf v.toNat 0 4 = kind)
    (hdie : subDie v < (subDims kind).1) (hunit : subUnit v < (subDims kind).2.1)
    (hspare : s.rel.spares.atD (16 * kind + subDie v) 0 < (subDims kind).2.2) :
    let s1 : State := { s with rel := { s.rel with
      subErr := false, subBusy := true, sub := some { kind := kind - 1, die := subDie v, unit := subUnit v } } }
    subcmd kind v s =
      if kind = 2 then { s1 with l2 := s1.l2.filter (fun l => homeSlice (128 * l.line) != 80 * subDie v + subUnit v) } else s1 := by
  intro s1
  have known : (decide (bitsOf v.toNat 0 4 = 1) || decide (bitsOf v.toNat 0 4 = 2) || decide (bitsOf v.toNat 0 4 = 3)) = true := by
    rw [hk]
    rcases hkind with rfl | rfl | rfl <;> rfl
  unfold subcmd
  dsimp only
  rw [if_neg (by simp [hk]), if_neg (by simp [hgo]), if_neg]
  simp only [known, hbusy, hallowed, Bool.or_eq_true, Bool.not_true, decide_eq_true_eq]
  simp only [Nat.not_le.mpr hdie, Nat.not_le.mpr hunit, Nat.not_le.mpr hspare]
  decide

/-- SUBCMD is refused while a checked launch runs. -/
theorem subcmd_refused {s : State} {v : DWord} (hgo : v.getLsbD 63 = true) (hruns : ∃ e ∈ s.launches, e.2.checked = true)
    (hhalted : s.pre.halted = false) (hk : bitsOf v.toNat 0 4 = 1) :
    subcmd 1 v s = { s with rel := { s.rel with subErr := true } } := by
  have denied : subAllowed s = false := by
    have : s.launches.anyV (fun _ x => x.checked) = true := List.any_eq_true.mpr hruns
    simp [subAllowed, this, hhalted]
  unfold subcmd
  dsimp only
  rw [if_neg (by simp [hk]), if_neg (by simp [hgo]), if_pos (by simp [denied])]

/-- A substitution that waits for nothing ends, behind what a core's caches do. -/
theorem substitutionDone_ends {s s1 : State} {x : Subst} (hsub : s.rel.sub = some x)
    (hgo : (decide (x.kind = 0) && !((s.core (92 * x.die + x.unit)).warps.isEmpty && (s.core (92 * x.die + x.unit)).streams.isEmpty &&
      engineIdle (s.core (92 * x.die + x.unit)))) = false)
    (hs1 : s1 = if x.kind = 0 then freshCore s (92 * x.die + x.unit) else s) :
    let s2 := noteSubst (logEvent s1 5 x.die (substKey x))
    let key := 16 * (x.kind + 1) + x.die
    exec .substitutionDone s = .next { s2 with rel := { s2.rel with
      subBusy := false, sub := none, spares := s2.rel.spares.put key (s2.rel.spares.atD key 0 + 1)
      recs := s2.rel.recs.filter (· != substKey x), counts := s2.rel.counts.del (substKey x) } } := by
  intro s2 key
  show execSubstitutionDone s = _
  unfold execSubstitutionDone
  rw [hsub]
  dsimp only
  rw [hgo, if_neg (by decide)]
  subst hs1
  rfl

theorem substitutionDone_unit {s : State} {x : Subst} (hsub : s.rel.sub = some x) (hkind : x.kind ≠ 0) :
    ∃ t, exec .substitutionDone s = .next t ∧ t.rel.subBusy = false ∧ t.rel.sub = none ∧
    substKey x ∉ t.rel.recs ∧ t.cores = s.cores ∧ t.rel.spares.atD (16 * (x.kind + 1) + x.die) 0 =
      s.rel.spares.atD (16 * (x.kind + 1) + x.die) 0 + 1 := by
  have logged := ((OnlyLogs.rfl' s).logEvent 5 x.die (substKey x)).noteSubst
  refine ⟨_, substitutionDone_ends hsub (by simp [hkind]) (if_neg hkind).symm, rfl, rfl, by simp,
    logged.keeps (·.cores) fun _ _ _ => rfl, ?_⟩
  dsimp only
  rw [noteSubst_rel, logEvent_spares]
  simp

theorem substitutionDone_core {s : State} {x : Subst} (hsub : s.rel.sub = some x) (hkind : x.kind = 0)
    (hwarps : (s.core (92 * x.die + x.unit)).warps = []) (hstreams : (s.core (92 * x.die + x.unit)).streams = [])
    (hidle : engineIdle (s.core (92 * x.die + x.unit)) = true) :
    ∃ t, exec .substitutionDone s = .next t ∧ t.rel.subBusy = false ∧ t.rel.sub = none ∧ (t.core (92 * x.die + x.unit)).tlb = [] := by
  have logged := ((OnlyLogs.rfl' (freshCore s (92 * x.die + x.unit))).logEvent 5 x.die (substKey x)).noteSubst
  refine ⟨_, substitutionDone_ends hsub (by simp [hwarps, hstreams, hidle]) (if_pos hkind).symm, rfl, rfl, ?_⟩
  have cores := logged.keeps (·.cores) fun _ _ _ => rfl
  refine (congrArg (fun m => (NMap.atD m (92 * x.die + x.unit) Core.reset).tlb) cores).trans ?_
  exact congrArg Core.tlb (State.core_modCore_self _ _ _)

/-! ## The log's read pointer -/

theorem elreadWrite_spec (s : State) (v : DWord) :
    (v.toNat < s.rel.read ∨ s.rel.head < v.toNat → exec (.elreadWrite v) s = .next s) ∧
    (s.rel.read ≤ v.toNat → v.toNat ≤ s.rel.head → s.rel.lost = 0 →
      exec (.elreadWrite v) s = .next { s with rel := { s.rel with read := v.toNat } }) ∧
    (s.rel.read ≤ v.toNat → v.toNat ≤ s.rel.head → s.rel.lost ≠ 0 → s.rel.head - v.toNat < 3932160 →
      exec (.elreadWrite v) s = .next (logEvent { s with rel := { s.rel with read := v.toNat, lost := 0 } } 14 0 (s.rel.lost % 2 ^ 96))) := by
  have inside (h1 : s.rel.read ≤ v.toNat) (h2 : v.toNat ≤ s.rel.head) :
      ¬ ((decide (v.toNat < s.rel.read) || decide (s.rel.head < v.toNat)) = true) := by simp [h1, h2]
  refine ⟨fun h => ?_, fun h1 h2 h3 => ?_, fun h1 h2 h3 h4 => ?_⟩
  · exact congrArg Host.Outcome.next (if_pos (by simpa using h))
  · refine congrArg Host.Outcome.next ((if_neg (inside h1 h2)).trans (if_neg ?_))
    simp [h3]
  · refine congrArg Host.Outcome.next ((if_neg (inside h1 h2)).trans (if_pos ?_))
    simp [h3, logSlots, h4]

/-! ## Firmware -/

theorem core_enableDispatch (s : State) (c : Nat) : (enableDispatch s).core c = s.core c := rfl

theorem firmwareReload_spec (s : State) (c ctx : Nat) (pc : DWord) (h : (s.core c).ctrl.loaded = false ∨ (s.core c).ctrl.halted = true) :
    ∃ t, exec (.controlCoreFirmwareReload c ctx pc) s = .next t ∧ t.mem = s.mem ∧ (t.core c).warps = (s.core c).warps ∧
      (t.core c).ctrl = { Control.reset with loaded := true, ctx := ctx, pc := pc } ∧
      t.ready = (s.ready || decide (368 ≤ (t.cores.filterV (fun _ y => y.ctrl.loaded)).length)) ∧
      ∀ z ∈ t.clauses, ¬(z.core = c ∧ z.picker = .control) := by
  have loads : ¬ (((s.core c).ctrl.loaded && !(s.core c).ctrl.halted) = true) := by
    rcases h with h | h <;> simp [h]
  refine ⟨_, congrArg Host.Outcome.next (if_neg loads), rfl, ?_, ?_, rfl, fun z hz => ?_⟩
  · rw [core_enableDispatch, State.core_modCore_self]
    rfl
  · rw [core_enableDispatch, State.core_modCore_self]
    rfl
  · rintro ⟨hcore, hpicker⟩
    have kept := (List.mem_filter.mp hz).2
    simp [hcore, hpicker] at kept

/-! ## Training and reset -/

/-- A bit that no step of the fold sets is as it was. -/
theorem getLsbD_foldl_live (p : Nat) (lost : Nat → Bool) (hlost : lost p = true) (l : NMap Nat) (m : BitVec 16) :
    (l.foldl (fun (m : BitVec 16) (e : Nat × Nat) => if lost e.2 then m else m ||| (1#16 <<< e.2)) m).getLsbD p = m.getLsbD p := by
  induction l generalizing m with
  | nil => rfl
  | cons e l ih =>
    rw [List.foldl_cons, ih]
    by_cases he : lost e.2 = true
    · rw [if_pos he]
    · rw [if_neg he]
      have hne : e.2 ≠ p := fun h => he (h ▸ hlost)
      have : (1#16 <<< e.2).getLsbD p = false := by
        simp only [BitVec.getLsbD_shiftLeft, BitVec.getLsbD_one]
        by_cases hp : p < e.2
        · simp [hp]
        · simp [show p - e.2 ≠ 0 by omega]
      simp [this]

theorem trained_lost (tick : Nat) (f : Fabric) (p : Nat) (hreach : ∃ e ∈ f.reach, e.2 = p) (hdead : f.live.getLsbD p = false)
    (hother : p ≠ (wired tick f).index) : (trained tick false f).live.getLsbD p = false := by
  refine (getLsbD_foldl_live p (fun q => !false && f.reach.anyV (fun _ r => r = q) && !f.live.getLsbD q) ?_ _ _).trans ?_
  · have : f.reach.anyV (fun _ r => decide (r = p)) = true := List.any_eq_true.mpr (by simpa using hreach)
    simp [this, hdead]
  · simp only [BitVec.getLsbD_shiftLeft, BitVec.getLsbD_one]
    by_cases hp : p < (wired tick f).index
    · simp [hp]
    · simp [show p - (wired tick f).index ≠ 0 by omega]

/-- Only memory and the registers of reliability differ, and the log's head is a given one. -/
def BootedFrom (s : State) (head : Nat) (t : State) : Prop :=
  ∃ m r, t = { s with mem := m, rel := r } ∧ r.read = s.rel.read ∧ r.head = head

/-- The state behind the boot entry is the state before it, but for memory and the registers of reliability. -/
theorem bootEntry_spec (old s : State) :
    BootedFrom s ((if old.rel.flashHash = 0 then 0 else old.rel.flashSeq + 1) + 1) (bootEntry old s) := by
  unfold bootEntry
  exact iteInduction (motive := BootedFrom s _) (fun _ => ⟨_, _, rfl, rfl, rfl⟩) (fun _ => ⟨_, _, rfl, rfl, rfl⟩)

theorem beforeReset_asked {s : State} (hon : s.pow.off = false) : beforeReset true s = checkpoint s := by
  simp [beforeReset, hon]

theorem beforeReset_flash {s : State} {asked : Bool} (h : s.pow.off = true ∨ asked = false) :
    (beforeReset asked s).rel.flashHash = s.rel.flashHash ∧ (beforeReset asked s).rel.flashSeq = s.rel.flashSeq := by
  unfold beforeReset
  rcases h with h | rfl
  · simp [h]
  · split <;> simp

theorem reset_spec (s : State) :
    let how := s.host.resets.headD { all := false, asked := true, verified := true }
    ∃ t, exec .reset s = .next t ∧ t.cores = [] ∧ t.launches = [] ∧ t.wgs = [] ∧ t.ops = [] ∧ t.lqs = [] ∧ t.xl = State.reset.xl ∧
    t.dfqBase = 0 ∧ t.bpBase = 0 ∧ t.popBase = 0 ∧ t.popSize = 0 ∧ t.rep.isOpen = false ∧ t.pre.halted = false ∧ t.ready = false ∧
    t.pow.clk = 0 ∧ t.pow.ref = false ∧ t.pow.gate = 0 ∧ t.rel.read = 0 ∧ t.host.resets = s.host.resets.tail ∧
    (how.verified = false → t.pow.off = true ∧ t.mem = [] ∧ t.fab = s.fab) ∧
    (how.verified = true → t.pow.off = false ∧ t.fab = trained s.tick how.all s.fab ∧ t.fab.timeout = 16000 ∧ t.fab.loss = 1000 ∧
      (s.pow.off = false → how.asked = true → t.rel.head = (if s.rel.hash = 0 then 0 else s.rel.head - 1 + 1) + 1) ∧
      (s.pow.off = true ∨ how.asked = false → t.rel.head = (if s.rel.flashHash = 0 then 0 else s.rel.flashSeq + 1) + 1)) := by
  intro how
  by_cases hv : how.verified = true
  · obtain ⟨m, r, hboot, hread, hhead⟩ := bootEntry_spec (beforeReset how.asked s)
      { State.reset with
        tick := s.tick, agenda := s.agenda, fresh := s.fresh, host := { s.host with resets := s.host.resets.tail }
        fab := trained s.tick how.all s.fab, pow := { Power.reset with temps := s.pow.temps } }
    refine ⟨_, congrArg Host.Outcome.next ((if_pos hv).trans hboot), rfl, rfl, rfl, rfl, rfl, rfl, rfl, rfl, rfl, rfl, rfl, rfl, rfl, rfl,
      rfl, rfl, hread, rfl, fun h => absurd hv (by simp [h]), fun _ => ⟨rfl, rfl, rfl, rfl, fun hon hasked => ?_, fun h => ?_⟩⟩
    · rw [hasked, beforeReset_asked hon] at hhead
      exact hhead
    · obtain ⟨hash, seq⟩ := beforeReset_flash h
      rw [hash, seq] at hhead
      exact hhead
  · exact ⟨_, congrArg Host.Outcome.next (if_neg hv), rfl, rfl, rfl, rfl, rfl, rfl, rfl, rfl, rfl, rfl, rfl, rfl, rfl, rfl,
      rfl, rfl, rfl, rfl, fun _ => ⟨rfl, rfl, rfl⟩, fun h => absurd h hv⟩

/-- Settles O55: the log and the checkpoint touch only what is theirs (`OnlyLogs`), and each event is followed to its end. -/
theorem reliability : Obligations.Reliability := by
  unfold Obligations.Reliability
  refine ⟨correctedError_spec, logEvent_entry, fun s kind source detail h => logEvent_full s kind source detail h,
    fun s => ⟨fun h => congrArg Host.Outcome.next (thisHour_same h), fun h => congrArg Host.Outcome.next (thisHour_new h)⟩,
    fun _ _ => rfl, fun s p h _ => laneFailure_spare s p h, laneFailure_first, fun s v hgo hbusy hidle => ?_,
    fun s v hgo hruns hhalted hk => congrArg Host.Outcome.next (subcmd_refused hgo hruns hhalted hk),
    fun _ _ hsub hkind => substitutionDone_unit hsub hkind, fun _ _ hsub hkind hw hs he => substitutionDone_core hsub hkind hw hs he,
    elreadWrite_spec, fun s => ⟨rfl, rfl, rfl, checkpoint_byte s⟩,
    fun s hon => congrArg Host.Outcome.next (if_neg (by simp [hon])), firmwareReload_spec, trained_lost, reset_spec⟩
  have allowed := subAllowed_of hidle
  exact ⟨fun hk hd hu hn => congrArg Host.Outcome.next
      ((subcmd_accepted 1 hgo hbusy allowed (.inl rfl) hk hd hu hn).trans (if_neg (by decide))),
    fun hk hd hu hn => congrArg Host.Outcome.next
      ((subcmd_accepted 2 hgo hbusy allowed (.inr (.inl rfl)) hk hd hu hn).trans (if_pos rfl)),
    fun hk hd hu hn => congrArg Host.Outcome.next
      ((subcmd_accepted 3 hgo hbusy allowed (.inr (.inr rfl)) hk hd hu hn).trans (if_neg (by decide)))⟩

end Sys2Proof.Machine
end

section
/-! PROOFS. The copy channels: what a command does where it is issued, the write pointer, and the steps of a copy on its way. -/

namespace Sys2Proof.Machine

/-! ## Engine commands -/

/-- The launched lanes that execute a command together. -/
def commandingLanes (s : State) (x : Clause) (k : Nat) (w : Warp) (i : Instr) : List Nat :=
  (x.together s k w i).filter (fun l => (s.lane x.core k l).kind == .launched)

theorem engineWarp_arrived {i : Instr} {ops : List (Operand × Pos)} {s : State} {x : Clause} {k : Nat} {w : Warp}
    {f : Clause → State → Nat → List Nat → List Nat → Warp → State} (h : Issues s x k w) (hr : Arrived i ops s x k w)
    (hc : ctrlOnly i = false) (hne : commandingLanes s x k w i ≠ []) :
    issue i ops (engineWarp f) s = endIssue x (f x s k (x.members k w i) (commandingLanes s x k w i) w) := by
  refine (issue_arrived h hr hc).trans (congrArg (endIssue x) ?_)
  have hex : launchedOf s x.core k (guardLanes s x k (x.members k w i)) = commandingLanes s x k w i := rfl
  unfold engineWarp
  rw [h.warp, hex]
  cases hl : commandingLanes s x k w i with
  | nil => exact absurd hl hne
  | cons l t => rfl

/-! ## Acceptance -/

section
variable {s : State} {c ch : Nat} {m : CopyCmd}

/-- An accepted command is under way: its ownership is taken, SEQ rises, and its flag is up unless it is empty. -/
def copyStarted (s : State) (c ch : Nat) (m : CopyCmd) : State :=
  let u := (engineStart s c (.copy c ch) true (m.lines s c)).modChan c ch (fun y => { y with seq := y.seq + 1, done := 0, cmd := some m })
  if m.len = 0 then freeOwnership u (.copy c ch) else raiseFlag u c m.slot m.flag

theorem acceptCopy_takes (hfew : (m.granules s c).length ≤ 256) (hmissing : m.missing s c = none) (hhome : wbHeld s c = false)
    (hfree : recordsFree s (granulesOf (m.lines s c)) = true) : acceptCopy s c ch m = .taken (copyStarted s c ch m) := by
  unfold acceptCopy
  rw [if_neg (Nat.not_lt.2 hfew), hmissing]
  dsimp only
  rw [hfree, hhome]
  rfl

theorem acceptCopy_parks {e va : Nat} (hfew : (m.granules s c).length ≤ 256) (hmissing : m.missing s c = some (e, va)) :
    let j := joinFault s (BitVec.ofNat 64 va) m.ctx c e .copy true 0
    acceptCopy s c ch m = .parks j.1 j.2 := by
  unfold acceptCopy
  rw [if_neg (Nat.not_lt.2 hfew), hmissing]

end

/-! ## The copy commands -/

section
variable {s : State} {x : Clause} {k : Nat} {w : Warp}

/-- An operand of a copy command, read in lane l. -/
def copyRead (s : State) (x : Clause) (k l : Nat) (o : Operand) (p : Pos) : Nat :=
  readOp s (x.env k) l (if p = .w64 then .n64 else .n32) p o

/-- The command that a copy form gives to a channel. -/
def copyOf (f : FmtS) (s : State) (x : Clause) (k : Nat) (w : Warp) (dst src len : Nat) (form : CopyForm) : CopyCmd :=
  { dst := BitVec.ofNat 64 dst, src := BitVec.ofNat 64 src, len := len, form := form,
    hint := decodeHint (f.s7.extractLsb' 2 2), slot := k, launch := w.launch, wg := w.wg, ctx := s.ctxOf x.core k,
    flag := flagOf x.line f.fs, parked := none, seen := false, warpid := w.warpid, killed := false, prog := 0, wrote := [], flight := none }

/-- The lanes wait their turn at a channel. -/
def copyWaits (s : State) (c k ch : Nat) (m : CopyCmd) (ls : List Nat) : State :=
  parkAll (s.modChan c ch (fun y => { y with queue := y.queue ++ [m] })) c k ls (.copy ch)

/-- What a command whose operands are multiples of 4 does: it waits its turn, or is accepted. -/
def copyCommand (s : State) (x : Clause) (k ch : Nat) (m : CopyCmd) (ls ex : List Nat) : State :=
  if (!(s.chan x.core ch).free || (s.chan x.core ch).queue != []) = true then copyWaits s x.core k ch m ls
  else match acceptCopy s x.core ch m with
    | .taken t => t
    | .wait => copyWaits s x.core k ch m ls
    | .parks t id => parkAll t x.core k ls (.fault id .copy)
    | .tooLarge => raiseTrap s x.core k Cause.engine x.pc { lanes := maskOf ex }

theorem copyWarp_issue {i : Instr} {f : FmtS} {form : (Operand → Pos → Nat) → CopyForm} {src len : (Operand → Pos → Nat) → Nat}
    {bad : (Operand → Pos → Nat) → Bool} (h : Issues s x k w) (hr : Arrived i [] s x k w) (hc : ctrlOnly i = false)
    (hne : commandingLanes s x k w i ≠ []) {rd : Operand → Pos → Nat}
    (hrd : (fun o p => readOp s (x.env k) ((commandingLanes s x k w i).headD 0) (if p == .w64 then .n64 else .n32) p o) = rd)
    (hd : rd f.a .w64 % 4 = 0) (hs : src rd % 4 = 0) (hl : len rd % 4 = 0) (hb : bad rd = false)
    (hfly : inFlight s x.core k lanes32 (fun _ => true) = false) :
    issue i [] (copyWarp f form src len bad) s = endIssue x (copyCommand s x k (f.s7.extractLsb' 0 2).toNat
      (copyOf f s x k w (rd f.a .w64) (src rd) (len rd) (form rd)) (x.members k w i) (commandingLanes s x k w i)) := by
  refine (engineWarp_arrived h hr hc hne).trans (congrArg (endIssue x) ?_)
  subst hrd
  have aligned {a b c : Nat} {d : Bool} (ha : a % 4 = 0) (hb : b % 4 = 0) (hc : c % 4 = 0) (hd : d = false) :
      ¬ ((a % 4 != 0 || b % 4 != 0 || c % 4 != 0 || d) = true) := by
    rw [ha, hb, hc, hd]
    decide
  refine (if_neg (aligned hd hs hl hb)).trans ((if_neg (by rw [hfly]; decide)).trans rfl)

/-- What the statement asks of a copy form. -/
def CommandsCopy (i : Instr) (f : FmtS) (body : (Operand → Pos → Nat) → CopyForm × Nat × Nat) (bad : (Operand → Pos → Nat) → Bool) : Prop :=
  ∀ s x k w, Issues s x k w → Arrived i [] s x k w → commandingLanes s x k w i ≠ [] →
    let rd := copyRead s x k ((commandingLanes s x k w i).headD 0)
    let ch := (f.s7.extractLsb' 0 2).toNat
    let m := copyOf f s x k w (rd f.a .w64) (body rd).2.1 (body rd).2.2 (body rd).1
    rd f.a .w64 % 4 = 0 → (body rd).2.1 % 4 = 0 → (body rd).2.2 % 4 = 0 → bad rd = false →
    inFlight s x.core k lanes32 (fun _ => true) = false →
    ((s.chan x.core ch).free = true → (s.chan x.core ch).queue = [] → (m.granules s x.core).length ≤ 256 →
      (m.missing s x.core = none → wbHeld s x.core = false → recordsFree s (granulesOf (m.lines s x.core)) = true →
        exec i s = .next (endIssue x (copyStarted s x.core ch m))) ∧
      (∀ e va, m.missing s x.core = some (e, va) →
        let j := joinFault s (BitVec.ofNat 64 va) m.ctx x.core e .copy true 0
        exec i s = .next (endIssue x (parkAll j.1 x.core k (x.members k w i) (.fault j.2 .copy))))) ∧
    ((s.chan x.core ch).free = false → exec i s = .next (endIssue x (copyWaits s x.core k ch m (x.members k w i))))

theorem commandsCopy_of {i : Instr} {f : FmtS} {form : (Operand → Pos → Nat) → CopyForm} {src len : (Operand → Pos → Nat) → Nat}
    {bad : (Operand → Pos → Nat) → Bool} (hexec : ∀ s, exec i s = .next (issue i [] (copyWarp f form src len bad) s))
    (hc : ctrlOnly i = false) : CommandsCopy i f (fun rd => (form rd, src rd, len rd)) bad := by
  intro s x k w h hr hne rd ch m hd hs hl hb hfly
  have reads : (fun o p => readOp s (x.env k) ((commandingLanes s x k w i).headD 0) (if p == .w64 then .n64 else .n32) p o) = rd := by
    funext o p
    cases p <;> rfl
  have hgo := (hexec s).trans (congrArg Host.Outcome.next (copyWarp_issue h hr hc hne reads hd hs hl hb hfly))
  have free (hfree : (s.chan x.core ch).free = true) (hq : (s.chan x.core ch).queue = []) :
      ¬ ((!(s.chan x.core ch).free || (s.chan x.core ch).queue != []) = true) := by
    rw [hfree, hq]
    decide
  have issued {t : State} (ht : copyCommand s x k ch m (x.members k w i) (commandingLanes s x k w i) = t) :
      exec i s = .next (endIssue x t) := hgo.trans (congrArg (fun u => Host.Outcome.next (endIssue x u)) ht)
  refine ⟨fun hfree hq hfew => ⟨fun hm hw hrec => ?_, fun e va hm => ?_⟩, fun hbusy => ?_⟩
  · exact issued ((if_neg (free hfree hq)).trans (by rw [acceptCopy_takes hfew hm hw hrec]))
  · exact issued ((if_neg (free hfree hq)).trans (by rw [acceptCopy_parks hfew hm]))
  · exact issued (if_pos (by rw [hbusy]; rfl))

theorem cpy_commands (f : FmtS) : CommandsCopy (.cpy f) f (fun rd => (.linear, rd f.b .w64, rd f.c .w32)) (fun _ => false) :=
  commandsCopy_of (form := fun _ => .linear) (src := fun rd => rd f.b .w64) (len := fun rd => rd f.c .w32) (fun _ => rfl) rfl

theorem cpymc_commands (f : FmtS) : CommandsCopy (.cpymc f) f
    (fun rd => (.multicast (f.imm.extractLsb' 0 16), rd f.b .w64, rd f.c .w32)) (fun _ => false) :=
  commandsCopy_of (form := fun _ => .multicast (f.imm.extractLsb' 0 16)) (src := fun rd => rd f.b .w64) (len := fun rd => rd f.c .w32)
    (fun _ => rfl) rfl

theorem cpfill_commands (f : FmtS) : CommandsCopy (.cpfill f) f
    (fun rd => (.fill (BitVec.ofNat 32 (rd f.b .w32)), 0, rd f.c .w32)) (fun _ => false) :=
  commandsCopy_of (form := fun rd => .fill (BitVec.ofNat 32 (rd f.b .w32))) (src := fun _ => 0) (len := fun rd => rd f.c .w32)
    (fun _ => rfl) rfl

theorem cpy2d_commands (f : FmtS) : CommandsCopy (.cpy2d f) f (fun rd => (.rows (rd f.c .w64 % 2 ^ 32) (rd f.c .w64 / 2 ^ 32)
    (16 * (f.imm.toNat / 2 ^ 16)) (16 * (f.imm.toNat % 2 ^ 16)), rd f.b .w64, (rd f.c .w64 % 2 ^ 32) * (rd f.c .w64 / 2 ^ 32)))
    (fun rd => decide (rd f.c .w64 % 2 ^ 32 % 16 ≠ 0)) := by
  have high : (f.imm.extractLsb' 16 16).toNat = f.imm.toNat / 2 ^ 16 := by
    have := f.imm.isLt
    simp only [BitVec.extractLsb'_toNat, Nat.shiftRight_eq_div_pow]
    omega
  have low : (f.imm.extractLsb' 0 16).toNat = f.imm.toNat % 2 ^ 16 := by
    simp only [BitVec.extractLsb'_toNat, Nat.shiftRight_zero]
  rw [← high, ← low]
  have rows : (fun rd : Operand → Pos → Nat => decide (rd f.c .w64 % 2 ^ 32 % 16 ≠ 0)) = fun rd => rd f.c .w64 % 2 ^ 32 % 16 != 0 := by
    funext rd
    exact Bool.eq_iff_iff.2 (by simp)
  rw [rows]
  exact commandsCopy_of (fun _ => rfl) rfl

end

/-! ## The write pointer -/

theorem markDirty_kept (s : State) (c : Nat) (sec : List Nat) : StoresAndWarpsKept s (markDirty s c sec) :=
  storesAndWarpsKept_modCore s c _ fun _ => ⟨rfl, rfl⟩

theorem modChan_kept (s : State) (c ch : Nat) (f : Chan → Chan) : StoresAndWarpsKept s (s.modChan c ch f) :=
  storesAndWarpsKept_modCore s c _ fun _ => ⟨rfl, rfl⟩

theorem readChan_kept (s : State) (c ch : Nat) : StoresAndWarpsKept s (readChan s c ch) := by
  unfold readChan
  cases (s.chan c ch).cmd with
  | none => exact .refl s
  | some m =>
    dsimp only
    split
    · exact markDirty_kept s c _
    · exact ((markDirty_kept s c _).trans (modChan_kept _ c ch _)).trans (dropLines_kept _ c _)

theorem guardLanes_congr {s t : State} {x : Clause} {k : Nat} (hk : k ≠ ctrlSlot) (h : StoresAndWarpsKept s t) (ls : List Nat) :
    guardLanes t x k ls = guardLanes s x k ls := by
  have lane (l : Nat) : t.lane x.core k l = s.lane x.core k l := by
    unfold State.lane
    rw [h.warp?, if_neg hk, if_neg hk]
  simp only [guardLanes, lane]

theorem wpReady_eq (y : Chan) (b : Nat) : wpReady y b = decide (b ≤ y.value ∨ y.value / 2 ^ 48 ≠ b / 2 ^ 48) := by
  unfold wpReady
  exact Bool.eq_iff_iff.2 (by simp)

section
variable {s : State} {x : Clause} {k : Nat} {w : Warp} {ls ex : List Nat} {f : FmtA} {n : BitVec 8}

/-- `ldwp` (R264). -/
theorem ldwp_reads (hn : f.a = .imm n) (h : Issues s x k w) (hr : Goes (.ldwp f) [(f.d, .w64)] s x k w ls ex)
    (hd : regDst (some (f.d, .w64)) = true) (hne : ex ≠ []) :
    let u := readChan s x.core (n.toNat % 4)
    let value := ((u.chan x.core (n.toNat % 4)).seq.toNat * 2 ^ 48 + (u.chan x.core (n.toNat % 4)).done % 2 ^ 48)
    exec (.ldwp f) s = .next (endIssue x (setLatches (putResults u x.core k (some (f.d, .w64)) (ex.map (fun l => (l, value))))
      x.core k x.slot ls (some (f.d, .w64)))) := by
  intro u value
  refine congrArg Host.Outcome.next ((issue_goes h hr rfl).trans (congrArg (endIssue x) ?_))
  have hch : chanOf f.a = n.toNat % 4 := by rw [hn]; rfl
  dsimp only
  rw [hr.guard, hch, if_neg hne]
  have guard : guardLanes u x k ls = ex := (guardLanes_congr (Nat.ne_of_lt h.slot) (readChan_kept s x.core _) ls).trans hr.guard
  refine (Arith.warp_eq _ _ _ guard).trans ?_
  have plain : popOf ((some (f.d, Pos.w64)).toList.map Prod.fst) = none := popOf_eq_none_of_regDst hd
  show queueWarp _ none (popOf ((some (f.d, Pos.w64)).toList.map Prod.fst)) _ _ _ _ _ x u k ls = _
  rw [plain]
  refine congrArg (fun v => setLatches v x.core k x.slot ls (some (f.d, .w64))) ((apply_of ..).trans ?_)
  simp only [pushLatches_of_regDst hd, List.map_map, Function.comp_def, writePreds, putResults, Option.isSome_none,
    Bool.false_eq_true, if_false, List.append_nil]
  rfl

/-- `waitwp` (R264). -/
theorem waitwp_waits (hn : f.a = .imm n) (h : Issues s x k w) (hr : Goes (.waitwp f) [(f.d, .w64), (f.b, .w64)] s x k w ls ex) :
    let c := x.core
    let ch := n.toNat % 4
    let b (l : Nat) : Nat := readOp s (x.env k) l .b64 .w64 f.b
    let value := (s.chan c ch).value
    let go := ex.filter (fun l => decide (b l ≤ value ∨ value / 2 ^ 48 ≠ b l / 2 ^ 48))
    let off := ex.filter (fun l => !go.contains l)
    let u := if go = [] then s else readChan s c ch
    exec (.waitwp f) s = .next (endIssue x (setLatches (off.foldl (fun s l => park s c k l (.waitwp ch (BitVec.ofNat 64 (b l)) (laneDest f.d ex l)))
      (go.foldl (fun v l => putResults v c k (some (laneDest f.d ex l, .w64)) [(l, (u.chan c ch).value)]) u)) c k x.slot
      (ls.filter (fun l => !off.contains l)) (some (f.d, .w64)))) := by
  refine congrArg Host.Outcome.next ((issue_goes h hr rfl).trans (congrArg (endIssue x) ?_))
  have hch : chanOf f.a = n.toNat % 4 := by rw [hn]; rfl
  dsimp only
  rw [hr.guard, hch]
  simp only [wpReady_eq]

end

/-- WAITWP_WAKE (R264). -/
theorem waitwpWake_reads {s : State} {c k l ch : Nat} {b : DWord} {d : Operand} (hwait : (s.lane c k l).wait = .waitwp ch b d)
    (hready : wpReady (s.chan c ch) b.toNat = true) :
    let u := readChan s c ch
    exec (.waitwpWake c k l) s = .next (passOn (putResults u c k (some (d, .w64)) [(l, (u.chan c ch).value)]) c k [l]) := by
  show execWaitwpWake c k l s = _
  unfold execWaitwpWake
  rw [hwait]
  exact congrArg Host.Outcome.next (if_pos hready)

/-! ## A copy on its way -/

section
variable {s : State} {c ch : Nat} {m : CopyCmd}

/-- `cpkill` of a command that still runs (R264). -/
theorem killCopy_running (hcmd : (s.chan c ch).cmd = some m) (hbusy : (s.chan c ch).free = false) :
    killCopy s c ch = endCopy (s.modCmd c ch (fun m => { m with killed := true, parked := none, flight := none })) c ch m := by
  unfold killCopy
  rw [hcmd]
  exact if_neg (by rw [hbusy]; decide)

theorem wbHeld_modChan (s : State) (c ch : Nat) (f : Chan → Chan) : wbHeld (s.modChan c ch f) c = wbHeld s c := by
  have l1 : ((s.modChan c ch f).core c).l1 = (s.core c).l1 := by
    unfold State.modChan
    rw [State.core_modCore_self]
  unfold wbHeld
  rw [l1]
  rfl

/-- COPY_ACCEPT (R72). -/
theorem copyAccept_takes {t : List CopyCmd} {w : Warp} (hq : (s.chan c ch).queue = m :: t) (hfree : (s.chan c ch).free = true)
    (hw : s.warp? c m.slot = some w) (htrap : w.trapped = false) (hwg : w.wg = m.wg) (hid : w.warpid = m.warpid)
    (hls : waiting s c m.slot (fun y => y == .copy ch) ≠ []) :
    let u := s.modChan c ch (fun y => { y with queue := t })
    (m.granules u c).length ≤ 256 → m.missing u c = none → wbHeld s c = false → recordsFree u (granulesOf (m.lines u c)) = true →
    exec (.copyAccept c ch) s = .next (passOn (copyStarted u c ch m) c m.slot (waiting s c m.slot (fun y => y == .copy ch))) := by
  intro u hfew hmissing hhome hrec
  show execCopyAccept c ch s = _
  unfold execCopyAccept
  rw [hq]
  dsimp only
  rw [hw]
  have here : (decide (w.wg = m.wg) && decide (w.warpid = m.warpid) && waiting s c m.slot (fun y => y == .copy ch) != []) = true := by
    simp [hwg, hid, hls]
  refine congrArg Host.Outcome.next ((if_neg (by simp only [here]; decide)).trans ((if_neg (by simp only [hfree, htrap]; decide)).trans ?_))
  rw [acceptCopy_takes hfew hmissing ((wbHeld_modChan s c ch _).trans hhome) hrec]

/-- Where the next bytes of a linear command go and come from. -/
theorem spot_linear (h : m.form = .linear) :
    m.spot m.prog = ((m.dst.toNat + m.prog) % 2 ^ 64, (m.src.toNat + m.prog) % 2 ^ 64, m.len - m.prog) := by
  unfold CopyCmd.spot
  rw [h]

/-- The next chunk of a linear command stays within one line at either end. -/
theorem chunk_linear (h : m.form = .linear) : m.chunk =
    min (min (m.len - m.prog) (128 - (m.dst.toNat + m.prog) % 2 ^ 64 % 128)) (128 - (m.src.toNat + m.prog) % 2 ^ 64 % 128) := by
  unfold CopyCmd.chunk
  dsimp only
  rw [spot_linear h, h]

/-- The next chunk of a linear command out of a scratchpad is what is written. -/
theorem copyStep_store {so eo : Nat} {ls : Nat} (hcmd : (s.chan c ch).cmd = some m) (hkilled : m.killed = false)
    (hparked : m.parked = none) (hflight : m.flight = none) (hform : m.form = .linear) (hmore : m.prog < m.len)
    (hroom : peerRequests s c < 256)
    (hsrc : resolveNow s (copyWho c m) { kind := .copy, write := false, odd := true, width := 4 } ((m.src.toNat + m.prog) % 2 ^ 64) =
      (s, .ok (.store so eo) ls)) :
    copyStep s c ch = copyWrite s c ch m (Mem.rd (s.core so).store eo m.chunk) := by
  unfold copyStep
  rw [hcmd]
  dsimp only
  rw [hform]
  dsimp only
  refine (if_neg ?_).trans ?_
  · have full : ¬ 256 < peerRequests s c + 1 := by omega
    have done : ¬ m.len ≤ m.prog := Nat.not_le.2 hmore
    simp [hkilled, hparked, hflight, full, done]
  · rw [spot_linear hform]
    dsimp only
    rw [hsrc]

/-- A linear command's bytes go to a scratchpad by way of its core store. -/
theorem copyWrite_store {sd ed v : Nat} {ld : Nat} (hform : m.form = .linear)
    (hdst : resolveNow s (copyWho c m) { kind := .copy, write := true, odd := true, width := 4 } ((m.dst.toNat + m.prog) % 2 ^ 64) =
      (s, .ok (.store sd ed) ld)) :
    copyWrite s c ch m v = copyAdvance (s.wrStore sd ed m.chunk v) c ch := by
  have place : copyDst s c m (m.spot m.prog).1 = (s, .ok (.store sd ed) ld) := by
    unfold copyDst
    rw [spot_linear hform, hdst, hform]
  unfold copyWrite
  extract_lets n va bytes note here
  rw [show copyDst s c m va = _ from place, hform]
  exact if_neg (by dsimp only [here]; rw [hform]; exact Bool.false_ne_true)

/-- A linear command's bytes go to memory where it owns the line, and their sectors are noted. -/
theorem copyWrite_mem {pa v : Nat} {ld : Nat} (hform : m.form = .linear)
    (hdst : resolveNow s (copyWho c m) { kind := .copy, write := true, odd := true, width := 4 } ((m.dst.toNat + m.prog) % 2 ^ 64) =
      (s, .ok (.mem pa) ld)) (hsound : frameLost s (.mem pa) = false)
    (howns : ∃ r ∈ s.own, r.engine = .copy c ch ∧ r.granule = pa / 65536 ∧ r.mask.getLsbD (pa / 128 % 512) = true) :
    let u := s.modCmd c ch (fun m' => { m' with wrote := addSectors m'.wrote (sectorsOf pa m.chunk) })
    copyWrite s c ch m v = copyAdvance (l2Write (u.wrMem pa m.chunk v) pa m.chunk (effHint m.hint ld)) c ch := by
  intro u
  have place : copyDst s c m (m.spot m.prog).1 = (s, .ok (.mem pa) ld) := by
    unfold copyDst
    rw [spot_linear hform, hdst, hform]
  have owned : copyOwn s c ch m pa = some s := by
    obtain ⟨r, hr, he, hg, hm⟩ := howns
    exact if_pos (List.any_eq_true.2 ⟨r, hr, by simp [he, hg, hm]⟩)
  unfold copyWrite
  extract_lets n va bytes note here
  rw [show copyDst s c m va = _ from place, hform]
  refine (if_neg (by dsimp only [here]; rw [hform]; exact ne_true_of_eq_false hsound)).trans ?_
  dsimp only
  rw [owned]

/-- COPY_DONE (R65, R77). -/
theorem copyDone_ends (hcmd : (s.chan c ch).cmd = some m) (hkilled : m.killed = false) (hall : m.len ≤ m.prog)
    (hdone : (s.chan c ch).done < m.len) :
    exec (.copyDone c ch) s = .next (endCopy ((enginePublish s (some m.wg) m.wrote).modChan c ch (fun y =>
      { y with done := m.len })) c ch m) := by
  show execCopyDone c ch s = _
  unfold execCopyDone
  rw [hcmd]
  refine congrArg Host.Outcome.next (if_neg ?_)
  simp [hkilled, Nat.not_lt.2 hall, Nat.not_le.2 hdone]

end

/-- Settles O30: the forms by what acceptance finds (`copyWarp_issue`), the write pointer's by their branches, and each hardware step by the
command that stands at the channel. -/
theorem copyCommands : Obligations.CopyCommands := by
  unfold Obligations.CopyCommands
  refine ⟨⟨fun f => ?_, fun f => ?_, fun f => ?_, fun f => ?_, fun f s x k w h hr hne => ?_, fun c ch s m hcmd hbusy => killCopy_running hcmd hbusy,
    fun f n s x k w ls ex hn h hr hd hne => ldwp_reads hn h hr hd hne, fun f n s x k w ls ex hn h hr => waitwp_waits hn h hr,
    fun c k l s ch b d hwait hready => waitwpWake_reads hwait hready⟩,
    fun c ch s m t w hq hfree hw htrap hwg hid => ?_, fun c ch s m so sd eo ed ls ld hcmd hkilled hparked hflight hform hmore hroom => ?_,
    fun c ch s m so eo pa ls ld hcmd hkilled hparked hflight hform hmore hroom => ?_,
    fun c ch s m hcmd hkilled hall hdone => copyDone_ends hcmd hkilled hall hdone⟩
  · exact cpy_commands f
  · exact cpy2d_commands f
  · exact cpymc_commands f
  · exact cpfill_commands f
  · exact congrArg Host.Outcome.next (engineWarp_arrived (i := .cpkill f) h hr rfl hne)
  · intro ls u hls hfew hmissing hhome hrec
    exact copyAccept_takes hq hfree hw htrap hwg hid hls hfew hmissing hhome hrec
  · intro dst src n who hsrc hdst
    refine congrArg Host.Outcome.next ((copyStep_store hcmd hkilled hparked hflight hform hmore hroom hsrc).trans ?_)
    rw [copyWrite_store hform hdst, chunk_linear hform]
  · intro dst src n who hsrc hdst hsound howns
    refine congrArg Host.Outcome.next ((copyStep_store hcmd hkilled hparked hflight hform hmore hroom hsrc).trans ?_)
    rw [copyWrite_mem hform hdst hsound howns, chunk_linear hform]

end Sys2Proof.Machine
end

section
/-! PROOFS. Populations: weights, roots and arrivals, and the barrier's reports. -/

namespace Sys2Proof.Machine

/-! ## What a change of a particle leaves -/

/-- The grains of the lanes are those of s, and the same particles are retired. -/
structure SameGrains (s u : State) : Prop where
  grain : ∀ c k l, particleOf u c k l = particleOf s c k l
  old : ∀ p i, (u.particle p i).map Particle.old = (s.particle p i).map Particle.old

theorem SameGrains.refl (s : State) : SameGrains s s := ⟨fun _ _ _ => rfl, fun _ _ => rfl⟩

theorem particleOf_modParticle (s : State) (p i : Nat) (f : Particle → Particle) (c k l : Nat) :
    particleOf (s.modParticle p i f) c k l = particleOf s c k l := by
  unfold particleOf
  rw [show (s.modParticle p i f).warp? c k = s.warp? c k from rfl]
  cases s.warp? c k with
  | none => rfl
  | some w =>
    dsimp only
    rw [show (s.modParticle p i f).launches = s.launches from rfl, show (s.modParticle p i f).wgs = s.wgs from rfl]
    cases s.launches.at? w.launch with
    | none => rfl
    | some x =>
      cases s.wgs.at? w.wg with
      | none => rfl
      | some g =>
        dsimp only
        cases x.population with
        | none => rfl
        | some r =>
          dsimp only
          rw [show (s.modParticle p i f).pops = s.pops.upd p (fun q => { q with parts := q.parts.upd i f }) from rfl, NMap.at?_upd]
          by_cases hr : r = p
          · subst hr
            rw [if_pos rfl]
            cases s.pops.at? r <;> rfl
          · rw [if_neg hr]

theorem particle_modParticle (s : State) (p i q j : Nat) (f : Particle → Particle) :
    (s.modParticle p i f).particle q j = if q = p ∧ j = i then (s.particle p i).map f else s.particle q j := by
  unfold State.particle
  rw [show (s.modParticle p i f).pops = s.pops.upd p (fun q => { q with parts := q.parts.upd i f }) from rfl, NMap.at?_upd]
  by_cases hq : q = p
  · subst hq
    rw [if_pos rfl]
    cases s.pops.at? q with
    | none => simp only [Option.map_none, ite_self]
    | some y =>
      simp only [Option.map_some, NMap.at?_upd, true_and]
  · rw [if_neg hq, if_neg (fun h => hq h.1)]

theorem SameGrains.modParticle {s u : State} (h : SameGrains s u) (p i : Nat) {f : Particle → Particle} (hf : ∀ z, (f z).old = z.old) :
    SameGrains s (u.modParticle p i f) := by
  refine ⟨fun c k l => (particleOf_modParticle u p i f c k l).trans (h.grain c k l), fun q j => ?_⟩
  rw [particle_modParticle]
  split
  · next hqj =>
    obtain ⟨rfl, rfl⟩ := hqj
    rw [Option.map_map, show (Particle.old ∘ f) = Particle.old from funext hf]
    exact h.old q j
  · exact h.old q j

/-! ## `pwadd` -/

/-- A fold that fails in no lane, under what each step keeps. -/
theorem foldl_of_foldlM_keeping {P : State → Prop} {one : State → Nat → Option State}
    {step : State × List Nat × List Nat → Nat → State × List Nat × List Nat}
    (h : ∀ u, P u → ∀ l t d, one u l = some t → P t ∧ step (u, d, []) l = (t, l :: d, [])) {ls : List Nat} {u t : State} (hu : P u)
    (ht : ls.foldlM one u = some t) : ∀ d, ∃ d', ls.foldl step (u, d, []) = (t, d', []) := by
  induction ls generalizing u with
  | nil => exact fun d => ⟨d, by rw [List.foldl_nil]; cases ht; rfl⟩
  | cons l ls ih =>
    intro d
    rw [List.foldlM_cons] at ht
    obtain ⟨v, hv, ht⟩ := Option.bind_eq_some_iff.1 ht
    obtain ⟨hPv, hstep⟩ := h u hu l v d hv
    rw [List.foldl_cons, hstep]
    exact ih hPv ht _

/-- What one lane's `pwadd` does, with its operand; none where a particle has had all its updates. -/
def addWeight (s u : State) (c k l v : Nat) : Option State :=
  match particleOf s c k l with
  | none => some u
  | some (p, i) => match s.particle p i, u.particle p i with
    | some y, some z =>
      if y.old.isSome then some u
      else if 2 ^ 32 ≤ z.updates + 1 then none
      else some (u.modParticle p i (fun z => { z with acc := lwAdd z.acc (lwVal v), updates := z.updates + 1 }))
    | _, _ => some u

/-- The grain of a lane, with its particle. -/
def partOf (s : State) (c k l : Nat) : Option (Nat × Nat × Particle) :=
  match particleOf s c k l with
  | some (p, i) => (s.particle p i).map (fun y => (p, i, y))
  | none => none

/-- The particle of a lane takes no further update. -/
def isFull (u : State) (c k l : Nat) : Bool :=
  match particleOf u c k l with
  | some (p, i) => (match u.particle p i with | some y => y.old.isNone && 2 ^ 32 ≤ y.updates + 1 | none => false)
  | none => false

/-- The model's step of one lane, which adds nothing once a lane before it has failed. -/
def weightStep (s : State) (c k : Nat) (v : State → Nat → Nat) (r : State × List Nat × List Nat) (l : Nat) : State × List Nat × List Nat :=
  if (r.2.2 != [] || isFull r.1 c k l) = true then (r.1, r.2.1, r.2.2 ++ [l])
  else match partOf s c k l with
    | some (p, i, y) =>
      if y.old.isSome then (r.1, l :: r.2.1, r.2.2)
      else (r.1.modParticle p i (fun y => { y with acc := lwAdd y.acc (lwVal (v r.1 l)), updates := y.updates + 1 }), l :: r.2.1, r.2.2)
    | none => (r.1, l :: r.2.1, r.2.2)

section
variable {s u : State} {c k l p i : Nat}

theorem partOf_of (hp : particleOf s c k l = some (p, i)) : partOf s c k l = (s.particle p i).map (fun y => (p, i, y)) := by
  unfold partOf
  rw [hp]

theorem isFull_of_none (hp : particleOf u c k l = none) : isFull u c k l = false := by
  unfold isFull
  rw [hp]

theorem isFull_of_lost (hp : particleOf u c k l = some (p, i)) (hz : u.particle p i = none) : isFull u c k l = false := by
  unfold isFull
  rw [hp]
  dsimp only
  rw [hz]

theorem isFull_of {z : Particle} (hp : particleOf u c k l = some (p, i)) (hz : u.particle p i = some z) :
    isFull u c k l = (z.old.isNone && decide (2 ^ 32 ≤ z.updates + 1)) := by
  unfold isFull
  rw [hp]
  dsimp only
  rw [hz]

theorem weightStep_passes {v : State → Nat → Nat} (hfull : isFull u c k l = false) (hpart : partOf s c k l = none) (d : List Nat) :
    weightStep s c k v (u, d, []) l = (u, l :: d, []) := by
  unfold weightStep
  rw [if_neg (by dsimp only; rw [hfull]; decide), hpart]

theorem weightStep_particle {v : State → Nat → Nat} {y : Particle} (hfull : isFull u c k l = false) (hpart : partOf s c k l = some (p, i, y))
    (d : List Nat) : weightStep s c k v (u, d, []) l = if y.old.isSome then (u, l :: d, [])
      else (u.modParticle p i (fun y => { y with acc := lwAdd y.acc (lwVal (v u l)), updates := y.updates + 1 }), l :: d, []) := by
  unfold weightStep
  rw [if_neg (by dsimp only; rw [hfull]; decide), hpart]

end

theorem weightStep_of_addWeight {s u t : State} {c k l : Nat} {v : State → Nat → Nat} (h : SameGrains s u)
    (ht : addWeight s u c k l (v u l) = some t) (d : List Nat) :
    SameGrains s t ∧ weightStep s c k v (u, d, []) l = (t, l :: d, []) := by
  unfold addWeight at ht
  have grain := h.grain c k l
  cases hp : particleOf s c k l with
  | none =>
    rw [hp] at ht grain
    cases ht
    exact ⟨h, weightStep_passes (isFull_of_none grain) (by unfold partOf; rw [hp]) d⟩
  | some e =>
    obtain ⟨p, i⟩ := e
    rw [hp] at ht grain
    dsimp only at ht
    have old := h.old p i
    have part := partOf_of hp
    cases hy : s.particle p i with
    | none =>
      rw [hy] at ht old part
      have hz : u.particle p i = none := Option.map_eq_none_iff.1 old
      cases ht
      exact ⟨h, weightStep_passes (isFull_of_lost grain hz) part d⟩
    | some y =>
      rw [hy] at ht old part
      obtain ⟨z, hz, same⟩ := Option.map_eq_some_iff.1 old
      rw [hz] at ht
      dsimp only at ht
      have full := isFull_of grain hz
      rw [same] at full
      by_cases hret : y.old.isSome = true
      · rw [if_pos hret] at ht
        cases ht
        have notNone : y.old.isNone = false := by rw [Option.isNone_eq_false_iff]; exact hret
        exact ⟨h, (weightStep_particle (by rw [full, notNone]; rfl) part d).trans (if_pos hret)⟩
      · rw [if_neg hret] at ht
        by_cases hfull : 2 ^ 32 ≤ z.updates + 1
        · rw [if_pos hfull] at ht
          cases ht
        · rw [if_neg hfull] at ht
          cases ht
          exact ⟨h.modParticle p i fun _ => rfl,
            (weightStep_particle (by rw [full, decide_eq_false hfull, Bool.and_false]) part d).trans (if_neg hret)⟩

section
variable {f : FmtA} {s : State} {x : Clause} {k : Nat} {w : Warp} {ls ex : List Nat}

/-- The lanes whose launch has a population's flag. -/
def popFlagged (s : State) (x : Clause) (k : Nat) : Prop := ∃ y, s.launchOf x.core k = some y ∧ y.flag 6 = true

theorem pwadd_adds {t : State} (h : Issues s x k w) (hr : Goes (.pwadd f) [(f.a, .w64)] s x k w ls ex) (hne : ex ≠ [])
    (hflag : popFlagged s x k)
    (ht : (launchedOf s x.core k ex).foldlM (fun u l => addWeight s u x.core k l (readOp u (x.env k) l .lw64 .w64 f.a)) s = some t) :
    exec (.pwadd f) s = .next (endIssue x t) := by
  refine congrArg Host.Outcome.next ((issue_goes h hr rfl).trans (congrArg (endIssue x) ?_))
  dsimp only
  obtain ⟨y, hy, hflag⟩ := hflag
  rw [hr.guard, if_neg hne, if_neg (by rw [hy]; simp [hflag])]
  obtain ⟨d, hd⟩ := foldl_of_foldlM_keeping (step := weightStep s x.core k (fun u l => readOp u (x.env k) l .lw64 .w64 f.a))
    (fun u hu l t d ht => weightStep_of_addWeight hu ht d) (SameGrains.refl s) ht []
  refine (congrArg (fun r : State × List Nat × List Nat => if r.2.2 = [] then r.1
    else raiseTrap r.1 x.core k Cause.contract x.pc { lanes := maskOf (r.2.2.take 1), done := maskOf r.2.1 }) hd).trans ?_
  exact if_pos rfl

theorem pwadd_refused (h : Issues s x k w) (hr : Goes (.pwadd f) [(f.a, .w64)] s x k w ls ex) (hne : ex ≠ []) (hflag : ¬ popFlagged s x k) :
    exec (.pwadd f) s = .next (endIssue x (raiseTrap s x.core k Cause.contract x.pc { lanes := maskOf ex })) := by
  refine congrArg Host.Outcome.next ((issue_goes h hr rfl).trans (congrArg (endIssue x) ?_))
  dsimp only
  rw [hr.guard, if_neg hne]
  refine if_pos ?_
  cases hy : s.launchOf x.core k with
  | none => rfl
  | some y =>
    have : y.flag 6 = false := Bool.eq_false_iff.2 fun h6 => hflag ⟨y, hy, h6⟩
    simp [this]

/-! ## `psetroot` -/

/-- Counts of an old root of a lane's particle are still to be lowered. -/
def rootsBusy (x : Clause) (k : Nat) (v : State) (ls : List Nat) : Bool := ls.any (fun l => match particleOf v x.core k l with
  | some (p, i) => v.jobs.anyV (fun _ j => j.pop = p && j.slot = some i)
  | none => false)

/-- One lane sets its particle's root, read in u. -/
def putRoot (f : FmtA) (x : Clause) (k : Nat) (w : Warp) (u v : State) (l : Nat) : State :=
  match particleOf v x.core k l with
  | some (p, i) => setRoot v w.launch p i (BitVec.ofNat 64 (readOp u (x.env k) l .b64 .w64 f.a))
  | none => v

/-- The end of a `psetroot`: its lanes wait for the old root's counts. -/
def rootEnds (f : FmtA) (x : Clause) (k : Nat) (v : State) (ls ex act : List Nat) : State :=
  if rootsBusy x k v act then parkAll v x.core k (if collectiveIn v x.core k (.psetroot f) then ls else ex) .drain else v

/-- Under lane grain each launched lane sets its own root. -/
theorem psetroot_lanes (h : Issues s x k w) (hflag : popFlagged s x k) (hr : Goes (.psetroot f) [(f.a, .w64)] s x k w ls ex)
    (hgrain : grainOf s x.core k = some 0) (hne : launchedOf s x.core k ex ≠ [])
    (hdrain : mustDrain s x.core k (launchedOf s x.core k ex) .rel .span = false)
    (hbusy : rootsBusy x k s (launchedOf s x.core k ex) = false) :
    let u := release s x.core (some w.wg) .span
    exec (.psetroot f) s = .next (endIssue x (rootEnds f x k ((launchedOf s x.core k ex).foldl (putRoot f x k w u) u) ls ex
      (launchedOf s x.core k ex))) := by
  intro u
  refine congrArg Host.Outcome.next ((issue_goes h hr rfl).trans (congrArg (endIssue x) ?_))
  have hex : ex ≠ [] := fun he => hne (by rw [he]; rfl)
  dsimp only
  rw [hr.guard, hgrain, h.warp]
  obtain ⟨y, hy, hflag⟩ := hflag
  dsimp only
  rw [if_neg hex, if_neg (by rw [hy]; simp [hflag])]
  refine (if_neg hne).trans ((if_neg ?_).trans rfl)
  intro hor
  rcases Bool.or_eq_true_iff.1 hor with hb | hd
  · exact Bool.false_ne_true (hbusy.symm.trans hb)
  · exact Bool.false_ne_true (hdrain.symm.trans hd)

/-- Under warp or workgroup grain the lowest lane sets the grain's root. -/
theorem psetroot_whole {n : Nat} (h : Issues s x k w) (hflag : popFlagged s x k) (hr : Arrived (.psetroot f) [(f.a, .w64)] s x k w)
    (hgrain : grainOf s x.core k = some (n + 1)) (hne : x.together s k w (.psetroot f) ≠ [])
    (hdrain : mustDrain s x.core k lanes32 .rel .span = false) (hbusy : rootsBusy x k s (x.together s k w (.psetroot f)) = false) :
    let u := release s x.core (some w.wg) .span
    exec (.psetroot f) s = .next (endIssue x (rootEnds f x k (putRoot f x k w u u ((x.together s k w (.psetroot f)).headD 0))
      (x.members k w (.psetroot f)) (x.together s k w (.psetroot f)) (x.together s k w (.psetroot f)))) := by
  intro u
  refine congrArg Host.Outcome.next ((issue_arrived h hr rfl).trans (congrArg (endIssue x) ?_))
  have hex : guardLanes s x k (x.members k w (.psetroot f)) = x.together s k w (.psetroot f) := rfl
  have whole : (n + 1 != 0) = true := rfl
  dsimp only
  rw [hex, hgrain, h.warp]
  dsimp only
  simp only [whole, if_true]
  obtain ⟨y, hy, hflag⟩ := hflag
  rw [if_neg hne, if_neg (by rw [hy]; simp [hflag])]
  refine (if_neg hne).trans ((if_neg ?_).trans ?_)
  · intro hor
    rcases Bool.or_eq_true_iff.1 hor with hb | hd
    · exact Bool.false_ne_true (hbusy.symm.trans hb)
    · exact Bool.false_ne_true (hdrain.symm.trans hd)
  · cases hl : x.together s k w (.psetroot f) with
    | nil => exact absurd hl hne
    | cons l t => rfl

/-! ## `rsb` -/

/-- The slot of a lane's particle. -/
def slotOf (u : State) (c k l : Nat) : Nat := match particleOf u c k l with | some (_, i) => i | none => 0

/-- The executing lanes wait for the barrier. -/
def rsbWaits (f : FmtA) (c k : Nat) (ex : List Nat) (u : State) : State :=
  ex.foldl (fun s l => park s c k l (.rsb (laneDest f.d ex l) f.pw)) u

/-- What `rsb` does under lane grain, where some launched lanes come late. -/
def rsbLanes (f : FmtA) (c k p : Nat) (q : Population) (ex act late : List Nat) (u : State) (slot : Nat → Nat) : State :=
  let new := act.filter (fun l => !late.contains l)
  let help := ex.filter (fun l => !act.contains l)
  let now := if q.closing.isSome then [] else late
  let s2 := now.foldl (fun s l => lateArrival s p (slot l)) u
  let s3 := new.foldl (fun s l => s.modParticle p (slot l) (fun z => { z with arrived := true })) s2
  let go := if new = [] && now != [] then now ++ help else now
  let s4 := if go = [] then s3 else putPreds (go.foldl (fun s l => putResults s c k (some (laneDest f.d ex l, .w32)) [(l, 1)]) s3) c k (some f.pw)
    (go.map (fun l => (l, true)))
  (ex.filter (fun l => !go.contains l)).foldl (fun s l => park s c k l (.rsb (laneDest f.d ex l) f.pw)) s4

/-- Where none comes late, the launched lanes arrive and all wait. -/
theorem rsbLanes_of_new (f : FmtA) (c k p : Nat) (q : Population) (ex act : List Nat) (u : State) (slot : Nat → Nat) :
    rsbLanes f c k p q ex act [] u slot =
      rsbWaits f c k ex (act.foldl (fun s l => s.modParticle p (slot l) (fun z => { z with arrived := true })) u) := by
  simp [rsbLanes, rsbWaits]

section
variable {y : Launch} {p : Nat} {q : Population}

/-- `rsb` under warp or workgroup grain. -/
theorem rsb_whole (h : Issues s x k w) (hr : Arrived (.rsb f) [(f.d, .w32)] s x k w) (hy : s.launchOf x.core k = some y)
    (hflag : y.flag 6 = true) (hpop : popOfLaunch s w.launch = some (p, q)) (hdrain : mustDrain s x.core k lanes32 .rel .span = false)
    (hne : x.together s k w (.rsb f) ≠ []) (hgrain : q.grain ≠ 0) :
    let ex := x.together s k w (.rsb f)
    let u := release (tokenAtBarrier s x.core k true) x.core (some w.wg) .span
    exec (.rsb f) s = .next (endIssue x (lateGrain (rsbWaits f x.core k ex (u.modPop p (fun q =>
      { q with rsbWarps := q.rsbWarps ++ [(w.wg, w.warpid)] }))) w.launch p (slotOf u x.core k (ex.headD 0)))) := by
  intro ex u
  refine congrArg Host.Outcome.next ((once_arrived h hr hne rfl).trans (congrArg (endIssue x) ?_))
  dsimp only
  rw [hy, hpop]
  exact (if_neg (by rw [hflag]; decide)).trans ((if_neg (by rw [hdrain]; decide)).trans (if_neg hgrain))

/-- `rsb` under lane grain, where no lane's particle has been retired. -/
theorem rsb_lanes (h : Issues s x k w) (hr : Arrived (.rsb f) [(f.d, .w32)] s x k w) (hy : s.launchOf x.core k = some y)
    (hflag : y.flag 6 = true) (hpop : popOfLaunch s w.launch = some (p, q)) (hdrain : mustDrain s x.core k lanes32 .rel .span = false)
    (hne : x.together s k w (.rsb f) ≠ []) (hgrain : q.grain = 0) :
    let ex := x.together s k w (.rsb f)
    let u := release (tokenAtBarrier s x.core k true) x.core (some w.wg) .span
    (∀ l ∈ ex, ∀ z, u.particle p (slotOf u x.core k l) = some z → z.old = none) →
    exec (.rsb f) s = .next (endIssue x (rsbWaits f x.core k ex ((launchedOf u x.core k ex).foldl (fun u' l =>
      u'.modParticle p (slotOf u x.core k l) (fun z => { z with arrived := true })) u))) := by
  intro ex u hnew
  refine congrArg Host.Outcome.next ((once_arrived h hr hne rfl).trans (congrArg (endIssue x) ?_))
  have late : (launchedOf u x.core k ex).filter (fun l => match u.particle p (slotOf u x.core k l) with
      | some z => z.old.isSome | none => false) = [] := by
    refine List.filter_eq_nil_iff.2 fun l hl => ?_
    cases hz : u.particle p (slotOf u x.core k l) with
    | none => exact Bool.false_ne_true
    | some z =>
      dsimp only
      rw [hnew l (List.mem_filter.1 hl).1 z hz]
      exact Bool.false_ne_true
  dsimp only
  rw [hy, hpop]
  refine (if_neg (by rw [hflag]; decide)).trans ((if_neg (by rw [hdrain]; decide)).trans ((if_pos hgrain).trans ?_))
  refine (show _ = rsbLanes f x.core k p q ex (launchedOf u x.core k ex) ((launchedOf u x.core k ex).filter (fun l =>
    match u.particle p (slotOf u x.core k l) with | some z => z.old.isSome | none => false)) u (slotOf u x.core k) from rfl).trans ?_
  rw [late, rsbLanes_of_new]

end

end

/-! ## The barrier's reports -/

section
variable {s : State} {p : Nat} {q : Population}

/-- A report is recorded. -/
def reported (s : State) (p i : Nat) (w : Option Int) (r : DWord) : State :=
  s.modPop p (fun q => { q with opened := true, reports := q.reports.put i (w, r) })

theorem arrivalReport_spec {y : Launch} {i : Nat} (v : Option Int) (r : DWord) (hq : s.pops.at? p = some q)
    (hy : s.launches.at? q.launch = some y) (hi : i < q.n) (hnew : q.reports.at? i = none) :
    (q.parts.at? i = none → exec (.arrivalReport p i v r) s = .next (reported s p i v r)) ∧
      (∀ z w, q.parts.at? i = some z → arrival s q.launch y q i = some w → exec (.arrivalReport p i v r) s = .next (reported s p i w z.root)) := by
  have fresh : ¬ ((decide (q.n ≤ i) || (q.reports.at? i).isSome) = true) := by
    rw [hnew, decide_eq_false (Nat.not_le.2 hi)]
    decide
  have here : exec (.arrivalReport p i v r) s = .next (match q.parts.at? i, s.launches.at? q.launch with
      | some y, some x => match arrival s q.launch x q i with
        | some w => reported s p i w y.root
        | none => lateGrain s q.launch p i
      | none, some _ => reported s p i v r
      | _, none => s) := by
    show execArrivalReport p i v r s = _
    unfold execArrivalReport
    rw [hq]
    exact congrArg Host.Outcome.next (if_neg fresh)
  refine ⟨fun hother => ?_, fun z w hz hw => ?_⟩
  · rw [here, hother, hy]
  · rw [here, hz, hy]
    dsimp only
    rw [hw]

theorem popBarrierClose_all (hq : s.pops.at? p = some q) (hall : ∀ i, i < q.n → (q.reports.at? i).isSome = true) :
    exec (.popBarrierClose p) s = .next (closePop s p) := by
  have all : (List.range q.n).all (fun i => (q.reports.at? i).isSome) = true :=
    List.all_eq_true.2 fun i hi => hall i (List.mem_range.1 hi)
  show execPopBarrierClose p s = _
  unfold execPopBarrierClose
  rw [hq]
  exact congrArg Host.Outcome.next (if_pos (by rw [all]; rfl))

theorem stragglerDeadline_closes (hq : s.pops.at? p = some q) (hopen : q.opened = true) (hfinite : q.deadline ≠ BitVec.allOnes 64) :
    exec (.stragglerDeadline p) s = .next (closePop s p) := by
  show execStragglerDeadline p s = _
  unfold execStragglerDeadline
  rw [hq]
  exact congrArg Host.Outcome.next (if_pos (by rw [hopen, bne_iff_ne.2 hfinite]; rfl))

end

/-- Settles O31: `pwadd` by the fold that no lane stops, `psetroot` and `rsb` by the grain, and the barrier's reports one by one. -/
theorem populations : Obligations.Populations := by
  unfold Obligations.Populations
  refine ⟨fun f s x k w ls ex t h hr hne hflag ht => pwadd_adds h hr hne hflag ht,
    fun f s x k w ls ex h hr hne hflag => pwadd_refused h hr hne hflag,
    fun f s x k w h hflag => ⟨fun ls ex hr hg hne hd hb => psetroot_lanes h hflag hr hg hne hd hb,
      fun n hr hg hne hd hb => psetroot_whole h hflag hr hg hne hd hb⟩,
    fun f s x k w y p q h hr hy hflag hpop hdrain => ?_,
    fun p i v r s q y hq hy hi hnew => arrivalReport_spec v r hq hy hi hnew,
    fun p s q hq hall => popBarrierClose_all hq hall, fun p s q hq ho hf => stragglerDeadline_closes hq ho hf⟩
  intro c ex u slot waits hne
  exact ⟨fun hg => rsb_whole h hr hy hflag hpop hdrain hne hg, fun hg hnew _ => rsb_lanes h hr hy hflag hpop hdrain hne hg hnew⟩

end Sys2Proof.Machine
end

section
/-! PROOFS. The matrix engine's tiles and its arbiter. -/

namespace Sys2Proof.Machine

/-! ## The words of a tile -/

/-- In lists of one length laid end to end, each element stands at its place. -/
theorem getD_flatMap {α β : Type} {g : α → List β} {n : Nat} (hg : ∀ a, (g a).length = n) (d : β) {l : List α} {j i : Nat} {a : α}
    (ha : l[j]? = some a) (hi : i < n) : (l.flatMap g).getD (n * j + i) d = (g a).getD i d := by
  induction l generalizing j with
  | nil => cases ha
  | cons b l ih =>
    rw [List.flatMap_cons]
    cases j with
    | zero =>
      cases ha
      rw [Nat.mul_zero, Nat.zero_add, List.getD_append _ _ _ _ (by rw [hg]; exact hi)]
    | succ j =>
      rw [List.getD_append_right _ _ _ _ (by rw [hg, Nat.mul_succ]; omega), hg]
      rw [show n * (j + 1) + i - n = n * j + i by rw [Nat.mul_succ]; omega]
      exact ih ha

theorem length_flatMap_const {α β : Type} {g : α → List β} {n : Nat} (hg : ∀ a, (g a).length = n) (l : List α) :
    (l.flatMap g).length = n * l.length := by
  induction l with
  | nil => rfl
  | cons a l ih => rw [List.flatMap_cons, List.length_append, hg, ih, List.length_cons, Nat.mul_succ, Nat.add_comm]

/-- The bytes of a tile, row by row (log 63). -/
def tileBytes (f : Nat → Nat → Nat) : List Byte :=
  (List.range 64).flatMap (fun r => (List.range 64).flatMap (fun col => leBytes 4 (f r col)))

theorem length_tileRow (f : Nat → Nat → Nat) (r : Nat) : ((List.range 64).flatMap (fun col => leBytes 4 (f r col))).length = 256 :=
  length_flatMap_const (fun col => length_leBytes 4 (f r col)) _

theorem length_tileBytes (f : Nat → Nat → Nat) : (tileBytes f).length = 0x4000 := length_flatMap_const (length_tileRow f) _

theorem getD_tileBytes (f : Nat → Nat → Nat) {r q i : Nat} (hr : r < 64) (hq : q < 64) (hi : i < 4) :
    (tileBytes f).getD (4 * (64 * r + q) + i) 0 = (leBytes 4 (f r q)).getD i 0 := by
  have row := getD_flatMap (length_tileRow f) (0 : Byte) (l := List.range 64) (j := r) (a := r) (i := 4 * q + i) (by simp [hr]) (by omega)
  have col := getD_flatMap (fun col => length_leBytes 4 (f r col)) (0 : Byte) (l := List.range 64) (j := q) (a := q) (i := i) (by simp [hq]) hi
  rw [show 4 * (64 * r + q) + i = 256 * r + (4 * q + i) by omega]
  exact row.trans col

theorem Mem.rd_eq_leNat (m : Mem) (n : Nat) : ∀ a, Mem.rd m a n = leNat (Mem.bytes m a n) := by
  induction n with
  | zero => exact fun _ => rfl
  | succ n ih => exact fun a => congrArg (fun v => (Mem.byte m a).toNat + 256 * v) (ih (a + 1))

/-- A word of a tile just written. -/
theorem tileWord_setTile (s : State) (c g : Nat) (f : Nat → Nat → Nat) {r q : Nat} (hr : r < 64) (hq : q < 64) :
    tileWord (setTile s c g f) c g r q = f r q % 2 ^ 32 := by
  have core : (setTile s c g f).core c = { s.core c with
      store := Mem.splice (s.core c).store (accBase (s.core c).part + 0x4000 * g) (tileBytes f) } := by
    unfold setTile
    rw [State.core_modCore_self]
    rfl
  unfold tileWord granuleOff
  rw [core, Mem.rd_eq_leNat]
  have word : Mem.bytes (Mem.splice (s.core c).store (accBase (s.core c).part + 0x4000 * g) (tileBytes f))
      (accBase (s.core c).part + 0x4000 * g + 4 * (64 * r + q)) 4 = leBytes 4 (f r q) := by
    refine List.ext_getElem? fun i => ?_
    by_cases hi : i < 4
    · have at_ : ∀ l : List Byte, l.length = 4 → l[i]? = some (l.getD i 0) := fun l hl => by
        rw [List.getD_eq_getElem?_getD, List.getElem?_eq_getElem (by omega)]
        rfl
      rw [at_ _ (Mem.length_bytes _ _ _), at_ _ (length_leBytes _ _), Mem.getD_bytes _ _ _ _ hi, Mem.byte_splice, length_tileBytes,
        if_pos (by omega), ← getD_tileBytes f hr hq hi]
      congr 2
      omega
    · rw [List.getElem?_eq_none (by rw [Mem.length_bytes]; omega), List.getElem?_eq_none (by rw [length_leBytes]; omega)]
  exact (congrArg leNat word).trans (leNat_leBytes 4 (f r q))

/-! ## Tile forms -/

section
variable {s : State} {x : Clause} {k : Nat} {w : Warp} {i : Instr} {ops : List (Operand × Pos)} {t g : Nat}
  {f : Clause → State → Nat → List Nat → List Nat → Nat → State}

theorem tileWarp_issue (h : Issues s x k w) (hr : Arrived i ops s x k w) (hne : x.together s k w i ≠ []) (hc : ctrlOnly i = false)
    (hacc : 0 < accG (s.core x.core).part) {out : State}
    (hout : (match tileAt s x.core k t with
      | some g => f x s k (x.members k w i) (x.together s k w i) g
      | none => match freeGranule s x.core with
        | some g => f x (bindTile s x.core k t g) k (x.members k w i) (x.together s k w i) g
        | none => parkAll s x.core k (x.members k w i) .tile) = out) :
    issue i ops (tileWarp t f) s = endIssue x out := by
  refine (issue_arrived h hr hc).trans (congrArg (endIssue x) (Eq.trans ?_ hout))
  have hex : guardLanes s x k (x.members k w i) = x.together s k w i := rfl
  unfold tileWarp withTile
  dsimp only
  rw [hex]
  exact (if_neg hne).trans ((if_neg (Nat.ne_of_gt hacc)).trans rfl)

theorem tileWarp_bound (h : Issues s x k w) (hr : Arrived i ops s x k w) (hne : x.together s k w i ≠ []) (hc : ctrlOnly i = false)
    (hacc : 0 < accG (s.core x.core).part) (htile : tileAt s x.core k t = some g) :
    issue i ops (tileWarp t f) s = endIssue x (f x s k (x.members k w i) (x.together s k w i) g) :=
  tileWarp_issue h hr hne hc hacc (by rw [htile])

theorem tileWarp_binds (h : Issues s x k w) (hr : Arrived i ops s x k w) (hne : x.together s k w i ≠ []) (hc : ctrlOnly i = false)
    (hacc : 0 < accG (s.core x.core).part) (htile : tileAt s x.core k t = none) (hfree : freeGranule s x.core = some g) :
    issue i ops (tileWarp t f) s = endIssue x (f x (bindTile s x.core k t g) k (x.members k w i) (x.together s k w i) g) :=
  tileWarp_issue h hr hne hc hacc (by rw [htile]; dsimp only; rw [hfree])

theorem tileWarp_waits (h : Issues s x k w) (hr : Arrived i ops s x k w) (hne : x.together s k w i ≠ []) (hc : ctrlOnly i = false)
    (hacc : 0 < accG (s.core x.core).part) (htile : tileAt s x.core k t = none) (hfree : freeGranule s x.core = none) :
    issue i ops (tileWarp t f) s = endIssue x (parkAll s x.core k (x.members k w i) .tile) :=
  tileWarp_issue h hr hne hc hacc (by rw [htile]; dsimp only; rw [hfree])

/-- `tscl` acts on the rows of the executing lanes. -/
theorem tscl_scales {f : FmtX} (h : Issues s x k w) (hr : Arrived (.tscl f) [(f.cc, .w64)] s x k w) (hne : x.together s k w (.tscl f) ≠ [])
    (hacc : 0 < accG (s.core x.core).part) (htile : tileAt s x.core k f.tile.toNat = some g) :
    exec (.tscl f) s = .next (endIssue x (setTile s x.core g (fun r q => if r / 2 ∈ x.together s k w (.tscl f) then
      Flt.f32.mul .rne (tileWord s x.core g r q) (readOp s (x.env k) (r / 2) .b64 .w64 f.cc / 2 ^ (32 * (r % 2)) % 2 ^ 32)
      else tileWord s x.core g r q))) := by
  refine congrArg Host.Outcome.next ((tileWarp_bound h hr hne rfl hacc htile).trans ?_)
  refine congrArg (fun e => endIssue x (setTile s x.core g e)) (funext fun r => funext fun q => ?_)
  by_cases hl : r / 2 ∈ x.together s k w (.tscl f)
  · rw [if_pos hl, if_pos (List.contains_iff_mem.2 hl)]
  · rw [if_neg hl, if_neg (fun hc => hl (List.contains_iff_mem.1 hc))]

/-- `trel` of a bound tile. -/
theorem trel_frees {f : FmtX} (h : Issues s x k w) (hr : Arrived (.trel f) [] s x k w) (hne : x.together s k w (.trel f) ≠ [])
    (hacc : 0 < accG (s.core x.core).part) (htile : tileAt s x.core k f.tile.toNat = some g) :
    exec (.trel f) s = .next (endIssue x ((s.modCore x.core (fun y => { y with granules := y.granules.del g })).modWarp
      x.core k (fun w => { w with tiles := w.tiles.del f.tile.toNat }))) := by
  refine congrArg Host.Outcome.next ((issue_arrived h hr rfl).trans (congrArg (endIssue x) ?_))
  have hex : guardLanes s x k (x.members k w (.trel f)) = x.together s k w (.trel f) := rfl
  dsimp only
  rw [hex, if_neg hne, if_neg (Nat.ne_of_gt hacc), htile]

/-- `swinv` (R297). -/
theorem swinv_drops {f : FmtX} (h : Issues s x k w) (hr : Arrived (.swinv f) [] s x k w) (hne : x.together s k w (.swinv f) ≠ []) :
    exec (.swinv f) s = .next (endIssue x (s.modCore x.core (fun y =>
      { y with
        swatch := if f.xmod.getLsbD 0 then [] else y.swatch.del f.swa.toNat
        engine := { y.engine with lines := [], asked := y.engine.asked.mapV (fun _ key => staleKey key) } }))) := by
  refine congrArg Host.Outcome.next ((issue_arrived h hr rfl).trans (congrArg (endIssue x) ?_))
  exact if_neg hne

/-! ## The arbiter -/

theorem macq_owns (h : Issues s x k w) (hr : Arrived .macq [] s x k w) (howner : (s.core x.core).engine.owner = none)
    (hq : (s.core x.core).engine.ownerQ = []) (hover : leaseOver s x.core = true) :
    exec .macq s = .next (endIssue x (s.modEngine x.core (fun e => { e with owner := some k, holder := none }))) := by
  refine congrArg Host.Outcome.next ((issue_arrived h hr rfl).trans (congrArg (endIssue x) ?_))
  dsimp only
  rw [howner, hq, hover]
  exact (if_neg (by simp)).trans (if_pos rfl)

theorem macq_waits {j : Nat} (h : Issues s x k w) (hr : Arrived .macq [] s x k w) (hj : j ≠ k)
    (howner : (s.core x.core).engine.owner = some j) (hq : k ∉ (s.core x.core).engine.ownerQ) :
    exec .macq s = .next (endIssue x (parkAll (s.modEngine x.core (fun e => { e with ownerQ := e.ownerQ ++ [k] })) x.core k
      (x.members k w .macq) .macq)) := by
  refine congrArg Host.Outcome.next ((issue_arrived h hr rfl).trans (congrArg (endIssue x) ?_))
  dsimp only
  rw [howner]
  refine (if_neg (by simpa using hj)).trans ((if_neg (by simp)).trans ?_)
  have queued : s.modEngine x.core (fun e => { e with ownerQ := if e.ownerQ.contains k then e.ownerQ else e.ownerQ ++ [k] }) =
      s.modEngine x.core (fun e => { e with ownerQ := e.ownerQ ++ [k] }) := by
    have new : ¬ (s.core x.core).engine.ownerQ.contains k = true := fun hc => hq (List.contains_iff_mem.1 hc)
    unfold State.modEngine State.modCore
    dsimp only
    rw [if_neg new]
  rw [queued]

theorem mrel_leaves (h : Issues s x k w) (hr : Arrived .mrel [] s x k w) : exec .mrel s = .next (endIssue x (
    if (s.core x.core).engine.owner = some k then s.modEngine x.core (fun e => { e with owner := none }) else s)) :=
  congrArg Host.Outcome.next (issue_arrived h hr rfl)

end

section
variable {s : State} {c : Nat}

theorem leaseHandoff_owner {k : Nat} {t : List Nat} (howner : (s.core c).engine.owner = none) (hover : leaseOver s c = true)
    (hq : (s.core c).engine.ownerQ = k :: t) :
    let u := s.modEngine c (fun e => { e with owner := some k, ownerQ := t, holder := none })
    let v := passOn u c k (waiting u c k (fun w => w == .macq))
    exec (.leaseHandoff c) s = .next (wakeAll v c k (waiting v c k (fun w => w == .engine))) := by
  intro u v
  show execLeaseHandoff c s = _
  unfold execLeaseHandoff
  dsimp only
  rw [howner, hover, hq]
  exact congrArg Host.Outcome.next (if_neg (by decide))

theorem leaseHandoff_lease {k : Nat} {t : List Nat} (howner : (s.core c).engine.owner = none) (hover : leaseOver s c = true)
    (hq : (s.core c).engine.ownerQ = []) (hl : (s.core c).engine.leaseQ = k :: t) :
    let u := s.modEngine c (fun e => { e with holder := some k, used := 0, leaseQ := t })
    exec (.leaseHandoff c) s = .next (wakeAll u c k (waiting u c k (fun w => w == .engine))) := by
  intro u
  show execLeaseHandoff c s = _
  unfold execLeaseHandoff
  dsimp only
  rw [howner, hover, hq, hl]
  exact congrArg Host.Outcome.next (if_neg (by decide))

/-- The warps of a core that wait for a tile. -/
def tileWaiters (s : State) (c : Nat) : NMap Warp := (s.core c).warps.filterV (fun _ w => w.lanes.anyV (fun _ l => l.wait == .tile))

theorem tileBindGrant_wakes {e : Nat × Warp} (hfree : freeGranule s c ≠ none)
    (hold : (tileWaiters s c).find? (fun (e : Nat × Warp) => (tileWaiters s c).all (fun (d : Nat × Warp) => e.2.age ≤ d.2.age)) = some e) :
    exec (.tileBindGrant c) s = .next (wakeAll s c e.1 (waiting s c e.1 (fun w => w == .tile))) := by
  obtain ⟨g, hg⟩ := Option.ne_none_iff_exists'.1 hfree
  unfold tileWaiters at hold
  show execTileBindGrant c s = _
  unfold execTileBindGrant
  rw [hg]
  dsimp only
  rw [hold]

theorem tileBindTimeout_traps {e : Nat × Warp} (hall : allWait s c Wait.allocates = true)
    (hyoung : (tileWaiters s c).find? (fun (e : Nat × Warp) => (tileWaiters s c).all (fun (d : Nat × Warp) => d.2.age ≤ e.2.age)) = some e) :
    let ls := waiting s c e.1 (fun w => w == .tile)
    exec (.tileBindTimeout c) s = .next (raiseTrap (wakeAll s c e.1 ls) c e.1 Cause.contract (s.lane c e.1 (ls.headD 0)).pc
      { lanes := maskOf ls }) := by
  intro ls
  unfold tileWaiters at hyoung
  show execTileBindTimeout c s = _
  unfold execTileBindTimeout
  refine congrArg Host.Outcome.next ((if_neg (by rw [hall]; decide)).trans ?_)
  dsimp only
  rw [hyoung]

end

/-- Settles O33: the tile forms by the granule that the tile has or gets (`tileWarp_issue`), the arbiter and the waits by their branches. -/
theorem matrixTiles : Obligations.MatrixTiles := by
  unfold Obligations.MatrixTiles
  refine ⟨fun f s x k w g h hr hne hacc ht => ?_, fun f s x k w g h hr hne hacc ht hf => ?_, fun f s x k w h hr hne hacc ht hf => ?_,
    fun f s x k w g h hr hne hacc ht => ?_, fun f s x k w g h hr hne hacc ht => ?_,
    fun f s x k w g h hr hne hacc ht => tscl_scales h hr hne hacc ht, fun f s x k w g h hr hne hacc ht => trel_frees h hr hne hacc ht,
    fun x s k ex => rfl, fun s c g f r q hr hq => tileWord_setTile s c g f hr hq, fun f s x k w h hr hne => swinv_drops h hr hne,
    fun s x k w h => ⟨fun hr ho hq hl => macq_owns h hr ho hq hl, fun hr ⟨j, hj, ho⟩ hq => macq_waits h hr hj ho hq, fun hr => mrel_leaves h hr⟩,
    fun c s ho hl => ⟨fun k t hq => leaseHandoff_owner ho hl hq, fun k t hq hlq => leaseHandoff_lease ho hl hq hlq⟩,
    fun c s e => ⟨fun hf he => tileBindGrant_wakes hf he, fun ha he => tileBindTimeout_traps ha he⟩⟩
  · exact congrArg Host.Outcome.next (tileWarp_bound h hr hne rfl hacc ht)
  · exact congrArg Host.Outcome.next (tileWarp_binds h hr hne rfl hacc ht hf)
  · exact congrArg Host.Outcome.next (tileWarp_waits h hr hne rfl hacc ht hf)
  · exact congrArg Host.Outcome.next (tileWarp_bound h hr hne rfl hacc ht)
  · exact congrArg Host.Outcome.next (tileWarp_bound h hr hne rfl hacc ht)

end Sys2Proof.Machine
end

section
/-! PROOFS. The matrix engine's operations. -/

namespace Sys2Proof.Machine

/-! ## What stands in an operation's way -/

section
variable {s : State} {x : Clause} {k : Nat} {w : Warp} {i : Instr}

/-- A tile form goes on: launched lanes execute it, no access of its warp is in flight, its tile is bound to g, and its warp owns the engine. -/
structure TileReady (i : Instr) (s : State) (x : Clause) (k : Nat) (w : Warp) (t g : Nat) : Prop where
  lanes : commandingLanes s x k w i ≠ []
  quiet : inFlight s x.core k lanes32 (fun _ => true) = false
  granules : 0 < accG (s.core x.core).part
  bound : tileAt s x.core k t = some g
  owner : (s.core x.core).engine.owner = some k

/-- The entry is in the core's cache, and no trap. -/
structure EntryReady (s : State) (x : Clause) (id : Nat) (e : BitVec 512) : Prop where
  cached : (s.core x.core).swatch.at? id = some e
  good : swatchBad e = none

theorem takeEngine_owner (h : (s.core x.core).engine.owner = some k) : takeEngine s x.core k = some s := by
  unfold takeEngine
  exact if_pos h

theorem withEngine_owner {f : State → State} {ls : List Nat} (h : (s.core x.core).engine.owner = some k) :
    withEngine f x s k ls = f s := by
  unfold withEngine
  rw [takeEngine_owner h]

theorem readSwatch_cached {id : Nat} {e : BitVec 512} (h : (s.core x.core).swatch.at? id = some e) :
    readSwatch s x.core k id = (s, .ok e) := by
  unfold readSwatch
  rw [h]

theorem withSwatch_ready {id : Nat} {e : BitVec 512} {f : State → Swatch → State} {ls ex : List Nat} (h : EntryReady s x id e) :
    withSwatch id f x s k ls ex = f s (swatchOf e) := by
  unfold withSwatch
  rw [readSwatch_cached h.cached]
  dsimp only
  rw [h.good]

theorem withTile_bound {t g : Nat} {f : State → Nat → State} {ls ex : List Nat} (hacc : 0 < accG (s.core x.core).part)
    (h : tileAt s x.core k t = some g) : withTile t f x s k ls ex = f s g := by
  unfold withTile
  dsimp only
  rw [if_neg (Nat.ne_of_gt hacc), h]

theorem launchedOf_members (s : State) (x : Clause) (k : Nat) (w : Warp) (i : Instr) :
    launchedOf s x.core k (guardLanes s x k (x.members k w i)) = commandingLanes s x k w i := rfl

theorem together_ne_nil (h : commandingLanes s x k w i ≠ []) : x.together s k w i ≠ [] := fun he => h (by
  unfold commandingLanes
  rw [he]
  rfl)

end

/-! ## Fetches -/

/-- The lines of level 2 that an operation fetches, each once. -/
def ownLines (s : State) (c k : Nat) (need : List (Hint × List Nat)) : List (Nat × Hint) :=
  (need.flatMap (fun e => fetchedLines s c k e.1 e.2)).foldl
    (fun (l : List (Nat × Hint)) e => if l.any (fun d => d.1 = e.1) then l else l ++ [e]) []

/-- What `need` names is fetched, under the operation's records and pins: from s to u, with the lines m. -/
def Fetches (s u : State) (x : Clause) (k id : Nat) (need : List (Hint × List Nat)) (m : NMap (BitVec 1024)) (pins : List Nat) : Prop :=
  tooMany ((ownLines s x.core k need).map Prod.fst) = false ∧
    ∃ s1 s2, matOwn s x.core k false ((ownLines s x.core k need).map Prod.fst) = some (s1, id) ∧
      fetchLines s1 x.core k (need.flatMap (fun e => e.2)).eraseDups = (s2, .ok m) ∧
      pinsFit s2 (((ownLines s x.core k need).filter (fun e => e.2 != .bypass)).map Prod.fst) = true ∧
      pinLines s2 (ownLines s x.core k need) = (u, pins)

theorem withTileFetch_of {s u : State} {x : Clause} {k id : Nat} {need : List (Hint × List Nat)} {m : NMap (BitVec 1024)} {pins ls ex : List Nat}
    {fs : FlagSel} {run : State → NMap (BitVec 1024) → State} (h : Fetches s u x k id need m pins) :
    withTileFetch x s k ls ex fs need run = pend (run u m) x k id fs [] pins 0 := by
  obtain ⟨few, s1, s2, owns, fetched, fits, pinned⟩ := h
  unfold ownLines at few owns fits pinned
  unfold withTileFetch
  dsimp only
  rw [if_neg (by rw [few]; decide), owns]
  dsimp only
  rw [fetched]
  dsimp only
  rw [if_neg (by rw [fits]; decide), pinned]

/-! ## Multiplication -/

/-- The saturation of a sum. -/
theorem satsN_eq (v : Int) : satsN 32 v = max (-2 ^ 31) (min (2 ^ 31 - 1) v) := by
  unfold satsN
  dsimp only
  split
  · omega
  · split <;> omega

/-- A sum of terms, of which only the stored ones count. -/
theorem foldl_stored (ps : List Nat) (stored : Nat → Option Nat) (term : Nat → Nat → Int) (z : Int) :
    ps.foldl (fun (acc : Int) p => match stored p with | some b => acc + term p b | none => acc) z =
      z + (ps.map (fun p => match stored p with | some b => term p b | none => 0)).sum := by
  induction ps generalizing z with
  | nil => simp
  | cons p ps ih =>
    rw [List.foldl_cons, ih, List.map_cons, List.sum_cons]
    cases stored p with
    | none => simp
    | some b => simp [Int.add_assoc]

/-- An element of a product, as the engine sums it and as the exact sum. -/
theorem element_eq (int sat : Bool) (old real : Nat) (ps : List Nat) (stored : Nat → Option Nat) (term : Nat → Nat → Int) :
    (if int = true then
      let sum := ps.foldl (fun (acc : Int) p => match stored p with | some b => acc + term p b | none => acc) (sextN 32 old)
      truncN 32 (if sat = true then satsN 32 sum else sum)
    else real) =
    (if int = true then
      let sum := sextN 32 old + (ps.map (fun p => match stored p with | some b => term p b | none => 0)).sum
      truncN 32 (if sat = true then max (-2 ^ 31) (min (2 ^ 31 - 1) sum) else sum)
    else real) := by
  dsimp only
  rw [foldl_stored, satsN_eq]

/-- Nothing in the entries or the command's modifiers is refused. -/
theorem mma_allowed {sat int sparse : Bool} {ya yb : Swatch} (hsat : sat = true → int = true) (hsparse : sparse = true → ya.sparse = false)
    (hb : yb.sparse = sparse) (hq4 : ¬(ya.fmt = 0x20 ∧ (ya.trans = true ∨ yb.trans = false))) :
    ¬ ((sat && !int) || (sparse && ya.sparse) || yb.sparse != sparse || (decide (ya.fmt = 0x20) && (ya.trans || !yb.trans))) = true := by
  simp only [Bool.or_eq_true, Bool.and_eq_true, Bool.not_eq_true', bne_iff_ne, decide_eq_true_eq]
  rintro (((⟨h1, h2⟩ | ⟨h1, h2⟩) | h) | h)
  · exact Bool.false_ne_true (h2.symm.trans (hsat h1))
  · exact Bool.false_ne_true ((hsparse h1).symm.trans h2)
  · exact h hb
  · exact hq4 h

/-- Every smoothing value lies in the scratchpad. -/
theorem smooth_found {smooth : Bool} {ps : List Nat} {at_ : Nat → Option Nat} (h : smooth = true → ∀ p ∈ ps, (at_ p).isSome = true) :
    (if smooth = true then ps.find? (fun p => (at_ p).isNone) else none) = none := by
  by_cases hs : smooth = true
  · rw [if_pos hs]
    exact List.find?_eq_none.2 fun p hp => by simpa [Option.isSome_iff_ne_none] using h hs p hp
  · rw [if_neg hs]

section
variable {s u : State} {x : Clause} {k : Nat} {w : Warp} {i : Instr} {f : FmtX} {g id : Nat} {m : NMap (BitVec 1024)} {pins : List Nat}

/-- `mma` and `mmas`: each element of the tile gets its sum (R302, R303, R306). -/
theorem mmaWarp_multiplies {sparse : Bool} {ea eb : BitVec 512} {k1 : Nat} (ready : TileReady i s x k w f.tile.toNat g)
    (ha : EntryReady s x f.swa.toNat ea) (hb : EntryReady s x f.swb.toNat eb) :
    let c := x.core
    let ya := swatchOf ea
    let yb := swatchOf eb
    let at_ (o : Operand) : Nat := readOp s (x.env k) ((commandingLanes s x k w i).headD 0) .n32 .w32 o
    let clr := f.xmod.getLsbD 0
    let int := f.xmod.getLsbD 1
    let sat := f.xmod.getLsbD 2
    let K := if sparse then 2 * k1 else k1
    let ps := List.range K
    let ch (p : Nat) : Nat := K * at_ f.cc + p
    let stored (q p : Nat) : Option Nat := storedRow yb sparse K (at_ f.cc) (at_ f.cb) q p
    let smooth := !int && yb.smooth != 0xFFFFFFFF
    let needA := ((List.range 64).flatMap (fun r => ps.flatMap (fun p => ya.lines (!int) (64 * at_ f.ca + r) (ch p)))).eraseDups
    let needB := ((List.range 64).flatMap (fun q => ps.flatMap (fun p => match stored q p with
      | some b => yb.lines (!int) b (64 * at_ f.cb + q)
      | none => []))).eraseDups
    classK ya.fmt yb.fmt int = some k1 → (sat = true → int = true) → (sparse = true → ya.sparse = false) → yb.sparse = sparse →
    ¬(ya.fmt = 0x20 ∧ (ya.trans = true ∨ yb.trans = false)) →
    (smooth = true → ∀ p ∈ ps, (smoothAt s c yb.smooth (ch p)).isSome = true) →
    Fetches s u x k id [(ya.hint, needA), (yb.hint, needB)] m pins →
    let scale (p : Nat) : FVal := if smooth then Flt.f32.dec ((smoothAt u c yb.smooth (ch p)).getD 0 % 2 ^ 32) else .fin false 1 0
    let element (r q : Nat) : Nat :=
      let old := if clr then 0 else tileWord u c g r q
      if int then
        let sum := sextN 32 old + (ps.map (fun p => match stored q p with
          | some b => ya.intOf m (64 * at_ f.ca + r) (ch p) * yb.intOf m b (64 * at_ f.cb + q)
          | none => 0)).sum
        truncN 32 (if sat then max (-2 ^ 31) (min (2 ^ 31 - 1) sum) else sum)
      else mmaSum (Flt.f32.dec old :: ps.map (fun p =>
        ((ya.val m (64 * at_ f.ca + r) (ch p)).mul (match stored q p with
          | some b => yb.val m b (64 * at_ f.cb + q)
          | none => .fin false 0 0)).mul (scale p)))
    mmaWarp f sparse x s k (x.members k w i) = pend (setTile u c g element) x k id f.fs [] pins 0 := by
  intro c ya yb at_ clr int sat K ps ch stored smooth needA needB hclass hsat hsparse hbs hq4 hsmooth hfetch scale element
  unfold mmaWarp
  dsimp only
  rw [launchedOf_members s x k w i, if_neg ready.lanes, if_neg (by rw [ready.quiet]; decide)]
  refine (withTile_bound ready.granules ready.bound).trans ((withEngine_owner ready.owner).trans
    ((withSwatch_ready ha).trans ((withSwatch_ready hb).trans ?_)))
  rw [show classK (swatchOf ea).fmt (swatchOf eb).fmt (f.xmod.getLsbD 1) = some k1 from hclass]
  dsimp only
  refine (if_neg (mma_allowed hsat hsparse hbs hq4)).trans ?_
  rw [show (if (!f.xmod.getLsbD 1 && (swatchOf eb).smooth != 0xFFFFFFFF) = true then
      (List.range (if sparse = true then 2 * k1 else k1)).find? (fun p => (smoothAt s x.core (swatchOf eb).smooth
        ((if sparse = true then 2 * k1 else k1) * coordOf x s k (commandingLanes s x k w i) f.cc + p)).isNone)
      else none) = none from smooth_found hsmooth]
  refine (withTileFetch_of hfetch).trans ?_
  refine congrArg (fun e => pend (setTile u c g e) x k id f.fs [] pins 0) (funext fun r => funext fun q => ?_)
  exact element_eq int sat _ _ ps (stored q) (fun p b => ya.intOf m (64 * at_ f.ca + r) (ch p) * yb.intOf m b (64 * at_ f.cb + q))

/-- `tld`: the tile is filled from the entry (R305). -/
theorem tld_fills {e : BitVec 512} (h : Issues s x k w) (hr : Arrived (.tld f) [] s x k w)
    (ready : TileReady (.tld f) s x k w f.tile.toNat g) (he : EntryReady s x f.swc.toNat e) :
    let c := x.core
    let y := swatchOf e
    let at_ (o : Operand) : Nat := readOp s (x.env k) ((commandingLanes s x k w (.tld f)).headD 0) .n32 .w32 o
    let need := ((List.range 64).flatMap (fun r => (List.range 64).flatMap (fun q =>
      y.lines false (64 * at_ f.ca + r) (64 * at_ f.cb + q)))).eraseDups
    y.fmt = 0x0E ∨ y.fmt = 0x06 → Fetches s u x k id [(y.hint, need)] m pins →
    exec (.tld f) s = .next (endIssue x (pend (setTile u c g (fun r q => y.code m (64 * at_ f.ca + r) (64 * at_ f.cb + q)))
      x k id f.fs [] pins 0)) := by
  intro c y at_ need hfmt hfetch
  refine congrArg Host.Outcome.next ((issue_arrived h hr rfl).trans (congrArg (endIssue x) ?_))
  have hex : guardLanes s x k (x.members k w (.tld f)) = x.together s k w (.tld f) := rfl
  dsimp only
  rw [launchedOf_members, if_neg ready.lanes, if_neg (by rw [ready.quiet]; decide)]
  unfold tileWarp
  dsimp only
  rw [hex, if_neg (together_ne_nil ready.lanes)]
  refine (withTile_bound ready.granules ready.bound).trans ((withEngine_owner ready.owner).trans ((withSwatch_ready he).trans ?_))
  refine (if_neg ?_).trans (withTileFetch_of hfetch)
  rcases hfmt with hf | hf <;> simp [show (swatchOf e).fmt = _ from hf]

/-- `tst`: the rows that are left are written (R305). -/
theorem tst_writes {e : BitVec 512} {r : State} (h : Issues s x k w) (hr : Arrived (.tst f) [] s x k w)
    (ready : TileReady (.tst f) s x k w f.tile.toNat g) (he : EntryReady s x f.swc.toNat e) :
    let c := x.core
    let y := swatchOf e
    let at_ (o : Operand) : Nat := coordOf x s k (commandingLanes s x k w (.tst f)) o
    let n := fmtBytes y.fmt
    y.fmt = 0x0E ∨ y.fmt = 0x06 ∨ y.fmt = 0x0C ∨ y.fmt = 0x0D →
    let lines := tstLines s c k g n (at_ f.ca) (at_ f.cb) y w.row
    tooMany lines = false → matOwn s c k true lines = some (u, id) →
    tstRows c k g n id (at_ f.ca) (at_ f.cb) y (64 - w.row) (openMat u x k id f.fs) w.row = (r, none) →
    exec (.tst f) s = .next (endIssue x (closeMat (freeOwnership r (.tile id)) c k id)) := by
  intro c y at_ n hfmt lines hfew howns hrows
  refine congrArg Host.Outcome.next ((issue_arrived h hr rfl).trans (congrArg (endIssue x) ?_))
  have hex : guardLanes s x k (x.members k w (.tst f)) = x.together s k w (.tst f) := rfl
  dsimp only
  rw [launchedOf_members, if_neg ready.lanes, if_neg (by rw [ready.quiet]; decide)]
  unfold tileWarp
  dsimp only
  rw [hex, if_neg (together_ne_nil ready.lanes)]
  refine (withTile_bound ready.granules ready.bound).trans ((withEngine_owner ready.owner).trans ((withSwatch_ready he).trans ?_))
  rw [h.warp]
  dsimp only [lines, at_, n, y, c] at hfew howns hrows ⊢
  refine (if_neg ?_).trans ((if_neg (by rw [hfew]; decide)).trans ?_)
  · rcases hfmt with hf | hf | hf | hf <;> simp [show (swatchOf e).fmt = _ from hf]
  · rw [howns]
    dsimp only
    rw [hrows]

/-! ## Numbers and records -/

/-- A write-back is under way, with its flag up, from its first issue. -/
theorem openMat_first {fs : FlagSel} (hw : s.warp? x.core k = some w) (hnew : ∀ e ∈ s.cores, ∀ m ∈ e.2.engine.pending, m.id ≠ id) :
    openMat s x k id fs = raiseFlag (s.modEngine x.core (fun e => { e with pending := e.pending ++
      [{ id := id, more := true, slot := k, wg := w.wg, warpid := w.warpid, flag := flagOf x.line fs, wrote := [], pins := [], acks := 0 }] }))
      x.core k (flagOf x.line fs) := by
  have absent : s.cores.anyV (fun _ y => y.engine.pending.any (fun m => m.id = id)) = false :=
    List.any_eq_false.2 fun e he => by
      refine ne_true_of_eq_false (List.any_eq_false.2 fun m hm => ?_)
      simpa using hnew e he m hm
  unfold openMat
  rw [if_neg (by rw [absent]; decide), hw]

/-- What is pending of a core, once a matrix operation has been changed. -/
theorem pending_modMat (s : State) (id : Nat) (f : MatOp → MatOp) (b : Nat) :
    ((modMat s id f).core b).engine.pending = (s.core b).engine.pending.map (fun m => if m.id = id then f m else m) := by
  have here : (modMat s id f).core b = ((s.cores.mapV (fun _ y => { y with engine := { y.engine with
      pending := y.engine.pending.map (fun m => if m.id = id then f m else m) } })).at? b).getD Core.reset := rfl
  rw [here, NMap.at?_mapV]
  show _ = (((s.cores.at? b).getD Core.reset).engine.pending).map _
  cases s.cores.at? b <;> rfl

theorem pending_modEngine (s : State) (c b : Nat) {f : Engine → Engine} (hf : ∀ e, (f e).pending = e.pending) :
    ((s.modEngine c f).core b).engine.pending = (s.core b).engine.pending := by
  unfold State.modEngine
  rw [State.core_modCore]
  split
  · next hb =>
    subst hb
    exact hf _
  · rfl

theorem pending_modWarp (s : State) (c k b : Nat) (f : Warp → Warp) :
    ((s.modWarp c k f).core b).engine.pending = (s.core b).engine.pending := by
  rw [State.core_modWarp]
  split
  · next hb => rw [hb]
  · rfl

theorem closeMat_closes {c b : Nat} {m : MatOp} (hm : m ∈ ((closeMat s c k id).core b).engine.pending) (hid : m.id = id) : m.more = false := by
  have engine : ((closeMat s c k id).core b).engine.pending = ((modMat (dropFetched s c k) id (fun m => { m with more := false })).core b).engine.pending := by
    unfold closeMat
    rw [pending_modWarp]
    exact pending_modEngine _ c b fun _ => rfl
  rw [engine, pending_modMat] at hm
  obtain ⟨d, -, rfl⟩ := List.mem_map.1 hm
  by_cases hd : d.id = id
  · rw [if_pos hd]
  · rw [if_neg hd] at hid
    exact absurd hid hd

/-- The first issue of an operation takes a number and its records. -/
theorem matOwn_first {c : Nat} {wr : Bool} {lines : List Nat} (hw : s.warp? c k = some w) (hkeeps : w.keeps = none)
    (hfree : recordsFree s (granulesOf lines) = true) (hhome : wbHeld s c = false)
    (hnew : s.own.all (fun r => !(r.engine == .tile s.fresh)) = true) :
    matOwn s c k wr lines = some (engineStart ({ s with fresh := s.fresh + 1 }.modWarp c k (fun w => { w with keeps := some s.fresh })) c
      (.tile s.fresh) wr lines, s.fresh) := by
  have mine : s.own.filter (fun r => r.engine == .tile s.fresh) = [] :=
    List.filter_eq_nil_iff.2 fun r hr => by simpa using List.all_eq_true.1 hnew r hr
  have all (l : List Nat) : l.filter (fun _ => true) = l := List.filter_eq_self.2 fun _ _ => rfl
  unfold matOwn
  dsimp only
  rw [hw]
  simp only [Option.bind_some, hkeeps, Option.getD_none, mine, List.any_nil, Bool.not_false, all, hfree, hhome, Bool.not_true,
    Option.isNone_none, Option.isSome_none, Bool.and_false, Bool.or_false, Bool.false_and, Bool.false_eq_true, if_false]
  rfl

theorem matrixOpComplete_ends {c : Nat} {m : MatOp} (hm : (s.core c).engine.pending.find? (fun m => m.acks = 0 && !m.more) = some m) :
    let s1 := if m.wrote = [] then s else enginePublish s (some m.wg) m.wrote
    let s2 := s1.modEngine c (fun e => { e with pending := e.pending.filter (fun y => y.id != m.id) })
    let s3 := { s2 with l2 := s2.l2.map (fun l => if m.pins.contains l.line then { l with pins := l.pins - 1 } else l) }
    exec (.matrixOpComplete c) s = .next (settleOps (lowerFlagOf (freeOwnership s3 (.tile m.id)) m.wg m.warpid m.flag) c) := by
  intro s1 s2 s3
  show execMatrixOpComplete c s = _
  unfold execMatrixOpComplete
  rw [hm]
  rfl

/-! ## Quantising and patterns -/

theorem foldl_add_eq_sum (l : List Nat) : l.foldl (· + ·) 0 = l.sum := by
  rw [List.sum_eq_foldl]

/-- `qsm` without smoothing (R307). -/
theorem qsm_quantises (h : Issues s x k w) (hr : Arrived (.qsm f) [(.main (f.xmod.extractLsb' 3 10), .w32), (f.cc, .w32)] s x k w)
    (hplain : f.xmod.getLsbD 0 = false) :
    let ex := x.together s k w (.qsm f)
    let type := f.xmod.toNat / 2 % 4
    let y (l : Nat) : FVal := Flt.f32.dec (readOp s (x.env k) l .f32 .w32 (.main (f.xmod.extractLsb' 3 10)))
    let finite := (ex.map y).filter (fun v => !(v.isNan || v.isInf true || v.isInf false))
    let e := ((List.range 64).find? (fun e => finite.all (fun v => magLe v (q4Max type) e))).getD 63
    let code (l : Nat) : Nat := if l ∈ ex then q4Code type ((y l).scale (32 - (e : Int))) else 0
    let val (l : Nat) : Nat :=
      if l < 4 then ((List.range 8).map (fun i => code (8 * l + i) * 16 ^ i)).sum else if l = 4 then type * 64 + e else 0
    exec (.qsm f) s = .next (endIssue x (setLatches (putResults (dropFetched s x.core k) x.core k (some (f.cc, .w32))
      (ex.map (fun l => (l, val l)))) x.core k x.slot (x.members k w (.qsm f)) (some (f.cc, .w32)))) := by
  intro ex type y finite e code val
  refine congrArg Host.Outcome.next ((issue_arrived h hr rfl).trans (congrArg (endIssue x) ?_))
  have hex : guardLanes s x k (x.members k w (.qsm f)) = ex := rfl
  have htype : bitsOf f.xmod.toNat 1 2 = type := rfl
  have hcode (l : Nat) : (if ex.contains l = true then q4Code type ((y l).scale (32 - (e : Int))) else 0) = code l := by
    by_cases hl : l ∈ ex
    · exact (if_pos (List.contains_iff_mem.2 hl)).trans (if_pos hl).symm
    · exact (if_neg (fun hc => hl (List.contains_iff_mem.1 hc))).trans (if_neg hl).symm
  dsimp only
  rw [hex, htype, hplain]
  simp only [Bool.false_eq_true, if_false, Bool.not_false, if_true, ite_self, foldl_add_eq_sum]
  refine congrArg (fun v => setLatches (putResults (dropFetched s x.core k) x.core k (some (f.cc, .w32)) (ex.map (fun l => (l, v l))))
    x.core k x.slot (x.members k w (.qsm f)) (some (f.cc, .w32))) (funext fun l => ?_)
  exact ite_congr rfl (fun _ => congrArg List.sum (List.map_congr_left fun i _ => congrArg (· * 16 ^ i) (hcode _))) fun _ => rfl

/-- `spgen` (R304). -/
theorem spgen_writes {e : BitVec 512} (h : Issues s x k w) (hr : Arrived (.spgen f) [(f.cc, .w32)] s x k w)
    (hne : x.together s k w (.spgen f) ≠ []) (he : EntryReady s x f.swb.toNat e) (hsparse : (swatchOf e).sparse = true) :
    let ex := x.together s k w (.spgen f)
    let at_ (o : Operand) : Nat := readOp s (x.env k) (ex.headD 0) .n32 .w32 o
    let h := f.xmod.toNat % 16
    let hi := f.xmod.toNat / 16 % 2
    let index (l i : Nat) : Nat := sparseM (swatchOf e).seed (at_ f.ca) (at_ f.cb) (l + 32 * hi) (8 * h + i)
    exec (.spgen f) s = .next (endIssue x (setLatches (putResults (dropFetched s x.core k) x.core k (some (f.cc, .w32)) (ex.map (fun l =>
      (l, ((List.range 8).map (fun i => index l i * 16 ^ i)).sum)))) x.core k x.slot (x.members k w (.spgen f)) (some (f.cc, .w32)))) := by
  intro ex at_ half hi index
  refine congrArg Host.Outcome.next ((issue_arrived h hr rfl).trans (congrArg (endIssue x) ?_))
  have hex : guardLanes s x k (x.members k w (.spgen f)) = ex := rfl
  have low : bitsOf f.xmod.toNat 0 4 = half := by
    unfold bitsOf
    rw [Nat.pow_zero, Nat.div_one] <;> rfl
  dsimp only
  rw [hex, low, if_neg hne]
  refine (withSwatch_ready he).trans ((if_neg (by rw [hsparse]; decide)).trans ?_)
  simp only [foldl_add_eq_sum]
  rfl

end

/-- Settles O34: each form's checks pass one by one to the fetch or the write, and the sums are those of `element_eq`. -/
theorem matrixOperations : Obligations.MatrixOperations := by
  unfold Obligations.MatrixOperations
  intro entry by_ here fetched multiply
  have ready {i : Instr} {s : State} {x : Clause} {k : Nat} {w : Warp} {t g : Nat} (h : here i s x k w t g) : TileReady i s x k w t g := by
    obtain ⟨lanes, quiet, granules, bound, owner⟩ := h
    exact ⟨lanes, quiet, granules, bound, owner⟩
  have cached {s : State} {x : Clause} {id : Nat} {e : BitVec 512} (h : entry s x id e) : EntryReady s x id e := ⟨h.1, h.2⟩
  refine ⟨fun f s x k w g ea eb k1 u id m pins h hr hh ha hb => ?_, fun f s x k w g ea eb k1 u id m pins h hr hh ha hb => ?_,
    fun f s x k w g e u id m pins h hr hh he => tld_fills h hr (ready hh) (cached he),
    fun f s x k w g e u id r h hr hh he => tst_writes h hr (ready hh) (cached he),
    fun s x k id fs w hw hn => openMat_first hw hn, fun s c k id b m hm hid => closeMat_closes hm hid, fun ls => decide_eq_true_iff,
    fun s c k wr lines w hw hk hf hh hn => matOwn_first hw hk hf hh hn, fun c s m hm => matrixOpComplete_ends hm,
    fun f s x k w h hr hp => qsm_quantises h hr hp, fun f s x k w e h hr hne he hs => spgen_writes h hr hne (cached he) hs⟩
  · intro c ya yb at_ clr int sat K ps ch stored smooth needA needB hclass hsat hsparse hbs hq4 hsmooth hfetch scale element
    exact congrArg Host.Outcome.next ((issue_arrived h hr rfl).trans (congrArg (endIssue x)
      (mmaWarp_multiplies (ready hh) (cached ha) (cached hb) hclass hsat hsparse hbs hq4 hsmooth hfetch)))
  · intro c ya yb at_ clr int sat K ps ch stored smooth needA needB hclass hsat hsparse hbs hq4 hsmooth hfetch scale element
    exact congrArg Host.Outcome.next ((issue_arrived h hr rfl).trans (congrArg (endIssue x)
      (mmaWarp_multiplies (ready hh) (cached ha) (cached hb) hclass hsat hsparse hbs hq4 hsmooth hfetch)))

end Sys2Proof.Machine
end

section
/-! PROOFS. Accesses in flight: where each is performed, what a finished lane writes, and the end of an operation. -/

namespace Sys2Proof.Machine

/-! ## Operations that performing an access leaves as they were -/

theorem wrMem_ops (s : State) (pa n v : Nat) : (s.wrMem pa n v).ops = s.ops := rfl

theorem l2Access_ops (s : State) (k : Nat) (h : Hint) (valid written : BitVec 128) : (l2Access s k h valid written).ops = s.ops := by
  unfold l2Access
  split <;> rfl

theorem l1Put_ops (s : State) (c : Nat) (l : CacheLine) (h : Hint) : (l1Put s c l h).ops = s.ops := by
  unfold l1Put
  dsimp only
  rw [State.modCore_ops]
  split
  · split
    · exact dropLines_ops ..
    · rfl
  · rfl

theorem l1Fill_ops (s : State) (c k : Nat) (below : BitVec 1024) (h : Hint) : (l1Fill s c k below h).ops = s.ops := by
  unfold l1Fill
  split
  · dsimp only
    split
    · rfl
    · exact l1Put_ops ..
  · split
    · rfl
    · exact l1Put_ops ..

theorem loadLocal_ops (s : State) (c pa n : Nat) (h : Hint) : (loadLocal s c pa n h).1.ops = s.ops := by
  have fill : (l1Fill (l2Touch s pa h) c (localKey pa) (memLine s (localKey pa)) h).ops = s.ops := (l1Fill_ops ..).trans (l2Access_ops ..)
  unfold loadLocal
  dsimp only
  split
  · exact l2Access_ops ..
  · split
    · split
      · dsimp only
        split
        · rfl
        · exact l1Put_ops ..
      · dsimp only
        split
        · rfl
        · exact fill
    · exact fill

theorem loadHome_ops (s : State) (c pa n : Nat) (h : Hint) : (loadHome s c pa n h).1.ops = s.ops := by
  have touched : (l2Touch (dropLines s c (fun l => l.line = localKey pa)) pa h).ops = s.ops := (l2Access_ops ..).trans (dropLines_ops ..)
  unfold loadHome
  dsimp only
  split
  · exact touched
  · exact (l1Fill_ops ..).trans touched

theorem storeLocal_ops (s : State) (c pa n v : Nat) (h : Hint) : (storeLocal s c pa n v h).ops = s.ops := by
  unfold storeLocal
  dsimp only
  split
  · exact l2Access_ops ..
  · split
    · exact l1Put_ops s c _ h
    · exact l1Put_ops s c _ h

section
variable (s : State) (o : MemOp) (a : LaneAcc)

theorem loadAt_ops : (loadAt s o a).1.ops = s.ops := by
  unfold loadAt
  dsimp only
  cases a.place with
  | mem pa =>
    dsimp only
    split
    · exact l2Access_ops ..
    · split
      · exact loadHome_ops ..
      · exact loadLocal_ops ..
  | side pa => rfl
  | store d off => rfl
  | debug d off => rfl
  | peer q pa =>
    dsimp only
    split <;> rfl

theorem storeAt_mem_ops {pa : Nat} (n v : Nat) (hp : a.place = .mem pa) : (storeAt s o a n v).ops = s.ops := by
  unfold storeAt
  rw [hp]
  dsimp only
  split
  · exact l2Access_ops ..
  · split
    · exact l2Access_ops ..
    · exact storeLocal_ops ..

theorem writeBackLine_ops (c k : Nat) : (writeBackLine s c k).ops = s.ops := by
  unfold writeBackLine
  split
  · exact writeBack_ops ..
  · rfl

theorem modOwnedLane_ops (w : Owner) (l : Nat) (f : Lane → Lane) : (modOwnedLane s w l f).ops = s.ops := by
  unfold modOwnedLane
  cases w with
  | warp c k | control c => exact modLane_ops ..
  | stream c k | saved g p c k | savedStream g c k => rfl

theorem landAt_ops (w : Owner) (l : Nat) (sp pc : DWord) : (landAt s w l sp pc).ops = s.ops := by
  unfold landAt
  cases w with
  | warp c k => exact (State.modWarp_ops ..).trans (modOwnedLane_ops ..)
  | control c | stream c k | saved g p c k | savedStream g c k => exact modOwnedLane_ops ..

/-! ## A lane leaves its operation -/

/-- The operations once a lane is done. -/
def opsWithout (id l : Nat) : NMap MemOp := s.ops.upd id (fun o => { o with lanes := o.lanes.filter (fun b => b.lane != l) })

theorem finishStore_ops (id : Nat) : (finishStore s id o a).ops = opsWithout s id a.lane := ownerGoesOn_ops ..

theorem finishPush_ops (id : Nat) : (finishPush s id o a).ops = opsWithout s id a.lane :=
  congrArg (fun m : NMap MemOp => m.upd id (fun o => { o with lanes := o.lanes.filter (fun b => b.lane != a.lane) })) (landAt_ops ..)

theorem finishAtomic_ops (id old : Nat) (ok : Bool) : (finishAtomic s id o a old ok).ops = opsWithout s id a.lane := by
  unfold finishAtomic
  split
  · next op t d p _ =>
    extract_lets s1 s2 s3
    have ops1 : s1.ops = s.ops := by
      show (match d with | some d => _ | none => s).ops = _
      cases d with
      | none => rfl
      | some d => exact (noteOwned_ops ..).trans (writeOwned_ops ..)
    have ops2 : s2.ops = s.ops := by
      refine Eq.trans ?_ ops1
      cases op with
      | inc | dec => exact (noteOwned_ops ..).trans (modOwnedLane_ops ..)
      | _ => rfl
    have ops3 : s3.ops = s.ops := by
      show (if _ then acquire s2 _ _ _ else s2).ops = _
      split
      · exact (acquire_ops ..).trans ops2
      · exact ops2
    rw [ownerGoesOn_ops]
    exact congrArg (fun m : NMap MemOp => m.upd id (fun o => { o with lanes := o.lanes.filter (fun b => b.lane != a.lane) })) ops3
  · rfl

end

/-! ## One lane is performed -/

/-- One lane of an operation may be performed, and nothing is released before it. -/
structure LaneReady (s : State) (id : Nat) (o : MemOp) (a : LaneAcc) : Prop where
  here : s.ops.at? id = some o
  found : o.lanes.find? (fun b => b.lane = a.lane) = some a
  lane : a.lane < 32
  ready : accReady s id o a = true
  unsent : a.sent = false
  alone : a.sw = false
  plain : o.order.releases = false

theorem maskLanes_single {l : Nat} (h : l < 32) : maskLanes (1#32 <<< l) = [l] :=
  (show ∀ l : Fin 32, maskLanes (1#32 <<< l.val) = [l.val] by decide) ⟨l, h⟩

section
variable {s : State} {id : Nat} {o : MemOp} {a : LaneAcc}

theorem memoryAccessDone_one (h : LaneReady s id o a) : exec (.memoryAccessDone id (1#32 <<< a.lane)) s =
    .next (settleOps (finalizePops (performLane s id o a) id) o.owner.core) := by
  have first : releaseFirst s id o (1#32 <<< a.lane) = s := by
    unfold releaseFirst
    exact if_pos (by rw [h.plain]; rfl)
  show Host.Outcome.next (performMask s id (1#32 <<< a.lane)) = _
  unfold performMask
  rw [h.here]
  dsimp only
  rw [first, maskLanes_single h.lane, List.foldl_cons, List.foldl_nil, h.here]
  dsimp only
  rw [h.found]
  dsimp only
  rw [if_pos (by rw [h.ready, h.unsent]; rfl)]

/-- An access that is no return's: the state behind it, with its waiters woken. -/
theorem memoryAccessDone_of {t u : State} (h : LaneReady s id o a) (hbody : o.body ≠ .pop) (hu : performLane s id o a = u)
    (ht : t.ops = s.ops) (hops : u.ops = opsWithout t id a.lane) :
    exec (.memoryAccessDone id (1#32 <<< a.lane)) s = .next (settleOps u o.owner.core) := by
  have here : u.ops.at? id = some { o with lanes := o.lanes.filter (fun b => b.lane != a.lane) } := by
    rw [hops]
    unfold opsWithout
    rw [NMap.at?_upd_self, ht, h.here]
    rfl
  rw [memoryAccessDone_one h, hu, finalizePops_of here hbody]

theorem noteWriter_alone (u : State) (h : a.sw = false) : noteWriter u o a = u := by
  unfold noteWriter
  exact if_pos (by rw [h]; rfl)

/-! ### Loads -/

theorem load_done {d : Operand} {t : Ty} {ro : Bool} (h : LaneReady s id o a) (hb : o.body = .load d t ro) (hp : ∀ q pa, a.place ≠ .peer q pa) :
    exec (.memoryAccessDone id (1#32 <<< a.lane)) s = .next (settleOps (finishLoad (loadAt s o a).1 id o a (loadAt s o a).2) o.owner.core) := by
  refine memoryAccessDone_of h (by rw [hb]; exact nofun) ?_ (loadAt_ops s o a) (finishLoad_ops ..)
  unfold performLane
  rw [hb]
  cases hplace : a.place with
  | peer q pa => exact absurd hplace (hp q pa)
  | mem pa | side pa | store e off | debug e off => rfl

theorem loadAt_store {e off : Nat} (hp : a.place = .store e off) : loadAt s o a = (s, Mem.rd (s.core e).store off o.width) := by
  unfold loadAt
  rw [hp]

theorem loadAt_side {pa : Nat} (hp : a.place = .side pa) : loadAt s o a = (s, Mem.rd s.mem pa o.width) := by
  unfold loadAt
  rw [hp]

/-- Dropping lines that level 1 does not hold leaves memory as it was. -/
theorem dropLines_absent {c k : Nat} (h : l1Find s c k = none) : (dropLines s c (fun l => l.line = k)).mem = s.mem := by
  have gone : (s.core c).l1.filter (fun l => decide (l.line = k)) = [] :=
    List.filter_eq_nil_iff.2 fun l hl => List.find?_eq_none.1 h l hl
  unfold dropLines
  rw [State.modCore_mem, gone]
  rfl

theorem l2Access_mem (s : State) (k : Nat) (h : Hint) (valid written : BitVec 128) : (l2Access s k h valid written).mem = s.mem := by
  unfold l2Access
  split <;> rfl

theorem loadAt_mem_absent {pa : Nat} (hp : a.place = .mem pa) (hl : l1Find s o.owner.core (localKey pa) = none) :
    (loadAt s o a).2 = Mem.rd s.mem pa o.width := by
  unfold loadAt
  rw [hp]
  dsimp only
  split
  · rfl
  · split
    · unfold loadHome
      have same : (l2Touch (dropLines s o.owner.core (fun l => l.line = localKey pa)) pa a.hint).mem = s.mem :=
        (l2Access_mem ..).trans (dropLines_absent hl)
      dsimp only
      rw [same]
      split <;> rfl
    · unfold loadLocal
      dsimp only
      rw [hl]
      split <;> rfl

theorem loadAt_mem_held {pa : Nat} {l : CacheLine} (hp : a.place = .mem pa) (hl : l1Find s o.owner.core (localKey pa) = some l)
    (hsets : l1Sets (s.core o.owner.core) ≠ 0) (hengine : byEngine o = false) (hhome : atHome s o = false)
    (hvalid : l.valid &&& byteMask (pa % 128) o.width = byteMask (pa % 128) o.width) :
    (loadAt s o a).2 = lineNat l.data (pa % 128) o.width := by
  unfold loadAt
  rw [hp]
  dsimp only
  rw [if_neg (by rw [hengine]; decide), if_neg (by rw [hhome]; decide)]
  unfold loadLocal
  dsimp only
  rw [if_neg hsets, hl]
  dsimp only
  rw [if_pos hvalid]

/-! ### Stores -/

theorem storeAt_store {e off : Nat} (n v : Nat) (hp : a.place = .store e off) : storeAt s o a n v = s.wrStore e off n v := by
  unfold storeAt
  rw [hp]

theorem storeAt_side {pa : Nat} (n v : Nat) (hp : a.place = .side pa) : storeAt s o a n v = s.wrMem pa n v := by
  unfold storeAt
  rw [hp]

/-- A store at the home slice writes memory. -/
theorem storeAt_mem_home {pa : Nat} (n v : Nat) (hp : a.place = .mem pa)
    (h : byEngine o = true ∨ atHome s o = true ∨ l1Sets (s.core o.owner.core) = 0 ∨ a.hint = .bypass) :
    (storeAt s o a n v).mem = (s.wrMem pa n v).mem := by
  unfold storeAt
  rw [hp]
  dsimp only
  by_cases engine : byEngine o = true
  · rw [if_pos engine]
    exact l2Access_mem ..
  · rw [if_neg engine]
    by_cases home : atHome s o = true
    · rw [if_pos home]
      exact l2Access_mem ..
    · rw [if_neg home]
      have through : (decide (l1Sets (s.core o.owner.core) = 0) || a.hint == .bypass) = true := by
        rcases h with h | h | h | h
        · exact absurd h engine
        · exact absurd h home
        · simp [h]
        · simp [h]
      unfold storeLocal
      dsimp only
      rw [if_pos through]
      exact l2Access_mem ..

/-- A store of any place of this package. -/
theorem store_done {t : State} (h : LaneReady s id o a) (hb : o.body = .store) (hp : ∀ q pa, a.place ≠ .peer q pa)
    (ht : storeAt s o a o.width a.data.toNat = t) (hops : t.ops = s.ops) :
    exec (.memoryAccessDone id (1#32 <<< a.lane)) s = .next (settleOps (finishStore t id o a) o.owner.core) := by
  refine memoryAccessDone_of h (by rw [hb]; exact nofun) ?_ hops (finishStore_ops ..)
  unfold performLane
  rw [hb]
  cases hplace : a.place with
  | peer q pa => exact absurd hplace (hp q pa)
  | mem pa | side pa | store e off | debug e off =>
    dsimp only
    rw [noteWriter_alone _ h.alone, ht]

theorem zline_done {pa : Nat} (h : LaneReady s id o a) (hb : o.body = .zline) (hp : a.place = .side pa) :
    exec (.memoryAccessDone id (1#32 <<< a.lane)) s = .next (settleOps (finishStore (s.wrMem pa 128 0) id o a) o.owner.core) := by
  have performed : performLane s id o a = finishStore (storeAt s o a 128 0) id o a := by
    unfold performLane
    rw [hb, hp]
    exact congrArg (fun u => finishStore u id o a) (noteWriter_alone _ h.alone)
  exact memoryAccessDone_of h (by rw [hb]; exact nofun) (performed.trans (by rw [storeAt_side 128 0 hp])) (wrMem_ops s pa 128 0) (finishStore_ops ..)

theorem push_done {pa : Nat} (h : LaneReady s id o a) (hb : o.body = .push) (hp : a.place = .side pa) :
    exec (.memoryAccessDone id (1#32 <<< a.lane)) s =
      .next (settleOps (finishPush (s.wrMem pa o.width a.data.toNat) id o a) o.owner.core) := by
  refine memoryAccessDone_of (t := s.wrMem pa o.width a.data.toNat) h (by rw [hb]; exact nofun) ?_ rfl (finishPush_ops ..)
  unfold performLane
  rw [hb, hp]
  dsimp only
  rw [noteWriter_alone _ h.alone, storeAt_side _ _ hp]

theorem pop_done {pa : Nat} (h : LaneReady s id o a) (hb : o.body = .pop) (hp : a.place = .side pa) :
    exec (.memoryAccessDone id (1#32 <<< a.lane)) s =
      .next (settleOps (finalizePops (popReturned s id a.lane (Mem.rd s.mem pa o.width)) id) o.owner.core) := by
  rw [memoryAccessDone_one h]
  unfold performLane
  rw [hb, hp]
  dsimp only
  rw [loadAt_side hp]

theorem cwb_done {pa : Nat} (h : LaneReady s id o a) (hb : o.body = .cwb) (hp : a.place = .mem pa) :
    exec (.memoryAccessDone id (1#32 <<< a.lane)) s =
      .next (settleOps (finishStore (writeBackLine s o.owner.core (localKey pa)) id o a) o.owner.core) := by
  refine memoryAccessDone_of h (by rw [hb]; exact nofun) ?_ (writeBackLine_ops s o.owner.core (localKey pa)) (finishStore_ops ..)
  unfold performLane
  rw [hb, hp]

theorem cinv_done {pa : Nat} (h : LaneReady s id o a) (hb : o.body = .cinv) (hp : a.place = .mem pa) :
    exec (.memoryAccessDone id (1#32 <<< a.lane)) s =
      .next (settleOps (finishStore (dropLines s o.owner.core (fun l => l.line = localKey pa)) id o a) o.owner.core) := by
  refine memoryAccessDone_of h (by rw [hb]; exact nofun) ?_ (dropLines_ops s o.owner.core (fun l => l.line = localKey pa)) (finishStore_ops ..)
  unfold performLane
  rw [hb, hp]

/-! ### Atomics -/

theorem atomic_done {op : AtomOp} {t : Ty} {d : Option Operand} {p : BitVec 3} {u : State} {old : Nat} {ok : Bool}
    (h : LaneReady s id o a) (hb : o.body = .atomic op t d p) (hp : ∀ q pa, a.place ≠ .peer q pa)
    (hu : atomAt s o a op t = (u, old, ok)) (hops : u.ops = s.ops) :
    exec (.memoryAccessDone id (1#32 <<< a.lane)) s = .next (settleOps (finishAtomic u id o a old ok) o.owner.core) := by
  refine memoryAccessDone_of h (by rw [hb]; exact nofun) ?_ hops (finishAtomic_ops ..)
  unfold performLane
  rw [hb]
  cases hplace : a.place with
  | peer q pa => exact absurd hplace (hp q pa)
  | mem pa | side pa | store e off | debug e off =>
    dsimp only
    rw [hu, noteWriter_alone _ h.alone]

/-- The operand and the new value of an atomic. -/
theorem atom_operands (a : LaneAcc) : bitsOf a.data.toNat 0 64 = a.data.toNat % 2 ^ 64 ∧
    bitsOf a.data.toNat 64 64 = a.data.toNat / 2 ^ 64 % 2 ^ 64 := by
  refine ⟨?_, rfl⟩
  unfold bitsOf
  rw [Nat.pow_zero, Nat.div_one]

theorem atomAt_store {e off : Nat} (op : AtomOp) (t : Ty) (hp : a.place = .store e off) :
    let r := atomNew op t (Mem.rd (s.core e).store off o.width) (a.data.toNat % 2 ^ 64) (a.data.toNat / 2 ^ 64 % 2 ^ 64)
    atomAt s o a op t = (s.wrStore e off o.width r.1, Mem.rd (s.core e).store off o.width, r.2) := by
  unfold atomAt
  dsimp only
  rw [hp, (atom_operands a).1, (atom_operands a).2]

theorem atomAt_side {pa : Nat} (op : AtomOp) (t : Ty) (hp : a.place = .side pa) :
    let r := atomNew op t (Mem.rd s.mem pa o.width) (a.data.toNat % 2 ^ 64) (a.data.toNat / 2 ^ 64 % 2 ^ 64)
    atomAt s o a op t = (s.wrMem pa o.width r.1, Mem.rd s.mem pa o.width, r.2) := by
  unfold atomAt
  dsimp only
  rw [hp, (atom_operands a).1, (atom_operands a).2]

/-- An atomic at the home slice of a line that level 1 does not hold. -/
theorem atomAt_mem {pa : Nat} (op : AtomOp) (t : Ty) (hp : a.place = .mem pa) (hl : l1Find s o.owner.core (localKey pa) = none)
    (hhome : atomL1 s o a = false) :
    let r := atomNew op t (Mem.rd s.mem pa o.width) (a.data.toNat % 2 ^ 64) (a.data.toNat / 2 ^ 64 % 2 ^ 64)
    ∃ u, atomAt s o a op t = (u, Mem.rd s.mem pa o.width, r.2) ∧ u.ops = s.ops ∧ u.mem = (s.wrMem pa o.width r.1).mem := by
  intro r
  unfold atomAt
  dsimp only
  rw [hp, (atom_operands a).1, (atom_operands a).2]
  dsimp only
  rw [if_neg (by rw [hhome]; decide), dropLines_absent hl]
  have mem : (l2Write ((dropLines s o.owner.core (fun l => l.line = localKey pa)).wrMem pa o.width r.1) pa o.width a.hint).mem =
      (s.wrMem pa o.width r.1).mem :=
    (l2Access_mem ..).trans (congrArg (fun m => Mem.wr m pa o.width r.1) (dropLines_absent hl))
  have ops : (l2Write ((dropLines s o.owner.core (fun l => l.line = localKey pa)).wrMem pa o.width r.1) pa o.width a.hint).ops = s.ops :=
    (l2Access_ops ..).trans (dropLines_ops ..)
  refine ⟨_, rfl, ?_, ?_⟩
  · split
    · exact ops
    · exact ops
  · split
    · exact mem
    · exact mem

end

/-! ## What the atomics compute -/

/-- An integer type's bits are the number's, or its two's complement's. -/
theorem atomNew_integers {t : Ty} {old b n : Nat} (hb : b < 2 ^ t.bits) (hn : n < 2 ^ t.bits) :
    let f (op : AtomOp) : Nat × Bool := atomNew op t old b n
    f .add = ((old + b) % 2 ^ t.bits, true) ∧ intVal t (f .min).1 = min (intVal t old) (intVal t b) ∧
    intVal t (f .max).1 = max (intVal t old) (intVal t b) ∧ f .and = (old &&& b, true) ∧ f .or = (old ||| b, true) ∧
    f .xor = (old ^^^ b, true) ∧ f .exch = (b, true) ∧ f .cas = (if old = b then n else old, true) ∧
    f .inc = (min (old + 1) (max old b), decide (old < b)) ∧ f .dec = (old - 1, decide (old ≠ 0)) := by
  have whole : b % 2 ^ t.bits = b := Nat.mod_eq_of_lt hb
  have whole' : n % 2 ^ t.bits = n := Nat.mod_eq_of_lt hn
  refine ⟨rfl, ?_, ?_, ?_, ?_, ?_, ?_, ?_, ?_, ?_⟩ <;> dsimp only [atomNew]
  · rw [whole]
    split
    · next h => exact (min_eq_right h.le).symm
    · next h => exact (min_eq_left (not_lt.1 h)).symm
  · rw [whole]
    split
    · next h => exact (max_eq_right h.le).symm
    · next h => exact (max_eq_left (not_lt.1 h)).symm
  · rw [whole]
  · rw [whole]
  · rw [whole]
  · rw [whole]
  · rw [whole, whole']
  · refine Prod.ext ?_ rfl
    dsimp only
    split <;> omega
  · refine Prod.ext ?_ ?_
    · dsimp only
      split <;> omega
    · exact decide_eq_decide.2 Nat.pos_iff_ne_zero

/-! ## What a finished lane writes -/

section
variable {s : State} {id : Nat} {o : MemOp} {a : LaneAcc} {c k : Nat}

theorem finishLoad_main {r : BitVec 10} {t : Ty} {ro : Bool} (v : Nat) (ho : o.owner = .warp c k) (hb : o.body = .load (.main r) t ro)
    (hacq : o.order.acquires = false) (hw : o.width ≠ 16) :
    finishLoad s id o a v = dropAcc (noteWrites (writeDst s c k a.lane t.pos (.main r) (extT t v)) c k [extT t v]) id a.lane := by
  unfold finishLoad loadPos ownerGoesOn
  rw [hb]
  dsimp only
  rw [ho, hacq, if_neg hw, if_neg hw]
  rfl

theorem finishLoad_wreg {r : BitVec 6} {t : Ty} {ro : Bool} (v : Nat) (ho : o.owner = .warp c k) (hb : o.body = .load (.wreg r) t ro)
    (hacq : o.order.acquires = false) (hw : o.width ≠ 16) :
    finishLoad s id o a v = dropAcc (noteWrites
      (if a.data.getLsbD 254 then s else writeWreg s c k t.pos r.toNat (extT t v)) c k []) id a.lane := by
  unfold finishLoad loadPos ownerGoesOn LaneAcc.dest
  rw [hb]
  dsimp only
  rw [ho, hacq, if_neg hw, if_neg hw]
  cases a.data.getLsbD 254 <;> rfl

theorem finishStore_warp (ho : o.owner = .warp c k) : finishStore s id o a = dropAcc s id a.lane := by
  unfold finishStore ownerGoesOn
  rw [ho]

theorem finishPush_lane {w : Warp} (ho : o.owner = .warp c k) (hk : k < Config.warpSlots) (hw : s.warp? c k = some w)
    (hl : (w.lanes.at? a.lane).isSome = true) :
    let u := finishPush s id o a
    (u.lane c k a.lane).pc = a.data.extractLsb' 64 64 ∧ (u.lane c k a.lane).sp = a.data.extractLsb' 128 64 ∧
      (u.lane c k a.lane).wait = .run := by
  have landed : (finishPush s id o a).warp? c k = (s.warp? c k).map (fun w => { w with
      lanes := w.lanes.upd a.lane (fun y => { y with sp := accAddr a, pc := a.data.extractLsb' 64 64, wait := .run })
      lat := w.lat.filterV (fun i _ => i % 32 != a.lane) }) := by
    show (landAt s o.owner a.lane _ _).warp? c k = _
    unfold landAt modOwnedLane
    rw [ho]
    dsimp only
    rw [modLane_eq hk, State.warp?_modWarp_self, State.warp?_modWarp_self, Option.map_map]
    rfl
  rw [hw] at landed
  dsimp only
  rw [lane_of_warp hk landed]
  dsimp only
  rw [atD_upd _ _ _ _ hl, if_pos rfl]
  exact ⟨rfl, rfl, rfl⟩

/-! ## The end of an operation -/

theorem sweepOps_last {w : Warp} {n : Nat} (hs : s.ops = [(id, o)]) (hlanes : o.lanes = []) (hmore : o.more = false)
    (ho : o.owner = .warp c k) (hf : o.flag = some n) (hw : s.warp? c k = some w) :
    (sweepOps s).ops = [] ∧ ∃ v, (sweepOps s).warp? c k = some v ∧ v.flags.atD n 0 = w.flags.atD n 0 - 1 := by
  have dead : s.ops.filterV (fun _ o => o.lanes.isEmpty && !o.more) = [(id, o)] := by
    rw [hs]
    simp [NMap.filterV, hlanes, hmore]
  have swept : sweepOps s = { lowerFlag s c k o.flag with ops := (lowerFlag s c k o.flag).ops.del id } := by
    unfold sweepOps
    rw [dead, List.foldl_cons, List.foldl_nil, ho]
  have ops : (lowerFlag s c k o.flag).ops = [(id, o)] := by
    rw [hf]
    exact hs
  rw [swept, ops]
  refine ⟨by simp [NMap.del], { w with flags := w.flags.putD n (w.flags.atD n 0 - 1) 0 }, ?_, ?_⟩
  · show (lowerFlag s c k o.flag).warp? c k = _
    rw [hf]
    exact (State.warp?_modWarp_self _ _ _ _).trans (congrArg _ hw)
  · dsimp only
    rw [NMap.atD_putD, if_pos rfl]

end

/-- Settles O40: a lane that is performed goes to its place and is then finished, and the last lane ends its operation. -/
theorem accessesPerformed : Obligations.AccessesPerformed := by
  unfold Obligations.AccessesPerformed
  refine ⟨?performed, fun t old b fresh _ _ hb hn => atomNew_integers hb hn, fun s id o a c k r t ro v ho hb hacq _ hw => finishLoad_main v ho hb hacq hw,
    fun s id o a c k r t ro v ho hb hacq _ hw => finishLoad_wreg v ho hb hacq hw, fun s id o a c k ho => finishStore_warp ho,
    fun s id o a c k w ho hk hw hl => finishPush_lane ho hk hw hl,
    fun s id o c k w n hs hlanes hmore ho hf hw => sweepOps_last hs hlanes hmore ho hf hw⟩
  intro s id o a here found lane ready unsent alone plain step n c b fresh done rd
  have h : LaneReady s id o a := ⟨here, found, lane, ready, unsent, alone, plain⟩
  refine ⟨?loads, ?stores, fun hb pa hp => push_done h hb hp, fun hb pa hp => pop_done h hb hp, fun hb pa hp => zline_done h hb hp,
    fun hb pa hp => cwb_done h hb hp, fun hb pa hp => cinv_done h hb hp, ?atomics⟩
  case loads =>
    intro d t ro hb
    refine ⟨fun e off hp => ?_, fun pa hp => ?_, fun pa hp => ⟨load_done h hb (by rw [hp]; exact nofun), loadAt_mem_absent hp, fun l =>
      loadAt_mem_held hp⟩⟩
    · exact (load_done h hb (by rw [hp]; exact nofun)).trans (by rw [loadAt_store hp])
    · exact (load_done h hb (by rw [hp]; exact nofun)).trans (by rw [loadAt_side hp])
  case stores =>
    intro hb
    exact ⟨fun e off hp => store_done h hb (by rw [hp]; exact nofun) (storeAt_store _ _ hp) rfl,
      fun pa hp => store_done h hb (by rw [hp]; exact nofun) (storeAt_side _ _ hp) rfl,
      fun pa hp => ⟨store_done h hb (by rw [hp]; exact nofun) rfl (storeAt_mem_ops s o a _ _ hp), storeAt_mem_home _ _ hp⟩⟩
  case atomics =>
    intro op t d p hb
    refine ⟨fun e off hp => ?_, fun pa hp => ?_, fun pa hp hl hhome => ?_⟩
    · exact atomic_done h hb (by rw [hp]; exact nofun) (atomAt_store op t hp) rfl
    · exact atomic_done h hb (by rw [hp]; exact nofun) (atomAt_side op t hp) rfl
    · obtain ⟨u, hu, hops, hmem⟩ := atomAt_mem op t hp hl hhome
      exact ⟨u, atomic_done h hb (by rw [hp]; exact nofun) hu hops, hmem⟩

end Sys2Proof.Machine
end

section
/-! PROOFS. The canonical form of memory (log 1): the predicate and its rules. -/

namespace Sys2Proof.Machine

/-- Every value of a map satisfies a predicate. -/
def NMap.All {α : Type} (p : α → Prop) (m : NMap α) : Prop := ∀ e ∈ m, p e.2

namespace NMap

variable {α β : Type} {p : α → Prop} {q : β → Prop} {m : NMap α}

theorem all_nil : NMap.All p [] := fun _ h => absurd h List.not_mem_nil

theorem All.put (h : NMap.All p m) (k : Nat) {v : α} (hv : p v) : NMap.All p (m.put k v) := by
  induction m with
  | nil => exact fun e he => by rw [List.mem_singleton.1 he]; exact hv
  | cons e m ih =>
    have htail : NMap.All p m := fun d hd => h d (.tail _ hd)
    have hhead : p e.2 := h e (.head _)
    intro d hd
    simp only [NMap.put] at hd
    split at hd
    · rcases List.mem_cons.1 hd with rfl | hd
      · exact hv
      · exact htail d hd
    · split at hd
      · rcases List.mem_cons.1 hd with rfl | hd
        · exact hv
        · exact h d hd
      · rcases List.mem_cons.1 hd with rfl | hd
        · exact hhead
        · exact ih htail d hd

theorem All.mapV (h : NMap.All p m) {f : Nat → α → β} (hf : ∀ k x, p x → q (f k x)) : NMap.All q (m.mapV f) := by
  intro e he
  obtain ⟨d, hd, rfl⟩ := List.mem_map.1 he
  exact hf _ _ (h d hd)

theorem All.upd (h : NMap.All p m) (k : Nat) {f : α → α} (hf : ∀ x, p x → p (f x)) : NMap.All p (m.upd k f) := by
  intro e he
  obtain ⟨d, hd, rfl⟩ := List.mem_map.1 he
  split
  · exact hf _ (h d hd)
  · exact h d hd

theorem All.at? (h : NMap.All p m) {k : Nat} {x : α} (hx : m.at? k = some x) : p x := by
  induction m with
  | nil => cases hx
  | cons e m ih =>
    rw [NMap.at?_cons] at hx
    split at hx
    · cases hx; exact h e (.head _)
    · exact ih (fun d hd => h d (.tail _ hd)) hx

theorem All.atD (h : NMap.All p m) (k : Nat) {d : α} (hd : p d) : p (m.atD k d) := by
  unfold NMap.atD
  cases hx : m.at? k with
  | none => exact hd
  | some x => exact h.at? hx

end NMap

/-- The canonical form of a memory and of the stores of cores. -/
def Forms (mem : Mem) (cores : NMap Core) : Prop := Mem.wf mem = true ∧ cores.All (fun
    (x : Core) => Mem.wf x.store = true)

theorem forms_state (s : State) : Forms s.mem s.cores = s.formed := rfl

theorem formed_mk {tick now agenda clauses mem xl lqs dispLast launches late wgs cores ops fresh own heldWb heldPf l2
    board track
    dfq dfqBase bpBase popBase popSize pops jobs fab rep pre rel pow host ready} :
    (State.mk tick now agenda clauses mem xl lqs dispLast launches late wgs cores ops fresh own heldWb heldPf l2
        board track
      dfq dfqBase bpBase popBase popSize pops jobs fab rep pre rel pow host ready).formed = Forms mem cores := rfl

section

variable {m : Mem} {cs : NMap Core}

theorem Forms.setByte (h : Forms m cs) (a : Nat) (v : Byte) :
    Forms (Mem.setByte m a v) cs := ⟨Mem.wf_setByte m a v h.1, h.2⟩
theorem Forms.wr (h : Forms m cs) (a n v : Nat) : Forms (Mem.wr m a n v) cs := ⟨Mem.wf_wr m a n v h.1, h.2⟩
theorem Forms.wrBytes (h : Forms m cs) (a : Nat) (bs : List Byte) :
    Forms (Mem.wrBytes m a bs) cs := ⟨Mem.wf_wrBytes m a bs h.1, h.2⟩
theorem Forms.splice (h : Forms m cs) (a : Nat) (bs : List Byte) :
    Forms (Mem.splice m a bs) cs := ⟨Mem.wf_splice m a bs h.1, h.2⟩

theorem Forms.mapV (h : Forms m cs) {f : Nat → Core → Core} (hf : ∀ c x, (f c x).store = x.store) :
    Forms m (cs.mapV f) :=
  ⟨h.1, NMap.All.mapV h.2 fun c (x : Core) hx => (congrArg Mem.wf (hf c x)).trans hx⟩

theorem Forms.put (h : Forms m cs) (c : Nat) {x : Core} (hx : Mem.wf x.store = true) :
    Forms m (cs.put c x) := ⟨h.1, NMap.All.put h.2 c hx⟩

theorem Forms.upd (h : Forms m cs) (c : Nat) {f : Core → Core} (hf : ∀ x, (f x).store = x.store) :
    Forms m (cs.upd c f) :=
  ⟨h.1, NMap.All.upd h.2 c fun (x : Core) hx => (congrArg Mem.wf (hf x)).trans hx⟩

end

/-- The outcome of an operation: if there is a state, it is formed. -/
def Result.Formed (r : Result) : Prop := ∀ t, r = .next t → t.formed

theorem result_next {s : State} (h : s.formed) : Result.Formed (.next s) := fun _ ht => by cases ht; exact h
theorem result_fault (f : Fault) : Result.Formed (.fault f) := fun _ ht => by cases ht
theorem result_refused (f : Refusal) : Result.Formed (.refused f) := fun _ ht => by cases ht

variable {s : State}

theorem State.formed.mem (h : s.formed) : Mem.wf s.mem = true := h.1

theorem State.formed.cores (h : s.formed) : s.cores.All (fun (x : Core) => Mem.wf x.store = true) := h.2

theorem State.formed.store (h : s.formed) (c : Nat) : Mem.wf (s.core c).store = true :=
  NMap.All.atD h.cores c (p := fun (x : Core) => Mem.wf x.store = true) rfl

theorem forms_mix (h : s.formed) {t : State} (ht : t.formed) : Forms t.mem s.cores := ⟨ht.mem, h.cores⟩

theorem formed_setCore (h : s.formed) (c : Nat) (x : Core) (hx : Mem.wf x.store = true) : (s.setCore c x).formed :=
  ⟨h.mem, h.cores.put c hx⟩

theorem formed_modCore (h : s.formed) (c : Nat) (f : Core → Core) (hf : ∀ x, (f x).store = x.store) :
    (s.modCore c f).formed :=
  formed_setCore h c _ (by rw [hf]; exact h.store c)

theorem formed_modStore (h : s.formed) (c : Nat) (f : Core → Core) (hf : ∀ x, Mem.wf x.store = true → Mem.wf
    (f x).store = true) :
    (s.modCore c f).formed :=
  formed_setCore h c _ (hf _ (h.store c))

theorem formed_modWarp (h : s.formed) (c k : Nat) (f : Warp → Warp) : (s.modWarp c k f).formed :=
  formed_modCore h c _ fun _ => rfl

theorem formed_modCtrl (h : s.formed) (c : Nat) (f : Control → Control) : (s.modCtrl c f).formed :=
  formed_modCore h c _ fun _ => rfl

theorem formed_modStream (h : s.formed) (c k : Nat) (f : Stream → Stream) : (s.modStream c k f).formed :=
  formed_modCore h c _ fun _ => rfl

theorem formed_wrStore (h : s.formed) (c a n v : Nat) : (s.wrStore c a n v).formed :=
  formed_modStore h c _ fun _ hx => Mem.wf_wr _ a n v hx

theorem formed_wrMem (h : s.formed) (a n v : Nat) : (s.wrMem a n v).formed := ⟨Mem.wf_wr _ a n v h.mem, h.cores⟩

theorem formed_wrReg (h : s.formed) (c k l r : Nat) (v : Word) : (s.wrReg c k l r v).formed := by
  unfold State.wrReg
  split
  · exact formed_modCtrl h c _
  · split
    · exact formed_wrStore h ..
    · exact h

theorem formed_wrDev (h : s.formed) (a : Nat) (bs : List Byte) : (s.wrDev a bs).formed := by
  unfold State.wrDev
  split
  · exact ⟨Mem.wf_wrBytes _ _ _ h.mem, h.cores⟩
  · exact h

theorem formed_ite {p : Prop} [Decidable p] {s t : State} (hs : s.formed) (ht : t.formed) :
    (if p then s else t).formed := by
  split
  · exact hs
  · exact ht

theorem formed_fst {α : Type} {p : State × α} (h : p.1.formed) {t : State} {a : α} (hp : p = (t, a)) : t.formed := by
  subst hp
  exact h

theorem formed_foldl {α : Type} (g : State → α → State) (L : List α) {s : State} (h : s.formed)
    (hg : ∀ s a, s.formed → (g s a).formed) : (L.foldl g s).formed := by
  induction L generalizing s with
  | nil => exact h
  | cons a L ih => exact ih (hg s a h)

theorem formed_foldl_pair {α β : Type} (g : State × β → α → State × β) (L : List α) {r : State × β} (h : r.1.formed)
    (hg : ∀ r a, r.1.formed → (g r a).1.formed) : (L.foldl g r).1.formed := by
  induction L generalizing r with
  | nil => exact h
  | cons a L ih => exact ih (hg r a h)

theorem formed_foldl_bind {α : Type} {g : State → α → Option State} {L : List α} {s t : State} (h : s.formed)
    (hg : ∀ s a t, s.formed → g s a = some t → t.formed) (ht : L.foldl (fun r a => r.bind (fun s => g s a))
        (some s) = some t) : t.formed := by
  induction L generalizing s with
  | nil => cases ht; exact h
  | cons a L ih =>
    rw [List.foldl_cons, Option.bind_some] at ht
    cases hs : g s a with
    | none =>
      rw [hs] at ht
      have : ∀ L : List α, L.foldl (fun r a => r.bind (fun s => g s a)) none = none :=
          fun L => by induction L <;> simp [*]
      exact absurd ((this L).symm.trans ht) (by simp)
    | some u => exact ih (hg s a u h hs) (hs ▸ ht)

section
variable {α : Type} {o : Option State}

theorem formed_of_findSome {f : α → Option State} {L : List α} (hf : ∀ a t, f a = some t → t.formed) :
    ∀ t, L.findSome? f = some t → t.formed := by
  intro t ht
  obtain ⟨a, -, ha⟩ := List.exists_of_findSome?_eq_some ht
  exact hf a t ha

theorem formed_of_map {o : Option α} {f : α → State} (hf : ∀ a, o = some a → (f a).formed) :
    ∀ t, o.map f = some t → t.formed := by
  intro t ht
  obtain ⟨a, ha, rfl⟩ := Option.map_eq_some_iff.1 ht
  exact hf a ha

theorem formed_of_bind {o : Option α} {f : α → Option State} (hf : ∀ a, o = some a → ∀ t, f a = some t → t.formed) :
    ∀ t, o.bind f = some t → t.formed := by
  intro t ht
  obtain ⟨a, ha, hb⟩ := Option.bind_eq_some_iff.1 ht
  exact hf a ha t hb

theorem formed_of_ite {p : Prop} [Decidable p] {o u : Option State} (ho : ∀ t, o = some t → t.formed) (hu : ∀ t,
    u = some t → t.formed) :
    ∀ t, (if p then o else u) = some t → t.formed := by
  split
  · exact ho
  · exact hu

theorem formed_of_none :
    ∀ t, (none : Option State) = some t → t.formed := fun _ ht => absurd ht.symm (Option.some_ne_none _)

theorem formed_of_some {s : State} (h : s.formed) :
    ∀ t, some s = some t → t.formed := fun _ ht => Option.some.inj ht ▸ h

theorem formed_of_orElse {g : Unit → Option State} (ho : ∀ t, o = some t → t.formed) (hg : ∀ t, g
    () = some t → t.formed) :
    ∀ t, o.orElse g = some t → t.formed := by
  cases o with
  | none => exact hg
  | some _ => exact ho

theorem formed_getD {s : State} (ho : ∀ t, o = some t → t.formed) (h : s.formed) : (o.getD s).formed := by
  cases o with
  | none => exact h
  | some u => exact ho u rfl

end

theorem formed_modLaunch (h : s.formed) (id : Nat) (f : Launch → Launch) : (s.modLaunch id f).formed := h
theorem formed_modWg (h : s.formed) (id : Nat) (f : Wg → Wg) : (s.modWg id f).formed := h
theorem formed_modOp (h : s.formed) (id : Nat) (f : MemOp → MemOp) : (s.modOp id f).formed := h

theorem formed_leave (h : s.formed) (k l : Nat) : (s.leave k l).formed := by
  unfold State.leave
  split <;> exact h

end Sys2Proof.Machine
end

section
/-! PROOFS. The canonical form of memory (log 1): State operations. -/

namespace Sys2Proof.Machine

theorem formed_modLane {s : State} (h : s.formed) (c : Nat) (k : Nat) (l : Nat) (f : Lane → Lane) :
    (State.modLane s c k l f).formed := by
  unfold State.modLane
  grind [formed_modWarp, formed_modCtrl]

theorem formed_dropWarp {s : State} (h : s.formed) (c : Nat) (k : Nat) : (State.dropWarp s c k).formed := h

theorem formed_modSaved {s : State} (h : s.formed) (g : Nat) (warpid : Nat) (f : Warp → Warp) :
    (State.modSaved s g warpid f).formed := h

theorem formed_modSavedStream {s : State} (h : s.formed) (g : Nat) (f : Stream → Stream) :
    (State.modSavedStream s g f).formed := h

theorem formed_bump {s : State} (h : s.formed) : (State.bump s).formed := h

theorem formed_checkpoint {s : State} (h : s.formed) : (checkpoint s).formed := by
  unfold checkpoint
  grind [formed_mk, forms_state, Forms.wrBytes]

theorem formed_logEvent {s : State} (h : s.formed) (kind : Nat) (source : Nat) (detail : Nat) :
    (logEvent s kind source detail).formed := by
  unfold logEvent
  grind [formed_checkpoint, formed_mk, forms_state, Forms.wrBytes]

/-- Trap records enter the queue of a core without a change of its store. -/
theorem enterTraps_store (n : Nat) (x : Core) : (Core.enterTraps n x).store = x.store := by
  induction n generalizing x with
  | zero => rfl
  | succ n ih => grind [Core.enterTraps]

theorem formed_drainTraps {s : State} (h : s.formed) (c : Nat) : (drainTraps s c).formed :=
  formed_modCore h c _ fun _ => enterTraps_store _ _

theorem formed_pushTrap {s : State} (h : s.formed) (c : Nat) (r : TrapRec) : (pushTrap s c r).formed :=
  formed_modCore h c _ fun x => by
    split <;> exact enterTraps_store _ _

theorem formed_haltControl {s : State} (h : s.formed) (c : Nat) : (haltControl s c).formed := by
  unfold haltControl
  grind [formed_modCtrl, formed_dropWarp, formed_logEvent]

theorem formed_raiseTrap {s : State} (h : s.formed) (c : Nat) (k : Nat) (cause : Nat) (pc : DWord) (i : TrapInfo) :
    (raiseTrap s c k cause pc i).formed := by
  unfold raiseTrap
  grind [formed_modWarp, formed_dropWarp, formed_pushTrap, formed_haltControl]

theorem formed_raiseStreamTrap {s : State} (h : s.formed) (c : Nat) (k : Nat) (cause : Nat) (pc : DWord)
        (i : TrapInfo) :
    (raiseStreamTrap s c k cause pc i).formed := by
  unfold raiseStreamTrap
  grind [formed_modStream, formed_pushTrap]

theorem formed_killStream {s : State} (h : s.formed) (c : Nat) (k : Nat) (detail : Nat) (addr : DWord) :
    (killStream s c k detail addr).formed := by
  unfold killStream
  grind [formed_modStream, formed_raiseStreamTrap]

theorem formed_deliverStream {s : State} (h : s.formed) (c : Nat) (k : Nat) : (deliverStream s c k).formed := by
  unfold deliverStream
  grind [formed_modStream, formed_raiseStreamTrap]

theorem formed_deliverOwed {s : State} (h : s.formed) (c : Nat) (k : Nat) : (deliverOwed s c k).formed := by
  unfold deliverOwed
  grind [formed_modWarp, formed_raiseTrap]

theorem formed_deliverKilled {s : State} (h : s.formed) (c : Nat) (k : Nat) : (deliverKilled s c k).formed := by
  unfold deliverKilled
  grind [formed_modWarp, formed_raiseTrap]

theorem formed_lowerFlag {s : State} (h : s.formed) (c : Nat) (k : Nat) (f : Option Nat) :
    (lowerFlag s c k f).formed := by
  unfold lowerFlag
  grind [formed_modWarp]

theorem formed_sweepOps {s : State} (h : s.formed) : (sweepOps s).formed := by
  unfold sweepOps
  grind [formed_modStream, formed_modSaved, formed_modSavedStream, formed_lowerFlag, formed_mk, forms_state,
      formed_foldl]

theorem formed_freeOwnership {s : State} (h : s.formed) (e : EngineRef) : (freeOwnership s e).formed := h

theorem formed_killMat {s : State} (h : s.formed) (n : Nat) : (killMat s n).formed := by
  unfold killMat
  grind [formed_freeOwnership, forms_mix, formed_mk, Forms.mapV]

theorem formed_freeKept {s : State} (h : s.formed) (c : Nat) (k : Nat) : (freeKept s c k).formed := by
  unfold freeKept
  grind [formed_modWarp, formed_killMat]

theorem formed_dropWaits {s : State} (h : s.formed) (c : Nat) (k : Nat) (ls : List Nat) :
    (dropWaits s c k ls).formed := by
  unfold dropWaits
  grind [formed_sweepOps, formed_mk, forms_state]

theorem formed_resumeWarp {s0 : State} (h : s0.formed) (c : Nat) (k : Nat) (m : ResumeKind) :
    (resumeWarp s0 c k m).formed := by
  unfold resumeWarp
  grind [formed_modOp, formed_modWarp, formed_raiseTrap, formed_deliverOwed, formed_deliverKilled, formed_sweepOps,
      formed_freeKept, formed_dropWaits]

theorem formed_resumeStream {s0 : State} (h : s0.formed) (c : Nat) (k : Nat) (m : ResumeKind) :
    (resumeStream s0 c k m).formed := by
  unfold resumeStream
  grind [formed_modStream, formed_raiseStreamTrap, formed_deliverStream]

theorem formed_passMilestone {s : State} (h : s.formed) (wg : Nat) (warpid : Nat) :
    (passMilestone s wg warpid).formed := h

theorem formed_takeSnapshot {s : State} (h : s.formed) (span : Bool) : (takeSnapshot s span).formed := h

theorem formed_passToken {s : State} (h : s.formed) (id : Nat) (parks : Bool) : (passToken s id parks).formed := by
  unfold passToken
  grind [formed_modLaunch]

theorem formed_tokenAtBarrier {s : State} (h : s.formed) (c : Nat) (k : Nat) (parks : Bool) :
    (tokenAtBarrier s c k parks).formed := by
  unfold tokenAtBarrier
  grind [formed_passToken]

theorem formed_discardLoads {s : State} (h : s.formed) (c : Nat) (k : Nat) (l : Nat) :
    (discardLoads s c k l).formed := h

theorem formed_endWg {s : State} (h : s.formed) (wg : Nat) : (endWg s wg).formed := by
  unfold endWg
  grind [formed_modLaunch, formed_mk, forms_state, Forms.mapV]

theorem formed_freeCore {s : State} (h : s.formed) (c : Nat) : (freeCore s c).formed := by
  unfold freeCore
  grind [formed_modCore]

theorem formed_settleWarp {s : State} (h : s.formed) (c : Nat) (k : Nat) : (settleWarp s c k).formed := by
  unfold settleWarp
  grind [formed_modCore, formed_modWg, formed_passMilestone, formed_endWg, formed_freeCore]

theorem formed_warpEmpty {s : State} (h : s.formed) (c : Nat) (k : Nat) : (warpEmpty s c k).formed := by
  unfold warpEmpty
  grind [formed_modCore, formed_modOp, formed_modWarp, formed_sweepOps, formed_passToken, formed_settleWarp]

theorem formed_exitLanes {s : State} (h : s.formed) (c : Nat) (k : Nat) (ls : List Nat) :
    (exitLanes s c k ls).formed := by
  unfold exitLanes
  grind [formed_leave, formed_modLane, formed_sweepOps, formed_discardLoads, formed_warpEmpty, formed_foldl]

theorem formed_dropStopped {s : State} (h : s.formed) (c : Nat) (k : Nat) : (dropStopped s c k).formed := by
  unfold dropStopped
  grind [formed_modOp, formed_modWarp, formed_dropWarp, formed_sweepOps, formed_freeKept]

theorem formed_killLaunch {s : State} (h : s.formed) (id : Nat) : (killLaunch s id).formed := by
  unfold killLaunch
  grind [formed_modLaunch, formed_killMat, formed_endWg, formed_exitLanes, formed_dropStopped, formed_foldl]

theorem formed_engineTrap {s : State} (h : s.formed) (core : Nat) (launch : Nat) (wg : Nat) (warpid : Nat)
        (cause : Nat) (detail : Nat) (addr : DWord) :
    (engineTrap s core launch wg warpid cause detail addr).formed := by
  unfold engineTrap
  grind [formed_modWarp, formed_modSaved, formed_logEvent, formed_deliverOwed, formed_killLaunch]

theorem formed_raiseFlag {s : State} (h : s.formed) (c : Nat) (k : Nat) (f : Option Nat) :
    (raiseFlag s c k f).formed := by
  unfold raiseFlag
  grind [formed_modWarp]

theorem formed_raiseStreamFlag {s : State} (h : s.formed) (c : Nat) (k : Nat) (f : Option Nat) :
    (raiseStreamFlag s c k f).formed := by
  unfold raiseStreamFlag
  grind [formed_modStream]

theorem formed_writeDst {s : State} (h : s.formed) (c : Nat) (k : Nat) (l : Nat) (p : Pos) (o : Operand) (v : Nat) :
    (writeDst s c k l p o v).formed := by
  unfold writeDst
  grind [formed_wrReg, formed_modWarp, formed_modLane, formed_foldl]

theorem formed_writeWreg {s : State} (h : s.formed) (c : Nat) (k : Nat) (p : Pos) (r : Nat) (v : Nat) :
    (writeWreg s c k p r v).formed := by
  unfold writeWreg
  grind [formed_modWarp]

theorem formed_fillTlb {s : State} (h : s.formed) (c : Nat) (ctx : Nat) (va : Nat) (e : Nat) (bits : Nat) :
    (fillTlb s c ctx va e bits).formed := by
  unfold fillTlb
  grind [formed_modCore, formed_mk, forms_state]

theorem formed_translateNow {s : State} (h : s.formed) (c : Nat) (ctx : Nat) (va : Nat) (grants : Nat → Bool) :
    (translateNow s c ctx va grants).1.formed := by
  unfold translateNow
  grind [formed_modCore, formed_fillTlb]

theorem formed_resolveNow {s : State} (h : s.formed) (w : Who) (a : Access) (va : Nat) :
    (resolveNow s w a va).1.formed := by
  unfold resolveNow
  grind [formed_translateNow]

theorem formed_writeFault {s : State} (h : s.formed) : (writeFault s).formed := by
  unfold writeFault
  grind [formed_wrDev, formed_mk, forms_state]

theorem formed_writeFaults {s : State} (h : s.formed) (n : Nat) : (writeFaults s n).formed := by
  induction n generalizing s with
  | zero => exact h
  | succ n ih => exact ih (formed_writeFault h)

theorem formed_joinFault {s : State} (h : s.formed) (va : DWord) (ctx : Nat) (core : Nat) (cause : Nat)
        (kind : AccKind) (write : Bool) (mask : Word) :
    (joinFault s va ctx core cause kind write mask).1.formed := by
  unfold joinFault
  grind [formed_wrDev, formed_writeFault, formed_mk, forms_state]

theorem formed_writeMasked {s : State} (h : s.formed) (base : Nat) (m : BitVec 128) (d : BitVec 1024) :
    (writeMasked s base m d).formed := by
  unfold writeMasked
  grind [formed_mk, forms_state, formed_foldl, Forms.setByte]

theorem formed_markDirty {s : State} (h : s.formed) (c : Nat) (sec : List Nat) : (markDirty s c sec).formed := by
  unfold markDirty
  grind [formed_modCore]

theorem formed_l2Access {s : State} (hs : s.formed) (k : Nat) (h : Hint) (valid : BitVec 128) (written : BitVec 128) :
    (l2Access s k h valid written).formed := by
  unfold l2Access
  grind [formed_mk, forms_state]

theorem formed_l2Touch {s : State} (hs : s.formed) (pa : Nat) (h : Hint) : (l2Touch s pa h).formed := by
  unfold l2Touch
  grind [formed_l2Access]

theorem formed_l2Write {s : State} (hs : s.formed) (pa : Nat) (n : Nat) (h : Hint) : (l2Write s pa n h).formed := by
  unfold l2Write
  grind [formed_l2Access]

theorem formed_sendHome {s : State} (h : s.formed) (c : Nat) (k : Nat) (mask : BitVec 128) (data : BitVec 1024)
        (cls : Hint) :
    (sendHome s c k mask data cls).formed := by
  unfold sendHome
  grind [formed_writeMasked, formed_markDirty, formed_l2Access, formed_mk, forms_state]

theorem formed_writeBack {s : State} (h : s.formed) (c : Nat) (l : CacheLine) : (writeBack s c l).formed := by
  unfold writeBack
  grind [formed_sendHome]

theorem formed_serveWb {s : State} (h : s.formed) : (serveWb s).formed := by
  unfold serveWb
  grind [formed_sendHome, formed_mk, forms_state, formed_foldl]

theorem formed_writeBackAll {s : State} (h : s.formed) (c : Nat) : (writeBackAll s c).formed := by
  unfold writeBackAll
  grind [formed_modCore, formed_writeBack, formed_foldl]

theorem formed_dropLines {s : State} (h : s.formed) (c : Nat) (p : CacheLine → Bool) : (dropLines s c p).formed := by
  unfold dropLines
  grind [formed_modCore, formed_writeBack, formed_foldl]

theorem formed_evictOne {s : State} (h : s.formed) (c : Nat) : (evictOne s c).formed := by
  unfold evictOne
  grind [formed_dropLines]

theorem formed_l1Put {s : State} (hs : s.formed) (c : Nat) (l : CacheLine) (h : Hint) : (l1Put s c l h).formed := by
  unfold l1Put
  grind [formed_modCore, formed_dropLines]

end Sys2Proof.Machine
end

section
/-! PROOFS. The canonical form of memory (log 1): operands, caches and addresses. -/

namespace Sys2Proof.Machine

theorem formed_l1Fill {s : State} (hs : s.formed) (c : Nat) (k : Nat) (below : BitVec 1024) (h : Hint) :
    (l1Fill s c k below h).formed := by
  unfold l1Fill
  grind [formed_modCore, formed_l1Put]

theorem formed_loadLocal {s : State} (hs : s.formed) (c : Nat) (pa : Nat) (n : Nat) (h : Hint) :
    (loadLocal s c pa n h).1.formed := by
  unfold loadLocal
  grind [formed_l2Touch, formed_l1Put, formed_l1Fill]

theorem formed_writeBackLine {s : State} (h : s.formed) (c : Nat) (k : Nat) : (writeBackLine s c k).formed := by
  unfold writeBackLine
  grind [formed_modCore, formed_writeBack]

theorem formed_loadHome {s : State} (hs : s.formed) (c : Nat) (pa : Nat) (n : Nat) (h : Hint) :
    (loadHome s c pa n h).1.formed := by
  unfold loadHome
  grind [formed_l2Touch, formed_dropLines, formed_l1Fill]

theorem formed_l1Update {s : State} (h : s.formed) (c : Nat) (k : Nat) (lo : Nat) (n : Nat) (v : Nat) (written : Bool) :
    (l1Update s c k lo n v written).formed := by
  unfold l1Update
  grind [formed_modCore]

theorem formed_storeHome {s : State} (hs : s.formed) (c : Nat) (pa : Nat) (n : Nat) (v : Nat) (h : Hint) :
    (storeHome s c pa n v h).formed := by
  unfold storeHome
  grind [formed_wrMem, formed_markDirty, formed_l2Write, formed_l1Update]

theorem formed_storeLocal {s : State} (hs : s.formed) (c : Nat) (pa : Nat) (n : Nat) (v : Nat) (h : Hint) :
    (storeLocal s c pa n v h).formed := by
  unfold storeLocal
  grind [formed_l1Put, formed_l1Update, formed_storeHome]

theorem formed_fillFor {s : State} (h : s.formed) (f : HeldFill) : (fillFor s f).formed := by
  unfold fillFor
  grind [formed_l2Touch, formed_l1Fill, formed_mk, forms_state]

theorem formed_serveHome {s : State} (h : s.formed) : (serveHome s).formed := by
  unfold serveHome
  grind [formed_serveWb, formed_fillFor, formed_mk, forms_state, formed_foldl]

theorem formed_publishPkg {s : State} (h : s.formed) (m : BitVec 1024) : (publishPkg s m).formed := h

theorem formed_publishWg {s : State} (h : s.formed) (wg : Nat) (m : BitVec 1024) : (publishWg s wg m).formed := h

theorem formed_publishCore {s : State} (h : s.formed) (c : Nat) : (publishCore s c).formed := by
  unfold publishCore
  grind [formed_modCore, formed_publishPkg]

theorem formed_publishCoreWg {s : State} (h : s.formed) (c : Nat) (g : Nat) : (publishCoreWg s c g).formed := by
  unfold publishCoreWg
  grind [formed_modCore, formed_publishWg]

theorem formed_release {s : State} (h : s.formed) (c : Nat) (wg : Option Nat) (sc : Scope) :
    (release s c wg sc).formed := by
  unfold release
  grind [formed_writeBackAll, formed_publishCore, formed_publishCoreWg]

theorem formed_acquire {s : State} (h : s.formed) (c : Nat) (wg : Option Nat) (sc : Scope) :
    (acquire s c wg sc).formed := by
  unfold acquire
  grind [formed_modCore, formed_dropLines]

theorem formed_openSides {s : State} (h : s.formed) (g : Nat) : (openSides s g).formed := by
  unfold openSides
  grind [formed_modCore, formed_foldl]

theorem formed_takeOwnership {s : State} (h : s.formed) (e : EngineRef) (write : Bool) (lines : List Nat) :
    (takeOwnership s e write lines).formed := h

theorem formed_dropOwnership {s : State} (h : s.formed) (e : EngineRef) (lines : List Nat) :
    (dropOwnership s e lines).formed := h

theorem formed_engineStart {s : State} (h : s.formed) (c : Nat) (e : EngineRef) (write : Bool) (lines : List Nat) :
    (engineStart s c e write lines).formed := by
  unfold engineStart
  grind [formed_writeBackAll, formed_dropLines, formed_takeOwnership]

theorem formed_enginePublish {s : State} (h : s.formed) (wg : Option Nat) (sec : List Nat) :
    (enginePublish s wg sec).formed := by
  unfold enginePublish
  grind [formed_publishPkg, formed_publishWg]

theorem formed_park {s : State} (h : s.formed) (c : Nat) (k : Nat) (l : Nat) (w : Wait) :
    (park s c k l w).formed := by
  unfold park
  grind [formed_modWarp, formed_leave, formed_modLane]

theorem formed_parkAll {s : State} (h : s.formed) (c : Nat) (k : Nat) (ls : List Nat) (w : Wait) :
    (parkAll s c k ls w).formed := by
  unfold parkAll
  grind [formed_park, formed_foldl]

theorem formed_jump {s : State} (h : s.formed) (c : Nat) (k : Nat) (l : Nat) (pc : DWord) :
    (jump s c k l pc).formed := by
  unfold jump
  grind [formed_modWarp, formed_leave, formed_modLane]

theorem formed_passOn {s : State} (h : s.formed) (c : Nat) (k : Nat) (ls : List Nat) : (passOn s c k ls).formed := by
  unfold passOn
  grind [formed_modLane, formed_foldl]

theorem formed_wakeAll {s : State} (h : s.formed) (c : Nat) (k : Nat) (ls : List Nat) :
    (wakeAll s c k ls).formed := by
  unfold wakeAll
  grind [formed_modLane, formed_foldl]

theorem formed_issueWarp {s : State} (h : s.formed) (i : Instr) (ops : List (Operand × Pos)) {f : WarpStep}
        (hf : ∀ x s k ls, s.formed → (f x s k ls).formed) (x : Clause) (k : Nat) :
    (issueWarp i ops f x s k).formed := by
  unfold issueWarp
  grind [formed_haltControl, formed_raiseTrap, formed_parkAll]

theorem formed_stepDone {s : State} (h : s.formed) (c : Nat) (k : Nat) (gone : List Nat) :
    (stepDone s c k gone).formed := by
  unfold stepDone
  grind [formed_modWarp, formed_raiseTrap]

theorem formed_stepSettle {s : State} (h : s.formed) (old : State) : (stepSettle old s).formed := by
  unfold stepSettle
  grind [formed_stepDone, formed_foldl]

theorem formed_stepStops {s : State} (h : s.formed) (x : Clause) (k : Nat) : (stepStops x s k).formed := by
  unfold stepStops
  grind [formed_leave, formed_stepDone, formed_foldl]

theorem formed_endIssue {s : State} (h : s.formed) (x : Clause) : (endIssue x s).formed := by
  unfold endIssue
  grind [formed_modWarp, formed_modLane, formed_stepStops, formed_mk, forms_state, formed_foldl]

theorem formed_streamNext {s : State} (h : s.formed) (x : Clause) (k : Nat) : (streamNext x s k).formed := by
  unfold streamNext
  grind [formed_modStream, formed_raiseStreamTrap, formed_mk, forms_state]

theorem formed_issue {s : State} (h : s.formed) (i : Instr) (ops : List (Operand × Pos)) {f : WarpStep}
        (hf : ∀ x s k ls, s.formed → (f x s k ls).formed) :
    (issue i ops f s).formed := by
  unfold issue
  grind [formed_issueWarp, formed_endIssue, formed_streamNext, formed_foldl]

theorem formed_queueDrop {s : State} (h : s.formed) (wg : Nat) (q : Nat) : (queueDrop s wg q).formed := h

theorem formed_queueAdd {s : State} (h : s.formed) (wg : Nat) (q : Nat) (ws : List Word) :
    (queueAdd s wg q ws).formed := by
  unfold queueAdd
  grind [formed_modWg, formed_wrStore, formed_foldl]

theorem formed_noteWrites {s : State} (h : s.formed) (c : Nat) (k : Nat) (vs : List Nat) :
    (noteWrites s c k vs).formed := by
  unfold noteWrites
  grind [formed_modWarp]

theorem formed_setLatches {s : State} (h : s.formed) (c : Nat) (k : Nat) (slot : Nat) (ls : List Nat) (dst : Option
        (Operand × Pos)) :
    (setLatches s c k slot ls dst).formed := by
  unfold setLatches
  grind [formed_modWarp]

theorem formed_writeResults {s : State} (h : s.formed) (c : Nat) (k : Nat) (dst : Option (Operand × Pos)) (rs : List
        (Nat × Nat)) :
    (writeResults s c k dst rs).formed := by
  unfold writeResults
  grind [formed_writeDst, formed_writeWreg, formed_queueAdd, formed_foldl]

theorem formed_writePreds {s : State} (h : s.formed) (c : Nat) (k : Nat) (pw : Option (BitVec 3)) (rs : List
        (Nat × Bool)) :
    (writePreds s c k pw rs).formed := by
  unfold writePreds
  grind [formed_modLane, formed_foldl]

theorem formed_putResults {s : State} (h : s.formed) (c : Nat) (k : Nat) (dst : Option (Operand × Pos)) (rs : List
        (Nat × Nat)) :
    (putResults s c k dst rs).formed := by
  unfold putResults
  grind [formed_noteWrites, formed_writeResults]

theorem formed_putPreds {s : State} (h : s.formed) (c : Nat) (k : Nat) (pw : Option (BitVec 3)) (rs : List
        (Nat × Bool)) :
    (putPreds s c k pw rs).formed := by
  unfold putPreds
  grind [formed_noteWrites, formed_writePreds]

theorem formed_arithApply {s : State} (h : s.formed) (a : Arith) (x : Clause) (k : Nat) (ex : List Nat)
        (pop : List Word) (pw : Option (BitVec 3)) (nb : Option (BitVec 3)) :
    (Arith.apply a x s k ex pop pw nb).formed := by
  unfold Arith.apply
  grind [formed_modWarp, formed_modLane, formed_noteWrites, formed_writeResults, formed_writePreds, formed_foldl]

theorem formed_queueWarp {s : State} (h : s.formed) (i : Instr) (pop push : Option (Nat × Bool)) (nbPw : BitVec 3)
    (ex : List Nat) {pre : State → List Word → Option State}
  {run : State → List Word → Option (BitVec 3) → State} {fin : State → List Nat → State} (hpre : ∀ s ws t,
      s.formed → pre s ws = some t → t.formed)
  (hrun : ∀ s ws nb, s.formed → (run s ws nb).formed) (hfin : ∀ s ls, s.formed → (fin s ls).formed) (x : Clause)
      (k : Nat) (ls : List Nat) : (queueWarp i pop push nbPw ex pre run fin x s k ls).formed := by
  unfold queueWarp
  grind [formed_raiseTrap, formed_release, formed_acquire, formed_parkAll, formed_queueDrop, formed_putPreds]

theorem formed_arithWarp {s : State} (h : s.formed) (a : Arith) (i : Instr) (nbPw : BitVec 3) (x : Clause) (k : Nat)
    (ls : List Nat) :
    (a.warp i nbPw x s k ls).formed := by
  unfold Arith.warp
  refine formed_queueWarp h i _ _ nbPw _ ?_ ?_ ?_ x k ls
  · exact fun _ _ _ _ ht => absurd ht (Option.some_ne_none _).symm
  · exact fun _ _ _ hs => formed_arithApply hs ..
  · exact fun _ _ hs => formed_setLatches hs ..

theorem formed_arith {s : State} (h : s.formed) (i : Instr) (a : Arith) (nbPw : BitVec 3) :
    (arith i a nbPw s).formed :=
  formed_issue h i _ fun x _ k ls hs => formed_arithWarp hs a i nbPw x k ls

theorem formed_sendPacket {s : State} (h : s.formed) (p : Packet) : (sendPacket s p).formed := by
  unfold sendPacket
  grind [formed_mk, forms_state]

theorem formed_writePayload {s : State} (h : s.formed) (addr : Nat) (payload : List Byte) :
    (writePayload s addr payload).1.formed := by
  unfold writePayload
  grind [formed_mk, forms_state, formed_foldl, Forms.setByte]

theorem formed_writeHome {s : State} (hs : s.formed) (p : Packet) (h : Hint) : (writeHome s p h).1.formed := by
  unfold writeHome
  grind [formed_l2Access, formed_writePayload]

theorem formed_multicastHere {s : State} (hs : s.formed) (p : Packet) (tag : Nat) (h : Hint) :
    (multicastHere s p tag h).1.formed := by
  unfold multicastHere
  grind [formed_logEvent, formed_publishPkg, formed_sendPacket, formed_writeHome, formed_mk, forms_state,
      formed_foldl_pair]

theorem formed_sendReply {s : State} (h : s.formed) (drained : Bool) (kind : Nat) (dst : Nat) (tag : Nat)
        (addr : Nat) (payload : List Byte) :
    (sendReply s drained kind dst tag addr payload).formed := by
  unfold sendReply
  grind [formed_sendPacket, formed_mk, forms_state]

theorem formed_sendReplyTo {s : State} (h : s.formed) (p : Packet) (kind : Nat) (tag : Nat) (addr : Nat)
        (payload : List Byte) :
    (sendReplyTo s p kind tag addr payload).formed := by
  unfold sendReplyTo
  grind [formed_sendReply]

theorem formed_patchLaunch {s : State} (h : s.formed) (id : Nat) : (patchLaunch s id).formed := by
  unfold patchLaunch
  grind [formed_mk, forms_state]

theorem formed_debugPut {s : State} (h : s.formed) (c : Nat) (x : Nat) (v : Byte) : (debugPut s c x v).formed := by
  unfold debugPut
  grind [formed_modWarp, formed_modStream, formed_patchLaunch, formed_modStore, Mem.wf_clear, Mem.wf_setByte]

theorem formed_debugWrite {s : State} (h : s.formed) (c x n v : Nat) : (debugWrite s c x n v).formed := by
  induction n generalizing s x v with
  | zero => exact h
  | succ n ih => exact ih (formed_debugPut h ..) ..

theorem formed_fetchPlace {s : State} (h : s.formed) (c : Nat) (va : Nat) (p : Place) (ms : Bool) :
    (fetchPlace s c va p ms).1.formed := by
  unfold fetchPlace
  grind [formed_modCore, formed_logEvent, formed_sendPacket, forms_state]

theorem formed_fetchLine {s : State} (h : s.formed) (c : Nat) (ctx : Nat) (pc : DWord) :
    (fetchLine s c ctx pc).1.formed := by
  unfold fetchLine
  grind [formed_resolveNow, formed_fetchPlace]

theorem formed_checkTarget {s : State} (h : s.formed) (c : Nat) (ctx : Nat) (kind : Nat) (t : DWord) :
    (checkTarget s c ctx kind t).1.formed := by
  unfold checkTarget
  grind [formed_fetchLine]

theorem formed_checkTargets {s : State} (h : s.formed) (c ctx kind : Nat) (L : List (Nat × DWord)) :
    (checkTargets s c ctx kind L).1.formed := by
  induction L generalizing s with
  | nil => exact h
  | cons a L ih => exact ih (formed_checkTarget h ..)

end Sys2Proof.Machine
end

section
/-! PROOFS. The canonical form of memory (log 1): memory forms. -/

namespace Sys2Proof.Machine

theorem formed_vaWrite {s : State} (h : s.formed) (ctx : Nat) (va : Nat) (n : Nat) (v : Nat) :
    (vaWrite s ctx va n v).formed := by
  unfold vaWrite
  grind [formed_wrMem]

theorem formed_modOwnedLane {s : State} (h : s.formed) (o : Owner) (l : Nat) (f : Lane → Lane) :
    (modOwnedLane s o l f).formed := by
  unfold modOwnedLane
  grind [formed_modLane, formed_modSaved]

theorem formed_writeOwned {s : State} (h : s.formed) (o : Owner) (l : Nat) (p : Pos) (d : Operand) (v : Nat) :
    (writeOwned s o l p d v).formed := by
  unfold writeOwned
  grind [formed_modStream, formed_modSaved, formed_modSavedStream, formed_writeDst, formed_writeWreg, formed_vaWrite,
      formed_foldl]

theorem formed_setLost {s : State} (h : s.formed) (o : Owner) (pkg : Nat) : (setLost s o pkg).formed := by
  unfold setLost
  grind [formed_modWarp, formed_modLaunch, formed_modSaved]

theorem formed_wakeDrain {s : State} (h : s.formed) (c : Nat) : (wakeDrain s c).formed := by
  unfold wakeDrain
  grind [formed_modCore]

theorem formed_settleOps {s : State} (h : s.formed) (c : Nat) : (settleOps s c).formed := by
  unfold settleOps
  grind [formed_sweepOps, formed_settleWarp, formed_wakeDrain, formed_foldl]

theorem formed_dropAcc {s : State} (h : s.formed) (id : Nat) (l : Nat) : (dropAcc s id l).formed := h

theorem formed_addWriter {s : State} (h : s.formed) (e : Nat × Nat × Nat) : (addWriter s e).formed := by
  unfold addWriter
  grind [formed_mk, forms_state]

theorem formed_noteWriter {s : State} (h : s.formed) (o : MemOp) (a : LaneAcc) : (noteWriter s o a).formed := by
  unfold noteWriter
  grind [formed_addWriter]

theorem formed_loadAt {s : State} (h : s.formed) (o : MemOp) (a : LaneAcc) : (loadAt s o a).1.formed := by
  unfold loadAt
  grind [formed_l2Touch, formed_loadLocal, formed_loadHome]

theorem formed_storeAt {s : State} (h : s.formed) (o : MemOp) (a : LaneAcc) (n : Nat) (v : Nat) :
    (storeAt s o a n v).formed := by
  unfold storeAt
  grind [formed_wrStore, formed_wrMem, formed_l2Write, formed_l1Update, formed_storeLocal, formed_debugWrite]

theorem formed_atomAt {s : State} (h : s.formed) (o : MemOp) (a : LaneAcc) (op : AtomOp) (t : Ty) :
    (atomAt s o a op t).1.formed := by
  unfold atomAt
  grind [formed_wrStore, formed_wrMem, formed_markDirty, formed_l2Touch, formed_l2Write, formed_dropLines,
      formed_l1Fill, formed_l1Update]

theorem formed_noteFetch {s : State} (h : s.formed) (c : Nat) (k : Nat) (pc : DWord) :
    (noteFetch s c k pc).formed := by
  unfold noteFetch
  grind [formed_setLost]

theorem formed_noteFetches {s : State} (h : s.formed) (c : Nat) (k : Nat) (pcs : List DWord) :
    (noteFetches s c k pcs).formed := by
  unfold noteFetches
  grind [formed_noteFetch, formed_foldl]

theorem formed_noteOwned {s : State} (h : s.formed) (o : Owner) (d : Option Operand) (v : Nat) :
    (noteOwned s o d v).formed := by
  unfold noteOwned
  grind [formed_noteWrites]

theorem formed_ownerGoesOn {s : State} (h : s.formed) (o : MemOp) : (ownerGoesOn s o).formed := by
  unfold ownerGoesOn
  grind [formed_passOn]

theorem formed_finishLoad {s : State} (h : s.formed) (id : Nat) (o : MemOp) (a : LaneAcc) (v : Nat) :
    (finishLoad s id o a v).formed := by
  unfold finishLoad
  grind [formed_writeBackAll, formed_acquire, formed_writeOwned, formed_dropAcc, formed_noteOwned, formed_ownerGoesOn]

theorem formed_finishAtomic {s : State} (h : s.formed) (id : Nat) (o : MemOp) (a : LaneAcc) (old : Nat) (ok : Bool) :
    (finishAtomic s id o a old ok).formed := by
  unfold finishAtomic
  grind [formed_acquire, formed_modOwnedLane, formed_writeOwned, formed_dropAcc, formed_noteOwned, formed_ownerGoesOn]

theorem formed_landAt {s : State} (h : s.formed) (o : Owner) (l : Nat) (sp : DWord) (pc : DWord) :
    (landAt s o l sp pc).formed := by
  unfold landAt
  grind [formed_modWarp, formed_modSaved, formed_modOwnedLane]

theorem formed_finishPush {s : State} (h : s.formed) (id : Nat) (o : MemOp) (a : LaneAcc) :
    (finishPush s id o a).formed := by
  unfold finishPush
  grind [formed_dropAcc, formed_landAt]

theorem formed_finishStore {s : State} (h : s.formed) (id : Nat) (o : MemOp) (a : LaneAcc) :
    (finishStore s id o a).formed := by
  unfold finishStore
  grind [formed_dropAcc, formed_ownerGoesOn]

theorem formed_stopAt {s : State} (h : s.formed) (c : Nat) (k : Nat) (pc : DWord) (set : Word) (done : Word)
        (op : Nat) (faulted : Word) :
    (stopAt s c k pc set done op faulted).formed := by
  unfold stopAt
  grind [formed_modWarp]

theorem formed_parkFaults {s : State} (h : s.formed) (c k : Nat) (kind : AccKind) (write : Bool) (n : Nat) (L : List
    (Nat × Nat × Nat)) :
    (parkFaults s c k kind write n L).formed := by
  induction n generalizing s L with
  | zero => exact h
  | succ n ih =>
    cases L with
    | nil => exact h
    | cons a L => exact ih (formed_parkAll (formed_joinFault h ..) ..) _

theorem formed_memResolve {s : State} (h : s.formed) (m : MemForm) (e : Env) (now : Bool) (l : Nat) :
    (memResolve m s e now l).1.formed := by
  unfold memResolve
  grind [formed_resolveNow]

theorem formed_memResolveAll {s : State} (h : s.formed) (m : MemForm) (e : Env) (L : List (Nat × Bool)) :
    (memResolveAll m e s L).1.formed := by
  induction L generalizing s with
  | nil => exact h
  | cons a L ih => grind [memResolveAll, formed_memResolve]

theorem formed_zeroLane {s : State} (h : s.formed) (m : MemForm) (o : Owner) (ex : List Nat) (l : Nat) :
    (zeroLane m s o ex l).formed := by
  unfold zeroLane
  grind [formed_modOwnedLane, formed_writeOwned, formed_noteOwned]

theorem formed_endStopped {s : State} (h : s.formed) (c : Nat) (k : Nat) : (endStopped s c k).formed := by
  unfold endStopped
  grind [formed_modWarp, formed_modOp, formed_deliverOwed, formed_sweepOps, formed_passOn]

theorem formed_passBy {s : State} (h : s.formed) (x : Clause) (k : Nat) (ls : List Nat) :
    (passBy x s k ls).formed := by
  unfold passBy
  grind [formed_leave, formed_modLane, formed_foldl]

theorem formed_selfNow {s : State} (h : s.formed) (id : Nat) (accs : List LaneAcc) : (selfNow s id accs).formed := by
  unfold selfNow
  grind [formed_storeAt, formed_finishLoad, formed_finishStore, formed_foldl]

theorem formed_memWarp {s : State} (h : s.formed) (m : MemForm) (x : Clause) (k : Nat) (ls : List Nat) :
    (memWarp m x s k ls).formed := by
  unfold memWarp
  extract_lets c e owner prior ex act loads done0 set repro isHelper live res row fates hidden sent walks parks fatal
      goers rest done stops s1
    own away s2 opId flag o bumped s3 hold s4 s5 s6 later s7
  rcases memCheck m s e ex act with _ | ⟨cause, on, addr⟩
  case some => exact formed_raiseTrap h ..
  have hres : res.1.formed := formed_memResolveAll h ..
  have h1 : s1.formed := formed_foldl _ _ hres fun _ _ hs => formed_zeroLane hs ..
  have h2 : s2.formed := formed_ite (formed_release h1 ..) h1
  have h3 : s3.formed := by
    unfold s3
    cases s2.ops.at? opId with
    | some _ => exact h2
    | none => exact formed_ite h2 (formed_raiseFlag (s := { s2.bump with ops := _ }) h2 ..)
  have h4 : s4.formed := formed_selfNow (formed_ite (formed_parkAll h3 ..) h3) ..
  have h5 : s5.formed := formed_setLatches h4 ..
  have h6 : s6.formed := formed_stopAt (formed_passBy h5 ..) ..
  have h7 : s7.formed := formed_foldl _ _ h6 fun _ _ hs => formed_park hs ..
  refine formed_ite (formed_parkAll h ..) (formed_ite (formed_raiseTrap hres ..) (formed_ite (formed_ite
      (formed_endStopped h5 ..) h5) ?_))
  cases (if later then [] else fatal) with
  | nil => exact formed_parkFaults (formed_parkAll h7 ..) ..
  | cons _ _ => exact formed_raiseTrap h6 ..

theorem formed_memory {s : State} (h : s.formed) (m : MemForm) : (memory m s).formed := by
  unfold memory
  grind [formed_issue, formed_memWarp]

theorem formed_markSent {s : State} (h : s.formed) (id : Nat) (ls : List Nat) : (markSent s id ls).formed := h

theorem formed_sendLoad {s : State} (h : s.formed) (id : Nat) (o : MemOp) (a : LaneAcc) (q : Nat) (pa : Nat) :
    (sendLoad s id o a q pa).formed := by
  unfold sendLoad
  grind [formed_sendPacket, formed_markSent]

theorem formed_sendStore {s : State} (h : s.formed) (id : Nat) (o : MemOp) (a : LaneAcc) (q : Nat) (pa : Nat) :
    (sendStore s id o a q pa).formed := by
  unfold sendStore
  grind [formed_sendPacket, formed_markSent]

theorem formed_sendAtomic {s : State} (h : s.formed) (id : Nat) (o : MemOp) (a : LaneAcc) (q : Nat) (pa : Nat)
        (op : AtomOp) (t : Ty) (returns : Bool) :
    (sendAtomic s id o a q pa op t returns).formed := by
  unfold sendAtomic
  grind [formed_sendPacket, formed_markSent]

theorem formed_freeFaulted {s : State} (h : s.formed) (c : Nat) (k : Nat) (op : Nat) :
    (freeFaulted s c k op).formed := by
  unfold freeFaulted
  grind [formed_modWarp]

theorem formed_unpop {s : State} (h : s.formed) (c : Nat) (k : Nat) (id : Nat) (ls : List Nat) (w : Wait) :
    (unpop s c k id ls w).formed := by
  unfold unpop
  grind [formed_modWarp, formed_modOp, formed_modLane, formed_freeFaulted, formed_foldl]

theorem formed_landReturn {s : State} (h : s.formed) (c : Nat) (k : Nat) (o : Owner) (a : LaneAcc) :
    (landReturn s c k o a).formed := by
  unfold landReturn
  grind [formed_modWarp, formed_landAt]

theorem formed_finalizePops {s : State} (h : s.formed) (id : Nat) : (finalizePops s id).formed := by
  unfold finalizePops
  grind [formed_haltControl, formed_raiseTrap, formed_joinFault, formed_fetchLine, formed_checkTarget,
      formed_checkTargets, formed_dropAcc, formed_noteFetches, formed_landAt, formed_freeFaulted, formed_unpop,
      formed_landReturn, formed_foldl]

theorem formed_finalizeAll {s : State} (h : s.formed) : (finalizeAll s).formed := by
  unfold finalizeAll
  grind [formed_finalizePops, formed_foldl]

theorem formed_popReturned {s : State} (h : s.formed) (id : Nat) (l : Nat) (v : Nat) :
    (popReturned s id l v).formed := h

theorem formed_finishLost {s : State} (h : s.formed) (id : Nat) (o : MemOp) (a : LaneAcc) (q : Nat) :
    (finishLost s id o a q).formed := by
  unfold finishLost
  grind [formed_setLost, formed_finishLoad, formed_finishAtomic, formed_finishPush, formed_finishStore,
      formed_popReturned]

theorem formed_performLane {s : State} (h : s.formed) (id : Nat) (o : MemOp) (a : LaneAcc) :
    (performLane s id o a).formed := by
  unfold performLane
  grind [formed_modOp, formed_dropLines, formed_writeBackLine, formed_multicastHere, formed_setLost,
      formed_noteWriter, formed_loadAt, formed_storeAt, formed_atomAt, formed_finishLoad, formed_finishAtomic,
      formed_finishPush, formed_finishStore, formed_sendLoad, formed_sendStore, formed_sendAtomic,
      formed_popReturned, formed_finishLost, formed_foldl]

theorem formed_releaseFirst {s : State} (h : s.formed) (id : Nat) (o : MemOp) (mask : Word) :
    (releaseFirst s id o mask).formed := by
  unfold releaseFirst
  grind [formed_markDirty, formed_release]

theorem formed_performMask {s : State} (h : s.formed) (id : Nat) (mask : Word) : (performMask s id mask).formed := by
  unfold performMask
  grind [formed_settleOps, formed_finalizePops, formed_performLane, formed_releaseFirst, formed_foldl]

theorem formed_execMemoryAccessDone {s : State} (h : s.formed) (op : Nat) (mask : BitVec 32) :
    Result.Formed (execMemoryAccessDone op mask s) := by
  unfold execMemoryAccessDone
  grind [formed_performMask, result_next]

end Sys2Proof.Machine
end

section
/-! PROOFS. The canonical form of memory (log 1): control flow, waits, barriers and pools. -/

namespace Sys2Proof.Machine

theorem formed_prefetch {s : State} (hs : s.formed) (w : Who) (va : Nat) (h : Hint) (level1 : Bool) :
    (prefetch s w va h level1).formed := by
  unfold prefetch
  grind [formed_resolveNow, formed_fillFor]

theorem formed_execPf {s : State} (h : s.formed) (f : FmtM) : Result.Formed (execPf f s) := by
  unfold execPf
  grind [formed_issue, formed_prefetch, formed_foldl, result_next]

theorem formed_spinBranch {s : State} (h : s.formed) (c : Nat) (k : Nat) (pc : DWord) (taken : Option DWord) :
    (spinBranch s c k pc taken).formed := by
  unfold spinBranch
  grind [formed_modWarp]

theorem formed_transferWarp {s : State} (h : s.formed) (tgt : State → Env → Nat → Option DWord) {go : Clause → State
    → Nat → List Nat → List (Nat × DWord) → State}
  (hgo : ∀ x s k ls takes, s.formed → (go x s k ls takes).formed) (x : Clause) (k : Nat) (ls : List Nat) :
      (transferWarp tgt go x s k ls).formed := by
  unfold transferWarp
  grind [formed_bump, formed_raiseTrap, formed_joinFault, formed_parkAll, formed_checkTargets, formed_noteFetches,
      formed_stopAt, formed_passBy]

theorem formed_markDone {s : State} (h : s.formed) (c : Nat) (k : Nat) (pc : DWord) (ls : List Nat) :
    (markDone s c k pc ls).formed := by
  unfold markDone
  grind [formed_modWarp, formed_endStopped]

theorem formed_branchGo {s : State} (h : s.formed) (x : Clause) (k : Nat) (unused : List Nat) (ts : List
        (Nat × DWord)) :
    (branchGo x s k unused ts).formed := by
  unfold branchGo
  grind [formed_jump, formed_markDone, formed_foldl]

theorem formed_branchWarp {s : State} (h : s.formed) (tgt : State → Env → Nat → Option DWord) (x : Clause) (k : Nat)
        (ls : List Nat) :
    (branchWarp tgt x s k ls).formed := by
  unfold branchWarp
  grind [formed_spinBranch, formed_transferWarp, formed_branchGo]

theorem formed_execBra {s : State} (h : s.formed) (f : FmtB) : Result.Formed (execBra f s) := by
  unfold execBra
  grind [formed_issue, formed_branchWarp, result_next]

theorem formed_execBrt {s : State} (h : s.formed) (f : FmtB) : Result.Formed (execBrt f s) := by
  unfold execBrt
  grind [formed_issue, formed_branchWarp, result_next]

theorem formed_execBrx {s : State} (h : s.formed) (f : FmtB) : Result.Formed (execBrx f s) := by
  unfold execBrx
  grind [formed_issue, formed_branchWarp, result_next]

theorem formed_callGo {s : State} (h : s.formed) (i : Instr) (x : Clause) (k : Nat) (others : List Nat) (ts : List
        (Nat × DWord)) :
    (callGo i x s k others ts).formed := by
  unfold callGo
  grind [formed_modWarp, formed_exitLanes, formed_jump, formed_passBy, formed_memWarp, formed_markDone, formed_foldl]

theorem formed_execCall {s : State} (h : s.formed) (f : FmtB) : Result.Formed (execCall f s) := by
  unfold execCall
  grind [formed_issue, formed_transferWarp, formed_callGo, result_next]

theorem formed_execCallx {s : State} (h : s.formed) (f : FmtB) : Result.Formed (execCallx f s) := by
  unfold execCallx
  grind [formed_issue, formed_transferWarp, formed_callGo, result_next]

theorem formed_execRet {s : State} (h : s.formed) : Result.Formed (execRet s) := by
  unfold execRet
  grind [formed_exitLanes, formed_parkAll, formed_issue, formed_memWarp, formed_finalizePops, result_next]

theorem formed_setBar {s : State} (h : s.formed) (c : Nat) (k : Nat) (b : Nat) (m : Word) :
    (setBar s c k b m).formed := by
  unfold setBar
  grind [formed_modWarp]

theorem formed_releaseRejoin {s : State} (h : s.formed) (c : Nat) (k : Nat) (b : Nat) :
    (releaseRejoin s c k b).formed := by
  unfold releaseRejoin
  grind [formed_passOn, formed_setBar]

theorem formed_execEnrol {s : State} (h : s.formed) (f : FmtB) : Result.Formed (execEnrol f s) := by
  unfold execEnrol
  grind [formed_issue, formed_setBar, result_next]

theorem formed_execRejoin {s : State} (h : s.formed) (f : FmtB) : Result.Formed (execRejoin f s) := by
  unfold execRejoin
  grind [formed_parkAll, formed_issue, formed_releaseRejoin, result_next]

theorem formed_execBclr {s : State} (h : s.formed) (f : FmtB) : Result.Formed (execBclr f s) := by
  unfold execBclr
  grind [formed_issue, formed_setBar, formed_releaseRejoin, result_next]

theorem formed_execBread {s : State} (h : s.formed) (f : FmtB) : Result.Formed (execBread f s) := by
  unfold execBread
  grind [formed_issue, formed_arithWarp, result_next]

theorem formed_execRejoinRelease {s : State} (h : s.formed) (core : Nat) (slot : Nat) (bar : Nat) :
    Result.Formed (execRejoinRelease core slot bar s) := by
  unfold execRejoinRelease
  grind [formed_releaseRejoin, result_next]

theorem formed_execNop {s : State} (h : s.formed) : Result.Formed (execNop s) := by
  unfold execNop
  grind [formed_issue, result_next]

theorem formed_exitWarp {s : State} (h : s.formed) (x : Clause) (k : Nat) (ls : List Nat) :
    (exitWarp x s k ls).formed := by
  unfold exitWarp
  grind [formed_haltControl, formed_exitLanes, formed_release, formed_parkAll, formed_releaseRejoin, formed_foldl]

theorem formed_execExit {s : State} (h : s.formed) : Result.Formed (execExit s) := by
  unfold execExit
  grind [formed_issue, formed_exitWarp, result_next]

theorem formed_fenceNow {s : State} (h : s.formed) (c : Nat) (wg : Option Nat) (o : Order) (sc : Scope) :
    (fenceNow s c wg o sc).formed := by
  unfold fenceNow
  grind [formed_release, formed_acquire]

theorem formed_fenceWarp {s : State} (h : s.formed) (o : Order) (sc : Scope) (x : Clause) (k : Nat) (ls : List Nat) :
    (fenceWarp o sc x s k ls).formed := by
  unfold fenceWarp
  grind [formed_parkAll, formed_fenceNow]

theorem formed_execFence {s : State} (h : s.formed) (f : FmtS) : Result.Formed (execFence f s) := by
  unfold execFence
  grind [formed_issue, formed_fenceWarp, result_next]

theorem formed_registerPass {s : State} (h : s.formed) (c : Nat) (k : Nat) : (registerPass s c k).formed := by
  unfold registerPass
  grind [formed_modWarp, formed_passMilestone]

theorem formed_splitSection {s : State} (h : s.formed) (c : Nat) (k : Nat) : (splitSection s c k).formed := by
  unfold splitSection
  grind [formed_acquire, formed_registerPass]

theorem formed_waitDone {s : State} (h : s.formed) (c : Nat) (k : Nat) (l : Nat) (dst : Operand) (t : Ty)
        (d : BitVec 256) (v : Nat) :
    (waitDone s c k l dst t d v).formed := by
  unfold waitDone
  grind [formed_sweepOps, formed_acquire, formed_writeOwned, formed_dropAcc, formed_noteOwned]

theorem formed_waitIssue {s : State} (h : s.formed) (c : Nat) (k : Nat) (ls : List Nat) (dst : Operand) (t : Ty)
        (n : Nat) (flag : Option Nat) :
    (waitIssue s c k ls dst t n flag).formed := by
  unfold waitIssue
  grind [formed_bump, formed_raiseFlag, formed_mk, forms_state]

theorem formed_waitPark {s : State} (h : s.formed) (c : Nat) (k : Nat) (l : Nat) (d : BitVec 256) (line : Nat) :
    (waitPark s c k l d line).formed := by
  unfold waitPark
  grind [formed_modOp, formed_park, formed_splitSection]

theorem formed_coherentLoad {s : State} (h : s.formed) (c : Nat) (p : Place) (n : Nat) :
    (coherentLoad s c p n).1.formed := by
  unfold coherentLoad
  grind [formed_loadHome]

theorem formed_waitTry {s : State} (h : s.formed) (f : FmtM) (x : Clause) (k l : Nat) (p : Place) (b : Nat) :
    (waitTry f x k s l p b).formed := by
  unfold waitTry
  extract_lets c n d probe a s1
  refine formed_ite (formed_park h ..) ?_
  split
  · refine formed_ite (formed_waitDone (formed_setLost h ..) ..) ?_
    have h1 : s1.formed := formed_waitPark h ..
    cases waitOp s1 c k l with
    | none => exact h1
    | some id => exact formed_sendPacket (s := s1.modOp id _) h1 ..
  · have hr := formed_coherentLoad h
    exact formed_ite (formed_waitPark h ..) (formed_ite (formed_waitDone (hr ..) ..) (formed_waitPark (hr ..) ..))

theorem formed_waitaWarp {s : State} (h : s.formed) (f : FmtM) (x : Clause) (k : Nat) (ls : List Nat) :
    (waitaWarp f x s k ls).formed := by
  unfold waitaWarp
  extract_lets c e base form ex act repro isHelper live res row fates fatal parks zero s0 s1 s2 done s3
  rcases memCheck form s e ex act with _ | ⟨cause, on, addr⟩
  case some => exact formed_raiseTrap h ..
  have hres : res.1.formed := formed_memResolveAll h ..
  have h0 : s0.formed := formed_foldl _ _ hres fun _ _ hs => formed_noteOwned (formed_writeOwned hs ..) ..
  have h1 : s1.formed := formed_waitIssue h0 ..
  have h2 : s2.formed := formed_foldl _ _ h1 fun _ r hs => by
    cases r.2 with
    | sent a => exact formed_waitTry hs ..
    | walk => exact formed_park hs ..
    | _ => exact hs
  have h3 : s3.formed := formed_parkFaults h2 ..
  refine formed_ite (formed_parkAll h ..) (formed_ite (formed_raiseTrap hres ..) ?_)
  cases fatal with
  | nil => exact formed_ite h3 (formed_passBy h3 ..)
  | cons _ _ => exact formed_raiseTrap h2 ..

theorem formed_execWaita {s : State} (h : s.formed) (f : FmtM) : Result.Formed (execWaita f s) := by
  unfold execWaita
  grind [formed_issue, formed_waitaWarp, result_next]

theorem formed_execWaitaRecheck {s : State} (h : s.formed) (core : Nat) (slot : Nat) (lane : Nat) :
    Result.Formed (execWaitaRecheck core slot lane s) := by
  unfold execWaitaRecheck
  grind [formed_wakeAll, result_next]

theorem formed_wgPassOn {s : State} (h : s.formed) (g : Nat) (p : Wait → Bool) : (wgPassOn s g p).formed := by
  unfold wgPassOn
  grind [formed_modWg, formed_passOn, formed_foldl]

theorem formed_tryBarrier {s : State} (h : s.formed) (g : Nat) (b : Nat) : (tryBarrier s g b).formed := by
  unfold tryBarrier
  grind [formed_modWg, formed_acquire, formed_wgPassOn, formed_foldl]

theorem formed_startStream {s : State} (h : s.formed) (c : Nat) (k : Nat) : (startStream s c k).formed := by
  unfold startStream
  grind [formed_modStream, formed_writeBackAll]

theorem formed_barWarp {s : State} (h : s.formed) (b : Nat) (arrives waits : Bool) (x : Clause) (k : Nat)
        (ls : List Nat) :
    (barWarp b arrives waits x s k ls).formed := by
  unfold barWarp
  grind [formed_modWg, formed_raiseTrap, formed_tokenAtBarrier, formed_parkAll, formed_fenceNow, formed_tryBarrier,
      formed_startStream]

theorem formed_execBar {s : State} (h : s.formed) (f : FmtS) : Result.Formed (execBar f s) := by
  unfold execBar
  grind [formed_issue, formed_barWarp, result_next]

theorem formed_execBarArrive {s : State} (h : s.formed) (f : FmtS) : Result.Formed (execBarArrive f s) := by
  unfold execBarArrive
  grind [formed_issue, formed_barWarp, result_next]

theorem formed_execBarWait {s : State} (h : s.formed) (f : FmtS) : Result.Formed (execBarWait f s) := by
  unfold execBarWait
  grind [formed_issue, formed_barWarp, result_next]

theorem formed_execBarrierPhaseComplete {s : State} (h : s.formed) (wg : Nat) (bar : Nat) :
    Result.Formed (execBarrierPhaseComplete wg bar s) := by
  unfold execBarrierPhaseComplete
  grind [formed_tryBarrier, result_next]

theorem formed_execBarrierDeadlock {s : State} (h : s.formed) (wg : Nat) :
    Result.Formed (execBarrierDeadlock wg s) := by
  unfold execBarrierDeadlock
  grind [formed_raiseTrap, formed_foldl, result_next]

theorem formed_execConvergenceTimeout {s : State} (h : s.formed) (core : Nat) (slot : Nat) :
    Result.Formed (execConvergenceTimeout core slot s) := by
  unfold execConvergenceTimeout
  grind [formed_raiseTrap, result_next]

theorem formed_execCollectiveIssue {s : State} (h : s.formed) (core : Nat) (slot : Nat) :
    Result.Formed (execCollectiveIssue core slot s) := by
  unfold execCollectiveIssue
  grind [formed_wakeAll, formed_mk, forms_state, result_next]

theorem formed_tryGrid {s : State} (h : s.formed) (id : Nat) : (tryGrid s id).formed := by
  unfold tryGrid
  grind [formed_modLaunch, formed_acquire, formed_wgPassOn, formed_foldl]

theorem formed_execGridbar {s : State} (h : s.formed) : Result.Formed (execGridbar s) := by
  unfold execGridbar
  grind [formed_modLaunch, formed_raiseTrap, formed_tokenAtBarrier, formed_parkAll, formed_issue, formed_fenceNow,
      formed_tryGrid, result_next]

theorem formed_execGridbarComplete {s : State} (h : s.formed) (launch : Nat) :
    Result.Formed (execGridbarComplete launch s) := by
  unfold execGridbarComplete
  grind [formed_tryGrid, result_next]

theorem formed_reproOnly {s : State} (h : s.formed) {f : WarpStep} (hf : ∀ x s k ls, s.formed → (f x s k ls).formed)
        (x : Clause) (k : Nat) (ls : List Nat) :
    (reproOnly f x s k ls).formed := by
  unfold reproOnly
  grind [formed_raiseTrap]

theorem formed_execCwait {s : State} (h : s.formed) (f : FmtS) : Result.Formed (execCwait f s) := by
  unfold execCwait
  grind [formed_tokenAtBarrier, formed_acquire, formed_park, formed_issue, formed_reproOnly, formed_foldl,
      result_next]

theorem formed_takeToken {s : State} (h : s.formed) (c : Nat) (w : Warp) : (takeToken s c w).formed := by
  unfold takeToken
  grind [formed_modLaunch, formed_acquire]

theorem formed_execRowait {s : State} (h : s.formed) : Result.Formed (execRowait s) := by
  unfold execRowait
  grind [formed_parkAll, formed_issue, formed_reproOnly, formed_takeToken, result_next]

theorem formed_execRopass {s : State} (h : s.formed) : Result.Formed (execRopass s) := by
  unfold execRopass
  grind [formed_passToken, formed_release, formed_parkAll, formed_issue, formed_reproOnly, result_next]

theorem formed_execRowhold {s : State} (h : s.formed) (f : FmtS) : Result.Formed (execRowhold f s) := by
  unfold execRowhold
  grind [formed_issue, formed_putPreds, formed_reproOnly, result_next]

theorem formed_execTokenArrives {s : State} (h : s.formed) (launch : Nat) :
    Result.Formed (execTokenArrives launch s) := by
  unfold execTokenArrives
  grind [formed_modLaunch, formed_passToken, formed_passOn, formed_takeToken, result_next]

theorem formed_execPause {s : State} (h : s.formed) (f : FmtS) : Result.Formed (execPause f s) := by
  unfold execPause
  grind [formed_park, formed_issue, formed_foldl, result_next]

theorem formed_execPauseExpiry {s : State} (h : s.formed) (core : Nat) (slot : Nat) (lane : Nat) :
    Result.Formed (execPauseExpiry core slot lane s) := by
  unfold execPauseExpiry
  grind [formed_passOn, result_next]

theorem formed_onceWarp {s : State} (h : s.formed) {f : Clause → State → Nat → List Nat → Warp → State}
        (hf : ∀ x s k ls w, s.formed → (f x s k ls w).formed) (x : Clause) (k : Nat) (ls : List Nat) :
    (onceWarp f x s k ls).formed := by
  unfold onceWarp
  grind

theorem formed_execMile {s : State} (h : s.formed) : Result.Formed (execMile s) := by
  unfold execMile
  grind [formed_parkAll, formed_issue, formed_splitSection, formed_onceWarp, result_next]

theorem formed_execRsecBegin {s : State} (h : s.formed) (f : FmtS) : Result.Formed (execRsecBegin f s) := by
  unfold execRsecBegin
  grind [formed_modWarp, formed_raiseTrap, formed_acquire, formed_issue, formed_onceWarp, result_next]

theorem formed_execRsecEnd {s : State} (h : s.formed) : Result.Formed (execRsecEnd s) := by
  unfold execRsecEnd
  grind [formed_modWarp, formed_raiseTrap, formed_parkAll, formed_issue, formed_registerPass, formed_onceWarp,
      result_next]

theorem formed_execRsdepth {s : State} (h : s.formed) (f : FmtA) : Result.Formed (execRsdepth f s) := by
  unfold execRsdepth
  grind [formed_issue, formed_arithWarp, result_next]

theorem formed_execGrace {s : State} (h : s.formed) (f : FmtS) : Result.Formed (execGrace f s) := by
  unfold execGrace
  grind [formed_raiseTrap, formed_takeSnapshot, formed_release, formed_parkAll, formed_issue, formed_onceWarp,
      result_next]

theorem formed_linkPa {s : State} (h : s.formed) (c : Nat) (ctx : Nat) (va : Nat) (write : Bool) :
    (linkPa s c ctx va write).1.formed := by
  unfold linkPa
  grind [formed_resolveNow]

theorem formed_poolTake {s : State} (h : s.formed) (c : Nat) (p : Nat) (salt : Nat) (repro : Bool) :
    (poolTake s c p salt repro).1.formed := by
  unfold poolTake
  grind [formed_wrDev, formed_wrMem, formed_linkPa]

theorem formed_poolGive {s : State} (h : s.formed) (c p addr n : Nat) : (poolGive s c p addr n).1.formed := by
  induction n generalizing s addr with
  | zero => exact h
  | succ n ih => grind [poolGive, formed_linkPa, formed_wrMem, formed_wrDev]

theorem formed_poolFree {s : State} (h : s.formed) (c : Nat) (p : Nat) (addr : Nat) (size : Nat) :
    (poolFree s c p addr size).1.formed := by
  unfold poolFree
  grind [formed_poolGive]

theorem formed_lanesTrap {s : State} (h : s.formed) (x : Clause) (k : Nat) (act : List Nat) (chk : Nat → Option
        (Nat × Nat)) :
    ∀ t, lanesTrap x s k act chk = some t → t.formed := by
  unfold lanesTrap
  grind [formed_raiseTrap]

theorem formed_rowTrap {s : State} (h : s.formed) (x : Clause) (k : Nat) (ex : List Nat) :
    ∀ t, rowTrap x s k ex = some t → t.formed := by
  unfold rowTrap
  grind [formed_raiseTrap]

theorem formed_poolFails {s : State} (h : s.formed) (c k : Nat) (pc : DWord) (done : List Nat) (o : Option
        (Nat × Nat × Nat)) :
    (poolFails s c k pc done o).formed := by
  unfold poolFails
  grind [formed_raiseTrap, formed_killLaunch]

theorem formed_execBalloc {s : State} (h : s.formed) (f : FmtA) : Result.Formed (execBalloc f s) := by
  unfold execBalloc
  grind [formed_issue, formed_setLatches, formed_putResults, formed_putPreds, formed_queueWarp, formed_poolTake,
      formed_lanesTrap, formed_rowTrap, formed_poolFails, formed_foldl_pair, Option.or_eq_some_iff, result_next]

theorem formed_execBfree {s : State} (h : s.formed) (f : FmtS) : Result.Formed (execBfree f s) := by
  unfold execBfree
  grind [formed_issue, formed_poolFree, formed_lanesTrap, formed_rowTrap, formed_poolFails, formed_foldl_pair,
      Option.or_eq_some_iff, result_next]

theorem formed_execBpstat {s : State} (h : s.formed) (f : FmtA) : Result.Formed (execBpstat f s) := by
  unfold execBpstat
  grind [formed_issue, formed_setLatches, formed_arithApply, formed_queueWarp, formed_lanesTrap, formed_rowTrap,
      Option.or_eq_some_iff, result_next]

theorem formed_execDfree {s : State} (h : s.formed) (f : FmtS) : Result.Formed (execDfree f s) := by
  unfold execDfree
  grind [formed_park, formed_parkAll, formed_issue, formed_lanesTrap, formed_mk, forms_state, formed_foldl,
      result_next]

theorem formed_dfRelease {s : State} (h : s.formed) (e : DfEntry) : (dfRelease s e).formed := by
  unfold dfRelease
  grind [formed_logEvent, formed_killLaunch, formed_poolFree]

theorem formed_wakeWait {s : State} (h : s.formed) (p : Wait → Bool) : (wakeWait s p).formed := by
  unfold wakeWait
  grind [formed_mk, forms_state, Forms.mapV]

theorem formed_dfReleaseAll {s : State} (h : s.formed) (p : DfEntry → Bool) : (dfReleaseAll s p).formed := by
  unfold dfReleaseAll
  grind [formed_dfRelease, formed_wakeWait, formed_mk, forms_state, formed_foldl]

theorem formed_passAllOn {s : State} (h : s.formed) (p : Wait → Bool) : (passAllOn s p).formed := by
  unfold passAllOn
  grind [formed_modWg, formed_passOn, formed_foldl]

theorem formed_execGraceComplete {s : State} (h : s.formed) (snap : Nat) :
    Result.Formed (execGraceComplete snap s) := by
  unfold execGraceComplete
  grind [formed_wakeWait, formed_dfReleaseAll, formed_passAllOn, formed_mk, forms_state, result_next]

theorem formed_execInternalGrace {s : State} (h : s.formed) (span : Bool) :
    Result.Formed (execInternalGrace span s) := by
  unfold execInternalGrace
  grind [formed_takeSnapshot, result_next]

theorem formed_execQpeek {s : State} (h : s.formed) (f : FmtA) : Result.Formed (execQpeek f s) := by
  unfold execQpeek
  grind [formed_raiseTrap, formed_acquire, formed_parkAll, formed_issue, formed_setLatches, formed_putPreds,
      formed_arithApply, result_next]

theorem formed_execQcfg {s : State} (h : s.formed) (f : FmtS) : Result.Formed (execQcfg f s) := by
  unfold execQcfg
  grind [formed_modWg, formed_raiseTrap, formed_issue, formed_onceWarp, result_next]

theorem formed_execQstat {s : State} (h : s.formed) (f : FmtA) : Result.Formed (execQstat f s) := by
  unfold execQstat
  grind [formed_raiseTrap, formed_issue, formed_arithWarp, result_next]

theorem formed_queueWake {s : State} (h : s.formed) (g : Nat) (w : Wait) : (queueWake s g w).formed := by
  unfold queueWake
  grind [formed_wakeAll, formed_mk, forms_state, formed_foldl, Forms.mapV]

theorem formed_execQueuePushUnblock {s : State} (h : s.formed) (wg : Nat) (q : Nat) :
    Result.Formed (execQueuePushUnblock wg q s) := by
  unfold execQueuePushUnblock
  grind [formed_queueWake, result_next]

theorem formed_execQueuePopUnblock {s : State} (h : s.formed) (wg : Nat) (q : Nat) :
    Result.Formed (execQueuePopUnblock wg q s) := by
  unfold execQueuePopUnblock
  grind [formed_queueWake, result_next]

theorem formed_copyDst {s : State} (h : s.formed) (c : Nat) (x : CopyCmd) (va : Nat) :
    (copyDst s c x va).1.formed := by
  unfold copyDst
  grind [formed_resolveNow]

end Sys2Proof.Machine
end

section
/-! PROOFS. The canonical form of memory (log 1): queues, copies and populations. -/

namespace Sys2Proof.Machine

theorem formed_modChan {s : State} (h : s.formed) (c : Nat) (ch : Nat) (f : Chan → Chan) :
    (State.modChan s c ch f).formed := by
  unfold State.modChan
  grind [formed_modCore]

theorem formed_modCmd {s : State} (h : s.formed) (c : Nat) (ch : Nat) (f : CopyCmd → CopyCmd) :
    (State.modCmd s c ch f).formed := by
  unfold State.modCmd
  grind [formed_modChan]

theorem formed_lowerFlagOf {s : State} (h : s.formed) (wg : Nat) (warpid : Nat) (flag : Option Nat) :
    (lowerFlagOf s wg warpid flag).formed := by
  unfold lowerFlagOf
  grind [formed_modSaved, formed_lowerFlag, formed_settleOps]

theorem formed_endCopy {s : State} (h : s.formed) (c : Nat) (ch : Nat) (x : CopyCmd) : (endCopy s c ch x).formed := by
  unfold endCopy
  grind [formed_freeOwnership, formed_lowerFlagOf]

theorem formed_killCopy {s : State} (h : s.formed) (c : Nat) (ch : Nat) : (killCopy s c ch).formed := by
  unfold killCopy
  grind [formed_modCmd, formed_endCopy]

theorem formed_of_acceptCopy_taken {s : State} (h : s.formed) (c ch : Nat) (x : CopyCmd) {t : State}
    (ht : acceptCopy s c ch x = .taken t) :
    t.formed := by
  unfold acceptCopy at ht
  grind [formed_engineStart, formed_modChan, formed_freeOwnership, formed_raiseFlag]

theorem formed_of_acceptCopy_parks {s : State} (h : s.formed) (c ch : Nat) (x : CopyCmd) {t : State} {id : Nat}
    (ht : acceptCopy s c ch x = .parks t id) : t.formed := by
  unfold acceptCopy at ht
  grind [formed_joinFault]

theorem formed_engineWarp {s : State} (h : s.formed) {f : Clause → State → Nat → List Nat → List Nat → Warp → State}
        (hf : ∀ x s k ls ex w, s.formed → (f x s k ls ex w).formed) (x : Clause) (k : Nat) (ls : List Nat) :
    (engineWarp f x s k ls).formed := by
  unfold engineWarp
  grind

theorem formed_copyWarp {s : State} (h : s.formed) (f : FmtS) (form : (Operand → Pos → Nat) → CopyForm) (src len :
        (Operand → Pos → Nat) → Nat) (bad : (Operand → Pos → Nat) → Bool) (x : Clause) (k : Nat) (ls : List Nat) :
    (copyWarp f form src len bad x s k ls).formed := by
  unfold copyWarp
  grind [formed_raiseTrap, formed_parkAll, formed_modChan, formed_of_acceptCopy_taken, formed_of_acceptCopy_parks,
      formed_engineWarp]

theorem formed_execCpy {s : State} (h : s.formed) (f : FmtS) : Result.Formed (execCpy f s) := by
  unfold execCpy
  grind [formed_issue, formed_copyWarp, result_next]

theorem formed_execCpy2d {s : State} (h : s.formed) (f : FmtS) : Result.Formed (execCpy2d f s) := by
  unfold execCpy2d
  grind [formed_issue, formed_copyWarp, result_next]

theorem formed_execCpymc {s : State} (h : s.formed) (f : FmtS) : Result.Formed (execCpymc f s) := by
  unfold execCpymc
  grind [formed_issue, formed_copyWarp, result_next]

theorem formed_execCpfill {s : State} (h : s.formed) (f : FmtS) : Result.Formed (execCpfill f s) := by
  unfold execCpfill
  grind [formed_issue, formed_copyWarp, result_next]

theorem formed_execCpkill {s : State} (h : s.formed) (f : FmtS) : Result.Formed (execCpkill f s) := by
  unfold execCpkill
  grind [formed_issue, formed_killCopy, formed_engineWarp, result_next]

theorem formed_readChan {s : State} (h : s.formed) (c : Nat) (ch : Nat) : (readChan s c ch).formed := by
  unfold readChan
  grind [formed_markDirty, formed_dropLines, formed_modCmd]

theorem formed_execLdwp {s : State} (h : s.formed) (f : FmtA) : Result.Formed (execLdwp f s) := by
  unfold execLdwp
  grind [formed_issue, formed_arithWarp, formed_readChan, result_next]

theorem formed_execWaitwp {s : State} (h : s.formed) (f : FmtA) : Result.Formed (execWaitwp f s) := by
  unfold execWaitwp
  grind [formed_park, formed_issue, formed_setLatches, formed_putResults, formed_readChan, formed_foldl, result_next]

theorem formed_execWaitwpWake {s : State} (h : s.formed) (core : Nat) (slot : Nat) (lane : Nat) :
    Result.Formed (execWaitwpWake core slot lane s) := by
  unfold execWaitwpWake
  grind [formed_passOn, formed_putResults, formed_readChan, result_next]

theorem formed_execCopyAccept {s : State} (h : s.formed) (core : Nat) (ch : Nat) :
    Result.Formed (execCopyAccept core ch s) := by
  unfold execCopyAccept
  grind [formed_raiseTrap, formed_parkAll, formed_passOn, formed_wakeAll, formed_modChan, formed_of_acceptCopy_taken,
      formed_of_acceptCopy_parks, result_next]

theorem formed_copyFault {s : State} (h : s.formed) (c : Nat) (ch : Nat) (x : CopyCmd) (cause : Nat) (va : Nat)
        (write : Bool) :
    (copyFault s c ch x cause va write).formed := by
  unfold copyFault
  grind [formed_engineTrap, formed_joinFault, formed_modCmd, formed_killCopy]

theorem formed_copyLost {s : State} (h : s.formed) (c : Nat) (ch : Nat) (x : CopyCmd) (va : Nat) :
    (copyLost s c ch x va).formed := by
  unfold copyLost
  grind [formed_engineTrap, formed_killCopy]

theorem formed_copyAdvance {s : State} (h : s.formed) (c : Nat) (ch : Nat) : (copyAdvance s c ch).formed := by
  unfold copyAdvance
  grind [formed_dropOwnership, formed_modChan, formed_modCmd]

theorem formed_copyOwn {s : State} (h : s.formed) (c : Nat) (ch : Nat) (x : CopyCmd) (pa : Nat) :
    ∀ t, copyOwn s c ch x pa = some t → t.formed := by
  unfold copyOwn
  grind [formed_engineStart]

theorem formed_copyWrite {s : State} (h : s.formed) (c : Nat) (ch : Nat) (x : CopyCmd) (v : Nat) :
    (copyWrite s c ch x v).formed := by
  unfold copyWrite
  grind [formed_wrStore, formed_wrMem, formed_l2Write, formed_sendPacket, formed_multicastHere, formed_setLost,
      formed_copyDst, formed_modCmd, formed_copyFault, formed_copyLost, formed_copyAdvance, formed_copyOwn,
      formed_foldl]

theorem formed_copyStep {s : State} (h : s.formed) (c : Nat) (ch : Nat) : (copyStep s c ch).formed := by
  unfold copyStep
  grind [formed_resolveNow, formed_l2Touch, formed_sendPacket, formed_setLost, formed_modCmd, formed_copyFault,
      formed_copyLost, formed_copyWrite]

theorem formed_execCopyLineDelivered {s : State} (h : s.formed) (core : Nat) (ch : Nat) :
    Result.Formed (execCopyLineDelivered core ch s) := by
  unfold execCopyLineDelivered
  grind [formed_copyStep, result_next]

theorem formed_copyAnswer {s : State} (h : s.formed) (c : Nat) (ch : Nat) (seq : Nat) (p : Nat) (v : Nat) :
    (copyAnswer s c ch seq p v).formed := by
  unfold copyAnswer
  grind [formed_modCmd, formed_copyAdvance, formed_copyWrite]

theorem formed_execCopyDone {s : State} (h : s.formed) (core : Nat) (ch : Nat) :
    Result.Formed (execCopyDone core ch s) := by
  unfold execCopyDone
  grind [formed_enginePublish, formed_modChan, formed_endCopy, result_next]

theorem formed_crossWarp {s : State} (h : s.formed) (dst : Option (Operand × Pos)) (pw : Option (BitVec 3))
        (g : State → Env → List Nat → Nat → Nat × Bool) (x : Clause) (k : Nat) (ls : List Nat) :
    (crossWarp dst pw g x s k ls).formed := by
  unfold crossWarp
  grind [formed_noteWrites, formed_setLatches, formed_writeResults, formed_writePreds]

theorem formed_cross {s : State} (h : s.formed) (i : Instr) (ops : List (Operand × Pos)) (dst : Option
        (Operand × Pos)) (pw : Option (BitVec 3)) (g : State → Env → List Nat → Nat → Nat × Bool) :
    (cross i ops dst pw g s).formed := by
  unfold cross
  grind [formed_issue, formed_crossWarp]

theorem formed_shuffle {s : State} (h : s.formed) (i : Instr) (f : FmtA) (src : State → Env → Nat → Option Nat) :
    (shuffle i f src s).formed := by
  unfold shuffle
  grind [formed_cross]

theorem formed_askTask {s : State} (h : s.formed) (id : Nat) (q : Nat) (pa : Nat) (t : RootTask) :
    (askTask s id q pa t).formed := by
  unfold askTask
  grind [formed_sendPacket]

theorem formed_pushFree {s : State} (h : s.formed) (e : DfEntry) (va : Nat) :
    ∀ t, pushFree s e va = some t → t.formed := by
  unfold pushFree
  grind [formed_mk, forms_state]

theorem formed_runTasks {s : State} (h : s.formed) (id n : Nat) (j : RootJob) : (runTasks id n s j).1.formed := by
  induction n generalizing s j with
  | zero => exact h
  | succ n ih =>
    unfold runTasks
    split
    · exact h
    · split
      · exact ih (formed_pushFree h _ _ _ ‹_›) _
      · exact h
    · grind [formed_mk, forms_state]
    · split
      · exact h
      · split
        · exact formed_askTask h ..
        · exact ih h _
      · split
        · exact h
        · extract_lets v
          split
          · exact h
          · refine ih ?_ _
            split
            · exact formed_wrMem h ..
            · exact h

theorem formed_modPop {s : State} (h : s.formed) (p : Nat) (f : Population → Population) :
    (State.modPop s p f).formed := h

theorem formed_modParticle {s : State} (h : s.formed) (p : Nat) (i : Nat) (f : Particle → Particle) :
    (State.modParticle s p i f).formed := h

theorem formed_execPwadd {s : State} (h : s.formed) (f : FmtA) : Result.Formed (execPwadd f s) := by
  unfold execPwadd
  grind [formed_raiseTrap, formed_issue, formed_modParticle, formed_foldl_pair, result_next]

theorem formed_rsbEnd {s : State} (h : s.formed) (c : Nat) (k : Nat) (ls : List Nat) (d : Operand) (pw : BitVec 3)
        (status : Nat) :
    (rsbEnd s c k ls d pw status).formed := by
  unfold rsbEnd
  grind [formed_passOn, formed_putResults, formed_putPreds]

theorem formed_rsbRelease {s : State} (h : s.formed) (id status : Nat) (p : Nat → Warp → Nat → Bool) :
    (rsbRelease s id status p).formed := by
  refine formed_foldl _ _ h fun s e hs => ?_
  extract_lets s1
  have h1 : s1.formed := formed_foldl _ _ hs fun _ _ hs => formed_foldl _ _ hs fun _ _ hs => by
    split
    · exact formed_rsbEnd hs ..
    · exact hs
  cases e.2.saved with
  | none => exact h1
  | some v =>
    refine formed_foldl _ _ h1 fun _ _ hs => formed_foldl _ _ hs fun _ _ hs => ?_
    split
    · exact formed_modSaved (formed_writeOwned hs ..) ..
    · exact hs

theorem formed_lateArrival {s : State} (h : s.formed) (p : Nat) (i : Nat) : (lateArrival s p i).formed := by
  unfold lateArrival
  grind [formed_logEvent, formed_modParticle]

theorem formed_lateGrain {s : State} (h : s.formed) (id : Nat) (p : Nat) (i : Nat) : (lateGrain s id p i).formed := by
  unfold lateGrain
  grind [formed_modPop, formed_rsbRelease, formed_lateArrival]

theorem formed_execRsb {s : State} (h : s.formed) (f : FmtA) : Result.Formed (execRsb f s) := by
  refine result_next (formed_issue h _ _ fun x s k ls hs => formed_onceWarp hs (fun x s k ls w hs => ?_) x k ls)
  extract_lets c ex wait s1 slot act help i
  have hwait {s : State} (hs : s.formed) (ls : List Nat) : (wait s ls).formed := formed_foldl _ _ hs
      fun _ _ hs => formed_park hs ..
  rcases s.launchOf c k with _ | y
  · exact formed_raiseTrap hs ..
  rcases popOfLaunch s w.launch with _ | ⟨p, q⟩
  · exact formed_raiseTrap hs ..
  refine formed_ite (formed_raiseTrap hs ..) (formed_ite (formed_parkAll hs ..) ?_)
  extract_lets stale late new now s2 s3 go s4 t2
  have h1 : s1.formed := formed_release (formed_tokenAtBarrier hs ..) ..
  have h3 : s3.formed := formed_foldl _ _ (formed_foldl _ _ h1 fun _ _ hs => formed_lateArrival hs ..)
      fun _ _ hs => hs
  have h4 : s4.formed := formed_ite h3 (formed_putPreds (formed_foldl _ _ h3
      fun _ _ hs => formed_putResults hs ..) ..)
  exact formed_ite (hwait h4 _) (formed_lateGrain (hwait (s := t2) h1 _) ..)

theorem formed_launchAcquire {s : State} (h : s.formed) (id : Nat) (sc : Scope) : (launchAcquire s id sc).formed := by
  unfold launchAcquire
  grind [formed_acquire, formed_foldl]

theorem formed_finishPop {s : State} (h : s.formed) (p : Nat) (ready : List Nat) (status : Nat) :
    (finishPop s p ready status).formed := by
  unfold finishPop
  grind [formed_modPop, formed_rsbRelease, formed_lateGrain, formed_launchAcquire, formed_foldl]

theorem formed_jobDone {s : State} (h : s.formed) (j : RootJob) : (jobDone s j).formed := by
  unfold jobDone
  grind [formed_modLaunch, formed_wakeDrain, formed_finishPop, formed_foldl]

theorem formed_driveJob {s : State} (h : s.formed) (id : Nat) : (driveJob s id).formed := by
  unfold driveJob
  grind [formed_killLaunch, formed_runTasks, formed_jobDone, formed_mk, forms_state]

theorem formed_driveJobs {s : State} (h : s.formed) : (driveJobs s).formed := by
  unfold driveJobs
  grind [formed_driveJob, formed_foldl]

theorem formed_startJob {s : State} (h : s.formed) (id : Nat) (p : Nat) (q : Population) (slot : Option Nat)
        (tasks : List RootTask) :
    (startJob s id p q slot tasks).formed := by
  unfold startJob
  grind [formed_driveJob, formed_mk, forms_state]

theorem formed_jobAnswer {s : State} (h : s.formed) (id : Nat) (v : Nat) : (jobAnswer s id v).formed := by
  unfold jobAnswer
  grind [formed_killLaunch, formed_driveJob, formed_mk, forms_state]

theorem formed_setRoot {s : State} (h : s.formed) (id : Nat) (p : Nat) (i : Nat) (root : DWord) :
    (setRoot s id p i root).formed := by
  unfold setRoot
  grind [formed_modParticle, formed_startJob]

theorem formed_execPsetroot {s : State} (h : s.formed) (f : FmtA) : Result.Formed (execPsetroot f s) := by
  refine result_next (formed_issue h _ _ fun x s k ls hs => ?_)
  extract_lets c ex flag6 whole act again busy
  cases s.warp? c k with
  | none => exact hs
  | some w =>
    refine formed_ite hs (formed_ite (formed_raiseTrap hs ..) (formed_ite hs (formed_ite (formed_parkAll hs ..) ?_)))
    extract_lets s1 s2
    have h1 : s1.formed := formed_release hs ..
    have h2 : s2.formed := formed_foldl _ _ h1 fun _ _ hs => by
      split
      · exact formed_setRoot hs ..
      · exact hs
    exact formed_ite (formed_parkAll h2 ..) h2

theorem formed_applyDecision {s : State} (h : s.formed) (p : Nat) (id : Nat) (q : Population) (ready : List Nat)
        (clones : List (Nat × Nat)) :
    (applyDecision s p id q ready clones).formed := by
  unfold applyDecision
  grind [formed_modPop, formed_startJob]

theorem formed_closePop {s : State} (h : s.formed) (p : Nat) : (closePop s p).formed := by
  unfold closePop
  grind [formed_modLaunch, formed_logEvent, formed_modPop, formed_finishPop, formed_applyDecision, formed_foldl]

theorem formed_execArrivalReport {s : State} (h : s.formed) (pop : Nat) (particle : Nat) (weight : Option Int)
        (root : DWord) :
    Result.Formed (execArrivalReport pop particle weight root s) := by
  unfold execArrivalReport
  grind [formed_modPop, formed_lateGrain, result_next]

theorem formed_execPopBarrierClose {s : State} (h : s.formed) (pop : Nat) :
    Result.Formed (execPopBarrierClose pop s) := by
  unfold execPopBarrierClose
  grind [formed_closePop, result_next]

theorem formed_execStragglerDeadline {s : State} (h : s.formed) (pop : Nat) :
    Result.Formed (execStragglerDeadline pop s) := by
  unfold execStragglerDeadline
  grind [formed_closePop, result_next]

end Sys2Proof.Machine
end

section
/-! PROOFS. The canonical form of memory (log 1): the matrix engine. -/

namespace Sys2Proof.Machine

theorem formed_modEngine {s : State} (h : s.formed) (c : Nat) (f : Engine → Engine) :
    (State.modEngine s c f).formed := by
  unfold State.modEngine
  grind [formed_modCore]

theorem formed_fetchOne {s : State} (h : s.formed) (c : Nat) (k : Nat) (va : Nat) : (fetchOne s c k va).1.formed := by
  unfold fetchOne
  grind [formed_bump, formed_resolveNow, formed_sendPacket, formed_setLost, formed_modEngine]

theorem formed_fetchLines {s : State} (h : s.formed) (c k : Nat) (L : List Nat) : (fetchLines s c k L).1.formed := by
  induction L generalizing s with
  | nil => exact h
  | cons va L ih =>
    have hone : (fetchOne s c k va).1.formed := formed_fetchOne h ..
    have htail := ih hone
    unfold fetchLines
    rcases hf : fetchOne s c k va with ⟨s1, (_ | _ | _ | _) | d⟩ <;> rw [hf] at hone htail
    case error.wait | ok =>
      rcases hg : fetchLines s1 c k L with ⟨s2, _ | m⟩ <;> simpa [hg] using htail
    all_goals exact hone

theorem formed_readSwatch {s : State} (h : s.formed) (c k id : Nat) : (readSwatch s c k id).1.formed := by
  unfold readSwatch
  split
  · exact h
  extract_lets a z need
  have hl := formed_fetchLines (formed_writeBackAll h c) c k need
  split
  · exact h
  split
  · exact formed_fst hl ‹_›
  · exact formed_fst hl ‹_›
  · exact formed_fst hl ‹_›
  next s1 m hf =>
    exact formed_modCore (formed_foldl _ _ (formed_fst hl hf) fun _ _ hs => formed_l2Touch hs ..) _ _ fun _ => rfl

theorem formed_bindTile {s : State} (h : s.formed) (c : Nat) (k : Nat) (t : Nat) (g : Nat) :
    (bindTile s c k t g).formed := by
  unfold bindTile
  grind [formed_modWarp, formed_modStore, Mem.wf_clear, Mem.wf_wr]

theorem formed_setTileWord {s : State} (h : s.formed) (c : Nat) (g : Nat) (r : Nat) (col : Nat) (v : Nat) :
    (setTileWord s c g r col v).formed := by
  unfold setTileWord
  grind [formed_wrStore]

theorem formed_setTile {s : State} (h : s.formed) (c : Nat) (g : Nat) (f : Nat → Nat → Nat) :
    (setTile s c g f).formed := by
  unfold setTile
  grind [formed_modCore, formed_modStore, Mem.wf_splice, Mem.wf_wr]

theorem formed_withTile {s : State} (h : s.formed) (t : Nat) {f : State → Nat → State} (hf : ∀ s g, s.formed →
        (f s g).formed) (x : Clause) (k : Nat) (ls ex : List Nat) :
    (withTile t f x s k ls ex).formed := by
  unfold withTile
  grind [formed_raiseTrap, formed_parkAll, formed_bindTile]

theorem formed_execTileBindGrant {s : State} (h : s.formed) (core : Nat) :
    Result.Formed (execTileBindGrant core s) := by
  unfold execTileBindGrant
  grind [formed_wakeAll, result_next]

theorem formed_execTileBindTimeout {s : State} (h : s.formed) (core : Nat) :
    Result.Formed (execTileBindTimeout core s) := by
  unfold execTileBindTimeout
  grind [formed_raiseTrap, formed_wakeAll, result_next]

theorem formed_takeEngine {s : State} (h : s.formed) (c : Nat) (k : Nat) :
    ∀ t, takeEngine s c k = some t → t.formed := by
  unfold takeEngine
  grind [formed_modEngine]

theorem formed_withEngine {s : State} (h : s.formed) {f : State → State} (hf : ∀ s, s.formed → (f s).formed)
        (x : Clause) (k : Nat) (ls : List Nat) :
    (withEngine f x s k ls).formed := by
  unfold withEngine
  grind [formed_parkAll, formed_modEngine, formed_takeEngine]

theorem formed_execLeaseHandoff {s : State} (h : s.formed) (core : Nat) :
    Result.Formed (execLeaseHandoff core s) := by
  unfold execLeaseHandoff
  grind [formed_passOn, formed_wakeAll, formed_modEngine, result_next]

theorem formed_execMacq {s : State} (h : s.formed) : Result.Formed (execMacq s) := by
  unfold execMacq
  grind [formed_parkAll, formed_issue, formed_modEngine, result_next]

theorem formed_execMrel {s : State} (h : s.formed) : Result.Formed (execMrel s) := by
  unfold execMrel
  grind [formed_issue, formed_modEngine, result_next]

theorem formed_dropFetched {s : State} (h : s.formed) (c : Nat) (k : Nat) : (dropFetched s c k).formed := by
  unfold dropFetched
  grind [formed_modEngine]

theorem formed_fetchStops {s : State} (h : s.formed) (x : Clause) (k : Nat) (ls : List Nat) (kind : AccKind)
        (e : FetchStop) :
    (fetchStops x s k ls kind e).formed := by
  cases e <;> grind [fetchStops, formed_parkAll, formed_joinFault, formed_passBy, formed_dropFetched,
      formed_freeKept, formed_raiseTrap]

theorem formed_matTrap {s : State} (h : s.formed) (x : Clause) (k : Nat) (ex : List Nat) (cause : Nat) (engine : Nat) :
    (matTrap x s k ex cause engine).formed := by
  unfold matTrap
  grind [formed_raiseTrap, formed_freeKept, formed_dropFetched]

theorem formed_withSwatch {s : State} (h : s.formed) (id : Nat) {f : State → Swatch → State} (hf : ∀ s y, s.formed →
        (f s y).formed) (x : Clause) (k : Nat) (ls ex : List Nat) :
    (withSwatch id f x s k ls ex).formed := by
  unfold withSwatch
  grind [formed_readSwatch, formed_fetchStops, formed_matTrap]

theorem formed_matOwn {s : State} (h : s.formed) (c : Nat) (k : Nat) (write : Bool) (lines : List Nat) :
    ∀ r, matOwn s c k write lines = some r → r.1.formed := by
  unfold matOwn
  grind [formed_modWarp, formed_bump, formed_engineStart]

theorem formed_pinLines {s : State} (h : s.formed) (ls : List (Nat × Hint)) : (pinLines s ls).1.formed := by
  unfold pinLines
  grind [formed_l2Touch, formed_mk, forms_state, formed_foldl_pair]

theorem formed_pend {s : State} (h : s.formed) (x : Clause) (k : Nat) (id : Nat) (fs : FlagSel) (wrote : List Nat)
        (pins : List Nat) (acks : Nat) :
    (pend s x k id fs wrote pins acks).formed := by
  unfold pend
  grind [formed_modWarp, formed_raiseFlag, formed_modEngine, formed_dropFetched]

theorem formed_modMat {s : State} (h : s.formed) (id : Nat) (f : MatOp → MatOp) : (modMat s id f).formed := by
  unfold modMat
  grind [formed_mk, forms_state, Forms.mapV]

theorem formed_openMat {s : State} (h : s.formed) (x : Clause) (k : Nat) (id : Nat) (fs : FlagSel) :
    (openMat s x k id fs).formed := by
  unfold openMat
  grind [formed_raiseFlag, formed_modEngine]

theorem formed_closeMat {s : State} (h : s.formed) (c : Nat) (k : Nat) (id : Nat) : (closeMat s c k id).formed := by
  unfold closeMat
  grind [formed_modWarp, formed_modEngine, formed_dropFetched, formed_modMat]

theorem formed_withTileFetch {s : State} (h : s.formed) (x : Clause) (k : Nat) (ls ex : List Nat) (fs : FlagSel)
    (need : List (Hint × List Nat)) {run : State → NMap (BitVec 1024) → State} (hrun : ∀ s m, s.formed →
        (run s m).formed) :
    (withTileFetch x s k ls ex fs need run).formed := by
  refine formed_ite (formed_matTrap h ..) ?_
  split
  · exact formed_parkAll h ..
  next s1 id hown =>
    have h1 : s1.formed := formed_matOwn h _ _ _ _ _ hown
    have hl := formed_fetchLines h1
    split
    · exact formed_fetchStops (formed_fst (hl ..) ‹_›) ..
    next s2 m hf =>
      have h2 : s2.formed := formed_fst (hl ..) hf
      exact formed_ite (formed_parkAll h2 ..) (formed_pend (hrun _ _ (formed_pinLines h2 ..)) ..)

theorem formed_mmaWarp {s : State} (h : s.formed) (f : FmtX) (sparse : Bool) (x : Clause) (k : Nat) (ls : List Nat) :
    (mmaWarp f sparse x s k ls).formed := by
  refine formed_ite h (formed_ite (formed_parkAll h ..) (formed_withTile h _ (fun s g hs => formed_withEngine hs
      (fun s hs =>
    formed_withSwatch hs _ (fun s ya hs => formed_withSwatch hs _ (fun s yb hs => ?_) ..) ..) ..) ..))
  split
  · exact formed_matTrap hs ..
  refine formed_ite (formed_matTrap hs ..) ?_
  extract_lets
  split
  · exact formed_fetchStops hs ..
  · exact formed_withTileFetch hs _ _ _ _ _ _ fun s m hs => formed_setTile hs ..

theorem formed_execMma {s : State} (h : s.formed) (f : FmtX) : Result.Formed (execMma f s) := by
  unfold execMma
  grind [formed_issue, formed_mmaWarp, result_next]

theorem formed_execMmas {s : State} (h : s.formed) (f : FmtX) : Result.Formed (execMmas f s) := by
  unfold execMmas
  grind [formed_issue, formed_mmaWarp, result_next]

theorem formed_unpin {s : State} (h : s.formed) (ls : List Nat) : (unpin s ls).formed := h

theorem formed_execMatrixOpComplete {s : State} (h : s.formed) (core : Nat) :
    Result.Formed (execMatrixOpComplete core s) := by
  unfold execMatrixOpComplete
  grind [formed_freeOwnership, formed_enginePublish, formed_settleOps, formed_lowerFlagOf, formed_modEngine,
      formed_unpin, result_next]

theorem formed_tileWarp {s : State} (h : s.formed) (t : Nat) {f : Clause → State → Nat → List Nat → List Nat → Nat →
        State} (hf : ∀ x s k ls ex g, s.formed → (f x s k ls ex g).formed) (x : Clause) (k : Nat) (ls : List Nat) :
    (tileWarp t f x s k ls).formed := by
  unfold tileWarp
  grind [formed_withTile]

theorem formed_execTzero {s : State} (h : s.formed) (f : FmtX) : Result.Formed (execTzero f s) := by
  unfold execTzero
  grind [formed_issue, formed_setTile, formed_tileWarp, result_next]

theorem formed_execTld {s : State} (h : s.formed) (f : FmtX) : Result.Formed (execTld f s) := by
  unfold execTld
  grind [formed_parkAll, formed_issue, formed_setTile, formed_withEngine, formed_matTrap, formed_withSwatch,
      formed_withTileFetch, formed_tileWarp, result_next]

theorem formed_tstDst {s : State} (h : s.formed) (c : Nat) (k : Nat) (va : Nat) (n : Nat) :
    (tstDst s c k va n).1.formed := by
  unfold tstDst
  grind [formed_resolveNow]

theorem formed_tstWrite {s : State} (hs : s.formed) (c : Nat) (k : Nat) (n : Nat) (id : Nat) (h : Hint) (row : List
        (Nat × Nat)) :
    (tstWrite s c k n id h row).formed := by
  unfold tstWrite
  grind [formed_wrMem, formed_l2Write, formed_sendPacket, formed_setLost, formed_modMat, formed_foldl,
      formed_foldl_pair]

theorem formed_tstRows {s : State} (h : s.formed) (c k g n id i j : Nat) (y : Swatch) (left r : Nat) :
    (tstRows c k g n id i j y left s r).1.formed := by
  induction left generalizing s r with
  | zero => exact h
  | succ left ih => grind [tstRows, formed_tstWrite]

theorem formed_execTst {s : State} (h : s.formed) (f : FmtX) : Result.Formed (execTst f s) := by
  refine result_next (formed_issue h _ _ fun x s k ls hs => formed_ite hs (formed_ite (formed_parkAll hs ..)
    (formed_tileWarp hs _ (fun x s k ls _ g hs => formed_withEngine hs (fun s hs => formed_withSwatch hs _
        (fun s y hs => ?_) ..) ..) ..)))
  refine formed_ite (formed_matTrap hs ..) (formed_ite (formed_matTrap hs ..) ?_)
  split
  · exact formed_parkAll hs ..
  next s1 id hown =>
    extract_lets s2
    have h2 : s2.formed := formed_openMat (formed_matOwn hs _ _ _ _ _ hown) ..
    generalize hr : tstRows _ _ _ _ _ _ _ _ _ _ _ = r
    have h3 : r.1.formed := hr ▸ formed_tstRows h2 ..
    obtain ⟨s3, _ | ⟨row, stop⟩⟩ := r
    · exact formed_closeMat (formed_freeOwnership h3 ..) ..
    · cases stop with
      | full => exact formed_parkAll (formed_modWarp (formed_dropOwnership h3 ..) ..) ..
      | _ => exact formed_fetchStops (formed_modWarp (formed_dropOwnership h3 ..) ..) ..

theorem formed_withRow {s : State} (h : s.formed) (f : FmtX) {g : State → Nat → State} (hg : ∀ s n, s.formed →
        (g s n).formed) (x : Clause) (k : Nat) (ex : List Nat) :
    (withRow f g x s k ex).formed := by
  unfold withRow
  grind [formed_matTrap]

theorem formed_execTrd {s : State} (h : s.formed) (f : FmtX) : Result.Formed (execTrd f s) := by
  unfold execTrd
  grind [formed_issue, formed_setLatches, formed_putResults, formed_tileWarp, formed_withRow, result_next]

theorem formed_execTwr {s : State} (h : s.formed) (f : FmtX) : Result.Formed (execTwr f s) := by
  unfold execTwr
  grind [formed_issue, formed_setTileWord, formed_tileWarp, formed_withRow, formed_foldl, result_next]

theorem formed_execTscl {s : State} (h : s.formed) (f : FmtX) : Result.Formed (execTscl f s) := by
  unfold execTscl
  grind [formed_issue, formed_setTile, formed_tileWarp, result_next]

theorem formed_execTrel {s : State} (h : s.formed) (f : FmtX) : Result.Formed (execTrel f s) := by
  unfold execTrel
  grind [formed_modWarp, formed_modCore, formed_raiseTrap, formed_issue, result_next]

theorem formed_execQsm {s : State} (h : s.formed) (f : FmtX) : Result.Formed (execQsm f s) := by
  unfold execQsm
  grind [formed_issue, formed_setLatches, formed_putResults, formed_dropFetched, formed_fetchStops,
      formed_withSwatch, result_next]

theorem formed_execSwinv {s : State} (h : s.formed) (f : FmtX) : Result.Formed (execSwinv f s) := by
  unfold execSwinv
  grind [formed_modCore, formed_issue, result_next]

theorem formed_execSpgen {s : State} (h : s.formed) (f : FmtX) : Result.Formed (execSpgen f s) := by
  unfold execSpgen
  grind [formed_issue, formed_setLatches, formed_putResults, formed_dropFetched, formed_matTrap, formed_withSwatch,
      result_next]

end Sys2Proof.Machine
end

section
/-! PROOFS. The canonical form of memory (log 1): contexts and the system forms. -/

namespace Sys2Proof.Machine

theorem formed_seatWarp {s : State} (h : s.formed) (c : Nat) (k : Nat) (w : Warp) : (seatWarp s c k w).formed := by
  unfold seatWarp
  grind [formed_modCore]

theorem formed_loadPart {s : State} (h : s.formed) (c : Nat) (id : Nat) (part : Word) :
    (loadPart s c id part).formed := by
  unfold loadPart
  grind [formed_modCore, formed_modLaunch, formed_dropLines, formed_publishCore]

theorem formed_vaSplice {s : State} (h : s.formed) (ctx n va : Nat) (bs : List Byte) :
    ∀ t, vaSplice ctx n s va bs = some t → t.formed := by
  induction n generalizing s va bs with
  | zero => grind [vaSplice]
  | succ n ih => grind [vaSplice, formed_mk, forms_state, Forms.splice]

theorem formed_recWrite {s : State} (h : s.formed) (ctx : Nat) (va : Nat) (bs : List Byte) :
    ∀ t, recWrite s ctx va bs = some t → t.formed := by
  unfold recWrite
  grind [formed_vaSplice]

theorem formed_withdraw {s : State} (h : s.formed) (c : Nat) (slot : Nat) : (withdraw s c slot).1.formed := by
  unfold withdraw
  grind [formed_modCore, formed_drainTraps]

theorem formed_dropReissued {s : State} (h : s.formed) (c : Nat) (k : Nat) (w : Warp) :
    (dropReissued s c k w).formed := by
  unfold dropReissued
  grind [formed_sweepOps, formed_mk, forms_state]

theorem formed_unpinWarp {s : State} (h : s.formed) (c : Nat) (k : Nat) : (unpinWarp s c k).formed := by
  unfold unpinWarp
  grind [formed_modEngine, formed_unpin, formed_foldl]

theorem formed_saveWarp {s : State} (h : s.formed) (c k : Nat) (addr : DWord) : (saveWarp s c k addr).formed := by
  unfold saveWarp
  split
  · exact h
  split
  · exact h
  next w0 _ x _ =>
    extract_lets s1 s2
    have h1 : s1.formed := formed_publishCore (formed_writeBackAll (formed_dropFetched (formed_dropReissued
        (formed_dropWarp h ..) ..) ..) ..) _
    have h2 : s2.formed := by
      unfold s2
      split
      · exact formed_publishCoreWg h1 ..
      · exact h1
    split
    · extract_lets w st last v r
      generalize hw : List.foldl _ (some s2) _ = o
      cases o with
      | none => exact formed_killLaunch h2 _
      | some s3 =>
        have h3 : s3.formed := formed_foldl_bind h2 (fun _ _ _ hs ht => formed_recWrite hs _ _ _ _ ht) hw
        grind [formed_freeCore, formed_modCore, formed_unpinWarp, formed_modWg, formed_withdraw, formed_mk,
            forms_state]
    · exact h

theorem formed_saveWg {s : State} (h : s.formed) (wg : Nat) (addr : DWord) : (saveWg s wg addr).formed := by
  unfold saveWg
  grind [formed_saveWarp, formed_foldl]

theorem formed_syncRecord {s : State} (h : s.formed) (old : State) : (syncRecord old s).formed := by
  refine formed_foldl _ _ h fun s e hs => ?_
  split
  · extract_lets s1
    have h1 : s1.formed := formed_foldl _ _ hs fun _ _ hs => by
      split
      · exact formed_ite hs (formed_foldl _ _ hs fun _ _ hs => formed_ite hs (formed_vaWrite hs ..))
      · exact hs
    split
    · exact formed_ite h1 (formed_foldl _ _ h1 fun _ _ hs => formed_ite hs (formed_vaWrite hs ..))
    · exact h1
  · exact hs

theorem formed_restoreWarp {s : State} (h : s.formed) (c k wg p : Nat) :
    ∀ t, restoreWarp s c k wg p = some t → t.formed := by
  intro t ht
  unfold restoreWarp at ht
  split at ht
  · cases ht
  split at ht
  case h_2 => cases ht
  split at ht
  · cases ht
  extract_lets grs first a s1 tiles w1 w0 st keep rest v2 at ht
  split at ht
  · cases ht
  split at ht
  · cases ht
  extract_lets s2 s3 w2 s4 s5 s6 s7 s8 s9 at ht
  have h1 : s1.formed := by
    unfold s1
    generalize (if first = true then NMap.at? _ _ else none) = o
    cases o with
    | some b => exact formed_modStore h c _ fun _ hx => Mem.wf_splice _ _ _ hx
    | none => exact h
  have h2 : s2.formed := formed_modStore h1 c _ fun _ hx => Mem.wf_splice _ _ _ hx
  have h3 : s3.formed := formed_foldl _ _ h2 fun _ _ hs => formed_modStore hs c _ fun _ hx => Mem.wf_splice _ _ _ hx
  have h5 : s5.formed := formed_ite (formed_modEngine (formed_seatWarp h3 ..) ..) (formed_seatWarp h3 ..)
  have h6 : s6.formed := by
    unfold s6
    cases st with
    | some u => exact formed_modCore h5 c _ fun _ => rfl
    | none => exact h5
  have h8 : s8.formed := h6
  have h9 : s9.formed := formed_foldl _ _ h8 fun _ _ hs => formed_pushTrap hs ..
  cases ht
  exact formed_deliverOwed (formed_acquire (formed_openSides h9 _) ..) ..

theorem formed_execTrap {s : State} (h : s.formed) (f : FmtS) : Result.Formed (execTrap f s) := by
  unfold execTrap
  grind [formed_raiseTrap, formed_issue, result_next]

theorem formed_execBrk {s : State} (h : s.formed) : Result.Formed (execBrk s) := by
  unfold execBrk
  grind [formed_raiseTrap, formed_issue, result_next]

theorem formed_execTnext {s : State} (h : s.formed) (f : FmtA) : Result.Formed (execTnext f s) := by
  unfold execTnext
  grind [formed_parkAll, formed_issue, formed_arithWarp, result_next]

theorem formed_slotForm {s : State} (h : s.formed) (f : FmtS) {act : State → Nat → Nat → Nat → Option State}
        (hact : ∀ s a b c t, s.formed → act s a b c = some t → t.formed) (x : Clause) (k : Nat) (ls : List Nat) :
    (slotForm f act x s k ls).formed := by
  unfold slotForm
  grind [formed_writePreds, formed_foldl]

theorem formed_resumeSlot {s : State} (h : s.formed) (m : ResumeKind) (c : Nat) (v : Nat) (_b : Nat) :
    ∀ t, resumeSlot m s c v _b = some t → t.formed := by
  unfold resumeSlot
  grind [formed_resumeWarp, formed_resumeStream, formed_exitLanes]

theorem formed_afterDwsync {s : State} (h : s.formed) {f : WarpStep} (hf : ∀ x s k ls, s.formed →
        (f x s k ls).formed) (x : Clause) (k : Nat) (ls : List Nat) :
    (afterDwsync f x s k ls).formed := by
  unfold afterDwsync
  grind [formed_parkAll]

theorem formed_execTres {s : State} (h : s.formed) (f : FmtS) : Result.Formed (execTres f s) := by
  unfold execTres
  grind [formed_issue, formed_slotForm, formed_resumeSlot, formed_afterDwsync, result_next]

theorem formed_execTskip {s : State} (h : s.formed) (f : FmtS) : Result.Formed (execTskip f s) := by
  unfold execTskip
  grind [formed_issue, formed_patchLaunch, formed_slotForm, formed_resumeSlot, formed_afterDwsync, result_next]

theorem formed_execTstep {s : State} (h : s.formed) (f : FmtS) : Result.Formed (execTstep f s) := by
  unfold execTstep
  grind [formed_issue, formed_slotForm, formed_resumeSlot, formed_afterDwsync, result_next]

theorem formed_killSlot {s : State} (h : s.formed) (c : Nat) (v : Nat) : ∀ t, killSlot s c v = some t → t.formed := by
  unfold killSlot
  grind [formed_logEvent, formed_killLaunch, Option.map_eq_some_iff]

theorem formed_execTkill {s : State} (h : s.formed) (f : FmtS) : Result.Formed (execTkill f s) := by
  unfold execTkill
  grind [formed_issue, formed_slotForm, formed_killSlot, result_next]

theorem formed_stopSlot {s : State} (h : s.formed) (c : Nat) (v : Nat) : (stopSlot s c v).formed := by
  unfold stopSlot
  grind [formed_raiseTrap, formed_raiseStreamTrap, formed_mk, forms_state]

theorem formed_execTstop {s : State} (h : s.formed) (f : FmtS) : Result.Formed (execTstop f s) := by
  unfold execTstop
  grind [formed_issue, formed_stopSlot, formed_foldl, result_next]

theorem formed_execCsave {s : State} (h : s.formed) (f : FmtS) : Result.Formed (execCsave f s) := by
  unfold execCsave
  grind [formed_issue, formed_saveWarp, formed_slotForm, result_next]

theorem formed_loadSlot {s : State} (h : s.formed) (c : Nat) (v : Nat) (b : Nat) :
    ∀ t, loadSlot s c v b = some t → t.formed := by
  unfold loadSlot
  grind [formed_modWarp, formed_loadPart, formed_restoreWarp, Option.map_eq_some_iff]

theorem formed_execCload {s : State} (h : s.formed) (f : FmtS) : Result.Formed (execCload f s) := by
  unfold execCload
  grind [formed_issue, formed_slotForm, formed_loadSlot, result_next]

theorem formed_execCrd {s : State} (h : s.formed) (f : FmtA) : Result.Formed (execCrd f s) := by
  unfold execCrd
  grind [formed_issue, formed_arithWarp, result_next]

theorem formed_execCwr {s : State} (h : s.formed) (f : FmtS) : Result.Formed (execCwr f s) := by
  unfold execCwr
  grind [formed_modCore, formed_issue, formed_foldl, result_next]

theorem formed_execTdone {s : State} (h : s.formed) : Result.Formed (execTdone s) := by
  unfold execTdone
  grind [formed_modCore, formed_drainTraps, formed_issue, result_next]

theorem formed_execIflush {s : State} (h : s.formed) : Result.Formed (execIflush s) := by
  unfold execIflush
  grind [formed_modCore, formed_issue, result_next]

theorem formed_execDwsync {s : State} (h : s.formed) : Result.Formed (execDwsync s) := by
  unfold execDwsync
  grind [formed_issue, formed_afterDwsync, result_next]

theorem formed_execHnotify {s : State} (h : s.formed) (f : FmtS) : Result.Formed (execHnotify f s) := by
  unfold execHnotify
  grind [formed_issue, formed_mk, forms_state, formed_foldl, result_next]

theorem formed_growRegs {s : State} (h : s.formed) (c : Nat) (k : Nat) (n : Nat) (b : Nat) :
    (growRegs s c k n b).formed := by
  unfold growRegs
  grind [formed_modWarp, formed_modCore, formed_modStore, Mem.wf_splice, Mem.wf_clear, Mem.wf_wr]

theorem formed_regrowEnds {s : State} (h : s.formed) (c : Nat) (k : Nat) (pw : BitVec 3) (ok : Bool) :
    (regrowEnds s c k pw ok).formed := by
  unfold regrowEnds
  grind [formed_putPreds]

theorem formed_execRegrow {s : State} (h : s.formed) (f : FmtS) : Result.Formed (execRegrow f s) := by
  unfold execRegrow
  grind [formed_parkAll, formed_issue, formed_growRegs, formed_regrowEnds, result_next]

theorem formed_execRegshrink {s : State} (h : s.formed) (f : FmtS) : Result.Formed (execRegshrink f s) := by
  unfold execRegshrink
  grind [formed_modWarp, formed_parkAll, formed_issue, result_next]

theorem formed_unblockRegrow {s : State} (h : s.formed) (c : Nat) (k : Nat) (pw : Option (BitVec 3)) (ok : Bool) :
    (unblockRegrow s c k pw ok).formed := by
  unfold unblockRegrow
  grind [formed_passOn, formed_wakeAll, formed_regrowEnds]

theorem formed_execRegrowGrant {s : State} (h : s.formed) (core : Nat) : Result.Formed (execRegrowGrant core s) := by
  unfold execRegrowGrant
  grind [formed_growRegs, formed_unblockRegrow, formed_foldl, result_next]

theorem formed_execRegrowFailTimeout {s : State} (h : s.formed) (core : Nat) :
    Result.Formed (execRegrowFailTimeout core s) := by
  unfold execRegrowFailTimeout
  grind [formed_unblockRegrow, result_next]

theorem formed_modLq {s : State} (h : s.formed) (q : Nat) (f : LQueue → LQueue) : (State.modLq s q f).formed := h

theorem formed_submit {s : State} (h : s.formed) (q : Nat) (bytes : List Byte) : (submit s q bytes).1.formed := by
  unfold submit
  grind [formed_wrDev, formed_modLq]

theorem formed_readRecord {s : State} (h : s.formed) (c : Nat) (k : Nat) (a : Nat) :
    (readRecord s c k a).1.formed := by
  unfold readRecord
  grind [formed_resolveNow, formed_fetchLines]

theorem formed_launchLanes {s : State} (h : s.formed) (q : Nat) (pw : BitVec 3) (c k : Nat) (addr : Nat → Nat)
        (L : List Nat) :
    (launchLanes q pw c k addr s L).1.formed := by
  induction L generalizing s with
  | nil => exact h
  | cons l L ih => grind [launchLanes, formed_putPreds, formed_readRecord, formed_submit]

theorem formed_launchWarp {s : State} (h : s.formed) (f : FmtS) (x : Clause) (k : Nat) (ls : List Nat) :
    (launchWarp f x s k ls).formed := by
  refine formed_ite h (formed_ite (formed_parkAll h ..) (formed_ite (formed_raiseTrap h ..) (formed_ite
      (formed_raiseTrap h ..)
    (formed_ite (formed_raiseTrap h ..) ?_))))
  extract_lets s1 r s2 first s3 done s4 s5 s6
  have h1 : s1.formed := formed_ite h (formed_release h ..)
  have hr : r.1.formed := formed_launchLanes h1 ..
  have h2 : s2.formed := formed_ite (formed_dropFetched hr ..) hr
  have h3 : s3.formed := formed_ite (formed_putPreds h2 ..) h2
  have h5 : s5.formed := formed_stopAt (formed_passBy (s := s4.bump) (formed_parkAll h3 ..) ..) ..
  have h6 : s6.formed := formed_parkAll h5 ..
  refine formed_ite (formed_ite (formed_endStopped h3 ..) h3) ?_
  split
  · exact formed_raiseTrap h5 ..
  · exact formed_ite (formed_parkAll (formed_joinFault h6 ..) ..) (formed_parkFaults h6 ..)
  · exact formed_parkAll h5 ..

theorem formed_execLaunch {s : State} (h : s.formed) (f : FmtS) : Result.Formed (execLaunch f s) := by
  unfold execLaunch
  grind [formed_issue, formed_launchWarp, result_next]

end Sys2Proof.Machine
end

section
/-! PROOFS. The canonical form of memory (log 1): launches and collectives. -/

namespace Sys2Proof.Machine

theorem formed_lqError {s : State} (h : s.formed) (q : Nat) : (lqError s q).formed := h

theorem formed_lqDiscard {s : State} (h : s.formed) (q : Nat) : (lqDiscard s q).formed := h

theorem formed_execLaunchRegister {s : State} (h : s.formed) (q : Nat) (v : DWord) :
    Result.Formed (execLaunchRegister q v s) := by
  unfold execLaunchRegister
  grind [formed_modLq, formed_lqError, result_next]

theorem formed_execLqcfgWrite {s : State} (h : s.formed) (q : Nat) (v : DWord) :
    Result.Formed (execLqcfgWrite q v s) := by
  unfold execLqcfgWrite
  grind [formed_modLq, formed_lqError, formed_lqDiscard, result_next]

theorem formed_execLqbaseWrite {s : State} (h : s.formed) (q : Nat) (v : DWord) :
    Result.Formed (execLqbaseWrite q v s) := by
  unfold execLqbaseWrite
  grind [formed_modLq, formed_lqError, formed_lqDiscard, result_next]

theorem formed_writeDone {s : State} (h : s.formed) (x : Launch) (status : Nat) : (writeDone s x status).formed := by
  unfold writeDone
  grind [formed_wrMem]

theorem formed_reject {s : State} (h : s.formed) (q : Nat) (status : Nat) (done : Option Launch) :
    (reject s q status done).formed := by
  unfold reject
  grind [formed_modLq, formed_writeDone, formed_mk, forms_state]

theorem formed_takeHead {s : State} (h : s.formed) (q : Nat) : (takeHead s q).formed := by
  unfold takeHead
  grind [formed_modLq, formed_reject, formed_mk, forms_state]

theorem formed_pollHead {s : State} (h : s.formed) (q : Nat) : (pollHead s q).formed := by
  unfold pollHead
  grind [formed_modLaunch, formed_sendPacket, formed_reject, formed_foldl]

theorem formed_pollAll {s : State} (h : s.formed) : (pollAll s).formed := by
  unfold pollAll
  grind [formed_takeHead, formed_pollHead, formed_foldl]

theorem formed_execDependencePoll {s : State} (h : s.formed) : Result.Formed (execDependencePoll s) := by
  unfold execDependencePoll
  grind [formed_pollAll, result_next]

theorem formed_dropLate {s : State} (h : s.formed) (x : Launch) : (dropLate s x).formed := h

theorem formed_takeRecord {s : State} (h : s.formed) (id : Nat) (x : Launch) : (takeRecord s id x).formed := by
  unfold takeRecord
  grind [formed_modLaunch, formed_dropLate, formed_mk, forms_state]

theorem formed_checkHead {s : State} (h : s.formed) (q : Nat) : (checkHead s q).formed := by
  unfold checkHead
  grind [formed_reject, formed_takeRecord]

/-- A warp is seated on registers that read zero, with its workgroup's stream. -/
theorem formed_seatOne {s : State} (h : s.formed) (c k b n : Nat) (w : Warp) (t : Stream) (p : Prop) [Decidable p] :
    let s2 := seatWarp (s.modCore c (fun y => { y with store := Mem.clear y.store b n })) c k w
    (if p then s2.modCore c (fun y => { y with streams := y.streams.put k t }) else s2).formed := by
  have h2 := formed_seatWarp (formed_modStore h c (fun y => { y with store := Mem.clear y.store b n })
      fun _ hx => Mem.wf_clear _ _ _ hx) c k w
  exact formed_ite (formed_modCore h2 c _ fun _ => rfl) h2

theorem formed_seatFrom {s : State} (h : s.formed) (id wg : Nat) (x : Launch) (n : Nat) (cs : List Nat) (p : Nat) :
    ∀ t, seatFrom id wg x n s cs p = some t → t.formed := by
  fun_induction seatFrom id wg x n s cs p with
  | case1 => exact formed_of_none
  | case2 => exact formed_of_none
  | case3 => exact formed_of_some h
  | case4 n s c cs p _ s1 k b => exact formed_of_some (formed_seatOne (formed_ite h (formed_loadPart h ..)) ..)
  | case5 n s c cs p _ s1 k b _ _ w s2 s3 _ ih => exact ih (formed_seatOne (formed_ite h (formed_loadPart h ..)) ..)
  | case6 n s c cs p _ s1 _ ih => exact ih h

theorem formed_seatWg {s : State} (h : s.formed) (id : Nat) (x : Launch) (g : Nat) (cores : List Nat) :
    ∀ t, seatWg s id x g cores = some t → t.formed := by
  unfold seatWg
  grind [formed_bump, formed_openSides, formed_seatFrom, formed_mk, forms_state, Option.map_eq_some_iff]

theorem formed_placeWg {s : State} (h : s.formed) (idle : Bool) (id : Nat) (x : Launch) (g : Nat) :
    ∀ t, placeWg s idle id x g = some t → t.formed :=
  formed_of_findSome fun _ => formed_seatWg h _ _ _ _

theorem formed_placeAll {s : State} (h : s.formed) (idle : Bool) (id : Nat) (x : Launch) (n g : Nat) :
    ∀ t, placeAll idle id x n s g = some t → t.formed := by
  induction n generalizing s g with
  | zero => exact formed_of_some h
  | succ n ih => exact formed_of_bind fun _ hs => ih (formed_placeWg h _ _ _ _ _ hs) _

theorem formed_placed {s : State} (h : s.formed) (id : Nat) (q : Nat) (n : Nat) : (placed s id q n).formed := by
  unfold placed
  grind [formed_modLaunch, formed_modLq]

theorem formed_placeHead {s : State} (h : s.formed) (idle : Bool) (q : Nat) :
    ∀ t, placeHead s idle q = some t → t.formed := by
  unfold placeHead
  grind [formed_placeWg, formed_placeAll, formed_placed, Option.map_eq_some_iff]

theorem formed_serve {s : State} (h : s.formed) (level : Nat) : ∀ t, serve s level = some t → t.formed :=
  formed_of_findSome fun _ => formed_of_map fun u hu => formed_placeHead h _ _ u hu

theorem formed_serveRedo {s : State} (h : s.formed) : ∀ t, serveRedo s = some t → t.formed := by
  refine formed_of_findSome fun e => ?_
  split
  · exact formed_of_ite formed_of_none (formed_of_map fun u hu => formed_placeWg h _ _ _ _ u hu)
  · exact formed_of_none

theorem formed_execDispatchWorkgroup {s : State} (h : s.formed) : Result.Formed (execDispatchWorkgroup s) := by
  unfold execDispatchWorkgroup
  extract_lets s1
  have h1 : s1.formed := formed_foldl _ _ h fun _ _ hs => formed_checkHead (formed_pollHead
      (formed_takeHead hs ..) ..) ..
  refine result_next (formed_ite h ?_)
  cases hr : serveRedo s1 with
  | some s2 => exact formed_serveRedo h1 s2 hr
  | none => exact formed_getD (formed_of_findSome fun _ => formed_serve h1 _) h1

/-- A core without a warp of a launch that ends is released from it. -/
def releaseCore (launch _c : Nat) (y : Core) : Core := if y.launch = some launch && y.warps.isEmpty then { y with
    launch := none } else y

theorem releaseCore_store (launch : Nat) {c : Nat} (y : Core) : (releaseCore launch c y).store = y.store := by
  unfold releaseCore
  split <;> rfl

theorem formed_execDoneWordWrite {s : State} (h : s.formed) (launch : Nat) :
    Result.Formed (execDoneWordWrite launch s) := by
  refine result_next ?_
  split
  · exact h
  next x _ =>
    extract_lets s0 s1 s2 src s3
    have h0 : s0.formed := formed_foldl _ _ h fun _ _ hs => formed_writeBackAll hs ..
    have h1 : s1.formed := formed_foldl _ _ h0 fun _ _ hs => formed_publishCore hs ..
    have h2 : s2.formed := formed_writeDone h1 ..
    have h3 : s3.formed := by
      have hcores : s3.cores = s2.cores.mapV (releaseCore launch) := rfl
      exact ⟨(formed_freeOwnership h2 (.reduce launch)).mem, hcores ▸ (Forms.mapV h2
          fun _ y => releaseCore_store launch y).2⟩
    exact formed_ite h (formed_ite h0 (formed_modLq h3 ..))

theorem formed_restoreOn {s : State} (h : s.formed) (wg id : Nat) (x : Launch) (v : SavedWg) (cores : List Nat) :
    ∀ t, restoreOn s wg id x v cores = some t → t.formed := by
  intro t ht
  refine formed_foldl_bind h (fun s p t hs => ?_) ht
  split
  · exact formed_of_some hs t
  · exact formed_of_bind (fun _ _ => formed_restoreWarp (formed_ite hs (formed_loadPart hs ..)) _ _ _ _) t

theorem formed_restoreWg {s : State} (h : s.formed) (wg : Nat) : ∀ t, restoreWg s wg = some t → t.formed := by
  unfold restoreWg
  split
  · exact formed_of_none
  · split
    · exact formed_of_findSome fun _ => formed_of_ite (formed_restoreOn h _ _ _ _ _) formed_of_none
    · exact formed_of_none

theorem formed_execSwapOut {s : State} (h : s.formed) (launch : Nat) : Result.Formed (execSwapOut launch s) := by
  refine result_next ?_
  split
  · exact h
  next x _ =>
    refine formed_ite h ?_
    extract_lets old s1
    have h1 : s1.formed := by
      unfold s1
      split
      · exact formed_saveWg h ..
      · exact h
    split
    · refine formed_getD (formed_of_orElse ?_ (formed_restoreWg h1 _)) h1
      split
      · exact formed_of_ite (formed_restoreOn h1 _ _ _ _ _) formed_of_none
      · exact formed_of_none
    · split
      · exact formed_ite (formed_getD (formed_of_map fun u hu => formed_placed (formed_of_orElse
          (formed_of_bind fun _ _ => formed_of_ite (formed_seatWg h1 _ _ _ _) formed_of_none)
              (formed_placeWg h1 _ _ _ _) u hu) ..) h1) h1
      · exact h1

theorem formed_landed {s : State} (h : s.formed) (id : Nat) (c : Nat) (p : Nat) (n : Nat) :
    (landed s id c p n).formed := h

theorem formed_discardLate {s : State} (h : s.formed) (c p n : Nat) (y : Landing) :
    (discardLate s c p n y).formed := by
  unfold discardLate
  grind [formed_modLaunch, formed_logEvent, formed_mk, forms_state]

theorem formed_copyWriteHere {s : State} (h : s.formed) (q : Nat) (pa : Nat) (payload : List Byte) :
    (copyWriteHere s q pa payload).1.formed := by
  unfold copyWriteHere
  grind [formed_writePayload, formed_landed, formed_discardLate]

theorem formed_copyMulticast {s : State} (h : s.formed) (p : Packet) (tag : Nat) :
    (copyMulticast s p tag).1.formed := by
  unfold copyMulticast
  grind [formed_multicastHere, formed_landed, formed_discardLate, formed_mk, forms_state]

theorem formed_sendChunk {s : State} (h : s.formed) (id : Nat) (x : Launch) (g : Nat) (bs : List Byte) :
    (sendChunk s id x g bs).formed := by
  unfold sendChunk
  grind [formed_killLaunch, formed_sendPacket, formed_copyWriteHere, formed_copyMulticast, formed_foldl]

theorem formed_flushOne {s : State} (h : s.formed) (id : Nat) : (flushOne s id).formed := by
  unfold flushOne
  split
  · exact h
  split
  · exact h
  refine formed_ite h (formed_ite (formed_killLaunch h _) ?_)
  split
  · exact formed_modLaunch (formed_sendChunk h ..) ..
  · refine formed_foldl _ _ h fun s r hs => formed_ite hs ?_
    split
    · exact formed_sendPacket (s := s.modLaunch id _) hs _
    · exact hs

theorem formed_flushDue {s : State} (h : s.formed) : (flushDue s).formed := by
  unfold flushDue
  grind [formed_flushOne, formed_foldl]

theorem formed_sourceAnswer {s : State} (h : s.formed) (id : Nat) (off : Nat) (n : Nat) (v : Nat) :
    (sourceAnswer s id off n v).formed := h

theorem formed_execReduceBlockDispatch {s : State} (h : s.formed) (launch : Nat) :
    Result.Formed (execReduceBlockDispatch launch s) := by
  unfold execReduceBlockDispatch
  grind [formed_modLaunch, formed_modCore, formed_engineStart, result_next]

theorem formed_execCollectiveTimeout {s : State} (h : s.formed) (launch : Nat) :
    Result.Formed (execCollectiveTimeout launch s) := by
  unfold execCollectiveTimeout
  grind [formed_modLaunch, result_next]

theorem formed_reduceWrite {s : State} (h : s.formed) (ctx : Nat) (va : Nat) (bs : List Byte) :
    ∀ r, reduceWrite s ctx va bs = some r → r.1.formed := by
  unfold reduceWrite
  grind [formed_l2Write, formed_mk, forms_state, Forms.splice]

theorem formed_reduceChunkParts {t : State × List Nat} (h : t.1.formed) (x : Launch) (c : Nat) (bs : List Byte)
    (L : List (Nat × Nat × Nat)) :
    ∀ r, reduceChunkParts x c bs t L = some r → r.1.formed := by
  induction L generalizing t with
  | nil => exact fun r hr => Option.some.inj hr ▸ h
  | cons p L ih =>
    intro r hr
    unfold reduceChunkParts at hr
    split at hr
    · exact ih h r hr
    · obtain ⟨u, hu, hr⟩ := Option.bind_eq_some_iff.1 hr
      exact ih (t := (u.1, addSectors t.2 u.2)) (formed_reduceWrite h _ _ _ u hu) r hr

theorem formed_reducePass {s : State} (h : s.formed) (x : Launch) : ∀ r, reducePass s x = some r → r.1.formed := by
  have step (L : List Nat) : ∀ o : Option (State × List Nat), (∀ r, o = some r → r.1.formed) → ∀ r, L.foldl
      (fun r c => r.bind (fun t =>
      (reduceChunk s x c).bind (fun bs => reduceChunkParts x c bs t (passParts s x)))) o = some r → r.1.formed := by
    induction L with
    | nil => exact fun o ho => ho
    | cons c L ih =>
      refine fun o ho => ih _ fun r hr => ?_
      obtain ⟨t, ht, hr⟩ := Option.bind_eq_some_iff.1 hr
      obtain ⟨bs, -, hr⟩ := Option.bind_eq_some_iff.1 hr
      exact formed_reduceChunkParts (ho t ht) _ _ _ _ r hr
  exact step _ _ fun r hr => Option.some.inj hr ▸ h

theorem formed_reduceOwn {s : State} (h : s.formed) (launch : Nat) (x : Launch) :
    ∀ t, reduceOwn s launch x = some t → t.formed := by
  unfold reduceOwn
  grind [formed_engineStart]

theorem formed_execReduceBlockDone {s : State} (h : s.formed) (launch : Nat) :
    Result.Formed (execReduceBlockDone launch s) := by
  refine result_next ?_
  split
  · exact h
  next x _ =>
    refine formed_ite h ?_
    split
    · exact h
    next s0 hown =>
      have h0 : s0.formed := formed_reduceOwn h _ _ s0 hown
      extract_lets leave status n flag done
      have hleave {s : State} (hs : s.formed) : (leave s).formed := formed_modCore
          (formed_freeOwnership hs ..) _ _ fun _ => rfl
      split
      · exact formed_killLaunch (s := (leave s0).modLaunch launch _) (hleave h0) _
      next s1 sec hpass =>
        have h1 : s1.formed := formed_reducePass h0 _ _ hpass
        extract_lets s2
        have h2 : s2.formed := formed_enginePublish h1 ..
        have hflag : ∀ L : List Nat, ∀ o : Option State, (∀ s, o = some s → s.formed) → ∀ s,
            L.foldl flag o = some s → s.formed := by
          intro L
          induction L with
          | nil => exact fun o ho => ho
          | cons c L ih =>
            exact fun o ho => ih _ (formed_of_bind fun s hs => formed_of_map fun r hr => formed_reduceWrite
                (ho s hs) _ _ _ r hr)
        refine formed_ite (formed_freeOwnership h1 (.reduce launch)) ?_
        split
        next s3 hs => exact hleave (hflag _ _ (formed_of_some h2) s3 hs)
        · exact formed_killLaunch (s := done s2) (hleave h2) _

end Sys2Proof.Machine
end

section
/-! PROOFS. The canonical form of memory (log 1): packets and the fabric. -/

namespace Sys2Proof.Machine

theorem formed_discard {s : State} (h : s.formed) (p : Packet) : (discard s p).formed := by
  unfold discard
  grind [formed_logEvent]

theorem formed_receive {s : State} (h : s.formed) (kind : Nat) (p : Packet) {f : State → State} (hf : ∀ s,
        s.formed → (f s).formed) :
    (receive kind p f s).formed := by
  unfold receive
  grind [formed_discard]

theorem formed_storeAcked {s : State} (h : s.formed) (id : Nat) (l : Nat) (q : Nat) :
    (storeAcked s id l q).formed := by
  unfold storeAcked
  grind [formed_settleOps, formed_finishAtomic, formed_finishPush, formed_finishStore, formed_foldl]

theorem formed_copyAcked {s : State} (h : s.formed) (id : Nat) (l : Nat) (q : Nat) : (copyAcked s id l q).formed := by
  unfold copyAcked
  grind [formed_modOp, formed_settleOps, formed_finishStore]

theorem formed_ackOwn {s : State} (h : s.formed) (q : Nat) (tag : Nat) : (ackOwn s q tag).formed := by
  unfold ackOwn
  grind [formed_settleOps, formed_copyAnswer, formed_storeAcked, formed_copyAcked, formed_mk, forms_state, Forms.mapV]

theorem formed_oweLess {s : State} (h : s.formed) (n : Nat) (a : OwedAck) (m : Nat) : (oweLess s n a m).formed := by
  unfold oweLess
  grind [formed_sendReply, formed_mk, forms_state]

theorem formed_ackTag {s : State} (h : s.formed) (q : Nat) (tag : Nat) : (ackTag s q tag).formed := by
  unfold ackTag
  grind [formed_ackOwn, formed_oweLess]

theorem formed_answer {s : State} (h : s.formed) (p : Packet) (kind : Nat) (addr : Nat) (payload : List Byte) :
    (answer s p kind addr payload).formed := by
  unfold answer
  grind [formed_sendReplyTo, formed_ackTag]

theorem formed_notePeer {s : State} (h : s.formed) (p : Packet) : (notePeer s p).formed := by
  unfold notePeer
  grind [formed_addWriter]

theorem formed_noteRaised {s : State} (h : s.formed) (p : Packet) : (noteRaised s p).formed := by
  unfold noteRaised
  grind [formed_mk, forms_state]

theorem formed_servePeer {s : State} (h : s.formed) (p : Packet) : (servePeer s p).formed := by
  unfold servePeer
  grind [formed_wrMem, formed_l2Touch, formed_l2Write, formed_publishPkg, formed_writePayload, formed_writeHome,
      formed_answer, formed_notePeer, formed_noteRaised]

theorem formed_peerAccess {s : State} (h : s.formed) (p : Packet) : (peerAccess p s).formed := by
  unfold peerAccess
  grind [formed_discard, formed_servePeer, formed_mk, forms_state]

theorem formed_serveHeld {s : State} (h : s.formed) : (serveHeld s).formed := by
  unfold serveHeld
  grind [formed_servePeer, formed_mk, forms_state, formed_foldl]

theorem formed_execLoadRequest {s : State} (h : s.formed) (p : Packet) : Result.Formed (execLoadRequest p s) := by
  unfold execLoadRequest
  grind [formed_receive, formed_peerAccess, result_next]

theorem formed_execStore {s : State} (h : s.formed) (p : Packet) : Result.Formed (execStore p s) := by
  unfold execStore
  grind [formed_receive, formed_peerAccess, result_next]

theorem formed_execAtomic {s : State} (h : s.formed) (p : Packet) : Result.Formed (execAtomic p s) := by
  unfold execAtomic
  grind [formed_receive, formed_peerAccess, result_next]

theorem formed_execCombinedAtomic {s : State} (h : s.formed) (p : Packet) :
    Result.Formed (execCombinedAtomic p s) := by
  unfold execCombinedAtomic
  grind [formed_receive, formed_peerAccess, result_next]

theorem formed_multicastAt {s : State} (h : s.formed) (p : Packet) : (multicastAt p s).formed := by
  unfold multicastAt
  grind [formed_bump, formed_multicastHere, formed_sendReplyTo, formed_copyMulticast, formed_discard,
      formed_notePeer, formed_mk, forms_state]

theorem formed_execMulticastStore {s : State} (h : s.formed) (p : Packet) :
    Result.Formed (execMulticastStore p s) := by
  unfold execMulticastStore
  grind [formed_receive, formed_multicastAt, result_next]

theorem formed_execCopyWrite {s : State} (h : s.formed) (p : Packet) : Result.Formed (execCopyWrite p s) := by
  unfold execCopyWrite
  grind [formed_publishPkg, formed_sendReplyTo, formed_copyWriteHere, formed_discard, formed_receive,
      formed_multicastAt, result_next]

theorem formed_waitAnswer {s : State} (h : s.formed) (c : Nat) (k : Nat) (id : Nat) (a : LaneAcc) (d : Operand)
        (t : Ty) (v : Nat) (last : Bool) :
    (waitAnswer s c k id a d t v last).formed := by
  unfold waitAnswer
  grind [formed_modOp, formed_passOn, formed_waitDone]

theorem formed_loadAnswer {s : State} (h : s.formed) (id : Nat) (q : Nat) (o : MemOp) (a : LaneAcc) (bs : List Byte) :
    (loadAnswer s id q o a bs).formed := by
  unfold loadAnswer
  grind [formed_l1Fill, formed_finishLoad, formed_popReturned, formed_waitAnswer, formed_foldl]

theorem formed_atomAnswer {s : State} (h : s.formed) (id : Nat) (q : Nat) (o : MemOp) (a : LaneAcc) (op : AtomOp)
        (t : Ty) (old : Nat) :
    (atomAnswer s id q o a op t old).formed := by
  unfold atomAnswer
  grind [formed_finishAtomic, formed_foldl_pair]

theorem formed_wakeFetch {s : State} (h : s.formed) (c : Nat) : (wakeFetch s c).formed := by
  unfold wakeFetch
  grind [formed_modCore]

theorem formed_fetchAnswer {s : State} (h : s.formed) (c : Nat) (q : Nat) (pa : Nat) (bs : List Byte) :
    (fetchAnswer s c q pa bs).formed := by
  unfold fetchAnswer
  grind [formed_modCore, formed_finalizeAll, formed_wakeFetch]

theorem formed_wakeEngine {s : State} (h : s.formed) (c : Nat) (k : Nat) : (wakeEngine s c k).formed := by
  unfold wakeEngine
  grind [formed_wakeAll, formed_wakeDrain]

theorem formed_tileAnswer {s : State} (h : s.formed) (n : Nat) (bs : List Byte) : (tileAnswer s n bs).formed := by
  unfold tileAnswer
  grind [formed_modEngine, formed_wakeEngine]

theorem formed_wordAnswer {s : State} (h : s.formed) (id : Nat) (i : Nat) (v : Nat) :
    (wordAnswer s id i v).formed := h

theorem formed_regionAnswer {s : State} (h : s.formed) (bs : List Byte) : (regionAnswer s bs).formed := h

theorem formed_replyTag {s : State} (h : s.formed) (p : Packet) : (replyTag s p).formed := by
  unfold replyTag
  grind [formed_wakeDrain, formed_settleOps, formed_finalizePops, formed_copyAnswer, formed_jobAnswer,
      formed_sourceAnswer, formed_loadAnswer, formed_atomAnswer, formed_fetchAnswer, formed_tileAnswer,
      formed_wordAnswer, formed_regionAnswer]

theorem formed_execLoadReply {s : State} (h : s.formed) (p : Packet) : Result.Formed (execLoadReply p s) := by
  unfold execLoadReply
  grind [formed_receive, formed_replyTag, result_next]

theorem formed_execAcknowledgement {s : State} (h : s.formed) (p : Packet) :
    Result.Formed (execAcknowledgement p s) := by
  unfold execAcknowledgement
  grind [formed_receive, formed_ackTag, result_next]

theorem formed_execInvalidPacket {s : State} (h : s.formed) (p : Packet) : Result.Formed (execInvalidPacket p s) := by
  unfold execInvalidPacket
  grind [formed_discard, result_next]

theorem formed_direct {s : State} (h : s.formed) (p : Packet) : ∀ t, direct s p = some t → t.formed := by
  unfold direct
  grind [formed_mk, forms_state]

theorem formed_forward {s : State} (h : s.formed) (p : Packet) : ∀ t, forward s p = some t → t.formed := by
  unfold forward
  grind [formed_direct]

theorem formed_execRelayedPacket {s : State} (h : s.formed) (a : Arrival) :
    Result.Formed (execRelayedPacket a s) := by
  unfold execRelayedPacket
  grind [formed_discard, formed_forward, formed_mk, forms_state, result_next]

theorem formed_settleInputs {s : State} (h : s.formed) (old : State) : (settleInputs old s).formed := by
  unfold settleInputs
  grind [formed_mk, forms_state, formed_foldl]

theorem formed_retryWaiting {s : State} (h : s.formed) : (retryWaiting s).formed := by
  unfold retryWaiting
  grind [formed_sendPacket, formed_direct, formed_forward, formed_settleInputs, formed_mk, forms_state, formed_foldl]

theorem formed_execLinkDown {s : State} (h : s.formed) (port : Nat) : Result.Formed (execLinkDown port s) := by
  unfold execLinkDown
  grind [formed_mk, forms_state, result_next]

theorem formed_execLinkUp {s : State} (h : s.formed) (port : Nat) : Result.Formed (execLinkUp port s) := by
  unfold execLinkUp
  grind [formed_retryWaiting, formed_mk, forms_state, result_next]

theorem formed_execRouterHoldTimeout {s : State} (h : s.formed) (input : Nat) :
    Result.Formed (execRouterHoldTimeout input s) := by
  unfold execRouterHoldTimeout
  grind [formed_mk, forms_state, result_next]

theorem formed_drainInput {s : State} (h : s.formed) (i : Nat) : (drainInput s i).formed := by
  unfold drainInput
  grind [formed_direct, formed_mk, forms_state]

theorem formed_sendOwn {s : State} (h : s.formed) (p : Packet) : (sendOwn s p).formed := by
  unfold sendOwn
  grind [formed_direct, formed_mk, forms_state]

theorem formed_passOnToken {s : State} (h : s.formed) (epoch : Nat) : (passOnToken s epoch).formed := by
  unfold passOnToken
  grind [formed_sendOwn]

theorem formed_tokenHere {s : State} (h : s.formed) (epoch : Word) : (tokenHere s epoch).formed := by
  unfold tokenHere
  grind [formed_drainInput, formed_passOnToken, formed_mk, forms_state, formed_foldl]

theorem formed_execRecoveryToken {s : State} (h : s.formed) (p : Packet) : Result.Formed (execRecoveryToken p s) := by
  unfold execRecoveryToken
  grind [formed_receive, formed_tokenHere, result_next]

theorem formed_execTokenReissue {s : State} (h : s.formed) : Result.Formed (execTokenReissue s) := by
  unfold execTokenReissue
  grind [formed_tokenHere, result_next]

theorem formed_loseOp {s : State} (h : s.formed) (q : Nat) (id : Nat) : (loseOp q s id).formed := by
  unfold loseOp
  grind [formed_modOp, formed_setLost, formed_settleOps, formed_finishStore, formed_finalizePops, formed_finishLost,
      formed_waitAnswer, formed_foldl]

theorem formed_loseCopy {s : State} (h : s.formed) (q : Nat) (c : Nat) (ch : Nat) : (loseCopy q s c ch).formed := by
  unfold loseCopy
  grind [formed_setLost, formed_modCmd, formed_copyAdvance, formed_copyAnswer]

theorem formed_loseEngine {s : State} (h : s.formed) (q c : Nat) : (loseEngine q s c).formed := by
  unfold loseEngine
  extract_lets e hit s1 s2 gone s3 s4
  have h1 : s1.formed := formed_foldl _ _ h fun _ _ hs => formed_setLost hs ..
  have h3 : s3.formed := formed_foldl _ _ (formed_modEngine h1 ..) fun _ _ hs => formed_wakeEngine hs ..
  have h4 : s4.formed := formed_modCore h3 c _ fun _ => rfl
  refine formed_wakeFetch (formed_foldl _ _ h4 fun _ _ hs => formed_foldl _ _ hs fun _ _ hs => ?_) c
  split
  · exact formed_noteFetch hs ..
  · exact hs

theorem formed_loseForwards {s : State} (h : s.formed) (q : Nat) : (loseForwards q s).formed := by
  unfold loseForwards
  grind [formed_oweLess, formed_mk, forms_state, formed_foldl]

theorem formed_declareLost {s : State} (h : s.formed) (q : Nat) : (declareLost s q).formed := by
  unfold declareLost
  grind [formed_logEvent, formed_finalizeAll, formed_discard, formed_regionAnswer, formed_settleInputs,
      formed_passOnToken, formed_loseOp, formed_loseCopy, formed_loseEngine, formed_loseForwards, formed_mk,
      forms_state, formed_foldl]

theorem formed_sendNotices {s : State} (h : s.formed) (q : Nat) : (sendNotices s q).formed := by
  unfold sendNotices
  grind [formed_sendOwn, formed_foldl]

theorem formed_declareFirst {s : State} (h : s.formed) (q : Nat) : (declareFirst s q).formed := by
  unfold declareFirst
  grind [formed_declareLost, formed_sendNotices]

theorem formed_execLossNotice {s : State} (h : s.formed) (p : Packet) : Result.Formed (execLossNotice p s) := by
  unfold execLossNotice
  grind [formed_receive, formed_declareLost, result_next]

theorem formed_execLossTimeout {s : State} (h : s.formed) (pkg : Nat) : Result.Formed (execLossTimeout pkg s) := by
  unfold execLossTimeout
  grind [formed_declareFirst, result_next]

theorem formed_execFatalErrorReport {s : State} (h : s.formed) (pkg : Nat) :
    Result.Formed (execFatalErrorReport pkg s) := by
  unfold execFatalErrorReport
  grind [formed_declareFirst, result_next]

theorem formed_execFxmcdataWrite {s : State} (h : s.formed) (v : DWord) : Result.Formed (execFxmcdataWrite v s) := by
  unfold execFxmcdataWrite
  grind [formed_mk, forms_state, result_next]

theorem formed_execMcUpdateDone {s : State} (h : s.formed) : Result.Formed (execMcUpdateDone s) := by
  unfold execMcUpdateDone
  grind [formed_mk, forms_state, result_next]

end Sys2Proof.Machine
end

section
/-! PROOFS. The canonical form of memory (log 1): translation, runs, reliability and power. -/

namespace Sys2Proof.Machine

theorem formed_walkFails {s : State} (h : s.formed) (c : Nat) (k : Nat) (cause : Nat) (ls : List Nat) :
    (walkFails s c k cause ls).formed := by
  unfold walkFails
  grind [formed_deliverKilled, formed_joinFault, formed_parkAll]

theorem formed_execTranslationWalkDone {s : State} (h : s.formed) (core : Nat) (ctx : Nat) (va : DWord) :
    Result.Formed (execTranslationWalkDone core ctx va s) := by
  unfold execTranslationWalkDone
  grind [formed_translateNow, formed_wakeAll, formed_walkFails, formed_foldl, result_next]

theorem formed_invDrop {s : State} (h : s.formed) (v : DWord) : (invDrop s v).formed := by
  unfold invDrop
  grind [formed_mk, forms_state, Forms.mapV]

theorem formed_xlinv {s : State} (h : s.formed) (kind : Nat) (v : DWord) : (xlinv kind v s).formed := by
  unfold xlinv
  grind [formed_invDrop, formed_mk, forms_state]

theorem formed_execXlinvGranule {s : State} (h : s.formed) (cmd : DWord) :
    Result.Formed (execXlinvGranule cmd s) := by
  unfold execXlinvGranule
  grind [formed_xlinv, result_next]

theorem formed_execXlinvContext {s : State} (h : s.formed) (cmd : DWord) :
    Result.Formed (execXlinvContext cmd s) := by
  unfold execXlinvContext
  grind [formed_xlinv, result_next]

theorem formed_execXlinvAll {s : State} (h : s.formed) (cmd : DWord) : Result.Formed (execXlinvAll cmd s) := by
  unfold execXlinvAll
  grind [formed_xlinv, result_next]

theorem formed_execXlinvComplete {s : State} (h : s.formed) : Result.Formed (execXlinvComplete s) := by
  unfold execXlinvComplete
  grind [formed_invDrop, formed_mk, forms_state, result_next]

theorem formed_answered {s : State} (h : s.formed) (id : Nat) : (answered s id).formed := by
  unfold answered
  grind [formed_writeFaults, formed_mk, forms_state]

theorem formed_endOrphans {s : State} (h : s.formed) (id : Nat) : (endOrphans s id).formed := by
  unfold endOrphans
  grind [formed_modCore, formed_freeCore, formed_foldl]

theorem formed_wakeSaved {s : State} (h : s.formed) (id : Nat) : (wakeSaved s id).formed := h

theorem formed_execFqresumeResume {s : State} (h : s.formed) (idx : BitVec 12) :
    Result.Formed (execFqresumeResume idx s) := by
  unfold execFqresumeResume
  grind [formed_modStream, formed_wakeAll, formed_modCmd, formed_answered, formed_endOrphans, formed_wakeSaved,
      formed_foldl, result_next]

theorem formed_killWarp {s : State} (h : s.formed) (r : FaultRec) (c : Nat) (k : Nat) (ls : List Nat) :
    (killWarp r s c k ls).formed := by
  unfold killWarp
  grind [formed_modWarp, formed_deliverOwed, formed_deliverKilled, formed_freeKept, formed_parkAll, formed_passOn]

theorem formed_killSaved {s : State} (h : s.formed) (r : FaultRec) : (killSaved r s).formed := by
  unfold killSaved
  grind [formed_killMat, formed_mk, forms_state, formed_foldl]

theorem formed_execFqresumeKill {s : State} (h : s.formed) (idx : BitVec 12) :
    Result.Formed (execFqresumeKill idx s) := by
  unfold execFqresumeKill
  grind [formed_killStream, formed_engineTrap, formed_killCopy, formed_answered, formed_endOrphans, formed_wakeSaved,
      formed_killWarp, formed_killSaved, formed_foldl, result_next]

theorem formed_execFqtailWrite {s : State} (h : s.formed) (v : DWord) : Result.Formed (execFqtailWrite v s) := by
  unfold execFqtailWrite
  grind [formed_writeFaults, formed_mk, forms_state, result_next]

theorem formed_execFqbaseWrite {s : State} (h : s.formed) (v : DWord) : Result.Formed (execFqbaseWrite v s) := by
  unfold execFqbaseWrite
  grind [formed_mk, forms_state, result_next]

theorem formed_haltClauses {s : State} (h : s.formed) : (haltClauses s).formed := h

theorem formed_prError {s : State} (h : s.formed) : (prError s).formed := h

theorem formed_execPreempt {s : State} (h : s.formed) (v : DWord) : Result.Formed (execPreempt v s) := by
  unfold execPreempt
  grind [formed_haltClauses, formed_prError, formed_mk, forms_state, result_next]

theorem formed_discardWg {s : State} (h : s.formed) (wg : Nat) : (discardWg s wg).formed := by
  unfold discardWg
  grind [formed_modLaunch, formed_exitLanes, formed_dropStopped, formed_foldl]

theorem formed_preemptWg {s : State} (h : s.formed) (wg : Nat) : (preemptWg s wg).formed := by
  unfold preemptWg
  grind [formed_saveWg, formed_discardWg, formed_mk, forms_state]

theorem formed_execPreemptSaveComplete {s : State} (h : s.formed) : Result.Formed (execPreemptSaveComplete s) := by
  unfold execPreemptSaveComplete
  grind [formed_preemptWg, formed_mk, forms_state, formed_foldl, result_next]

theorem formed_resumeEnds {s : State} (h : s.formed) (order : List Nat) : (resumeEnds s order).formed := h

theorem formed_execResume {s : State} (h : s.formed) (v : DWord) : Result.Formed (execResume v s) := by
  unfold execResume
  grind [formed_prError, formed_resumeEnds, formed_mk, forms_state, result_next]

theorem formed_execContextRestore {s : State} (h : s.formed) (wg : Nat) :
    Result.Formed (execContextRestore wg s) := by
  unfold execContextRestore
  grind [formed_restoreWg, formed_resumeEnds, result_next]

theorem formed_rpError {s : State} (h : s.formed) : (rpError s).formed := h

theorem formed_execRprun {s : State} (h : s.formed) (v : DWord) : Result.Formed (execRprun v s) := by
  unfold execRprun
  grind [formed_rpError, formed_mk, forms_state, result_next]

theorem formed_openRun {s : State} (h : s.formed) (o : RunOpen) : (openRun s o).formed := h

theorem formed_hashRegions {s : State} (h : s.formed) (n : Nat) (o : RunOpen) : (hashRegions n s o).formed := by
  induction n generalizing s o with
  | zero => exact h
  | succ n ih => grind [hashRegions, formed_openRun, formed_sendPacket, formed_mk, forms_state]

theorem formed_driveRun {s : State} (h : s.formed) (old : State) : (driveRun old s).formed := by
  unfold driveRun
  grind [formed_hashRegions]

theorem formed_execRpclose {s : State} (h : s.formed) (v : DWord) : Result.Formed (execRpclose v s) := by
  unfold execRpclose
  grind [formed_rpError, formed_mk, forms_state, result_next]

theorem formed_wakeCourse {s : State} (h : s.formed) (c : Nat) : (wakeCourse s c).formed := by
  unfold wakeCourse
  grind [formed_acquire, formed_passOn, formed_foldl]

theorem formed_execCourseCommit {s : State} (h : s.formed) : Result.Formed (execCourseCommit s) := by
  unfold execCourseCommit
  grind [formed_takeSnapshot, formed_dfReleaseAll, formed_wakeCourse, formed_mk, forms_state, result_next]

theorem formed_execRpend {s : State} (h : s.formed) (v : DWord) : Result.Formed (execRpend v s) := by
  unfold execRpend
  grind [formed_rpError, formed_mk, forms_state, Forms.splice, result_next]

theorem formed_execGetMeasurements {s : State} (h : s.formed) (block : BitVec 8) (signed : Bool) :
    Result.Formed (execGetMeasurements block signed s) := by
  unfold execGetMeasurements
  grind [formed_mk, forms_state, result_next]

theorem formed_recommend {s : State} (h : s.formed) (u : ErrUnit) : (recommend s u).formed := by
  unfold recommend
  grind [formed_logEvent, formed_mk, forms_state]

theorem formed_thisHour {s : State} (h : s.formed) : (thisHour s).formed := by
  unfold thisHour
  grind [formed_mk, forms_state]

theorem formed_countError {s0 : State} (h : s0.formed) (u : ErrUnit) : (countError s0 u).formed := by
  unfold countError
  grind [formed_recommend, formed_thisHour, formed_mk, forms_state]

theorem formed_dropClean {s : State} (h : s.formed) (u : ErrUnit) (addr : Nat) : (dropClean s u addr).formed := by
  unfold dropClean
  grind [formed_modCore, formed_mk, forms_state]

theorem formed_noteSubst {s : State} (h : s.formed) : (noteSubst s).formed := by
  unfold noteSubst
  grind [formed_mk, forms_state]

theorem formed_replaceAppCore {s : State} (h : s.formed) (u : ErrUnit) (d : Nat) : (replaceAppCore s u d).formed := by
  unfold replaceAppCore
  grind [formed_logEvent, formed_noteSubst, formed_mk, forms_state]

theorem formed_execCorrectedError {s : State} (h : s.formed) (unit : ErrUnit) (kind : ErrKind) (addr : DWord) :
    Result.Formed (execCorrectedError unit kind addr s) := by
  unfold execCorrectedError
  grind [formed_logEvent, formed_countError, formed_dropClean, formed_noteSubst, formed_replaceAppCore, formed_mk,
      forms_state, result_next]

theorem formed_execErrorCountHour {s : State} (h : s.formed) : Result.Formed (execErrorCountHour s) := by
  unfold execErrorCountHour
  grind [formed_thisHour, result_next]

theorem formed_execLaneFailure {s : State} (h : s.formed) (port : Nat) : Result.Formed (execLaneFailure port s) := by
  unfold execLaneFailure
  grind [formed_logEvent, formed_recommend, formed_noteSubst, formed_mk, forms_state, result_next]

theorem formed_execFlitCrcFail {s : State} (h : s.formed) (port : Nat) : Result.Formed (execFlitCrcFail port s) := by
  unfold execFlitCrcFail
  grind [formed_countError, result_next]

theorem formed_subcmd {s : State} (h : s.formed) (kind : Nat) (v : DWord) : (subcmd kind v s).formed := by
  unfold subcmd
  grind [formed_mk, forms_state]

theorem formed_execSubcmdCore {s : State} (h : s.formed) (v : DWord) : Result.Formed (execSubcmdCore v s) := by
  unfold execSubcmdCore
  grind [formed_subcmd, result_next]

theorem formed_execSubcmdSlice {s : State} (h : s.formed) (v : DWord) : Result.Formed (execSubcmdSlice v s) := by
  unfold execSubcmdSlice
  grind [formed_subcmd, result_next]

theorem formed_execSubcmdChannel {s : State} (h : s.formed) (v : DWord) : Result.Formed (execSubcmdChannel v s) := by
  unfold execSubcmdChannel
  grind [formed_subcmd, result_next]

theorem formed_freshCore {s : State} (h : s.formed) (c : Nat) : (freshCore s c).formed := by
  unfold freshCore
  grind [formed_modCore, formed_dropLines]

theorem formed_execSubstitutionDone {s : State} (h : s.formed) : Result.Formed (execSubstitutionDone s) := by
  unfold execSubstitutionDone
  grind [formed_logEvent, formed_noteSubst, formed_freshCore, formed_mk, forms_state, result_next]

theorem formed_execElreadWrite {s : State} (h : s.formed) (v : DWord) : Result.Formed (execElreadWrite v s) := by
  unfold execElreadWrite
  grind [formed_logEvent, formed_mk, forms_state, result_next]

theorem formed_execElckpt {s : State} (h : s.formed) (v : DWord) : Result.Formed (execElckpt v s) := by
  unfold execElckpt
  grind [formed_checkpoint, result_next]

theorem formed_pwError {s : State} (h : s.formed) : (pwError s).formed := h

theorem formed_execPwclkWrite {s : State} (h : s.formed) (v : DWord) : Result.Formed (execPwclkWrite v s) := by
  unfold execPwclkWrite
  grind [formed_pwError, formed_mk, forms_state, result_next]

theorem formed_execClockChangeEffective {s : State} (h : s.formed) : Result.Formed (execClockChangeEffective s) := by
  unfold execClockChangeEffective
  grind [formed_mk, forms_state, result_next]

theorem formed_execPwgateWrite {s : State} (h : s.formed) (v : DWord) : Result.Formed (execPwgateWrite v s) := by
  unfold execPwgateWrite
  grind [formed_pwError, formed_mk, forms_state, result_next]

theorem formed_execPwrefWrite {s : State} (h : s.formed) (v : DWord) : Result.Formed (execPwrefWrite v s) := by
  unfold execPwrefWrite
  grind [formed_pwError, formed_mk, forms_state, result_next]

theorem formed_execPwtripclr {s : State} (h : s.formed) (v : DWord) : Result.Formed (execPwtripclr v s) := by
  unfold execPwtripclr
  grind [formed_pwError, formed_mk, forms_state, result_next]

theorem formed_execThermalTrip {s : State} (h : s.formed) (die : Nat) (temp : Nat) :
    Result.Formed (execThermalTrip die temp s) := by
  unfold execThermalTrip
  grind [formed_logEvent, formed_mk, forms_state, result_next]

theorem formed_execHostCommandedPowerDown {s : State} (h : s.formed) :
    Result.Formed (execHostCommandedPowerDown s) := by
  unfold execHostCommandedPowerDown
  grind [formed_checkpoint, formed_mk, forms_state, result_next]

theorem formed_enableDispatch {s : State} (h : s.formed) : (enableDispatch s).formed := h

theorem formed_execControlCoreFirmwareReload {s : State} (h : s.formed) (core : Nat) (ctx : Nat) (pc : DWord) :
    Result.Formed (execControlCoreFirmwareReload core ctx pc s) := by
  unfold execControlCoreFirmwareReload
  grind [formed_modCore, formed_enableDispatch, formed_mk, forms_state, result_next]

theorem formed_bootEntry {s : State} (h : s.formed) (old : State) : (bootEntry old s).formed := by
  unfold bootEntry
  grind [formed_checkpoint, formed_mk, forms_state, Forms.wrBytes]

theorem formed_stateReset : State.reset.formed := ⟨rfl, fun _ he => absurd he List.not_mem_nil⟩

theorem formed_execReset (s : State) : Result.Formed (execReset s) := by
  refine result_next (formed_ite (formed_bootEntry ?_ _) ?_) <;> exact formed_stateReset

end Sys2Proof.Machine
end

section
/-! PROOFS. The canonical form of memory (log 1): registers and streams. -/

namespace Sys2Proof.Machine

theorem formed_writeXl {s : State} (h : s.formed) (off : Nat) (v : DWord) : Result.Formed (writeXl off v s) := by
  unfold writeXl
  grind [formed_xlinv, formed_execFqresumeResume, formed_execFqresumeKill, formed_execFqtailWrite,
      formed_execFqbaseWrite, formed_mk, forms_state, result_next]

theorem formed_writeFx {s : State} (h : s.formed) (off : Nat) (v : DWord) : Result.Formed (writeFx off v s) := by
  unfold writeFx
  grind [formed_execFxmcdataWrite, formed_mk, forms_state, result_next]

theorem formed_writeLq {s : State} (h : s.formed) (off : Nat) (v : DWord) : Result.Formed (writeLq off v s) := by
  unfold writeLq
  grind [formed_execLaunchRegister, formed_execLqcfgWrite, formed_execLqbaseWrite, result_next]

theorem formed_writeArea {s : State} (h : s.formed) (off : Nat) (v : DWord) : Result.Formed (writeArea off v s) := by
  unfold writeArea
  grind [formed_mk, forms_state, result_next]

theorem formed_writePr {s : State} (h : s.formed) (off : Nat) (v : DWord) : Result.Formed (writePr off v s) := by
  unfold writePr
  grind [formed_prError, formed_execPreempt, formed_execResume, formed_mk, forms_state, result_next]

theorem formed_writeRp {s : State} (h : s.formed) (off : Nat) (v : DWord) : Result.Formed (writeRp off v s) := by
  unfold writeRp
  grind [formed_execRprun, formed_execRpclose, formed_execRpend, result_next]

theorem formed_writeEl {s : State} (h : s.formed) (off : Nat) (v : DWord) : Result.Formed (writeEl off v s) := by
  unfold writeEl
  grind [formed_subcmd, formed_execElreadWrite, formed_execElckpt, result_next]

theorem formed_writePw {s : State} (h : s.formed) (off : Nat) (v : DWord) : Result.Formed (writePw off v s) := by
  unfold writePw
  grind [formed_execPwclkWrite, formed_execPwgateWrite, formed_execPwrefWrite, formed_execPwtripclr, result_next]

theorem formed_regWrite {s : State} (h : s.formed) (a : Nat) (v : DWord) : Result.Formed (regWrite a v s) := by
  unfold regWrite
  grind [formed_writeXl, formed_writeFx, formed_writeLq, formed_writeArea, formed_writePr, formed_writeRp,
      formed_writeEl, formed_writePw, result_next]

theorem formed_execRegisterWrite {s : State} (h : s.formed) (addr : DWord) (v : DWord) :
    Result.Formed (execRegisterWrite addr v s) := by
  unfold execRegisterWrite
  grind [formed_regWrite, result_refused]

theorem formed_appStore {s : State} (h : s.formed) (a : Nat) (bs : List Byte) : (appStore s a bs).formed := by
  unfold appStore
  grind [formed_publishPkg, formed_mk, forms_state, Forms.splice]

theorem formed_execApplicationCoreMemoryAccess {s : State} (h : s.formed) (acc : AppAccess) :
    Result.Formed (execApplicationCoreMemoryAccess acc s) := by
  unfold execApplicationCoreMemoryAccess
  grind [formed_regWrite, formed_appStore, formed_mk, forms_state, result_next, result_fault]

theorem formed_endStreamClause {s : State} (h : s.formed) : (endStreamClause s).formed := h

theorem formed_streamWait {s : State} (h : s.formed) (c : Nat) (k : Nat) (w : Wait) :
    (streamWait s c k w).1.formed := by
  unfold streamWait
  grind [formed_modStream]

theorem formed_streamTrap {s : State} (h : s.formed) (x : Clause) (k : Nat) (cause : Nat) (detail : Nat) (addr : Nat) :
    (streamTrap x s k cause detail addr).1.formed := by
  unfold streamTrap
  grind [formed_raiseStreamTrap]

theorem formed_stream {s : State} (h : s.formed) (i : Instr) {f : StreamStep} (hf : ∀ x s k t, s.formed →
    (f x s k t).1.formed) :
    (stream i f s).formed := by
  unfold stream
  split
  · exact h
  next x _ _ =>
    split
    next k _ =>
      split
      · exact formed_endStreamClause h
      next t _ =>
        refine formed_ite (formed_streamNext h ..) ?_
        extract_lets r
        have hr : r.1.formed := by
          unfold r
          split
          · exact formed_streamTrap h ..
          · exact hf _ _ _ _ h
        split
        · exact formed_streamNext hr ..
        · exact formed_endStreamClause hr
        · exact formed_ite (formed_raiseStreamTrap (formed_endStreamClause (formed_modStream hr ..)) ..)
            (formed_endStreamClause (formed_modStream hr ..))
    · exact h

theorem formed_streamWrite {s : State} (h : s.formed) (c : Nat) (k : Nat) (p : Pos) (d : Operand) (v : Nat) :
    (streamWrite s c k p d v).formed := by
  unfold streamWrite
  grind [formed_modStream]

theorem formed_streamArith {s : State} (h : s.formed) (f : FmtA) (g : Nat → Nat → Nat → Nat) (x : Clause) (k : Nat)
        (t : Stream) :
    (streamArith f g x s k t).1.formed := by
  unfold streamArith
  grind [formed_streamWrite]

theorem formed_execAadd {s : State} (h : s.formed) (f : FmtA) : Result.Formed (execAadd f s) := by
  unfold execAadd
  grind [formed_stream, formed_streamArith, result_next]

theorem formed_execAsub {s : State} (h : s.formed) (f : FmtA) : Result.Formed (execAsub f s) := by
  unfold execAsub
  grind [formed_stream, formed_streamArith, result_next]

theorem formed_execAmad {s : State} (h : s.formed) (f : FmtA) : Result.Formed (execAmad f s) := by
  unfold execAmad
  grind [formed_stream, formed_streamArith, result_next]

theorem formed_execAmovi {s : State} (h : s.formed) (f : FmtI) : Result.Formed (execAmovi f s) := by
  unfold execAmovi
  grind [formed_stream, formed_streamWrite, result_next]

theorem formed_execAmin {s : State} (h : s.formed) (f : FmtA) : Result.Formed (execAmin f s) := by
  unfold execAmin
  grind [formed_stream, formed_streamArith, result_next]

theorem formed_execAand {s : State} (h : s.formed) (f : FmtA) : Result.Formed (execAand f s) := by
  unfold execAand
  grind [formed_stream, formed_streamArith, result_next]

theorem formed_execAshr {s : State} (h : s.formed) (f : FmtA) : Result.Formed (execAshr f s) := by
  unfold execAshr
  grind [formed_stream, formed_streamArith, result_next]

theorem formed_streamFault {s : State} (h : s.formed) (x : Clause) (k : Nat) (t : Stream) (kind : AccKind)
        (write : Bool) (cause : Nat) (va : Nat) :
    (streamFault x s k t kind write cause va).1.formed := by
  unfold streamFault
  grind [formed_joinFault, formed_streamWait, formed_streamTrap]

theorem formed_aloopStep {s : State} (h : s.formed) (f : FmtB) (x : Clause) (k : Nat) (t : Stream) :
    (aloopStep f x s k t).1.formed := by
  unfold aloopStep
  grind [formed_modStream, formed_fetchLine, formed_streamWait, formed_streamTrap, formed_streamFault]

theorem formed_execAloop {s : State} (h : s.formed) (f : FmtB) : Result.Formed (execAloop f s) := by
  unfold execAloop
  grind [formed_stream, formed_aloopStep, result_next]

theorem formed_execAend {s : State} (h : s.formed) : Result.Formed (execAend s) := by
  unfold execAend
  grind [formed_modStream, formed_streamTrap, formed_stream, result_next]

theorem formed_rowPlaces {s : State} (h : s.formed) (c : Nat) (t : Stream) (va : Nat) (write : Bool) :
    (rowPlaces s c t va write).1.formed := by
  unfold rowPlaces
  grind [formed_resolveNow]

theorem formed_rowRead {s : State} (hs : s.formed) (h : Hint) (t : Stream) (ps : List (Place × Nat)) :
    (rowRead s h t ps).1.formed := by
  unfold rowRead
  grind [formed_l2Touch, formed_foldl]

theorem formed_streamOp {s : State} (h : s.formed) (c : Nat) (k : Nat) (o : MemOp) : (streamOp s c k o).1.formed := by
  unfold streamOp
  grind [formed_bump, formed_raiseStreamFlag, formed_mk, forms_state]

theorem formed_rowAsk {s : State} (hs : s.formed) (c : Nat) (k : Nat) (h : Hint) (ps : List (Place × Nat))
        (have_ : List (Option Word)) :
    (rowAsk s c k h ps have_).1.formed := by
  unfold rowAsk
  grind [formed_performMask, formed_streamWait, formed_streamOp]

theorem formed_rowPush {s : State} (h : s.formed) (x : Clause) (f : FmtM) (q : Nat) (va : Nat) (k : Nat) (t : Stream) :
    (rowPush x f q va s k t).1.formed := by
  unfold rowPush
  grind [formed_modStream, formed_queueAdd, formed_streamWait, formed_streamTrap, formed_streamFault,
      formed_rowPlaces, formed_rowRead, formed_rowAsk]

theorem formed_streamMem {s : State} (h : s.formed) (qs : List Nat) {f : StreamStep} (hf : ∀ x s k t, s.formed →
        (f x s k t).1.formed) (x : Clause) (k : Nat) (t : Stream) :
    (streamMem qs f x s k t).1.formed := by
  unfold streamMem
  grind [formed_streamWait, formed_streamTrap]

theorem formed_execAld {s : State} (h : s.formed) (f : FmtM) : Result.Formed (execAld f s) := by
  unfold execAld
  grind [formed_resolveNow, formed_streamTrap, formed_stream, formed_streamFault, formed_streamOp, formed_streamMem,
      result_next]

theorem formed_execApush {s : State} (h : s.formed) (f : FmtM) : Result.Formed (execApush f s) := by
  unfold execApush
  grind [formed_stream, formed_rowPush, formed_streamMem, result_next]

theorem formed_gatherRows {s : State} (h : s.formed) (x : Clause) (f : FmtM) (k n : Nat) :
    (gatherRows x f k n s).1.formed := by
  induction n generalizing s with
  | zero => exact h
  | succ n ih => grind [gatherRows, formed_rowPush, formed_modStream]

theorem formed_execAgath {s : State} (h : s.formed) (f : FmtM) : Result.Formed (execAgath f s) := by
  unfold execAgath
  grind [formed_modStream, formed_writeBackAll, formed_queueDrop, formed_streamWait, formed_streamTrap,
      formed_stream, formed_streamMem, formed_gatherRows, result_next]

theorem formed_rowWrite {s : State} (hs : s.formed) (h : Hint) (ps : List (Place × Nat)) (ws : List Word) :
    (rowWrite s h ps ws).formed := by
  unfold rowWrite
  grind [formed_wrMem, formed_wrStore, formed_l2Write, formed_foldl]

theorem formed_astStep {s : State} (h : s.formed) (f : FmtM) (x : Clause) (k : Nat) (t : Stream) :
    (astStep f x s k t).1.formed := by
  unfold astStep
  grind [formed_freeOwnership, formed_engineStart, formed_enginePublish, formed_queueDrop, formed_performMask,
      formed_streamWait, formed_streamTrap, formed_streamFault, formed_rowPlaces, formed_streamOp, formed_rowWrite]

theorem formed_execAst {s : State} (h : s.formed) (f : FmtM) : Result.Formed (execAst f s) := by
  unfold execAst
  grind [formed_stream, formed_streamMem, formed_astStep, result_next]

theorem formed_execApf {s : State} (h : s.formed) (f : FmtM) : Result.Formed (execApf f s) := by
  unfold execApf
  grind [formed_resolveNow, formed_fillFor, formed_stream, formed_foldl, result_next]

theorem formed_execAfence {s : State} (h : s.formed) (f : FmtS) : Result.Formed (execAfence f s) := by
  unfold execAfence
  grind [formed_writeBackAll, formed_fenceNow, formed_streamWait, formed_stream, result_next]

theorem formed_execAstop {s : State} (h : s.formed) : Result.Formed (execAstop s) := by
  unfold execAstop
  grind [formed_modStream, formed_streamWait, formed_stream, result_next]

end Sys2Proof.Machine
end

section
/-! PROOFS. The canonical form of memory (log 1): clauses and the step. -/

namespace Sys2Proof.Machine

theorem formed_ageCands {s : State} (h : s.formed) : (ageCands s).formed := by
  unfold ageCands
  grind [formed_mk, forms_state, Forms.mapV]

theorem formed_entryTrap {s : State} (h : s.formed) (c : Nat) (x : Cand) (cause : Nat) (detail : Nat) (addr : DWord) :
    (entryTrap s c x cause detail addr).formed := by
  unfold entryTrap
  grind [formed_raiseTrap, formed_foldl]

theorem formed_entryFault {s : State} (h : s.formed) (c : Nat) (x : Cand) (cause : Nat) :
    (entryFault s c x cause).formed := by
  unfold entryFault
  grind [formed_joinFault, formed_parkAll, formed_entryTrap, formed_foldl]

theorem formed_enterLanes {s : State} (h : s.formed) (c : Nat) (pc : DWord) (ls : List LaneRef) :
    (enterLanes s c pc ls).formed := by
  unfold enterLanes
  grind [formed_modWarp, formed_foldl]

theorem formed_fly {s : State} (h : s.formed) (c : Nat) (p : Picker) (pc : DWord) (l : Line) (ls : List LaneRef) :
    (fly s c p pc l ls).formed := h

theorem formed_startLine {s : State} (h : s.formed) (c : Nat) (p : Nat) (x : Cand) (l : Line) :
    (startLine s c p x l).formed := by
  unfold startLine
  grind [formed_entryTrap, formed_enterLanes, formed_fly]

theorem formed_partClause {s : State} (h : s.formed) (c : Nat) (p : Nat) : (partClause s c p).formed := by
  unfold partClause
  grind [formed_parkAll, formed_fetchLine, formed_noteFetch, formed_entryTrap, formed_entryFault, formed_startLine,
      formed_foldl]

theorem formed_streamClause {s : State} (h : s.formed) (c : Nat) (k : Nat) : (streamClause s c k).formed := by
  unfold streamClause
  grind [formed_modStream, formed_raiseStreamTrap, formed_fetchLine, formed_streamFault, formed_fly]

theorem formed_controlClause {s : State} (h : s.formed) (c : Nat) : (controlClause s c).formed := by
  unfold controlClause
  grind [formed_modCtrl, formed_haltControl, formed_fetchLine, formed_fly]

theorem formed_execClauseStart {s : State} (h : s.formed) (core : Nat) (picker : Picker) :
    Result.Formed (execClauseStart core picker s) := by
  unfold execClauseStart
  grind [formed_partClause, formed_streamClause, formed_controlClause, formed_mk, forms_state, result_next]

theorem formed_undecoded {s : State} (h : s.formed) (x : Clause) (e : DecodeError) : (undecoded s x e).formed := by
  unfold undecoded
  grind [formed_haltControl, formed_raiseTrap, formed_raiseStreamTrap, formed_mk, forms_state, formed_foldl]

theorem formed_aimed {s : State} (h : s.formed) (x : Clause) : (aimed s x).formed := h

theorem formed_pauseOver {s : State} (h : s.formed) (c k l : Nat) : (pauseOver s c k l).formed := by
  refine formed_foldl _ _ h fun _ _ hs => ?_
  split
  · exact formed_execPauseExpiry hs _ _ _ _ ‹_›
  · exact hs

theorem formed_autoRun {s : State} (h : s.formed) (a : Auto) : Result.Formed (Auto.run a s) := by
  unfold Auto.run
  grind [formed_evictOne, formed_execMemoryAccessDone, formed_execRejoinRelease, formed_execWaitaRecheck,
      formed_execBarrierPhaseComplete, formed_execBarrierDeadlock, formed_execConvergenceTimeout,
      formed_execCollectiveIssue, formed_execGridbarComplete, formed_execTokenArrives, formed_execGraceComplete,
      formed_execInternalGrace, formed_execQueuePushUnblock, formed_execQueuePopUnblock, formed_execWaitwpWake,
      formed_execCopyAccept, formed_execCopyLineDelivered, formed_execCopyDone, formed_execArrivalReport,
      formed_execPopBarrierClose, formed_execStragglerDeadline, formed_execTileBindGrant, formed_execTileBindTimeout,
      formed_execLeaseHandoff, formed_execMatrixOpComplete, formed_execRegrowGrant, formed_execRegrowFailTimeout,
      formed_execDispatchWorkgroup, formed_execDoneWordWrite, formed_execSwapOut, formed_execReduceBlockDispatch,
      formed_execReduceBlockDone, formed_execMcUpdateDone, formed_execTranslationWalkDone, formed_execXlinvComplete,
      formed_execPreemptSaveComplete, formed_execContextRestore, formed_execCourseCommit,
      formed_execSubstitutionDone, formed_execClockChangeEffective, formed_execClauseStart, formed_pauseOver,
      result_next]

theorem formed_firstAuto {s : State} (h : s.formed) (L : List Auto) : (firstAuto s L).formed := by
  induction L with
  | nil => exact h
  | cons a L ih =>
    unfold firstAuto
    split
    · exact formed_ite ih (formed_autoRun h a _ ‹_›)
    · exact ih

theorem formed_of_todo_done {s t : State} (h : s.formed) (ht : todo s = .done t) : t.formed := by
  unfold todo at ht
  grind [formed_undecoded, formed_firstAuto, formed_mk, forms_state]

theorem formed_of_todo_run {s t : State} {i : Instr} (h : s.formed) (ht : todo s = .run i t) : t.formed := by
  unfold todo at ht
  grind [formed_aimed, formed_mk, forms_state]

theorem formed_wakeRecords {s : State} (h : s.formed) (old : State) : (wakeRecords old s).formed := by
  unfold wakeRecords
  grind [formed_wakeWait, formed_mk, forms_state, Forms.mapV]

theorem formed_afterStep {s : State} (h : s.formed) (old : State) : (afterStep old s).formed := by
  unfold afterStep
  grind [formed_serveHome, formed_stepSettle, formed_driveJobs, formed_syncRecord, formed_flushDue, formed_serveHeld,
      formed_settleInputs, formed_driveRun, formed_ageCands, formed_wakeRecords, formed_mk, forms_state]

theorem exec_dispatchWorkgroup (s) : exec .dispatchWorkgroup s = execDispatchWorkgroup s := rfl

theorem formed_exec {s : State} (h : s.formed) (i : Instr) : Result.Formed (exec i s) := by
  cases i with
  | add _ | sub _ | mul _ | mulhi _ | mad _ | div _ | rem _ | min _ | max _ | abs _ | neg _ | and _ | or _ | xor _
  | not _ | shl _
  | shr _ | rot _ | popc _ | clz _ | ctz _ | brev _ | bfx _ | bfi _ | cmp _ | sel _ | mov _ | movi _ | lut3 _
  | plut3 _ | ppack _
  | punpack _ | lea _ | addc _ | subc _ | mulw _ | madw _ | pack _ | regaddr _ | peeraddr _ | spaddr _ | alignup _
  | inrange _ | lpc _
  | fadd _ | fsub _ | fmul _ | fma _ | fadd2 _ | fdot2 _ | fmin _ | fmax _ | fminp _ | fmaxp _ | fclamp _ | fabs _
  | fneg _
  | fcopysign _ | fsign _ | fabsdiff _ | fcmp _ | fclass _ | frnd _ | ffract _ | fscale _ | fgetexp _ | fgetman _
  | fhsel _ | faddF64 _
  | fsubF64 _ | fmulF64 _ | fmaF64 _ | fadd2F64 _ | fminF64 _ | fmaxF64 _ | fcmpF64 _ | frndF64 _ | fdivF64 _
  | fsqrtF64 _ | fclassF64 _
  | cvt _ | cvtF2i _ | cvtI2f _ | cvtI2i _ | cvtPk2 _ | cvtPk4 _ | cvtUnpk2 _ | cvtUnpk4 _ | cvtsc _ | cvtscPk4 _
  | cvtQ4 _ | cvtF32Q4 _
  | rcp _ | sqrt _ | rsqrt _ | fdivF32 _ | exp2 _ | log2 _ | exp _ | log _ | sinpi _ | cospi _ | tanh _
  | logistic _ | push _ | pop _
  | rndkCg10 _ | unif _ | addlw _ | lwcvt _ | lwf _ | lwe _ | rdarch _ =>
    exact result_next (formed_arith h ..)
  | ld _ | st _ | ld4 _ | st4 _ | lds _ | sts _ | lds4 _ | sts4 _ | stmc _ | ldu _ | ldl _ | stl _ | zline _
  | cwb _ | cinv _ | atom _
  | cas _ | red _ | fatom _ | fred _ | atominc _ | atomdec _ | atoms _ | cass _ | reds _ | fatoms _ | freds _ =>
    exact result_next (formed_memory h ..)
  | vote _ | ballot _ | lred _ | flred _ | scan _ | fscan _ | peers _ | same _ | present _ | first _ | rndCg10 _
  | rnd4Cg10 _ | rkey _ =>
    exact result_next (formed_cross h ..)
  | xlAt _ | xlBelow _ | xlAbove _ | xlXor _ | quadx _ | quadb _ =>
    exact result_next (formed_shuffle h ..)
  | bra f => exact formed_execBra h f
  | brt f => exact formed_execBrt h f
  | brx f => exact formed_execBrx h f
  | call f => exact formed_execCall h f
  | callx f => exact formed_execCallx h f
  | enrol f => exact formed_execEnrol h f
  | rejoin f => exact formed_execRejoin h f
  | bclr f => exact formed_execBclr h f
  | bread f => exact formed_execBread h f
  | pf f => exact formed_execPf h f
  | fence f => exact formed_execFence h f
  | waita f => exact formed_execWaita h f
  | bar f => exact formed_execBar h f
  | barArrive f => exact formed_execBarArrive h f
  | barWait f => exact formed_execBarWait h f
  | cwait f => exact formed_execCwait h f
  | rowhold f => exact formed_execRowhold h f
  | rsecBegin f => exact formed_execRsecBegin h f
  | rsdepth f => exact formed_execRsdepth h f
  | grace f => exact formed_execGrace h f
  | dfree f => exact formed_execDfree h f
  | balloc f => exact formed_execBalloc h f
  | bfree f => exact formed_execBfree h f
  | bpstat f => exact formed_execBpstat h f
  | pause f => exact formed_execPause h f
  | qpeek f => exact formed_execQpeek h f
  | qcfg f => exact formed_execQcfg h f
  | qstat f => exact formed_execQstat h f
  | cpy f => exact formed_execCpy h f
  | cpy2d f => exact formed_execCpy2d h f
  | cpymc f => exact formed_execCpymc h f
  | cpfill f => exact formed_execCpfill h f
  | ldwp f => exact formed_execLdwp h f
  | waitwp f => exact formed_execWaitwp h f
  | cpkill f => exact formed_execCpkill h f
  | pwadd f => exact formed_execPwadd h f
  | rsb f => exact formed_execRsb h f
  | psetroot f => exact formed_execPsetroot h f
  | mma f => exact formed_execMma h f
  | mmas f => exact formed_execMmas h f
  | tzero f => exact formed_execTzero h f
  | tld f => exact formed_execTld h f
  | tst f => exact formed_execTst h f
  | trd f => exact formed_execTrd h f
  | twr f => exact formed_execTwr h f
  | tscl f => exact formed_execTscl h f
  | trel f => exact formed_execTrel h f
  | qsm f => exact formed_execQsm h f
  | swinv f => exact formed_execSwinv h f
  | spgen f => exact formed_execSpgen h f
  | trap f => exact formed_execTrap h f
  | tnext f => exact formed_execTnext h f
  | tres f => exact formed_execTres h f
  | tskip f => exact formed_execTskip h f
  | tstep f => exact formed_execTstep h f
  | tkill f => exact formed_execTkill h f
  | tstop f => exact formed_execTstop h f
  | csave f => exact formed_execCsave h f
  | cload f => exact formed_execCload h f
  | crd f => exact formed_execCrd h f
  | cwr f => exact formed_execCwr h f
  | hnotify f => exact formed_execHnotify h f
  | regrow f => exact formed_execRegrow h f
  | regshrink f => exact formed_execRegshrink h f
  | launch f => exact formed_execLaunch h f
  | aloop f => exact formed_execAloop h f
  | aadd f => exact formed_execAadd h f
  | asub f => exact formed_execAsub h f
  | amad f => exact formed_execAmad h f
  | amovi f => exact formed_execAmovi h f
  | amin f => exact formed_execAmin h f
  | aand f => exact formed_execAand h f
  | ashr f => exact formed_execAshr h f
  | ald f => exact formed_execAld h f
  | apush f => exact formed_execApush h f
  | agath f => exact formed_execAgath h f
  | ast f => exact formed_execAst h f
  | apf f => exact formed_execApf h f
  | afence f => exact formed_execAfence h f
  | memoryAccessDone op mask => exact formed_execMemoryAccessDone h op mask
  | clauseStart core picker => exact formed_execClauseStart h core picker
  | launchRegister q v => exact formed_execLaunchRegister h q v
  | lqcfgWrite q v => exact formed_execLqcfgWrite h q v
  | lqbaseWrite q v => exact formed_execLqbaseWrite h q v
  | registerWrite addr v => exact formed_execRegisterWrite h addr v
  | applicationCoreMemoryAccess acc => exact formed_execApplicationCoreMemoryAccess h acc
  | waitaRecheck core slot lane => exact formed_execWaitaRecheck h core slot lane
  | barrierPhaseComplete wg bar => exact formed_execBarrierPhaseComplete h wg bar
  | barrierDeadlock wg => exact formed_execBarrierDeadlock h wg
  | gridbarComplete launch => exact formed_execGridbarComplete h launch
  | tokenArrives launch => exact formed_execTokenArrives h launch
  | graceComplete snap => exact formed_execGraceComplete h snap
  | internalGrace span => exact formed_execInternalGrace h span
  | pauseExpiry core slot lane => exact formed_execPauseExpiry h core slot lane
  | queuePushUnblock wg q => exact formed_execQueuePushUnblock h wg q
  | queuePopUnblock wg q => exact formed_execQueuePopUnblock h wg q
  | copyAccept core ch => exact formed_execCopyAccept h core ch
  | copyDone core ch => exact formed_execCopyDone h core ch
  | waitwpWake core slot lane => exact formed_execWaitwpWake h core slot lane
  | collectiveIssue core slot => exact formed_execCollectiveIssue h core slot
  | rejoinRelease core slot bar => exact formed_execRejoinRelease h core slot bar
  | convergenceTimeout core slot => exact formed_execConvergenceTimeout h core slot
  | popBarrierClose pop => exact formed_execPopBarrierClose h pop
  | stragglerDeadline pop => exact formed_execStragglerDeadline h pop
  | arrivalReport pop particle weight root => exact formed_execArrivalReport h pop particle weight root
  | matrixOpComplete core => exact formed_execMatrixOpComplete h core
  | leaseHandoff core => exact formed_execLeaseHandoff h core
  | tileBindGrant core => exact formed_execTileBindGrant h core
  | tileBindTimeout core => exact formed_execTileBindTimeout h core
  | regrowGrant core => exact formed_execRegrowGrant h core
  | regrowFailTimeout core => exact formed_execRegrowFailTimeout h core
  | translationWalkDone core ctx va => exact formed_execTranslationWalkDone h core ctx va
  | xlinvGranule cmd => exact formed_execXlinvGranule h cmd
  | xlinvContext cmd => exact formed_execXlinvContext h cmd
  | xlinvAll cmd => exact formed_execXlinvAll h cmd
  | fqresumeResume idx => exact formed_execFqresumeResume h idx
  | fqresumeKill idx => exact formed_execFqresumeKill h idx
  | fqtailWrite v => exact formed_execFqtailWrite h v
  | fqbaseWrite v => exact formed_execFqbaseWrite h v
  | doneWordWrite launch => exact formed_execDoneWordWrite h launch
  | swapOut launch => exact formed_execSwapOut h launch
  | reduceBlockDispatch launch => exact formed_execReduceBlockDispatch h launch
  | collectiveTimeout launch => exact formed_execCollectiveTimeout h launch
  | reduceBlockDone launch => exact formed_execReduceBlockDone h launch
  | loadRequest p => exact formed_execLoadRequest h p
  | store p => exact formed_execStore h p
  | atomic p => exact formed_execAtomic h p
  | combinedAtomic p => exact formed_execCombinedAtomic h p
  | loadReply p => exact formed_execLoadReply h p
  | acknowledgement p => exact formed_execAcknowledgement h p
  | multicastStore p => exact formed_execMulticastStore h p
  | copyWrite p => exact formed_execCopyWrite h p
  | recoveryToken p => exact formed_execRecoveryToken h p
  | lossNotice p => exact formed_execLossNotice h p
  | invalidPacket p => exact formed_execInvalidPacket h p
  | fatalErrorReport pkg => exact formed_execFatalErrorReport h pkg
  | routerHoldTimeout input => exact formed_execRouterHoldTimeout h input
  | lossTimeout pkg => exact formed_execLossTimeout h pkg
  | flitCrcFail port => exact formed_execFlitCrcFail h port
  | laneFailure port => exact formed_execLaneFailure h port
  | linkDown port => exact formed_execLinkDown h port
  | linkUp port => exact formed_execLinkUp h port
  | fxmcdataWrite v => exact formed_execFxmcdataWrite h v
  | preempt v => exact formed_execPreempt h v
  | resume v => exact formed_execResume h v
  | contextRestore wg => exact formed_execContextRestore h wg
  | rprun v => exact formed_execRprun h v
  | rpclose v => exact formed_execRpclose h v
  | rpend v => exact formed_execRpend h v
  | getMeasurements block signed => exact formed_execGetMeasurements h block signed
  | elreadWrite v => exact formed_execElreadWrite h v
  | elckpt v => exact formed_execElckpt h v
  | subcmdCore v => exact formed_execSubcmdCore h v
  | subcmdSlice v => exact formed_execSubcmdSlice h v
  | subcmdChannel v => exact formed_execSubcmdChannel h v
  | pwclkWrite v => exact formed_execPwclkWrite h v
  | pwgateWrite v => exact formed_execPwgateWrite h v
  | pwrefWrite v => exact formed_execPwrefWrite h v
  | pwtripclr v => exact formed_execPwtripclr h v
  | thermalTrip die temp => exact formed_execThermalTrip h die temp
  | correctedError unit kind addr => exact formed_execCorrectedError h unit kind addr
  | copyLineDelivered core ch => exact formed_execCopyLineDelivered h core ch
  | relayedPacket p => exact formed_execRelayedPacket h p
  | controlCoreFirmwareReload core ctx pc => exact formed_execControlCoreFirmwareReload h core ctx pc
  | nop => exact formed_execNop h
  | ret => exact formed_execRet h
  | exit => exact formed_execExit h
  | gridbar => exact formed_execGridbar h
  | rowait => exact formed_execRowait h
  | ropass => exact formed_execRopass h
  | mile => exact formed_execMile h
  | rsecEnd => exact formed_execRsecEnd h
  | macq => exact formed_execMacq h
  | mrel => exact formed_execMrel h
  | brk => exact formed_execBrk h
  | tdone => exact formed_execTdone h
  | iflush => exact formed_execIflush h
  | dwsync => exact formed_execDwsync h
  | aend => exact formed_execAend h
  | astop => exact formed_execAstop h
  | xlinvComplete => exact formed_execXlinvComplete h
  | dependencePoll => exact formed_execDependencePoll h
  | dispatchWorkgroup => 
    rw [exec_dispatchWorkgroup]
    exact formed_execDispatchWorkgroup h
  | tokenReissue => exact formed_execTokenReissue h
  | mcUpdateDone => exact formed_execMcUpdateDone h
  | preemptSaveComplete => exact formed_execPreemptSaveComplete h
  | courseCommit => exact formed_execCourseCommit h
  | substitutionDone => exact formed_execSubstitutionDone h
  | errorCountHour => exact formed_execErrorCountHour h
  | reset => exact formed_execReset s
  | clockChangeEffective => exact formed_execClockChangeEffective h
  | hostCommandedPowerDown => exact formed_execHostCommandedPowerDown h

theorem formed_step {s : State} (h : s.formed) : Result.Formed (step s) := by
  unfold step
  split
  next t ht => exact result_next (formed_afterStep (formed_of_todo_done h ht) s)
  next i t ht =>
    have hex := formed_exec (formed_of_todo_run h ht) i
    split
    next u hu => exact result_next (formed_afterStep (hex u hu) s)
    · exact result_fault _
    · exact result_refused _

/-- Settles O44: every step keeps the lists of memory in canonical form, `formed_step`. -/
theorem memoryStaysFormed : Obligations.MemoryStaysFormed :=
  fun _ t h ht => formed_step h t ht

end Sys2Proof.Machine
end
